-- ==== Sys2Proof/Word.lean ====
section
/-! DEFINITION. The word types of the SKX4032 and the plainest reading of a bit field (R6, R7). -/

namespace Sys2Proof

/-- One byte. -/
abbrev Byte := BitVec 8

/-- A 64-bit register, parameter or table word. -/
abbrev Word := BitVec 64

/-- A 32-bit instruction word or register. -/
abbrev Word32 := BitVec 32

/-- NAME[lo + len - 1 : lo] of a vector, as a number (R7). -/
def fld {n : Nat} (v : BitVec n) (lo len : Nat) : Nat := (v.toNat >>> lo) % 2 ^ len

/-- The field read as a signed two's-complement number. -/
def sfld {n : Nat} (v : BitVec n) (lo len : Nat) : Int := (v.extractLsb' lo len).toInt

/-- The vector with `val` in bits [lo + len - 1 : lo] and every other bit as before. -/
def ins {n : Nat} (v : BitVec n) (lo len val : Nat) : BitVec n :=
  (v &&& ~~~(BitVec.ofNat n (2 ^ len - 1) <<< lo)) ||| (BitVec.ofNat n (val % 2 ^ len) <<< lo)

/-- A Bool as a bit. -/
def b2n (b : Bool) : Nat := if b then 1 else 0

end Sys2Proof
end

