-- ==== Sys2Proof/Syntax.lean ====
section
/-! DEFINITION. The commands of the block: one constructor of `Instr` per row of spec/opcode_table.json, in the
table's order. A row of the instruction set carries the context that executes it and the 32-bit instruction word;
a row of a command carries the command's queue and sequence number; a register write carries the writing
function and the value; an event carries what happened. -/

namespace Sys2Proof

/-- A core: die 0–31 and core number 0–19 (R20). -/
structure CoreRef where
  die : BitVec 5
  core : BitVec 5
  deriving DecidableEq, Repr

/-- A context of a core (R140). -/
structure CtxRef where
  die : BitVec 5
  core : BitVec 5
  ctx : BitVec 2
  deriving DecidableEq, Repr

/-- A command in flight: its queue and SEQ (R228). -/
structure CmdRef where
  queue : BitVec 14
  seq : BitVec 32
  deriving DecidableEq, Repr

/-- A feed transfer: of a FEED_* command, or of a context by its tag (R252). -/
inductive XferRef where
  | cmd (c : CmdRef)
  | cp1 (c : CtxRef) (tag : BitVec 2)
  deriving DecidableEq, Repr

/-- The power-gated units (R133). -/
inductive GUnit where
  | vxu | vgu
  deriving DecidableEq, Repr

/-- What the check symbols of one read show (R172, R194 to R197). -/
inductive Ecc where
  | clean | corrected | uncorrectable
  deriving DecidableEq, Repr

/-- The reader of host memory (R263). -/
inductive HostReader where
  | feed (t : XferRef)
  | ligature (group : BitVec 10) (die : BitVec 5)
  | instruction (c : CtxRef) (va : Word)
  | scribe (queue : BitVec 14)
  deriving DecidableEq, Repr

/-- What a host link and its partner have negotiated (R256): the rate in units of 0.5 GT/s, the width in lanes, FLIT mode,
the largest payload and the largest read request in bytes. (PRESUMED: log entry 7). -/
structure LinkMode where
  rate : Nat := 5
  width : Nat := 16
  flit : Bool := false
  maxPayload : Nat := 128
  maxRead : Nat := 512
  deriving DecidableEq, Repr

/-- A host link that has trained, and the mode that it has negotiated (R256, R258). -/
structure LinkUp where
  link : BitVec 2
  mode : LinkMode
  deriving DecidableEq, Repr

/-- A host link's reset: by PERST#, or by a loss of the link (R264, R352). -/
structure LinkReset where
  link : BitVec 2
  perst : Bool
  deriving DecidableEq, Repr

/-- A write to a doorbell (R226): its width in bytes and the TAIL that it writes. -/
structure DoorbellWrite where
  bytes : BitVec 4
  tail : BitVec 16
  deriving DecidableEq, Repr

/-- An image slot of the board flash (R358): the public key's coordinates, the signature, the body's digest and the security
version of its header, and the firmware of its body. (DESIGN CHOICE: log entry 65). -/
structure Machine.ImageSlot where
  keyX : BitVec 384
  keyY : BitVec 384
  sigR : BitVec 384
  sigS : BitVec 384
  digest : BitVec 384
  version : Nat
  mmc : List Byte
  computeDie : List Byte
  portDie : List Byte
  deriving DecidableEq, Repr

/-- How a device read of host memory ends (R263). -/
inductive HostReadEnd where
  | data (link : BitVec 2) (addr : Word) (bytes : List Byte)
  | urOrCa
  | poisoned
  deriving DecidableEq, Repr

/-- What starts a module reset (R352). -/
inductive ResetCause where
  | pin
  | goBit (fn : BitVec 6)
  deriving DecidableEq, Repr

/-- A request path to the MMC (R368 to R370). -/
inductive MmcPath where
  | i3c
  | mailbox (fn : BitVec 6)
  deriving DecidableEq, Repr

/-- A memory or die access kind. -/
inductive Access where
  | read | write | fetch
  deriving DecidableEq, Repr

/-- One sample of the MMC's sensors (R399). -/
structure SensorReading where
  vin : BitVec 16
  iin : BitVec 16
  pin : BitVec 16
  inlet : BitVec 8
  outlet : BitVec 8
  ports : List Byte
  uptime : Word
  deriving DecidableEq, Repr

/-- A checksum comparison that faulty cells disturb (R84 to R86): the pass in flight (the oldest is 0) and its member,
block, row or column, KIND, the output-stationary drain or the hatched slice pass (8 × stationary slice + streamed slice),
and what the fault adds to the accumulated sum, in units of 2^-300 (of 1 in a slice pass). -/
structure ChecksumFail where
  pass : Nat
  part : Nat
  block : BitVec 4
  index : BitVec 13
  kind : BitVec 2
  step : BitVec 6
  err : Int
  deriving DecidableEq, Repr

/-- A component whose failure fails the module (R347). -/
inductive FailSource where
  | portDie (p : BitVec 2)
  | hostLink (l : BitVec 2)
  | scribe (d : BitVec 5)
  deriving DecidableEq, Repr

/-- The commands (spec/opcode_table.json, row by row). -/
inductive Instr where
  | setk (c : CtxRef) (w : Word32)
  | addpc (c : CtxRef) (w : Word32)
  | gol (c : CtxRef) (w : Word32)
  | gor (c : CtxRef) (w : Word32)
  | jcond (c : CtxRef) (w : Word32)
  | load (c : CtxRef) (w : Word32)
  | store (c : CtxRef) (w : Word32)
  | ldf (c : CtxRef) (w : Word32)
  | stf (c : CtxRef) (w : Word32)
  | aluImmediate (c : CtxRef) (w : Word32)
  | aluRegister (c : CtxRef) (w : Word32)
  | multiply (c : CtxRef) (w : Word32)
  | divide (c : CtxRef) (w : Word32)
  | fpArith (c : CtxRef) (w : Word32)
  | fpMinmax (c : CtxRef) (w : Word32)
  | fpCompare (c : CtxRef) (w : Word32)
  | fpSign (c : CtxRef) (w : Word32)
  | dtoi (c : CtxRef) (w : Word32)
  | itod (c : CtxRef) (w : Word32)
  | fpMove (c : CtxRef) (w : Word32)
  | atomic (c : CtxRef) (w : Word32)
  | fenceCore (c : CtxRef) (w : Word32)
  | fenceDie (c : CtxRef) (w : Word32)
  | fenceDev (c : CtxRef) (w : Word32)
  | fenceSys (c : CtxRef) (w : Word32)
  | fenceCode (c : CtxRef) (w : Word32)
  | srd (c : CtxRef) (w : Word32)
  | swr (c : CtxRef) (w : Word32)
  | smw (c : CtxRef) (w : Word32)
  | hret (c : CtxRef) (w : Word32)
  | pause (c : CtxRef) (w : Word32)
  | done (c : CtxRef) (w : Word32)
  | bmov (c : CtxRef) (w : Word32)
  | bfill (c : CtxRef) (w : Word32)
  | bcmp (c : CtxRef) (w : Word32)
  | bscan (c : CtxRef) (w : Word32)
  | blockRepeatStep (c : CtxRef) (w : Word32)
  | interruptEntry (c : CtxRef)
  | alarmExpire (c : CtxRef)
  | contextWatchdog (c : CtxRef)
  | coprocessorAbsent (c : CtxRef) (w : Word32)
  | mdset (c : CtxRef) (w : Word32)
  | mm (c : CtxRef) (w : Word32)
  | mmAccept (k : CoreRef)
  | cursiveGroupClose (k : CoreRef)
  | arrayChecksumFault (k : CoreRef) (f : ChecksumFail)
  | mmPassComplete (k : CoreRef) (i : Nat)
  | vfp (c : CtxRef) (w : Word32)
  | vint (c : CtxRef) (w : Word32)
  | vcmp (c : CtxRef) (w : Word32)
  | vxf (c : CtxRef) (w : Word32)
  | vwake (c : CtxRef) (w : Word32)
  | vcvt (c : CtxRef) (w : Word32)
  | vmv (c : CtxRef) (w : Word32)
  | vbcx (c : CtxRef) (w : Word32)
  | vbcf (c : CtxRef) (w : Word32)
  | viota (c : CtxRef) (w : Word32)
  | vsldn (c : CtxRef) (w : Word32)
  | vslup (c : CtxRef) (w : Word32)
  | vsumF (c : CtxRef) (w : Word32)
  | vmaxF (c : CtxRef) (w : Word32)
  | vminF (c : CtxRef) (w : Word32)
  | vsumI (c : CtxRef) (w : Word32)
  | vpopc (c : CtxRef) (w : Word32)
  | vfirst (c : CtxRef) (w : Word32)
  | vld (c : CtxRef) (w : Word32)
  | vst (c : CtxRef) (w : Word32)
  | vgath (c : CtxRef) (w : Word32)
  | vscat (c : CtxRef) (w : Word32)
  | vrrd (c : CtxRef) (w : Word32)
  | vrst (c : CtxRef) (w : Word32)
  | vrraw (c : CtxRef) (w : Word32)
  | vrcomb (c : CtxRef) (w : Word32)
  | vrclr (c : CtxRef) (w : Word32)
  | vedset (c : CtxRef) (w : Word32)
  | vmsk (c : CtxRef) (w : Word32)
  | vectorCommit (c : CtxRef)
  | vectorStoreDrain (c : CtxRef)
  | unitPowerDown (k : CoreRef) (u : GUnit)
  | unitWakeDone (k : CoreRef) (u : GUnit)
  | feedStart (c : CtxRef) (w : Word32)
  | feedWait (c : CtxRef) (w : Word32)
  | ligStart (c : CtxRef) (w : Word32)
  | ligWait (c : CtxRef) (w : Word32)
  | inkwellScrub (k : CoreRef) (found : Ecc)
  | inkwellClearDone (k : CoreRef)
  | dcLineFill (die : BitVec 5) (line : BitVec 31) (found : Ecc)
  | evictionWriteback (die : BitVec 5) (slice : BitVec 4)
  | ssdTrackerExpire (die : BitVec 5) (slice : BitVec 4) (i : BitVec 3)
  | stackScrub (die : BitVec 5) (channel : BitVec 7) (found : Ecc)
  | stackTempMeasure (die : BitVec 5) (temp : BitVec 8)
  | dieTempMeasure (die : BitVec 5) (temp : BitVec 8)
  | thermalClockStep
  | governorStep (avgWatts : BitVec 16) (steps : BitVec 4)
  | sensorSample (r : SensorReading)
  | walkComplete (die : BitVec 5) (fn : BitVec 6) (va : Word) (a : Access) (req : Option CtxRef)
  | faultRecordWrite (die : BitVec 5) (fn : BitVec 6) (page : BitVec 23)
  | faultRetry (fn n : BitVec 6) (tag : BitVec 16)
  | faultDecline (fn n : BitVec 6) (tag : BitVec 16)
  | faultAnswerTimeout (n : BitVec 6) (tag : BitVec 16)
  | faultQueueHeadWrite (fn n : BitVec 6) (head : BitVec 12)
  | mmuTbaseWrite (fn n : BitVec 6) (v : Word)
  | tableInitDone (n : BitVec 6)
  | mmuL2poolWrite (fn : BitVec 6) (v : Word)
  | doorbell (fn : BitVec 6) (queue : BitVec 14) (w : DoorbellWrite)
  | packetFetch (die : BitVec 5)
  | commandStart (c : CmdRef)
  | replyWrite (c : CmdRef)
  | launch (c : CmdRef)
  | feedCopy (t : XferRef)
  | feedFill (t : XferRef)
  | feedConvert (t : XferRef)
  | feedTileComplete (t : XferRef)
  | feedTransferComplete (t : XferRef)
  | semSignal (c : CmdRef)
  | semWait (c : CmdRef)
  | semWaitRetest (c : CmdRef)
  | semWaitTimeout (c : CmdRef)
  | collAllreduce (c : CmdRef)
  | collRedscat (c : CmdRef)
  | collAllgather (c : CmdRef)
  | collBcast (c : CmdRef)
  | collAlltoall (c : CmdRef)
  | collBarrier (c : CmdRef)
  | mapPage (c : CmdRef)
  | mapInkwell (c : CmdRef)
  | unmapPage (c : CmdRef)
  | unmapInkwell (c : CmdRef)
  | windowSet (c : CmdRef)
  | quotaSet (c : CmdRef)
  | reclaim (c : CmdRef)
  | reclaimDrainDone (c : CmdRef)
  | cancel (c : CmdRef)
  | cancelGraceExpire (c : CmdRef)
  | fence (c : CmdRef)
  | hintMigrate (c : CmdRef)
  | traceSet (c : CmdRef)
  | ctrSnapshot (c : CmdRef)
  | scbQctlWrite (fn : BitVec 6) (queue : BitVec 14) (v : Word)
  | coreOwnWrite (fn : BitVec 6) (k : CoreRef) (v : Word32)
  | coreClearDone (k : CoreRef)
  | frameAllocate (fn n : BitVec 6)
  | frameRelease (fn n : BitVec 6)
  | frameZeroDone (die : BitVec 5) (frame : BitVec 9)
  | compatWrite (fn : BitVec 6) (v : Word32)
  | moduleReset (cause : ResetCause)
  | powerOnReset
  | pgInFall
  | vinLoss
  | dieRelease (portDie : Bool) (i : BitVec 5)
  | railFault
  | firmwareVerify (a b : Option Machine.ImageSlot)
  | dieBringupDone (badCores badFrames : List (Nat × Nat))
  | linksStageEnd
  | discoveryMessage (port : BitVec 5) (serial : Word) (hops : List (BitVec 5 × BitVec 5))
  | discoveryForward (serial : Word)
  | discoveryEnd
  | hostLinkUp (up : LinkUp)
  | hostLinkReset (r : LinkReset)
  | functionLevelReset (n : BitVec 6)
  | hostReadCompletion (r : HostReader) (e : HostReadEnd)
  | hostReadTimeout (r : HostReader)
  | bar4Read (fn : BitVec 6) (offset : BitVec 39) (width : BitVec 7)
  | bar4Write (fn : BitVec 6) (offset : BitVec 39) (bytes : List Byte)
  | msixUnmask (n : BitVec 6) (vec : BitVec 11)
  | registerWrite (fn : BitVec 6) (offset : BitVec 28) (width : BitVec 7) (value : BitVec 512)
  | groupLoad (fn : BitVec 6) (group : BitVec 10) (v : BitVec 256)
  | groupLoadDone (group : BitVec 10)
  | groupEnd (fn : BitVec 6) (group : BitVec 10)
  | collOpStart (group : BitVec 10) (die : BitVec 5)
  | digestRoundEnd (group : BitVec 10) (die : BitVec 5)
  | ligStepEnd (group : BitVec 10) (die : BitVec 5)
  | groupTimeout (group : BitVec 10) (die : BitVec 5)
  | deferNoticeTick
  | timerPauseEnd (group : BitVec 10)
  | fmAssign (fn : BitVec 6) (v : Word)
  | fmWrite (fn : BitVec 6) (v : Word)
  | fmRead (fn : BitVec 6) (v : Word)
  | fmAnswer
  | fmTimeout
  | portEnableWrite (fn : BitVec 6) (port : BitVec 5) (en : Bool)
  | linkTrained (port : BitVec 5) (wmask : BitVec 8) (peer : Option (BitVec 10 × BitVec 5))
  | linkSlot (port : BitVec 5)
  | flitReceive (port : BitVec 5) (flit : BitVec 2048)
  | creditReturn (port : BitVec 5) (freed : List (BitVec 6 × BitVec 16))
  | nak (port : BitVec 5) (fseq : BitVec 12)
  | probe (port : BitVec 5) (lane : BitVec 6)
  | alive (port : BitVec 5) (lane : BitVec 6)
  | hold (port : BitVec 5) (lane : BitVec 6)
  | creditReset (port : BitVec 5) (lane : BitVec 6) (free : BitVec 16)
  | retrainRequest (port : BitVec 5)
  | abortFlit (port : BitVec 5) (lane : BitVec 6)
  | messageForward (port : BitVec 5) (lane : BitVec 6)
  | remoteWrite
  | readRequest
  | readResponse
  | acknowledgement
  | noticeUnreachable
  | noticeRouteError
  | ligatureData
  | ligatureDigest
  | ligatureAbort
  | thermalDefer
  | faultDefer
  | messageDeliver (src : BitVec 10) (queue : BitVec 14)
  | deliveryTimeout (queue : BitVec 14) (dest : BitVec 10) (mseq : BitVec 16)
  | wavelengthDrop (port : BitVec 5) (wave : BitVec 3) (corrected uncorrectable : BitVec 32)
  | retrainStart (port : BitVec 5)
  | retrainEnd (port : BitVec 5) (wmask : BitVec 8) (resendFrom : BitVec 12)
  | probeTimer (port : BitVec 5) (lane : BitVec 6)
  | stallDeclare (port : BitVec 5) (lane : BitVec 6)
  | replayRestart (c : CmdRef)
  | mapOutDone (die : BitVec 5)
  | armedExpire (k : CoreRef)
  | idReadRecord (p : MmcPath) (record : BitVec 4)
  | idWriteRecord (p : MmcPath) (record : BitVec 4) (bytes : List Byte)
  | idReadSensors (p : MmcPath)
  | idReadMeasurement (p : MmcPath)
  | idRequestDone
  | idMailboxTimeout
  | i3cSetdasa (addr : BitVec 7)
  | i3cPrivateRead
  | i3cReadBootHealth
  | i3cSetPowerLimit (record : BitVec 8) (bytes : List Byte)
  | vinEntersRange
  | perstDeassertion (link : BitVec 2) (bifur : Bool)
  | partnerLightLoss (port : BitVec 5)
  | mmcStop
  | dieLinkFailure (a b : BitVec 5) (portRing : Bool)
  | uncorrectableInternalError (src : FailSource)
  | numvfsWrite (fn : BitVec 6) (n : BitVec 16)
  deriving DecidableEq, Repr

end Sys2Proof
end

