-- ==== Sys2Proof/Decode.lean ====
section
/-! DEFINITION. The commands that a word of bits spells. spec/opcode_table.json gives no row of this block any bits
(every row's `fields` is empty): a command arrives with its operands, never as a word. -/

namespace Sys2Proof

/-- The command that a word spells by the table's bits: none, for the table gives no row any bits.
(DESIGN CHOICE: log entry 71). -/
def decodeTableWord (_nbits _w : Nat) : Option Instr := none

end Sys2Proof
end

