-- ==== Sys2Proof/Config.lean ====
section
/-! DEFINITION. The free values: what the spec leaves open and the hardware goes on with. Each is an opaque
constant with no body, so that no proof can see its value. `notes/assumptions` names each of them. -/

namespace Sys2Proof.Config

/-- An error that arises in a nanosecond: in a row of a core's inkwell, correctable or not (R172), in a vector register (R331), in
the blotter record of a command in flight (R336), or a correctable one of a host link (R263). -/
inductive Upset where
  | inkwell (core row : Nat) (hard : Bool)
  | vector (core ctx reg : Nat)
  | blotter (i : Nat)
  | link (l : Nat)
  deriving DecidableEq, Repr

/-- Which such error, if any, arises (R172, R263, R331, R336). (DESIGN CHOICE: log entry 16). -/
opaque upset (n : Nat) : Option Upset

/-- The entropy source of a core's context or of a feed (R47, R48): word `n` of source `src`.
(DESIGN CHOICE: log entry 5). -/
opaque entropy (src n : Nat) : BitVec 32

/-- Which neighbour a faithfully rounded function returns (R115): operation, type code and operand.
(DESIGN CHOICE: log entry 5). -/
opaque faithfulUp (op ty bits : Nat) : Bool

/-- Which way of a full set is replaced where the spec names no policy (L1, TLBs, walk cache).
(DESIGN CHOICE: log entry 5). -/
opaque victim (n : Nat) : Nat

/-- The window through which a module reaches the members of a group on another module (R321). (DESIGN CHOICE: log entry 63). -/
opaque peerWindow (group module : Nat) : BitVec 12

/-- The window offset of the receive buffer of a member on another module, by group, rank and operation (R321).
(DESIGN CHOICE: log entry 63). -/
opaque peerBuffer (group rank opseq : Nat) : BitVec 40

/-- Whether the operation that a member of another module runs in a trusted group differs (R324).
(DESIGN CHOICE: log entry 62). -/
opaque peerDiffers (n : Nat) : Bool

/-- The outputs of a mismatched trusted collective (R324). (DESIGN CHOICE: log entry 5). -/
opaque mismatched (n : Nat) : BitVec 64

/-- Whether a row of an instruction that met an uncorrectable row is written (R172). (DESIGN CHOICE: log entry 5; DEDUCED: log
entry 17). -/
opaque rowWritten (n : Nat) : Bool

/-- The half byte beside the last element of an odd FP4 row that goes to a remote window.
(DESIGN CHOICE: log entry 5). -/
opaque halfByte (n : Nat) : BitVec 4

/-- The minimum security version that is fused into the MMC (R358). (DESIGN CHOICE: log entry 5). -/
opaque minVersion : Nat

/-- The digest of the public key that is fused into the MMC (R358). (DESIGN CHOICE: log entry 5). -/
opaque keyDigest : BitVec 384

/-- The public key in the header of an image slot, false A and true B (R358). (DESIGN CHOICE: log entry 5). -/
opaque slotKey (slot : Bool) : BitVec 768

/-- The signature over the header of an image slot (R358). (DESIGN CHOICE: log entry 5). -/
opaque slotSignature (slot : Bool) : BitVec 768

/-- The digest of the body that the header of an image slot holds (R358). (DESIGN CHOICE: log entry 5). -/
opaque slotDigest (slot : Bool) : BitVec 384

/-- The security version in the header of an image slot (R358). (DESIGN CHOICE: log entry 5). -/
opaque slotVersion (slot : Bool) : Nat

/-- The MMC, compute-die and port-die firmware of an image slot's body: 0, 1 and 2 (R358). (DESIGN CHOICE: log entry 5). -/
opaque slotFirmware (slot : Bool) (part : Nat) : List (BitVec 8)

/-- The module's serial number (R362, R367). (DESIGN CHOICE: log entry 5). -/
opaque serial : Word

/-- Identity record 0: orderable code, board revision, serial number, date of manufacture (R367).
(DESIGN CHOICE: log entry 5). -/
opaque record0 : BitVec 2048

end Sys2Proof.Config
end

