-- ==== Sys2Proof/Machine/Sparse.lean ====
section
/-! DEFINITION. Sparse data by number: a list of (key, value) pairs with strictly rising keys. A key that is
not listed has the reader's default. Byte memories add that no listed byte equals 0, which is what an unlisted
byte of stack memory reads as (R353). -/

namespace Sys2Proof.Machine

/-- A sparse map from numbers. -/
abbrev SMap (α : Type) := List (Nat × α)

/-- The value at `k`, when one is listed. -/
def SMap.find {α : Type} : SMap α → Nat → Option α
  | [], _ => none
  | (i, v) :: m, k => if i = k then some v else if k < i then none else SMap.find m k

/-- The value at `k`, with default `d`. -/
def SMap.get {α : Type} (m : SMap α) (k : Nat) (d : α) : α := (SMap.find m k).getD d

/-- The map with `v` at `k`. -/
def SMap.set {α : Type} : SMap α → Nat → α → SMap α
  | [], k, v => [(k, v)]
  | (i, w) :: m, k, v =>
    if k < i then (k, v) :: (i, w) :: m
    else if i = k then (k, v) :: m
    else (i, w) :: SMap.set m k v

/-- The map with nothing at `k`. -/
def SMap.del {α : Type} (m : SMap α) (k : Nat) : SMap α := m.filter (fun p => p.1 != k)

/-- The map with nothing at the keys from `lo` on, `n` of them. -/
def SMap.clearRange {α : Type} (m : SMap α) (lo n : Nat) : SMap α :=
  m.filter (fun p => decide (p.1 < lo ∨ lo + n ≤ p.1))

/-- The map with every value changed by `f`. -/
def SMap.mapVals {α : Type} (m : SMap α) (f : Nat → α → α) : SMap α := m.map (fun p => (p.1, f p.1 p.2))

/-- The keys rise strictly from `lo` on. -/
def SMap.rising {α : Type} : Nat → SMap α → Bool
  | _, [] => true
  | lo, (i, _) :: m => decide (lo ≤ i) && SMap.rising (i + 1) m

/-- The keys rise strictly. -/
def SMap.wf {α : Type} (m : SMap α) : Bool := SMap.rising 0 m

/-- A memory of bytes: unlisted bytes read 0. -/
abbrev Memory := List Host.Cell

/-- The byte at `a`. (DEDUCED: log entry 4). -/
def Memory.read (m : Memory) (a : Nat) : Byte := SMap.get m a 0

/-- The memory with byte `b` at `a`; writing 0 removes the entry. (DEDUCED: log entry 4). -/
def Memory.write (m : Memory) (a : Nat) (b : Byte) : Memory :=
  if b = 0 then SMap.del m a else SMap.set m a b

/-- The canonical form: rising addresses and no listed 0. (DEDUCED: log entry 4). -/
def Memory.wf (m : Memory) : Bool := SMap.wf m && m.all (fun p => p.2 != 0)

/-- `n` bytes from `a` on, in ascending address. -/
def Memory.readBytes (m : Memory) (a : Nat) : Nat → List Byte
  | 0 => []
  | n + 1 => Memory.read m a :: Memory.readBytes m (a + 1) n

/-- The memory with the bytes written from `a` on. -/
def Memory.writeBytes : Memory → Nat → List Byte → Memory
  | m, _, [] => m
  | m, a, b :: bs => Memory.writeBytes (Memory.write m a b) (a + 1) bs

/-- The number whose little-endian bytes these are (R6). -/
def leNat : List Byte → Nat
  | [] => 0
  | b :: bs => b.toNat + 256 * leNat bs

/-- The `n` little-endian bytes of a number (R6). -/
def leBytes : Nat → Nat → List Byte
  | 0, _ => []
  | n + 1, v => BitVec.ofNat 8 v :: leBytes n (v / 256)

/-- An `n`-byte little-endian number at `a`. -/
def Memory.readLe (m : Memory) (a n : Nat) : Nat := leNat (Memory.readBytes m a n)

/-- The memory with an `n`-byte little-endian number at `a`. -/
def Memory.writeLe (m : Memory) (a n v : Nat) : Memory := Memory.writeBytes m a (leBytes n v)

/-- The memory with `n` zero bytes from `a` on. -/
def Memory.zero (m : Memory) (a n : Nat) : Memory := SMap.clearRange m a n

/-- Replaces the first element that `p` picks by `f` of it. -/
def updFirst {α : Type} (p : α → Bool) (f : α → α) : List α → List α
  | [] => []
  | x :: xs => if p x then f x :: xs else x :: updFirst p f xs

/-- Removes the first element that `p` picks. -/
def delFirst {α : Type} (p : α → Bool) : List α → List α
  | [] => []
  | x :: xs => if p x then xs else x :: delFirst p xs

/-- `f` applied for k = 0 to n - 1, in order. -/
def repeatFrom {α : Type} (f : Nat → α → α) : Nat → Nat → α → α
  | _, 0, a => a
  | k, n + 1, a => repeatFrom f (k + 1) n (f k a)

/-- `f` applied for k = 0 to n - 1, in order. -/
def forN {α : Type} (n : Nat) (f : Nat → α → α) (a : α) : α := repeatFrom f 0 n a

end Sys2Proof.Machine
end

