-- ==== Sys2Proof/Machine/Number.lean ====
section
/-! DEFINITION. Number formats, exact values, rounding and conversion (R28 to R46, R50, R51, R400), and the
exact arithmetic that the scalar core, the vector engine, the epilogue and the ligature engine round once. -/

namespace Sys2Proof.Machine

/-- The element formats (R28). -/
inductive Fmt where
  | fp64 | fp32 | bf16 | fp16 | e4m3 | e5m2 | int8 | fp4 | int32 | int64
  deriving DecidableEq, Repr

/-- The format of a FMT code (R28); codes 0xA to 0xF are reserved. -/
def Fmt.ofCode : Nat → Option Fmt
  | 0 => some .fp64 | 1 => some .fp32 | 2 => some .bf16 | 3 => some .fp16 | 4 => some .e4m3
  | 5 => some .e5m2 | 6 => some .int8 | 7 => some .fp4 | 8 => some .int32 | 9 => some .int64
  | _ => none

/-- The FMT code of a format (R28). -/
def Fmt.code : Fmt → Nat
  | .fp64 => 0 | .fp32 => 1 | .bf16 => 2 | .fp16 => 3 | .e4m3 => 4
  | .e5m2 => 5 | .int8 => 6 | .fp4 => 7 | .int32 => 8 | .int64 => 9

/-- Width in bits (R28). -/
def Fmt.width : Fmt → Nat
  | .fp64 | .int64 => 64 | .fp32 | .int32 => 32 | .bf16 | .fp16 => 16
  | .e4m3 | .e5m2 | .int8 => 8 | .fp4 => 4

/-- Elements of one vector register (R28). -/
def Fmt.count (f : Fmt) : Nat := 16384 / f.width

/-- An integer format. -/
def Fmt.isInt : Fmt → Bool
  | .int8 | .int32 | .int64 => true
  | _ => false

/-- Fraction bits (R28). -/
def Fmt.fb : Fmt → Nat
  | .fp64 => 52 | .fp32 => 23 | .bf16 => 7 | .fp16 => 10 | .e4m3 => 3 | .e5m2 => 2 | .fp4 => 1
  | _ => 0

/-- Exponent bias (R28). -/
def Fmt.bias : Fmt → Nat
  | .fp64 => 1023 | .fp32 | .bf16 => 127 | .fp16 | .e5m2 => 15 | .e4m3 => 7 | .fp4 => 1
  | _ => 0

/-- Bits of the exponent field (R28). -/
def Fmt.eb : Fmt → Nat
  | .fp64 => 11 | .fp32 | .bf16 => 8 | .fp16 | .e5m2 => 5 | .e4m3 => 4 | .fp4 => 2
  | _ => 0

/-- Exponent of the smallest normal number. -/
def Fmt.emin (f : Fmt) : Int := 1 - (f.bias : Int)

/-- The code of the largest finite value (R29 to R31). -/
def Fmt.maxCode : Fmt → Nat
  | .fp64 => 0x7FEFFFFFFFFFFFFF | .fp32 => 0x7F7FFFFF | .bf16 => 0x7F7F | .fp16 => 0x7BFF
  | .e4m3 => 0x7E | .e5m2 => 0x7B | .fp4 => 0x7 | .int8 => 127
  | .int32 => 2147483647 | .int64 => 9223372036854775807

/-- The code of +infinity, where the format has one. -/
def Fmt.infCode : Fmt → Option Nat
  | .fp64 => some 0x7FF0000000000000 | .fp32 => some 0x7F800000 | .bf16 => some 0x7F80
  | .fp16 => some 0x7C00 | .e5m2 => some 0x7C
  | _ => none

/-- The canonical NaN code, where the format has NaNs (R41). -/
def Fmt.nanCode : Fmt → Option Nat
  | .fp64 => some 0x7FF8000000000000 | .fp32 => some 0x7FC00000 | .bf16 => some 0x7FC0
  | .fp16 => some 0x7E00 | .e5m2 => some 0x7E | .e4m3 => some 0x7F
  | _ => none

/-- The sign bit of a floating-point code. -/
def Fmt.signBit (f : Fmt) : Nat := 2 ^ (f.width - 1)

/-- An exact value: a NaN with its sign and kind, an infinity, or sign, magnitude and binary exponent. -/
inductive FVal where
  | nan (neg quiet : Bool)
  | inf (neg : Bool)
  | fin (neg : Bool) (m : Nat) (e : Int)
  deriving DecidableEq, Repr

/-- A signed integer as a value. -/
def FVal.ofInt (n : Int) : FVal := .fin (decide (n < 0)) n.natAbs 0

/-- The value of an element's code (R29 to R32). -/
def Fmt.decode (f : Fmt) (bits : Nat) : FVal :=
  if f.isInt then FVal.ofInt ((BitVec.ofNat f.width bits).toInt) else
  let neg := decide (f.signBit ≤ bits % 2 ^ f.width)
  let ex := (bits >>> f.fb) % 2 ^ f.eb
  let fr := bits % 2 ^ f.fb
  let top := decide (ex = 2 ^ f.eb - 1)
  let finite := if ex = 0 then FVal.fin neg fr (f.emin - f.fb)
    else FVal.fin neg (2 ^ f.fb + fr) ((ex : Int) - f.bias - f.fb)
  match f with
  | .fp4 => finite
  | .e4m3 => if top && decide (fr = 7) then .nan neg true else finite
  | _ =>
    if top then (if fr = 0 then .inf neg else .nan neg (decide (2 ^ (f.fb - 1) ≤ fr))) else finite

/-- The value times 2^n. -/
def FVal.scale (n : Int) : FVal → FVal
  | .fin s m e => .fin s m (e + n)
  | x => x

/-- The value with its sign inverted. -/
def FVal.neg : FVal → FVal
  | .nan s q => .nan (!s) q
  | .inf s => .inf (!s)
  | .fin s m e => .fin (!s) m e

/-- The sign. -/
def FVal.isNeg : FVal → Bool
  | .nan s _ => s
  | .inf s => s
  | .fin s _ _ => s

/-- A NaN. -/
def FVal.isNan : FVal → Bool
  | .nan _ _ => true
  | _ => false

/-- A signalling NaN. -/
def FVal.isSnan : FVal → Bool
  | .nan _ q => !q
  | _ => false

/-- A finite value. -/
def FVal.isFin : FVal → Bool
  | .fin _ _ _ => true
  | _ => false

/-- m1 × 2^e1 as a multiple of 2^e, for e ≤ e1. -/
def alignTo (m : Nat) (e1 e : Int) : Nat := m <<< (e1 - e).toNat

/-- m1 × 2^e1 < m2 × 2^e2. -/
def magLt (m1 : Nat) (e1 : Int) (m2 : Nat) (e2 : Int) : Bool :=
  let e := min e1 e2
  decide (alignTo m1 e1 e < alignTo m2 e2 e)

/-- m1 × 2^e1 ≤ m2 × 2^e2. -/
def magLe (m1 : Nat) (e1 : Int) (m2 : Nat) (e2 : Int) : Bool := !(magLt m2 e2 m1 e1)

/-- Signed value at exponent e. -/
def signedAt (neg : Bool) (m : Nat) (e1 e : Int) : Int :=
  let k : Int := alignTo m e1 e
  if neg then -k else k

/-- Comparison of two values, neither a NaN; zeros are equal. -/
def FVal.lt : FVal → FVal → Bool
  | .fin s m e, .fin t n g => let x := min e g; decide (signedAt s m e x < signedAt t n g x)
  | .inf s, .inf t => s && !t
  | .inf s, _ => s
  | _, .inf t => !t
  | _, _ => false

/-- Equality of two values, neither a NaN; zeros are equal. -/
def FVal.eqv : FVal → FVal → Bool
  | .fin s m e, .fin t n g => let x := min e g; decide (signedAt s m e x = signedAt t n g x)
  | .inf s, .inf t => s == t
  | _, _ => false

/-- How a magnitude rounds (R40, R44); `down` and `up` serve faithful rounding. -/
inductive RMode where
  | rne
  | stoch (w : Nat)
  | down
  | up
  deriving DecidableEq, Repr

/-- m / 2^sh rounded to an integer, and whether it changed. -/
def roundShift (mode : RMode) (m sh : Nat) : Nat × Bool :=
  let k := m >>> sh
  let r := m % 2 ^ sh
  let up := match mode with
    | .rne => decide (2 ^ sh < 2 * r) || (decide (2 * r = 2 ^ sh) && decide (k % 2 = 1))
    | .stoch w => decide (65536 ≤ (r * 65536) >>> sh + w)
    | .down => false
    | .up => decide (r ≠ 0)
  (if up then k + 1 else k, decide (r ≠ 0))

/-- m × 2^e rounded to a multiple of 2^q, as the multiple, and whether it changed. (DEDUCED: log entry 10). -/
def quantize (mode : RMode) (m : Nat) (e q : Int) : Nat × Bool :=
  if q ≤ e then (alignTo m e q, false) else roundShift mode m (q - e).toNat

/-- A converted element: its code, its classes under R51, and the exceptions of R139. -/
structure Conv where
  bits : Nat
  sat : Bool := false
  flush : Bool := false
  oor : Bool := false
  ov : Bool := false
  un : Bool := false
  ix : Bool := false
  deriving DecidableEq, Repr

/-- A floating-point code with the sign set. -/
def Fmt.signed (f : Fmt) (neg : Bool) (code : Nat) : Nat := if neg then code + f.signBit else code

/-- A finite value into a floating-point format (R40 to R42, R44, R51). -/
def convFp (f : Fmt) (ovf : Bool) (mode : RMode) (neg : Bool) (m : Nat) (e : Int) : Conv :=
  if m = 0 then { bits := f.signed neg 0 } else
  let lg : Int := (Nat.log2 m : Int) + e
  let q := max (lg - f.fb) (f.emin - f.fb)
  let (k, ix) := quantize mode m e q
  let (ku, _) := quantize mode m e (lg - f.fb)
  let tiny := magLt ku (lg - f.fb) 1 f.emin
  match f.decode f.maxCode with
  | .fin _ mm me =>
    let sat := magLt mm me m e
    let flush := magLe m e 1 (f.emin - f.fb - 1)
    if magLt mm me k q then
      let most := match f with
        | .fp4 => f.maxCode
        | .e4m3 => if ovf then 0x7F else f.maxCode
        | _ => if ovf then f.infCode.getD f.maxCode else f.maxCode
      { bits := f.signed neg most, sat := sat, flush := flush, ov := true, ix := true }
    else
      let code := if k < 2 ^ f.fb then k else (q + f.fb + f.bias - 1).toNat * 2 ^ f.fb + k
      { bits := f.signed neg code, sat := sat, flush := flush, un := tiny && ix, ix := ix }
  | _ => { bits := 0 }

/-- A finite value into an integer format (R40, R41, R43, R51). -/
def convInt (f : Fmt) (mode : RMode) (neg : Bool) (m : Nat) (e : Int) : Conv :=
  let hi := f.maxCode
  let lim := if neg && f != .int8 then hi + 1 else hi
  let (k, ix) := quantize mode m e 0
  let flush := decide (m ≠ 0) && magLe m e 1 (-1)
  let enc (n : Nat) : Nat := if neg then (2 ^ f.width - n) % 2 ^ f.width else n
  if lim < k then { bits := enc lim, sat := magLt lim 0 m e, flush := flush, oor := true, ix := true }
  else { bits := enc k, sat := magLt lim 0 m e, flush := flush, ix := ix }

/-- A value, already scaled for the destination, into a format (R41). -/
def convert (f : Fmt) (ovf : Bool) (mode : RMode) (x : FVal) : Conv :=
  match x with
  | .nan neg _ =>
    match f.nanCode with
    | some c => { bits := f.signed neg c, oor := false }
    | none => { bits := 0, sat := true, oor := f.isInt }
  | .inf neg =>
    if f.isInt then
      let lim := if neg && f != .int8 then f.maxCode + 1 else f.maxCode
      { bits := if neg then (2 ^ f.width - lim) % 2 ^ f.width else lim, sat := true, oor := true }
    else match f.infCode with
      | some c => { bits := f.signed neg c }
      | none =>
        { bits := f.signed neg (if f == .e4m3 && ovf then 0x7F else f.maxCode), sat := true }
  | .fin neg m e => if f.isInt then convInt f mode neg m e else convFp f ovf mode neg m e

/-- The format word (R34). -/
structure FmtWord where
  fmt : Fmt
  ovf : Bool
  cs : Int
  stoch : Bool
  scale : Nat
  deriving DecidableEq, Repr

/-- Reads a format word; `none` when it is invalid (R35). (DEDUCED: log entry 11). -/
def FmtWord.parse (w : BitVec 32) : Option FmtWord :=
  match Fmt.ofCode (fld w 0 4) with
  | none => none
  | some f =>
    let sc := fld w 4 2
    let bad := fld w 18 14 != 0 || w.getLsbD 16 || decide (2 ≤ fld w 6 2) || sc == 3
      || (sc == 2 && f != .e4m3 && f != .e5m2 && f != .fp4)
      || (sc != 0 && (f == .int32 || f == .int64))
    if bad then none else
    some { fmt := f, ovf := w.getLsbD 17, cs := if sc = 0 then 0 else sfld w 8 8,
           stoch := decide (fld w 6 2 = 1), scale := sc }

/-- The unscaled register type of a format: OVF 1, rounded to nearest (R125). -/
def FmtWord.reg (f : Fmt) : FmtWord := { fmt := f, ovf := true, cs := 0, stoch := false, scale := 0 }

/-- The value that a stored element represents (R36). -/
def FmtWord.value (w : FmtWord) (bits fine : Nat) : FVal := (w.fmt.decode bits).scale (w.cs - fine)

/-- One conversion by value into a tensor (R39). -/
def FmtWord.store (w : FmtWord) (fine draw : Nat) (x : FVal) : Conv :=
  convert w.fmt w.ovf (if w.stoch then .stoch draw else .rne) (x.scale ((fine : Int) - w.cs))

/-- The conversions that are always exact and so draw no random bits (R43). INT64 into FP64 and a scaled FP64, FP32,
BF16 or FP16 source, which the destination need not hold, are not among them. (DEDUCED: log entry 10). -/
def FmtWord.exactInto (src dst : FmtWord) : Bool :=
  (dst.scale == 0 && (match dst.fmt with
    | .fp64 => src.fmt != .int64 && (src.scale == 0 || src.fmt != .fp64)
    | .fp32 => src.scale == 0 && [Fmt.fp32, .bf16, .fp16, .e4m3, .e5m2, .int8, .fp4].contains src.fmt
    | .bf16 => src.scale == 0 && [Fmt.e4m3, .e5m2, .int8, .fp4].contains src.fmt
    | .fp16 => src.scale == 0 && [Fmt.e4m3, .int8, .fp4].contains src.fmt
    | _ => false))
  || (src.fmt == .fp4 && (dst.fmt == .e4m3 || dst.fmt == .e5m2) && src.scale == dst.scale && src.cs == dst.cs)

/-- A destination takes draws: RMODE is 1 and the conversion from the source, where there is one, is not always exact
(R43, R46). -/
def FmtWord.takesDraws (dst : FmtWord) (src : Option FmtWord) : Bool := dst.stoch && !(src.any (fun w => w.exactInto dst))

/-- One step of a rounding generator (R45). -/
def lfsrStep (s : BitVec 32) : BitVec 32 :=
  if s.getLsbD 0 then (s >>> 1) ^^^ 0x80200003#32 else s >>> 1

/-- The generator after one draw: sixteen steps (R45). -/
def lfsrNext (s : BitVec 32) : BitVec 32 := forN 16 (fun _ g => lfsrStep g) s

/-- The draws of `n` element positions, in ascending index (R46). (DEDUCED: log entry 10). -/
def draws : Nat → BitVec 32 → List Nat
  | 0, _ => []
  | n + 1, s => let t := lfsrNext s; (t.toNat % 65536) :: draws n t

/-- The generator after `n` draws. -/
def lfsrAfter (n : Nat) (s : BitVec 32) : BitVec 32 := forN n (fun _ g => lfsrNext g) s

/-- The fine offset that the scale finder gives a block (R50); NaN and infinity are ignored. -/
def scaleFind (cd : Int) (f : Fmt) (xs : List FVal) : Nat :=
  let emaxf : Int := match f with | .e4m3 => 8 | .e5m2 => 15 | _ => 2
  let maxf : Nat := match f with | .e4m3 => 448 | .e5m2 => 57344 | _ => 6
  let big := xs.foldl (fun (acc : Nat × Int) x => match x with
    | .fin _ m e => if magLt acc.1 acc.2 m e then (m, e) else acc
    | _ => acc) (0, 0)
  if big.1 = 0 then 0 else
  let f0 := cd + emaxf - ((Nat.log2 big.1 : Int) + big.2)
  let f1 := if magLt maxf 0 big.1 (big.2 + f0 - cd) then f0 - 1 else f0
  (min (max f1 0) 15).toNat

/-- Bit places of the exception flags of ISA_XFLG and VEC_XFLG (R139). -/
def flagIV : BitVec 5 := 1#5
/-- Division by zero. -/
def flagDZ : BitVec 5 := 2#5
/-- Overflow. -/
def flagOV : BitVec 5 := 4#5
/-- Underflow. -/
def flagUN : BitVec 5 := 8#5
/-- Inexact. -/
def flagIX : BitVec 5 := 16#5

/-- A flag or nothing. -/
def flagIf (b : Bool) (f : BitVec 5) : BitVec 5 := if b then f else 0#5

/-- The flags of one rounded result (R139). -/
def Conv.flags (c : Conv) : BitVec 5 :=
  flagIf c.ov flagOV ||| flagIf c.un flagUN ||| flagIf (c.ix && !c.oor) flagIX ||| flagIf c.oor flagIV

/-- The NaN of arithmetic: quiet, sign 0 (R400). -/
def qnan : FVal := .nan false true

/-- The exact sum of two values (R116), with invalid for infinities of opposite sign. -/
def addF (a b : FVal) : FVal × BitVec 5 :=
  let iv := flagIf (a.isSnan || b.isSnan) flagIV
  match a, b with
  | .nan _ _, _ => (qnan, iv)
  | _, .nan _ _ => (qnan, iv)
  | .inf s, .inf t => if s == t then (.inf s, 0) else (qnan, flagIV)
  | .inf s, _ => (.inf s, 0)
  | _, .inf t => (.inf t, 0)
  | .fin s m e, .fin t n g =>
    let x := min e g
    let k := signedAt s m e x + signedAt t n g x
    if k = 0 then (.fin (s && t) 0 0, 0) else (.fin (decide (k < 0)) k.natAbs x, 0)

/-- The exact product of two values. -/
def mulF (a b : FVal) : FVal × BitVec 5 :=
  let iv := flagIf (a.isSnan || b.isSnan) flagIV
  let s := a.isNeg != b.isNeg
  match a, b with
  | .nan _ _, _ => (qnan, iv)
  | _, .nan _ _ => (qnan, iv)
  | .inf _, .fin _ m _ => if m = 0 then (qnan, flagIV) else (.inf s, 0)
  | .fin _ m _, .inf _ => if m = 0 then (qnan, flagIV) else (.inf s, 0)
  | .inf _, .inf _ => (.inf s, 0)
  | .fin _ m e, .fin _ n g => (.fin s (m * n) (e + g), 0)

/-- a × b + c, exactly; a product of infinity and zero is invalid whatever the addend is (R139). -/
def fmaF (a b c : FVal) : FVal × BitVec 5 :=
  let p := mulF a b
  let r := addF p.1 c
  (r.1, p.2 ||| r.2)

/-- A magnitude with the rest below it as a sticky bit. -/
def stickyM (k : Nat) (rest : Bool) : Nat := 2 * k + b2n rest

/-- The quotient, exact or with a sticky bit beyond 70 quotient bits. -/
def divF (a b : FVal) : FVal × BitVec 5 :=
  let iv := flagIf (a.isSnan || b.isSnan) flagIV
  let s := a.isNeg != b.isNeg
  match a, b with
  | .nan _ _, _ => (qnan, iv)
  | _, .nan _ _ => (qnan, iv)
  | .inf _, .inf _ => (qnan, flagIV)
  | .inf _, _ => (.inf s, 0)
  | _, .inf _ => (.fin s 0 0, 0)
  | .fin _ m e, .fin _ n g =>
    if n = 0 then (if m = 0 then (qnan, flagIV) else (.inf s, flagDZ)) else
    if m = 0 then (.fin s 0 0, 0) else
    let sh := 70 + Nat.log2 n + 1
    let x := m <<< sh
    (.fin s (stickyM (x / n) (decide (x % n ≠ 0))) (e - g - sh - 1), 0)

/-- Integer square root of n, searching `b` bits down. -/
def isqrtBits (n : Nat) : Nat → Nat → Nat
  | 0, r => r
  | b + 1, r => let c := r + 2 ^ b; isqrtBits n b (if c * c ≤ n then c else r)

/-- Integer square root. -/
def isqrt (n : Nat) : Nat := isqrtBits n (Nat.log2 n / 2 + 1) 0

/-- m × 2^e with an even exponent. -/
def evenExp (m : Nat) (e : Int) : Nat × Int := if e % 2 = 0 then (m, e) else (2 * m, e - 1)

/-- The square root, exact or with a sticky bit. -/
def sqrtF (a : FVal) : FVal × BitVec 5 :=
  match a with
  | .nan _ q => (qnan, flagIf (!q) flagIV)
  | .inf s => if s then (qnan, flagIV) else (.inf false, 0)
  | .fin s m e =>
    if m = 0 then (.fin s 0 0, 0) else if s then (qnan, flagIV) else
    let (m2, e2) := evenExp m e
    let x := m2 <<< 160
    let r := isqrt x
    (.fin false (stickyM r (decide (r * r ≠ x))) (e2 / 2 - 81), 0)

/-- The reciprocal square root, exact or with a sticky bit. -/
def rsqrtF (a : FVal) : FVal × BitVec 5 :=
  match a with
  | .nan _ q => (qnan, flagIf (!q) flagIV)
  | .inf s => if s then (qnan, flagIV) else (.fin false 0 0, 0)
  | .fin s m e =>
    if m = 0 then (.inf s, flagDZ) else if s then (qnan, flagIV) else
    let (m2, e2) := evenExp m e
    let t := 100 + Nat.log2 m2
    let r := isqrt (2 ^ (2 * t) / m2)
    (.fin false (stickyM r (decide (r * r * m2 ≠ 2 ^ (2 * t)))) (-(e2 / 2) - t - 1), 0)

/-- VMIN and DMIN: the non-NaN operand when exactly one is NaN; −0 below +0 (R115). The result is a code. -/
def minMax (f : Fmt) (wantMax : Bool) (x y : Nat) : Nat × BitVec 5 :=
  let a := f.decode x
  let b := f.decode y
  let iv := flagIf (a.isSnan || b.isSnan) flagIV
  if a.isNan && b.isNan then (f.nanCode.getD 0, iv)
  else if a.isNan then (y, iv) else if b.isNan then (x, iv) else
  let aLess := a.lt b || (a.eqv b && a.isNeg && !b.isNeg)
  (if aLess != wantMax then x else y, iv)

/-- Fixed-point fraction bits of the function evaluations. -/
def fxP : Nat := 400

/-- ln 2 × 2^400, rounded down. -/
def fxLn2 : Nat := 0xb17217f7d1cf79abc9e3b39803f2f6af40f343267298b62d8a0d175b8baafa2be7b876206debac98559552fb4afa1b10ed2e

/-- Σ y^k / k! from term k on, in fixed point. -/
def expSeries (y : Nat) : Nat → Nat → Nat → Nat → Nat
  | 0, _, _, s => s
  | n + 1, k, t, s => let t2 := (t * y) >>> fxP / (k + 1); expSeries y n (k + 1) t2 (s + t2)

/-- 2^x for a fixed-point x: a mantissa in [1, 2) at 2^-400 and an exponent. -/
def exp2Fix (x : Int) : Nat × Int :=
  let n := x / (2 ^ fxP : Nat)
  let f := (x % (2 ^ fxP : Nat)).toNat
  let y := (f * fxLn2) >>> fxP
  (expSeries y 100 0 (2 ^ fxP) (2 ^ fxP), n)

/-- A dyadic value in fixed point, rounded towards zero. -/
def toFix (neg : Bool) (m : Nat) (e : Int) : Int :=
  let k : Nat := if 0 ≤ e + fxP then m <<< (e + fxP).toNat else m >>> (-(e + fxP)).toNat
  if neg then -(k : Int) else k

/-- Σ z^(2k+1) / (2k+1) in fixed point. -/
def atanhSeries (z2 : Nat) : Nat → Nat → Nat → Nat → Nat
  | 0, _, _, s => s
  | n + 1, k, t, s => let t2 := (t * z2) >>> fxP; atanhSeries z2 n (k + 1) t2 (s + t2 / (2 * k + 3))

/-- An evaluated function: the exact value lies within `err` units of m × 2^e. -/
structure Approx where
  neg : Bool
  m : Nat
  e : Int
  err : Nat
  deriving DecidableEq, Repr

/-- One of the two neighbours of the value (R115); `up` picks the larger magnitude. Where the computed bracket holds a
representable value, the nearest neighbour is taken and not the free choice, which the spec leaves as open there.
(DESIGN CHOICE: log entry 13). -/
def faithful (f : Fmt) (up : Bool) (a : Approx) : Conv :=
  let lo := convFp f true .down false (a.m - a.err) a.e
  let hi := convFp f true .down false (a.m + a.err) a.e
  let c := if lo.bits = hi.bits then convFp f true (if up then .up else .down) a.neg a.m a.e
    else convFp f true .rne a.neg a.m a.e
  { c with ix := true }

/-- An exact or sticky magnitude, faithfully rounded. (DESIGN CHOICE: log entry 13). -/
def faithfulExact (f : Fmt) (up : Bool) (x : FVal) : Conv :=
  convert f true (if up then .up else .down) x

/-- 2^x for a finite non-integer x. (DESIGN CHOICE: log entry 13). -/
def exp2Approx (neg : Bool) (m : Nat) (e : Int) : Approx :=
  if magLt 4096 0 m e then { neg := false, m := 1, e := if neg then -6000 else 6000, err := 0 } else
  let (v, n) := exp2Fix (toFix neg m e)
  { neg := false, m := v, e := n - fxP, err := 2 ^ 20 }

/-- e^x for a finite x with |x| ≤ 4096, as mantissa and exponent. -/
def expFix (neg : Bool) (m : Nat) (e : Int) : Nat × Int :=
  exp2Fix ((toFix neg m e * (2 ^ fxP : Nat)) / (fxLn2 : Int))

/-- log2 x for a positive finite x. (DESIGN CHOICE: log entry 13). -/
def log2Approx (m : Nat) (e : Int) : Approx :=
  let lg := Nat.log2 m
  let mant := (m <<< fxP) >>> lg
  let z := ((mant - 2 ^ fxP) <<< fxP) / (mant + 2 ^ fxP)
  let ln := 2 * atanhSeries ((z * z) >>> fxP) 140 0 z z
  let tot : Int := (e + lg) * (2 ^ fxP : Nat) + ((ln <<< fxP) / fxLn2 : Nat)
  { neg := decide (tot < 0), m := tot.natAbs, e := -(fxP : Int), err := 2 ^ 20 }

/-- tanh x for a finite non-zero x. (DESIGN CHOICE: log entry 13). -/
def tanhApprox (neg : Bool) (m : Nat) (e : Int) : Approx :=
  if magLt m e 1 (-60) then { neg := neg, m := (m <<< 100) - 1, e := e - 100, err := 0 }
  else if magLt 200 0 m e then { neg := neg, m := 2 ^ fxP - 1, e := -(fxP : Int), err := 2 ^ 20 }
  else
    let (v, n) := expFix false (2 * m) e
    let x := v <<< n.toNat
    { neg := neg, m := ((x - 2 ^ fxP) <<< fxP) / (x + 2 ^ fxP), e := -(fxP : Int), err := 2 ^ 100 }

/-- 1 / (1 + e^-x) for a finite non-zero x. (DESIGN CHOICE: log entry 13). -/
def sigmApprox (neg : Bool) (m : Nat) (e : Int) : Approx :=
  if magLt 4096 0 m e then
    (if neg then { neg := false, m := 1, e := -6000, err := 0 }
     else { neg := false, m := 2 ^ fxP - 1, e := -(fxP : Int), err := 2 ^ 20 })
  else
    let (v, n) := expFix true m e
    let ev := v >>> (-n).toNat
    if neg then { neg := false, m := (v <<< fxP) / (2 ^ fxP + ev), e := n - fxP, err := 2 ^ 40 }
    else { neg := false, m := 2 ^ (2 * fxP) / (2 ^ fxP + ev), e := -(fxP : Int), err := 2 ^ 40 }

/-- The rounded result of an arithmetic operation in a register type: its code, classes and flags (R116, R400). -/
def arith (f : Fmt) (r : FVal × BitVec 5) : Conv × BitVec 5 :=
  let c := convert f true .rne (if r.1.isNan then qnan else r.1)
  (c, r.2 ||| c.flags)

/-- One FP32 addition to nearest, with canonical NaN (R95, R400). -/
def fp32Add (x y : BitVec 32) : BitVec 32 :=
  BitVec.ofNat 32 (arith .fp32 (addF (Fmt.fp32.decode x.toNat) (Fmt.fp32.decode y.toNat))).1.bits

/-- What rounded results add up to: flags, saturated and flushed counts (R51, R139). -/
structure Fx where
  fl : BitVec 5 := 0
  sat : Nat := 0
  flush : Nat := 0
  deriving DecidableEq, Repr

/-- Two effects together. -/
def Fx.join (a b : Fx) : Fx := { fl := a.fl ||| b.fl, sat := a.sat + b.sat, flush := a.flush + b.flush }

/-- The sum in the fixed tree of R97 over codes of one format, with its effects; `slots` holds the pending
subtree of each level. -/
def treeInsert (add : Nat → Nat → Nat × Fx) : Nat → SMap Nat → Nat → Fx → Nat → SMap Nat × Fx
  | 0, slots, _, fl, _ => (slots, fl)
  | fuel + 1, slots, lvl, fl, x =>
    match slots.find lvl with
    | none => (slots.set lvl x, fl)
    | some y => let (z, g) := add y x; treeInsert add fuel (slots.del lvl) (lvl + 1) (fl.join g) z

/-- The value of the tree: the pending subtrees from the lowest level, each larger one on the left. -/
def treeRead (add : Nat → Nat → Nat × Fx) : SMap Nat → Option Nat → Fx → Option Nat × Fx
  | [], v, fl => (v, fl)
  | (_, y) :: rest, none, fl => treeRead add rest (some y) fl
  | (_, y) :: rest, some v, fl => let (z, g) := add y v; treeRead add rest (some z) (fl.join g)

/-- All leaves, in order, through the tree (R97). -/
def treeSum (add : Nat → Nat → Nat × Fx) (leaves : List Nat) : Option Nat × Fx :=
  let r := leaves.foldl (fun (a : SMap Nat × Fx) x => treeInsert add 64 a.1 0 a.2 x) ([], {})
  treeRead add r.1 none r.2

/-- One rounded addition of codes of a format (R97, R116). -/
def codeAdd (f : Fmt) (x y : Nat) : Nat × Fx :=
  let c := arith f (addF (f.decode x) (f.decode y))
  (c.1.bits, { fl := c.2, sat := b2n c.1.sat, flush := b2n c.1.flush })

/-- One wrapping addition of integer codes. -/
def wrapAdd (w x y : Nat) : Nat × Fx := ((x + y) % 2 ^ w, {})

end Sys2Proof.Machine
end

