-- ==== Sys2Proof/Machine/State.lean ====
section
/-! DEFINITION. The state of the module: every register, buffer, queue, counter, mode and pin that the spec gives
it, as plain data, and `State.reset`. Field defaults are the reset values; INVENTORY.md lists each with its rule. -/

namespace Sys2Proof.Machine

/-- Why a step stops with a fault. -/
inductive Fault where
  /-- Raised by every command that names a core by die and core number when the core number is 20 to 31: such a
  number names no core (R20). Safe: the step stops where no such access exists. -/
  | noSuchCore (core : Nat)
  deriving DecidableEq, Repr

/-- Why a step is refused. -/
inductive Refusal where
  /-- Raised by an arm of `exec` whose command has no meaning yet. Safe: nothing is claimed. -/
  | notModelled (mnemonic : String)
  deriving DecidableEq, Repr

/-- What a context does (R140, R141, R152, R154, R213). -/
inductive CtxMode where
  | idle
  | running
  | pausing
  | stalled
  | stopping
  deriving DecidableEq, Repr

/-- A generator state: written, or still the value loaded from an entropy source (R47). (DEDUCED: log entry 9). -/
inductive GenState where
  | val (v : BitVec 32)
  | entropy (src n : Nat)
  deriving DecidableEq, Repr

/-- Where a byte lies after translation (R203): stack memory by SPA, host memory by link and bus address, or a
window of another module. -/
inductive Loc where
  | stack (spa : Nat)
  | host (link addr : Nat)
  | remote (module window offset : Nat)
  deriving DecidableEq, Repr

/-- One reservoir entry: data and tag (R87). -/
structure ResEntry where
  data : BitVec 128 := 0
  tag : BitVec 32 := 0
  deriving DecidableEq, Repr

/-- One buffered store of a vector instruction (R121): a byte and its virtual address; masked bits of a physical row, with the
handle and the relative row that name it; a reservoir entry. -/
inductive VStore where
  | mem (l : Loc) (va : Nat) (b : Byte)
  | ink (row handle rel : Nat) (mask data : BitVec 4096)
  | res (entry : Nat) (v : ResEntry)
  deriving DecidableEq, Repr

/-- An issued vector instruction that has not committed (R118 to R120), with the gated unit that it is in (R134) and the
result it will write.
(DESIGN CHOICE: log entry 14). -/
structure VecOp where
  pc : Word := 0
  unit : Option GUnit := none
  destV : Option (Nat × BitVec 16384) := none
  destM : Option (Nat × BitVec 4096) := none
  destX : Option (Nat × Word) := none
  destF : Option (Nat × Word) := none
  flags : BitVec 5 := 0
  sat : Nat := 0
  flush : Nat := 0
  gen : Option (BitVec 32) := none
  mismatch : Nat := 0
  resOvf : Nat := 0
  stores : List VStore := []
  deriving DecidableEq, Repr

/-- One entry of the scalar store buffer: a 64-byte line of one context (R159), with its virtual address. -/
structure SbEntry where
  ctx : Nat
  line : Loc
  va : Nat
  mask : BitVec 64
  data : BitVec 512
  deriving DecidableEq, Repr

/-- One line of the L1 data cache (R159). -/
structure L1Line where
  line : Loc
  data : BitVec 512
  deriving DecidableEq, Repr

/-- One core TLB, die TLB or walk-cache entry (R210): function and page (VA[47:25], with the page size). -/
structure TlbEntry where
  fn : Nat
  page : Nat
  big : Bool
  entry : Word
  deriving DecidableEq, Repr

/-- What a feed transfer does (R249). -/
inductive FeedOp where
  | copy | fill | convert
  deriving DecidableEq, Repr

/-- Where a feed transfer stands. -/
inductive XferPhase where
  | running
  | stopping (code : Nat) (detail : Nat)
  | complete (code : Nat) (detail : Nat)
  deriving DecidableEq, Repr

/-- One feed of a transfer (R213, R249): the tile that it moves, the element reached in it, and the address of the page fault
that stalls it. -/
structure FeedLane where
  tile : Nat
  elem : Nat := 0
  stalled : Option Nat := none
  deriving DecidableEq, Repr

/-- A feed transfer: its descriptor D0 to D13 (R247), what each of its feeds moves, the fine offsets that wait for the other
half of their byte (by byte, whether it is the upper half, and the offset), the generator state of its first draw, its counts,
and the bytes read of each source line that is to be discarded (R188). -/
structure Xfer where
  op : FeedOp
  desc : BitVec 896
  lanes : List FeedLane := []
  nibs : SMap (Bool × Nat) := []
  cover : SMap (BitVec 256) := []
  gen : GenState := .val 1
  sat : Nat := 0
  flush : Nat := 0
  phase : XferPhase := .running
  feeds : List Nat := []
  deriving DecidableEq, Repr

/-- A collective launched by a context (R314): group, operation number and, once it has ended, its status. -/
structure LigTag where
  group : Nat
  opseq : Nat
  image : BitVec 1024
  status : Option Nat := none
  deriving DecidableEq, Repr

/-- The snapshot that the blotter holds of a context (R335). -/
structure Snapshot where
  gen : GenState := .entropy 0 0
  seeded : Bool := false
  cvtsat : BitVec 32 := 0
  cvtflush : BitVec 32 := 0
  mismatch : BitVec 16 := 0
  resOvf : BitVec 16 := 0
  vxflg : BitVec 5 := 0
  xflg : BitVec 5 := 0
  deriving DecidableEq, Repr

/-- One context of a core (R140). (DESIGN CHOICE: log entry 6; DESIGN CHOICE: log entry 16). -/
structure Ctx where
  mode : CtxMode := .idle
  pc : Word := 0
  x : SMap Word := []
  f : SMap Word := []
  xflg : BitVec 5 := 0
  alarm : Word := 0xFFFFFFFFFFFFFFFF#64
  hbase : BitVec 40 := 0
  hpc : Word := 0
  hwhy : BitVec 6 := 0
  harg : Word := 0
  hsave : Word := 0
  cpend : Bool := false
  ppend : Bool := false
  hen : Bool := false
  cen : Bool := false
  aen : Bool := false
  pen : Bool := false
  inh : Bool := false
  gsave : Bool := false
  gate : Bool := false
  retired : Word := 0
  vxflg : BitVec 5 := 0
  gen : GenState := .entropy 0 0
  seeded : Bool := false
  cvtsat : BitVec 32 := 0
  cvtflush : BitVec 32 := 0
  mismatch : BitVec 16 := 0
  resOvf : BitVec 16 := 0
  v : SMap (BitVec 16384) := []
  vbad : List Nat := []
  m : SMap (BitVec 4096) := []
  ed : SMap (BitVec 128) := []
  md : SMap (BitVec 128) := []
  vq : List VecOp := []
  drain : List VecOp := []
  feedTags : SMap Xfer := []
  ligTags : SMap LigTag := []
  kept : List LigTag := []
  ligCount : Nat := 0
  job : Option CmdRef := none
  index : Nat := 0
  code : Option (BitVec 16) := none
  snap : Snapshot := {}
  deriving DecidableEq, Repr

/-- One handle table entry, INK_HTn (R168). -/
structure Handle where
  st : Nat := 0
  wp : Bool := false
  count : Nat := 0
  base : Nat := 0
  deriving DecidableEq, Repr

/-- A matrix request that waits for acceptance (R66, R68), with the descriptors it names (R63) and the first physical
rows of the handles that passed its checks (R171): data and offsets of the streamed and the stationary operand. -/
structure MmReq where
  ctx : Nat
  shape : Nat
  mode : Nat
  acc : Bool
  dst : BitVec 128
  str : BitVec 128
  sta : BitVec 128
  strBase : Nat
  strOff : Nat
  staBase : Nat
  staOff : Nat
  deriving DecidableEq, Repr

/-- The output of a pass for one entry, by domain (R90, R94, R104). `qs` holds one fixed sum per drain. -/
inductive MmOut where
  | fixed (qs : List Int) (c : Int) (flags : Nat)
  | fp32 (leaves : List (BitVec 32)) (c : Int)
  | hatched (d g : Int) (flags : Nat)
  deriving DecidableEq, Repr

/-- One request of an accepted pass: its context, ACC, outputs by entry number (bank × 16384 + entry), the counted
elements, and the streamed and the stationary elements as the cells read them, by block and tensor row (R84). -/
structure PassPart where
  ctx : Nat
  acc : Bool
  outs : List (Nat × MmOut)
  sat : Nat
  str : List (List (List FVal)) := []
  sta : List (List (List FVal)) := []
  deriving DecidableEq, Repr

/-- A pass in flight (R68). -/
structure Pass where
  shape : Nat
  mode : Nat
  fmt : Nat
  rows : Nat
  parts : List PassPart
  deriving DecidableEq, Repr

/-- The retained stationary operand (R76): shape, mode, descriptor, and its physical rows and handles. -/
structure Retained where
  shape : Nat
  mode : Nat
  desc : BitVec 128
  rows : List Nat
  handles : List Nat
  deriving DecidableEq, Repr

/-- The power state of a gated unit (R134). -/
inductive UnitPower where
  | off | waking | on
  deriving DecidableEq, Repr

/-- The first failed comparison, MXU_FSTAT (R86). -/
structure Fstat where
  valid : Bool := false
  ovr : Bool := false
  ctx : Nat := 0
  shape : Nat := 0
  mode : Nat := 0
  fmt : Nat := 0
  block : Nat := 0
  index : Nat := 0
  kind : Nat := 0
  deriving DecidableEq, Repr

/-- One core: its contexts and the units they share. (DESIGN CHOICE: log entry 6). -/
structure Core where
  ctxs : SMap Ctx := []
  owned : Bool := false
  owner : Nat := 0
  clearing : Bool := false
  inkClearing : Bool := true
  ink : SMap (BitVec 4096) := []
  inkBad : List Nat := []
  inkSoft : List Nat := []
  handles : SMap Handle := []
  eccUe : Bool := false
  eccScrub : Bool := false
  eccRow : Nat := 0
  eccCorr : Nat := 0
  scrubRow : Nat := 0
  res : SMap ResEntry := []
  cwin : Nat := 0
  ctolFp16 : Nat := 16
  ctolBf16 : Nat := 16
  fstat : Fstat := {}
  mmWait : List MmReq := []
  group : List MmReq := []
  groupClosed : Bool := false
  passes : List Pass := []
  lastCtx : Nat := 3
  retained : Option Retained := none
  pgIdle : Nat := 64
  xkeep : Bool := false
  gkeep : Bool := false
  vxu : UnitPower := .off
  vgu : UnitPower := .off
  ctrSel : SMap Word := []
  ctrPc : SMap Nat := []
  halted : Bool := false
  sb : List SbEntry := []
  l1 : List L1Line := []
  icache : List Nat := []
  tlb : List TlbEntry := []
  cycBase : Int := 0
  faults : Nat := 0
  armed : Bool := false
  lastKind : Nat := 0
  deriving DecidableEq, Repr

/-- A declared range (R229): bytes [lo, hi) of the tenant's space, or rows [lo, hi) of a handle. -/
inductive Rng where
  | va (write : Bool) (lo hi : Nat)
  | ink (write : Bool) (core handle lo hi : Nat)
  deriving DecidableEq, Repr

/-- Where a fetched command stands (R227, R239, R340). -/
inductive CmdPhase where
  | waiting
  | started
  | replay (mapOut : Bool)
  | complete
  deriving DecidableEq, Repr

/-- A command in flight and its blotter record (R227, R335). `done` is the time of its completion (R233).
(DESIGN CHOICE: log entry 16; DESIGN CHOICE: log entry 40). -/
structure Cmd where
  ref : CmdRef
  opcode : Nat
  irq : Bool
  order : Bool
  packet : BitVec 1024
  tenant : Nat
  ranges : List Rng
  eligible : Bool
  phase : CmdPhase := .waiting
  status : Nat := 0
  detail : Nat := 0
  result : Nat := 0
  sat : Nat := 0
  flush : Nat := 0
  attempts : Nat := 0
  lost : Bool := false
  done : Option Nat := none
  cancelled : Bool := false
  grace : Bool := false
  ctxs : List CtxRef := []
  codes : SMap (BitVec 16) := []
  xfer : Option Xfer := none
  revokedCount : Nat := 0
  kind : Nat := 0
  fcore : Nat := 31
  fdie : Nat := 0
  repair : List (Nat × Nat) := []
  moved : Nat := 0
  lig : Option Nat := none
  deriving DecidableEq, Repr

/-- A queue's registers (R224). -/
structure Queue where
  ringBase : BitVec 52 := 0
  ringSize : Nat := 0
  ringLoc : Bool := false
  repBase : BitVec 52 := 0
  repSize : Nat := 0
  repLoc : Bool := false
  en : Bool := false
  comm : Bool := false
  prio : Nat := 0
  owner : Nat := 0
  vec : Nat := 0
  head : Nat := 0
  tail : Nat := 0
  rtail : Nat := 0
  rhead : Nat := 0
  phase : Bool := true
  deriving DecidableEq, Repr

/-- A request in a queue of a stack channel (R183): its line, the tenant that made it, and whether it writes a line of the
die cache back. -/
structure ChanReq where
  line : Nat
  tenant : Nat
  back : Bool := false
  deriving DecidableEq, Repr

/-- A stack channel (R183): its read and write queues, oldest first; whether it drains its writes; the slots that each
tenant has had in the current round of either queue. -/
structure Channel where
  reads : List ChanReq := []
  writes : List ChanReq := []
  drain : Bool := false
  readSlots : SMap Nat := []
  writeSlots : SMap Nat := []
  deriving DecidableEq, Repr

/-- A line held in a die-cache slice (R184 to R187); the data itself is the stack's one coherent copy. -/
structure DcLine where
  line : Nat
  way : Nat
  dirty : Bool
  keep : Bool
  tenant : Nat
  deriving DecidableEq, Repr

/-- The engine that a page fault stalls (R213). -/
inductive Engine where
  | ctx (c : CtxRef)
  | feed (t : XferRef)
  | ligature (group die : Nat)
  deriving DecidableEq, Repr

/-- A miss register (R189), with the engines whose reads wait for its line; `whole` says that a merged write covers the
line. -/
structure DcMiss where
  line : Nat
  merged : Nat
  dirty : Bool
  whole : Bool := false
  keep : Bool
  tenant : Nat
  readers : List Engine := []
  deriving DecidableEq, Repr

/-- A fetch that allocates nothing and uses no miss register (R185, R187), with the engines whose reads wait for it. -/
structure DcFetch where
  line : Nat
  tenant : Nat
  readers : List Engine := []
  deriving DecidableEq, Repr

/-- An entry of a slice's eviction buffer (R190): its line, the tenant that uses it (R274), and whether it has been issued
to its channel. -/
structure DcEvict where
  line : Nat
  tenant : Nat
  issued : Bool := false
  deriving DecidableEq, Repr

/-- A stream tracker of the sequential-store detector (R191). -/
structure Tracker where
  frame : Nat
  expected : Nat
  count : Nat
  stamp : Nat
  deriving DecidableEq, Repr

/-- A host or remote line held for one command (R192): its tenant, its way, and the bytes of it that have been fetched. A
line with no way is only on its way to its reader. (DEDUCED: log entry 32). -/
structure ScopedLine where
  cmd : Option CmdRef
  line : Loc
  data : SMap Byte
  tenant : Nat := 0
  way : Option Nat := none
  deriving DecidableEq, Repr

/-- An outstanding page fault of a die MMU (R213, R214), with the engines that joined it and their addresses. -/
structure PageFault where
  fn : Nat
  page : Nat
  va : Nat
  cause : Nat
  source : Nat
  queue : Nat
  seq : Nat
  count : Nat
  tag : Option Nat
  engines : List (Engine × Nat)
  deriving DecidableEq, Repr

/-- An access counter of a host page range (R218). -/
structure AccCtr where
  fn : Nat
  page : Nat
  count : Nat
  noticed : Bool
  deriving DecidableEq, Repr

/-- An enabled trace ring (R373, R374). -/
structure TraceRing where
  fn : Nat
  va : Nat
  size : Nat
  mask : Nat
  cores : Nat
  tail : Nat
  drop : Nat
  phase : Bool
  deriving DecidableEq, Repr

/-- One die: scribe, die MMU, die cache, stack controller. `arrived` lists the lines that an access of an engine of this die,
still to be completed, has been served or has counted (R189, R218). (DESIGN CHOICE: log entry 6; DEDUCED: log entry 31). -/
structure Die where
  released : Bool := false
  dbdrop : Nat := 0
  thold : Bool := false
  cgrace : Nat := 1000
  feedMap : SMap Nat := []
  lastQueue : SMap Nat := []
  lastStart : SMap Nat := []
  cp1Last : Bool := true
  ssdIdle : Nat := 4
  ssdThresh : Nat := 32
  dcCorr : Nat := 0
  dcUeClean : Nat := 0
  dcPoison : Nat := 0
  tway : SMap Nat := []
  lines : List DcLine := []
  plru : SMap (BitVec 15) := []
  misses : List DcMiss := []
  fetches : List DcFetch := []
  evicts : List DcEvict := []
  chans : SMap Channel := []
  arrived : List (Engine × Loc) := []
  walks : List Engine := []
  trackers : SMap Tracker := []
  cached : List ScopedLine := []
  stkTemp : Nat := 0
  stkStep : Nat := 0
  stkRefr : Nat := 0
  stkT : Nat := 95
  stkHyst : Nat := 2
  stkUe : Bool := false
  stkScrubUe : Bool := false
  stkUeLine : Nat := 0
  stkCorr : Nat := 0
  scrubLine : SMap Nat := []
  frep : SMap Nat := []
  spareUsed : Bool := false
  mapping : Bool := false
  spareCore : Nat := 0
  dieTemp : Nat := 0
  tlb : List TlbEntry := []
  walkCache : List TlbEntry := []
  faults : List PageFault := []
  accCtrs : List AccCtr := []
  traces : List TraceRing := []
  ctrs : SMap Nat := []
  deriving DecidableEq, Repr

/-- One function number: its registers, quotas, and PCIe configuration (R257, R272, R215, R216, R207, R253, R261); `resetting`
while a reset of it waits for what its commands had started (R264). (PRESUMED: log entry 7). -/
structure Func where
  ferr : Bool := false
  fkind : Nat := 0
  fqueue : Nat := 0
  maxPrio : Nat := 7
  frBusy : Bool := false
  frResult : Nat := 0
  frWide : Bool := false
  frFunc : Nat := 0
  frAny : Bool := false
  frDie : Nat := 0
  frFrame : Nat := 0
  fqBase : BitVec 52 := 0
  fqVec : Nat := 0
  fqEn : Bool := false
  fqSize : Nat := 0
  fqDrop : Nat := 0
  fqTail : Nat := 0
  fqHead : Nat := 0
  fqPhase : Bool := true
  nextTag : Nat := 0
  tmo : Nat := 63
  hotth : Nat := 0x1000
  tbValid : Bool := false
  tbBase : Nat := 0
  tbInit : Bool := false
  quotas : SMap Nat := []
  msixEn : Bool := false
  msix : SMap (BitVec 128) := []
  msixPend : List Nat := []
  cto : Nat := 0
  resetting : Bool := false
  ctrs : SMap Nat := []
  deriving DecidableEq, Repr

/-- A frame's owner (R272): absent frames are free. -/
inductive FrameUse where
  | held (fn : Nat)
  | zeroing
  deriving DecidableEq, Repr

/-- A window entry, MMU_WINn (R220); `revoked` says that a RECLAIM has cleared VALID (R254). -/
structure Window where
  baseVa : Nat := 0
  size : Nat := 0
  srcGrp : Nat := 0
  tenant : Nat := 0
  valid : Bool := false
  revoked : Bool := false
  red : Bool := false
  wr : Bool := false
  rd : Bool := false
  deriving DecidableEq, Repr

/-- A device read of host memory that waits for its completion (R256, R263): its reader and command, its bytes, and whether
it carries No-Snoop (R250). -/
structure DevRead where
  reader : HostReader
  cmd : Option CmdRef
  addr : Nat
  bytes : Nat
  noSnoop : Bool := false
  deriving DecidableEq, Repr

/-- A host link (R255 to R258): its straps and training, what the partners have negotiated, its virtual functions and its
outstanding device reads. (PRESUMED: log entry 7). -/
structure HostLink where
  mode : LinkMode := {}
  reads : List DevRead := []
  perst : Bool := true
  bifur : Bool := false
  training : Bool := false
  up : Bool := false
  numVfs : Nat := 0
  vfFirst : Nat := 0
  vfCount : Nat := 15
  deriving DecidableEq, Repr

/-- The states of an optical port (R280). -/
inductive PortState where
  | dark | training | up | retrain | dead | disabled
  deriving DecidableEq, Repr

/-- A message that waits at, or is being sent by, an output port (R284, R289). `flits` holds the payloads that
have reached the port; `origin` is the input port and lane of a
forwarded message, `freed` counts its flits that were freed there before it began again, and `held` says that the port holds
credits for it. -/
structure TxItem where
  flits : List (BitVec 1920)
  total : Nat
  sent : Nat := 0
  freed : Nat := 0
  lane : Nat
  committed : Bool := false
  held : Bool := false
  abort : Bool := false
  origin : Option (Nat × Nat) := none
  source : Option (Nat × Nat)
  cmd : Option CmdRef := none
  engine : Option Engine := none
  deriving DecidableEq, Repr

/-- A partial or whole message in an input lane (R288, R289, R296): the FSEQ of its first flit, its flits, the output port that
forwards it, and the violation kind for which its flits are discarded. -/
structure RxMsg where
  first : Nat
  flits : List (BitVec 1920)
  whole : Bool := false
  out : Option Nat := none
  drop : Nat := 0
  deriving DecidableEq, Repr

/-- A control flit to be sent (R282); `report` names the flit from which the partner resends after a retrain (R292). -/
inductive Ctl where
  | credit (freed : SMap Nat)
  | nak (fseq : Nat)
  | probe (lane : Nat)
  | alive (lane : Nat)
  | hold (lane : Nat)
  | creditReset (lane free : Nat)
  | retrain
  | report (fseq : Nat)
  deriving DecidableEq, Repr

/-- What a port's transmitter sent in its last slot (R281, R290): nothing since its link came up, an idle flit, a control flit,
or a message or abort flit. -/
inductive LinkOut where
  | silent
  | idle (f : BitVec 2048)
  | control (c : Ctl) (f : BitVec 2048)
  | flit (f : BitVec 2048)
  deriving DecidableEq, Repr

/-- A logged violation, PLZ_VLOGp (R304). -/
structure Vlog where
  valid : Bool := false
  kind : Nat := 0
  flitHdr : Nat := 0
  msgHdr : Nat := 0
  deriving DecidableEq, Repr

/-- One optical port (R278 to R305): its registers; the sender's queue, retry buffer, control flits, credit counts and
arbitration; the receiver's lanes and counts; the events of the current millisecond. -/
structure Port where
  en : Bool := true
  state : PortState := .dark
  peerMod : Nat := 0
  peerPort : Nat := 0
  peerV : Bool := false
  wmask : Nat := 0
  retrains : Nat := 0
  fails : Nat := 0
  txq : List TxItem := []
  retry : List (Nat × BitVec 2048) := []
  resend : List (Nat × BitVec 2048) := []
  control : List Ctl := []
  tx : LinkOut := .silent
  txFseq : Nat := 0
  sentCnt : SMap Nat := []
  freedCnt : SMap Nat := []
  vtime : SMap Nat := []
  laneWait : SMap Nat := []
  rx : SMap (List RxMsg) := []
  rxFseq : Nat := 0
  nakked : Bool := false
  ackBase : Nat := 0
  ackV : Bool := false
  whole : Nat := 0
  rxCount : SMap Nat := []
  rxFreed : SMap Nat := []
  holdSeen : List Nat := []
  winMs : Nat := 0
  viols : Nat := 0
  naks : Nat := 0
  wantRetrain : Bool := false
  vlog : Vlog := {}
  cnt : SMap Nat := []
  deriving DecidableEq, Repr

/-- A route entry, PLZ_RTn (R295). -/
structure Route where
  av : Bool := false
  ahops : Nat := 0
  aport : Nat := 0
  pv : Bool := false
  phops : Nat := 0
  pport : Nat := 0
  deriving DecidableEq, Repr

/-- A discovery table entry, PLZ_DISCn (R363). -/
structure Disc where
  serial : Nat
  hops : Nat
  toPath : Nat
  fromPath : Nat
  deriving DecidableEq, Repr

/-- A discovery message that waits out its random delay (R362). -/
structure DiscFwd where
  serial : Nat
  port : Nat
  hops : List (Nat × Nat)
  deriving DecidableEq, Repr

/-- A message that waits for its acknowledgement (R293, R294). Until its first flit is sent, `mseq` is its number in
the module's own list; from then on it is the sequence number of the pair. -/
structure Unacked where
  queue : Nat
  dest : Nat
  mseq : Nat
  committed : Bool := false
  cmd : Option CmdRef
  engine : Option Engine
  rank : Option Nat
  va : Nat := 0
  deriving DecidableEq, Repr

/-- A read request that waits for its responses (R285). -/
structure ReadTag where
  tag : Nat
  engine : Engine
  cmd : Option CmdRef
  die : Nat
  line : Loc
  bytes : Nat
  va : Nat := 0
  deriving DecidableEq, Repr

/-- A message that has reached its destination: its class and its flits. -/
structure Delivered where
  cls : Nat
  flits : List (BitVec 1920)
  deriving DecidableEq, Repr

/-- The receive order of one pair (R293). -/
structure PairRx where
  src : Nat
  queue : Nat
  expected : Nat
  deriving DecidableEq, Repr

/-- The router and fabric state of the module (R286 to R305, R362 to R365). -/
structure Fabric where
  srcGrp : Nat := 0
  e2etmo : Nat := 50
  violTh : Nat := 16
  retryTh : Nat := 64
  corTh : Nat := 64
  uncTh : Nat := 16
  ports : SMap Port := []
  routes : SMap Route := []
  discs : List Disc := []
  discFwd : List DiscFwd := []
  fmBusy : Bool := false
  fmResult : Nat := 0
  fmOp : Nat := 0
  fmHops : Nat := 0
  fmTo : Nat := 0
  fmFrom : Nat := 0
  fmDest : Nat := 0
  fmCount : Nat := 0
  fmArg : Nat := 0
  fmData : Memory := []
  nextMseq : SMap Nat := []
  nextMsg : Nat := 0
  unacked : List Unacked := []
  reads : List ReadTag := []
  pairs : List PairRx := []
  early : List Delivered := []
  inbox : List Delivered := []
  deriving DecidableEq, Repr

/-- Who owns a collective operation (R309, R314). -/
inductive LigOwner where
  | cmd (c : CmdRef)
  | cp2 (c : CtxRef) (j : Nat)
  deriving DecidableEq, Repr

/-- Where a collective operation at a member stands (R313, R323, R328). -/
inductive LigPhase where
  | queued
  | digest
  | data
  deriving DecidableEq, Repr

/-- The summary of a block's digests (R323): the digest of its lowest rank, the lowest rank whose digest differs from that, that
rank's digest, and how many differ. -/
structure DigestSum where
  ref : Nat := 0
  low : Nat := 0
  digx : Nat := 0
  count : Nat := 0
  deriving DecidableEq, Repr

/-- One collective operation at one member die (R306 to R329): its packet, where it stands and the step it has
reached, the digests that it knows (R323), its accumulators or elements by position, what an all-to-all has received, the
messages that still go to members of other modules (rank, byte position in the step's data, bytes), and the segments
whose outputs are written (R315). -/
structure LigOp where
  group : Nat
  die : Nat
  opseq : Nat
  rank : Nat
  owner : LigOwner
  tenant : Nat
  image : BitVec 1024
  sendCore : Nat
  recvCore : Nat
  phase : LigPhase := .queued
  step : Nat := 0
  loaded : Bool := false
  acc : List Nat := []
  got : List Nat := []
  out : List (Nat × Nat × List Byte) := []
  known : DigestSum := {}
  written : Nat := 0
  stalled : Bool := false
  odd : Bool := false
  sat : Nat := 0
  flush : Nat := 0
  deriving DecidableEq, Repr

/-- A ligature message held for its member, operation and step (R313, R317): the sender's rank, and data at a byte
position of what the step moves (`rel`) or at a window offset. `opseq` holds OPSEQ[15:0], `dig` the digest of a sender on
this module. -/
structure LigMsg where
  group : Nat
  die : Nat
  opseq : Nat
  step : Nat
  digest : Bool
  src : Nat
  pos : Nat
  rel : Bool
  dig : Option Nat
  data : List Byte
  deriving DecidableEq, Repr

/-- A ligature control message that still has to be sent (R326, R327): the member's die, OPSEQ, LTYPE, and the module that it
goes to. -/
structure OwedMsg where
  die : Nat
  opseq : Nat
  ltype : Nat
  dest : Nat
  deriving DecidableEq, Repr

/-- A group entry, LIG_GRPg and LIG_GERRg (R307, R308, R323), with the aborts of operations that a member has not launched
yet (die, OPSEQ, rank) and the control messages that wait to be sent. -/
structure Group where
  valid : Bool := false
  trusted : Bool := false
  tenant : Nat := 0
  gid : Nat := 0
  epoch : Nat := 0
  nm1 : Nat := 0
  qoff : Nat := 0
  window : Nat := 0
  tmo : Nat := 100
  rankVa : Nat := 0
  setst : Nat := 0
  members : Nat := 0
  ranks : List (Nat × Nat) := []
  tabCrc : Nat := 0
  launched : SMap Nat := []
  aborted : List (Nat × Nat × Nat) := []
  owed : List OwedMsg := []
  paused : Bool := false
  dig0 : Nat := 0
  digX : Nat := 0
  deriving DecidableEq, Repr

/-- The start-up stages (R355). -/
inductive Stage where
  | power | firmware | die | links | discovery | ready | halted | failed
  deriving DecidableEq, Repr

/-- A request that the MMC serves (R368 to R370). -/
structure MmcReq where
  path : MmcPath
  op : Nat
  record : Nat
  bytes : List Byte
  deriving DecidableEq, Repr

/-- A slot as it was written at manufacture. -/
def ImageSlot.made (b : Bool) : ImageSlot :=
  { keyX := (Config.slotKey b).extractLsb' 384 384, keyY := (Config.slotKey b).extractLsb' 0 384
    sigR := (Config.slotSignature b).extractLsb' 384 384, sigS := (Config.slotSignature b).extractLsb' 0 384
    digest := Config.slotDigest b, version := Config.slotVersion b, mmc := Config.slotFirmware b 0
    computeDie := Config.slotFirmware b 1, portDie := Config.slotFirmware b 2 }

/-- The module's own registers, pins and its management controller (R19, R21, R348 to R371, R389 to R399), with what is fused into
it and its image slots (R358). `retest` says that the next bring-up trains and tests the stacks (R354), `trips` counts the
thermal trips that the MMC has recorded (R351). (DESIGN CHOICE: log entry 6; DESIGN CHOICE: log entry 81). -/
structure Module where
  stage : Stage := .power
  bootErr : Nat := 0
  slot : Bool := false
  bootNs : Nat := 0
  evict : Bool := false
  reply : Bool := false
  locked : Bool := false
  placeValid : Bool := false
  place : Nat := 0
  full : Bool := false
  retest : Bool := true
  failed : Bool := false
  fcause : Nat := 0
  dieA : Nat := 0
  dieB : Nat := 0
  portDie : Nat := 0
  wdt : Nat := 21
  fwin : Nat := 60
  timeNs : Nat := 0
  idleCyc : Nat := 0
  coreCyc : Nat := 0
  govMhz : Nat := 2000
  thermMhz : Option Nat := none
  therm : Bool := false
  plimit : Nat := 4500
  ceiling : Nat := 2000
  plimitNew : Nat := 4500
  ceilingNew : Nat := 2000
  vinOk : Bool := true
  pgIn : Bool := true
  powerOn : Bool := true
  tripLatch : Bool := false
  trips : Nat := 0
  alert : Bool := false
  compatStrap : Bool := false
  mmcStandby : Bool := true
  mmcRun : Bool := true
  portDies : SMap Bool := []
  slotA : ImageSlot := ImageSlot.made false
  slotB : ImageSlot := ImageSlot.made true
  fuseKey : BitVec 384 := Config.keyDigest
  fuseVersion : Nat := Config.minVersion
  measurement : BitVec 384 := 0
  records : SMap (BitVec 2048) := []
  i3cAddr : Nat := 0x3A
  mmcQueue : List MmcReq := []
  mbBusy : Bool := false
  mbResult : Nat := 0
  mbRecord : Nat := 0
  mbOp : Nat := 0
  mbData : Memory := []
  i3cStatus : Nat := 0
  i3cData : List Byte := []
  i3cOut : List Byte := []
  sensors : BitVec 2048 := 0
  deriving DecidableEq, Repr

/-- A message that the module sent to a host: an MSI-X message (R261). (DESIGN CHOICE: log entry 8). -/
structure HostMsg where
  fn : Nat
  vec : Nat
  addr : Nat
  data : Nat
  deriving DecidableEq, Repr

/-- The state of the block. -/
structure State where
  pending : List Instr := []
  mem : Memory := []
  poison : List Nat := []
  frames : SMap FrameUse := []
  l2used : List Nat := []
  l2first : Nat := 0
  l2frames : Nat := 0
  host : SMap Byte := []
  ringData : SMap Byte := []
  cores : SMap Core := []
  dies : SMap Die := []
  queues : SMap Queue := []
  cmds : List Cmd := []
  funcs : SMap Func := []
  windows : SMap Window := []
  links : SMap HostLink := []
  mgmt : Option Nat := none
  fab : Fabric := {}
  groups : SMap Group := []
  ligOps : List LigOp := []
  ligMsgs : List LigMsg := []
  mod : Module := {}
  hostMsgs : List HostMsg := []
  completion : List Byte := []
  aer : SMap Nat := []
  free : Nat := 0
  deriving DecidableEq, Repr

/-- The machine right after a power-on reset (R352): PG_IN has risen with the input in range, the stage is POWER,
and every register has its reset value. (DESIGN CHOICE: log entry 6; DESIGN CHOICE: log entry 71). -/
def State.reset : State := {}

end Sys2Proof.Machine
end

