-- ==== Sys2Proof/Machine/Operands.lean ====
section
/-! DEFINITION. Operand forms: the fields of an instruction word in every format, and which row of the command
table a word belongs to, with every check of R62, R114, R122, R135, R147 to R149, R252 and R314 on reserved
values and unused fields. A word that belongs to no row raises the illegal-instruction trap. -/

namespace Sys2Proof.Machine

/-- The rows of the command table that are instruction words. -/
inductive Row where
  | setk | addpc | gol | gor | jcond | load | store | ldf | stf | aluImm | aluReg | multiply | divide
  | fpArith | fpMinmax | fpCompare | fpSign | dtoi | itod | fpMove | atomic
  | fenceCore | fenceDie | fenceDev | fenceSys | fenceCode
  | srd | swr | smw | hret | pause | done | bmov | bfill | bcmp | bscan | cpAbsent | mdset | mm
  | vfp | vint | vcmp | vxf | vwake | vcvt | vmv | vbcx | vbcf | viota | vsldn | vslup
  | vsumF | vmaxF | vminF | vsumI | vpopc | vfirst | vld | vst | vgath | vscat
  | vrrd | vrst | vrraw | vrcomb | vrclr | vedset | vmsk | feedStart | feedWait | ligStart | ligWait
  deriving DecidableEq, Repr

/-- Bits [6:0]: the major opcode (R147). -/
def wMajor (w : Word32) : Nat := fld w 0 7
/-- Bits [11:7]: RD of the scalar formats, D of the vector format. -/
def wRd (w : Word32) : Nat := fld w 7 5
/-- Bits [16:12]: RS1, S1. -/
def wRs1 (w : Word32) : Nat := fld w 12 5
/-- Bits [21:17]: RS2, S2. -/
def wRs2 (w : Word32) : Nat := fld w 17 5
/-- Bits [24:22]: FUNCT3, TYPE. -/
def wF3 (w : Word32) : Nat := fld w 22 3
/-- Bits [31:25]: FUNCT7 of format X. -/
def wF7 (w : Word32) : Nat := fld w 25 7
/-- K of format K: [31:25] and [21:17], signed (R147). -/
def wKK (w : Word32) : Int := (BitVec.ofNat 12 (fld w 25 7 * 32 + fld w 17 5)).toInt
/-- K of format P: [31:25] and [11:7], signed. -/
def wKP (w : Word32) : Int := (BitVec.ofNat 12 (fld w 25 7 * 32 + fld w 7 5)).toInt
/-- K of format W: [31:12], signed. -/
def wKW (w : Word32) : Int := sfld w 12 20
/-- Status register number of SRD (format K), as the 12 bits of K. -/
def wNumK (w : Word32) : Nat := fld w 25 7 * 32 + fld w 17 5
/-- Status register number of SWR and SMW (format P). -/
def wNumP (w : Word32) : Nat := fld w 25 7 * 32 + fld w 7 5
/-- Bits [31:29]: FUNCT of the vector format (R114). -/
def vFunct (w : Word32) : Nat := fld w 29 3
/-- Bit [28]: MZ. -/
def vMz (w : Word32) : Bool := w.getLsbD 28
/-- Bits [27:25]: MASK. -/
def vMask (w : Word32) : Nat := fld w 25 3
/-- Bits [24:22]: TYPE. -/
def vType (w : Word32) : Nat := fld w 22 3

/-- The status register numbers that exist (R145). -/
def srListed (n : Nat) : Bool :=
  [0x000, 0x001, 0x002, 0x003, 0x008, 0x009, 0x00A, 0x00B, 0x010, 0x020, 0x021, 0x022, 0x023, 0x024,
   0x025, 0x026, 0x100, 0x101, 0x102, 0x103, 0x104, 0x110, 0x111, 0x112].contains n

/-- A row when its word passes its checks. -/
def rowIf (ok : Bool) (r : Row) : Option Row := if ok then some r else none

/-- The scalar rows by major opcode, FUNCT3 and FUNCT7 (R148). -/
def rowScalar (w : Word32) : Option Row :=
  let f3 := wF3 w
  let f7 := wF7 w
  let r2z := wRs2 w == 0
  match wMajor w with
  | 0x01 => some .setk
  | 0x02 => some .addpc
  | 0x03 => some .gol
  | 0x04 => rowIf (f3 == 0) .gor
  | 0x05 => rowIf (f3 ≤ 5) .jcond
  | 0x08 => rowIf (f3 ≤ 6) .load
  | 0x09 => rowIf (f3 ≤ 3) .store
  | 0x0A => rowIf (f3 == 0) .ldf
  | 0x0B => rowIf (f3 == 0) .stf
  | 0x10 => rowIf (f3 ≤ 5 || (f3 == 6 && fld w 25 7 / 8 == 0 && wNumK w / 64 != 3)) .aluImm
  | 0x11 =>
    match f7 with
    | 0 => some .aluReg
    | 1 => if f3 ≤ 2 then some .multiply else rowIf (f3 ≤ 6) .divide
    | 2 => rowIf (f3 ≤ 1) .aluReg
    | _ => none
  | 0x18 =>
    if f3 ≠ 0 then none else
    match f7 with
    | 0 | 1 | 2 | 3 => some .fpArith
    | 4 => rowIf r2z .fpArith
    | 5 | 6 => some .fpMinmax
    | 7 | 8 | 9 => some .fpCompare
    | 10 | 11 => rowIf r2z .fpSign
    | 12 => some .fpSign
    | 13 => rowIf r2z .dtoi
    | 14 => rowIf r2z .itod
    | 15 | 16 => rowIf r2z .fpMove
    | _ => none
  | 0x19 => rowIf (f3 == 0 && f7 == 0) .fpArith
  | 0x20 => rowIf (f7 == 0 && f3 ≤ 6) .atomic
  | 0x28 =>
    if wNumK w ≠ 0 || wRs1 w ≠ 0 || wRd w ≠ 0 then none else
    match f3 with
    | 0 => some .fenceCore
    | 1 => some .fenceDie
    | 2 => some .fenceDev
    | 3 => some .fenceSys
    | 4 => some .fenceCode
    | _ => none
  | 0x30 =>
    let allZero := wNumK w == 0 && wRs1 w == 0 && wRd w == 0
    match f3 with
    | 0 => rowIf (srListed (wNumK w) && wRs1 w == 0) .srd
    | 1 => rowIf (srListed (wNumP w) && r2z) .swr
    | 2 => rowIf (srListed (wNumP w)) .smw
    | 3 => rowIf allZero .hret
    | 4 => rowIf allZero .pause
    | 5 => rowIf (wNumK w == 0 && wRd w == 0) .done
    | _ => none
  | 0x38 =>
    if f7 ≠ 0 then none else
    match f3 with
    | 0 => some .bmov
    | 1 => some .bfill
    | 2 => some .bcmp
    | 3 => some .bscan
    | _ => none
  | _ => none

/-- The vector rows by group and FUNCT (R114, R115, R122, R123, R130, R131, R135). VRCOMB and VRCLR write no register, so
MZ counts as a field that they do not use. (DESIGN CHOICE: log entry 72). -/
def rowVector (w : Word32) : Option Row :=
  let fn := vFunct w
  let s1z := wRs1 w == 0
  let s2z := wRs2 w == 0
  let dz := wRd w == 0
  let mz0 := !(vMz w)
  let dMask := wRd w < 8
  let s1Mask := wRs1 w < 8
  let s2Mask := wRs2 w < 8
  let plain := vMask w == 0 && mz0 && vType w == 0
  match wMajor w with
  | 0x50 => rowIf (fn ≠ 7 || s2z) .vfp
  | 0x51 => some .vint
  | 0x52 => rowIf (dMask && (fn < 6 || s2z)) .vcmp
  | 0x53 => if fn = 7 then rowIf (plain && dz && s2z && wRs1 w < 4) .vwake else rowIf (fn = 0 || s2z) .vxf
  | 0x54 =>
    match fn with
    | 0 => some .vcvt
    | 1 => rowIf s2z .vmv
    | 2 => rowIf s2z .vbcx
    | 3 => rowIf s2z .vbcf
    | 4 => rowIf (s1z && s2z) .viota
    | 5 => some .vsldn
    | 6 => some .vslup
    | _ => none
  | 0x55 =>
    if !(mz0 && s2z) then none else
    match fn with
    | 0 => some .vsumF
    | 1 => some .vmaxF
    | 2 => some .vminF
    | 3 => some .vsumI
    | 4 => rowIf s1Mask .vpopc
    | 5 => rowIf s1Mask .vfirst
    | _ => none
  | 0x56 => if fn = 0 then some .vld else rowIf (fn == 1 && mz0) .vst
  | 0x57 => if fn = 0 then some .vgath else rowIf (fn == 1 && mz0) .vscat
  | 0x58 =>
    match fn with
    | 0 => some .vrrd
    | 1 => rowIf mz0 .vrst
    | 2 => rowIf s2z .vrraw
    | 3 => rowIf (mz0 && s2z) .vrcomb
    | 4 => rowIf (mz0 && s2z && dz) .vrclr
    | 5 => rowIf (dMask && plain) .vedset
    | _ => none
  | 0x59 =>
    if !(plain && dMask && s1Mask && s2Mask) then none else
    match fn with
    | 0 | 1 | 2 | 3 => some .vmsk
    | 4 => rowIf s2z .vmsk
    | 5 | 6 => rowIf (s1z && s2z) .vmsk
    | _ => none
  | _ => none

/-- The coprocessor rows (R62, R149, R252, R314). -/
def rowCoprocessor (w : Word32) : Option Row :=
  match wMajor w with
  | 0x70 =>
    let op := fld w 7 3
    if fld w 26 6 ≠ 0 then none
    else if op = 4 then rowIf (fld w 10 2 == 0) .mdset
    else rowIf (op < 4 && fld w 10 2 < 3 && fld w 24 2 < 2) .mm
  | 0x71 => rowIf (fld w 17 15 == 0) .feedStart
  | 0x72 => rowIf (fld w 17 15 == 0) .feedWait
  | 0x73 =>
    if wF7 w ≠ 0 || wRs2 w ≠ 0 then none
    else if wF3 w = 0 then some .ligStart else rowIf (wF3 w == 1) .ligWait
  | m => rowIf (decide (0x74 ≤ m ∧ m ≤ 0x7F)) .cpAbsent

/-- The row of an instruction word; `none` raises the illegal-instruction trap (R148). -/
def rowOf (w : Word32) : Option Row :=
  let m := wMajor w
  if m < 0x50 then rowScalar w else if m < 0x70 then rowVector w else rowCoprocessor w

/-- The x registers that an instruction word of a row reads (R114, R115, R124, R126, R127, R130, R131, R144, R147, R148,
R155, R252, R314). A locator's second register, x[s2 + 1] or x[D + 1], is its instruction's own check. -/
def xReads (r : Row) (w : Word32) : List Nat :=
  match r with
  | .gor | .load | .ldf | .stf | .aluImm | .itod | .swr | .done | .feedStart | .feedWait | .ligStart | .ligWait => [wRs1 w]
  | .jcond | .store | .aluReg | .multiply | .divide | .smw => [wRs1 w, wRs2 w]
  | .mdset => [fld w 16 5, fld w 21 5]
  | .fpMove => if wF7 w = 16 then [wRs1 w] else []
  | .atomic => [wRs1 w, wRs2 w] ++ (if wF3 w = 6 then [wRd w] else [])
  | .bmov | .bfill | .bcmp | .bscan => [wRd w, wRs1 w, wRs2 w]
  | .vcmp => if 6 ≤ vFunct w then [wRs1 w] else []
  | .vcvt | .vsldn | .vslup => [wRs2 w]
  | .vbcx | .vgath | .vscat | .vrrd | .vrraw | .vrcomb | .vrclr => [wRs1 w]
  | .vrst => [wRs1 w, wRd w]
  | .vld | .vst | .vedset => [wRs1 w, wRs2 w]
  | _ => []

/-- The f registers that an instruction word of a row reads (R115, R130, R148). -/
def fReads (r : Row) (w : Word32) : List Nat :=
  match r with
  | .stf => [wRs2 w]
  | .fpArith =>
    if wMajor w = 0x19 then [wRs1 w, wRs2 w, wRd w] else if wF7 w = 4 then [wRs1 w] else [wRs1 w, wRs2 w]
  | .fpMinmax | .fpCompare => [wRs1 w, wRs2 w]
  | .fpSign => if wF7 w = 12 then [wRs1 w, wRs2 w] else [wRs1 w]
  | .dtoi => [wRs1 w]
  | .fpMove => if wF7 w = 15 then [wRs1 w] else []
  | .vbcf => [wRs1 w]
  | .vrrd | .vrst => [wRs2 w]
  | _ => []

/-- The element format of a TYPE code (R113); 6 and 7 are raw bytes and raw 4-bit elements. -/
def typeFmt : Nat → Fmt
  | 0 => .fp64 | 1 => .fp32 | 2 => .bf16 | 3 => .fp16 | 4 => .int64 | 5 => .int32 | 6 => .int8 | _ => .fp4

/-- Elements of one register of TYPE (R113). -/
def typeCount (t : Nat) : Nat := (typeFmt t).count

/-- Width in bits of one element of TYPE. -/
def typeWidth (t : Nat) : Nat := (typeFmt t).width

/-- The TYPE codes a vector row allows (R113, R114, R115, R123): any other raises the illegal-operand trap. VCVT's
TYPE is a part number and the VRES rows' TYPE names a descriptor. -/
def typeOk (r : Row) (w : Word32) : Bool :=
  let t := vType w
  match r with
  | .vfp | .vxf | .vbcf | .vmaxF | .vminF => decide (t ≤ 3)
  | .vint | .viota | .vsumI => decide (t = 4 ∨ t = 5)
  | .vcmp => if vFunct w < 5 then decide (t ≤ 5) else if vFunct w = 5 then decide (t = 4 ∨ t = 5) else true
  | .vbcx => decide (4 ≤ t ∧ t ≤ 6)
  | .vsumF => decide (t ≤ 1)
  | .vgath | .vscat => decide (t ≤ 6)
  | _ => true

end Sys2Proof.Machine
end

