-- ==== Sys2Proof/Machine/Ops.lean ====
section
/-! DEFINITION. The named operations on the parts of the state: cores and contexts and their registers, dies,
functions, queues, commands, ports and groups; interrupts and time; MSI-X messages, fault records and counters. -/

namespace Sys2Proof

/-- The number 20 × die + core of a context's core (R271). -/
def CtxRef.key (c : CtxRef) : Nat := 20 * c.die.toNat + c.core.toNat

/-- The number 20 × die + core of a core (R271). -/
def CoreRef.key (c : CoreRef) : Nat := 20 * c.die.toNat + c.core.toNat

/-- The context's number. -/
def CtxRef.idx (c : CtxRef) : Nat := c.ctx.toNat

/-- The die of a command: that of its queue (R223). -/
def CmdRef.die (r : CmdRef) : Nat := r.queue.toNat / 512

end Sys2Proof

namespace Sys2Proof.Machine

/-- MXU_FSTAT (R86): the fields read 0 while VALID is 0. -/
def Fstat.value (f : Fstat) : Nat :=
  b2n f.ovr * 2 ^ 30 + (if f.valid then 2 ^ 31 + f.ctx * 2 ^ 28 + f.shape * 2 ^ 26 + f.mode * 2 ^ 24 + f.fmt * 2 ^ 20
    + f.block * 2 ^ 16 + f.index * 2 ^ 3 + f.kind * 2 else 0)

/-- What a command's meaning answers. -/
abbrev Result := Host.Outcome State Fault Refusal

/-- The number 20 × die + core of a core (R271). -/
def coreKey (die core : Nat) : Nat := 20 * die + core

/-- The core of number `k` (R271). -/
def State.core (s : State) (k : Nat) : Core := SMap.get s.cores k {}

/-- Changes one core. -/
def State.updCore (s : State) (k : Nat) (f : Core → Core) : State :=
  { s with cores := SMap.set s.cores k (f (s.core k)) }

/-- A context of a core (R140). -/
def Core.ctx (k : Core) (j : Nat) : Ctx := SMap.get k.ctxs j {}

/-- Changes one context of a core. -/
def Core.updCtx (k : Core) (j : Nat) (f : Ctx → Ctx) : Core :=
  { k with ctxs := SMap.set k.ctxs j (f (k.ctx j)) }

/-- A context by core number and context number. -/
def State.ctx (s : State) (k j : Nat) : Ctx := (s.core k).ctx j

/-- Changes one context. -/
def State.updCtx (s : State) (k j : Nat) (f : Ctx → Ctx) : State := s.updCore k (fun c => c.updCtx j f)

/-- A die. -/
def State.die (s : State) (d : Nat) : Die := SMap.get s.dies d {}

/-- Changes one die. -/
def State.updDie (s : State) (d : Nat) (f : Die → Die) : State := { s with dies := SMap.set s.dies d (f (s.die d)) }

/-- A function (R257). -/
def State.func (s : State) (n : Nat) : Func := SMap.get s.funcs n {}

/-- Changes one function. -/
def State.updFunc (s : State) (n : Nat) (f : Func → Func) : State :=
  { s with funcs := SMap.set s.funcs n (f (s.func n)) }

/-- A queue (R224). -/
def State.queue (s : State) (q : Nat) : Queue := SMap.get s.queues q {}

/-- Changes one queue. -/
def State.updQueue (s : State) (q : Nat) (f : Queue → Queue) : State :=
  { s with queues := SMap.set s.queues q (f (s.queue q)) }

/-- A host link; MOD_VFALLOCh.FIRST is 4 + 15h at reset (R257). -/
def State.link (s : State) (h : Nat) : HostLink := SMap.get s.links h { vfFirst := 4 + 15 * h }

/-- Changes one host link. -/
def State.updLink (s : State) (h : Nat) (f : HostLink → HostLink) : State :=
  { s with links := SMap.set s.links h (f (s.link h)) }

/-- A window entry (R220). -/
def State.window (s : State) (w : Nat) : Window := SMap.get s.windows w {}

/-- Changes one window entry. -/
def State.updWindow (s : State) (w : Nat) (f : Window → Window) : State :=
  { s with windows := SMap.set s.windows w (f (s.window w)) }

/-- A group entry (R307). -/
def State.group (s : State) (g : Nat) : Group := SMap.get s.groups g {}

/-- Changes one group entry. -/
def State.updGroup (s : State) (g : Nat) (f : Group → Group) : State :=
  { s with groups := SMap.set s.groups g (f (s.group g)) }

/-- Changes the module's own registers. -/
def State.updMod (s : State) (f : Module → Module) : State := { s with mod := f s.mod }

/-- Changes the fabric state. -/
def State.updFab (s : State) (f : Fabric → Fabric) : State := { s with fab := f s.fab }

/-- An optical port (R278). -/
def State.port (s : State) (p : Nat) : Port := SMap.get s.fab.ports p {}

/-- Changes one optical port. -/
def State.updPort (s : State) (p : Nat) (f : Port → Port) : State :=
  s.updFab (fun fab => { fab with ports := SMap.set fab.ports p (f (s.port p)) })

/-- The oldest command in flight with a queue and SEQ (R244). -/
def State.cmd (s : State) (r : CmdRef) : Option Cmd := s.cmds.find? (fun c => c.ref == r)

/-- Changes the oldest command with a queue and SEQ. -/
def State.updCmd (s : State) (r : CmdRef) (f : Cmd → Cmd) : State :=
  { s with cmds := updFirst (fun c => c.ref == r) f s.cmds }

/-- Writes bytes into stack memory. (DEDUCED: log entry 4). -/
def State.putMem (s : State) (a : Nat) (bs : List Byte) : State := { s with mem := Memory.writeBytes s.mem a bs }

/-- Writes an n-byte little-endian number into stack memory. -/
def State.putMemLe (s : State) (a n v : Nat) : State := { s with mem := Memory.writeLe s.mem a n v }

/-- Zeroes a range of stack memory. -/
def State.zeroMem (s : State) (a n : Nat) : State := { s with mem := Memory.zero s.mem a n }

/-- A host byte address as a key: link and bus address. -/
def hostKey (link addr : Nat) : Nat := link * 2 ^ 64 + addr % 2 ^ 64

/-- Bytes put into a sparse byte map from `a` on. -/
def putBytes : SMap Byte → Nat → List Byte → SMap Byte
  | m, _, [] => m
  | m, a, b :: bs => putBytes (SMap.set m a b) (a + 1) bs

/-- Writes bytes into host memory (posted writes, R268). (DESIGN CHOICE: log entry 8). -/
def State.putHost (s : State) (link addr : Nat) (bs : List Byte) : State :=
  { s with host := putBytes s.host (hostKey link addr) bs }

/-- The next fresh number of the model's own free-value counter. (DESIGN CHOICE: log entry 5). -/
def State.fresh (s : State) : Nat × State := (s.free, { s with free := s.free + 1 })

/-- The owner of a core (R271). -/
def State.tenantOf (s : State) (k : Nat) : Nat := (s.core k).owner

/-- The place identifier (R20): MODULE is 0 until a module number is assigned (R22). -/
def State.place (s : State) (die core : Nat) : Nat :=
  (if s.mod.placeValid then s.mod.place else 0) * 1024 + die * 32 + core

/-- x[r]; x0 reads 0 (R140). -/
def Ctx.rx (c : Ctx) (r : Nat) : Word := if r = 0 then 0 else SMap.get c.x r 0

/-- Writes x[r]; a write to x0 is discarded (R140). -/
def Ctx.wx (c : Ctx) (r : Nat) (v : Word) : Ctx := if r = 0 then c else { c with x := SMap.set c.x r v }

/-- f[r]. -/
def Ctx.rf (c : Ctx) (r : Nat) : Word := SMap.get c.f r 0

/-- Writes f[r]. -/
def Ctx.wf (c : Ctx) (r : Nat) (v : Word) : Ctx := { c with f := SMap.set c.f r v }

/-- The value of a generator state; the entropy source gives a non-zero value (R45, R47). (DEDUCED: log entry 9). -/
def GenState.value : GenState → BitVec 32
  | .val v => v
  | .entropy src n => let v := Config.entropy src n; if v = 0 then 1 else v

/-- A count that stops at the largest value of its width. -/
def satAdd (width a n : Nat) : Nat := min (a + n) (2 ^ width - 1)

/-- A bit-vector count that stops at all ones. -/
def satAddBv {w : Nat} (v : BitVec w) (n : Nat) : BitVec w := BitVec.ofNat w (satAdd w v.toNat n)

/-- Adds saturated and flushed counts to a context (R52). -/
def Ctx.addCounts (c : Ctx) (sat flush : Nat) : Ctx :=
  { c with cvtsat := satAddBv c.cvtsat sat, cvtflush := satAddBv c.cvtflush flush }

/-- Nanoseconds since module reset (R145). -/
def State.time (s : State) : Word := BitVec.ofNat 64 s.mod.timeNs

/-- APEND (R150): 1 while ISA_TIME is at least ISA_ALARM. -/
def State.apend (s : State) (c : Ctx) : Bool := decide (c.alarm.toNat ≤ s.mod.timeNs % 2 ^ 64)

/-- Some pending bit has its enable bit set (R153, R154). -/
def State.irqPending (s : State) (c : Ctx) : Bool :=
  (c.cpend && c.cen) || (s.apend c && c.aen) || (c.ppend && c.pen)

/-- An interrupt is taken before the next instruction (R153). -/
def State.irqTaken (s : State) (c : Ctx) : Bool := c.gate && c.hen && s.irqPending c

/-- A physical function exists while its link is trained; a virtual function while its physical function exists
and NumVFs exceeds its number (R257). The host link of a function. -/
def State.funcLink (s : State) (n : Nat) : Nat :=
  if n < 4 then n else
  ((List.range 4).find? (fun h =>
    let l := s.link h
    decide (l.vfFirst ≤ n ∧ n < l.vfFirst + l.vfCount))).getD 0

/-- The function exists (R257). -/
def State.funcExists (s : State) (n : Nat) : Bool :=
  let h := s.funcLink n
  let l := s.link h
  if n < 4 then l.up
  else l.up && decide (l.vfFirst ≤ n ∧ n < l.vfFirst + l.vfCount ∧ n - l.vfFirst < l.numVfs)

/-- The function is the managing function (R258). -/
def State.isMgmt (s : State) (n : Nat) : Bool := s.mgmt == some n

/-- The MSI-X table entry of a vector: address in [63:0], data in [95:64], mask in [96]; masked at reset. -/
def Func.vector (f : Func) (v : Nat) : BitVec 128 := SMap.get f.msix v (BitVec.ofNat 128 (2 ^ 96))

/-- The vector is not masked and MSI-X is enabled (R261). (PRESUMED: log entry 7). -/
def Func.vectorOpen (f : Func) (v : Nat) : Bool := f.msixEn && !(f.vector v).getLsbD 96

/-- Sends a vector's message (R261). (DESIGN CHOICE: log entry 8). -/
def State.sendMsix (s : State) (n v : Nat) : State :=
  let e := (s.func n).vector v
  { s with hostMsgs := s.hostMsgs ++ [{ fn := n, vec := v, addr := fld e 0 64, data := fld e 64 32 }] }

/-- Raises a vector: the message is sent, or its pending bit is set while masked or disabled (R261). -/
def State.raiseVec (s : State) (n v : Nat) : State :=
  if (s.func n).vectorOpen v then s.sendMsix n v
  else s.updFunc n (fun f => { f with msixPend := if f.msixPend.contains v then f.msixPend else v :: f.msixPend })

/-- An AER event of a function: kind 0 Unsupported Request, 1 poisoned, 2 a correctable error of its link, 3 ERR_FATAL (R196,
R260, R263, R385). (DESIGN CHOICE: log entry 8). -/
def State.aerLog (s : State) (n kind : Nat) : State :=
  { s with aer := SMap.set s.aer (4 * n + kind) (SMap.get s.aer (4 * n + kind) 0 + 1) }

/-- Entries of the fault ring (R215). -/
def Func.fqEntries (f : Func) : Nat := 64 * 2 ^ min f.fqSize 6

/-- The ring is full when TAIL + 1 equals HEAD (R215). -/
def Func.fqFull (f : Func) : Bool := (f.fqTail + 1) % f.fqEntries == f.fqHead % f.fqEntries

/-- Advances TAIL past a written record; the phase changes on each pass through entry 0 (R214, R215). -/
def Func.fqAdvance (f : Func) : Func :=
  let t := (f.fqTail + 1) % f.fqEntries
  { f with fqTail := t, fqPhase := if t = 0 then !f.fqPhase else f.fqPhase }

/-- A phase byte (R214, R233). -/
def phaseByte (p : Bool) : Byte := if p then 0x80 else 0

/-- Writes a record of 31 bytes and its phase at TAIL, then raises the queue's vector (R213, R215). -/
def State.putRecord (s : State) (n : Nat) (bytes : List Byte) : State :=
  let f := s.func n
  let addr := f.fqBase.toNat * 4096 + 32 * f.fqTail
  let s1 := s.putHost (s.funcLink n) addr (bytes.take 31 ++ [phaseByte f.fqPhase])
  (s1.updFunc n Func.fqAdvance).raiseVec n f.fqVec

/-- Writes a record that is not a page fault: dropped and counted while the ring is full or off (R215). -/
def State.record (s : State) (n : Nat) (bytes : List Byte) : State :=
  let f := s.func n
  if f.fqEn && !f.fqFull then s.putRecord n bytes
  else s.updFunc n (fun f => { f with fqDrop := satAdd 16 f.fqDrop 1 })

/-- SOURCE of a fault record (R214). (DEDUCED: log entry 27). -/
def State.sourceOf (s : State) (die core ctx engine feed : Nat) (write : Bool) : Nat :=
  s.place die core + ctx * 2 ^ 20 + engine * 2 ^ 22 + feed * 2 ^ 25 + b2n write * 2 ^ 28

/-- The 31 bytes of a record of type 0 to 2 (R214). -/
def recordBytes (addr tag type cause source queue seq count : Nat) : List Byte :=
  leBytes 8 addr ++ leBytes 2 tag ++ leBytes 1 type ++ leBytes 1 cause ++ leBytes 4 source ++ leBytes 2 queue
    ++ leBytes 2 0 ++ leBytes 4 seq ++ leBytes 4 count ++ leBytes 3 0

/-- The 31 bytes of a TYPE 3 record (R333). -/
def recordBytes3 (addr kind source queue pchi seq outcome tcode : Nat) : List Byte :=
  leBytes 8 addr ++ leBytes 2 0 ++ leBytes 1 3 ++ leBytes 1 kind ++ leBytes 4 source ++ leBytes 2 queue
    ++ leBytes 2 pchi ++ leBytes 4 seq ++ leBytes 4 outcome ++ leBytes 1 tcode ++ leBytes 2 0

/-- A TYPE 4 record goes to the fault queue of the managing function (R334). -/
def State.moduleEvent (s : State) (event addr : Nat) : State :=
  match s.mgmt with
  | none => s
  | some n => s.record n (recordBytes addr 0 4 event (s.place 0 0) 0 0 0)

/-- Adds to a fixed counter of a die (R379). (DESIGN CHOICE: log entry 47). -/
def State.countDie (s : State) (d off n : Nat) : State :=
  s.updDie d (fun x => { x with ctrs := SMap.set x.ctrs off (satAdd 64 (SMap.get x.ctrs off 0) n) })

/-- Adds to a fixed counter of a function (R379). -/
def State.countFunc (s : State) (f off n : Nat) : State :=
  s.updFunc f (fun x => { x with ctrs := SMap.set x.ctrs off (satAdd 64 (SMap.get x.ctrs off 0) n) })

/-- Adds to a counter of a port (R305). -/
def Port.count (p : Port) (off n : Nat) : Port :=
  { p with cnt := SMap.set p.cnt off (satAdd 64 (SMap.get p.cnt off 0) n) }

/-- CTR_SELk selects this event of this context (R377). -/
def selMatches (sel : Word) (event : Nat) (ctx : Option Nat) : Bool :=
  let m := fld sel 16 4
  sel.getLsbD 15 && fld sel 0 8 == event &&
    (m == 0 || (match ctx with | some j => Nat.testBit m j | none => false))

/-- Counts `n` events of a core in its programmable counters (R377, R378). (DESIGN CHOICE: log entry 47). -/
def Core.countEvent (k : Core) (event : Nat) (ctx : Option Nat) (n : Nat) : Core :=
  if n = 0 then k else
  { k with ctrPc := k.ctrSel.foldl (fun pc p =>
      if selMatches p.2 event ctx then SMap.set pc p.1 (satAdd 48 (SMap.get pc p.1 0) n) else pc) k.ctrPc }

/-- Counts an instruction that commits (ISA_RETIRED, R145; event 2, R377). -/
def Core.retire (k : Core) (j : Nat) : Core :=
  (k.updCtx j (fun c => { c with retired := c.retired + 1 })).countEvent 2 (some j) 1

/-- The statuses in the order of R234: a smaller rank goes before a larger one. ALREADY_SENT stands above OK.
(DEDUCED: log entry 39). -/
def statusRank : Nat → Nat
  | 11 => 0 | 12 => 1 | 2 => 2 | 5 => 3 | 7 => 4 | 6 => 5 | 8 => 6 | 10 => 7 | 9 => 8 | 4 => 9 | 1 => 10
  | 3 => 11 | _ => 12

/-- Records an outcome of a command: the first in the order of R234 is kept; of several faults the last gives the DETAIL
(R349). -/
def Cmd.outcome (c : Cmd) (status detail : Nat) : Cmd :=
  if statusRank status < statusRank c.status || (status == 7 && c.status == 7) then { c with status := status, detail := detail } else c

/-- The command completes with an outcome; its reply is still to be written (R235). -/
def Cmd.finish (c : Cmd) (status detail : Nat) : Cmd := { c.outcome status detail with phase := .complete }

/-- The command has started and has not completed. -/
def Cmd.isStarted (c : Cmd) : Bool := c.phase == .started

/-- The command has completed. -/
def Cmd.isComplete (c : Cmd) : Bool := c.phase == .complete

/-- The command waits to start. -/
def Cmd.isWaiting (c : Cmd) : Bool := c.phase == .waiting

/-- The command is in replay (R340). -/
def Cmd.inReplay (c : Cmd) : Bool :=
  match c.phase with
  | .replay _ => true
  | _ => false

/-- The die of a transfer. -/
def xferDie : XferRef → Nat
  | .cmd r => r.die
  | .cp1 c _ => c.die.toNat

/-- The die of a queue (R223). -/
def queueDie (q : Nat) : Nat := q / 512

/-- A field of the packet's 128 bytes (R228): `n` bytes from byte `b`. -/
def Cmd.bytes (c : Cmd) (b n : Nat) : Nat := fld c.packet (8 * b) (8 * n)

/-- ARG (R228). -/
def Cmd.arg (c : Cmd) : Nat := c.bytes 8 8

/-- Parameter word i (R228): P0 to P3 in the packet, P4 and P5 in the extension. -/
def Cmd.param (c : Cmd) (i : Nat) : Nat := if i < 4 then c.bytes (16 + 8 * i) 8 else c.bytes (112 + 8 * (i - 4)) 8

/-- SEQ of a core's context's command, with its queue, for a record. -/
def Ctx.jobNums (c : Ctx) : Nat × Nat :=
  match c.job with
  | some r => (r.queue.toNat, r.seq.toNat)
  | none => (0, 0)

/-- The ISA_CYCLE base of a core that now counts `now` core cycles (milli-cycles of the two accumulators). -/
def State.coreMilli (s : State) (k : Core) : Int :=
  let running := k.ctxs.any (fun p => p.2.mode != .idle)
  k.cycBase + (if running then s.mod.coreCyc else s.mod.idleCyc : Nat)

/-- ISA_CYCLE: core cycles since core reset (R145). -/
def State.isaCycle (s : State) (k : Nat) : Word := BitVec.ofInt 64 (s.coreMilli (s.core k) / 1000)

/-- Changes a core and keeps its cycle count when it goes between idle and running. -/
def State.updCoreTimed (s : State) (k : Nat) (f : Core → Core) : State :=
  let c0 := s.core k
  let c1 := f c0
  let now := s.coreMilli c0
  let acc := s.coreMilli { c1 with cycBase := 0 }
  s.updCore k (fun _ => { c1 with cycBase := now - acc })

end Sys2Proof.Machine
end

