-- ==== Sys2Proof/Machine/Flags.lean ====
section
/-! DEFINITION. Flag computations: the results of FP64 and vector arithmetic with the exception flags they raise
(R115, R116, R139, R142, R148, R400), and the integer operations. -/

namespace Sys2Proof.Machine

/-- A result as a code, with its exception flags and its classes under R51. -/
structure FRes where
  bits : Nat
  flags : BitVec 5 := 0
  sat : Bool := false
  flush : Bool := false
  deriving DecidableEq, Repr

/-- A rounded arithmetic result (R116). -/
def FRes.ofArith (f : Fmt) (r : FVal × BitVec 5) : FRes :=
  let c := arith f r
  { bits := c.1.bits, flags := c.2, sat := c.1.sat, flush := c.1.flush }

/-- The two-operand and fused operations of VFP by FUNCT (R115): VADD, VSUB, VMUL, VFMA, VFNMA, VMIN, VMAX, VABS.
`d` is the destination's old value. VMIN, VMAX and VABS round nothing. -/
def fpOp (f : Fmt) (funct a b d : Nat) : FRes :=
  let x := f.decode a
  let y := f.decode b
  match funct with
  | 0 => FRes.ofArith f (addF x y)
  | 1 => FRes.ofArith f (addF x y.neg)
  | 2 => FRes.ofArith f (mulF x y)
  | 3 => FRes.ofArith f (fmaF x y (f.decode d))
  | 4 => FRes.ofArith f (fmaF x.neg y (f.decode d))
  | 5 => let r := minMax f false a b; { bits := r.1, flags := r.2 }
  | 6 => let r := minMax f true a b; { bits := r.1, flags := r.2 }
  | _ => { bits := a % f.signBit }

/-- Comparisons (R115, R139, R148): 0 equal, 1 not equal, 2 less, 3 less or equal, 4 unordered. Less and
less-or-equal raise invalid for any NaN, the others for a signalling one. -/
def fpCompare (f : Fmt) (rel a b : Nat) : Bool × BitVec 5 :=
  let x := f.decode a
  let y := f.decode b
  let nan := x.isNan || y.isNan
  let snan := x.isSnan || y.isSnan
  match rel with
  | 0 => (!nan && x.eqv y, flagIf snan flagIV)
  | 1 => (nan || !(x.eqv y), flagIf snan flagIV)
  | 2 => (!nan && x.lt y, flagIf nan flagIV)
  | 3 => (!nan && (x.lt y || x.eqv y), flagIf nan flagIV)
  | _ => (nan, flagIf snan flagIV)

/-- The FP64 operations of major 0x18 that round (R148): DADD, DSUB, DMUL, DDIV, DSQRT. -/
def fp64Op (f7 a b : Nat) : FRes :=
  let x := Fmt.fp64.decode a
  let y := Fmt.fp64.decode b
  match f7 with
  | 0 => FRes.ofArith .fp64 (addF x y)
  | 1 => FRes.ofArith .fp64 (addF x y.neg)
  | 2 => FRes.ofArith .fp64 (mulF x y)
  | 3 => FRes.ofArith .fp64 (divF x y)
  | _ => FRes.ofArith .fp64 (sqrtF x)

/-- DFMA (R148). -/
def fp64Fma (a b d : Nat) : FRes :=
  FRes.ofArith .fp64 (fmaF (Fmt.fp64.decode a) (Fmt.fp64.decode b) (Fmt.fp64.decode d))

/-- DABS, DNEG, DCSGN by FUNCT7 (R148): the sign bit alone changes. -/
def fp64Sign (f7 : Nat) (a b : Word) : Word :=
  match f7 with
  | 10 => a &&& 0x7FFFFFFFFFFFFFFF#64
  | 11 => a ^^^ 0x8000000000000000#64
  | _ => (a &&& 0x7FFFFFFFFFFFFFFF#64) ||| (b &&& 0x8000000000000000#64)

/-- DTOI: to nearest even; NaN and out of range as R41 gives, raising IV; IX when inexact (R148). -/
def fp64ToInt (a : Nat) : FRes :=
  let c := convert .int64 false .rne (Fmt.fp64.decode a)
  { bits := c.bits, flags := c.flags }

/-- ITOD: raises IX when it rounds (R148). -/
def intToFp64 (a : Word) : FRes :=
  let c := convert .fp64 true .rne (FVal.ofInt a.toInt)
  { bits := c.bits, flags := flagIf c.ix flagIX }

/-- A Bool as a 64-bit 0 or 1. -/
def boolWord (b : Bool) : Word := BitVec.ofNat 64 (b2n b)

/-- The register forms of majors 0x11 with FUNCT7 0 and 2 (R148): ADD, SUB, SHL, SHR, SAR, AND, OR, XOR; CLT, CLTU. -/
def aluOp (f7 f3 : Nat) (a b : Word) : Word :=
  if f7 = 2 then (if f3 = 0 then boolWord (BitVec.slt a b) else boolWord (BitVec.ult a b)) else
  let n := b.toNat % 64
  match f3 with
  | 0 => a + b
  | 1 => a - b
  | 2 => a <<< n
  | 3 => a >>> n
  | 4 => a.sshiftRight n
  | 5 => a &&& b
  | 6 => a ||| b
  | _ => a ^^^ b

/-- The constant forms of major 0x10 (R148): ADDK, CLTK, CLTUK, XORK, ORK, ANDK, SHK. SHK takes its amount and its
direction from K itself. -/
def aluImmOp (f3 : Nat) (a : Word) (k : Int) (knum : Nat) : Word :=
  let b := BitVec.ofInt 64 k
  match f3 with
  | 0 => a + b
  | 1 => boolWord (BitVec.slt a b)
  | 2 => boolWord (BitVec.ult a b)
  | 3 => a ^^^ b
  | 4 => a ||| b
  | 5 => a &&& b
  | _ =>
    let n := knum % 64
    match knum / 64 % 4 with
    | 0 => a <<< n
    | 1 => a >>> n
    | _ => a.sshiftRight n

/-- MUL, MULHS, MULHU (R148). -/
def mulOp (f3 : Nat) (a b : Word) : Word :=
  match f3 with
  | 0 => a * b
  | 1 => BitVec.ofInt 64 ((a.toInt * b.toInt) / 2 ^ 64)
  | _ => BitVec.ofNat 64 (a.toNat * b.toNat / 2 ^ 64)

/-- QUO, QUOU, MOD, MODU (R148): toward zero; by zero a quotient of 0 and the dividend as remainder; the smallest
INT64 by −1 wraps to itself with remainder 0. -/
def divOp (f3 : Nat) (a b : Word) : Word :=
  match f3 with
  | 3 => if b = 0 then 0 else BitVec.ofInt 64 (Int.tdiv a.toInt b.toInt)
  | 4 => if b = 0 then 0 else a / b
  | 5 => if b = 0 then a else BitVec.ofInt 64 (Int.tmod a.toInt b.toInt)
  | _ => if b = 0 then a else a % b

/-- The relations of JEQ, JNE, JLT, JLE, JLTU, JLEU (R148). -/
def jumpTaken (f3 : Nat) (a b : Word) : Bool :=
  match f3 with
  | 0 => a == b
  | 1 => a != b
  | 2 => BitVec.slt a b
  | 3 => BitVec.sle a b
  | 4 => BitVec.ult a b
  | _ => BitVec.ule a b

/-- The atomics' new value (R160): ATSWP, ATADD, ATAND, ATOR, ATMIN, ATMAX, ATCAS; `cmp` is ATCAS's comparand. -/
def atomicOp (f3 : Nat) (old b cmp : Word) : Word :=
  match f3 with
  | 0 => b
  | 1 => old + b
  | 2 => old &&& b
  | 3 => old ||| b
  | 4 => if BitVec.slt b old then b else old
  | 5 => if BitVec.slt old b then b else old
  | _ => if old = cmp then b else old

/-- A loaded value by FUNCT3 (R148): LS8, LS16, LS32, L64, LZ8, LZ16, LZ32. -/
def loadExt (f3 v : Nat) : Word :=
  match f3 with
  | 0 => (BitVec.ofNat 8 v).signExtend 64
  | 1 => (BitVec.ofNat 16 v).signExtend 64
  | 2 => (BitVec.ofNat 32 v).signExtend 64
  | 3 => BitVec.ofNat 64 v
  | 4 => (BitVec.ofNat 8 v).setWidth 64
  | 5 => (BitVec.ofNat 16 v).setWidth 64
  | _ => (BitVec.ofNat 32 v).setWidth 64

/-- Bytes of a load by FUNCT3 (R148). -/
def loadBytes (f3 : Nat) : Nat :=
  match f3 with
  | 0 | 4 => 1
  | 1 | 5 => 2
  | 2 | 6 => 4
  | _ => 8

end Sys2Proof.Machine
end

