-- ==== Sys2Proof/Machine/Link.lean ====
section
/-! DEFINITION. Plovzer Link messages (R284): header and payload, cut into flit payloads; the route that the
source writes (R295), the pair's sequence numbers (R293) and the placing of a message at its output port. -/

namespace Sys2Proof.Machine

/-- The message header (R284). -/
structure MsgHdr where
  dest : Nat := 0
  src : Nat := 0
  srcgrp : Nat := 0
  share : Nat := 1
  hops : Nat := 0
  hopptr : Nat := 0
  kind : Nat := 0
  ports : Nat := 0
  func : Nat := 0
  start : Bool := false
  queue : Nat := 0
  mseq : Nat := 0
  window : Nat := 0
  offset : Nat := 0
  len : Nat := 0
  paylen : Nat := 0
  kspec : Nat := 0
  deriving DecidableEq, Repr

/-- The 32 header bytes (R284). -/
def MsgHdr.bytes (h : MsgHdr) : List Byte :=
  leBytes 2 h.dest ++ leBytes 2 h.src ++ leBytes 1 h.srcgrp ++ leBytes 1 h.share
    ++ leBytes 1 (h.hops + 8 * h.hopptr) ++ leBytes 1 h.kind ++ leBytes 3 h.ports
    ++ leBytes 1 (h.func + 64 * b2n h.start) ++ leBytes 2 h.queue ++ leBytes 2 h.mseq ++ leBytes 2 h.window
    ++ leBytes 5 h.offset ++ leBytes 1 h.len ++ leBytes 2 h.paylen ++ leBytes 6 h.kspec

/-- The header that a first flit's payload carries. -/
def MsgHdr.parse (p : BitVec 1920) : MsgHdr :=
  { dest := fld p 0 10, src := fld p 16 10, srcgrp := fld p 32 8, share := fld p 40 8, hops := fld p 48 3,
    hopptr := fld p 51 3, kind := fld p 56 8, ports := fld p 64 20, func := fld p 88 6, start := p.getLsbD 94,
    queue := fld p 96 14, mseq := fld p 112 16, window := fld p 128 12, offset := fld p 144 40,
    len := fld p 184 5, paylen := fld p 192 13, kspec := fld p 208 48 }

/-- The reserved bits of a header are 0 (R284, R303). -/
def hdrReservedOk (p : BitVec 1920) : Bool :=
  fld p 10 6 == 0 && fld p 26 6 == 0 && fld p 54 2 == 0 && fld p 84 4 == 0 && !p.getLsbD 95
    && fld p 110 2 == 0 && fld p 140 4 == 0 && fld p 189 3 == 0 && fld p 205 3 == 0

/-- Bytes cut into 240-byte flit payloads, the last one filled with zeros. -/
def chunk240 : Nat → List Byte → List (BitVec 1920)
  | 0, _ => []
  | n + 1, bs => BitVec.ofNat 1920 (leNat (bs.take 240)) :: (if bs.length ≤ 240 then [] else chunk240 n (bs.drop 240))

/-- A message's flit payloads (R281, R284): 1 to 32. -/
def msgFlits (h : MsgHdr) (payload : List Byte) : List (BitVec 1920) :=
  let n := (32 + payload.length + 239) / 240
  chunk240 32 ({ h with len := n - 1 }.bytes ++ payload)

/-- The header of a message. -/
def msgHdr (fl : List (BitVec 1920)) : MsgHdr := MsgHdr.parse (fl.headD 0)

/-- The payload bytes of a message (PAYLEN of them, R284). -/
def msgPayload (fl : List (BitVec 1920)) : List Byte :=
  (((fl.map (fun p => leBytes 240 p.toNat)).flatten.drop 32).take (msgHdr fl).paylen)

/-- The lane of a class, set and hop lane (R288). -/
def laneOf (cls : Nat) (resp : Bool) (hop : Nat) : Nat := cls * 8 + b2n resp * 4 + hop

/-- Class of a lane. -/
def laneClass (lane : Nat) : Nat := lane / 8

/-- A read response or an acknowledgement travels in the response set (R288). -/
def kindResp (kind : Nat) : Bool := kind == 2 || kind == 4

/-- A route: hops and its packed ports. -/
structure RouteChoice where
  hops : Nat
  ports : Nat
  deriving DecidableEq, Repr

/-- Output port of hop i. -/
def portOfHop (ports i : Nat) : Nat := (ports >>> (5 * i)) % 32

/-- Hops of 1 to 4 are a route; any other value acts as no route (R295). -/
def hopsOk (n : Nat) : Bool := decide (1 ≤ n ∧ n ≤ 4)

/-- The primary route to a module, when valid. -/
def Fabric.primary (f : Fabric) (m : Nat) : Option RouteChoice :=
  let r := SMap.get f.routes m {}
  if r.pv && hopsOk r.phops then some { hops := r.phops, ports := r.pport } else none

/-- The alternate route to a module, when valid. -/
def Fabric.alternate (f : Fabric) (m : Nat) : Option RouteChoice :=
  let r := SMap.get f.routes m {}
  if r.av && hopsOk r.ahops then some { hops := r.ahops, ports := r.aport } else none

/-- A port that is DARK, DEAD or DISABLED. -/
def PortState.gone (p : PortState) : Bool := p == .dark || p == .dead || p == .disabled

/-- The route that the source writes (R295): the alternate when the primary's first port is gone, and for class 7
also when it is in RETRAIN; the primary otherwise. With no valid route there is none. -/
def State.routeTo (s : State) (m cls : Nat) : Option RouteChoice :=
  match s.fab.primary m, s.fab.alternate m with
  | none, a => a
  | some p, none => some p
  | some p, some a =>
    let st := (s.port (portOfHop p.ports 0)).state
    if st.gone || (cls == 7 && st == .retrain) then some a else some p

/-- Puts an item at the end of a port's queue. -/
def State.enqueue (s : State) (p : Nat) (it : TxItem) : State :=
  s.updPort p (fun x => { x with txq := x.txq ++ [it] })

/-- The share of a tenant in link credits (R253 RES 6): 0 is stored as 1, and 1 until it is set. -/
def Func.linkShare (f : Func) : Nat := SMap.get f.quotas 6 1

/-- The module number, while one is assigned (R22). -/
def State.moduleNo (s : State) : Nat := if s.mod.placeValid then s.mod.place else 0

/-- Key of a pair (source queue, destination) in the sender's sequence numbers (R293). -/
def pairKey (queue dest : Nat) : Nat := queue * 1024 + dest

/-- Messages of a pair that wait for their acknowledgement (R294). -/
def Fabric.unackedOf (f : Fabric) (queue dest : Nat) : List Unacked :=
  f.unacked.filter (fun u => u.queue == queue && u.dest == dest)

/-- What became of a message that a command wants to send. -/
inductive SendResult where
  | sent (s : State)
  | noRoute
  | full
  deriving DecidableEq, Repr

/-- Where a message comes from. -/
structure Sender where
  func : Nat
  queue : Nat
  cls : Nat
  cmd : Option CmdRef := none
  engine : Option Engine := none
  rank : Option Nat := none
  va : Nat := 0
  deriving DecidableEq, Repr

/-- Sends an unnumbered message: responses, acknowledgements, notices and management messages. -/
def State.sendPlain (s : State) (sd : Sender) (h : MsgHdr) (payload : List Byte) : SendResult :=
  match s.routeTo h.dest sd.cls with
  | none => .noRoute
  | some r =>
    let hdr := { h with src := s.moduleNo, srcgrp := s.fab.srcGrp, share := (s.func sd.func).linkShare,
                        hops := r.hops, hopptr := 1, ports := r.ports, func := sd.func,
                        paylen := if h.kind = 1 then h.paylen else payload.length }
    let fl := msgFlits hdr payload
    .sent (s.enqueue (portOfHop r.ports 0)
      { flits := fl, total := fl.length, lane := laneOf sd.cls (kindResp h.kind) 0,
        source := some (hdr.src, sd.func), cmd := sd.cmd, engine := sd.engine })

/-- Sends a numbered message of a pair (R293, R294): at most 256 of a pair wait for acknowledgement. The message takes
its sequence number when its first flit is sent (R302), so that a withdrawn message leaves no gap. -/
def State.sendMsg (s : State) (sd : Sender) (h : MsgHdr) (payload : List Byte) : SendResult :=
  if 256 ≤ (s.fab.unackedOf sd.queue h.dest).length then .full else
  let m := s.fab.nextMsg
  match s.sendPlain sd { h with queue := sd.queue, mseq := m } payload with
  | .sent s1 =>
    .sent (s1.updFab (fun f => { f with
      nextMsg := (m + 1) % 65536
      unacked := f.unacked ++ [{ queue := sd.queue, dest := h.dest, mseq := m, cmd := sd.cmd,
                                 engine := sd.engine, rank := sd.rank, va := sd.va }] }))
  | r => r

/-- Withdraws from every port the uncommitted messages that a test of their command and engine picks (R302, R340). -/
def State.withdrawIf (s : State) (p : Option CmdRef → Option Engine → Bool) : State :=
  s.updFab (fun f => { f with
    ports := SMap.mapVals f.ports (fun _ x => { x with txq := x.txq.filter (fun i => !(p i.cmd i.engine && !i.committed)) })
    unacked := f.unacked.filter (fun u => !(p u.cmd u.engine && !u.committed)) })

/-- The engine is a ligature engine. -/
def Engine.isLig : Engine → Bool
  | .ligature _ _ => true
  | _ => false

/-- Withdraws the uncommitted messages of a command; those of its ligature operations stay until the operations end
(R302, R340, R341). -/
def State.withdraw (s : State) (r : CmdRef) : State :=
  s.withdrawIf (fun c e => c == some r && !((e.map Engine.isLig).getD false))

/-- Sends a remote write of some bytes at a window offset (R285). -/
def State.sendWrite (s : State) (sd : Sender) (module window offset : Nat) (payload : List Byte) : SendResult :=
  s.sendMsg sd { dest := module, kind := 0, window := window, offset := offset } payload

/-- The first read tag that no outstanding read request uses. -/
def Fabric.freeReadTag (f : Fabric) : Nat :=
  ((List.range 65536).find? (fun t => !(f.reads.any (fun r => r.tag == t)))).getD 0

/-- Sends a read request and keeps its tag (R285). -/
def State.sendRead (s : State) (sd : Sender) (e : Engine) (die module window offset bytes : Nat) : SendResult :=
  let t := s.fab.freeReadTag
  match s.sendMsg sd { dest := module, kind := 1, window := window, offset := offset, paylen := bytes,
                       kspec := t } [] with
  | .sent s1 => .sent (s1.updFab (fun f => { f with
      reads := f.reads ++ [{ tag := t, engine := e, cmd := sd.cmd, die := die,
                             line := .remote module window offset, bytes := bytes, va := sd.va }] }))
  | r => r

/-- Sends a notice of a code about a message of (queue, mseq) to its source, in class 7 (R300, R303). -/
def State.sendNotice (s : State) (h : MsgHdr) (code : Nat) : State :=
  match s.sendPlain { func := 0, queue := h.queue, cls := 7 }
      { dest := h.src, kind := 5, queue := h.queue, mseq := h.mseq, kspec := code } [] with
  | .sent s1 => s1
  | _ => s

end Sys2Proof.Machine
end

