-- ==== Sys2Proof/Machine/Cache.lean ====
section
/-! DEFINITION. The die cache (R184 to R193): where a stack line lies (R178), ways and pseudo-LRU, keep marks, miss
registers, the eviction buffer, the sequential-store detector. Stack memory holds the one coherent copy of every
line, so these operations change which lines are held and nothing that a read returns. -/

namespace Sys2Proof.Machine

/-- Where an SPA lies (R178): die, home position, channel, slice and set. -/
structure Placed where
  die : Nat
  pos : Nat
  channel : Nat
  slice : Nat
  set : Nat
  deriving DecidableEq, Repr

/-- The home position of a visible frame (R177). -/
def homePos (f : Nat) : Nat := if f < 304 then f / 19 else 16 + (f - 304) / 20

/-- place(spa) of R178. -/
def placeOf (spa : Nat) : Placed :=
  let f := (spa >>> 25) % 512
  let l := (spa >>> 8) % 2 ^ 17
  let q := (l ^^^ (l >>> 2) ^^^ (l >>> 4)) % 4
  let g := (spa >>> 8) % 2 ^ 26
  let h := homePos f
  let ch := 4 * h + q
  { die := (spa >>> 34) % 32, pos := h, channel := ch, slice := ch / 5, set := (g ^^^ (g >>> 11)) % 2048 }

/-- The line number SPA[33:8] within a die. -/
def lineOf (spa : Nat) : Nat := (spa >>> 8) % 2 ^ 26

/-- The SPA of a line of a die. -/
def lineSpa (die line : Nat) : Nat := die * 2 ^ 34 + line * 256

/-- Frame of an SPA (R176). -/
def frameOf (spa : Nat) : Nat := (spa >>> 25) % 512

/-- Die of an SPA (R176). -/
def dieOf (spa : Nat) : Nat := (spa >>> 34) % 32

/-- Key of a frame in the table of frame uses. -/
def frameKey (die frame : Nat) : Nat := die * 512 + frame

/-- The ways that a tenant may allocate in a slice (R185): way 15 of slices 0 to 3 is the blotter's. -/
def Die.ways (d : Die) (fn slice : Nat) : List Nat :=
  let m := SMap.get d.tway fn (if fn < 4 then 0x7FFF else 0)
  (List.range 16).filter (fun w => Nat.testBit m w && !(w == 15 && decide (slice < 4)))

/-- The pseudo-LRU tree after a use of a way: each node on the way's path points away from it. -/
def plruTouch (t : BitVec 15) (way : Nat) : BitVec 15 :=
  (List.range 4).foldl (fun t i =>
    let node := 2 ^ i - 1 + way / 2 ^ (4 - i)
    let bit := (way / 2 ^ (3 - i)) % 2
    ins t node 1 (1 - bit)) t

/-- The way that the pseudo-LRU tree picks among allowed ways, descending `n` levels from a node. -/
def plruPick (t : BitVec 15) (allowed : List Nat) : Nat → Nat → Nat → Nat
  | 0, _, way => way
  | n + 1, node, way =>
    let want := b2n (t.getLsbD node)
    let has (b : Nat) : Bool := allowed.any (fun w => w / 2 ^ n == way * 2 + b)
    let b := if has want then want else 1 - want
    plruPick t allowed n (2 * node + 1 + b) (way * 2 + b)

/-- The die holds the line in its cache. -/
def Die.holds (d : Die) (line : Nat) : Option DcLine := d.lines.find? (fun l => l.line == line)

/-- Number of a set within a die's cache: slice × 2048 + set. -/
def setKey (spa : Nat) : Nat := let p := placeOf spa; p.slice * 2048 + p.set

/-- Slice and set of a host or remote line (R192), numbered as `setKey` does. -/
def scopedPlace (a : Nat) : Nat :=
  ((a >>> 8) % 16 ^^^ (a >>> 12) % 16) * 2048 + ((a >>> 8) ^^^ (a >>> 19)) % 2048

/-- The address within its kind. -/
def Loc.addr : Loc → Nat
  | .stack a => a
  | .host _ a => a
  | .remote _ _ o => o

/-- Stack lines held in a set. -/
def Die.setLines (d : Die) (key : Nat) : List DcLine := d.lines.filter (fun l => setKey (lineSpa 0 l.line) == key)

/-- Host and remote lines held in ways of a set, oldest first (R192). -/
def Die.setScoped (d : Die) (key : Nat) : List ScopedLine :=
  d.cached.filter (fun c => c.way.isSome && scopedPlace c.line.addr == key)

/-- A channel of a die's stack (R183). -/
def Die.chan (d : Die) (c : Nat) : Channel := SMap.get d.chans c {}

/-- Changes one channel. -/
def Die.updChan (d : Die) (c : Nat) (f : Channel → Channel) : Die := { d with chans := SMap.set d.chans c (f (d.chan c)) }

/-- The channel of a line of a die (R178). -/
def chanOf (line : Nat) : Nat := (placeOf (lineSpa 0 line)).channel

/-- Puts a write into a channel's write queue; at 48 entries the channel drains its writes (R183). -/
def Channel.pushWrite (c : Channel) (r : ChanReq) : Channel :=
  { c with writes := c.writes ++ [r], drain := c.drain || decide (48 ≤ c.writes.length + 1) }

/-- The next slot of a queue (R183): weighted round robin over the tenants with requests waiting, the oldest request of the
tenant first; a write waits for an older one of its line. The answer is the request and the slots of the round. Within a
round the tenant goes next whose slots are the smallest part of its weight, the lowest-numbered of equals.
(DESIGN CHOICE: log entry 77). -/
def chanPick (weight : Nat → Nat) (slots : SMap Nat) (q : List ChanReq) : Option (ChanReq × SMap Nat) :=
  let q := q.filter (fun r => q.find? (fun x => x.line == r.line) == some r)
  let tenants := (q.map (fun r => r.tenant)).eraseReps
  let left := tenants.filter (fun t => decide (SMap.get slots t 0 < weight t))
  let slots := if left.isEmpty then [] else slots
  let cost (t : Nat) : Nat := SMap.get slots t 0 + 1
  let better (t u : Nat) : Bool := decide (cost t * weight u < cost u * weight t ∨ (cost t * weight u = cost u * weight t ∧ t < u))
  let pick := (if left.isEmpty then tenants else left).foldl (fun (b : Option Nat) t =>
    match b with
    | none => some t
    | some u => if better t u then some t else some u) none
  pick.bind (fun t => (q.find? (fun r => r.tenant == t)).map (fun r => (r, SMap.set slots t (cost t))))

/-- The read that a channel serves next (R183): reads go first, but not while it drains its writes. -/
def Channel.nextRead (c : Channel) (weight : Nat → Nat) : Option (ChanReq × SMap Nat) :=
  if c.drain then none else chanPick weight c.readSlots c.reads

/-- The write that a channel serves next: while it drains, or when no read waits. -/
def Channel.nextWrite (c : Channel) (weight : Nat → Nat) : Option (ChanReq × SMap Nat) :=
  if c.drain || c.reads.isEmpty then chanPick weight c.writeSlots c.writes else none

/-- A read has been served. -/
def Channel.readDone (c : Channel) (p : ChanReq × SMap Nat) : Channel :=
  { c with reads := delFirst (fun r => r == p.1) c.reads, readSlots := p.2 }

/-- A write has been served: a drain ends at 16 entries (R183). -/
def Channel.writeDone (c : Channel) (p : ChanReq × SMap Nat) : Channel :=
  let w := delFirst (fun r => r == p.1) c.writes
  { c with writes := w, writeSlots := p.2, drain := c.drain && decide (16 < w.length) }

/-- A write goes to the queue of its channel, when that has room for it. -/
def Die.queueWrite (d : Die) (line fn : Nat) (back : Bool) : Option Die :=
  let c := chanOf line
  if 64 ≤ (d.chan c).writes.length then none
  else some (d.updChan c (fun c => c.pushWrite { line := line, tenant := fn, back := back }))

/-- A read of a line goes to the queue of its channel, unless one waits there already; none when the queue is full. -/
def Die.queueRead (d : Die) (line fn : Nat) : Option Die :=
  let c := chanOf line
  if (d.chan c).reads.any (fun r => r.line == line) then some d
  else if 64 ≤ (d.chan c).reads.length then none
  else some (d.updChan c (fun c => { c with reads := c.reads ++ [{ line := line, tenant := fn }] }))

/-- Adds to a fixed counter of the die (R379). -/
def Die.tally (d : Die) (off : Nat) : Die := { d with ctrs := SMap.set d.ctrs off (satAdd 64 (SMap.get d.ctrs off 0) 1) }

/-- Entries of a slice's eviction buffer. -/
def Die.evictsOf (d : Die) (slice : Nat) : List DcEvict :=
  d.evicts.filter (fun e => (placeOf (lineSpa 0 e.line)).slice == slice)

/-- A line leaves its way for an access of a tenant; none while it has to wait (R190, R193, R274). A dirty line enters the
eviction buffer, which has room for 64 entries and 4w of a tenant with w ways; a clean one is dropped. While the SKX2016
offering is selected a dirty line goes to its channel's write queue, and a clean one too while that holds fewer than 48. -/
def Die.evictLine (d : Die) (offer : Bool) (fn : Nat) (l : DcLine) : Option Die :=
  let d1 := { d with lines := d.lines.filter (fun x => x.line != l.line) }
  let slice := (placeOf (lineSpa 0 l.line)).slice
  let here := d.evictsOf slice
  if offer then
    if l.dirty || decide ((d.chan (chanOf l.line)).writes.length < 48) then d1.queueWrite l.line fn true else some d1
  else if !l.dirty then some d1
  else if 64 ≤ here.length || 4 * (d.ways fn slice).length ≤ (here.filter (fun e => e.tenant == fn)).length then none
  else some { d1 with evicts := d1.evicts ++ [{ line := l.line, tenant := fn }] }

/-- The way of a set that a tenant's line takes (R185, R187): a free way that its mask allows, else the pseudo-LRU choice
among ways without a keep line, else among all. None for a tenant with no way. -/
def Die.wayFor (d : Die) (fn key : Nat) : Option Nat :=
  let here := d.setLines key
  let others := d.setScoped key
  let allowed := d.ways fn (key / 2048)
  if allowed.isEmpty then none else
  match allowed.find? (fun w => !(here.any (fun l => l.way == w)) && !(others.any (fun c => c.way == some w))) with
  | some w => some w
  | none =>
    let soft := allowed.filter (fun w => !(here.any (fun l => l.way == w && l.keep)))
    some (plruPick (SMap.get d.plru key 0) (if soft.isEmpty then allowed else soft) 4 0 0)

/-- A way of a set is emptied for an access of a tenant; none while its line has to wait. -/
def Die.clearWay (d : Die) (offer : Bool) (fn key w : Nat) : Option Die :=
  let d1 := { d with cached := d.cached.filter (fun c => !(c.way == some w && scopedPlace c.line.addr == key)) }
  match (d1.setLines key).find? (fun l => l.way == w) with
  | some l => d1.evictLine offer fn l
  | none => some d1

/-- Marks a way of a set as used. -/
def Die.touch (d : Die) (key way : Nat) : Die := { d with plru := SMap.set d.plru key (plruTouch (SMap.get d.plru key 0) way) }

/-- Places a stack line in a way that its tenant's mask allows (R185); none while the line that it displaces has to wait, or
for a tenant with no way. -/
def Die.place (d : Die) (offer : Bool) (spa fn : Nat) (dirty keep : Bool) : Option Die :=
  let key := setKey spa
  (d.wayFor fn key).bind (fun w => (d.clearWay offer fn key w).map (fun d1 =>
    ({ d1 with lines := { line := lineOf spa, way := w, dirty := dirty, keep := keep, tenant := fn } :: d1.lines }.touch key w)))

/-- Changes a held line. -/
def Die.updLine (d : Die) (line : Nat) (f : DcLine → DcLine) : Die :=
  { d with lines := updFirst (fun l => l.line == line) f d.lines }

/-- Drops a line without writing it back (R188, R273). -/
def Die.dropLine (d : Die) (line : Nat) : Die :=
  { d with lines := d.lines.filter (fun l => l.line != line)
           evicts := d.evicts.filter (fun e => e.line != line) }

/-- The accesses of a tenant behave as stream-through: it has no way in the slice (R185). -/
def Die.streams (d : Die) (spa fn : Nat) : Bool := (d.ways fn (placeOf spa).slice).isEmpty

/-- What a request finds in its slice: the line, a line whose return to the cache has to wait, or none. -/
inductive Lookup where
  | here (d : Die)
  | full
  | absent
  deriving DecidableEq, Repr

/-- A read finds its line (R186, R187, R190): held; or in the eviction buffer, from where an entry not yet issued returns
dirty to the cache, and an issued one serves the read. For a tenant with no way an entry serves the read where it is.
(DEDUCED: log entry 77). -/
def Die.lookup (d : Die) (offer : Bool) (spa fn hint : Nat) : Lookup :=
  let line := lineOf spa
  match d.holds line with
  | some l =>
    .here (if hint = 1 || d.streams spa fn then d else
      let d1 := d.touch (setKey spa) l.way
      if hint = 2 then d1.updLine line (fun x => { x with keep := true }) else d1)
  | none =>
    match d.evicts.find? (fun e => e.line == line) with
    | none => .absent
    | some e =>
      if e.issued || d.streams spa fn then .here d else
      match ({ d with evicts := delFirst (fun e => e.line == line) d.evicts }.tally 0x18).place offer spa fn true (hint == 2) with
      | some d1 => .here d1
      | none => .full

/-- A miss takes a miss register of its slice, when one of the 32, and of the 2w of a tenant with w ways, is free (R189, R274),
or merges into the register of its line, as one of at most 8. `wr` says that it writes, `whole` all of the line. None while
it has to wait. -/
def Die.miss (d : Die) (spa fn : Nat) (wr whole keep : Bool) (who : List Engine) : Option Die :=
  let line := lineOf spa
  let slice := (placeOf spa).slice
  let here := d.misses.filter (fun m => (placeOf (lineSpa 0 m.line)).slice == slice)
  match d.misses.find? (fun m => m.line == line) with
  | some m =>
    if !who.isEmpty && who.all (fun e => m.readers.contains e) then some d
    else if 8 ≤ m.merged then none else
    let f (m : DcMiss) : DcMiss :=
      { m with merged := m.merged + 1, dirty := m.dirty || wr, whole := m.whole || whole, keep := m.keep || keep,
               readers := m.readers ++ who }
    some { d with misses := updFirst (fun m => m.line == line) f d.misses }
  | none =>
    if 32 ≤ here.length || 2 * (d.ways fn slice).length ≤ (here.filter (fun m => m.tenant == fn)).length then none else
    (d.queueRead line fn).map (fun d1 => { d1 with misses := d1.misses ++
      [{ line := line, merged := 0, dirty := wr, whole := whole, keep := keep, tenant := fn, readers := who }] })

/-- A stream-through read that misses fetches its line with no miss register (R185, R187); none while the channel's queue is
full. -/
def Die.fetch (d : Die) (spa fn : Nat) (who : List Engine) : Option Die :=
  let line := lineOf spa
  let join (f : DcFetch) : DcFetch := { f with readers := f.readers ++ who.filter (fun e => !(f.readers.contains e)) }
  if d.fetches.any (fun f => f.line == line) then
    some { d with fetches := updFirst (fun f => f.line == line) join d.fetches }
  else (d.queueRead line fn).map (fun d1 => { d1 with fetches := d1.fetches ++ [{ line := line, tenant := fn, readers := who }] })

/-- A read that finds no line asks for it (R186, R187, R189). One that has to wait changes nothing. -/
def Die.ask (d : Die) (spa fn hint : Nat) (who : List Engine) : Die :=
  (if hint = 1 || d.streams spa fn then d.fetch spa fn who else d.miss spa fn false false (hint == 2) who).getD d

/-- The tracker that a write matches: its frame, and an address within 2 KiB of the expected one (R191).
(DEDUCED: log entry 30). -/
def Tracker.hit (t : Tracker) (frame addr : Nat) : Bool :=
  t.frame == frame && decide (t.expected ≤ addr ∧ addr < t.expected + 2048)

/-- The stream trackers after a write to an absent line, and whether the write bypasses allocation (R191); `stamp` orders the
trackers of a slice by their last match. (DEDUCED: log entry 30). -/
def Die.track (d : Die) (spa len : Nat) : Die × Bool :=
  let slice := (placeOf spa).slice
  let frame := frameOf spa
  let idxs := (List.range 8).map (fun i => slice * 8 + i)
  let stampOf (i : Nat) : Nat := ((SMap.find d.trackers i).map (fun t => t.stamp)).getD 0
  let now := idxs.foldl (fun n i => max n (stampOf i)) 0 + 1
  let lines := (spa + len - 1) / 256 - spa / 256 + 1
  let hit := idxs.findSome? (fun i => (SMap.find d.trackers i).bind (fun t => if t.hit frame spa then some (i, t) else none))
  match hit with
  | some (i, t) =>
    ({ d with trackers := SMap.set d.trackers i { t with expected := spa + len, count := t.count + lines, stamp := now } },
     d.ssdThresh != 0 && decide (d.ssdThresh ≤ t.count))
  | none =>
    let pick := (idxs.find? (fun i => (SMap.find d.trackers i).isNone)).getD
      (idxs.foldl (fun b i => if stampOf i < stampOf b then i else b) (slice * 8))
    ({ d with trackers := SMap.set d.trackers pick { frame := frame, expected := spa + len, count := lines, stamp := now } }, false)

/-- A write of `len` bytes inside one line by a tenant under a hint (R186, R187, R190, R191); none while it has to wait. A
held line takes it; a whole line under hint 1 or 3, or of a tenant with no way, goes to the channel, and so does a write that
the detector lets pass and a part of a line of a tenant with no way; a line in flight takes it into its miss register; a
line in the eviction buffer returns for it; else a whole line is allocated and a part of one fetches the rest.
(DEDUCED: log entry 77). -/
def Die.writeLine (d : Die) (offer : Bool) (spa len fn hint : Nat) : Option Die :=
  let line := lineOf spa
  let whole := decide (256 ≤ len)
  let none_ := d.streams spa fn
  let stream := whole && (hint == 1 || hint == 3 || none_)
  let keep := hint == 2
  match d.holds line with
  | some l =>
    if stream then (d.dropLine line).queueWrite line fn false
    else
      let d1 := if none_ then d else d.touch (setKey spa) l.way
      some (d1.updLine line (fun x => { x with dirty := true, keep := x.keep || keep }))
  | none =>
    let r := if 64 ≤ len && spa % 64 == 0 then d.track spa len else (d, false)
    let d1 := r.1
    let unissued := d1.evicts.any (fun e => e.line == line && !e.issued)
    if d1.misses.any (fun m => m.line == line) then d1.miss spa fn true whole keep []
    else if stream then
      (if unissued then (d1.dropLine line).tally 0x18 else d1).queueWrite line fn false
    else if r.2 then (d1.tally 0x20).queueWrite line fn false
    else if none_ then d1.queueWrite line fn false
    else if unissued then
      ({ d1 with evicts := delFirst (fun e => e.line == line) d1.evicts }.tally 0x18).place offer spa fn true keep
    else if d1.evicts.any (fun e => e.line == line) || whole then d1.place offer spa fn true keep
    else d1.miss spa fn true false keep []

/-- The pieces of a byte range that lie in one 256-byte line each: address and length. -/
def linePieces : Nat → Nat → Nat → List (Nat × Nat)
  | 0, _, _ => []
  | fuel + 1, a, n =>
    if n = 0 then [] else
    let k := min n (256 - a % 256)
    (a, k) :: linePieces fuel (a + k) (n - k)

/-- The pieces of a byte range by line. -/
def pieces (a n : Nat) : List (Nat × Nat) := linePieces (n / 256 + 2) a n

/-- A change of a die's cache by a tenant's access to a line; lines of other tenants that it evicts are counted for them
(R277, R379). -/
def State.updCache (s : State) (spa fn : Nat) (f : Die → Die) : State :=
  let old := (s.die (dieOf spa)).lines
  let s1 := s.updDie (dieOf spa) f
  let now := (s1.die (dieOf spa)).lines
  (old.filter (fun l => l.tenant != fn && l.line != lineOf spa && !(now.any (fun x => x.line == l.line)))).foldl (fun s l => s.countFunc l.tenant 0x20 1) s1

/-- The die of an engine (R210). -/
def Engine.die : Engine → Nat
  | .ctx c => c.die.toNat
  | .feed t => xferDie t
  | .ligature _ d => d

/-- A line has reached an engine whose access goes on (R189), or has been counted for it (R218). -/
def State.hasArrived (s : State) (e : Engine) (l : Loc) : Bool := (s.die e.die).arrived.contains (e, l)

/-- Notes that a line has reached an engine. -/
def State.arrive (s : State) (e : Engine) (l : Loc) : State :=
  s.updDie e.die (fun d => { d with arrived := if d.arrived.contains (e, l) then d.arrived else (e, l) :: d.arrived })

/-- The access of an engine for a command is complete: the lines that had reached it, and host or remote lines that took no
way for it, are forgotten. -/
def State.accessDone (s : State) (e : Engine) (cmd : Option CmdRef) : State :=
  let d := s.die e.die
  if d.arrived.any (fun p => p.1 == e) || d.cached.any (fun c => c.way.isNone && c.cmd == cmd) then
    s.updDie e.die (fun d => { d with arrived := d.arrived.filter (fun p => p.1 != e)
                                      cached := d.cached.filter (fun c => !(c.way.isNone && c.cmd == cmd)) })
  else s

/-- Page faults lose the engines that no longer wait for them; one that stalls none is withdrawn (R213, R216). -/
def Die.dropEngines (d : Die) (gone : Engine → Bool) : Die :=
  let left := d.faults.map (fun f => { f with engines := f.engines.filter (fun e => !(gone e.1)) })
  { d with faults := left.filter (fun f => !f.engines.isEmpty) }

/-- Page faults lose one engine. -/
def Die.dropEngine (d : Die) (e : Engine) : Die := d.dropEngines (fun x => x == e)

/-- What some engines asked of memory is of no more use to them: they have been stopped. -/
def State.forgetReads (s : State) (gone : Engine → Bool) : State :=
  let rest (l : List Engine) : List Engine := l.filter (fun e => !(gone e))
  { s with dies := SMap.mapVals s.dies (fun _ d => { d with
      misses := d.misses.map (fun m => { m with readers := rest m.readers })
      fetches := d.fetches.map (fun f => { f with readers := rest f.readers })
      arrived := d.arrived.filter (fun p => !(gone p.1))
      walks := rest d.walks }) }

/-- A core counts a die-cache hit (event 9) or miss (event 10) of one of its contexts, and a far off-die access (R377).
(DESIGN CHOICE: log entry 47). -/
def State.countLine (s : State) (e : Engine) (spa event : Nat) : State :=
  match e with
  | .ctx c => s.updCore c.key (fun k =>
      (k.countEvent event (some c.idx) 1).countEvent 11 (some c.idx) (if dieOf spa = c.die.toNat then 0 else 1))
  | _ => s

/-- An engine waits for a line that it has asked for. -/
def Die.awaited (d : Die) (e : Engine) (line : Nat) : Bool :=
  d.misses.any (fun m => m.line == line && m.readers.contains e) || d.fetches.any (fun f => f.line == line && f.readers.contains e)

/-- A read of one line by an engine: it has the line, or asks for it (R186, R189). -/
def State.askLine (s : State) (e : Engine) (fn hint spa : Nat) : Bool × State :=
  if s.hasArrived e (.stack (spa / 256 * 256)) then (true, s) else
  match (s.die (dieOf spa)).lookup s.mod.evict spa fn hint with
  | .here d1 => (true, (s.updCache spa fn (fun _ => d1)).countLine e spa 9)
  | .full => (false, s)
  | .absent =>
    let s1 := s.updDie (dieOf spa) (fun d => d.ask spa fn hint [e])
    (false, if (s.die (dieOf spa)).awaited e (lineOf spa) then s1 else s1.countLine e spa 10)

/-- A read of stack bytes by an engine: whether every line is there for it. If not, it asks for those that are not and
waits (R186, R189). (DEDUCED: log entry 31). -/
def State.stackRead (s : State) (e : Engine) (fn hint spa n : Nat) : Bool × State :=
  let ps := pieces spa n
  let lacking := ps.filter (fun p => !(s.askLine e fn hint p.1).1)
  let all (l : List (Nat × Nat)) : State := l.foldl (fun s p => (s.askLine e fn hint p.1).2) s
  if lacking.isEmpty then (true, all ps) else (false, all lacking)

/-- The die caches after the module itself has read stack bytes for a tenant: a line that is not there is fetched and
allocated, and the read does not wait for it. (DEDUCED: log entry 31). -/
def State.cacheRead (s : State) (spa n fn hint : Nat) : State :=
  (pieces spa n).foldl (fun s p =>
    match (s.die (dieOf p.1)).lookup s.mod.evict p.1 fn hint with
    | .here d1 => s.updCache p.1 fn (fun _ => d1)
    | .full => s
    | .absent => s.updDie (dieOf p.1) (fun d => d.ask p.1 fn hint [])) s

/-- A line written whole loses its poison (R196). -/
def State.wroteLine (s : State) (spa n : Nat) : State :=
  if n = 256 then { s with poison := s.poison.filter (fun l => l != spa / 256) } else s

/-- A write of stack bytes at the die caches; none while a line of it has to wait (R189, R190). -/
def State.stackWrite (s : State) (spa n fn hint : Nat) : Option State :=
  (pieces spa n).foldl (fun o p => o.bind (fun s =>
    ((s.die (dieOf p.1)).writeLine s.mod.evict p.1 p.2 fn hint).map (fun d1 =>
      (s.updCache p.1 fn (fun _ => d1)).wroteLine p.1 p.2))) (some s)

/-- The die caches after a write of stack bytes by the module itself, which does not wait. (DEDUCED: log entry 31). -/
def State.cacheWrite (s : State) (spa n fn hint : Nat) : State :=
  (pieces spa n).foldl (fun s p =>
    (s.updCache p.1 fn (fun d => (d.writeLine s.mod.evict p.1 p.2 fn hint).getD d)).wroteLine p.1 p.2) s

/-- A line of stack bytes that is poisoned (R196). -/
def State.poisonedIn (s : State) (spa n : Nat) : Option Nat :=
  ((pieces spa n).find? (fun p => s.poison.contains (p.1 / 256))).map (fun p => p.1 / 256 * 256)

/-- Lines of a range discarded after their last use (R188): invalidated, and zero from then on.
(DEDUCED: log entry 33). -/
def State.discardLine (s : State) (spa : Nat) : State :=
  let a := spa / 256 * 256
  let s1 := s.updDie (dieOf a) (fun d => d.dropLine (lineOf a))
  { s1.zeroMem a 256 with poison := s1.poison.filter (fun l => l != a / 256) }

end Sys2Proof.Machine
end

