-- ==== Sys2Proof/Machine/Mem.lean ====
section
/-! DEFINITION. Memory by virtual address: the page-table walk and the TLBs (R202 to R211), access counters (R218),
reads and writes of stack, host and remote bytes, the store buffer and the L1 data cache (R157 to R159). -/

namespace Sys2Proof.Machine

/-- Who makes an access. -/
structure Agent where
  fn : Nat
  die : Nat
  cmd : Option CmdRef
  who : Option (Nat × Nat)
  engine : Engine
  queue : Nat
  cls : Nat
  hint : Nat := 0
  unit : Nat := 0
  feed : Nat := 0
  rank : Option Nat := none
  noSnoop : Bool := false
  deriving DecidableEq, Repr

/-- How an access ends: a value, a wait for data or for room, a trap with its ISA_HARG, a page fault with its cause,
address and whether the access writes, a poisoned line, or a lost peer with its reason (R329). -/
inductive Acc (α : Type) where
  | ok (a : α) (s : State)
  | wait (s : State)
  | trap (cause : Nat) (arg : Word) (s : State)
  | page (cause va : Nat) (wr : Bool) (s : State)
  | poison (spa : Nat) (s : State)
  | lost (reason : Nat) (s : State)
  deriving DecidableEq, Repr

/-- The next access after one that gave a value. -/
def Acc.bind {α β : Type} (x : Acc α) (f : α → State → Acc β) : Acc β :=
  match x with
  | .ok a s => f a s
  | .wait s => .wait s
  | .trap c a s => .trap c a s
  | .page c v w s => .page c v w s
  | .poison a s => .poison a s
  | .lost r s => .lost r s

/-- An access for each item of a list in order, the values joined; the first that gives none ends it. -/
def accCollect {β γ : Type} (f : β → State → Acc (List γ)) : List β → State → Acc (List γ)
  | [], s => .ok [] s
  | x :: xs, s => (f x s).bind (fun a s => (accCollect f xs s).bind (fun as s => .ok (a ++ as) s))

/-- An access for each item of a list in order. -/
def accEach {β : Type} (f : β → State → Acc Unit) : List β → State → Acc Unit
  | [], s => .ok () s
  | x :: xs, s => (f x s).bind (fun _ s => accEach f xs s)

/-- The sender that an agent's messages name. -/
def Agent.sender (ag : Agent) : Sender :=
  { func := ag.fn, queue := ag.queue, cls := ag.cls, cmd := ag.cmd,
    engine := some ag.engine, rank := ag.rank }

/-- The level-1 entry's address in a function's table (R205). -/
def l1EntryAddr (f : Func) (va : Nat) : Nat := f.tbBase * 2 ^ 21 + va / 2 ^ 30 * 8

/-- The level-2 entry's address behind a level-1 pointer (R205). -/
def l2EntryAddr (ptr va : Nat) : Nat := (ptr / 256 % 2 ^ 31) * 256 + va / 2 ^ 25 % 32 * 8

/-- What a walk finds. -/
inductive WalkResult where
  | entry (big : Bool) (e : Word)
  | absent (cause : Nat)
  | poison (spa : Nat)
  deriving DecidableEq, Repr

/-- Reads a page-table entry. (DEDUCED: log entry 70). -/
def State.pte (s : State) (a : Nat) : Nat := Memory.readLe s.mem a 8

/-- A table walk (R205, R207, R211): level 1, then level 2 behind a pointer. -/
def State.walk (s : State) (fn va : Nat) : WalkResult :=
  let f := s.func fn
  if !f.tbValid then .absent 0 else
  let a1 := l1EntryAddr f va
  if s.poison.contains (a1 / 256) then .poison (a1 / 256 * 256) else
  let e1 := s.pte a1
  if e1 % 2 = 0 then .absent 0 else
  if Nat.testBit e1 1 then .entry true (BitVec.ofNat 64 e1) else
  let a2 := l2EntryAddr e1 va
  if s.poison.contains (a2 / 256) then .poison (a2 / 256 * 256) else
  let e2 := s.pte a2
  if e2 % 2 = 0 then .absent 1 else .entry false (BitVec.ofNat 64 e2)

/-- Bytes of a page. -/
def pageBytes (big : Bool) : Nat := if big then 2 ^ 30 else 2 ^ 25

/-- KIND of an entry (R205): 0 stack, 1 host, 2 remote. -/
def pteKind (e : Word) : Nat := fld e 6 2

/-- Where a leaf sends an address (R203, R205). -/
def pteLoc (e : Word) (big : Bool) (va link : Nat) : Loc :=
  let off := va % pageBytes big
  match pteKind e with
  | 0 => .stack (fld e 25 14 * 2 ^ 25 + off)
  | 1 => .host link (fld e 25 39 * 2 ^ 25 + off)
  | _ => .remote (fld e 52 10) (fld e 40 12) (fld e 25 15 * 2 ^ 25 + off)

/-- The cause of an access that an entry does not permit (R204, R214). -/
def pteDenies (e : Word) (a : Access) : Option Nat :=
  match a with
  | .read => none
  | .write => if e.getLsbD 3 then none else some 2
  | .fetch => if e.getLsbD 4 then none else some 3

/-- A TLB entry that covers an address of a function. -/
def TlbEntry.covers (t : TlbEntry) (fn va : Nat) : Bool := t.fn == fn && t.page == va / pageBytes t.big

/-- Adds an entry to a TLB of a capacity; a full one loses an entry the spec does not choose. -/
def tlbFill (cap seed : Nat) (l : List TlbEntry) (t : TlbEntry) : List TlbEntry :=
  if l.contains t then l else t :: (if l.length < cap then l else l.eraseIdx (Config.victim seed % cap))

/-- Adds an entry to a die TLB: 256 sets of 16 ways (R210), the set being the page number modulo 256
(DESIGN CHOICE: log entry 77). -/
def tlbFillSet (seed : Nat) (l : List TlbEntry) (t : TlbEntry) : List TlbEntry :=
  let mine (x : TlbEntry) : Bool := x.page % 256 == t.page % 256
  tlbFill 16 seed (l.filter mine) t ++ l.filter (fun x => !(mine x))

/-- Where an address lies for a function: the page's kind and location, or why not. -/
inductive Tr where
  | at (l : Loc) (e : Word) (big : Bool)
  | deny (cause : Nat)
  | poison (spa : Nat)
  deriving DecidableEq, Repr

/-- The translation by the tables alone. -/
def State.translate (s : State) (fn va : Nat) (a : Access) : Tr :=
  match s.walk fn va with
  | .absent c => .deny c
  | .poison p => .poison p
  | .entry big e =>
    match pteDenies e a with
    | some c => .deny c
    | none => .at (pteLoc e big va (s.funcLink fn)) e big

/-- The die caches after the module's own walk for an address: the entries that it reads, with hint 0 (R211). -/
def State.walkTouch (s : State) (fn va : Nat) : State :=
  let f := s.func fn
  if !f.tbValid then s else
  let a1 := l1EntryAddr f va
  let e1 := s.pte a1
  let s1 := s.cacheRead a1 8 fn 0
  if e1 % 2 = 0 || Nat.testBit e1 1 then s1 else s1.cacheRead (l2EntryAddr e1 va) 8 fn 0

/-- The core TLB of an agent's core, when it is a core. -/
def State.coreTlb (s : State) (ag : Agent) : List TlbEntry :=
  match ag.who with
  | some (k, _) => (s.core k).tlb
  | none => []

/-- Fills the core TLB (R211). -/
def State.fillCoreTlb (s : State) (ag : Agent) (t : TlbEntry) : State :=
  match ag.who with
  | some (k, _) => { s.updCore k (fun c => { c with tlb := tlbFill 64 s.free c.tlb t }) with free := s.free + 1 }
  | none => s

/-- Fills the die TLB after a successful walk (R210, R211). -/
def State.fillDieTlb (s : State) (die : Nat) (t : TlbEntry) : State :=
  { s.updDie die (fun d => { d with tlb := tlbFillSet s.free d.tlb t }) with free := s.free + 1 }

/-- Keeps a present level-1 entry in a die's walk cache of 512 entries (R210). -/
def State.fillWalkCache (s : State) (die fn va e1 : Nat) : State :=
  let t : TlbEntry := { fn := fn, page := va / 2 ^ 30, big := true, entry := BitVec.ofNat 64 e1 }
  { s.updDie die (fun d => { d with walkCache := tlbFill 512 s.free d.walkCache t }) with free := s.free + 1 }

/-- Reads a page-table entry for an engine through the owning die cache with hint 0 (R211). -/
def State.tableRead (s : State) (ag : Agent) (a : Nat) : Acc Nat :=
  let r := s.stackRead ag.engine ag.fn 0 a 8
  if !r.1 then .wait r.2
  else match r.2.poisonedIn a 8 with
    | some p => .poison p r.2
    | none => .ok (r.2.pte a) r.2

/-- The table reads of a walk for an engine (R210, R211): the level-1 entry, from the walk cache when it is there, and behind a
pointer the level-2 entry. -/
def State.walkReads (s : State) (ag : Agent) (va : Nat) (wr : Bool) : Acc (Bool × Word) :=
  let f := s.func ag.fn
  if !f.tbValid then .page 0 va wr s else
  let first : Acc Nat := match (s.die ag.die).walkCache.find? (fun (t : TlbEntry) => t.covers ag.fn va) with
    | some t => .ok t.entry.toNat s
    | none => s.tableRead ag (l1EntryAddr f va)
  first.bind (fun e1 s =>
  if e1 % 2 = 0 then .page 0 va wr s else
  let s1 := s.fillWalkCache ag.die ag.fn va e1
  if Nat.testBit e1 1 then .ok (true, BitVec.ofNat 64 e1) s1 else
  (s1.tableRead ag (l2EntryAddr e1 va)).bind (fun e2 s =>
  if e2 % 2 = 0 then .page 1 va wr s else .ok (false, BitVec.ofNat 64 e2) s))

/-- A walk of an engine takes one of the 32 slots of its die MMU until it ends (R210), and is counted then. -/
def State.walkFor (s : State) (ag : Agent) (va : Nat) (wr : Bool) : Acc (Bool × Word) :=
  let l := (s.die ag.die).walks
  if !(l.contains ag.engine) && decide (32 ≤ l.length) then .wait s else
  let slot (s : State) (keep : Bool) : State := s.updDie ag.die (fun d =>
    { d with walks := if keep then (if d.walks.contains ag.engine then d.walks else d.walks ++ [ag.engine])
                      else d.walks.filter (fun e => e != ag.engine) })
  let ended (s : State) : State := (slot s false).countDie ag.die 0x28 1
  match s.walkReads ag va wr with
  | .ok p s1 => .ok p (ended s1)
  | .wait s1 => .wait (slot s1 true)
  | .trap c v s1 => .trap c v s1
  | .page c v w s1 => .page c v w (ended s1)
  | .poison a s1 => .poison a (ended s1)
  | .lost r s1 => .lost r s1

/-- Where an entry sends an access, or the fault of one that it does not permit (R204). -/
def State.grant (s : State) (ag : Agent) (t : TlbEntry) (va : Nat) (a : Access) : Acc Loc :=
  match pteDenies t.entry a with
  | some c => .page c va (a == .write) s
  | none => .ok (pteLoc t.entry t.big va (s.funcLink ag.fn)) s

/-- Translates one address as an access: by the core TLB, the die TLB, or a walk. A success fills the TLBs before it in the
chain; a failure fills none (R210, R211). The lower 48 bits of the address are taken. -/
def State.locate (s : State) (ag : Agent) (va : Nat) (a : Access) : Acc Loc :=
  match (s.coreTlb ag).find? (fun t => t.covers ag.fn va) with
  | some t => s.grant ag t va a
  | none =>
    match (s.die ag.die).tlb.find? (fun t => t.covers ag.fn va) with
    | some t => (s.grant ag t va a).bind (fun l s => .ok l (s.fillCoreTlb ag t))
    | none =>
      (s.walkFor ag va (a == .write)).bind (fun p s =>
        let t : TlbEntry := { fn := ag.fn, page := va / pageBytes p.1, big := p.1, entry := p.2 }
        (s.grant ag t va a).bind (fun l s => .ok l ((s.fillDieTlb ag.die t).fillCoreTlb ag t)))

/-- The context number of a transfer, for a record. -/
def xferCtx : XferRef → Nat
  | .cmd _ => 0
  | .cp1 c _ => c.idx

/-- SOURCE of an agent's access (R214). -/
def State.agentSource (s : State) (ag : Agent) (wr : Bool) : Nat :=
  match ag.engine with
  | .ctx c => s.sourceOf ag.die c.core.toNat c.idx ag.unit 0 wr
  | .feed t => s.sourceOf ag.die 31 (xferCtx t) 4 ag.feed wr
  | .ligature _ _ => s.sourceOf ag.die 31 0 5 0 wr

/-- A hot-page notice names the access that reached the threshold (R214, R218). (DEDUCED: log entry 29). -/
def State.hotNotice (s : State) (ag : Agent) (wr : Bool) (page count : Nat) : State :=
  s.record ag.fn (recordBytes (page * 2 ^ 25) 0 1 0 (s.agentSource ag wr) ag.queue ((ag.cmd.map (fun r => r.seq.toNat)).getD 0) count)

/-- Counts a line of host memory in the die's access counters: 1,024 counters, the least recently counted replaced
(R218). The list holds the most recently counted first. (DEDUCED: log entry 29). -/
def State.countHostLine (s : State) (ag : Agent) (wr : Bool) (va : Nat) : State :=
  let die := ag.die
  let fn := ag.fn
  let page := va / 2 ^ 25
  let d := s.die die
  let old := (d.accCtrs.find? (fun c => c.fn == fn && c.page == page)).getD
    { fn := fn, page := page, count := 0, noticed := false }
  let n := satAdd 16 old.count 1
  let th := (s.func fn).hotth
  let hot := th ≠ 0 && th ≤ n && !old.noticed
  let rest := (d.accCtrs.filter (fun c => !(c.fn == fn && c.page == page))).take 1023
  let s1 := s.updDie die (fun d => { d with
    accCtrs := { fn := fn, page := page, count := n, noticed := old.noticed || hot } :: rest })
  if hot then s1.hotNotice ag wr page n else s1

/-- The 256-byte line of a location. -/
def Loc.line : Loc → Loc
  | .stack a => .stack (a / 256 * 256)
  | .host l a => .host l (a / 256 * 256)
  | .remote m w o => .remote m w (o / 256 * 256)

/-- The location some bytes on. -/
def Loc.add : Loc → Nat → Loc
  | .stack a, n => .stack (a + n)
  | .host l a, n => .host l (a + n)
  | .remote m w o, n => .remote m w (o + n)

/-- The scoped line of a command at a die (R192). (DEDUCED: log entry 32). -/
def Die.scopedLine (d : Die) (cmd : Option CmdRef) (line : Loc) : Option ScopedLine :=
  d.cached.find? (fun c => c.cmd == cmd && c.line == line)

/-- Places a host or remote line in a way of its set that the tenant's mask allows (R192); one that finds none, or whose way
has to wait, takes none. -/
def Die.scopedWay (d : Die) (offer : Bool) (key : Nat) (c : ScopedLine) : Die :=
  match (d.wayFor c.tenant key).bind (fun w => (d.clearWay offer c.tenant key w).map (fun d1 => (w, d1))) with
  | some (w, d1) => { d1.touch key w with cached := d1.cached ++ [{ c with way := some w }] }
  | none => { d with cached := d.cached ++ [{ c with way := none }] }

/-- Holds a host or remote line (R192): in a way of its set that the tenant's mask allows; a fifth such line of a set replaces
the oldest of them. One that finds no way, or whose way has to wait, is held for its reader's access only.
(DEDUCED: log entry 32). -/
def Die.keepScoped (d : Die) (offer : Bool) (c : ScopedLine) : Die :=
  let same (x : ScopedLine) : Bool := x.cmd == c.cmd && x.line == c.line
  let key := scopedPlace c.line.addr
  let here := d.setScoped key
  if d.cached.any same then { d with cached := updFirst same (fun x => { c with way := x.way }) d.cached }
  else match here with
  | old :: _ =>
    if 4 ≤ here.length then { d with cached := delFirst (fun x => x == old) d.cached ++ [{ c with way := old.way }] }
    else d.scopedWay offer key c
  | [] => d.scopedWay offer key c

/-- The bytes of a map from `a` on, when all are known. -/
def knownBytes (m : SMap Byte) (a : Nat) : Nat → Option (List Byte)
  | 0 => some []
  | n + 1 =>
    match SMap.find m a, knownBytes m (a + 1) n with
    | some b, some bs => some (b :: bs)
    | _, _ => none

/-- Adds the bytes that a map does not hold yet. -/
def putMissing : SMap Byte → Nat → List Byte → SMap Byte
  | m, _, [] => m
  | m, a, b :: bs => putMissing (if (SMap.find m a).isSome then m else SMap.set m a b) (a + 1) bs

/-- The reader of host memory that an engine is (R263). -/
def Engine.reader (e : Engine) (va : Nat) : HostReader :=
  match e with
  | .ctx c => .instruction c (BitVec.ofNat 64 va)
  | .feed t => .feed t
  | .ligature g d => .ligature (BitVec.ofNat 10 g) (BitVec.ofNat 5 d)

/-- Two readers are the same engine. -/
def sameReader : HostReader → HostReader → Bool
  | .instruction c _, .instruction d _ => c == d
  | a, b => a == b

/-- Requests that a device read of some bytes takes (R256). -/
def HostLink.requests (l : HostLink) (n : Nat) : Nat := (n + max 1 l.mode.maxRead - 1) / max 1 l.mode.maxRead

/-- A device read of host memory is sent, unless it is outstanding already or the link's 2,048 are (R256). -/
def State.askHost (s : State) (link : Nat) (r : DevRead) : State :=
  let l := s.link link
  if l.reads.any (fun x => sameReader x.reader r.reader && x.cmd == r.cmd && x.addr == r.addr)
      || decide (2048 < (l.reads.map (fun x => l.requests x.bytes)).sum + l.requests r.bytes) then s
  else s.updLink link (fun l => { l with reads := l.reads ++ [r] })

/-- Reads bytes of one host line (R192, R265, R267): those of the command's held line, which the completion of its device
read has filled; without them a device read of the line is sent, and the access waits. Each line of an access counts (R218).
(DEDUCED: log entry 22). -/
def State.readHostPiece (s : State) (ag : Agent) (va link addr n : Nat) : Acc (List Byte) :=
  let line := Loc.host link (addr / 256 * 256)
  match ((s.die ag.die).scopedLine ag.cmd line).bind (fun c => knownBytes c.data (addr % 256) n) with
  | none =>
    .wait (s.askHost link { reader := ag.engine.reader va, cmd := ag.cmd, addr := addr / 256 * 256, bytes := 256, noSnoop := ag.noSnoop })
  | some bs =>
    if s.hasArrived ag.engine line then .ok bs s
    else .ok bs ((s.countHostLine ag false va).arrive ag.engine line)

/-- Reads bytes of one remote line (R192, R285): a held line of the command, or a read request for the line and a
wait for its response. -/
def State.readRemotePiece (s : State) (ag : Agent) (va m w o n : Nat) : Acc (List Byte) :=
  if !s.mod.placeValid then .lost 3 s else
  let line := Loc.remote m w (o / 256 * 256)
  match (s.die ag.die).scopedLine ag.cmd line with
  | some c =>
    match knownBytes c.data (o % 256) n with
    | some bs => .ok bs s
    | none => .wait s
  | none =>
    if s.fab.reads.any (fun r => r.cmd == ag.cmd && r.die == ag.die && r.line == line) then .wait s else
    match s.sendRead { ag.sender with va := va } ag.engine ag.die m w (o / 256 * 256) 256 with
    | .sent s1 => .wait s1
    | .full => .wait s
    | .noRoute => .lost 1 s

/-- Reads bytes of a location that lie in one page. -/
def State.readLoc (s : State) (ag : Agent) (va : Nat) (l : Loc) (n : Nat) : Acc (List Byte) :=
  match l with
  | .stack spa =>
    let r := s.stackRead ag.engine ag.fn ag.hint spa n
    if !r.1 then .wait r.2 else
    match r.2.poisonedIn spa n with
    | some p => .poison p r.2
    | none => .ok (Memory.readBytes r.2.mem spa n) r.2
  | .host link a =>
    accCollect (fun p s => s.readHostPiece ag (va + (p.1 - a)) link p.1 p.2) (pieces a n) s
  | .remote m w o =>
    accCollect (fun p s => s.readRemotePiece ag (va + (p.1 - o)) m w p.1 p.2) (pieces o n) s

/-- Writes bytes of a location that lie in one page (R186, R268, R285). -/
def State.writeLoc (s : State) (ag : Agent) (va : Nat) (l : Loc) (bs : List Byte) : Acc Unit :=
  match l with
  | .stack spa =>
    match s.stackWrite spa bs.length ag.fn ag.hint with
    | some s1 => .ok () (s1.putMem spa bs)
    | none => .wait s
  | .host link a =>
    .ok () ((pieces a bs.length).foldl (fun s p => s.countHostLine ag true (va + (p.1 - a))) (s.putHost link a bs))
  | .remote m w o =>
    if !s.mod.placeValid then .lost 3 s else
    match s.sendWrite { ag.sender with va := va } m w o bs with
    | .sent s1 => .ok () s1
    | .full => .wait s
    | .noRoute => .lost 1 s

/-- The parts of an address range in one 32 MiB page each. -/
def pageParts : Nat → Nat → Nat → List (Nat × Nat)
  | 0, _, _ => []
  | fuel + 1, va, n =>
    if n = 0 then [] else
    let k := min n (2 ^ 25 - va % 2 ^ 25)
    (va, k) :: pageParts fuel (va + k) (n - k)

/-- The parts of a range by page. -/
def vaParts (va n : Nat) : List (Nat × Nat) := pageParts (n / 2 ^ 25 + 2) va n

/-- Translates every part of a range: locations with their lengths (R136, R213). -/
def State.locateAll (s : State) (ag : Agent) (va n : Nat) (a : Access) : Acc (List (Nat × Loc × Nat)) :=
  accCollect (fun p s => (s.locate ag p.1 a).bind (fun l s => .ok [(p.1, l, p.2)] s)) (vaParts va n) s

/-- Reads a range of virtual addresses. -/
def State.readVa (s : State) (ag : Agent) (va n : Nat) : Acc (List Byte) :=
  (s.locateAll ag va n .read).bind (fun ls s =>
    accCollect (fun p s => s.readLoc ag p.1 p.2.1 p.2.2) ls s)

/-- Writes a range of virtual addresses, all of it translated first. -/
def State.writeVa (s : State) (ag : Agent) (va : Nat) (bs : List Byte) : Acc Unit :=
  (s.locateAll ag va bs.length .write).bind (fun ls s =>
    accEach (fun p s => s.writeLoc ag p.1 p.2.1 ((bs.drop (p.1 - va)).take p.2.2)) ls s)

/-- The 64-byte line of a location. -/
def Loc.line64 : Loc → Loc
  | .stack a => .stack (a / 64 * 64)
  | .host l a => .host l (a / 64 * 64)
  | .remote m w o => .remote m w (o / 64 * 64)

/-- The bytes set in a store-buffer entry, as runs of offset and bytes. -/
def sbRuns (e : SbEntry) : List (Nat × List Byte) :=
  let step (acc : List (Nat × List Byte)) (i : Nat) : List (Nat × List Byte) :=
    if !e.mask.getLsbD i then acc else
    let b : Byte := e.data.extractLsb' (8 * i) 8
    match acc with
    | (o, bs) :: rest => if o + bs.length = i then (o, bs ++ [b]) :: rest else (i, [b]) :: acc
    | [] => [(i, [b])]
  ((List.range 64).foldl step []).reverse

/-- Changes bytes of a 64-byte line. -/
def putLineBytes (d : BitVec 512) (off : Nat) (bs : List Byte) : BitVec 512 :=
  (bs.zipIdx).foldl (fun d p => ins d (8 * (off + p.2)) 8 p.1.toNat) d

/-- The L1 lines of a core after bytes of stack memory have been written through it (R159). -/
def Core.l1Write (k : Core) (l : Loc) (bs : List Byte) : Core :=
  { k with l1 := k.l1.map (fun x => (bs.zipIdx).foldl (fun x p =>
      let a := l.add p.2
      if x.line == a.line64 then { x with data := ins x.data (8 * (a.addr % 64)) 8 p.1.toNat } else x) x) }

/-- Writes one entry of a store buffer out (R158, R159). -/
def State.drainEntry (s : State) (ag : Agent) (k : Nat) (e : SbEntry) : Acc Unit :=
  accEach (fun r s =>
    (s.writeLoc ag (e.va + r.1) (e.line.add r.1) r.2).bind (fun _ s =>
      .ok () (s.updCore k (fun c => c.l1Write (e.line.add r.1) r.2)))) (sbRuns e) s

/-- The agent of a context's instructions. -/
def State.ctxAgent (s : State) (c : CtxRef) : Agent :=
  let k := coreKey c.die.toNat c.core.toNat
  let x := s.ctx k c.ctx.toNat
  let q := x.jobNums.1
  { fn := s.tenantOf k, die := c.die.toNat, cmd := x.job, who := some (k, c.ctx.toNat), engine := .ctx c,
    queue := q, cls := (s.queue q).prio }

/-- The agent of a context's vector instructions. -/
def State.vecAgent (s : State) (c : CtxRef) : Agent := { s.ctxAgent c with unit := 2 }

/-- Drains every entry of one context, oldest first (R158). (DEDUCED: log entry 22). -/
def State.drainCtx (s : State) (ag : Agent) (k j : Nat) : Acc Unit :=
  (accEach (fun e s => s.drainEntry ag k e) ((s.core k).sb.filter (fun e => e.ctx == j)) s).bind (fun _ s =>
    .ok () (s.updCore k (fun c => { c with sb := c.sb.filter (fun e => e.ctx != j) })))

/-- Puts a store into the store buffer: merged into the context's entry of its line, else a new entry; a full
buffer writes its oldest entry out first (R159). (DEDUCED: log entry 22). -/
def State.bufferStore (s : State) (k j va : Nat) (l : Loc) (bs : List Byte) : Acc Unit :=
  let line := l.line64
  let off := l.addr % 64
  let m := BitVec.ofNat 64 ((2 ^ bs.length - 1) * 2 ^ off)
  let sb := (s.core k).sb
  let hit (e : SbEntry) : Bool := e.ctx == j && e.line == line
  if sb.any hit then
    let f (e : SbEntry) : SbEntry := { e with mask := e.mask ||| m, data := putLineBytes e.data off bs }
    .ok () (s.updCore k (fun c => { c with sb := updFirst hit f c.sb }))
  else
    let new : SbEntry := { ctx := j, line := line, va := va / 64 * 64, mask := m, data := putLineBytes 0 off bs }
    match sb with
    | e :: rest =>
      if sb.length < 16 then .ok () (s.updCore k (fun c => { c with sb := c.sb ++ [new] }))
      else
        let owner : CtxRef :=
          { die := BitVec.ofNat 5 (k / 20), core := BitVec.ofNat 5 (k % 20), ctx := BitVec.ofNat 2 e.ctx }
        (s.drainEntry (s.ctxAgent owner) k e).bind (fun _ s => .ok () (s.updCore k (fun c => { c with sb := rest ++ [new] })))
    | [] => .ok () (s.updCore k (fun c => { c with sb := [new] }))

/-- Overlays the bytes that a context has buffered (R159). -/
def overlaySb (sb : List SbEntry) (j : Nat) (l : Loc) (bs : List Byte) : List Byte :=
  (bs.zipIdx).map (fun p =>
    let a := l.add p.2
    match sb.find? (fun e => e.ctx == j && e.line == a.line64 && e.mask.getLsbD (a.addr % 64)) with
    | some e => e.data.extractLsb' (8 * (a.addr % 64)) 8
    | none => p.1)

/-- The set of an L1 line: 128 sets of 8 ways. -/
def l1Set (l : Loc) : Nat := l.addr / 64 % 128

/-- Installs an L1 line; a full set loses a line the spec does not choose. (DEDUCED: log entry 22). -/
def Core.l1Fill (k : Core) (seed : Nat) (x : L1Line) : Core :=
  let same := k.l1.filter (fun y => l1Set y.line == l1Set x.line)
  let drop := if same.length < 8 then none else same[Config.victim seed % 8]?
  { k with l1 := x :: (match drop with | some y => k.l1.filter (fun z => z != y) | none => k.l1) }

/-- Reads bytes of one 64-byte line of stack memory through the L1. -/
def State.l1Read (s : State) (ag : Agent) (k spa n : Nat) : Acc (List Byte) :=
  let line := Loc.stack (spa / 64 * 64)
  let off := spa % 64
  match (s.core k).l1.find? (fun x => x.line == line) with
  | some x => .ok ((List.range n).map (fun i => x.data.extractLsb' (8 * (off + i)) 8)) s
  | none =>
    (s.readLoc ag 0 (.stack (spa / 64 * 64)) 64).bind (fun bs s =>
      let fill := L1Line.mk line (BitVec.ofNat 512 (leNat bs))
      let j := (ag.who.map (fun w => w.2)).getD 0
      .ok ((bs.drop off).take n)
        { s.updCore k (fun c => (c.l1Fill s.free fill).countEvent 8 (some j) 1) with free := s.free + 1 })

/-- The parts of a byte range in one 64-byte line each. -/
def lineParts64 : Nat → Nat → Nat → List (Nat × Nat)
  | 0, _, _ => []
  | fuel + 1, a, n =>
    if n = 0 then [] else
    let k := min n (64 - a % 64)
    (a, k) :: lineParts64 fuel (a + k) (n - k)

/-- A context's read of a located range (R157, R159): stack lines through the L1, with its own buffered stores. -/
def State.coreRead (s : State) (ag : Agent) (k j va : Nat) (l : Loc) (n : Nat) : Acc (List Byte) :=
  let base := match l with
    | .stack spa =>
      accCollect (fun (p : Nat × Nat) s => s.l1Read ag k p.1 p.2) (lineParts64 (n / 64 + 2) spa n) s
    | _ => s.readLoc ag va l n
  base.bind (fun bs s => .ok (overlaySb (s.core k).sb j l bs) s)

/-- A virtual address of an instruction with any of bits [63:48] set raises the access fault (R202).
(DEDUCED: log entry 21). -/
def vaBad (a : Word) : Bool := decide (2 ^ 48 ≤ a.toNat)

end Sys2Proof.Machine
end

