-- ==== Sys2Proof/Machine/Ink.lean ====
section
/-! DEFINITION. The inkwell: locators (R124, R166), the handle checks (R171), reads and writes of rows with their
error state (R164, R165, R172), the rows that a matrix operand occupies (R64), and the discard of a retained
stationary operand (R76). -/

namespace Sys2Proof.Machine

/-- The locator names the inkwell: bit 63 (R124). -/
def isInk (l : Word) : Bool := l.getLsbD 63

/-- HANDLE of an inkwell locator. -/
def inkHandle (l : Word) : Nat := fld l 24 6

/-- ROW of an inkwell locator, relative to the handle. -/
def inkRow (l : Word) : Nat := fld l 0 14

/-- An inkwell locator with a bit set that must be 0 (R166). -/
def inkLocBad (l : Word) : Bool := fld l 30 33 != 0 || fld l 14 10 != 0

/-- Outcome of the checks on rows through a handle (R171). -/
inductive HandleCheck where
  | ok (base : Nat)
  | fault (kind row : Nat)
  | revoked
  deriving DecidableEq, Repr

/-- A handle entry of a core (R168). -/
def Core.handle (k : Core) (h : Nat) : Handle := SMap.get k.handles h {}

/-- The lowest of some rows. -/
def lowest : List Nat → Nat
  | [] => 0
  | r :: rs => rs.foldl min r

/-- The checks of R171 on a non-empty set of relative rows, first match; no row checked passes. -/
def Core.checkRows (k : Core) (h : Nat) (rows : List Nat) (write : Bool) : HandleCheck :=
  let e := k.handle h
  if rows.isEmpty then .ok e.base
  else if e.st = 2 then .revoked
  else if e.st ≠ 1 then .fault 1 (lowest rows)
  else
    let beyond := rows.filter (fun r => decide (e.count ≤ r))
    if !beyond.isEmpty then .fault 0 (lowest beyond)
    else if write && e.wp then .fault 2 (lowest rows)
    else .ok e.base

/-- ISA_HARG of an inkwell fault (R171). -/
def inkHarg (kind h row : Nat) : Word := BitVec.ofNat 64 (kind * 2 ^ 32 + h * 2 ^ 24 + row % 2 ^ 14)

/-- A physical row's data. -/
def Core.row (k : Core) (p : Nat) : BitVec 4096 := SMap.get k.ink p 0

/-- A row with an uncorrectable error among these (R172). -/
def Core.badRow (k : Core) (rows : List Nat) : Option Nat := rows.find? (fun p => k.inkBad.contains p)

/-- Reads of rows correct their single-bit errors: each counts in INK_ECC.CORR, and the row is written back (R172). -/
def Core.correctRows (k : Core) (rows : List Nat) : Core :=
  let n := (k.inkSoft.filter rows.contains).length
  if n = 0 then k else
  { k with inkSoft := k.inkSoft.filter (fun r => !(rows.contains r)), eccCorr := satAdd 16 k.eccCorr n }

/-- INK_ECC records an uncorrectable error; while UE is 1, later ones leave the record (R172). -/
def Core.eccRecord (k : Core) (row : Nat) (scrub : Bool) : Core :=
  if k.eccUe then k else { k with eccUe := true, eccRow := row, eccScrub := scrub }

/-- A write to a row of the retained operand discards it (R76). -/
def Core.discardRow (k : Core) (p : Nat) : Core :=
  match k.retained with
  | some r => if r.rows.contains p then { k with retained := none } else k
  | none => k

/-- A change of a handle of the retained operand discards it (R76, R170). -/
def Core.discardHandle (k : Core) (h : Nat) : Core :=
  match k.retained with
  | some r => if r.handles.contains h then { k with retained := none } else k
  | none => k

/-- Writes a whole row: an uncorrectable error in it is replaced (R172). -/
def Core.putRow (k : Core) (p : Nat) (v : BitVec 4096) : Core :=
  { k with ink := SMap.set k.ink p v, inkBad := k.inkBad.filter (fun r => r != p),
           inkSoft := k.inkSoft.filter (fun r => r != p) }.discardRow p

/-- Bits of one row under a mask (R165). -/
def mergeRow (old mask new : BitVec 4096) : BitVec 4096 := (old &&& ~~~mask) ||| (new &&& mask)

/-- Writes the masked bits of a row (R165); a partial write reads the row first, and of a row with an uncorrectable error
writes nothing (R172). -/
def Core.mergeInRow (k : Core) (p : Nat) (mask v : BitVec 4096) : Core :=
  if mask = BitVec.allOnes 4096 then k.putRow p v
  else if k.inkBad.contains p then k
  else (k.correctRows [p]).putRow p (mergeRow (k.row p) mask v)

/-- A byte range inside rows: the number of its first row and the bits of each row it covers. -/
def bytesMask (off n : Nat) : BitVec 4096 := BitVec.ofNat 4096 ((2 ^ (8 * n) - 1) * 2 ^ (8 * off))

/-- An operand descriptor of the matrix unit (R64); DIM0, DIM1 and BLOCKS as their values. -/
structure OpDesc where
  fmtw : BitVec 32
  handle : Nat
  row : Nat
  pitch : Nat
  dim0 : Nat
  dim1 : Nat
  blocks : Nat
  brows : Nat
  ohandle : Nat
  orow : Nat
  reserved : Bool
  deriving DecidableEq, Repr

/-- Reads an operand descriptor (R64). -/
def OpDesc.parse (d : BitVec 128) : OpDesc :=
  { fmtw := d.extractLsb' 0 32, handle := fld d 32 6, row := fld d 38 14, pitch := fld d 52 11,
    dim0 := fld d 64 12 + 1, dim1 := fld d 76 12 + 1, blocks := fld d 88 4 + 1, brows := fld d 92 14,
    ohandle := fld d 106 6, orow := fld d 112 14, reserved := d.getLsbD 63 || fld d 126 2 != 0 }

/-- A destination descriptor (R65). -/
structure DstDesc where
  base : Nat
  pitch : Nat
  bstride : Nat
  bank : Nat
  reserved : Bool
  deriving DecidableEq, Repr

/-- Reads a destination descriptor (R65). -/
def DstDesc.parse (d : BitVec 128) : DstDesc :=
  { base := fld d 0 14, pitch := fld d 14 15, bstride := fld d 29 14, bank := fld d 43 1, reserved := fld d 44 84 != 0 }

/-- Bytes of one tensor row of an operand in a format. -/
def OpDesc.rowBytes (o : OpDesc) (f : Fmt) : Nat := (o.dim1 * f.width + 7) / 8

/-- Numbers from `lo` to `hi`, both included. -/
def spanList (lo hi : Nat) : List Nat := (List.range (hi + 1 - lo)).map (fun i => lo + i)

/-- The relative inkwell rows that the elements of an operand occupy (R64). -/
def OpDesc.dataRows (o : OpDesc) (f : Fmt) : List Nat :=
  ((List.range o.blocks).flatMap (fun b => (List.range o.dim0).flatMap (fun r =>
    let a := r * o.pitch * 32
    spanList (o.row + b * o.brows + a / 512) (o.row + b * o.brows + (a + o.rowBytes f - 1) / 512)))).eraseReps

/-- Fine offsets per tensor row (R37). -/
def OpDesc.offPerRow (o : OpDesc) : Nat := (o.dim1 + 31) / 32

/-- The relative rows of the offset array (R64). -/
def OpDesc.offRows (o : OpDesc) : List Nat :=
  ((List.range o.blocks).flatMap (fun b =>
    spanList (o.orow + b * o.brows) (o.orow + b * o.brows + ((o.dim0 * o.offPerRow + 1) / 2 - 1) / 512))).eraseReps

/-- An operand's checks through its handles: data rows, then offset rows when SCALE is 2 (R171). The answer is the
first physical rows of the two handles. -/
def Core.operandCheck (k : Core) (o : OpDesc) (w : FmtWord) : Sum (Nat × Nat) (HandleCheck × Nat) :=
  match k.checkRows o.handle (o.dataRows w.fmt) false with
  | .ok base =>
    if w.scale ≠ 2 then .inl (base, 0) else
    match k.checkRows o.ohandle o.offRows false with
    | .ok ob => .inl (base, ob)
    | e => .inr (e, o.ohandle)
  | e => .inr (e, o.handle)

/-- The physical rows of one operand from the first rows of its two handles. -/
def physRows (d : BitVec 128) (base obase : Nat) : List Nat :=
  let o := OpDesc.parse d
  match FmtWord.parse o.fmtw with
  | none => []
  | some w =>
    (o.dataRows w.fmt).map (fun r => base + r) ++ (if w.scale = 2 then o.offRows.map (fun r => obase + r) else [])

/-- The physical rows of the streamed operand. -/
def MmReq.strRows (q : MmReq) : List Nat := physRows q.str q.strBase q.strOff

/-- The physical rows of the stationary operand. -/
def MmReq.staRows (q : MmReq) : List Nat := physRows q.sta q.staBase q.staOff

/-- A waiting matrix request still has to read the row (R79). (DEDUCED: log entry 18). -/
def Core.mmNeeds (k : Core) (p : Nat) : Bool :=
  (k.mmWait ++ k.group).any (fun q => q.strRows.contains p || q.staRows.contains p)

/-- INK_STAT: VALID entries and the sum of their COUNT (R173). -/
def Core.handleUse (k : Core) : Nat × Nat :=
  k.handles.foldl (fun a p => if p.2.st = 1 then (a.1 + 1, a.2 + p.2.count) else a) (0, 0)

/-- The clearing of an inkwell (R173): every row reads 0, every handle is INVALID, INK_ECC is 0. -/
def Core.clearInk (k : Core) : Core :=
  { k with ink := [], inkBad := [], inkSoft := [], handles := [], eccUe := false, eccScrub := false, eccRow := 0, eccCorr := 0 }

/-- A context after a change of tenant or a core reset (R47, R52, R109, R110, R139, R142). -/
def Ctx.cleared (c : Ctx) (src n : Nat) : Ctx :=
  { c with mode := .idle, vxflg := 0, xflg := 0, gen := .entropy src n, seeded := false, cvtsat := 0, cvtflush := 0,
           mismatch := 0, resOvf := 0, v := [], vbad := [], m := [], ed := [], md := [], vq := [], drain := [],
           feedTags := [], ligTags := [], kept := [], ligCount := 0, job := none, code := none }

/-- What a change of tenant does to a core (R76, R80, R86, R88, R110, R159, R173, R377). The programmable
counters, the cursive window and MXU_FSTAT are reset; VEC_PGCTL and MXU_CTOL are the host's and stay. -/
def Core.changeTenant (k : Core) (src n : Nat) : Core :=
  { k.clearInk with
    ctxs := (List.range 4).map (fun j => (j, (k.ctx j).cleared src (n + j)))
    clearing := true, inkClearing := true, res := [], cwin := 0, fstat := {}, mmWait := [], group := [], groupClosed := false, passes := [], retained := none
    ctrSel := [], ctrPc := [], sb := [], l1 := [], icache := [], tlb := [], halted := false }

end Sys2Proof.Machine
end

