-- ==== Sys2Proof/Machine/Trap.lean ====
section
/-! DEFINITION. What stops a context or a command: trace records (R373 to R376), traps and the handler (R150 to
R152), page-fault stalls (R213), faults that strike commands (R333, R337, R338, R345), the end of a LAUNCH (R141)
and the failure of the module (R348). -/

namespace Sys2Proof.Machine

/-- Writes bytes at a function's virtual address on behalf of the module itself, when every part is a present,
writable stack or host page. -/
def State.writeTrusted (s : State) (fn va : Nat) (bs : List Byte) : Option State :=
  (vaParts va bs.length).foldl (fun o p => o.bind (fun s =>
    let part := (bs.drop (p.1 - va)).take p.2
    let s1 := s.walkTouch fn p.1
    match s.translate fn p.1 .write with
    | .at (.stack a) _ _ => some ((s1.cacheWrite a part.length fn 0).putMem a part)
    | .at (.host l a) _ _ => some (s1.putHost l a part)
    | _ => none)) (some s)

/-- HEAD of a trace ring (R374), when the die can read it, and the state after the read. (DESIGN CHOICE: log entry 46). -/
def State.traceHead (s : State) (r : TraceRing) : Option (Nat × State) :=
  let s1 := s.walkTouch r.fn (r.va + 4)
  match s.translate r.fn (r.va + 4) .read with
  | .at (.stack a) _ _ => some (Memory.readLe s.mem a 4, s1.cacheRead a 4 r.fn 0)
  | .at (.host l a) _ _ => (knownBytes s.host (hostKey l a) 4).map (fun bs => (leNat bs, s1))
  | _ => none

/-- Records of a trace ring (R373). -/
def TraceRing.records (r : TraceRing) : Nat := 2 ^ (r.size + 8)

/-- A function's trace ring of a die replaced. -/
def State.setRing (s : State) (die : Nat) (r : TraceRing) : State :=
  s.updDie die (fun d => { d with traces := updFirst (fun x => x.fn == r.fn) (fun _ => r) d.traces })

/-- A dropped record, counted in DROP (R374). -/
def State.dropRecord (s : State) (die : Nat) (r : TraceRing) : State :=
  State.setRing ((s.writeTrusted r.fn (r.va + 8) (leBytes 8 (satAdd 64 r.drop 1))).getD s) die
    { r with drop := satAdd 64 r.drop 1 }

/-- One trace record to one ring (R374, R375): dropped and counted when the ring is full or a line is refused.
(DESIGN CHOICE: log entry 46). -/
def State.traceTo (s : State) (die : Nat) (r : TraceRing) (record : List Byte) : State :=
  let t := (r.tail + 1) % r.records
  match s.traceHead r with
  | none => s.dropRecord die r
  | some (h, s) =>
    if t = h % r.records then s.dropRecord die r else
    match s.writeTrusted r.fn (r.va + 64 + 32 * r.tail) (record.take 31 ++ [phaseByte r.phase]) with
    | none => s.dropRecord die r
    | some s1 =>
      match s1.writeTrusted r.fn r.va (leBytes 4 t) with
      | none => s.dropRecord die r
      | some s2 => s2.setRing die { r with tail := t, phase := if t = 0 then !r.phase else r.phase }

/-- A trace event of a die (R376): to the rings of its function that enable it; a core's event goes only to rings
whose core mask names the core; event 9 goes to every ring. -/
def State.trace (s : State) (die fn code : Nat) (core : Option Nat) (ctx queue seq data : Nat) : State :=
  let rec_ := leBytes 8 s.mod.timeNs ++ leBytes 4 (s.place die (core.getD 31) + ctx * 2 ^ 20) ++ leBytes 1 code
    ++ leBytes 1 fn ++ leBytes 2 queue ++ leBytes 4 seq ++ leBytes 8 data ++ leBytes 3 0
  ((s.die die).traces.filter (fun r =>
      Nat.testBit r.mask code && (code == 9 || (r.fn == fn &&
        (match core with | some c => Nat.testBit r.cores c | none => true))))).foldl
    (fun s r => s.traceTo die r rec_) s

/-- A context named by core number and context number. -/
def ctxRefOf (k j : Nat) : CtxRef :=
  { die := BitVec.ofNat 5 (k / 20), core := BitVec.ofNat 5 (k % 20), ctx := BitVec.ofNat 2 j }

/-- A context. -/
def State.ctxOf (s : State) (c : CtxRef) : Ctx := s.ctx c.key c.idx

/-- Changes a context. -/
def State.updCtxOf (s : State) (c : CtxRef) (f : Ctx → Ctx) : State := s.updCtx c.key c.idx f

/-- Adds saturated and flushed counts of a context (R52), to its command's totals (R53), and to the core's
counters 16 and 17 (R377). -/
def State.addCounts (s : State) (k j sat flush : Nat) : State :=
  let s1 := s.updCore k (fun c =>
    ((c.updCtx j (fun x => x.addCounts sat flush)).countEvent 16 (some j) sat).countEvent 17 (some j) flush)
  match (s.ctx k j).job with
  | some r => s1.updCmd r (fun c => { c with sat := satAdd 16 c.sat sat, flush := satAdd 16 c.flush flush })
  | none => s1

/-- RESULT of a LAUNCH (R234): the first non-zero code in context order, its index, and how many are non-zero. -/
def launchResult (codes : SMap (BitVec 16)) : Nat :=
  let nz := codes.filter (fun p => p.2 != 0)
  match nz with
  | [] => 0
  | p :: _ => p.2.toNat + p.1 * 2 ^ 16 + nz.length * 2 ^ 32

/-- The communication queue of a group's member (R306). -/
def Group.queue (g : Group) (die : Nat) : Nat := 512 * die + g.qoff

/-- Sends a ligature message of a member to a module (R317, R321). The window and the offset of the receiver's buffer are the
receiver's own. (DESIGN CHOICE: log entry 63). -/
def State.ligSend (s : State) (gi die opseq ltype step cls dest pos : Nat) (rank : Option Nat) (payload : List Byte) :
    SendResult :=
  let g := s.group gi
  let cmd := (s.ligOps.find? (fun o => o.group == gi && o.die == die && o.opseq == opseq)).bind (fun o =>
    match o.owner with
    | .cmd c => some c
    | .cp2 c _ => (s.ctxOf c).job)
  s.sendMsg { func := g.tenant, queue := g.queue die, cls := cls, cmd := cmd,
              engine := if ltype ≤ 1 then some (.ligature gi die) else none, rank := rank }
      { dest := dest, kind := 3, window := if ltype = 0 then (Config.peerWindow gi dest).toNat else 0,
        offset := if ltype = 0 then ((Config.peerBuffer gi (rank.getD 0) opseq).toNat + pos) % 2 ^ 40 else 0,
        kspec := g.gid + ltype * 2 ^ 16 + step % 256 * 2 ^ 24 + opseq % 65536 * 2 ^ 32 } payload

/-- The state after a message that is sent if it can be. -/
def SendResult.orElse (r : SendResult) (s : State) : State :=
  match r with
  | .sent s1 => s1
  | _ => s

/-- Sends the control messages that a group owes, as far as messages of their pairs may wait for acknowledgement (R294); one
with no route is not sent, and the peers' timers run. -/
def State.sendOwed (s : State) (gi : Nat) : State :=
  (s.group gi).owed.foldl (fun s m =>
    match s.ligSend gi m.die m.opseq m.ltype 0 7 m.dest 0 none [] with
    | .sent s1 => s1
    | .full => s.updGroup gi (fun g => { g with owed := g.owed ++ [m] })
    | .noRoute => s) (s.updGroup gi (fun g => { g with owed := [] }))

/-- The other modules that hold a member of a group. -/
def State.ligModules (s : State) (gi : Nat) : List Nat :=
  (((s.group gi).ranks.map (fun r => r.1)).filter (fun m => m != s.moduleNo)).eraseDups

/-- A member sends a control message of its operation to every other module that holds a member (R326, R327). -/
def State.ligControl (s : State) (o : LigOp) (ltype : Nat) : State :=
  let l := (s.ligModules o.group).map (fun m => { die := o.die, opseq := o.opseq, ltype := ltype, dest := m : OwedMsg })
  (s.updGroup o.group (fun g => { g with owed := g.owed ++ l })).sendOwed o.group

/-- The owner of an operation that has ended gets its status and counts (R53, R314), and the operation is gone.
(DEDUCED: log entry 62). -/
def State.ligClose (s : State) (o : LigOp) (status detail : Nat) : State :=
  let (q, n) := match o.owner with
    | .cmd r => (r.queue.toNat, r.seq.toNat)
    | .cp2 c _ => (s.ctxOf c).jobNums
  let s0 := s.trace o.die o.tenant 10 none 0 q n (o.opseq % 65536 + status * 2 ^ 16 + 2 ^ 63)
  let s1 := { s0 with
    ligOps := s.ligOps.filter (fun x => !(x.group == o.group && x.die == o.die && x.opseq == o.opseq))
    ligMsgs := s.ligMsgs.filter (fun m => !(m.group == o.group && m.die == o.die && m.opseq == o.opseq % 65536)) }
  let s2 := (s1.forgetReads (fun e => e == .ligature o.group o.die)).updDie o.die (fun d =>
    d.dropEngine (.ligature o.group o.die))
  let add (m : Cmd) : Cmd := { m with sat := satAdd 16 m.sat o.sat, flush := satAdd 16 m.flush o.flush }
  match o.owner with
  | .cmd r => s2.updCmd r (fun m => if m.isComplete then m else (add m).finish status detail)
  | .cp2 c _ =>
    let mark (t : LigTag) : LigTag :=
      if t.group == o.group && t.opseq == o.opseq && t.status.isNone then { t with status := some status } else t
    let s3 := s2.updCtxOf c (fun x => { x with ligTags := SMap.mapVals x.ligTags (fun _ t => mark t)
                                               kept := x.kept.map mark })
    match (s2.ctxOf c).job with
    | none => s3
    | some r => s3.updCmd r (fun m => if m.isComplete then m else
        if status = 6 ∨ status = 7 then (add m).outcome status detail else add m)

/-- DETAIL of PEER_LOST for a rank and a reason (R329). -/
def peerDetail (rank reason : Nat) : Nat := rank + 2 ^ 15 + reason * 2 ^ 16

/-- A member's operation ends with PEER_LOST, reason 2, naming a rank, and it sends aborts in turn (R327). -/
def State.ligLost (s : State) (o : LigOp) (rank : Nat) : State := (s.ligClose o 10 (peerDetail rank 2)).ligControl o 2

/-- The number, by a member's own count, of an operation that OPSEQ[15:0] names and that the member has not launched yet. -/
def Group.futureOp (g : Group) (die opseq : Nat) : Option Nat :=
  let n := SMap.get g.launched die 0
  let d := (opseq % 65536 + 65536 - n % 65536) % 65536
  if 0 < d ∧ d < 32768 then some (n + d) else none

/-- An operation that has been aborted by a member of some rank ends at every other member of this module (R327); a
member that launches it later completes at once. -/
def State.ligAborted (s : State) (gi opseq rank : Nat) : State :=
  let later (g : Group) : List (Nat × Nat × Nat) := ((List.range 32).filter (Nat.testBit g.members)).filterMap (fun d =>
    (g.futureOp d opseq).bind (fun k => if g.aborted.any (fun a => a.1 == d && a.2.1 == k) then none else some (d, k, rank)))
  let s1 := s.updGroup gi (fun g => { g with aborted := g.aborted ++ later g })
  (s1.ligOps.filter (fun o => o.group == gi && o.opseq % 65536 == opseq % 65536)).foldl (fun s o => s.ligLost o rank) s1

/-- An operation ends with a status (R327): with any but OK, the member sends aborts to the other modules, and the other
members of this module end; a cancelled or struck one also withdraws its uncommitted messages (R302, R340). A MISMATCH
ends the members of this module by the digests alone (R323). (DEDUCED: log entry 62). -/
def State.ligEnd (s : State) (o : LigOp) (status detail : Nat) : State :=
  if status = 0 then s.ligClose o status detail else
  let s0 := if status = 2 ∨ status = 7 then s.withdrawIf (fun _ e => e == some (.ligature o.group o.die)) else s
  let s1 := (s0.ligClose o status detail).ligControl o 2
  if status = 8 then s1 else s1.ligAborted o.group o.opseq o.rank

/-- The operations that a command owns, its cp2 operations among them. -/
def State.ligOf (s : State) (r : CmdRef) (ctxs : List CtxRef) : List LigOp :=
  s.ligOps.filter (fun o => match o.owner with
    | .cmd x => x == r
    | .cp2 c _ => ctxs.contains c)

/-- The LAUNCH has ended: every context it started is idle (R141). Its unfinished cp2 operations end with FAULT_UNRECOVERED
(R341). -/
def State.launchEnd (s : State) (r : CmdRef) : State :=
  match s.cmd r with
  | none => s
  | some c =>
    if c.isStarted && c.opcode == 1 && c.ctxs.all (fun x => (s.ctxOf x).mode == .idle) then
      let s0 := (s.ligOf r c.ctxs).foldl (fun s o => s.ligEnd o 7 (if c.status = 7 then c.detail else 0)) s
      let s1 := c.ctxs.foldl (fun s x => s.updCtxOf x (fun y => { y with job := none })) s0
      s1.updCmd r (fun c => { c.finish c.status c.detail with result := launchResult c.codes })
    else s

/-- A context becomes idle with a code (R141, R245); the L1 keeps no host or remote line. -/
def State.goIdle (s : State) (c : CtxRef) (code : BitVec 16) (reported : Bool) : State :=
  let x := s.ctxOf c
  let s1 := (s.updCoreTimed c.key (fun k => k.updCtx c.idx (fun y => { y with mode := .idle, code := some code }))).forgetReads
    (fun e => e == .ctx c)
  let (q, n) := x.jobNums
  let s2 := s1.trace c.die.toNat (s.tenantOf c.key) 3 (some c.core.toNat) c.idx q n (code.toNat + 2 ^ 63)
  match x.job with
  | none => s2
  | some r =>
    (s2.updCmd r (fun m => if reported then { m with codes := SMap.set m.codes x.index code } else m)).launchEnd r

/-- DETAIL of FAULT_UNRECOVERED (R349). -/
def faultDetail (kind reason core die : Nat) : Nat := kind + reason * 2 ^ 8 + core * 2 ^ 16 + die * 2 ^ 21

/-- What a trap that no handler takes leaves (R152): a TYPE 3 record of KIND 6, and FAULT_UNRECOVERED for its command.
(DEDUCED: log entry 45). -/
def State.trapRecord (s : State) (c : CtxRef) (cmd : Option CmdRef) (cause : Nat) (arg : Word) : State :=
  let (q, n) := (cmd.map (fun r => (r.queue.toNat, r.seq.toNat))).getD (0, 0)
  let pc := (s.ctxOf c).pc.toNat % 2 ^ 48
  let src := s.sourceOf c.die.toNat c.core.toNat c.idx 0 0 false
  let s1 := s.record (s.tenantOf c.key)
    (recordBytes3 arg.toNat 6 src q (pc / 2 ^ 32) n (pc % 2 ^ 32) cause)
  match cmd with
  | some r => s1.updCmd r (fun m => m.outcome 7 (faultDetail 6 3 c.core.toNat c.die.toNat))
  | none => s1

/-- A trap with no handler to take it, or a trap in a handler, stops the context (R152). -/
def State.trapStop (s : State) (c : CtxRef) (cause : Nat) (arg : Word) : State :=
  (s.trapRecord c (s.ctxOf c).job cause arg).goIdle c 0 false

/-- Handler entry (R151), for a trap at the pc or an interrupt before it. -/
def Ctx.enterHandler (x : Ctx) (cause : Nat) (arg : Word) : Ctx :=
  { x with hpc := x.pc, hwhy := BitVec.ofNat 6 cause, harg := arg, gsave := x.gate, gate := false, inh := true
           mode := .running, pc := BitVec.ofNat 64 (x.hbase.toNat * 256) }

/-- A trap (R150 to R152). Traps are precise: it waits until the context's issued vector instructions have
committed; then the handler is entered, or the context stops. -/
def State.takeTrap (s : State) (c : CtxRef) (cause : Nat) (arg : Word) : State :=
  let x := s.ctxOf c
  if !x.vq.isEmpty then s
  else if x.inh || !x.hen then s.trapStop c cause arg
  else
    let (q, n) := x.jobNums
    ((s.updCtxOf c (fun x => x.enterHandler cause arg)).forgetReads (fun e => e == .ctx c)).trace c.die.toNat
      (s.tenantOf c.key) 4 (some c.core.toNat) c.idx q n (cause + (arg.toNat % 2 ^ 56) * 256)

/-- The illegal-instruction trap, ISA_HARG the instruction word (R150). -/
def State.trapIllegal (s : State) (c : CtxRef) (w : Word32) : State := s.takeTrap c 0 (w.setWidth 64)

/-- The illegal-operand trap (R150). -/
def State.trapOperand (s : State) (c : CtxRef) (w : Word32) : State := s.takeTrap c 2 (w.setWidth 64)

/-- The same engine and page join one outstanding record (R213). -/
def Die.joinFault (d : Die) (p : PageFault) (e : Engine) : Die :=
  if d.faults.any (fun f => f.fn == p.fn && f.page == p.page) then
    let f (f : PageFault) : PageFault :=
      { f with engines := f.engines ++ [(e, p.va)], count := if f.tag.isNone then f.count + 1 else f.count }
    { d with faults := updFirst (fun f => f.fn == p.fn && f.page == p.page) f d.faults }
  else { d with faults := d.faults ++ [{ p with engines := [(e, p.va)] }] }

/-- A page fault of a context's access (R213, R215, R216): the context stalls, or the access-fault trap is raised
at once while the function's fault queue is off. -/
def State.stallPage (s : State) (c : CtxRef) (engine : Nat) (cause va : Nat) (wr : Bool) : State :=
  let fn := s.tenantOf c.key
  if !(s.func fn).fqEn then s.takeTrap c 5 (BitVec.ofNat 64 va) else
  let x := s.ctxOf c
  let (q, n) := x.jobNums
  let p : PageFault :=
    { fn := fn, page := va / 2 ^ 25, va := va, cause := cause,
      source := s.sourceOf c.die.toNat c.core.toNat c.idx engine 0 wr,
      queue := q, seq := n, count := 0, tag := none, engines := [] }
  let s1 := (s.updCtxOf c (fun x => { x with mode := .stalled })).updDie c.die.toNat
    (fun d => d.joinFault p (.ctx c))
  s1.trace c.die.toNat fn 7 (some c.core.toNat) c.idx q n (va % 2 ^ 48)

/-- A context is stopped as an interrupt would stop it (R245, R340): it issues nothing more. -/
def State.stopCtx (s : State) (c : CtxRef) : State :=
  let s1 := (s.updCoreTimed c.key (fun k => k.updCtx c.idx (fun y => { y with mode := .idle }))).forgetReads
    (fun e => e == .ctx c)
  s1.updDie c.die.toNat (fun d => d.dropEngine (.ctx c))

/-- Whether a physical row of a core lies in a range that a command declares with an intent (R229, R342). -/
def Rng.holdsRow (r : Rng) (wantWrite : Bool) (core handle row : Nat) : Bool :=
  match r with
  | .ink w c h lo hi => w == wantWrite && c == core && h == handle && decide (lo ≤ row ∧ row < hi)
  | .va _ _ _ => false

/-- The command declares a read-intent inkwell range on a core (R346). -/
def Cmd.readsInk (c : Cmd) (core : Nat) : Bool :=
  c.ranges.any (fun r => match r with | .ink w k _ _ _ => !w && k == core | .va _ _ _ => false)

/-- What strikes: the fault's kind, its core when one raised it, and the row of a KIND 2 fault. -/
structure Strike where
  kind : Nat
  die : Nat
  core : Nat
  mapOut : Bool
  handle : Nat := 0
  row : Nat := 0
  engine : Nat := 0
  feed : Nat := 0
  deriving DecidableEq, Repr

/-- The core that raised the fault, 31 for a die engine (R214, R349). (DEDUCED: log entry 50). -/
def Strike.raiser (k : Strike) : Nat := if k.engine = 0 then k.core else 31

/-- DETAIL of the fault (R349). -/
def Strike.detail (k : Strike) (reason : Nat) : Nat := faultDetail k.kind reason k.raiser k.die

/-- Why a struck command is not replayed, or none (R336, R338, R342, R343, R346). `own` says that the command's own
read met the fault. (DEDUCED: log entry 44). -/
def Cmd.noReplay (c : Cmd) (k : Strike) (own : Bool) : Option Nat :=
  let feed := c.opcode = 0x10 ∨ c.opcode = 0x11 ∨ c.opcode = 0x12
  if ¬(c.opcode = 1 ∨ feed) then some 8
  else if !c.eligible then some 1
  else if own && k.kind == 3 then some 2
  else if own && k.kind == 2 && !(c.ranges.any (fun r => r.holdsRow true k.core k.handle k.row)
      && !(c.ranges.any (fun r => r.holdsRow false k.core k.handle k.row))) then some 2
  else if k.mapOut && c.readsInk k.core then some 4
  else if c.lost then some 6
  else if 4 ≤ c.attempts then some 9
  else none

/-- The page faults of a command's feed transfers are withdrawn (R216). -/
def Die.dropFeedFaults (d : Die) (mine : XferRef → Bool) : Die :=
  d.dropEngines (fun e => match e with | .feed t => mine t | _ => false)

/-- A transfer belongs to a command or to one of its contexts. -/
def xferIsOf (r : CmdRef) (ctxs : List CtxRef) : XferRef → Bool
  | .cmd x => x == r
  | .cp1 c _ => ctxs.contains c

/-- The transfers of a command stop (R340): those of its contexts are dropped, uncommitted messages are withdrawn. -/
def State.stopXfers (s : State) (r : CmdRef) (ctxs : List CtxRef) : State :=
  let s1 := ctxs.foldl (fun s x => s.updCtxOf x (fun y => { y with feedTags := [] })) s
  ((s1.updDie r.die (fun d => d.dropFeedFaults (xferIsOf r ctxs))).forgetReads (fun e =>
    match e with | .feed t => xferIsOf r ctxs t | _ => false)).withdraw r

/-- The fault strikes one command (R337, R340, R341, R344): its contexts and transfers stop and it enters its replay, or
it completes with FAULT_UNRECOVERED and its unfinished ligature operations end with it. (DEDUCED: log entry 44). -/
def State.strikeCmd (s : State) (k : Strike) (r : CmdRef) (own : Bool) : State :=
  match s.cmd r with
  | none => s
  | some c =>
    if c.isComplete then s else
    let s1 := (c.ctxs.foldl (fun s x => s.stopCtx x) s).stopXfers r c.ctxs
    match c.noReplay k own with
    | none =>
      let m := match c.phase with
        | .replay b => b || k.mapOut
        | _ => k.mapOut
      let row := (k.die * 20 + k.core, (SMap.get (s.core (k.die * 20 + k.core)).handles k.handle {}).base + k.row)
      s1.updCmd r (fun c => { c with phase := .replay m, kind := k.kind, fcore := k.raiser, fdie := k.die
                                     repair := if own && k.kind == 2 then row :: c.repair else c.repair })
    | some reason =>
      let s2 := (s1.ligOf r c.ctxs).foldl (fun s o => s.ligEnd o 7 (k.detail reason)) s1
      let s3 := c.ctxs.foldl (fun s x => s.updCtxOf x (fun y => { y with job := none })) s2
      s3.updCmd r (fun c => { c.finish 7 (k.detail reason) with result := launchResult c.codes })

/-- The TYPE 3 record of a fault of KIND 1 to 5 (R333). (DEDUCED: log entry 27; DEDUCED: log entry 44). -/
def State.faultRecord (s : State) (fn : Nat) (k : Strike) (addr ctx : Nat) (r : Option CmdRef) : State :=
  let c := r.bind s.cmd
  let action := if s.mod.failed then 1 + 5 * 16 else match c with
    | none => 1
    | some c => match c.noReplay k true with
      | none => if k.mapOut then 2 else 0
      | some reason => 1 + reason * 16
  let (q, n, a) := match r, c with
    | some r, some c => (r.queue.toNat, r.seq.toNat, c.attempts)
    | _, _ => (0, 0, 0)
  s.record fn (recordBytes3 addr k.kind (s.sourceOf k.die k.raiser ctx k.engine k.feed false) q 0 n (action + a * 256) 0)

/-- The value of MOD_HEALTH (R348). (DEDUCED: log entry 45). -/
def Module.health (m : Module) : Nat :=
  b2n m.failed * 2 ^ 31 + m.fcause * 2 ^ 24 + m.dieA * 2 ^ 15 + m.dieB * 2 ^ 10 + m.portDie * 2 ^ 8

/-- Every optical port becomes DISABLED (R348). -/
def State.portsDark (s : State) : State :=
  s.updFab (fun f => { f with ports := (List.range 32).map (fun p =>
    (p, { SMap.get f.ports p {} with state := .disabled })) })

/-- The module fails (R347, R348): the cause is recorded, ports go dark, contexts stop, every command in flight
completes with FAULT_UNRECOVERED of KIND 7, the MMC writes identity record 2, and the managing function gets EVENT 3.
(DEDUCED: log entry 45). -/
def State.failModule (s : State) (cause dieA dieB portDie : Nat) : State :=
  if s.mod.failed then s else
  let s1 := s.updMod (fun m => { m with failed := true, fcause := cause, dieA := dieA, dieB := dieB, portDie := portDie })
  let s2 := s1.portsDark
  let s3 := { s2 with cores := SMap.mapVals s2.cores (fun _ k =>
    { k with ctxs := SMap.mapVals k.ctxs (fun _ x => { x with mode := .idle, job := none, feedTags := [] }) }), ligOps := [] }
  let s4 := { s3 with cmds := s3.cmds.map (fun (c : Cmd) =>
    if c.isComplete then c
    else { c.finish 7 (faultDetail 7 5 31 dieA) with result := if c.opcode = 1 then launchResult c.codes else c.result }) }
  let s5 := if s4.mod.mmcRun then
      s4.updMod (fun m => { m with records := SMap.set m.records 2 (BitVec.ofNat 2048 m.health) })
    else s4
  s5.moduleEvent 3 s5.mod.health

/-- Counts a fault of KIND 1, 2, 4 or 5 against a core (R345): the second within the window maps the core out, or
fails the module. The answer says whether a map-out starts. (DEDUCED: log entry 50). -/
def State.countFault (s : State) (k kind : Nat) : State × Bool :=
  let c := s.core k
  let d := s.die (k / 20)
  let s1 := s.updCore k (fun c => { c with faults := satAdd 8 c.faults 1, armed := true, lastKind := kind })
  if !c.armed then (s1, false)
  else if !d.spareUsed && !d.mapping then
    (s1.updDie (k / 20) (fun d => { d with mapping := true, spareCore := k % 20 }), true)
  else (s1.failModule 1 (k / 20) 0 0, false)

/-- Commands with work on a core: those of its contexts (R337). -/
def Core.jobs (k : Core) : List CmdRef := (k.ctxs.filterMap (fun p => p.2.job)).eraseDups

/-- Commands with work on a core that a map-out takes away (R346): those of its contexts, and the started transfers that use its
inkwell. -/
def State.workersOn (s : State) (key : Nat) : List CmdRef :=
  ((s.core key).jobs ++ (s.cmds.filter (fun c => c.isStarted && c.ref.die == key / 20 && c.ranges.any (fun r =>
    match r with
    | .ink _ k _ _ _ => k == key % 20
    | .va _ _ _ => false))).map (fun c => c.ref)).eraseDups

/-- A fault strikes its own command, and others (R337, R346). -/
def State.strikeAll (s : State) (st : Strike) (own : Option CmdRef) (others : List CmdRef) : State :=
  (own.toList ++ others).eraseDups.foldl (fun s r => s.strikeCmd st r (own == some r)) s

/-- A fault of KIND 1 to 5 raised by a core (R330, R337): the core halts, the fault is counted and recorded, and
every command with work on the core is struck. -/
def State.coreFault (s : State) (k j kind addr handle row : Nat) : State :=
  let s1 := s.updCore k (fun c => { c with halted := true })
  let (s2, mapOut) := if kind = 3 then (s1, false) else s1.countFault k kind
  let own := (s.ctx k j).job
  let st : Strike := { kind := kind, die := k / 20, core := k % 20, mapOut := mapOut, handle := handle, row := row }
  let s3 := s2.faultRecord (s.tenantOf k) st addr j own
  s3.strikeAll st own (if mapOut then s.workersOn k else (s.core k).jobs)

/-- ADDR of a KIND 2 record (R333). -/
def inkFaultAddr (handle row phys : Nat) : Nat := handle * 2 ^ 24 + row % 2 ^ 14 + phys * 2 ^ 32

/-- An uncorrectable inkwell row met by an instruction or a pass of the core (R172). (DEDUCED: log entry 17; DEDUCED: log entry
50). -/
def State.inkEccFault (s : State) (k j handle row phys : Nat) : State :=
  (s.updCore k (fun c => c.eccRecord phys false)).coreFault k j 2 (inkFaultAddr handle row phys) handle row

/-- A poisoned line read by an instruction of a context (R196). -/
def State.poisonFault (s : State) (k j spa : Nat) : State := s.coreFault k j 3 spa 0 0

/-- Ends a feed or ligature access, or an instruction access, that the module cannot complete for want of a route
or a module number (R22, R294, R295): the command completes with PEER_LOST and its reason (R329). -/
def State.peerLost (s : State) (r : Option CmdRef) (reason : Nat) : State :=
  match r with
  | none => s
  | some r => s.updCmd r (fun c => c.outcome 10 (reason * 2 ^ 16))

/-- A command ends at once with an outcome: the contexts of a LAUNCH stop (R245), and the command completes. -/
def State.endCommand (s : State) (r : CmdRef) (status detail : Nat) : State :=
  match s.cmd r with
  | none => s
  | some c =>
    if c.isComplete then s else
    let s1 := (c.ctxs.foldl (fun s x => s.stopCtx x) s).stopXfers r c.ctxs
    let s2 := s1.updCmd r (fun c => { c.finish status detail with result := launchResult c.codes })
    let s3 := (s1.ligOf r c.ctxs).foldl (fun s o => s.ligEnd o 7 0) s2
    c.ctxs.foldl (fun s x => s.updCtxOf x (fun y => { y with job := none })) s3

/-- The end of an instruction's access that gave no value: a wait changes nothing more, a trap is taken, a page
fault stalls, a poisoned line raises the stack fault, and a lost peer ends the command with PEER_LOST. -/
def State.accEnd {α : Type} (c : CtxRef) (engine : Nat) (x : Acc α) (f : α → State → State) : State :=
  match x with
  | .ok a s => f a s
  | .wait s => s
  | .trap cause arg s => s.takeTrap c cause arg
  | .page cause va wr s => s.stallPage c engine cause va wr
  | .poison spa s => s.poisonFault c.key c.idx spa
  | .lost reason s =>
    match (s.ctxOf c).job with
    | some r => s.endCommand r 10 (reason * 2 ^ 16)
    | none => s.goIdle c 0 false

end Sys2Proof.Machine
end

