-- ==== Sys2Proof/Machine/Issue.lean ====
section
/-! DEFINITION. Issue of an instruction word by a context: when the context can issue it (R86, R138, R141, R153,
R213), the illegal-instruction trap, the wait for scalar results of vector instructions in flight (R117), and the
commit of a completed instruction. -/

namespace Sys2Proof.Machine

/-- The core runs instructions: it is owned, not being cleared and not halted (R86, R173, R271). -/
def Core.runs (k : Core) : Bool := k.owned && !k.clearing && !k.halted

/-- The context can issue its next instruction: it runs and no interrupt is taken first (R141, R153, R213).
(DESIGN CHOICE: log entry 3). -/
def State.ready (s : State) (c : CtxRef) : Bool :=
  (s.core c.key).runs && ((s.ctxOf c).mode == .running) && !(s.irqTaken (s.ctxOf c))

/-- A vector instruction in flight will write x[r] (R117). -/
def Ctx.awaitsReg (x : Ctx) (r : Nat) : Bool :=
  x.vq.any (fun o => match o.destX with | some (d, _) => d == r | none => false)

/-- A vector instruction in flight will write f[r] (R117). -/
def Ctx.awaitsFreg (x : Ctx) (r : Nat) : Bool :=
  x.vq.any (fun o => match o.destF with | some (d, _) => d == r | none => false)

/-- The word reads a scalar register that a vector instruction in flight will write (R117). One that only writes it goes
on, and the vector instruction writes it at its commit (R120). (DEDUCED: log entry 73). -/
def Ctx.awaitsScalar (x : Ctx) (w : Word32) : Bool :=
  match rowOf w with
  | none => false
  | some r => (xReads r w).any x.awaitsReg || (fReads r w).any x.awaitsFreg

/-- A context issues an instruction word of a row. A word that is legal and belongs to another row is not this
command's. (DESIGN CHOICE: log entry 1; DESIGN CHOICE: log entry 3). -/
def State.issue (s : State) (row : Row) (c : CtxRef) (w : Word32) (f : State → State) : Result :=
  if 20 ≤ c.core.toNat then .fault (.noSuchCore c.core.toNat)
  else if !s.ready c then .next s
  else match rowOf w with
    | none => .next (s.trapIllegal c w)
    | some r => .next (if r = row && !(s.ctxOf c).awaitsScalar w then f s else s)

/-- The instruction commits: its accesses are complete, its context's registers change, the pc moves to the next instruction,
and it counts in ISA_RETIRED (R145). -/
def State.commit (s : State) (c : CtxRef) (f : Ctx → Ctx) : State :=
  s.updCore c.key (fun k => (k.updCtx c.idx (fun x => f { x with pc := x.pc + 4 })).retire c.idx)

/-- A memory access of a context is complete: what the die keeps for it is forgotten. -/
def State.ctxDone (s : State) (c : CtxRef) : State := s.accessDone (.ctx c) (s.ctxOf c).job

/-- An instruction that only reads and writes registers of its context. `f` sees the registers before it, and the
pc already at the next instruction. -/
def State.issueReg (s : State) (row : Row) (c : CtxRef) (w : Word32) (f : Ctx → Ctx) : Result :=
  s.issue row c w (fun s => s.commit c f)

/-- Sets flags of ISA_XFLG (R142). -/
def Ctx.raise (x : Ctx) (fl : BitVec 5) : Ctx := { x with xflg := x.xflg ||| fl }

/-- Sets flags of VEC_XFLG (R139). -/
def Ctx.raiseV (x : Ctx) (fl : BitVec 5) : Ctx := { x with vxflg := x.vxflg ||| fl }

/-- Effects on one core that a command names, or the fault of a number that names no core (R20).
(DESIGN CHOICE: log entry 1). -/
def onCore (k : CoreRef) (f : Nat → State) : Result :=
  if 20 ≤ k.core.toNat then .fault (.noSuchCore k.core.toNat) else .next (f k.key)

/-- Effects on one context that an event names. (DESIGN CHOICE: log entry 1). -/
def onCtx (c : CtxRef) (s : State) : Result :=
  if 20 ≤ c.core.toNat then .fault (.noSuchCore c.core.toNat) else .next s

end Sys2Proof.Machine
end

