-- ==== Sys2Proof/Machine/ScalarMem.lean ====
section
/-! DEFINITION. Loads, stores, atomics and fences of the scalar core (R148, R157 to R160, R202). -/

namespace Sys2Proof.Machine

/-- A located range meets bytes that a vector store of the context has not yet written (R157). -/
def Ctx.vecStoreMeets (x : Ctx) (l : Loc) (n : Nat) : Bool :=
  (x.vq ++ x.drain).any (fun o => o.stores.any (fun st =>
    match st with
    | .mem a _ _ => (List.range n).any (fun i => l.add i == a)
    | _ => false))

/-- The address checks of a scalar access of `n` bytes: alignment (R157), then bits [63:48] (R202).
(DEDUCED: log entry 21). -/
def scalarAddr (a : Word) (n : Nat) : Option Nat :=
  if a.toNat % n ≠ 0 then some 3 else if vaBad a then some 5 else none

/-- A located range, unless one of the context's own vector stores to it is still on its way. -/
def State.locateOrdered (s : State) (ag : Agent) (x : Ctx) (va n : Nat) (a : Access) : Acc Loc :=
  (s.locate ag va a).bind (fun l s1 => if x.vecStoreMeets l n then .wait s else .ok l s1)

/-- A context's scalar read of n bytes at a checked address. -/
def State.scalarRead (s : State) (c : CtxRef) (va n : Nat) : Acc (List Byte) :=
  let ag := s.ctxAgent c
  (s.locateOrdered ag (s.ctxOf c) va n .read).bind (fun l s => s.coreRead ag c.key c.idx va l n)

/-- A context's scalar write of bytes at a checked address, into its store buffer. -/
def State.scalarWrite (s : State) (c : CtxRef) (va : Nat) (bs : List Byte) : Acc Unit :=
  let ag := s.ctxAgent c
  (s.locateOrdered ag (s.ctxOf c) va bs.length .write).bind (fun l s => s.bufferStore c.key c.idx va l bs)

/-- The effective address of formats K and P. -/
def effAddr (x : Ctx) (w : Word32) (k : Int) : Word := x.rx (wRs1 w) + BitVec.ofInt 64 k

/-- A load of n bytes whose value `f` puts into a register. -/
def State.loadInstr (s : State) (c : CtxRef) (a : Word) (n : Nat) (f : Nat → Ctx → Ctx) : State :=
  match scalarAddr a n with
  | some cause => s.takeTrap c cause a
  | none => State.accEnd c 0 (s.scalarRead c a.toNat n) (fun bs s => (s.ctxDone c).commit c (f (leNat bs)))

/-- A store of the low n bytes of a value. -/
def State.storeInstr (s : State) (c : CtxRef) (a v : Word) (n : Nat) : State :=
  match scalarAddr a n with
  | some cause => s.takeTrap c cause a
  | none => State.accEnd c 0 (s.scalarWrite c a.toNat (leBytes n v.toNat)) (fun _ s => (s.ctxDone c).commit c id)

/-- LS8 to LZ32, L64. -/
def execLoad (c : CtxRef) (w : Word32) (s : State) : Result :=
  s.issue .load c w (fun s =>
    s.loadInstr c (effAddr (s.ctxOf c) w (wKK w)) (loadBytes (wF3 w))
      (fun v x => x.wx (wRd w) (loadExt (wF3 w) v)))

/-- S8 to S64. -/
def execStore (c : CtxRef) (w : Word32) (s : State) : Result :=
  s.issue .store c w (fun s =>
    let x := s.ctxOf c
    s.storeInstr c (effAddr x w (wKP w)) (x.rx (wRs2 w)) (2 ^ wF3 w))

/-- LDF: an f register loaded. -/
def execLdf (c : CtxRef) (w : Word32) (s : State) : Result :=
  s.issue .ldf c w (fun s =>
    s.loadInstr c (effAddr (s.ctxOf c) w (wKK w)) 8 (fun v x => x.wf (wRd w) (BitVec.ofNat 64 v)))

/-- STF: an f register stored. -/
def execStf (c : CtxRef) (w : Word32) (s : State) : Result :=
  s.issue .stf c w (fun s =>
    let x := s.ctxOf c
    s.storeInstr c (effAddr x w (wKP w)) (x.rf (wRs2 w)) 8)

/-- An L1 line is invalidated (R160). -/
def Core.l1Drop (k : Core) (l : Loc) : Core := { k with l1 := k.l1.filter (fun x => x.line != l) }

/-- The atomic at the owning die cache (R160): the old word, and the new word written. (DEDUCED: log entry 22). -/
def State.atomicAt (s : State) (ag : Agent) (k va : Nat) (l : Loc) (f : Word → Word) : Acc Word :=
  match l with
  | .stack spa =>
    (s.readLoc ag va l 8).bind (fun bs s =>
      let old := BitVec.ofNat 64 (leNat bs)
      (s.writeLoc ag va l (leBytes 8 (f old).toNat)).bind (fun _ s =>
        .ok old (s.updCore k (fun c => c.l1Drop (.stack (spa / 64 * 64))))))
  | _ => .trap 5 (BitVec.ofNat 64 va) s

/-- ATSWP to ATCAS: the old word in xd; the context's buffered stores go first, and host and remote words raise
the access fault. -/
def execAtomic (c : CtxRef) (w : Word32) (s : State) : Result :=
  s.issue .atomic c w (fun s =>
    let x := s.ctxOf c
    let a := x.rx (wRs1 w)
    match scalarAddr a 8 with
    | some cause => s.takeTrap c cause a
    | none =>
      let ag := s.ctxAgent c
      State.accEnd c 0
        ((s.locateOrdered ag x a.toNat 8 .write).bind (fun l s =>
          (s.drainCtx ag c.key c.idx).bind (fun _ s =>
            s.atomicAt ag c.key a.toNat l (fun old => atomicOp (wF3 w) old (x.rx (wRs2 w)) (x.rx (wRd w))))))
        (fun old s => (s.ctxDone c).commit c (fun x => x.wx (wRd w) old)))

/-- Every vector store of the context has been written (R121, R158). -/
def Ctx.vecStoresDone (x : Ctx) : Bool := x.vq.isEmpty && x.drain.isEmpty

/-- Every feed transfer and ligature operation that the context started has completed (R158). -/
def Ctx.cpDone (x : Ctx) : Bool :=
  x.feedTags.all (fun p => match p.2.phase with | .complete _ _ => true | _ => false)
    && x.ligTags.all (fun p => p.2.status.isSome)

/-- No message of the context waits for its acknowledgement (R158, R294). -/
def State.ctxAcked (s : State) (c : CtxRef) : Bool := !(s.fab.unacked.any (fun u => u.engine == some (.ctx c)))

/-- Fences of die scope and wider invalidate the core's L1 data cache (R158). -/
def Core.l1Clear (k : Core) : Core := { k with l1 := [] }

/-- A fence (R158): it waits until the context's earlier accesses have completed, then acts and commits. -/
def State.fence (s : State) (c : CtxRef) (scope : State → Bool) (act : Core → Core) : State :=
  if !((s.ctxOf c).vecStoresDone && scope s) then s else
  State.accEnd c 0 (s.drainCtx (s.ctxAgent c) c.key c.idx) (fun _ s => (s.updCore c.key act).commit c id)

/-- fence.core: the context's stores leave the store buffer. -/
def execFenceCore (c : CtxRef) (w : Word32) (s : State) : Result :=
  s.issue .fenceCore c w (fun s => s.fence c (fun _ => true) id)

/-- fence.die: the context's stores to stack memory are at their die caches; the L1 is invalidated. -/
def execFenceDie (c : CtxRef) (w : Word32) (s : State) : Result :=
  s.issue .fenceDie c w (fun s => s.fence c (fun _ => true) Core.l1Clear)

/-- fence.dev: also the context's feed transfers and ligature operations. -/
def execFenceDev (c : CtxRef) (w : Word32) (s : State) : Result :=
  s.issue .fenceDev c w (fun s => s.fence c (fun s => (s.ctxOf c).cpDone) Core.l1Clear)

/-- Whether fence.sys may complete once the store buffer has drained: feeds, ligature operations, and every message
acknowledged. -/
def State.sysDone (s : State) (c : CtxRef) : Bool := (s.ctxOf c).cpDone && s.ctxAcked c

/-- fence.sys: also every write to host memory and to remote windows, complete at its destination. The buffered
stores go out first; the fence then waits for their acknowledgements. -/
def execFenceSys (c : CtxRef) (w : Word32) (s : State) : Result :=
  s.issue .fenceSys c w (fun s =>
    if !((s.ctxOf c).vecStoresDone) then s else
    State.accEnd c 0 (s.drainCtx (s.ctxAgent c) c.key c.idx) (fun _ s =>
      if s.sysDone c then (s.updCore c.key Core.l1Clear).commit c id else s))

/-- fence.code: as fence.die, then the core's instruction cache is invalidated. -/
def execFenceCode (c : CtxRef) (w : Word32) (s : State) : Result :=
  s.issue .fenceCode c w (fun s => s.fence c (fun _ => true) (fun k => { k.l1Clear with icache := [] }))

end Sys2Proof.Machine
end

