-- ==== Sys2Proof/Machine/InkAccess.lean ====
section
/-! DEFINITION. Inkwell access by instructions: the outcome of the checks of R171, reads that meet an uncorrectable
row (R172), writes that wait for a matrix operand (R79), and unaligned ranges through the L1 and the store buffer. -/

namespace Sys2Proof.Machine

/-- A context stops because its handle is revoked: the command completes with REVOKED (R171). (DEDUCED: log entry 21). -/
def State.revokedStop (s : State) (c : CtxRef) (detail : Nat) : State :=
  let s1 := match (s.ctxOf c).job with
    | some r => s.updCmd r (fun m => m.outcome 5 detail)
    | none => s
  s1.goIdle c 0 false

/-- The outcome of the checks on an instruction's rows (R171). -/
def State.inkChecked (s : State) (c : CtxRef) (h : Nat) (r : HandleCheck) (f : Nat → State) : State :=
  match r with
  | .ok base => f base
  | .fault kind row => s.takeTrap c 4 (inkHarg kind h row)
  | .revoked => s.revokedStop c 1

/-- A core's reads of rows correct their single-bit errors (R172). -/
def State.correctRows (s : State) (k : Nat) (rows : List Nat) : State :=
  if rows.any (s.core k).inkSoft.contains then s.updCore k (fun c => c.correctRows rows) else s

/-- An instruction reads relative rows behind a base (R172): single-bit errors are corrected, and the first uncorrectable row
raises the inkwell ECC fault. -/
def State.inkReadable (s : State) (c : CtxRef) (h base : Nat) (rows : List Nat) (f : State → State) : State :=
  match rows.find? (fun r => (s.core c.key).inkBad.contains (base + r)) with
  | some r => s.inkEccFault c.key c.idx h r (base + r)
  | none => f (s.correctRows c.key (rows.map (fun r => base + r)))

/-- A context's read of any range, by page and through the L1 (R159). -/
def State.rangeRead (s : State) (c : CtxRef) (va n : Nat) : Acc (List Byte) :=
  let ag := { s.ctxAgent c with unit := 3 }
  (s.locateAll ag va n .read).bind (fun ls s =>
    accCollect (fun p s => s.coreRead ag c.key c.idx p.1 p.2.1 p.2.2) ls s)

/-- A context's write of any range into its store buffer, all pages translated first. -/
def State.rangeWrite (s : State) (c : CtxRef) (va : Nat) (bs : List Byte) : Acc Unit :=
  let ag := { s.ctxAgent c with unit := 3 }
  (s.locateAll ag va bs.length .write).bind (fun ls s =>
    accEach (fun p s =>
      accEach (fun (q : Nat × Nat) s =>
        s.bufferStore c.key c.idx (p.1 + (q.1 - p.2.1.addr)) (p.2.1.add (q.1 - p.2.1.addr)) ((bs.drop (p.1 - va + (q.1 - p.2.1.addr))).take q.2))
        (lineParts64 (p.2.2 / 64 + 2) p.2.1.addr p.2.2) s) ls s)

/-- A bad address in a range of a virtual-address operand: bits [63:48] (R202). -/
def rangeBad (a : Word) (n : Nat) : Option Word :=
  if vaBad a then some a
  else if 2 ^ 48 < a.toNat + n then some (BitVec.ofNat 64 (2 ^ 48)) else none

/-- The 64-bit words of a row. -/
def rowWords (v : BitVec 4096) : List Nat := (List.range 64).map (fun i => fld v (64 * i) 64)

/-- A row of 64-bit words or bytes. -/
def bytesRow (bs : List Byte) : BitVec 4096 := BitVec.ofNat 4096 (leNat bs)

/-- A row's bytes. -/
def rowBytes (v : BitVec 4096) : List Byte := leBytes 512 v.toNat

end Sys2Proof.Machine
end

