-- ==== Sys2Proof/Machine/BlockRepeat.lean ====
section
/-! DEFINITION. The block-repeat instructions (R155, R156): one step of BMOV, BFILL, BCMP or BSCAN, and the
instruction as its steps. -/

namespace Sys2Proof.Machine

/-- How one step of a block-repeat instruction ends: its registers advanced, or nothing more to do now (it
committed, trapped, stalled or waits). -/
inductive BrStep where
  | more (s : State)
  | ended (s : State)
  deriving DecidableEq, Repr

/-- The state after a step. -/
def BrStep.state : BrStep → State
  | .more s => s
  | .ended s => s

/-- A step after an access that gave a value; any other end of the access is the step's. -/
def brAcc {α : Type} (c : CtxRef) (x : Acc α) (f : α → State → BrStep) : BrStep :=
  match x with
  | .ok a s => f a s
  | y => .ended (State.accEnd c 3 y (fun _ s => s))

/-- The bytes that one operand gives at its locator: a row, or `n` bytes at a virtual address. -/
def State.brRead (s : State) (c : CtxRef) (l : Word) (n : Nat) (f : List Byte → State → BrStep) : BrStep :=
  if isInk l then
    match (s.core c.key).checkRows (inkHandle l) [inkRow l] false with
    | .ok base =>
      if (s.core c.key).inkBad.contains (base + inkRow l) then
        .ended (s.inkEccFault c.key c.idx (inkHandle l) (inkRow l) (base + inkRow l))
      else f (rowBytes ((s.core c.key).row (base + inkRow l))) (s.correctRows c.key [base + inkRow l])
    | e => .ended (s.inkChecked c (inkHandle l) e (fun _ => s))
  else brAcc c (s.rangeRead c l.toNat n) f

/-- Writes one step's bytes at a locator. -/
def State.brWrite (s : State) (c : CtxRef) (l : Word) (bs : List Byte) (f : State → BrStep) : BrStep :=
  if isInk l then
    match (s.core c.key).checkRows (inkHandle l) [inkRow l] true with
    | .ok base =>
      if (s.core c.key).mmNeeds (base + inkRow l) then .ended s
      else f (s.updCore c.key (fun k => k.putRow (base + inkRow l) (bytesRow bs)))
    | e => .ended (s.inkChecked c (inkHandle l) e (fun _ => s))
  else brAcc c (s.rangeWrite c l.toNat bs) (fun _ s => f s)

/-- A locator advanced by whole words; an inkwell locator advances one row per 64 words. -/
def brAdvance (l : Word) (words : Nat) : Word :=
  if isInk l then l + BitVec.ofNat 64 (words / 64) else l + BitVec.ofNat 64 (8 * words)

/-- The trap of a block-repeat locator, if any: reserved bits (R166), alignment (R155), bits [63:48] (R202). -/
def brLocTrap (l : Word) (n : Nat) : Option (Nat × Word) :=
  if isInk l then (if inkLocBad l then some (3, l) else none)
  else if l.toNat % 8 ≠ 0 then some (3, l)
  else (rangeBad l n).map (fun a => (5, a))

/-- The 8-byte words of some bytes. -/
def wordsOf : Nat → List Byte → List Nat
  | 0, _ => []
  | n + 1, bs => leNat (bs.take 8) :: wordsOf n (bs.drop 8)

/-- The number of leading words for which a comparison goes on. -/
def leadCount (p : Nat → Nat → Bool) : List Nat → List Nat → Nat
  | a :: as, b :: bs => if p a b then leadCount p as bs + 1 else 0
  | _, _ => 0

/-- The registers after a step: rd, and rs1 when it is a locator, advanced, and the count reduced. -/
def Ctx.brRegs (x : Ctx) (w : Word32) (both : Bool) (words : Nat) : Ctx :=
  let x1 := x.wx (wRd w) (brAdvance (x.rx (wRd w)) words)
  let x2 := if both then x1.wx (wRs1 w) (brAdvance (x.rx (wRs1 w)) words) else x1
  x2.wx (wRs2 w) (x.rx (wRs2 w) - BitVec.ofNat 64 words)

/-- One step done: the registers advance, and the instruction commits when its count reaches 0 or it stops early. -/
def State.brDone (s : State) (c : CtxRef) (w : Word32) (both : Bool) (words step : Nat) : BrStep :=
  let s1 := s.updCtxOf c (fun x => x.brRegs w both words)
  if words < step || (s1.ctxOf c).rx (wRs2 w) = 0 then .ended ((s1.ctxDone c).commit c id) else .more s1

/-- One step of a block-repeat instruction (R155, R156). (DEDUCED: log entry 23). -/
def State.blockStep (s : State) (c : CtxRef) (w : Word32) : BrStep :=
  let x := s.ctxOf c
  let rd := wRd w
  let r1 := wRs1 w
  let r2 := wRs2 w
  let both := wF3 w == 0 || wF3 w == 2
  let d := x.rx rd
  let a := x.rx r1
  let n := x.rx r2
  let ink := isInk d || (both && isInk a)
  if rd = 0 || r1 = 0 || r2 = 0 || rd = r1 || rd = r2 || r1 = r2 then .ended (s.trapOperand c w)
  else if ink && n.toNat % 64 ≠ 0 then .ended (s.trapOperand c w)
  else if n = 0 then .ended (s.commit c id)
  else if !x.vecStoresDone then .ended s
  else
  let step := if ink then 64 else 1
  match brLocTrap d (8 * step) with
  | some (cause, arg) => .ended (s.takeTrap c cause arg)
  | none =>
  match (if both then brLocTrap a (8 * step) else none) with
  | some (cause, arg) => .ended (s.takeTrap c cause arg)
  | none =>
  match wF3 w with
  | 0 => s.brRead c a (8 * step) (fun bs s => s.brWrite c d bs (fun s => s.brDone c w true step step))
  | 1 =>
    let bs := ((List.range step).map (fun _ => leBytes 8 a.toNat)).flatten
    s.brWrite c d bs (fun s => s.brDone c w false step step)
  | 2 =>
    s.brRead c d (8 * step) (fun p s => s.brRead c a (8 * step) (fun q s =>
      s.brDone c w true (leadCount (fun u v => u == v) (wordsOf step p) (wordsOf step q)) step))
  | _ =>
    s.brRead c d (8 * step) (fun p s =>
      s.brDone c w false (leadCount (fun u _ => u != a.toNat) (wordsOf step p) (wordsOf step p)) step)

/-- Steps until the instruction is over, at most one for each word that it counts. (DEDUCED: log entry 23). -/
def State.blockRun (c : CtxRef) (w : Word32) : Nat → State → State
  | 0, s => s
  | n + 1, s =>
    match s.blockStep c w with
    | .ended s1 => s1
    | .more s1 => State.blockRun c w n s1

/-- The whole of a block-repeat instruction from its registers. -/
def State.blockInstr (s : State) (c : CtxRef) (w : Word32) : State :=
  State.blockRun c w (((s.ctxOf c).rx (wRs2 w)).toNat + 1) s

/-- BMOV. -/
def execBmov (c : CtxRef) (w : Word32) (s : State) : Result := s.issue .bmov c w (fun s => s.blockInstr c w)

/-- BFILL. -/
def execBfill (c : CtxRef) (w : Word32) (s : State) : Result := s.issue .bfill c w (fun s => s.blockInstr c w)

/-- BCMP. -/
def execBcmp (c : CtxRef) (w : Word32) (s : State) : Result := s.issue .bcmp c w (fun s => s.blockInstr c w)

/-- BSCAN. -/
def execBscan (c : CtxRef) (w : Word32) (s : State) : Result := s.issue .bscan c w (fun s => s.blockInstr c w)

/-- The row of a block-repeat word by FUNCT3. -/
def blockRow (w : Word32) : Row :=
  match wF3 w with
  | 0 => .bmov
  | 1 => .bfill
  | 2 => .bcmp
  | _ => .bscan

/-- One step of the block-repeat instruction that the context executes. (DEDUCED: log entry 23). -/
def execBlockRepeatStep (c : CtxRef) (w : Word32) (s : State) : Result :=
  s.issue (blockRow w) c w (fun s => (s.blockStep c w).state)

end Sys2Proof.Machine
end

