-- ==== Sys2Proof/Machine/FeedDesc.lean ====
section
/-! DEFINITION. Feed descriptors (R247, R248): their fields, their checks (R35, R167, R249, R250) and declared sets
(R251); the transfers of the state and the feeds they hold (R249, R275). -/

namespace Sys2Proof.Machine

/-- A feed descriptor (R247). -/
structure FeedDesc where
  src : Nat
  dst : Nat
  sfmt : BitVec 32
  dfmt : BitVec 32
  soff : Nat
  doff : Nat
  seed : Nat
  shint : Nat
  dhint : Nat
  nosnoop : Bool
  feeds : Nat
  skind : Nat
  dkind : Nat
  score : Nat
  dcore : Nat
  elems : Nat
  rows : Nat
  spitch : Nat
  dpitch : Nat
  ststride : Nat
  dtstride : Nat
  tiles : Nat
  pattern : Nat
  reserved : Bool
  deriving DecidableEq, Repr

/-- Word Di of a descriptor. -/
def descWord (d : BitVec 896) (i : Nat) : BitVec 64 := d.extractLsb' (64 * i) 64

/-- Reads a feed descriptor (R247). -/
def FeedDesc.parse (d : BitVec 896) : FeedDesc :=
  let w := descWord d
  let d5 := w 5
  { src := (w 0).toNat, dst := (w 1).toNat, sfmt := (w 2).extractLsb' 0 32, dfmt := (w 2).extractLsb' 32 32,
    soff := (w 3).toNat, doff := (w 4).toNat, seed := fld d5 0 32, shint := fld d5 32 2, dhint := fld d5 34 2,
    nosnoop := d5.getLsbD 36, feeds := fld d5 37 3 + 1, skind := fld d5 40 4, dkind := fld d5 44 4,
    score := fld d5 48 5, dcore := fld d5 56 5, elems := fld (w 6) 0 32, rows := fld (w 6) 32 32,
    spitch := (w 7).toNat, dpitch := (w 8).toNat, ststride := (w 9).toNat, dtstride := (w 10).toNat,
    tiles := fld (w 11) 0 32, pattern := (w 13).toNat,
    reserved := fld d5 53 3 != 0 || fld d5 61 3 != 0 || fld (w 11) 32 32 != 0 || w 12 != 0 }

/-- The descriptor of a packet: D0 to D5 in bytes 16 to 63, D6 to D13 in the extension (R247). -/
def packetDesc (p : BitVec 1024) : BitVec 896 := p.extractLsb' 128 896

/-- The opcode of a cp1 transfer's descriptor: a fill names no source, DKIND 3 is a copy, any other converts.
(DEDUCED: log entry 49). -/
def FeedDesc.op (f : FeedDesc) : FeedOp :=
  if f.skind = 0 ∧ f.src = 0 ∧ f.sfmt = 0 ∧ f.soff = 0 then .fill
  else if f.dkind = 3 then .copy else .convert

/-- One side of a transfer (R248). -/
structure Side where
  write : Bool
  kind : Nat
  pos : Nat
  opos : Nat
  fmt : BitVec 32
  pitch : Nat
  stride : Nat
  core : Nat
  hint : Nat
  deriving DecidableEq, Repr

/-- The source side. -/
def FeedDesc.srcSide (f : FeedDesc) : Side :=
  { write := false, kind := f.skind, pos := f.src, opos := f.soff, fmt := f.sfmt, pitch := f.spitch,
    stride := f.ststride, core := f.score, hint := if f.dkind = 3 then f.dhint else f.shint }

/-- The destination side. -/
def FeedDesc.dstSide (f : FeedDesc) : Side :=
  { write := true, kind := f.dkind, pos := f.dst, opos := f.doff, fmt := f.dfmt, pitch := f.dpitch,
    stride := f.dtstride, core := f.dcore, hint := f.dhint }

/-- The sides that a transfer uses: no source for a fill, no destination for DKIND 3. -/
def FeedDesc.sides (f : FeedDesc) (op : FeedOp) : List Side :=
  (if op = .fill then [] else [f.srcSide]) ++ (if f.dkind = 3 then [] else [f.dstSide])

/-- The format word of a side; an invalid one reads as FP32 and is refused before any use. -/
def Side.word (sd : Side) : FmtWord := (FmtWord.parse sd.fmt).getD (FmtWord.reg .fp32)

/-- Bits of an element. -/
def Side.width (sd : Side) : Nat := sd.word.fmt.width

/-- Bytes of one row. -/
def FeedDesc.rowBytes (f : FeedDesc) (sd : Side) : Nat := (f.elems * sd.width + 7) / 8

/-- A side's tile size in bytes (R248). -/
def FeedDesc.tileBytes (f : FeedDesc) (sd : Side) : Nat := (f.rows - 1) * sd.pitch + f.rowBytes sd

/-- Bytes from the first to the last byte of a side. -/
def FeedDesc.extent (f : FeedDesc) (sd : Side) : Nat := (f.tiles - 1) * sd.stride + f.tileBytes sd

/-- Blocks of a row. -/
def FeedDesc.rowBlocks (f : FeedDesc) : Nat := (f.elems + 31) / 32

/-- Fine offsets of a whole tensor (R249). -/
def FeedDesc.offsets (f : FeedDesc) : Nat := f.tiles * f.rows * f.rowBlocks

/-- Bytes of an offset array. -/
def FeedDesc.offBytes (f : FeedDesc) : Nat := (f.offsets + 1) / 2

/-- The positions of a side with the bytes from each: its elements, and its offset array under SCALE 2; DKIND 3 reads no
offsets (R249, R251). -/
def FeedDesc.spans (f : FeedDesc) (sd : Side) : List (Nat × Nat) :=
  (sd.pos, f.extent sd) :: (if sd.word.scale = 2 && f.dkind != 3 then [(sd.opos, f.offBytes)] else [])

/-- A side is well formed for a tenant at a die (R166, R167, R202, R248). -/
def State.sideOk (s : State) (fn die : Nat) (f : FeedDesc) (sd : Side) : Bool :=
  match sd.kind with
  | 0 => (f.spans sd).all (fun p => decide (p.1 + p.2 ≤ 2 ^ 48))
  | 1 =>
    let k := s.core (coreKey die sd.core)
    decide (sd.core < 20) && k.owned && k.owner == fn && sd.pitch % 512 == 0 && sd.stride % 512 == 0
      && f.rowBytes sd % 512 == 0
      && (f.spans sd).all (fun p => let l := BitVec.ofNat 64 p.1; isInk l && !(inkLocBad l))
  | 2 => sd.word.scale != 2
  | _ => sd.write

/-- The first failed check of a descriptor, as R230 numbers it: 2 for reserved bits, 5 for its parameters.
(DEDUCED: log entry 34). -/
def State.feedCheck (s : State) (fn die : Nat) (op : FeedOp) (f : FeedDesc) : Option Nat :=
  if f.reserved then some 2
  else if (FmtWord.parse f.sfmt).isNone || (FmtWord.parse f.dfmt).isNone || f.elems == 0 || f.rows == 0
      || f.tiles == 0 || decide (2 < f.skind) || decide (3 < f.dkind)
      || (f.dkind == 3 && (f.skind != 0 || op != .copy))
      || (op == .copy && f.sfmt != f.dfmt)
      || (op == .fill && !(f.skind == 0 && f.src == 0 && f.sfmt == 0 && f.soff == 0))
      || (f.nosnoop && !(f.shint == 1 && f.skind == 0))
      || !((f.sides op).all (s.sideOk fn die f)) then some 5
  else none

/-- The declared sets of a FEED_* command (R251). A remote window is in no range of R229. (DEDUCED: log entry 48). -/
def FeedDesc.ranges (f : FeedDesc) (op : FeedOp) : List Rng :=
  (f.sides op).flatMap (fun sd => (f.spans sd).flatMap (fun p =>
    match sd.kind with
    | 0 => [Rng.va sd.write p.1 (p.1 + p.2)]
    | 1 =>
      let l := BitVec.ofNat 64 p.1
      [Rng.ink sd.write sd.core (inkHandle l) (inkRow l) (inkRow l + (p.2 + 511) / 512)]
    | _ => []))

/-- A transfer of the state. -/
def State.xfer (s : State) (t : XferRef) : Option Xfer :=
  match t with
  | .cmd r => (s.cmd r).bind (fun c => if c.isStarted then c.xfer else none)
  | .cp1 c tag => SMap.find (s.ctxOf c).feedTags tag.toNat

/-- Changes a transfer. -/
def State.putXfer (s : State) (t : XferRef) (x : Xfer) : State :=
  match t with
  | .cmd r => s.updCmd r (fun c => { c with xfer := some x })
  | .cp1 c tag => s.updCtxOf c (fun y => { y with feedTags := SMap.set y.feedTags tag.toNat x })

/-- The tenant of a transfer. -/
def State.xferFn (s : State) (t : XferRef) : Nat :=
  match t with
  | .cmd r => ((s.cmd r).map (fun c => c.tenant)).getD 0
  | .cp1 c _ => s.tenantOf c.key

/-- The command of a transfer: its own, or that of its context. -/
def State.xferJob (s : State) (t : XferRef) : Option CmdRef :=
  match t with
  | .cmd r => some r
  | .cp1 c _ => (s.ctxOf c).job

/-- The transfer is at an end. -/
def Xfer.isComplete (x : Xfer) : Bool :=
  match x.phase with
  | .complete _ _ => true
  | _ => false

/-- Feeds of a die that transfers hold. -/
def State.busyFeeds (s : State) (die : Nat) : List Nat :=
  (s.cmds.flatMap (fun c =>
      if c.ref.die == die && (c.isStarted || c.inReplay) then ((c.xfer.map (fun x => x.feeds)).getD []) else []))
  ++ (List.range 20).flatMap (fun k => (s.core (coreKey die k)).ctxs.flatMap (fun p =>
      p.2.feedTags.flatMap (fun q => if q.2.isComplete then [] else q.2.feeds)))

/-- Feeds that a function may use: its own, then those of the pool; feed 7 is the pool's (R275). -/
def Die.feedsFor (d : Die) (fn : Nat) : List Nat :=
  let owner (i : Nat) : Nat := if i = 7 then 0x40 else SMap.get d.feedMap i 0x40
  (List.range 8).filter (fun i => owner i == fn) ++ (List.range 8).filter (fun i => owner i == 0x40)

/-- The feeds that a transfer of a function would take, when enough are free (R249). (DEDUCED: log entry 48). -/
def State.freeFeeds (s : State) (die fn n : Nat) : Option (List Nat) :=
  let busy := s.busyFeeds die
  let free := ((s.die die).feedsFor fn).filter (fun i => !(busy.contains i))
  if free.length < n then none else some (free.take n)

/-- The format word of the values that a transfer converts: its source's, or FP64 for PATTERN (R247). -/
def FeedDesc.fromWord (f : FeedDesc) (op : FeedOp) : FmtWord := if op = .fill then FmtWord.reg .fp64 else f.srcSide.word

/-- The draws of a transfer, one for each destination element, when it rounds stochastically (R38, R43, R44, R46).
(DEDUCED: log entry 10). -/
def FeedDesc.drawCount (f : FeedDesc) (op : FeedOp) : Nat :=
  if f.dstSide.word.takesDraws (some (f.fromWord op)) && f.dkind != 3 && (op == .fill || f.sfmt != f.dfmt) then
    f.tiles * f.rows * f.elems
  else 0

end Sys2Proof.Machine
end

