-- ==== Sys2Proof/Machine/Packet.lean ====
section
/-! DEFINITION. Command packets (R228 to R231): fields, declared range slots, the checks of R230 with each opcode's own
parameter checks (R232, R244, R253, R309 to R312, R373, R380), and replay eligibility (R338). -/

namespace Sys2Proof.Machine

/-- OPCODE. -/
def pkOp (p : BitVec 1024) : Nat := fld p 0 8

/-- A 64-bit word of the packet by its byte. -/
def pkWord (p : BitVec 1024) (byte : Nat) : BitVec 64 := p.extractLsb' (8 * byte) 64

/-- ARG. -/
def pkArg (p : BitVec 1024) : BitVec 64 := pkWord p 8

/-- Parameter word Pi. -/
def pkParam (p : BitVec 1024) (i : Nat) : BitVec 64 := pkWord p (if i < 4 then 16 + 8 * i else 112 + 8 * (i - 4))

/-- EXT. -/
def pkExt (p : BitVec 1024) : Bool := p.getLsbD 8

/-- NSETS. -/
def pkSets (p : BitVec 1024) : Nat := fld p 12 4

/-- Slot i. -/
def pkSlot (p : BitVec 1024) (i : Nat) : BitVec 64 := pkWord p (48 + 8 * i)

/-- A collective opcode. -/
def isColl (op : Nat) : Bool := decide (0x30 ≤ op ∧ op ≤ 0x35)

/-- A feed opcode. -/
def isFeed (op : Nat) : Bool := decide (0x10 ≤ op ∧ op ≤ 0x12)

/-- The used slots; the bytes of a FEED_* packet hold its descriptor (R228). -/
def pkSlots (p : BitVec 1024) : List (BitVec 64) :=
  if isFeed (pkOp p) then [] else (List.range (min 8 (pkSets p))).map (pkSlot p)

/-- What a feed opcode does. (DEDUCED: log entry 49). -/
def feedOpOf (op : Nat) : FeedOp := if op = 0x10 then .copy else if op = 0x11 then .fill else .convert

/-- The listed opcodes (R231). -/
def opListed (op : Nat) : Bool :=
  op == 1 || isFeed op || op == 0x20 || op == 0x21 || isColl op || op == 0x40 || op == 0x41 || op == 0x42
    || op == 0x50 || op == 0x51 || op == 0x52 || op == 0x53 || op == 0x60 || op == 0x70 || op == 0x71

/-- Opcodes that only the managing function may issue. -/
def opManaging (op : Nat) : Bool := op == 0x42 || op == 0x50 || op == 0x51

/-- FUNC of an opcode that has one. -/
def pkFunc (p : BitVec 1024) : Option Nat :=
  match pkOp p with
  | 0x40 | 0x41 | 0x51 | 0x60 => some (fld (pkArg p) 0 6)
  | 0x50 => some (fld (pkParam p 0) 0 6)
  | 0x70 => some (fld (pkArg p) 8 6)
  | _ => none

/-- The tenant of a command: its queue's owner, or FUNC when the managing function issues it (R230). -/
def State.pkTenant (s : State) (owner : Nat) (p : BitVec 1024) : Nat :=
  match pkFunc p with
  | some n => if s.isMgmt owner then n else owner
  | none => owner

/-- The range of a slot (R229). -/
def slotRange (w : BitVec 64) : Rng :=
  let wr := w.getLsbD 63
  if w.getLsbD 62 then
    let row := fld w 37 14
    let rows := fld w 22 15
    .ink wr (fld w 57 5) (fld w 51 6) row (row + (if rows = 0 then 16384 else rows))
  else
    let lo := fld w 0 40 * 256
    .va wr lo (lo + fld w 40 21 * (if w.getLsbD 61 then 2 ^ 25 else 256))

/-- Bits of a slot that must be 0. -/
def slotReserved (w : BitVec 64) : Bool := w.getLsbD 62 && fld w 0 22 != 0

/-- A core of a die that a function owns. -/
def State.ownsCore (s : State) (fn die core : Nat) : Bool :=
  let k := s.core (coreKey die core)
  decide (core < 20) && k.owned && k.owner == fn

/-- A used slot that check 4 refuses. -/
def State.slotBad (s : State) (fn die : Nat) (w : BitVec 64) : Bool :=
  match slotRange w with
  | .va _ lo hi => lo == hi || decide (2 ^ 48 < hi)
  | .ink _ core _ _ hi => !(s.ownsCore fn die core) || decide (16384 < hi)

/-- Bits of ARG that an opcode with named ARG fields uses; the others are reserved. (DEDUCED: log entry 34). -/
def argUsed (op : Nat) : Option Nat :=
  if isColl op then some 0x1FFF else
  match op with
  | 0x20 => some 1
  | 0x40 | 0x41 => some (3 * 2 ^ 62 + 0x3F)
  | 0x51 => some 0x73F
  | 0x60 => some 0x3F
  | 0x70 => some 0x3F01
  | 0x71 => some 1
  | _ => none

/-- Check 2 of R230: a reserved bit is set. (DEDUCED: log entry 34). -/
def pkReserved (p : BitVec 1024) : Bool :=
  p.getLsbD 11 || fld p 30 2 != 0
    || (match argUsed (pkOp p) with
        | some m => (pkArg p).toNat &&& (2 ^ 64 - 1 - m) != 0
        | none => false)
    || (isColl (pkOp p) && fld (pkParam p 2) 47 17 != 0)
    || (isFeed (pkOp p) && (FeedDesc.parse (packetDesc p)).reserved)
    || (pkSlots p).any slotReserved

/-- A COLL_* packet (R309). -/
structure Coll where
  op : Nat
  group : Nat
  mode : Nat
  raw : Bool
  send : BitVec 64
  recv : BitVec 64
  count : Nat
  root : Nat
  sfmt : BitVec 32
  dfmt : BitVec 32
  queue : Nat
  deriving DecidableEq, Repr

/-- Reads a COLL_* packet (R309). -/
def Coll.parse (p : BitVec 1024) : Coll :=
  let a := pkArg p
  { op := pkOp p, group := fld a 0 10, mode := fld a 10 2, raw := a.getLsbD 12, send := pkParam p 0, recv := pkParam p 1,
    count := fld (pkParam p 2) 0 32, root := fld (pkParam p 2) 32 15, sfmt := (pkParam p 3).extractLsb' 0 32,
    dfmt := (pkParam p 3).extractLsb' 32 32, queue := fld p 16 14 }

/-- A reducing operation (R311). -/
def Coll.reduces (c : Coll) : Bool := c.op == 0x30 || c.op == 0x31

/-- The formats and the mode are allowed (R311). -/
def Coll.formatsOk (c : Coll) : Bool :=
  match FmtWord.parse c.sfmt, FmtWord.parse c.dfmt with
  | some a, some b =>
    (if c.reduces then c.mode != 3 && (c.mode != 2 || c.raw) else c.mode == 0) &&
    (if c.raw then c.sfmt == 0 && c.dfmt == 0
     else if c.reduces then
       (a.fmt == .fp64 || a.fmt == .fp32 || a.fmt == .bf16 || a.fmt == .fp16 || a.fmt == .int32 || a.fmt == .int64)
         && a.scale != 2 && b.scale != 2 && !b.stoch
     else c.sfmt == c.dfmt && a.scale != 2)
  | _, _ => false

/-- Bits of one element in the send and receive buffers. -/
def Coll.width (c : Coll) (recv : Bool) : Nat :=
  if c.raw then 512 else
  ((FmtWord.parse (if recv then c.dfmt else c.sfmt)).map (fun w => w.fmt.width)).getD 8

/-- Chunks of the send and receive buffers for n members (R310). -/
def Coll.chunks (c : Coll) (n : Nat) (recv : Bool) : Nat :=
  match c.op, recv with
  | 0x31, false => n
  | 0x32, true => n
  | 0x34, _ => n
  | _, _ => 1

/-- Bytes of a chunk. -/
def Coll.chunkBytes (c : Coll) (recv : Bool) : Nat := c.count * c.width recv / 8

/-- Bytes of a buffer. -/
def Coll.bytes (c : Coll) (n : Nat) (recv : Bool) : Nat := c.chunks n recv * c.chunkBytes recv

/-- The core of the declared slot that covers a buffer with the wanted intent (R312); 0 for a virtual address. -/
def coverCore (rs : List Rng) (write : Bool) (l : BitVec 64) (n : Nat) : Option Nat :=
  rs.findSome? (fun r =>
    match r with
    | .va w lo hi =>
      if !(isInk l) && w == write && decide (lo ≤ l.toNat ∧ l.toNat + n ≤ hi) then some 0 else none
    | .ink w core h lo hi =>
      if isInk l && w == write && h == inkHandle l && decide (lo ≤ inkRow l ∧ inkRow l + (n + 511) / 512 ≤ hi)
      then some core else none)

/-- A buffer is aligned, whole and covered (R167, R312). -/
def Coll.bufferOk (c : Coll) (n : Nat) (rs : List Rng) (recv : Bool) : Bool :=
  let l := if recv then c.recv else c.send
  c.chunkBytes recv % 64 == 0 && c.count * c.width recv % 8 == 0
    && (if isInk l then !(inkLocBad l) && c.bytes n recv % 512 == 0
        else l.toNat % 64 == 0 && decide (l.toNat + c.bytes n recv ≤ 2 ^ 48))
    && (coverCore rs recv l (c.bytes n recv)).isSome

/-- The rank of a member die of this module. -/
def State.rankOf (s : State) (g : Group) (die : Nat) : Option Nat := g.ranks.findIdx? (fun r => r == (s.moduleNo, die))

/-- The member die of a communication queue. -/
def Group.dieOf (g : Group) (queue : Nat) : Option Nat :=
  let d := queue / 512
  if queue % 512 = g.qoff && Nat.testBit g.members d then some d else none

/-- The checks of R312. -/
def State.collOk (s : State) (fn : Nat) (c : Coll) (rs : List Rng) : Bool :=
  let g := s.group c.group
  let n := g.nm1 + 1
  g.setst == 2 && g.tenant == fn &&
    (match g.dieOf c.queue with
     | none => false
     | some d =>
       c.formatsOk && decide (c.root < n) && (c.root == 0 || c.op == 0x33)
         && (if c.op = 0x35 then c.count == 0 else c.count != 0)
         && (c.op == 0x35 ||
           ((if c.op = 0x33 && s.rankOf g d != some c.root then true else c.bufferOk n rs false)
             && c.bufferOk n rs true)))

/-- The module and the core number of a place identifier (R20) name a core of this module. -/
def State.placeHere (s : State) (place : Nat) : Bool :=
  place / 1024 % 1024 == s.moduleNo && decide (place % 32 < 20)

/-- Check 5 of R230: the opcode's own parameter checks that need no page table. -/
def State.paramOk (s : State) (owner fn die : Nat) (p : BitVec 1024) : Bool :=
  let a := pkArg p
  let p0 := pkParam p 0
  let op := pkOp p
  if isFeed op then pkExt p && (s.feedCheck fn die (feedOpOf op) (FeedDesc.parse (packetDesc p))).isNone
  else if isColl op then s.collOk fn (Coll.parse p) ((pkSlots p).map slotRange)
  else match op with
  | 0x01 => fld a 44 20 != 0 && fld a 40 4 != 0
      && (List.range 20).all (fun k => !(Nat.testBit (fld a 44 20) k) || s.ownsCore fn die k)
  | 0x20 | 0x21 => p0.toNat % 8 == 0 && decide (p0.toNat < 2 ^ 48)
  | 0x40 | 0x41 =>
    (match fld a 62 2 with
     | 0 => true
     | 1 => s.placeHere (fld p0 0 20)
     | _ => false)
  | 0x50 => decide (fld p0 8 4 < 7)
  | 0x52 => (s.queue (fld p0 0 14)).owner == owner
  | 0x70 => p0.toNat % 4096 == 0 && decide (fld (pkParam p 1) 0 5 ≤ 12) && fld (pkParam p 2) 12 4 == 0
  | 0x71 => p0.toNat % 64 == 0 && (pkParam p 1).toNat / 16 == 0 && (s.isMgmt owner || fld (pkParam p 1) 2 2 == 0)
  | _ => true

/-- The number of the first failed check of R230. (DEDUCED: log entry 34). -/
def State.packetCheck (s : State) (q : Nat) (p : BitVec 1024) : Option Nat :=
  let qu := s.queue q
  let op := pkOp p
  let fn := s.pkTenant qu.owner p
  let die := queueDie q
  if !(opListed op) || (opManaging op && !(s.isMgmt qu.owner)) || isColl op != qu.comm then some 1
  else if pkReserved p then some 2
  else if fld p 16 14 ≠ q then some 3
  else if 8 < pkSets p || (2 < pkSets p && !(pkExt p)) || (isFeed op && pkSets p != 0)
      || (pkSlots p).any (s.slotBad fn die) then some 4
  else if !(s.paramOk qu.owner fn die p) then some 5
  else none

/-- Two ranges overlap (R239). -/
def Rng.overlaps : Rng → Rng → Bool
  | .va _ a b, .va _ c d => decide (a < d ∧ c < b)
  | .ink _ k h a b, .ink _ k2 h2 c d => k == k2 && h == h2 && decide (a < d ∧ c < b)
  | _, _ => false

/-- The range has write intent. -/
def Rng.isWrite : Rng → Bool
  | .va w _ _ => w
  | .ink w _ _ _ _ => w

/-- The ranges that a packet declares (R229, R231, R251): the descriptor's, or the slots of a LAUNCH or COLL_*; any other
opcode declares none. -/
def pkRanges (p : BitVec 1024) : List Rng :=
  if isFeed (pkOp p) then (FeedDesc.parse (packetDesc p)).ranges (feedOpOf (pkOp p))
  else if pkOp p = 1 || isColl (pkOp p) then (pkSlots p).map slotRange
  else []

/-- A command is eligible for replay (R338). (DEDUCED: log entry 37). -/
def pkEligible (p : BitVec 1024) : Bool :=
  (pkOp p == 1 || isFeed (pkOp p)) &&
    !((pkRanges p).any (fun a => a.isWrite && (pkRanges p).any (fun b => !b.isWrite && a.overlaps b)))

/-- The record of a fetched command (R335). -/
def State.newCmd (s : State) (q : Nat) (p : BitVec 1024) : Cmd :=
  { ref := { queue := BitVec.ofNat 14 q, seq := p.extractLsb' 32 32 }, opcode := pkOp p, irq := p.getLsbD 9,
    order := p.getLsbD 10, packet := p, tenant := s.pkTenant (s.queue q).owner p, ranges := pkRanges p,
    eligible := pkEligible p }

end Sys2Proof.Machine
end

