-- ==== Sys2Proof/Machine/Order.lean ====
section
/-! DEFINITION. The scoreboard (R235, R239 to R243): which commands are open, which hold others, on which cores a command has
work (R170), and the turns of the queues of one PRIO. -/

namespace Sys2Proof.Machine

/-- FORM of a MAP or UNMAP: true for the page form. -/
def Cmd.pageForm (c : Cmd) : Bool := c.arg / 2 ^ 62 % 4 == 0

/-- The core that an inkwell-form MAP or UNMAP names. -/
def Cmd.inkCore (c : Cmd) : Nat := coreKey (c.param 0 / 32 % 32) (c.param 0 % 32)

/-- Its handle. -/
def Cmd.inkHandle (c : Cmd) : Nat := c.param 0 / 2 ^ 20 % 64

/-- CANCEL, QUOTA_SET and RECLAIM start as soon as they are fetched (R241). -/
def Cmd.immediate (c : Cmd) : Bool := c.opcode == 0x50 || c.opcode == 0x51 || c.opcode == 0x52

/-- The command waits for every earlier one of its queue (R241). -/
def Cmd.waitsAll (c : Cmd) : Bool := c.order || c.opcode == 0x53 || c.opcode == 0x20

/-- No later command of its queue starts before it completes (R241). (DEDUCED: log entry 37). -/
def Cmd.holds (c : Cmd) : Bool := c.waitsAll || c.opcode == 0x21

/-- Two commands conflict (R239). -/
def conflicts (e c : Cmd) : Bool :=
  e.ranges.any (fun a => c.ranges.any (fun b => (a.isWrite || b.isWrite) && a.overlaps b))

/-- An inkwell-form MAP or UNMAP. -/
def Cmd.mapsInk (c : Cmd) : Bool := (c.opcode == 0x40 || c.opcode == 0x41) && !c.pageForm

/-- CORES and CTXS of a LAUNCH as contexts, in ascending core and then ascending context (R232). -/
def Cmd.launchCtxs (c : Cmd) : List CtxRef :=
  ((List.range 20).filter (fun k => Nat.testBit (c.arg / 2 ^ 44) k)).flatMap (fun k =>
    ((List.range 4).filter (fun j => Nat.testBit (c.arg / 2 ^ 40) j)).map (fun j => ctxRefOf (coreKey c.ref.die k) j))

/-- The feed operation of a FEED_* command. -/
def Cmd.feedDesc (c : Cmd) : FeedDesc := FeedDesc.parse (packetDesc c.packet)

/-- Transfers of a context that have not completed. -/
def Ctx.openXfers (x : Ctx) : List Xfer := (x.feedTags.map (fun p => p.2)).filter (fun y => !y.isComplete)

/-- Cores whose inkwell a descriptor's sides name. -/
def FeedDesc.inkCores (f : FeedDesc) (op : FeedOp) (die : Nat) : List Nat :=
  (f.sides op).filterMap (fun sd => if sd.kind = 1 then some (coreKey die sd.core) else none)

/-- Cores whose inkwell a collective operation reads or writes. -/
def LigOp.inkCores (o : LigOp) : List Nat :=
  let c := Coll.parse o.image
  (if isInk c.send then [coreKey o.die o.sendCore] else []) ++ (if isInk c.recv then [coreKey o.die o.recvCore] else [])

/-- Cores on which a command has work (R170): those of a LAUNCH and of the transfers and operations that its contexts have
started, the one that an inkwell MAP or UNMAP names, and those of the command's inkwell ranges. (DEDUCED: log entry 37). -/
def State.worksOn (s : State) (c : Cmd) : List Nat :=
  (if c.opcode = 1 then c.launchCtxs.map (fun x => x.key) else if c.mapsInk then [c.inkCore] else [])
    ++ c.ranges.filterMap (fun r => match r with
      | .ink _ k _ _ _ => some (coreKey c.ref.die k)
      | _ => none)
    ++ c.ctxs.flatMap (fun x => (s.ctxOf x).openXfers.flatMap (fun y => (FeedDesc.parse y.desc).inkCores y.op x.die.toNat))
    ++ (s.ligOf c.ref c.ctxs).flatMap LigOp.inkCores

/-- What a command's contexts had still to write when they stopped has been written: their vector stores, and what their cp1
transfers move. -/
def State.storesOut (s : State) (c : Cmd) : Bool :=
  c.ctxs.all (fun x => let y := s.ctxOf x
    y.job.isSome || (y.vq.isEmpty && y.drain.isEmpty && y.openXfers.isEmpty))

/-- A context's store buffer holds nothing. -/
def State.bufferEmpty (s : State) (x : CtxRef) : Bool := !((s.core x.key).sb.any (fun e => e.ctx == x.idx))

/-- Every write of a command is complete at its destination (R235): its messages are acknowledged, and its contexts have
nothing left to write. -/
def State.writesDone (s : State) (c : Cmd) : Bool :=
  !(s.fab.unacked.any (fun u => u.cmd == some c.ref)) && s.storesOut c
    && c.ctxs.all (fun x => (s.ctxOf x).job.isSome || s.bufferEmpty x)

/-- The command has ended and its writes are complete (R235). -/
def State.cmdDone (s : State) (c : Cmd) : Bool := c.isComplete && s.writesDone c

/-- The commands of a queue that were fetched before a command, and that still have no reply (R227, R239). -/
def State.before (s : State) (r : CmdRef) : List Cmd :=
  (s.cmds.takeWhile (fun c => c.ref != r)).filter (fun c => c.ref.queue == r.queue)

/-- The commands of a queue that were fetched before a command and have not completed (R235, R241). -/
def State.earlier (s : State) (r : CmdRef) : List Cmd := (s.before r).filter (fun c => !(s.cmdDone c))

/-- A command is held back by commands fetched before it, page tables apart (R170, R239, R241). (DEDUCED: log entry 37). -/
def State.heldBack (s : State) (c : Cmd) : Bool :=
  if c.immediate then false else
  let earlier := s.earlier c.ref
  (c.waitsAll && !earlier.isEmpty) || earlier.any (fun e => e.holds) || (s.before c.ref).any (fun e => conflicts e c)
    || (s.cmds.takeWhile (fun e => e.ref != c.ref)).any (fun e =>
      !(s.cmdDone e) && (e.mapsInk || c.mapsInk) && (s.worksOn e).any (fun k => (s.worksOn c).contains k))

/-- Some core on which a command has work is being cleared (R173). -/
def State.clearing (s : State) (c : Cmd) : Bool := (s.worksOn c).any (fun k => (s.core k).inkClearing)

/-- A place in the order of R227 and R243: the highest PRIO first, then the turn after the last queue of that PRIO.
(DESIGN CHOICE: log entry 35). -/
def State.turn (s : State) (lasts : SMap Nat) (q : Nat) : Nat :=
  let p := (s.queue q).prio
  (7 - p) * 16384 + (q + 16384 - SMap.get lasts p 16383 - 1 + 16384) % 16384

/-- A FEED_* command of a die is ready and its feeds are free. -/
def State.feedCmdWaits (s : State) (die : Nat) : Bool :=
  s.cmds.any (fun c => c.isWaiting && isFeed c.opcode && c.ref.die == die && !(s.heldBack c) && !(s.clearing c)
    && (s.freeFeeds die c.tenant c.feedDesc.feeds).isSome)

/-- A cp1 transfer of a die has started, and the feeds that it waits for are free. -/
def State.cp1Waits (s : State) (die : Nat) : Bool :=
  (List.range 20).any (fun k =>
    let c := s.core (coreKey die k)
    c.ctxs.any (fun p => p.2.feedTags.any (fun q => q.2.phase == .running && q.2.feeds.isEmpty
      && (s.freeFeeds die c.owner (FeedDesc.parse q.2.desc).feeds).isSome)))

end Sys2Proof.Machine
end

