-- ==== Sys2Proof/Machine/VecCore.lean ====
section
/-! DEFINITION. The vector engine's shared operations: register reads through the bypass network (R119), active
positions (R122), issue (R113, R117, R136), commit (R120) and the draining of stores (R121, R129). -/

namespace Sys2Proof.Machine

/-- Elements of w bits of a register, n of them (R33, R111). -/
def elemsOf (v : BitVec 16384) (w n : Nat) : List Nat := (List.range n).map (fun k => fld v (w * k) w)

/-- Elements of w bits packed (R33). -/
def packNat (w : Nat) (l : List Nat) : Nat := l.foldr (fun e a => a * 2 ^ w + e % 2 ^ w) 0

/-- A register of packed elements. -/
def packV (w : Nat) (l : List Nat) : BitVec 16384 := BitVec.ofNat 16384 (packNat w l)

/-- A vector register as the context's next instruction reads it: the newest result in flight, else the register. -/
def Ctx.vreg (x : Ctx) (r : Nat) : BitVec 16384 :=
  (x.vq.reverse.findSome? (fun o => match o.destV with
    | some (d, v) => if d = r then some v else none
    | none => none)).getD (SMap.get x.v r 0)

/-- No instruction in flight will write the vector register. -/
def Ctx.vsettled (x : Ctx) (r : Nat) : Bool :=
  !(x.vq.any (fun o => match o.destV with | some (d, _) => d == r | none => false))

/-- A mask register. -/
def Ctx.mreg (x : Ctx) (r : Nat) : BitVec 4096 := SMap.get x.m r 0

/-- An instruction in flight will write the mask (R119). -/
def Ctx.maskBusy (x : Ctx) (r : Nat) : Bool :=
  x.vq.any (fun o => match o.destM with | some (d, _) => d == r | none => false)

/-- The generator as the context's next instruction finds it (R49). -/
def Ctx.curGen (x : Ctx) : BitVec 32 := (x.vq.reverse.findSome? (fun o => o.gen)).getD x.gen.value

/-- Position k is active (R122). -/
def Ctx.active (x : Ctx) (w : Word32) (k : Nat) : Bool := vMask w == 0 || (x.mreg (vMask w)).getLsbD k

/-- What position k of a result is: the computed element where active, else the old one or 0 (R122). -/
def eachElem (n : Nat) (act : Nat → Bool) (mz : Bool) (old : Nat → Nat) (f : Nat → Nat × Fx) : List Nat × Fx :=
  let r := (List.range n).foldl (fun (a : List Nat × Fx) k =>
    if act k then let p := f k; (p.1 :: a.1, a.2.join p.2)
    else ((if mz then 0 else old k) :: a.1, a.2)) ([], {})
  (r.1.reverse, r.2)

/-- An instruction issues into its unit: it enters the context's instructions in flight (R120).
(DESIGN CHOICE: log entry 14). -/
def State.pushVec (s : State) (c : CtxRef) (o : VecOp) : State :=
  s.updCtxOf c (fun x => { x with pc := x.pc + 4, vq := x.vq ++ [{ o with pc := x.pc }] })

/-- An instruction whose accesses to memory are complete issues. -/
def State.pushMem (s : State) (c : CtxRef) (o : VecOp) : State := (s.ctxDone c).pushVec c o

/-- A vector result in flight. -/
def VecOp.ofV (r : Nat) (v : BitVec 16384) (fx : Fx) : VecOp :=
  { destV := some (r, v), flags := fx.fl, sat := fx.sat, flush := fx.flush }

/-- A read of a vector register with a parity error, not bypassed, raises the fault of KIND 4 (R136, R333). -/
def State.parity (s : State) (c : CtxRef) (regs : List Nat) (f : State) : State :=
  let x := s.ctxOf c
  match regs.find? (fun r => x.vbad.contains r && x.vsettled r) with
  | some r => s.coreFault c.key c.idx 4 r 0 0
  | none => f

/-- The issue of a vector instruction: TYPE (R113), the masks that it reads committed (R119), parity of the
registers it reads, then its own checks and effect. -/
def State.issueVec (s : State) (row : Row) (c : CtxRef) (w : Word32) (masks regs : List Nat) (f : State → State) : Result :=
  s.issue row c w (fun s =>
    if !typeOk row w then s.trapOperand c w
    else if ((if vMask w = 0 then masks else vMask w :: masks).any (s.ctxOf c).maskBusy) then s
    else s.parity c regs (f s))

/-- The destination register is also read: inactive positions keep their old value (R122). -/
def keepsOld (w : Word32) : List Nat := if vMask w ≠ 0 && !(vMz w) then [wRd w] else []

/-- The committed results of an instruction (R120). -/
def Ctx.commitOp (x : Ctx) (o : VecOp) : Ctx :=
  let x1 := match o.destV with
    | some (r, v) => { x with v := SMap.set x.v r v, vbad := x.vbad.filter (fun b => b != r) }
    | none => x
  let x2 := match o.destM with | some (r, v) => { x1 with m := SMap.set x1.m r v } | none => x1
  let x3 := match o.destX with | some (r, v) => x2.wx r v | none => x2
  let x4 := match o.destF with | some (r, v) => x3.wf r v | none => x3
  let x5 := match o.gen with | some g => { x4 with gen := .val g } | none => x4
  { x5 with vxflg := x5.vxflg ||| o.flags, mismatch := satAddBv x5.mismatch o.mismatch
            resOvf := satAddBv x5.resOvf o.resOvf }

/-- The oldest vector instruction in flight of a context commits (R120): its results, flags and counts; it counts in
ISA_RETIRED and as events 2 and 3; its stores may now be written (R121). (DESIGN CHOICE: log entry 14). -/
def State.vecCommit (s : State) (c : CtxRef) : State :=
  match (s.ctxOf c).vq with
  | [] => s
  | o :: rest =>
    let s1 := s.updCore c.key (fun k =>
      ((k.updCtx c.idx (fun x =>
        let y := x.commitOp o
        { y with vq := rest, drain := if o.stores.isEmpty then y.drain else y.drain ++ [o] })).retire c.idx).countEvent
          3 (some c.idx) 1)
    s1.addCounts c.key c.idx o.sat o.flush

/-- The oldest vector instruction of a context commits. -/
def execVectorCommit (c : CtxRef) (s : State) : Result := onCtx c (s.vecCommit c)

/-- Adjacent byte stores of one instruction as runs within a 256-byte line. -/
def storeRuns (l : List VStore) : List (Loc × Nat × List Byte) :=
  (l.foldl (fun (acc : List (Loc × Nat × List Byte)) st =>
    match st with
    | .mem a va b =>
      match acc with
      | (b0, v0, bs) :: rest =>
        if b0.add bs.length = a && a.addr % 256 ≠ 0 then (b0, v0, bs ++ [b]) :: rest else (a, va, [b]) :: acc
      | [] => [(a, va, [b])]
    | _ => acc) []).reverse

/-- Writes the memory part of a store, and the L1 lines of its core. -/
def State.drainMem (s : State) (ag : Agent) (key : Nat) (o : VecOp) : Acc Unit :=
  accEach (fun (r : Loc × Nat × List Byte) s =>
    (s.writeLoc ag r.2.1 r.1 r.2.2).bind (fun _ s => .ok () (s.updCore key (fun k => k.l1Write r.1 r.2.2))))
    (storeRuns o.stores) s

/-- The rows that a store writes. -/
def VecOp.rows (o : VecOp) : List Nat := o.stores.filterMap (fun st => match st with | .ink p _ _ _ _ => some p | _ => none)

/-- The first partly written row that holds an uncorrectable error (R172): its row, handle and relative row. -/
def Core.badStore (k : Core) (o : VecOp) : Option (Nat × Nat × Nat) :=
  o.stores.findSome? (fun st => match st with
    | .ink p h r m _ => if k.inkBad.contains p && m != BitVec.allOnes 4096 then some (p, h, r) else none
    | _ => none)

/-- Writes rows and reservoir entries; `keep` decides whether a row is written. -/
def Core.drainRows (k : Core) (keep : Nat → Bool) (o : VecOp) : Core :=
  o.stores.foldl (fun k st => match st with
    | .ink p _ _ m d => if keep p then k.mergeInRow p m d else k
    | .res e v => { k with res := if v = {} then SMap.del k.res e else SMap.set k.res e v }
    | .mem _ _ _ => k) k

/-- The oldest committed store of a context is written (R121): after its scalar stores before it; an inkwell row
that a waiting matrix request still reads holds it (R79). A partial write of a row with an uncorrectable error writes
nothing to it and raises the fault; which other rows are then written the spec leaves open (R172).
(DESIGN CHOICE: log entry 14; DEDUCED: log entry 17). -/
def State.vecDrain (s : State) (c : CtxRef) : State :=
  match (s.ctxOf c).drain with
  | [] => s
  | o :: rest =>
    let key := c.key
    if o.rows.any (s.core key).mmNeeds then s else
    let pop (s : State) : State := s.updCtxOf c (fun x => { x with drain := rest })
    match (s.core key).badStore o with
    | some (p, h, r) =>
      let n := s.free
      let s1 := pop (s.updCore key (fun k => k.drainRows (fun q => Config.rowWritten (n + q)) o))
      ({ s1 with free := n + 16384 }).inkEccFault key c.idx h r p
    | none =>
      let ag := s.vecAgent c
      match (s.drainCtx ag key c.idx).bind (fun _ s => s.drainMem ag key o) with
      | .ok _ s1 => pop (s1.updCore key (fun k => k.drainRows (fun _ => true) o))
      | .lost reason s1 => State.accEnd c 0 (.lost reason (pop s1) : Acc Unit) (fun _ s => s)
      | _ => s

/-- A store's buffered data is written. -/
def execVectorStoreDrain (c : CtxRef) (s : State) : Result := onCtx c (s.vecDrain c)

/-- The power state of a gated unit (R133). -/
def Core.unit (k : Core) (u : GUnit) : UnitPower := match u with | .vxu => k.vxu | .vgu => k.vgu

/-- Sets the power state of a gated unit. -/
def Core.setUnit (k : Core) (u : GUnit) (p : UnitPower) : Core :=
  match u with | .vxu => { k with vxu := p } | .vgu => { k with vgu := p }

/-- A unit that is powered down starts to wake (R134, R135). -/
def Core.wake (k : Core) (u : GUnit) : Core := if k.unit u = .off then k.setUnit u .waking else k

/-- An instruction of a gated unit: it waits for the unit to wake, which its arrival starts (R134). -/
def State.needUnit (s : State) (c : CtxRef) (u : GUnit) (f : State → State) : State :=
  if (s.core c.key).unit u = .on then f s else s.updCore c.key (fun k => k.wake u)

/-- KEEP of a gated unit (R133). -/
def Core.keep (k : Core) (u : GUnit) : Bool := match u with | .vxu => k.xkeep | .vgu => k.gkeep

/-- An instruction of a gated unit is in flight in it (R134). -/
def Core.unitBusy (k : Core) (u : GUnit) : Bool := k.ctxs.any (fun p => p.2.vq.any (fun o => o.unit == some u))

/-- A gated unit idle for IDLE × 1,024 cycles powers down, unless its KEEP bit is 1 or an instruction is in flight in it
(R134). -/
def execUnitPowerDown (k : CoreRef) (u : GUnit) (s : State) : Result :=
  onCore k (fun key => s.updCore key (fun c =>
    if c.unit u = .on && !(c.keep u) && !(c.unitBusy u) then c.setUnit u .off else c))

/-- A gated unit finishes its wake (R134). -/
def execUnitWakeDone (k : CoreRef) (u : GUnit) (s : State) : Result :=
  onCore k (fun key => s.updCore key (fun c => if c.unit u = .waking then c.setUnit u .on else c))

end Sys2Proof.Machine
end

