-- ==== Sys2Proof/Machine/Vector.lean ====
section
/-! DEFINITION. Vector arithmetic, comparisons, moves, conversions, reductions and mask operations (R115, R116, R123,
R126, R135). -/

namespace Sys2Proof.Machine

/-- A result with its effects. -/
def FRes.pair (r : FRes) : Nat × Fx := (r.bits, { fl := r.flags, sat := b2n r.sat, flush := b2n r.flush })

/-- A conversion with its counts and no flag (R41). -/
def Conv.pair (c : Conv) : Nat × Fx := (c.bits, { sat := b2n c.sat, flush := b2n c.flush })

/-- Width of TYPE's elements and their number. -/
def vw (w : Word32) : Nat := typeWidth (vType w)

/-- Number of TYPE's elements. -/
def vn (w : Word32) : Nat := typeCount (vType w)

/-- Element k of a register of TYPE. -/
def Ctx.vel (x : Ctx) (w : Word32) (r k : Nat) : Nat := fld (x.vreg r) (vw w * k) (vw w)

/-- Issues an instruction that writes vd element by element over its TYPE. -/
def State.vecElems (s : State) (row : Row) (c : CtxRef) (w : Word32) (regs : List Nat)
    (f : Ctx → Nat → Nat × Fx) : Result :=
  s.issueVec row c w [] (regs ++ keepsOld w) (fun s =>
    let x := s.ctxOf c
    let r := eachElem (vn w) (x.active w) (vMz w) (x.vel w (wRd w)) (f x)
    s.pushVec c (VecOp.ofV (wRd w) (packV (vw w) r.1) r.2))

/-- The registers that a VFP reads. -/
def vfpRegs (w : Word32) : List Nat :=
  match vFunct w with
  | 7 => [wRs1 w]
  | 3 | 4 => [wRs1 w, wRs2 w, wRd w]
  | _ => [wRs1 w, wRs2 w]

/-- VADD to VABS. -/
def execVfp (c : CtxRef) (w : Word32) (s : State) : Result :=
  s.vecElems .vfp c w (vfpRegs w) (fun x k =>
    (fpOp (typeFmt (vType w)) (vFunct w) (x.vel w (wRs1 w) k) (x.vel w (wRs2 w) k) (x.vel w (wRd w) k)).pair)

/-- VIADD to VSRA on elements of n bits (R115). -/
def vintOp (n funct a b : Nat) : Nat :=
  let x := BitVec.ofNat n a
  let y := BitVec.ofNat n b
  (match funct with
   | 0 => x + y
   | 1 => x - y
   | 2 => x * y
   | 3 => x &&& y
   | 4 => x ||| y
   | 5 => x ^^^ y
   | 6 => x <<< (b % n)
   | _ => x.sshiftRight (b % n)).toNat

/-- VIADD to VSRA. -/
def execVint (c : CtxRef) (w : Word32) (s : State) : Result :=
  s.vecElems .vint c w [wRs1 w, wRs2 w] (fun x k =>
    (vintOp (vw w) (vFunct w) (x.vel w (wRs1 w) k) (x.vel w (wRs2 w) k), {}))

/-- A comparison of two elements: VCEQ, VCNE, VCLT, VCLE, VCUN, VCLTU by FUNCT (R115). -/
def vcmpOp (t funct a b : Nat) : Bool × BitVec 5 :=
  if funct = 5 then (decide (a < b), 0)
  else if t < 4 then fpCompare (typeFmt t) funct a b
  else
    let x := (BitVec.ofNat (typeWidth t) a).toInt
    let y := (BitVec.ofNat (typeWidth t) b).toInt
    (match funct with
     | 0 => decide (x = y)
     | 1 => decide (x ≠ y)
     | 2 => decide (x < y)
     | 3 => decide (x ≤ y)
     | _ => false, 0)

/-- A mask of n bits, bit k from the function; bits from n on are 0 (R112). -/
def maskOf (n : Nat) (f : Nat → Bool) : BitVec 4096 :=
  BitVec.ofNat 4096 (packNat 1 ((List.range n).map (fun k => b2n (f k))))

/-- VCEQ to VMIDXGE: a mask; inactive positions keep their old bit or become 0 (R122). -/
def execVcmp (c : CtxRef) (w : Word32) (s : State) : Result :=
  let idx := decide (6 ≤ vFunct w)
  s.issueVec .vcmp c w ((keepsOld w).map (fun r => r % 8)) (if idx then [] else [wRs1 w, wRs2 w]) (fun s =>
    let x := s.ctxOf c
    let lim := (x.rx (wRs1 w)).toNat
    let old := x.mreg (wRd w)
    let one (k : Nat) : Nat × Fx :=
      if vFunct w = 6 then (b2n (decide (k < lim)), {})
      else if vFunct w = 7 then (b2n (decide (lim ≤ k)), {})
      else let r := vcmpOp (vType w) (vFunct w) (x.vel w (wRs1 w) k) (x.vel w (wRs2 w) k)
        (b2n r.1, { fl := r.2 })
    let r := eachElem (vn w) (x.active w) (vMz w) (fun k => b2n (old.getLsbD k)) one
    s.pushVec c { destM := some (wRd w, BitVec.ofNat 4096 (packNat 1 r.1)), flags := r.2.fl })

/-- A faithful or exact function result of a finite argument: an approximation, or an exact value.
(DESIGN CHOICE: log entry 13). -/
def approxRes (f : Fmt) (up : Bool) (a : Approx) : FRes :=
  let c := faithful f up a
  { bits := c.bits, flags := c.flags, sat := c.sat, flush := c.flush }

/-- An exact value rounded to nearest. -/
def exactRes (f : Fmt) (v : FVal) (fl : BitVec 5) : FRes := FRes.ofArith f (v, fl)

/-- m × 2^e is an integer: its value. -/
def asInteger (neg : Bool) (m : Nat) (e : Int) : Option Int :=
  if 0 ≤ e then (if e ≤ 20 then some (signedAt neg m e 0) else none)
  else if m % 2 ^ (-e).toNat = 0 then
    let k : Int := m / 2 ^ (-e).toNat
    some (if neg then -k else k)
  else none

/-- VEXP2: 2^x. An exact 2^n that the format cannot hold is rounded to nearest. (DESIGN CHOICE: log entry 13). -/
def vexp2 (f : Fmt) (up : Bool) : FVal → FRes
  | .nan _ q => exactRes f qnan (flagIf (!q) flagIV)
  | .inf s => exactRes f (if s then .fin false 0 0 else .inf false) 0
  | .fin s m e =>
    match asInteger s m e with
    | some n => if n.natAbs ≤ 8192 then exactRes f (.fin false 1 n) 0 else approxRes f up (exp2Approx s m e)
    | none => approxRes f up (exp2Approx s m e)

/-- VLOG2: log2 x; of zero −∞ with division by zero, of a negative number invalid. -/
def vlog2 (f : Fmt) (up : Bool) : FVal → FRes
  | .nan _ q => exactRes f qnan (flagIf (!q) flagIV)
  | .inf s => if s then exactRes f qnan flagIV else exactRes f (.inf false) 0
  | .fin s m e =>
    if m = 0 then exactRes f (.inf true) flagDZ
    else if s then exactRes f qnan flagIV
    else if m = 2 ^ Nat.log2 m then exactRes f (FVal.ofInt (Nat.log2 m + e)) 0
    else approxRes f up (log2Approx m e)

/-- VTANH. -/
def vtanh (f : Fmt) (up : Bool) : FVal → FRes
  | .nan _ q => exactRes f qnan (flagIf (!q) flagIV)
  | .inf s => exactRes f (.fin s 1 0) 0
  | .fin s m e => if m = 0 then exactRes f (.fin s 0 0) 0 else approxRes f up (tanhApprox s m e)

/-- VSIGM: 1 / (1 + e^−x). -/
def vsigm (f : Fmt) (up : Bool) : FVal → FRes
  | .nan _ q => exactRes f qnan (flagIf (!q) flagIV)
  | .inf s => exactRes f (if s then .fin false 0 0 else .fin false 1 0) 0
  | .fin s m e => if m = 0 then exactRes f (.fin false 1 (-1)) 0 else approxRes f up (sigmApprox s m e)

/-- VDIV to VSIGM by FUNCT (R115): VDIV and VSQRT correctly rounded, the others faithfully; which neighbour is
returned is the free value `Config.faithfulUp`. -/
def vxfOp (f : Fmt) (t funct a b : Nat) : FRes :=
  let x := f.decode a
  let up := Config.faithfulUp funct t a
  match funct with
  | 0 => FRes.ofArith f (divF x (f.decode b))
  | 1 => FRes.ofArith f (sqrtF x)
  | 2 =>
    let r := rsqrtF x
    let c := faithfulExact f up r.1
    { bits := c.bits, flags := r.2 ||| c.flags, sat := c.sat, flush := c.flush }
  | 3 => vexp2 f up x
  | 4 => vlog2 f up x
  | 5 => vtanh f up x
  | _ => vsigm f up x

/-- VDIV to VSIGM, in the VXU. -/
def execVxf (c : CtxRef) (w : Word32) (s : State) : Result :=
  let regs := if vFunct w = 0 then [wRs1 w, wRs2 w] else [wRs1 w]
  s.issueVec .vxf c w [] (regs ++ keepsOld w) (fun s => s.needUnit c .vxu (fun s =>
    let x := s.ctxOf c
    let r := eachElem (vn w) (x.active w) (vMz w) (x.vel w (wRd w)) (fun k =>
      (vxfOp (typeFmt (vType w)) (vType w) (vFunct w) (x.vel w (wRs1 w) k) (x.vel w (wRs2 w) k)).pair)
    s.pushVec c { VecOp.ofV (wRd w) (packV (vw w) r.1) r.2 with unit := some .vxu }))

/-- VWAKE: the wake of each named unit starts (R135). -/
def execVwake (c : CtxRef) (w : Word32) (s : State) : Result :=
  s.issueVec .vwake c w [] [] (fun s =>
    let s1 := s.updCore c.key (fun k =>
      let k1 := if (wRs1 w) % 2 = 1 then k.wake .vxu else k
      if (wRs1 w) / 2 % 2 = 1 then k1.wake .vgu else k1)
    s1.pushVec c {})

/-- What VCVT does (R126): source and destination words and part number, when it is allowed. (DEDUCED: log entry 11). -/
def vcvtPlan (x : Word) (p : Nat) : Option (FmtWord × FmtWord) :=
  match FmtWord.parse (x.setWidth 32), FmtWord.parse (x.extractLsb' 32 32) with
  | some d, some src =>
    let nd := d.fmt.count
    let ns := src.fmt.count
    let ratio := max nd ns / min nd ns
    if d.scale = 2 || src.scale = 2 || 8 < ratio || ratio ≤ p then none else some (d, src)
  | _, _ => none

/-- The draws that a destination takes (R43, R46): one for each position, none under RMODE 0 or from a source whose
conversion is always exact. (DEDUCED: log entry 10). -/
def FmtWord.draws (w : FmtWord) (src : Option FmtWord) (n : Nat) (g : BitVec 32) : List Nat :=
  if w.takesDraws src then Machine.draws n g else []

/-- The generator after a destination's draws. -/
def FmtWord.genAfter (w : FmtWord) (src : Option FmtWord) (n : Nat) (g : BitVec 32) : Option (BitVec 32) :=
  if w.takesDraws src then some (lfsrAfter n g) else none

/-- VCVT: part of vs1 converted into vd. (DEDUCED: log entry 11). -/
def execVcvt (c : CtxRef) (w : Word32) (s : State) : Result :=
  s.issueVec .vcvt c w [] [wRs1 w] (fun s =>
    let x := s.ctxOf c
    let p := vType w
    match vcvtPlan (x.rx (wRs2 w)) p with
    | none => s.trapOperand c w
    | some (d, src) => s.parity c (if d.fmt.count > src.fmt.count then [wRd w] else keepsOld w) (
      let nd := d.fmt.count
      let ns := src.fmt.count
      let n := min nd ns
      let lo := if ns < nd then p * ns else 0
      let from_ := if nd < ns then p * nd else 0
      let dr := d.draws (some src) n x.curGen
      let old := x.vreg (wRd w)
      let el (k : Nat) : Nat := fld old (d.fmt.width * k) d.fmt.width
      let r := eachElem nd (fun k => decide (k < lo ∨ lo + n ≤ k) || x.active w k) (vMz w) el (fun k =>
        if k < lo ∨ lo + n ≤ k then (el k, {}) else
        let v := src.value (fld (x.vreg (wRs1 w)) (src.fmt.width * (from_ + (k - lo))) src.fmt.width) 0
        (d.store 0 (dr.getD (k - lo) 0) v).pair)
      s.pushVec c { VecOp.ofV (wRd w) (packV d.fmt.width r.1) r.2 with gen := d.genAfter (some src) n x.curGen }))

/-- VMV. -/
def execVmv (c : CtxRef) (w : Word32) (s : State) : Result :=
  s.vecElems .vmv c w [wRs1 w] (fun x k => (x.vel w (wRs1 w) k, {}))

/-- VBCX: the low bits of x[s1] in every element. -/
def execVbcx (c : CtxRef) (w : Word32) (s : State) : Result :=
  s.vecElems .vbcx c w [] (fun x _ => ((x.rx (wRs1 w)).toNat % 2 ^ vw w, {}))

/-- VBCF: f[s1] rounded to the register type in every element. -/
def execVbcf (c : CtxRef) (w : Word32) (s : State) : Result :=
  s.vecElems .vbcf c w [] (fun x _ =>
    ((FmtWord.reg (typeFmt (vType w))).store 0 0 (Fmt.fp64.decode (x.rf (wRs1 w)).toNat)).pair)

/-- VIOTA: k in element k. -/
def execViota (c : CtxRef) (w : Word32) (s : State) : Result := s.vecElems .viota c w [] (fun _ k => (k, {}))

/-- VSLDN: element k + x[s2] of vs1, or 0 beyond the register. -/
def execVsldn (c : CtxRef) (w : Word32) (s : State) : Result :=
  s.vecElems .vsldn c w [wRs1 w] (fun x k =>
    let i := k + (x.rx (wRs2 w)).toNat
    (if i < vn w then x.vel w (wRs1 w) i else 0, {}))

/-- VSLUP: element k − x[s2] of vs1; positions below x[s2] keep their old value. -/
def execVslup (c : CtxRef) (w : Word32) (s : State) : Result :=
  s.vecElems .vslup c w [wRs1 w, wRd w] (fun x k =>
    let d := (x.rx (wRs2 w)).toNat
    (if d ≤ k then x.vel w (wRs1 w) (k - d) else x.vel w (wRd w) k, {}))

/-- A code of a format as its exact FP64 code (R123). -/
def toFp64 (f : Fmt) (code : Nat) : Word := BitVec.ofNat 64 (convert .fp64 true .rne (f.decode code)).bits

/-- The codes of the active elements, an inactive one as `blank`. (DEDUCED: log entry 12). -/
def Ctx.leaves (x : Ctx) (w : Word32) (blank : Nat) : List Nat :=
  (List.range (vn w)).map (fun k => if x.active w k then x.vel w (wRs1 w) k else blank)

/-- VSUM.F: the active elements in the fixed tree; inactive ones are −0 (R97, R123). (DEDUCED: log entry 12). -/
def execVsumF (c : CtxRef) (w : Word32) (s : State) : Result :=
  s.issueVec .vsumF c w [] [wRs1 w] (fun s =>
    let x := s.ctxOf c
    let f := typeFmt (vType w)
    let r := treeSum (codeAdd f) (x.leaves w f.signBit)
    s.pushVec c { destF := some (wRd w, toFp64 f (r.1.getD 0)), flags := r.2.fl, sat := r.2.sat, flush := r.2.flush })

/-- VMAX.F or VMIN.F over the active elements (R115, R123); NaN results are canonical (R400). -/
def Ctx.extreme (x : Ctx) (w : Word32) (wantMax : Bool) : Word × BitVec 5 :=
  let f := typeFmt (vType w)
  let act := ((List.range (vn w)).filter (x.active w)).map (x.vel w (wRs1 w))
  match act with
  | [] => (if wantMax then 0xFFF0000000000000#64 else 0x7FF0000000000000#64, 0)
  | a :: rest =>
    let r := rest.foldl (fun (p : Nat × BitVec 5) b => let q := minMax f wantMax p.1 b; (q.1, p.2 ||| q.2)) (a, 0)
    let z := minMax f wantMax r.1 r.1
    (toFp64 f z.1, r.2 ||| z.2)

/-- VMAX.F. -/
def execVmaxF (c : CtxRef) (w : Word32) (s : State) : Result :=
  s.issueVec .vmaxF c w [] [wRs1 w] (fun s =>
    let r := (s.ctxOf c).extreme w true
    s.pushVec c { destF := some (wRd w, r.1), flags := r.2 })

/-- VMIN.F. -/
def execVminF (c : CtxRef) (w : Word32) (s : State) : Result :=
  s.issueVec .vminF c w [] [wRs1 w] (fun s =>
    let r := (s.ctxOf c).extreme w false
    s.pushVec c { destF := some (wRd w, r.1), flags := r.2 })

/-- VSUM.I: the active elements with wrap; a 32-bit sum is sign-extended. -/
def execVsumI (c : CtxRef) (w : Word32) (s : State) : Result :=
  s.issueVec .vsumI c w [] [wRs1 w] (fun s =>
    let x := s.ctxOf c
    let r := treeSum (wrapAdd (vw w)) (x.leaves w 0)
    s.pushVec c { destX := some (wRd w, (BitVec.ofNat (vw w) (r.1.getD 0)).signExtend 64) })

/-- Bits of ms1 below n whose positions are active (R123). -/
def Ctx.maskBits (x : Ctx) (w : Word32) : List Nat :=
  (List.range (vn w)).filter (fun k => (x.mreg (wRs1 w)).getLsbD k && x.active w k)

/-- VPOPC. -/
def execVpopc (c : CtxRef) (w : Word32) (s : State) : Result :=
  s.issueVec .vpopc c w [wRs1 w] [] (fun s =>
    s.pushVec c { destX := some (wRd w, BitVec.ofNat 64 ((s.ctxOf c).maskBits w).length) })

/-- VFIRST. -/
def execVfirst (c : CtxRef) (w : Word32) (s : State) : Result :=
  s.issueVec .vfirst c w [wRs1 w] [] (fun s =>
    s.pushVec c { destX := some (wRd w, BitVec.ofNat 64 (((s.ctxOf c).maskBits w).headD (vn w))) })

/-- MAND to MCLR by FUNCT on all 4,096 bits (R115). -/
def maskOp (funct : Nat) (a b : BitVec 4096) : BitVec 4096 :=
  match funct with
  | 0 => a &&& b
  | 1 => a ||| b
  | 2 => a ^^^ b
  | 3 => a &&& ~~~b
  | 4 => ~~~a
  | 5 => BitVec.allOnes 4096
  | _ => 0

/-- The masks that MAND to MCLR read, by FUNCT (R115, R119). -/
def vmskReads (w : Word32) : List Nat :=
  if vFunct w < 4 then [wRs1 w, wRs2 w] else if vFunct w = 4 then [wRs1 w] else []

/-- MAND to MCLR. -/
def execVmsk (c : CtxRef) (w : Word32) (s : State) : Result :=
  s.issueVec .vmsk c w (vmskReads w) [] (fun s =>
    let x := s.ctxOf c
    s.pushVec c { destM := some (wRd w, maskOp (vFunct w) (x.mreg (wRs1 w)) (x.mreg (wRs2 w))) })

end Sys2Proof.Machine
end

