-- ==== Sys2Proof/Machine/VecMem.lean ====
section
/-! DEFINITION. Vector loads, stores, gathers and scatters (R122, R124, R125, R127 to R129, R136). -/

namespace Sys2Proof.Machine

/-- The trap of a vector locator (R124, R166, R202): reserved bits, a multiple of 64, bits [63:48]. -/
def locTrap (l : Word) : Option (Nat × Word) :=
  if isInk l then (if inkLocBad l then some (3, l) else none)
  else if l.toNat % 64 ≠ 0 then some (3, l)
  else if vaBad l then some (5, l) else none

/-- Traps when a locator is bad, else goes on. -/
def State.locOk (s : State) (c : CtxRef) (l : Word) (f : State) : State :=
  match locTrap l with
  | some (cause, arg) => s.takeTrap c cause arg
  | none => f

/-- The rows that hold set bits of an image, counted from its first row. -/
def imageRows (mask n : Nat) : List Nat := (List.range ((n + 511) / 512)).filter (fun i => fld (BitVec.ofNat (8 * n + 4096) mask) (4096 * i) 4096 != 0)

/-- The bytes that hold set bits of an image, as runs of offset and length. -/
def imageRuns (mask : Nat) (n : Nat) : List (Nat × Nat) :=
  ((leBytes n mask).zipIdx.foldl (fun (acc : List (Nat × Nat)) (p : Byte × Nat) =>
    if p.1 = 0 then acc else
    match acc with
    | [] => [(p.2, 1)]
    | q :: rest => if q.1 + q.2 = p.2 then (q.1, q.2 + 1) :: rest else (p.2, 1) :: acc) []).reverse

/-- Runs of a virtual address range, all translated before any is accessed (R136). -/
def State.locateRuns (s : State) (c : CtxRef) (va : Nat) (runs : List (Nat × Nat)) (a : Access) :
    Acc (List (Nat × Loc × Nat)) :=
  accCollect (fun (r : Nat × Nat) s =>
    if 2 ^ 48 < va + r.1 + r.2 then .trap 5 (BitVec.ofNat 64 (max (va + r.1) (2 ^ 48))) s
    else s.locateAll (s.vecAgent c) (va + r.1) r.2 a) runs s

/-- One of the context's own vector stores in flight meets inkwell rows. -/
def Ctx.inkStoreMeets (x : Ctx) (base : Nat) (rows : List Nat) : Bool :=
  (x.vq ++ x.drain).any (fun o => o.rows.any (fun p => rows.any (fun r => base + r == p)))

/-- What the checks of a locator's access leave for the access itself (R136): the first physical row of the handle, or
the translated parts of the address range. -/
inductive LocPlan where
  | rows (base : Nat)
  | parts (l : List (Nat × Loc × Nat))
  deriving DecidableEq, Repr

/-- The checks of an access to the bytes of a locator that hold set bits of a mask over n bytes: the handle's, or the
translation of every page; nothing is read or written yet (R136). -/
def State.locPlan (s : State) (c : CtxRef) (l : Word) (mask n : Nat) (a : Access) (f : LocPlan → State → State) : State :=
  if isInk l then
    s.inkChecked c (inkHandle l)
      ((s.core c.key).checkRows (inkHandle l) ((imageRows mask n).map (fun i => inkRow l + i)) (a == .write))
      (fun base => f (.rows base) s)
  else State.accEnd c 2 (s.locateRuns c l.toNat (imageRuns mask n) a) (fun ls s => f (.parts ls) s)

/-- Reads the planned bytes of a locator; the answer is the image as a number. A load that meets the context's own stores
in flight waits for them (R157). -/
def State.planRead (s : State) (c : CtxRef) (l : Word) (mask n : Nat) (p : LocPlan) (f : Nat → State → State) : State :=
  match p with
  | .rows base =>
    let rows := (imageRows mask n).map (fun i => inkRow l + i)
    if (s.ctxOf c).inkStoreMeets base rows then s else
    s.inkReadable c (inkHandle l) base rows
      (f (rows.foldl (fun a r => a + ((s.core c.key).row (base + r)).toNat * 2 ^ (4096 * (r - inkRow l))) 0))
  | .parts ls =>
    let x := s.ctxOf c
    if ls.any (fun p => x.vecStoreMeets p.2.1 p.2.2) then s else
    State.accEnd c 2 (accCollect (fun (p : Nat × Loc × Nat) s =>
        (s.coreRead (s.vecAgent c) c.key c.idx p.1 p.2.1 p.2.2).bind (fun bs s => .ok [(p.1, bs)] s)) ls s)
      (fun parts s => f (parts.foldl (fun a p => a + leNat p.2 * 2 ^ (8 * (p.1 - l.toNat))) 0) s)

/-- The buffered stores of an image at a planned locator: the rows of an inkwell locator, or bytes at a virtual address. A
byte of which only half is stored takes its other half from memory. -/
def State.planWrite (s : State) (c : CtxRef) (l : Word) (mask data n : Nat) (p : LocPlan)
    (f : List VStore → State → State) : State :=
  match p with
  | .rows base =>
    f ((imageRows mask n).map (fun i => VStore.ink (base + inkRow l + i) (inkHandle l) (inkRow l + i)
      (BitVec.ofNat 4096 (mask / 2 ^ (4096 * i))) (BitVec.ofNat 4096 (data / 2 ^ (4096 * i))))) s
  | .parts ls =>
    let x := s.ctxOf c
    State.accEnd c 2 (accCollect (fun (p : Nat × Loc × Nat) s1 =>
        accCollect (fun i s1 =>
          let o := p.1 - l.toNat + i
          let m := mask / 2 ^ (8 * o) % 256
          let d := data / 2 ^ (8 * o) % 256
          let a := p.2.1.add i
          if m = 255 then .ok [VStore.mem a (p.1 + i) (BitVec.ofNat 8 d)] s1
          else if x.vecStoreMeets a 1 then .wait s
          else (s1.coreRead (s1.vecAgent c) c.key c.idx (p.1 + i) a 1).bind (fun bs s1 =>
            .ok [VStore.mem a (p.1 + i) (BitVec.ofNat 8 ((((bs.headD 0).toNat &&& (255 - m)) ||| (d &&& m))))] s1))
          (List.range p.2.2) s1) ls s)
      f

/-- The bits that the active elements of w bits cover. -/
def activeBits (w n : Nat) (act : Nat → Bool) : Nat :=
  packNat w ((List.range n).map (fun k => if act k then 2 ^ w - 1 else 0))

/-- A block of 32 elements has an active one. -/
def blockActive (n : Nat) (act : Nat → Bool) (b : Nat) : Bool :=
  (List.range 32).any (fun i => decide (32 * b + i < n) && act (32 * b + i))

/-- Blocks of n elements. -/
def nBlocks (n : Nat) : Nat := (n + 31) / 32

/-- Bytes of n elements of w bits. -/
def imageBytes (w n : Nat) : Nat := (w * n + 7) / 8

/-- The memory format word of a VLD or VST, when it is allowed (R124, R125). With SCALE 2 in it, s2 must not be 31 (R124),
whatever TYPE is; one that is takes the illegal-operand trap. (DESIGN CHOICE: log entry 72). -/
def memWord (w : Word32) (x2 : Word) : Option FmtWord :=
  if fld x2 32 32 ≠ 0 then none else
  match FmtWord.parse (x2.setWidth 32) with
  | none => none
  | some f =>
    if f.scale = 2 && wRs2 w == 31 then none
    else if vType w = 6 then (if f.fmt.width = 8 then some f else none)
    else if vType w = 7 then (if f.fmt = .fp4 then some f else none)
    else some f

/-- The access uses an offset array: SCALE is 2 and the elements are converted. -/
def usesOffsets (w : Word32) (f : FmtWord) : Bool := f.scale == 2 && decide (vType w < 6)

/-- VLD: elements loaded and converted into vd. -/
def execVld (c : CtxRef) (w : Word32) (s : State) : Result :=
  s.issueVec .vld c w [] (keepsOld w) (fun s =>
    let x := s.ctxOf c
    match memWord w (x.rx (wRs2 w)) with
    | none => s.trapOperand c w
    | some f =>
      if usesOffsets w f && x.awaitsReg (wRs2 w + 1) then s else
      let l := x.rx (wRs1 w)
      let ol := x.rx (wRs2 w + 1)
      let n := vn w
      let act := x.active w
      let sc := usesOffsets w f
      let m := activeBits f.fmt.width n act
      let mb := imageBytes f.fmt.width n
      let om := activeBits 4 (nBlocks n) (blockActive n act)
      let ob := imageBytes 4 (nBlocks n)
      let fin (img offs : Nat) (s : State) : State :=
        let el (k : Nat) : Nat × Fx :=
          let code := img / 2 ^ (f.fmt.width * k) % 2 ^ f.fmt.width
          if 6 ≤ vType w then (code, {}) else
          let fine := if f.scale = 2 then offs / 2 ^ (4 * (k / 32)) % 16 else 0
          ((FmtWord.reg (typeFmt (vType w))).store 0 0 (f.value code fine)).pair
        let r := eachElem n act (vMz w) (x.vel w (wRd w)) el
        s.pushMem c (VecOp.ofV (wRd w) (packV (vw w) r.1) r.2)
      let go (s : State) : State :=
        s.locPlan c l m mb .read (fun p s =>
          if sc then s.locPlan c ol om ob .read (fun q s =>
            s.planRead c l m mb p (fun img s => s.planRead c ol om ob q (fun offs s => fin img offs s)))
          else s.planRead c l m mb p (fun img s => fin img 0 s))
      s.locOk c l (if sc then s.locOk c ol (go s) else go s))

/-- The codes and offsets that n values become in a destination (R39 to R46, R50, R122): per active position a code with
its counts; with SCALE 2, per block with an active element the fine offset of the scale finder. -/
def encodeAll (f : FmtWord) (n : Nat) (act : Nat → Bool) (val : Nat → FVal) (dr : List Nat)
    (flags : Conv → FVal → BitVec 5) : List Nat × List Nat × Fx :=
  let offs := if f.scale = 2 then (List.range (nBlocks n)).map (fun b =>
      scaleFind f.cs f.fmt (((List.range 32).filter (fun i => decide (32 * b + i < n) && act (32 * b + i))).map
        (fun i => val (32 * b + i))))
    else []
  let r := eachElem n act true (fun _ => 0) (fun k =>
    let c := f.store (if f.scale = 2 then offs.getD (k / 32) 0 else 0) (dr.getD k 0) (val k)
    (c.bits, { fl := flags c (val k), sat := b2n c.sat, flush := b2n c.flush }))
  (r.1, offs, r.2)

/-- The checks of a store of n elements of some width at a locator, and of their offsets at a second one under SCALE 2
(R136). -/
def State.planOut (s : State) (c : CtxRef) (l ol : Word) (scaled : Bool) (width n : Nat) (act : Nat → Bool)
    (f : LocPlan → LocPlan → State → State) : State :=
  s.locPlan c l (activeBits width n act) (imageBytes width n) .write (fun p s =>
    if scaled then
      s.locPlan c ol (activeBits 4 (nBlocks n) (blockActive n act)) (imageBytes 4 (nBlocks n)) .write (fun q s => f p q s)
    else f p p s)

/-- The stores of n encoded elements at a planned locator, and of their offsets at a second one under SCALE 2. -/
def State.storeOut (s : State) (c : CtxRef) (l ol : Word) (scaled : Bool) (width n : Nat) (act : Nat → Bool)
    (p q : LocPlan) (codes offs : List Nat) (f : List VStore → State → State) : State :=
  s.planWrite c l (activeBits width n act) (packNat width codes) (imageBytes width n) p (fun st s =>
    if scaled then
      s.planWrite c ol (activeBits 4 (nBlocks n) (blockActive n act)) (packNat 4 offs) (imageBytes 4 (nBlocks n)) q
        (fun st2 s => f (st ++ st2) s)
    else f st s)

/-- VST: the register's elements converted and stored. -/
def execVst (c : CtxRef) (w : Word32) (s : State) : Result :=
  s.issueVec .vst c w [] [wRd w] (fun s =>
    let x := s.ctxOf c
    match memWord w (x.rx (wRs2 w)) with
    | none => s.trapOperand c w
    | some f =>
      let sc := usesOffsets w f
      if sc && x.awaitsReg (wRs2 w + 1) then s else
      let l := x.rx (wRs1 w)
      let ol := x.rx (wRs2 w + 1)
      let n := vn w
      let act := x.active w
      let raw := decide (6 ≤ vType w)
      let codes (k : Nat) : FVal := (typeFmt (vType w)).decode (x.vel w (wRd w) k)
      let src := some (FmtWord.reg (typeFmt (vType w)))
      let r := if raw then ((List.range n).map (x.vel w (wRd w)), [], ({} : Fx))
        else encodeAll f n act codes (f.draws src n x.curGen) (fun _ _ => 0)
      let gen := if raw then none else f.genAfter src n x.curGen
      let go (s : State) : State :=
        s.planOut c l ol sc f.fmt.width n act (fun p q s =>
          s.storeOut c l ol sc f.fmt.width n act p q r.1 r.2.1 (fun st s =>
            s.pushMem c { stores := st, sat := r.2.2.sat, flush := r.2.2.flush, gen := gen }))
      s.locOk c l (if sc then s.locOk c ol (go s) else go s))

/-- Byte address of element k of a gather or scatter, from the start of ROW or as a virtual address (R127). -/
def vgsOffset (x : Ctx) (w : Word32) (k : Nat) : Int := (BitVec.ofNat 64 (fld (x.vreg (wRs2 w)) (64 * k) 64)).toInt

/-- The active elements of a gather or scatter. -/
def vgsActive (x : Ctx) (w : Word32) : List Nat := (List.range 256).filter (x.active w)

/-- Virtual address of an element. -/
def vgsVa (x : Ctx) (w : Word32) (k : Nat) : Word := x.rx (wRs1 w) + BitVec.ofInt 64 (vgsOffset x w k)

/-- Byte offset of an element from row 0 of the handle. (DEDUCED: log entry 15). -/
def vgsInk (x : Ctx) (w : Word32) (k : Nat) : Int := 512 * (inkRow (x.rx (wRs1 w)) : Int) + vgsOffset x w k

/-- A row number of an element; a row below the handle's first lies outside its rows. (DEDUCED: log entry 15). -/
def vgsRow (x : Ctx) (w : Word32) (k : Nat) : Nat :=
  let o := vgsInk x w k
  if o < 0 then (2 ^ 64 + o / 512).toNat else (o / 512).toNat

/-- The alignment trap of the active elements, then the address trap (R127, R128, R202). (DEDUCED: log entry 15). -/
def vgsTrap (x : Ctx) (w : Word32) : Option (Nat × Word) :=
  let l := x.rx (wRs1 w)
  let size : Nat := vw w / 8
  if isInk l then
    if inkLocBad l then some (3, l)
    else if (vgsActive x w).any (fun k => decide (vgsInk x w k % (size : Int) ≠ 0)) then some (3, l) else none
  else
    match (vgsActive x w).find? (fun k => decide ((vgsVa x w k).toNat % size ≠ 0)) with
    | some k => some (3, vgsVa x w k)
    | none => ((vgsActive x w).find? (fun k => vaBad (vgsVa x w k))).map (fun k => (5, vgsVa x w k))

/-- Every active element of a virtual-address gather or scatter translated before any is accessed (R128). -/
def State.vgsLocate (s : State) (c : CtxRef) (w : Word32) (a : Access) : Acc (List (Nat × Loc)) :=
  let x := s.ctxOf c
  accCollect (fun k s => (s.locate (s.vecAgent c) (vgsVa x w k).toNat a).bind (fun l s => .ok [(k, l)] s))
    (vgsActive x w) s

/-- VGATH: elements at indexed addresses into positions 0 to 255. -/
def execVgath (c : CtxRef) (w : Word32) (s : State) : Result :=
  s.issueVec .vgath c w [] (wRs2 w :: (if vn w > 256 && !(vMz w) then [wRd w] else keepsOld w))
    (fun s => s.needUnit c .vgu (fun s =>
      let x := s.ctxOf c
      let l := x.rx (wRs1 w)
      let size := vw w / 8
      let done (get : Nat → Nat) (s : State) : State :=
        let r := eachElem (vn w) (fun k => decide (k < 256) && x.active w k) (vMz w) (x.vel w (wRd w)) (fun k => (get k, {}))
        s.pushMem c { VecOp.ofV (wRd w) (packV (vw w) r.1) r.2 with unit := some .vgu }
      match vgsTrap x w with
      | some (cause, arg) => s.takeTrap c cause arg
      | none =>
        if isInk l then
          let rows := ((vgsActive x w).map (vgsRow x w)).eraseReps
          s.inkChecked c (inkHandle l) ((s.core c.key).checkRows (inkHandle l) rows false) (fun base =>
            if x.inkStoreMeets base rows then s else
            s.inkReadable c (inkHandle l) base rows
              (done (fun k =>
                fld ((s.core c.key).row (base + vgsRow x w k)) (8 * (vgsInk x w k % 512).toNat) (vw w))))
        else
          State.accEnd c 2 ((s.vgsLocate c w .read).bind (fun ls s1 =>
            if ls.any (fun p => x.vecStoreMeets p.2 size) then .wait s else
            accCollect (fun (p : Nat × Loc) s =>
              (s.coreRead (s.vecAgent c) c.key c.idx (vgsVa x w p.1).toNat p.2 size).bind (fun bs s =>
                .ok [(p.1, leNat bs)] s)) ls s1))
            (fun got s => done (fun k => ((got.find? (fun p => p.1 == k)).map (fun p => p.2)).getD 0) s)))

/-- VSCAT: positions 0 to 255 to indexed addresses, in ascending position (R129). -/
def execVscat (c : CtxRef) (w : Word32) (s : State) : Result :=
  s.issueVec .vscat c w [] [wRs2 w, wRd w] (fun s => s.needUnit c .vgu (fun s =>
    let x := s.ctxOf c
    let l := x.rx (wRs1 w)
    let size := vw w / 8
    match vgsTrap x w with
    | some (cause, arg) => s.takeTrap c cause arg
    | none =>
      if isInk l then
        let rows := ((vgsActive x w).map (vgsRow x w)).eraseReps
        s.inkChecked c (inkHandle l) ((s.core c.key).checkRows (inkHandle l) rows true) (fun base =>
          s.pushVec c { unit := some .vgu, stores := (vgsActive x w).map (fun k =>
            let bit := 8 * (vgsInk x w k % 512).toNat
            VStore.ink (base + vgsRow x w k) (inkHandle l) (vgsRow x w k)
              (BitVec.ofNat 4096 ((2 ^ vw w - 1) * 2 ^ bit)) (BitVec.ofNat 4096 (x.vel w (wRd w) k * 2 ^ bit))) })
      else
        State.accEnd c 2 (s.vgsLocate c w .write) (fun ls s =>
          s.pushMem c { unit := some .vgu, stores := ls.flatMap (fun p =>
            ((leBytes size (x.vel w (wRd w) p.1)).zipIdx).map (fun b => VStore.mem (p.2.add b.2) ((vgsVa x w p.1).toNat + b.2) b.1)) })))

end Sys2Proof.Machine
end

