-- ==== Sys2Proof/Machine/Feed.lean ====
section
/-! DEFINITION. Feed transfers (R38, R46, R188, R212, R217, R244, R249, R252, R285): a transfer moves line by line of its
destination; FEED.START and FEED.WAIT. -/

namespace Sys2Proof.Machine

/-- The agent of the accesses of a transfer's feed under a hint. -/
def State.feedAgent (s : State) (t : XferRef) (hint feed : Nat) : Agent :=
  let job := s.xferJob t
  let q := (job.map (fun r => r.queue.toNat)).getD 0
  { fn := s.xferFn t, die := xferDie t, cmd := job, who := none, engine := .feed t, queue := q,
    cls := (s.queue q).prio, hint := hint, feed := feed }

/-- The feed of a transfer that moves next, by its position: of those that no page fault stalls, the one with the lowest tile
(R213, R249). (DESIGN CHOICE: log entry 48). -/
def Xfer.next (x : Xfer) : Option (Nat × FeedLane) :=
  (x.lanes.zipIdx.filter (fun p => p.1.stalled.isNone && decide (p.1.tile < (FeedDesc.parse x.desc).tiles))).foldl
    (fun (b : Option (Nat × FeedLane)) p =>
      match b with
      | some q => if p.1.tile < q.2.tile then some (p.2, p.1) else some q
      | none => some (p.2, p.1)) none

/-- Changes one feed of a transfer. -/
def Xfer.setLane (x : Xfer) (i : Nat) (l : FeedLane) : Xfer := { x with lanes := x.lanes.set i l }

/-- The number of a transfer's feed at a position. -/
def Xfer.feed (x : Xfer) (i : Nat) : Nat := x.feeds.getD i 0

/-- Every tile has been finished. -/
def Xfer.tilesDone (x : Xfer) : Bool := x.lanes.all (fun l => decide ((FeedDesc.parse x.desc).tiles ≤ l.tile))

/-- Every element has been moved. -/
def Xfer.allMoved (x : Xfer) : Bool :=
  let f := FeedDesc.parse x.desc
  x.lanes.all (fun l => decide (f.tiles ≤ l.tile ∨ (f.tiles ≤ l.tile + x.feeds.length ∧ f.rows * f.elems ≤ l.elem)))

/-- The transfer is to end with a status; nothing more is moved. -/
def Xfer.stop (x : Xfer) (code detail : Nat) : Xfer := { x with phase := .stopping code detail }

/-- Elements [p, e) of a tile as parts of rows: row, first element and the one after the last. -/
def rowSpans (elems : Nat) : Nat → Nat → Nat → List (Nat × Nat × Nat)
  | 0, _, _ => []
  | fuel + 1, p, e =>
    if e ≤ p then [] else
    let r := p / elems
    let k := min (e - p) (elems - p % elems)
    (r, p % elems, p % elems + k) :: rowSpans elems fuel (p + k) e

/-- Offset of an element's bytes from a side's position. -/
def FeedDesc.offsetOf (_f : FeedDesc) (sd : Side) (tile row elem : Nat) : Nat :=
  tile * sd.stride + row * sd.pitch + elem * sd.width / 8

/-- Bytes that elements [a, b) of a row touch. -/
def spanBytes (w a b : Nat) : Nat := (b * w + 7) / 8 - a * w / 8

/-- The location that a virtual-address side names with an offset, by the tables alone. -/
def State.sideRemote (s : State) (fn : Nat) (sd : Side) (off : Nat) : Bool :=
  sd.kind == 2 || (sd.kind == 0 && (match s.translate fn (sd.pos + off) .write with
    | .at (.remote _ _ _) _ _ => true
    | _ => false))

/-- The tile's destination rows follow each other without a gap. -/
def FeedDesc.contiguous (f : FeedDesc) (sd : Side) : Bool :=
  f.elems * sd.width % 8 == 0 && sd.pitch == f.rowBytes sd && f.elems % 2 == 0
    && (sd.word.scale != 2 || f.elems % 32 == 0)

/-- Where the line that starts at element p of a tile ends (R244, R285): at the next 256-byte line, at the next row of an
inkwell, or after 7,168 bytes of a remote write; always at the end of an element, of a byte of two FP4 elements
and, under SCALE 2, of a block; never beyond the row, or beyond the tile of a remote write whose rows join. -/
def State.lineEnd (s : State) (fn : Nat) (f : FeedDesc) (op : FeedOp) (tile p : Nat) : Nat :=
  let sd := if f.dkind = 3 then f.srcSide else f.dstSide
  let w := sd.width
  let row := p / f.elems
  let e := p % f.elems
  let off := f.offsetOf sd tile row e
  let rowEnd := (row + 1) * f.elems
  if op != .fill && f.dkind = 3 then
    let k := 256 - (sd.pos + off) % 256
    min rowEnd (p + (8 * k + w - 1) / w)
  else if s.sideRemote fn sd off then
    let join := f.contiguous sd
    let from_ := if join then p else e
    let last := if join then f.rows * f.elems else f.elems
    let next := min last ((from_ * w / 8 / 7168 + 1) * 7168 * 8 / w)
    p + (next - from_)
  else
    let k := if sd.kind = 1 then 512 - off % 512 else 256 - (sd.pos + off) % 256
    let unit := if sd.word.scale = 2 then 32 else 2
    let stop := e + (8 * k + w - 1) / w
    min rowEnd (row * f.elems + (stop + unit - 1) / unit * unit)

/-- What keeps an inkwell access from being made (R79, R171, R172). -/
inductive InkBar where
  | ends (code detail : Nat)
  | ecc (key handle rel phys : Nat)
  | waits
  deriving DecidableEq, Repr

/-- The checks on bytes [off, off + n) behind an inkwell locator: the handle; an uncorrectable row that is read, or
written in part; a row that a matrix request still reads. -/
def State.inkBar (s : State) (die : Nat) (sd : Side) (loc off n : Nat) : Option InkBar :=
  let l := BitVec.ofNat 64 loc
  let key := coreKey die sd.core
  let k := s.core key
  let rows := spanList (inkRow l + off / 512) (inkRow l + (off + n - 1) / 512)
  match k.checkRows (inkHandle l) rows sd.write with
  | .revoked => some (.ends 5 1)
  | .fault _ _ => some (.ends 11 5)
  | .ok base =>
    let whole (r : Nat) : Bool :=
      decide (off ≤ 512 * (r - inkRow l) ∧ 512 * (r - inkRow l) + 512 ≤ off + n)
    match rows.find? (fun r => k.inkBad.contains (base + r) && !(sd.write && whole r)) with
    | some r => some (.ecc key (inkHandle l) r (base + r))
    | none => if sd.write && rows.any (fun r => k.mmNeeds (base + r)) then some .waits else none

/-- The reads of inkwell rows of some accesses correct their single-bit errors (R172). -/
def State.inkFix (s : State) (die : Nat) (l : List (Side × Nat × Nat × Nat)) : State :=
  l.foldl (fun s a =>
    let k := coreKey die a.1.core
    let w := BitVec.ofNat 64 a.2.1
    let base := ((s.core k).handle (inkHandle w)).base + inkRow w
    if a.1.write then s else s.correctRows k (spanList (base + a.2.2.1 / 512) (base + (a.2.2.1 + a.2.2.2 - 1) / 512))) s

/-- Reads bytes [off, off + n) behind a position. -/
def State.sideRead (s : State) (ag : Agent) (sd : Side) (pos off n : Nat) : Acc (List Byte) :=
  if n = 0 then .ok [] s else
  match sd.kind with
  | 1 =>
    let l := BitVec.ofNat 64 pos
    let k := s.core (coreKey ag.die sd.core)
    let base := (k.handle (inkHandle l)).base + inkRow l
    .ok ((List.range n).map (fun i =>
      (k.row (base + (off + i) / 512)).extractLsb' (8 * ((off + i) % 512)) 8)) s
  | 2 => s.readLoc ag 0 (.remote (fld (BitVec.ofNat 64 pos) 52 10) (fld (BitVec.ofNat 64 pos) 40 12)
      ((pos + off) % 2 ^ 40)) n
  | _ => s.readVa ag (pos + off) n

/-- Writes bytes into inkwell rows behind a first row. -/
def Core.putInkBytes (k : Core) (base off : Nat) (bs : List Byte) : Core :=
  (spanList (off / 512) ((off + bs.length - 1) / 512)).foldl (fun k r =>
    let lo := max off (512 * r)
    let hi := min (off + bs.length) (512 * r + 512)
    k.mergeInRow (base + r) (bytesMask (lo - 512 * r) (hi - lo))
      (BitVec.ofNat 4096 (leNat ((bs.drop (lo - off)).take (hi - lo)) * 2 ^ (8 * (lo - 512 * r))))) k

/-- Writes bytes behind a position. -/
def State.sideWrite (s : State) (ag : Agent) (sd : Side) (pos off : Nat) (bs : List Byte) : Acc Unit :=
  if bs.isEmpty then .ok () s else
  match sd.kind with
  | 1 =>
    let l := BitVec.ofNat 64 pos
    .ok () (s.updCore (coreKey ag.die sd.core) (fun k =>
      k.putInkBytes ((k.handle (inkHandle l)).base + inkRow l) off bs))
  | 2 => s.writeLoc ag 0 (.remote (fld (BitVec.ofNat 64 pos) 52 10) (fld (BitVec.ofNat 64 pos) 40 12)
      ((pos + off) % 2 ^ 40)) bs
  | _ => s.writeVa ag (pos + off) bs

/-- Translates bytes behind a virtual-address position for writing, and writes nothing. -/
def State.sideLocate (s : State) (ag : Agent) (sd : Side) (pos off n : Nat) : Acc Unit :=
  if sd.kind ≠ 0 || n == 0 then .ok () s else
  (s.locateAll ag (pos + off) n .write).bind (fun _ s => .ok () s)

/-- The other half of a byte of which a transfer writes one half: what the destination holds. A partial write of a
poisoned line raises nothing (R196); beside a remote window's odd last element nothing is stated. -/
def State.halfRead (s : State) (ag : Agent) (sd : Side) (pos off : Nat) : Acc (List Byte) :=
  match sd.kind with
  | 2 => .ok [(Config.halfByte s.free).setWidth 8 <<< 4] { s with free := s.free + 1 }
  | 1 => s.sideRead ag sd pos off 1
  | _ => (s.locate ag (pos + off) .write).bind (fun l s =>
      match l with
      | .stack a => .ok [Memory.read s.mem a] s
      | l => s.readLoc ag (pos + off) l 1)

/-- Fine offsets of an array from index `i0` on, joined two to a byte with the halves that wait: the first whole byte's
place, the whole bytes, and the halves that wait from then on. -/
def joinHalves (pend : SMap (Bool × Nat)) (i0 : Nat) (offs : List Nat) : Nat × List Byte × SMap (Bool × Nat) :=
  let half (b : Nat) (up : Bool) : Option Nat :=
    let i := 2 * b + b2n up
    if i0 ≤ i ∧ i < i0 + offs.length then offs[i - i0]? else
    match SMap.find pend b with
    | some (u, v) => if u == up then some v else none
    | none => none
  let places := if offs.isEmpty then [] else spanList (i0 / 2) ((i0 + offs.length - 1) / 2)
  let whole := places.filterMap (fun b =>
    match half b false, half b true with
    | some lo, some hi => some (b, BitVec.ofNat 8 (lo + 16 * hi))
    | _, _ => none)
  let wait := places.foldl (fun m b =>
    match half b false, half b true with
    | some lo, none => SMap.set m b (false, lo)
    | none, some hi => SMap.set m b (true, hi)
    | _, _ => SMap.del m b) pend
  ((whole.map (fun p => p.1)).headD ((i0 + offs.length - 1) / 2), whole.map (fun p => p.2), wait)

/-- Offset index of block b of a row of a tile (R249). -/
def FeedDesc.offIndex (f : FeedDesc) (tile row b : Nat) : Nat := (tile * f.rows + row) * f.rowBlocks + b

/-- The codes and the fine offsets of a part of a source row: codes of elements [a, b), offsets of their blocks. -/
def State.readSpan (s : State) (ag : Agent) (f : FeedDesc) (tile : Nat) (sp : Nat × Nat × Nat) :
    Acc (List (List Nat × List Nat)) :=
  let sd := f.srcSide
  let w := sd.width
  let (row, a, b) := sp
  (s.sideRead ag sd sd.pos (f.offsetOf sd tile row a) (spanBytes w a b)).bind (fun bs s =>
    let v := leNat bs
    let codes := (List.range (b - a)).map (fun i => v / 2 ^ (a * w % 8 + w * i) % 2 ^ w)
    if sd.word.scale ≠ 2 || f.dkind == 3 then .ok [(codes, [])] s else
    let i0 := f.offIndex tile row (a / 32)
    let n := (b - 1) / 32 - a / 32 + 1
    (s.sideRead { ag with hint := 0 } sd sd.opos (i0 / 2) ((i0 + n + 1) / 2 - i0 / 2)).bind (fun os s =>
      .ok [(codes, (List.range n).map (fun j => leNat os / 2 ^ (4 * (i0 % 2 + j)) % 16))] s))

/-- The destination's codes, offsets and counts of one part of a row (R38, R39, R46, R50). With SCALE 2 on both sides of a
conversion the scale finder sets the fine offsets, where the table of R56 speaks of a copy. (DEDUCED: log entry 78). -/
def FeedDesc.encode (f : FeedDesc) (op : FeedOp) (gen : BitVec 32) (tile : Nat) (sp : Nat × Nat × Nat)
    (src : List Nat × List Nat) : List Nat × List Nat × Fx :=
  let (row, a, b) := sp
  if op != .fill && f.sfmt == f.dfmt then (src.1, src.2, {}) else
  let sw := f.srcSide.word
  let val (i : Nat) : FVal :=
    if op = .fill then Fmt.fp64.decode f.pattern
    else sw.value (src.1.getD i 0) (if sw.scale = 2 then src.2.getD ((a + i) / 32 - a / 32) 0 else 0)
  let dr := if f.drawCount op = 0 then [] else draws (b - a) (lfsrAfter ((tile * f.rows + row) * f.elems + a) gen)
  encodeAll f.dstSide.word (b - a) (fun _ => true) val dr (fun _ _ => 0)

/-- The stack lines that a source read covers, with the bytes of each (R188). (DEDUCED: log entry 33). -/
def State.coverOf (s : State) (fn : Nat) (va n : Nat) : List (Nat × BitVec 256) :=
  (vaParts va n).flatMap (fun p =>
    match s.translate fn p.1 .read with
    | .at (.stack a) _ _ => (pieces a p.2).map (fun q =>
        (q.1 / 256, BitVec.ofNat 256 ((2 ^ q.2 - 1) * 2 ^ (q.1 % 256))))
    | _ => [])

/-- Adds covered bytes; lines that are whole are discarded (R188). (DEDUCED: log entry 33). -/
def State.discardCovered (s : State) (x : Xfer) (l : List (Nat × BitVec 256)) : State × Xfer :=
  l.foldl (fun (a : State × Xfer) p =>
    let m := SMap.get a.2.cover p.1 0 ||| p.2
    let x := { a.2 with cover := SMap.set a.2.cover p.1 m }
    if m = BitVec.allOnes 256 then (a.1.discardLine (256 * p.1), x) else (a.1, x)) (s, x)

/-- The accesses to inkwell rows that elements [p, e) of a tile make: side, locator, offset and bytes. -/
def FeedDesc.inkAccesses (f : FeedDesc) (op : FeedOp) (tile : Nat) (spans : List (Nat × Nat × Nat)) :
    List (Side × Nat × Nat × Nat) :=
  ((f.sides op).filter (fun sd => sd.kind == 1)).flatMap (fun sd => spans.flatMap (fun sp =>
    let i0 := f.offIndex tile sp.1 (sp.2.1 / 32)
    let n := (sp.2.2 - 1) / 32 - sp.2.1 / 32 + 1
    (sd, sd.pos, f.offsetOf sd tile sp.1 sp.2.1, spanBytes sd.width sp.2.1 sp.2.2)
      :: (if sd.word.scale = 2 then [(sd, sd.opos, i0 / 2, (i0 + n + 1) / 2 - i0 / 2)] else [])))

/-- Moves the elements of one line: reads and converts the source, then writes the destination, its offsets, and
discards the source lines that hint 3 names. A line that cannot be moved whole writes nothing.
(DEDUCED: log entry 48). -/
def State.moveLine (s : State) (t : XferRef) (x : Xfer) (f : FeedDesc) (i : Nat) (l : FeedLane) (e : Nat) : Acc Xfer :=
  let spans := rowSpans f.elems (e - l.elem + 1) l.elem e
  let ss := f.srcSide
  let ds := f.dstSide
  let rag := { s.feedAgent t ss.hint (x.feed i) with noSnoop := f.nosnoop }
  let wag := s.feedAgent t ds.hint (x.feed i)
  let w := ds.width
  (if x.op = .fill then .ok (spans.map (fun _ => ([], []))) s
   else accCollect (fun sp s => s.readSpan rag f l.tile sp) spans s).bind (fun srcs s1 =>
    let cov := if x.op != .fill && ss.kind == 0 && ss.hint == 3 then
        spans.flatMap (fun sp => s1.coverOf rag.fn (ss.pos + f.offsetOf ss l.tile sp.1 sp.2.1)
          (spanBytes ss.width sp.2.1 sp.2.2))
      else []
    if f.dkind = 3 then let r := s1.discardCovered x cov; .ok (r.2.setLane i { l with elem := e }) r.1 else
    let enc := (spans.zip srcs).map (fun p => f.encode x.op x.gen.value l.tile p.1 p.2)
    let codes := enc.flatMap (fun r => r.1)
    let offs := enc.flatMap (fun r => r.2.1)
    let fx := enc.foldl (fun (a : Fx) r => a.join r.2.2) {}
    let off := f.offsetOf ds l.tile (l.elem / f.elems) (l.elem % f.elems)
    let odd := codes.length * w % 8 != 0
    let body := leBytes ((codes.length * w + 7) / 8) (packNat w codes)
    let i0 := f.offIndex l.tile (l.elem / f.elems) (l.elem % f.elems / 32)
    let (o0, whole, wait) := joinHalves x.nibs i0 offs
    let low := ((SMap.find wait (f.offBytes - 1)).getD (false, 0)).2
    let lastHalf := ds.word.scale == 2 && i0 + offs.length == f.offsets && f.offsets % 2 == 1
    let merge (old : List Byte) (low : Nat) : Byte := BitVec.ofNat 8 ((old.headD 0).toNat / 16 * 16 + low % 16)
    (if odd then s1.halfRead wag ds ds.pos (off + body.length - 1) else .ok [] s1).bind (fun h1 s2 =>
    (if lastHalf then s2.halfRead wag ds ds.opos (f.offBytes - 1) else .ok [] s2).bind (fun h2 s3 =>
    let bytes := if odd then body.take (body.length - 1) ++ [merge h1 ((body.getLastD 0).toNat)] else body
    let obytes := if lastHalf then whole ++ [merge h2 low] else whole
    (s3.sideLocate wag ds ds.pos off bytes.length).bind (fun _ s4 =>
    (s4.sideLocate wag ds ds.opos o0 obytes.length).bind (fun _ s5 =>
    let r := s5.discardCovered x cov
    match (r.1.sideWrite wag ds ds.pos off bytes).bind (fun _ s => s.sideWrite wag ds ds.opos o0 obytes) with
    | .wait _ => .wait s5
    | .ok _ s6 =>
      .ok ({ r.2 with nibs := wait, sat := x.sat + fx.sat, flush := x.flush + fx.flush }.setLane i { l with elem := e }) s6
    | .trap c a s => .trap c a s
    | .page c v w s => .page c v w s
    | .poison a s => .poison a s
    | .lost k s => .lost k s)))))

/-- A page fault stalls the feed that met it, and the others go on (R213); while the fault queue is off it ends the transfer
with FAULT_PAGE (R215). -/
def State.feedStall (s : State) (t : XferRef) (x : Xfer) (i cause va : Nat) (wr : Bool) : State :=
  let fn := s.xferFn t
  if !(s.func fn).fqEn then s.putXfer t (x.stop 6 0xFF) else
  let die := xferDie t
  let (q, n) := match s.xferJob t with
    | some r => (r.queue.toNat, r.seq.toNat)
    | none => (0, 0)
  let p : PageFault :=
    { fn := fn, page := va / 2 ^ 25, va := va, cause := cause,
      source := s.sourceOf die 31 (xferCtx t) 4 (x.feed i) wr, queue := q, seq := n, count := 0, tag := none,
      engines := [] }
  let s1 := (s.putXfer t { x with lanes := x.lanes.modify i (fun l => { l with stalled := some va }) }).updDie die (fun d => d.joinFault p (.feed t))
  s1.trace die fn 7 none (xferCtx t) q n (va % 2 ^ 48)

/-- A feed raises a fault of KIND 2 or 3 (R172, R196, R337, R345): it strikes the command of the transfer. -/
def State.feedFault (s : State) (t : XferRef) (feed kind addr key handle row : Nat) : State :=
  let die := xferDie t
  let (s1, mapOut) := if kind = 2 then s.countFault key kind else (s, false)
  let st : Strike := { kind := kind, die := die, core := key % 20, mapOut := mapOut, handle := handle, row := row,
                       engine := 4, feed := feed }
  let s2 := s1.faultRecord (s.xferFn t) st addr (xferCtx t) (s.xferJob t)
  s2.strikeAll st (s.xferJob t) (if mapOut then s.workersOn key else [])

/-- Prefetch walks when a feed starts a tile (R212): for the first and last byte of the next four tiles of each
virtual-address side that the die TLB does not hold. A walk that finds no page records nothing. -/
def State.prefetch (s : State) (t : XferRef) (x : Xfer) (f : FeedDesc) (tile : Nat) : State :=
  let die := xferDie t
  let fn := s.xferFn t
  let vas := ((f.sides x.op).filter (fun sd => sd.kind == 0)).flatMap (fun sd =>
    ((List.range 4).map (fun i => tile + 1 + i)).flatMap (fun k =>
      if f.tiles ≤ k then [] else
      [sd.pos + k * sd.stride, sd.pos + k * sd.stride + f.tileBytes sd - 1]))
  vas.foldl (fun s va =>
    if (s.die die).tlb.any (fun e => e.covers fn va) then s else
    let s1 := s.countDie die 0x30 1
    match s1.walk fn va with
    | .entry big e => s1.fillDieTlb die { fn := fn, page := va / pageBytes big, big := big, entry := e }
    | _ => s1) s

/-- The relative rows of an inkwell side's elements. -/
def FeedDesc.sideRows (f : FeedDesc) (sd : Side) : List Nat :=
  let l := BitVec.ofNat 64 sd.pos
  ((List.range f.tiles).flatMap (fun t => (List.range f.rows).flatMap (fun r =>
    let a := (t * sd.stride + r * sd.pitch) / 512
    (List.range (f.rowBytes sd / 512)).map (fun i => inkRow l + a + i)))).eraseReps

/-- The check of every inkwell row before the first write (R171). -/
def State.feedRows (s : State) (die : Nat) (f : FeedDesc) (op : FeedOp) : Option (Nat × Nat) :=
  (((f.sides op).filter (fun sd => sd.kind == 1)).flatMap (fun sd =>
    let k := s.core (coreKey die sd.core)
    let l := BitVec.ofNat 64 sd.pos
    let o := BitVec.ofNat 64 sd.opos
    k.checkRows (inkHandle l) (f.sideRows sd) sd.write
      :: (if sd.word.scale = 2 then
        [k.checkRows (inkHandle o) ((List.range ((f.offBytes + 511) / 512)).map (fun i => inkRow o + i)) sd.write]
        else []))).findSome? (fun r => match r with
    | .ok _ => none
    | .revoked => some (5, 1)
    | .fault _ _ => some (11, 5))

/-- A transfer begins, its feeds at their first tiles (R249). (DEDUCED: log entry 9). -/
def State.feedBegin (s : State) (t : XferRef) (x : Xfer) (feeds : List Nat) : State :=
  let f := FeedDesc.parse x.desc
  let x0 := { x with feeds := feeds, lanes := feeds.zipIdx.map (fun p => { tile := p.2 }), nibs := [], cover := [], sat := 0
                     flush := 0, phase := .running }
  match s.feedRows (xferDie t) f x.op with
  | some (code, detail) => s.putXfer t (x0.stop code detail)
  | none => ((List.range (min feeds.length f.tiles)).foldl (fun s k => s.prefetch t x0 f k) (s.putXfer t x0))

/-- A cp1 transfer takes its feeds, when enough are free; with commands of the die that wait for feeds it takes turns (R252).
(DEDUCED: log entry 48). -/
def State.cp1Begin (s : State) (t : XferRef) (x : Xfer) (n : Nat) : State :=
  let die := xferDie t
  if s.feedCmdWaits die && (s.die die).cp1Last then s else
  match s.freeFeeds die (s.xferFn t) n with
  | some l => (s.updDie die (fun d => { d with cp1Last := true })).feedBegin t x l
  | none => s

/-- A transfer moves on by one line. A cp1 transfer takes its feeds first. (DEDUCED: log entry 48). -/
def State.feedMove (s : State) (t : XferRef) (op : FeedOp) : State :=
  match s.xfer t with
  | none => s
  | some x =>
    if x.op != op || x.phase != .running then s else
    let f := FeedDesc.parse x.desc
    if x.feeds.isEmpty then s.cp1Begin t x f.feeds else
    match x.next with
    | none => s
    | some (i, l) =>
    if f.rows * f.elems ≤ l.elem then s else
    let e := s.lineEnd (s.xferFn t) f op l.tile l.elem
    let acc := f.inkAccesses op l.tile (rowSpans f.elems (e - l.elem + 1) l.elem e)
    match acc.findSome? (fun a => s.inkBar (xferDie t) a.1 a.2.1 a.2.2.1 a.2.2.2) with
    | some (.ends code detail) => s.putXfer t (x.stop code detail)
    | some (.ecc key h rel phys) =>
      (s.updCore key (fun k => k.eccRecord phys false)).feedFault t (x.feed i) 2 (inkFaultAddr h rel phys) key h rel
    | some .waits => s
    | none =>
      match (s.inkFix (xferDie t) acc).moveLine t x f i l e with
      | .ok x2 s2 => (s2.accessDone (.feed t) (s2.xferJob t)).putXfer t x2
      | .wait s2 => s2
      | .page cause va wr s2 => s2.feedStall t x i cause va wr
      | .poison spa s2 => s2.feedFault t (x.feed i) 3 spa 0 0 0
      | .lost reason s2 => s2.putXfer t (x.stop 10 (reason * 2 ^ 16))
      | .trap _ _ s2 => s2

/-- An event of a transfer; a cp1 transfer names a context. -/
def onXfer (t : XferRef) (s : State) : Result :=
  match t with
  | .cmd _ => .next s
  | .cp1 c _ => onCtx c s

/-- FEED_COPY: elements and offsets bit for bit, or source lines into their die cache (R249). -/
def execFeedCopy (t : XferRef) (s : State) : Result := onXfer t (s.feedMove t .copy)

/-- FEED_FILL: PATTERN into every destination element, rounded (R249). -/
def execFeedFill (t : XferRef) (s : State) : Result := onXfer t (s.feedMove t .fill)

/-- FEED_CONVERT: each element by value (R249). -/
def execFeedConvert (t : XferRef) (s : State) : Result := onXfer t (s.feedMove t .convert)

/-- A feed has finished a tile and starts the next, with its prefetch walks (R212); trace event 5 (R376). -/
def State.tileComplete (s : State) (t : XferRef) : State :=
  match s.xfer t with
  | none => s
  | some x =>
    let f := FeedDesc.parse x.desc
    if x.phase != .running || x.feeds.isEmpty then s else
    match x.next with
    | none => s
    | some (i, l) =>
    if l.elem < f.rows * f.elems then s else
    let (q, n) := match s.xferJob t with
      | some r => (r.queue.toNat, r.seq.toNat)
      | none => (0, 0)
    let s1 := s.trace (xferDie t) (s.xferFn t) 5 none (xferCtx t) q n (l.tile + x.feed i * 2 ^ 32)
    let next := l.tile + x.feeds.length
    let x1 := x.setLane i { tile := next }
    let s2 := s1.putXfer t x1
    if next < f.tiles then s2.prefetch t x1 f next else s2

/-- Tile completion. -/
def execFeedTileComplete (t : XferRef) (s : State) : Result := onXfer t (s.tileComplete t)

/-- The end of a transfer: its status and DETAIL, when every line has been moved or it is to stop. -/
def Xfer.ending (x : Xfer) : Option (Nat × Nat) :=
  match x.phase with
  | .stopping c d => some (c, d)
  | .running => if !x.feeds.isEmpty && x.tilesDone then some (0, 0) else none
  | _ => none

/-- What a transfer that ends still has at its die goes: page faults that are to be answered (R216) and reads. -/
def State.endXfer (s : State) (t : XferRef) : State :=
  (s.updDie (xferDie t) (fun d => d.dropFeedFaults (fun y => y == t))).forgetReads (fun e => e == .feed t)

/-- A transfer completes when its last write is complete at its destination (R235, R252). The counts of a command's
transfer go to its reply (R53), those of a cp1 transfer to its context (R52); codes 5 and 6 of a cp1 transfer also
become the status of its LAUNCH. -/
def State.transferComplete (s : State) (t : XferRef) : State :=
  match s.xfer t with
  | none => s
  | some x =>
    match x.ending with
    | none => s
    | some (code, detail) =>
      if s.fab.unacked.any (fun u => u.engine == some (.feed t)) then s else
      let s := s.endXfer t
      match t with
      | .cmd r => s.updCmd r (fun c => { c with
          sat := satAdd 16 c.sat x.sat, flush := satAdd 16 c.flush x.flush }.finish code detail)
      | .cp1 c tag =>
        let s1 := (s.putXfer (.cp1 c tag) { x with phase := .complete code detail }).addCounts c.key c.idx x.sat x.flush
        match (s.ctxOf c).job with
        | some r => if code = 5 ∨ code = 6 then s1.updCmd r (fun m => m.outcome code detail) else s1
        | none => s1

/-- Transfer completion. -/
def execFeedTransferComplete (t : XferRef) (s : State) : Result := onXfer t (s.transferComplete t)

/-- Reads n bytes of an image at a locator of a cp1 or cp2 instruction (R314): the locator is checked first, then the
image is read. -/
def State.imageRead (s : State) (c : CtxRef) (l : Word) (n : Nat) (f : List Byte → State → State) : State :=
  if isInk l then
    if inkLocBad l then s.takeTrap c 3 l else
    s.inkChecked c (inkHandle l) ((s.core c.key).checkRows (inkHandle l) [inkRow l] false) (fun base =>
      s.inkReadable c (inkHandle l) base [inkRow l]
        (f ((rowBytes ((s.core c.key).row (base + inkRow l))).take n)))
  else if l.toNat % 64 ≠ 0 then s.takeTrap c 3 l
  else if vaBad l then s.takeTrap c 5 l
  else
    let x := s.ctxOf c
    State.accEnd c 0 ((s.locateAll (s.ctxAgent c) l.toNat n .read).bind (fun ls s1 =>
      match ls.find? (fun p => match p.2.1 with | .stack _ => false | _ => true) with
      | some p => .trap 5 (BitVec.ofNat 64 p.1) s1
      | none =>
        if ls.any (fun p => x.vecStoreMeets p.2.1 p.2.2) then .wait s else
        accCollect (fun (p : Nat × Loc × Nat) s => s.coreRead (s.ctxAgent c) c.key c.idx p.1 p.2.1 p.2.2) ls s1)) (fun bs s => f bs (s.ctxDone c))

/-- The lowest of four tags that nothing outstanding holds. (DEDUCED: log entry 49). -/
def freeTag (busy : Nat → Bool) : Option Nat := (List.range 4).find? (fun t => !(busy t))

/-- FEED.START: reads a descriptor, checks it and starts a transfer, whose tag goes to xd (R252). Its draws are the
context's next ones (R47). (DEDUCED: log entry 49). -/
def execFeedStart (c : CtxRef) (w : Word32) (s : State) : Result :=
  s.issue .feedStart c w (fun s => s.imageRead c ((s.ctxOf c).rx (wRs1 w)) 112 (fun bs s =>
    let x := s.ctxOf c
    let d := BitVec.ofNat 896 (leNat bs)
    let f := FeedDesc.parse d
    if (s.feedCheck (s.tenantOf c.key) c.die.toNat f.op f).isSome then s.trapOperand c w else
    match freeTag (fun t => match SMap.find x.feedTags t with | some y => !y.isComplete | none => false) with
    | none => s
    | some tag =>
      let n := f.drawCount f.op
      if n ≠ 0 && !x.vq.isEmpty then s else
      let new : Xfer := { op := f.op, desc := d, gen := x.gen }
      s.commit c (fun y => { y.wx (wRd w) (BitVec.ofNat 64 tag) with
        feedTags := SMap.set y.feedTags tag new
        gen := if n = 0 then y.gen else .val (lfsrAfter n y.gen.value) })))

/-- FEED.WAIT: waits for the transfer with tag x[rs1]; its status goes to xd, and 0 for a tag that is not outstanding
(R252). (DEDUCED: log entry 49). -/
def execFeedWait (c : CtxRef) (w : Word32) (s : State) : Result :=
  s.issue .feedWait c w (fun s =>
    let tag := ((s.ctxOf c).rx (wRs1 w)).toNat
    match SMap.find (s.ctxOf c).feedTags tag with
    | none => s.commit c (fun y => y.wx (wRd w) 0)
    | some x =>
      match x.phase with
      | .complete code _ =>
        s.commit c (fun y => { y.wx (wRd w) (BitVec.ofNat 64 code) with feedTags := SMap.del y.feedTags tag })
      | _ => s)

end Sys2Proof.Machine
end

