-- ==== Sys2Proof/Machine/Msg.lean ====
section
/-! DEFINITION. Messages that have reached this module: taking the next one of a kind, acknowledging it (R294), and the
check of a remote request against its window (R220, R222). -/

namespace Sys2Proof.Machine

/-- CRC-64 of bytes: the polynomial of ECMA-182, most significant bit first, from all ones, inverted (R281). -/
def crc64 (bs : List Byte) : BitVec 64 :=
  let step (c : BitVec 64) (_ : Nat) : BitVec 64 :=
    if c.getLsbD 63 then (c <<< 1) ^^^ 0x42F0E1EBA9EA3693#64 else c <<< 1
  ~~~(bs.foldl (fun (c : BitVec 64) (b : Byte) => (List.range 8).foldl step (c ^^^ (b.setWidth 64 <<< 56))) (BitVec.allOnes 64))

/-- LTYPE, STEP, OPSEQ and GID of a ligature message (R317). -/
structure LigHdr where
  gid : Nat
  ltype : Nat
  step : Nat
  opseq : Nat
  deriving DecidableEq, Repr

/-- Reads KSPEC of a ligature message. -/
def MsgHdr.lig (h : MsgHdr) : LigHdr :=
  { gid := h.kspec % 2 ^ 16, ltype := h.kspec / 2 ^ 16 % 256, step := h.kspec / 2 ^ 24 % 256,
    opseq := h.kspec / 2 ^ 32 % 2 ^ 16 }

/-- The oldest delivered message that a test picks, with its class, and the state without it. -/
def State.takeDelivered (s : State) (p : MsgHdr → Bool) : Option (Delivered × State) :=
  (s.fab.inbox.find? (fun m => p (msgHdr m.flits))).map (fun m =>
    (m, s.updFab (fun f => { f with inbox := delFirst (fun x => p (msgHdr x.flits)) f.inbox })))

/-- The oldest delivered message that a test picks, and the state without it. -/
def State.takeMsg (s : State) (p : MsgHdr → Bool) : Option (List (BitVec 1920) × State) :=
  (s.takeDelivered p).map (fun m => (m.1.flits, m.2))

/-- Acknowledges a message (R294); a refusal carries its reason in one payload byte. -/
def State.sendAck (s : State) (h : MsgHdr) (refusal : Option Nat) : State :=
  match s.sendPlain { func := 0, queue := h.queue, cls := 7 }
      { dest := h.src, kind := 4, queue := h.queue, mseq := h.mseq }
      (match refusal with | some r => leBytes 1 r | none => []) with
  | .sent s1 => s1
  | _ => s

/-- The first failed check of a request of n bytes that needs some permissions (R222). (DEDUCED: log entry 29). -/
def Window.check (w : Window) (srcgrp offset n : Nat) (rd wr red : Bool) : Option Nat :=
  if !w.valid then some 0
  else if w.srcGrp ≠ 0xFF && w.srcGrp ≠ srcgrp then some 1
  else if (rd && !w.rd) || (wr && !w.wr) || (red && !w.red) then some 2
  else if w.size * 256 < offset + n then some 3
  else none

/-- The refusal that tells a sender of a window that a RECLAIM has revoked (R254). (DESIGN CHOICE: log entry 55). -/
def refusalRevoked : Nat := 128

/-- A refused request (R222, R254): a TYPE 2 record for the window's owner, or the managing function when VALID is 0, and the
reason in the acknowledgement. (DEDUCED: log entry 29; DESIGN CHOICE: log entry 55). -/
def State.refuse (s : State) (h : MsgHdr) (reason : Nat) : State :=
  let w := s.window h.window
  let fn := if w.valid then some w.tenant else s.mgmt
  let place := h.src * 1024 + (h.queue / 512) % 32 * 32 + 31
  let s1 := match fn with
    | some n => s.record n (recordBytes h.offset 0 2 reason place 0 0 h.window)
    | none => s
  s1.sendAck h (some (if w.revoked && reason == 0 then refusalRevoked else reason))

/-- The virtual address of a window offset. -/
def Window.va (w : Window) (offset : Nat) : Nat := w.baseVa * 256 + offset

/-- Bytes read in a tenant's table on behalf of another module, through the die cache (R186), and the state after the read:
none while a page is not a stack or host page, or a host byte has not been shown yet. (DEDUCED: log entry 59). -/
def State.readTrusted (s : State) (fn va n : Nat) : Option (List Byte × State) :=
  (vaParts va n).foldl (fun o p => o.bind (fun (b : List Byte × State) =>
    let s1 := b.2.walkTouch fn p.1
    match b.2.translate fn p.1 .read with
    | .at (.stack a) _ _ =>
      if (s1.poisonedIn a p.2).isSome then none
      else some (b.1 ++ Memory.readBytes s1.mem a p.2, s1.cacheRead a p.2 fn 0)
    | .at (.host l a) _ _ => (knownBytes s1.host (hostKey l a) p.2).map (fun x => (b.1 ++ x, s1))
    | _ => none)) (some ([], s))

end Sys2Proof.Machine
end

