-- ==== Sys2Proof/Machine/Reservoir.lean ====
section
/-! DEFINITION. The reservoir: entry tags (R87), writing and combining values (R89, R92, R95, R105), the value a
read takes (R98, R107) and raw records (R108). Entry e of bank b has number b × 16384 + e. -/

namespace Sys2Proof.Machine

/-- An entry's tag (R87). -/
structure Tag where
  scl : Nat := 0
  leaves : Nat := 0
  loss : Bool := false
  sat : Bool := false
  ninf : Bool := false
  pinf : Bool := false
  nan : Bool := false
  dom : Nat := 0
  deriving DecidableEq, Repr

/-- Reads a tag; bits [31:29] are reserved. -/
def Tag.ofBits (t : BitVec 32) : Tag :=
  { scl := fld t 13 16, leaves := fld t 8 5, loss := t.getLsbD 7, sat := t.getLsbD 6, ninf := t.getLsbD 5,
    pinf := t.getLsbD 4, nan := t.getLsbD 3, dom := fld t 0 3 }

/-- The tag's 32 bits. -/
def Tag.bits (t : Tag) : BitVec 32 :=
  BitVec.ofNat 32 (t.scl % 2 ^ 16 * 2 ^ 13 + t.leaves % 32 * 2 ^ 8 + b2n t.loss * 2 ^ 7 + b2n t.sat * 2 ^ 6
    + b2n t.ninf * 2 ^ 5 + b2n t.pinf * 2 ^ 4 + b2n t.nan * 2 ^ 3 + t.dom % 8)

/-- C, the signed sum of the two coarse scales (SCL[8:0]). -/
def Tag.c (t : Tag) : Int := (BitVec.ofNat 9 t.scl).toInt

/-- G, the signed exponent of a HATCHED entry. -/
def Tag.g (t : Tag) : Int := (BitVec.ofNat 16 t.scl).toInt

/-- SCL of a scale C. -/
def sclOfC (c : Int) : Nat := (BitVec.ofInt 9 c).toNat

/-- SCL of an exponent G. -/
def sclOfG (g : Int) : Nat := (BitVec.ofInt 16 g).toNat

/-- A value for the reservoir: a tag with the low and the high 128 data bits of a raw record (R108). -/
structure RVal where
  tag : Tag
  lo : BitVec 128
  hi : BitVec 128
  deriving DecidableEq, Repr

/-- Flags of R93 as bits: NAN 1, PINF 2, NINF 4. -/
def Tag.withFlags (t : Tag) (fl : Nat) : Tag :=
  let n := Nat.testBit fl 0
  let p := Nat.testBit fl 1
  let m := Nat.testBit fl 2
  { t with nan := n || (p && m), pinf := p, ninf := m }

/-- The flags of a tag as bits. -/
def Tag.flags (t : Tag) : Nat := b2n t.nan + 2 * b2n t.pinf + 4 * b2n t.ninf

/-- A FIXED value (R90). -/
def RVal.fixed (q c : Int) (fl : Nat) : RVal :=
  let v := BitVec.ofInt 256 q
  { tag := ({ dom := 1, scl := sclOfC c : Tag }).withFlags fl, lo := v.setWidth 128, hi := v.extractLsb' 128 128 }

/-- An FP32 value of one leaf (R95). -/
def RVal.leaf (x : BitVec 32) (c : Int) : RVal :=
  { tag := { dom := 2, scl := sclOfC c, leaves := 1 }, lo := x.setWidth 128, hi := 0 }

/-- A HATCHED value (R105). -/
def RVal.hatched (d g : Int) (fl : Nat) : RVal :=
  let v := BitVec.ofInt 256 d
  { tag := ({ dom := 3, scl := sclOfG g : Tag }).withFlags fl, lo := v.setWidth 128, hi := v.extractLsb' 128 128 }

/-- The FIXED data as a number. -/
def RVal.q (v : RVal) : Int := v.lo.toInt

/-- The HATCHED data as a number. -/
def RVal.q256 (v : RVal) : Int := (v.hi ++ v.lo).toInt

/-- A raw record is well formed (R89). (DEDUCED: log entry 20). -/
def RVal.wellFormed (v : RVal) : Bool := decide (v.tag.dom < 4) && !(v.tag.dom == 2 && decide (16 < v.tag.leaves))

/-- Slot j of FP32 data (R94). -/
def slot (d : BitVec 128) (j : Nat) : BitVec 32 := d.extractLsb' (32 * j) 32

/-- The data with a slot replaced. -/
def setSlot (d : BitVec 128) (j : Nat) (x : BitVec 32) : BitVec 128 := ins d (32 * j) 32 x.toNat

/-- The carry chain of add_leaf from slot j on (R95). -/
def leafCarry (n : Nat) : Nat → Nat → BitVec 128 → BitVec 32 → BitVec 128
  | 0, j, d, x => setSlot d (min j 3) x
  | fuel + 1, j, d, x =>
    if Nat.testBit n j then leafCarry n fuel (j + 1) (setSlot d j 0) (fp32Add (slot d j) x)
    else setSlot d (if j = 4 then 3 else j) x

/-- add_leaf (R95): the data and LEAVES after one more leaf. -/
def addLeaf (d : BitVec 128) (n : Nat) (x : BitVec 32) : BitVec 128 × Nat :=
  if n = 16 then (setSlot d 3 (fp32Add (slot d 3) x), 16) else (leafCarry n 4 0 d x, n + 1)

/-- Slot j is occupied (R94). -/
def slotUsed (n j : Nat) : Bool := if n = 16 then j == 3 else Nat.testBit n j

/-- read_fp32 (R95). -/
def readFp32 (d : BitVec 128) (n : Nat) : BitVec 32 :=
  ((List.range 4).foldl (fun (v : Option (BitVec 32)) j =>
    if !slotUsed n j then v else
    match v with
    | none => some (slot d j)
    | some v => some (fp32Add (slot d j) v)) none).getD 0

/-- Whether a signed number fits in n bits. -/
def fitsInt (n : Nat) (v : Int) : Bool := decide (-(2 ^ (n - 1) : Int) ≤ v ∧ v < 2 ^ (n - 1))

/-- A signed number saturated to n bits, and whether it was (R92). -/
def satInt (n : Nat) (v : Int) : Int × Bool :=
  if fitsInt n v then (v, false) else (if v < 0 then -(2 ^ (n - 1) : Int) else 2 ^ (n - 1) - 1, true)

/-- A sum shifted right, toward zero, until it fits in 256 bits, at most `n` times; the shift count. -/
def fitShift : Nat → Nat → Int → Nat
  | 0, k, _ => k
  | n + 1, k, v => if fitsInt 256 (Int.tdiv v (2 ^ k)) then k else fitShift n (k + 1) v

/-- The combination of two HATCHED values (R105): data, G, LOSS and SAT. -/
def hatchedSum (q1 g1 q2 g2 : Int) : Int × Int × Bool × Bool :=
  let g := min g1 g2
  let room := (max g1 g2 - g).toNat
  let v := q1 * 2 ^ (g1 - g).toNat + q2 * 2 ^ (g2 - g).toNat
  let k := fitShift room 0 v
  let (q, sat) := satInt 256 (Int.tdiv v (2 ^ k))
  (q, g + k, decide (0 < k), sat)

/-- What a write or a combination does to an entry: the new value, a mismatch, a saturation. -/
structure Combined where
  val : RVal
  mismatch : Bool := false
  ovf : Bool := false
  deriving DecidableEq, Repr

/-- The combination of an entry with a new value: the first case of R89 that holds. (DEDUCED: log entry 20). SAT and LOSS
of a combination are the OR of both values' and of the combination's own, in the domains that have them; a value that is
written keeps its SAT and LOSS as they are (DESIGN CHOICE, log entry 76: R89 gives the OR for NAN, PINF and NINF only). -/
def combine (e v : RVal) : Combined :=
  if !v.wellFormed then
    { val := { tag := { dom := 1, nan := true }, lo := 0, hi := 0 }, mismatch := true }
  else if e.tag.dom = 0 then { val := v }
  else
  let fl := (e.tag.flags ||| v.tag.flags)
  if e.tag.dom = 1 && v.tag.dom == 1 && e.tag.c == v.tag.c then
    let (q, sat) := satInt 128 (e.q + v.q)
    let b := BitVec.ofInt 256 q
    { val := { tag := ({ e.tag with sat := e.tag.sat || v.tag.sat || sat }).withFlags fl,
               lo := b.setWidth 128, hi := b.extractLsb' 128 128 }, ovf := sat }
  else if e.tag.dom = 2 && v.tag.dom == 2 && e.tag.c == v.tag.c then
    let (d, n) := addLeaf e.lo e.tag.leaves (readFp32 v.lo v.tag.leaves)
    { val := { tag := ({ e.tag with leaves := n }).withFlags fl, lo := d, hi := 0 } }
  else if e.tag.dom = 3 && v.tag.dom == 3 then
    let (q, g, loss, sat) := hatchedSum e.q256 e.tag.g v.q256 v.tag.g
    let b := BitVec.ofInt 256 q
    { val := { tag := ({ e.tag with scl := sclOfG g, loss := e.tag.loss || v.tag.loss || loss,
                                    sat := e.tag.sat || v.tag.sat || sat }).withFlags fl,
               lo := b.setWidth 128, hi := b.extractLsb' 128 128 }, ovf := sat }
  else { val := { v with tag := { v.tag with nan := true } }, mismatch := true }

/-- The value that entry number n of a core holds: a HATCHED entry spans both banks. -/
def Core.entryVal (k : Core) (n : Nat) : RVal :=
  let e := SMap.get k.res n {}
  let t := Tag.ofBits e.tag
  if t.dom = 3 then
    { tag := t, lo := (SMap.get k.res (n % 16384) {}).data, hi := (SMap.get k.res (n % 16384 + 16384) {}).data }
  else { tag := t, lo := e.data, hi := if t.dom = 1 then (if e.data.msb then BitVec.allOnes 128 else 0) else 0 }

/-- Puts an entry; EMPTY entries with data 0 are not listed. -/
def putEntry (m : SMap ResEntry) (n : Nat) (e : ResEntry) : SMap ResEntry :=
  if e = {} then SMap.del m n else SMap.set m n e

/-- The entries that a value written to entry n stores: both halves of a HATCHED value (R105). Any other value replaces
entry n alone; the other half of a HATCHED pair keeps its data and tag, and a later read takes the pair as it then stands
(DESIGN CHOICE, log entry 76). -/
def RVal.entries (v : RVal) (n : Nat) : List (Nat × ResEntry) :=
  if v.tag.dom = 3 then
    [(n % 16384, { data := v.lo, tag := v.tag.bits }), (n % 16384 + 16384, { data := v.hi, tag := v.tag.bits })]
  else [(n, { data := v.lo, tag := v.tag.bits })]

/-- Writes a value to entry n. -/
def Core.putVal (k : Core) (n : Nat) (v : RVal) : Core :=
  { k with res := (v.entries n).foldl (fun m p => putEntry m p.1 p.2) k.res }

/-- Counts of a context's RSV_EVT (R109). -/
structure ResCounts where
  mismatch : Nat := 0
  ovf : Nat := 0
  deriving DecidableEq, Repr

/-- Combines a value into entry n of a core. A HATCHED value tests the tag in res0. -/
def Core.combineAt (k : Core) (n : Nat) (v : RVal) (cnt : ResCounts) : Core × ResCounts :=
  let r := combine (k.entryVal (if v.tag.dom = 3 then n % 16384 else n)) v
  (k.putVal n r.val, { mismatch := cnt.mismatch + b2n r.mismatch, ovf := cnt.ovf + b2n r.ovf })

/-- Writes (ACC 0) or combines (ACC 1) a value, then combines the others, in order. -/
def Core.accumulate (k : Core) (n : Nat) (acc : Bool) (vs : List RVal) (cnt : ResCounts) : Core × ResCounts :=
  match vs with
  | [] => (k, cnt)
  | v :: rest =>
    let first := if acc then k.combineAt n v cnt else (k.putVal n v, cnt)
    rest.foldl (fun a v => a.1.combineAt n v a.2) first

/-- The values of a pass's output in the order in which they reach the entry: the drains of R61, or one. -/
def MmOut.vals : MmOut → List RVal
  | .fixed qs c fl =>
    match qs with
    | [] => []
    | q :: rest => RVal.fixed q c fl :: rest.map (fun q => RVal.fixed q c 0)
  | .fp32 leaves c => leaves.map (fun x => RVal.leaf x c)
  | .hatched d g fl => [RVal.hatched d g fl]

/-- The value of flags and a number (R93). -/
def flaggedVal (t : Tag) (v : FVal) : FVal :=
  if t.nan then qnan else if t.pinf then .inf false else if t.ninf then .inf true else v

/-- x of a reservoir read (R98). -/
def RVal.value (v : RVal) : FVal :=
  match v.tag.dom with
  | 1 => flaggedVal v.tag ((FVal.ofInt v.q).scale (v.tag.c - 62))
  | 2 =>
    let t := (Fmt.fp32.decode (readFp32 v.lo v.tag.leaves).toNat).scale v.tag.c
    if v.tag.nan || t.isNan then qnan
    else if v.tag.pinf then (addF t (.inf false)).1
    else if v.tag.ninf then (addF t (.inf true)).1
    else t
  | 3 => flaggedVal v.tag ((FVal.ofInt v.q256).scale v.tag.g)
  | _ => .fin false 0 0

/-- The 64 bytes of a raw record as a number (R108). -/
def RVal.rawBits (v : RVal) : BitVec 512 :=
  (0#224 ++ v.tag.bits ++ (if v.tag.dom = 3 ∨ v.tag.dom = 1 then v.hi else 0) ++ v.lo : BitVec 512)

/-- The value that a raw record carries. What R87 and R108 state to be 0 in the record's domain is 0, whatever the
record's bytes hold: LEAVES outside FP32, SCL[15:9] outside HATCHED, the data and SCL of an EMPTY record; the upper half is
the sign extension of a FIXED record's byte 15. (DEDUCED: log entry 20). -/
def RVal.ofRaw (b : BitVec 512) : RVal :=
  let t := Tag.ofBits (b.extractLsb' 256 32)
  let lo := if t.dom = 0 then 0 else b.extractLsb' 0 128
  { tag := { t with leaves := if t.dom = 2 then t.leaves else 0, scl := if t.dom = 3 then t.scl else if t.dom = 0 then 0 else t.scl % 512 },
    lo := lo,
    hi := if t.dom = 3 then b.extractLsb' 128 128
          else if t.dom = 1 then (if lo.msb then BitVec.allOnes 128 else 0) else 0 }

/-- A well-formed FP32 record. -/
def RVal.isTree (v : RVal) : Bool := v.tag.dom == 2 && v.wellFormed

/-- An FP32 record as one leaf, whose value is its read_fp32 (R108). -/
def RVal.asLeaf (v : RVal) : RVal :=
  if v.isTree then { v with tag := { v.tag with leaves := 1 }, lo := (readFp32 v.lo v.tag.leaves).setWidth 128 } else v

/-- The joined pending subtrees of two trees, the lower ranks' on the left (R97): two subtrees of one level join into one
of the next, those of different levels stay apart while a record can hold them, and beyond 16 leaves slot 3 holds the root.
(DEDUCED: log entry 76). -/
def treeMerge (a b : BitVec 128) (n m : Nat) : BitVec 128 × Nat :=
  if n = m ∧ (n = 1 ∨ n = 2 ∨ n = 4 ∨ n = 8) then
    (setSlot 0 (min 3 (Nat.log2 n + 1)) (fp32Add (slot a (Nat.log2 n)) (slot b (Nat.log2 n))), 2 * n)
  else if n &&& m = 0 ∧ n + m < 16 then (a ||| b, n + m)
  else (setSlot 0 3 (fp32Add (readFp32 a n) (readFp32 b m)), 16)

/-- The combination of two records in the deterministic modes (R318, R320): FP32 records of one scale join their trees, and every
other pair follows R89. -/
def combineTree (a b : RVal) : RVal :=
  if a.isTree && b.isTree && a.tag.c == b.tag.c then
    let (d, n) := treeMerge a.lo b.lo a.tag.leaves b.tag.leaves
    { tag := ({ a.tag with leaves := n }).withFlags (a.tag.flags ||| b.tag.flags), lo := d, hi := 0 }
  else (Machine.combine a b).val

end Sys2Proof.Machine
end

