-- ==== Sys2Proof/Machine/LigPattern.lean ====
section
/-! DEFINITION. The message pattern of the collectives (R315, R316): which positions of an operation's data a rank sends
to another rank in a step, and how received data joins what a member holds (R318 to R320). -/

namespace Sys2Proof.Machine

/-- The least k with n ≤ 2^k. -/
def ceilLog2 (n : Nat) : Nat := if n ≤ 1 then 0 else Nat.log2 (n - 1) + 1

/-- The blocks of R315: first rank and size, the largest first. (DEDUCED: log entry 61). -/
def ligBlocks (n : Nat) : List (Nat × Nat) :=
  ((List.range (Nat.log2 n + 1)).reverse.foldl (fun (a : List (Nat × Nat) × Nat) k =>
    if Nat.testBit n k then (a.1 ++ [(a.2, 2 ^ k)], a.2 + 2 ^ k) else a) ([], 0)).1

/-- The block of a rank: its place in the list, its first rank and its size. -/
def ligBlock (n r : Nat) : Nat × Nat × Nat :=
  let bs := ligBlocks n
  let i := (bs.findIdx? (fun b => decide (b.1 ≤ r ∧ r < b.1 + b.2))).getD 0
  let b := bs.getD i (0, 1)
  (i, b.1, b.2)

/-- Recursive doubling for any n: in step t, rank r receives what the sibling of its block of 2^t ranks holds, from the
rank at its own place in the sibling. The answer is the sibling's first rank and its size, when q is that sender.
(DEDUCED: log entry 61). -/
def doubling (n t q r : Nat) : Option (Nat × Nat) :=
  let b := r / 2 ^ t
  let sib := if b % 2 = 0 then b + 1 else b - 1
  let base := sib * 2 ^ t
  let size := min (2 ^ t) (n - base)
  if base < n && q == base + (r - b * 2 ^ t) % size then some (base, size) else none

/-- The steps of an operation after its digest round (R316). -/
def Coll.steps (c : Coll) (n : Nat) : Nat :=
  let l := Nat.log2 n
  let b := (ligBlocks n).length
  match c.op with
  | 0x30 => if c.mode = 1 then 1 + ceilLog2 n else if b = 1 then 2 * l else 2 * l + b
  | 0x31 => if c.mode = 1 then 1 else if b = 1 then l else l + b
  | 0x34 => n - 1
  | _ => ceilLog2 n

/-- What becomes of data received in a step. -/
inductive Join where
  | left
  | right
  | replace
  | toChunk (chunk : Nat)
  deriving DecidableEq, Repr

/-- The recursive halving and doubling of modes 0 and 2 (R315): the classes that q sends to r in step t, and how they
join. A position's class is its chunk in a reduce-scatter, and its index in an all-reduce. -/
def halving (n : Nat) (scatter : Bool) (t q r : Nat) : Option ((Nat → Bool) × Join) :=
  let l := Nat.log2 n
  let p := 2 ^ l
  let b := (ligBlocks n).length
  let (iq, bq, sq) := ligBlock n q
  let (ir, br, sr) := ligBlock n r
  if t < l then
    if iq = ir && decide (2 ^ t < sr) && (q - bq) == ((r - br) ^^^ 2 ^ t) then
      some (fun c => c % sr % 2 ^ (t + 1) == (r - br) % 2 ^ (t + 1), if q < r then .left else .right)
    else none
  else if t < l + b - 1 then
    if iq = b - 1 - (t - l) && ir + 1 == iq && (r - br) % sq == q - bq then
      some (fun c => c % sr == r - br, .right)
    else none
  else
    let u := t - (l + b - 1)
    if scatter then (if u = 0 && iq == 0 && r == p + q then some (fun c => c == r, .replace) else none)
    else if u < l then
      let k := l - 1 - u
      if iq = 0 && ir == 0 && q == (r ^^^ 2 ^ k) then
        some (fun c => c % p % 2 ^ (k + 1) == q % 2 ^ (k + 1), .replace)
      else none
    else if r == p + q then some (fun _ => true, .replace) else none

/-- The positions that rank q sends to rank r in step t, and how they join (R315). (DEDUCED: log entry 61). -/
def Coll.moves (c : Coll) (n t q r : Nat) : Option ((Nat → Bool) × Join) :=
  if q = r then none else
  let chunk (p : Nat) : Nat := p / max 1 c.count
  match c.op with
  | 0x30 =>
    if c.mode = 1 then
      if t = 0 then some (fun p => p % n == r, .right)
      else (doubling n (t - 1) q r).map (fun b => (fun p => decide (b.1 ≤ p % n ∧ p % n < b.1 + b.2), .replace))
    else halving n false t q r
  | 0x31 =>
    if c.mode = 1 then (if t = 0 then some (fun p => chunk p == r, .right) else none)
    else (halving n true t q r).map (fun m => (fun p => m.1 (chunk p), m.2))
  | 0x33 =>
    let a := (q + n - c.root) % n
    if a < 2 ^ t && (r + n - c.root) % n == a + 2 ^ t then some (fun _ => true, .replace) else none
  | 0x34 => if r = (q + t + 1) % n then some (fun p => chunk p == r, .toChunk q) else none
  | _ => (doubling n t q r).map (fun b => (fun p => decide (b.1 ≤ chunk p ∧ chunk p < b.1 + b.2), .replace))

/-- Positions of the data that a member works on. -/
def Coll.positions (c : Coll) (n : Nat) : Nat :=
  match c.op with
  | 0x30 | 0x33 => c.count
  | 0x35 => 0
  | _ => n * c.count

/-- Bytes of one element in messages: an accumulator of R318, a raw record, or a copied element. Copied FP4 elements
travel one to a byte. -/
def Coll.elemBytes (c : Coll) : Nat :=
  if c.raw then 64
  else match (FmtWord.parse c.sfmt).map (fun w => w.fmt) with
    | none => 1
    | some f =>
      if c.reduces then (match f with | .fp64 | .int32 | .int64 => 8 | _ => 4) else (f.width + 7) / 8

/-- Positions in a segment: a reducing operation moves at most 1 MiB of accumulator data per member at a time (R315). -/
def Coll.segLen (c : Coll) (n : Nat) : Nat := if c.reduces then 2 ^ 20 / c.elemBytes else max 1 (c.positions n)

/-- Segments of an operation (R315): one at least. -/
def Coll.segs (c : Coll) (n : Nat) : Nat := max 1 ((c.positions n + c.segLen n - 1) / c.segLen n)

/-- Steps that the operation takes over all its segments. -/
def Coll.allSteps (c : Coll) (n : Nat) : Nat := c.segs n * c.steps n

/-- What rank q sends to rank r in the g-th step of the operation: the segments take their steps one after another.
(DEDUCED: log entry 61). -/
def Coll.movesAt (c : Coll) (n g q r : Nat) : Option ((Nat → Bool) × Join) := c.moves n (g % max 1 (c.steps n)) q r

/-- The positions of a segment, in order. -/
def Coll.segment (c : Coll) (n seg : Nat) : List Nat :=
  (List.range (min (c.segLen n) (c.positions n - seg * c.segLen n))).map (fun i => seg * c.segLen n + i)

/-- The positions that a predicate picks in the segment of the g-th step, in order. -/
def Coll.picked (c : Coll) (n g : Nat) (p : Nat → Bool) : List Nat := (c.segment n (g / max 1 (c.steps n))).filter p

/-- The accumulator's format (R318): FP64, FP32 or INT64. -/
def Coll.accFmt (c : Coll) : Fmt :=
  match FmtWord.parse c.sfmt with
  | none => .fp32
  | some w => match w.fmt with
    | .fp64 => .fp64
    | .int32 | .int64 => .int64
    | _ => .fp32

/-- An element of the send buffer as the member works on it: widened exactly for a reduction (R318), and one leaf of
the tree when it is an FP32 record of a deterministic mode (R320). -/
def Coll.widen (c : Coll) (code : Nat) : Nat :=
  if !c.reduces then code
  else if c.raw then (if c.mode = 1 then code else (RVal.ofRaw (BitVec.ofNat 512 code)).asLeaf.rawBits.toNat) else
  match (FmtWord.parse c.sfmt).map (fun w => w.fmt) with
  | some f => if f == c.accFmt then code else (convert c.accFmt true .rne (f.decode code)).bits
  | none => code

/-- One combination (R318 to R320): raw records in arrival order under R89, or in the tree of the ranks; FP64 and FP32 with
one rounding, INT64 wrapping. The left record is the content of an entry and R89 tests the right one alone; a left record
that is not well formed is taken as it is (DESIGN CHOICE, log entry 76). -/
def Coll.combine (c : Coll) (a b : Nat) : Nat :=
  if c.raw then
    let x := RVal.ofRaw (BitVec.ofNat 512 a)
    let y := RVal.ofRaw (BitVec.ofNat 512 b)
    (if c.mode = 1 then (Machine.combine x y).val else combineTree x y).rawBits.toNat
  else match c.accFmt with
    | .int64 => (wrapAdd 64 a b).1
    | f => (codeAdd f a b).1

/-- An output element: SFMT's coarse scale applied exactly, then one rounding to DFMT (R318). -/
def Coll.output (c : Coll) (v : Nat) : Conv :=
  if c.raw || !c.reduces then { bits := v } else
  match FmtWord.parse c.sfmt, FmtWord.parse c.dfmt with
  | some a, some b => b.store 0 0 ((c.accFmt.decode v).scale a.cs)
  | _, _ => { bits := v }

/-- The member's elements after data of rank q has joined them: values for the positions picked in
the g-th step, in order. -/
def Coll.join (c : Coll) (n g : Nat) (acc : List Nat) (q : Nat) (m : (Nat → Bool) × Join) (vals : List Nat) (r : Nat) : List Nat :=
  match m.2 with
  | .toChunk k => acc.take (k * c.count) ++ vals.take c.count ++ acc.drop ((k + 1) * c.count)
  | j =>
    let ps := (c.picked n g m.1).zip vals
    (acc.zipIdx).map (fun a =>
      match ps.find? (fun p => p.1 == a.2) with
      | none => a.1
      | some p => match j with
        | .left => c.combine p.2 a.1
        | .right => c.combine a.1 p.2
        | _ => if q = r then a.1 else p.2)

end Sys2Proof.Machine
end

