-- ==== Sys2Proof/Machine/Lig.lean ====
section
/-! DEFINITION. The ligature engine (R306 to R329): launching operations, the digest round, the algorithm's steps, timers,
deferral notices, aborts; LIG.START and LIG.WAIT. -/

namespace Sys2Proof.Machine

/-- The operation's packet. -/
def LigOp.coll (o : LigOp) : Coll := Coll.parse o.image

/-- Two records are of one operation at one member. -/
def LigOp.same (a b : LigOp) : Bool := a.group == b.group && a.die == b.die && a.opseq == b.opseq

/-- Puts an operation's new record. -/
def State.putOp (s : State) (o : LigOp) : State := { s with ligOps := updFirst (fun x => x.same o) (fun _ => o) s.ligOps }

/-- The operation in progress at a member (R313). -/
def State.ligOp (s : State) (gi die : Nat) : Option LigOp :=
  s.ligOps.find? (fun o => o.group == gi && o.die == die && o.phase != .queued)

/-- Members of the group. -/
def State.ligN (s : State) (o : LigOp) : Nat := (s.group o.group).nm1 + 1

/-- The command of an operation, for records and messages. -/
def State.ligCmd (s : State) (o : LigOp) : Option CmdRef :=
  match o.owner with
  | .cmd r => some r
  | .cp2 c _ => (s.ctxOf c).job

/-- The agent of an operation's buffer accesses. -/
def State.ligAgent (s : State) (o : LigOp) : Agent :=
  let q := (s.group o.group).queue o.die
  { fn := o.tenant, die := o.die, cmd := s.ligCmd o, who := none, engine := .ligature o.group o.die, queue := q,
    cls := (s.queue q).prio }

/-- A buffer as a side: a virtual address or an inkwell locator. -/
def LigOp.side (o : LigOp) (recv : Bool) : Side :=
  let l := if recv then o.coll.recv else o.coll.send
  { write := recv, kind := b2n (isInk l), pos := l.toNat, opos := 0, fmt := 0, pitch := 0, stride := 0,
    core := if recv then o.recvCore else o.sendCore, hint := 0 }

/-- A digest record's CRC-64 (R322). -/
def LigOp.digest (o : LigOp) (g : Group) : Nat :=
  let c := o.coll
  (crc64 (leBytes 1 c.op ++ leBytes 1 (c.mode + 4 * b2n c.raw) ++ leBytes 4 c.sfmt.toNat ++ leBytes 4 c.dfmt.toNat
    ++ leBytes 4 c.count ++ leBytes 2 c.root ++ leBytes 2 g.epoch ++ leBytes 2 g.gid ++ leBytes 2 g.nm1 ++ leBytes 2 0
    ++ leBytes 8 g.tabCrc)).toNat

/-- Launches an operation at a member (R313): it takes the next OPSEQ and waits for its turn. One that an abort has
ended completes at once (R327). The answer is its OPSEQ. (DEDUCED: log entry 61; DEDUCED: log entry 62). -/
def State.ligLaunch (s : State) (owner : LigOwner) (fn die : Nat) (img : BitVec 1024) (rs : List Rng) : State × Nat :=
  let c := Coll.parse img
  let g := s.group c.group
  let n := g.nm1 + 1
  let opseq := SMap.get g.launched die 0 + 1
  let o : LigOp :=
    { group := c.group, die := die, opseq := opseq, rank := (s.rankOf g die).getD 0, owner := owner, tenant := fn,
      image := img, sendCore := (coverCore rs false c.send (c.bytes n false)).getD 0,
      recvCore := (coverCore rs true c.recv (c.bytes n true)).getD 0 }
  let here (a : Nat × Nat × Nat) : Bool := a.1 == die && a.2.1 == opseq
  let s1 := s.updGroup c.group (fun g => { g with launched := SMap.set g.launched die opseq
                                                  aborted := g.aborted.filter (fun a => !(here a)) })
  let s2 := { s1 with ligOps := s1.ligOps ++ [o] }
  match g.aborted.find? here with
  | some a => (s2.ligLost o a.2.2, opseq)
  | none => (s2, opseq)

/-- A fetched COLL_* command launches its operation, in the order of its queue (R313); with no module number it completes
with PEER_LOST (R22). (DESIGN CHOICE: log entry 36). -/
def State.collLaunch (s : State) (op : Nat) (r : CmdRef) : State :=
  match s.cmd r with
  | none => s
  | some c =>
    if c.opcode ≠ op || c.isComplete || c.lig.isSome || (s.earlier r).any (fun e => e.lig.isNone) then s
    else if !s.mod.placeValid then s.updCmd r (fun m => m.finish 10 (3 * 2 ^ 16))
    else
      let x := s.ligLaunch (.cmd r) c.tenant r.die c.packet c.ranges
      x.1.updCmd r (fun m => { m with lig := some x.2 })

/-- COLL_ALLREDUCE. -/
def execCollAllreduce (c : CmdRef) (s : State) : Result := .next (s.collLaunch 0x30 c)

/-- COLL_REDSCAT. -/
def execCollRedscat (c : CmdRef) (s : State) : Result := .next (s.collLaunch 0x31 c)

/-- COLL_ALLGATHER. -/
def execCollAllgather (c : CmdRef) (s : State) : Result := .next (s.collLaunch 0x32 c)

/-- COLL_BCAST. -/
def execCollBcast (c : CmdRef) (s : State) : Result := .next (s.collLaunch 0x33 c)

/-- COLL_ALLTOALL. -/
def execCollAlltoall (c : CmdRef) (s : State) : Result := .next (s.collLaunch 0x34 c)

/-- COLL_BARRIER. -/
def execCollBarrier (c : CmdRef) (s : State) : Result := .next (s.collLaunch 0x35 c)

/-- The summary of one member's digest. -/
def DigestSum.one (d : Nat) : DigestSum := { ref := d }

/-- The summary of two neighbouring blocks of ranks (R323), the second of `size` ranks from rank `base` on. Where the second
block's own reference differs from the first's, its ranks count as differing, but those that its summary sets apart with
the first's reference as their digest. (DEDUCED: log entry 61). -/
def DigestSum.join (a b : DigestSum) (base size : Nat) : DigestSum :=
  if b.ref = a.ref then
    { ref := a.ref, low := if a.count ≠ 0 then a.low else b.low, digx := if a.count ≠ 0 then a.digx else b.digx,
      count := a.count + b.count }
  else
    { ref := a.ref, low := if a.count ≠ 0 then a.low else base, digx := if a.count ≠ 0 then a.digx else b.ref,
      count := a.count + (size - (if b.count ≠ 0 ∧ b.digx = a.ref then b.count else 0)) }

/-- The 24 bytes of a summary. (DEDUCED: log entry 61). -/
def DigestSum.bytes (d : DigestSum) : List Byte :=
  leBytes 8 d.ref ++ leBytes 8 d.digx ++ leBytes 2 d.low ++ leBytes 2 (min d.count 0xFFFF) ++ leBytes 4 0

/-- Reads a summary. -/
def DigestSum.parse (bs : List Byte) : DigestSum :=
  { ref := leNat (bs.take 8), digx := leNat ((bs.drop 8).take 8), low := leNat ((bs.drop 16).take 2),
    count := leNat ((bs.drop 18).take 2) }

/-- Puts a message for a member of this module. -/
def State.depositLig (s : State) (m : LigMsg) : State := { s with ligMsgs := s.ligMsgs ++ [m] }

/-- What rank q sends to a member in its current step, in the digest round a summary. -/
def State.ligExpects (s : State) (o : LigOp) (q : Nat) : Bool :=
  let n := s.ligN o
  if o.phase == .digest then (doubling n o.step q o.rank).isSome else (o.coll.movesAt n o.step q o.rank).isSome

/-- The ranks that a member receives from in the current step. -/
def State.ligSources (s : State) (o : LigOp) : List Nat := (List.range (s.ligN o)).filter (s.ligExpects o)

/-- A held message belongs to the current step of an operation. STEP has 8 bits (R317). -/
def LigOp.takes (o : LigOp) (m : LigMsg) : Bool :=
  m.group == o.group && m.die == o.die && m.opseq == o.opseq % 65536 && m.step % 256 == o.step % 256
    && m.digest == (o.phase == .digest)

/-- The held messages of the current step from a rank, in order of arrival. -/
def State.ligFrom (s : State) (o : LigOp) (q : Nat) : List LigMsg := s.ligMsgs.filter (fun m => o.takes m && m.src == q)

/-- The messages of the current step from some ranks have been used. -/
def State.ligUsed (s : State) (o : LigOp) (srcs : List Nat) : State :=
  { s with ligMsgs := s.ligMsgs.filter (fun m => !(o.takes m && srcs.contains m.src)) }

/-- The window offset at which a member's buffer begins (R321). -/
def State.ligBase (s : State) (o : LigOp) : Nat :=
  let w := s.window (s.group o.group).window
  (o.coll.recv.toNat + 2 ^ 64 - w.baseVa * 256) % 2 ^ 40

/-- The data of a step from a rank, once all of it has arrived. (DEDUCED: log entry 63). -/
def State.ligData (s : State) (o : LigOp) (q n : Nat) : Option (List Byte) :=
  let ms := s.ligFrom o q
  if ms.isEmpty then none else
  let base := s.ligBase o
  let all := ms.foldl (fun (a : SMap Byte) m =>
    putBytes a (if m.rel then m.pos else (m.pos + 2 ^ 40 - base) % 2 ^ 40) m.data) []
  if n = 0 then some [] else knownBytes all 0 n

/-- Bytes of a step's data between two ranks. -/
def State.ligStepBytes (s : State) (o : LigOp) (m : (Nat → Bool) × Join) : Nat :=
  (o.coll.picked (s.ligN o) o.step m.1).length * o.coll.elemBytes

/-- Elements of w bytes each. -/
def elemsFrom (w : Nat) : Nat → List Byte → List Nat
  | 0, _ => []
  | n + 1, bs => leNat (bs.take w) :: elemsFrom w n (bs.drop w)

/-- Pieces of at most 7,168 bytes with their positions (R285); an empty step is one empty message.
(DEDUCED: log entry 63). -/
def ligPieces : Nat → Nat → List Byte → List (Nat × List Byte)
  | 0, _, _ => []
  | fuel + 1, pos, bs =>
    (pos, bs.take 7168) :: (if bs.length ≤ 7168 then [] else ligPieces fuel (pos + 7168) (bs.drop 7168))

/-- Bytes for a rank: at once to a member of this module, and through the list of what is to be sent to any other. -/
def State.ligHand (s : State) (o : LigOp) (r : Nat) (bs : List Byte) : State × List (Nat × Nat × List Byte) :=
  let g := s.group o.group
  let (md, d) := g.ranks.getD r (0, 0)
  if md = s.moduleNo then
    (s.depositLig { group := o.group, die := d, opseq := o.opseq % 65536, step := o.step, digest := o.phase == .digest,
                    src := o.rank, pos := 0, rel := true, dig := some (o.digest g), data := bs }, [])
  else (s, (ligPieces (bs.length / 7168 + 1) 0 bs).map (fun p => (r, p.1, p.2)))

/-- What a member sends to a rank in its current step: its summary in the digest round (R323), data after it (R315). -/
def State.ligGives (s : State) (o : LigOp) (r : Nat) : Option (List Byte) :=
  let n := s.ligN o
  let c := o.coll
  if o.phase == .digest then (doubling n o.step o.rank r).map (fun _ => o.known.bytes)
  else (c.movesAt n o.step o.rank r).map (fun m =>
    (c.picked n o.step m.1).flatMap (fun p => leBytes c.elemBytes (o.acc.getD p 0)))

/-- Sends what is to be sent, as far as messages of the pairs may wait for acknowledgement (R294); with no route the
member ends with PEER_LOST (R295, R327). Summaries travel in class 7, data in the class of the queue (R317). -/
def State.ligFlush (s : State) (o : LigOp) : List (Nat × Nat × List Byte) → State
  | [] => s.putOp { o with out := [] }
  | (r, pos, bs) :: rest =>
    let g := s.group o.group
    let dig := o.phase == .digest
    match s.ligSend o.group o.die o.opseq (if dig then 1 else 0) o.step
        (if dig then 7 else (s.queue (g.queue o.die)).prio) (g.ranks.getD r (0, 0)).1 pos (some r) bs with
    | .sent s1 => s1.ligFlush o rest
    | .full => s.putOp { o with out := (r, pos, bs) :: rest }
    | .noRoute => s.ligEnd o 10 (peerDetail r 1)

/-- The sends of the current step (R315, R321, R323). -/
def State.stepSends (s : State) (o : LigOp) : State :=
  let x := (List.range (s.ligN o)).foldl (fun (a : State × List (Nat × Nat × List Byte)) r =>
    match s.ligGives o r with
    | none => a
    | some bs =>
      let y := a.1.ligHand o r bs
      (y.1, a.2 ++ y.2)) (s, [])
  x.1.ligFlush o x.2

/-- A page fault of the operation (R213): it stalls, or ends with FAULT_PAGE while the fault queue is off (R215). -/
def State.ligStall (s : State) (o : LigOp) (cause va : Nat) (wr : Bool) : State :=
  if !(s.func o.tenant).fqEn then s.ligEnd o 6 0xFF else
  let (q, n) := match s.ligCmd o with
    | some r => (r.queue.toNat, r.seq.toNat)
    | none => (0, 0)
  let p : PageFault :=
    { fn := o.tenant, page := va / 2 ^ 25, va := va, cause := cause,
      source := s.sourceOf o.die 31 0 5 0 wr, queue := q, seq := n, count := 0, tag := none, engines := [] }
  let s1 := (s.putOp { o with stalled := true }).updDie o.die (fun d => d.joinFault p (.ligature o.group o.die))
  s1.trace o.die o.tenant 7 none 0 q n (va % 2 ^ 48)

/-- The ligature engine raises a fault of KIND 2 or 3 (R196, R337): it strikes the command of the operation, and a map-out strikes
the commands with work on the core (R346). -/
def State.ligFault (s : State) (o : LigOp) (kind addr key handle row : Nat) : State :=
  let (s1, mapOut) := if kind = 2 then s.countFault key kind else (s, false)
  let st : Strike := { kind := kind, die := o.die, core := key % 20, mapOut := mapOut, handle := handle, row := row,
                       engine := 5 }
  (s1.faultRecord o.tenant st addr 0 (s.ligCmd o)).strikeAll st (s.ligCmd o) (if mapOut then s.workersOn key else [])

/-- The checks on an operation's inkwell buffer, then the rest (R171, R172). -/
def State.ligInk (s : State) (o : LigOp) (recv : Bool) (off n : Nat) (f : State → State) : State :=
  let sd := o.side recv
  if sd.kind ≠ 1 || n == 0 then f s else
  match s.inkBar o.die sd sd.pos off n with
  | none => f (s.inkFix o.die [(sd, sd.pos, off, n)])
  | some (.ends code detail) => s.ligEnd o code detail
  | some (.ecc key h rel phys) =>
    (s.updCore key (fun k => k.eccRecord phys false)).ligFault o 2 (inkFaultAddr h rel phys) key h rel
  | some .waits => s

/-- The end of a buffer access, and what follows one that gave a value. -/
def State.ligAcc {α : Type} (o : LigOp) (x : Acc α) (f : α → State → State) : State :=
  match x with
  | .ok a s => f a (s.accessDone (.ligature o.group o.die) (s.ligCmd o))
  | .wait s => s
  | .page cause va wr s => s.ligStall o cause va wr
  | .poison spa s => s.ligFault o 3 spa 0 0 0
  | .lost reason s => s.ligEnd o 10 (reason * 2 ^ 16)
  | .trap _ _ s => s

/-- The member reads its send buffer (R310). -/
def Coll.sends (c : Coll) (rank : Nat) : Bool := c.op != 0x35 && (c.op != 0x33 || rank == c.root)

/-- What a member works on at the start: its elements widened, or its own chunk in place. -/
def LigOp.start (o : LigOp) (n : Nat) (bs : List Byte) : LigOp :=
  let c := o.coll
  let w := c.width false
  let v := leNat bs
  let els := (List.range (c.chunks n false * c.count)).map (fun i => c.widen (v / 2 ^ (w * i) % 2 ^ w))
  let zeros (k : Nat) : List Nat := List.replicate k 0
  match c.op with
  | 0x32 => { o with loaded := true, acc := zeros (o.rank * c.count) ++ els ++ zeros ((n - 1 - o.rank) * c.count) }
  | 0x33 => { o with loaded := true, acc := if o.rank = c.root then els else zeros c.count }
  | 0x34 => { o with loaded := true, acc := els, got := els }
  | _ => { o with loaded := true, acc := els }

/-- The member's data is read, and the first step begins. -/
def State.ligLoad (s : State) (o : LigOp) : State :=
  let n := s.ligN o
  let c := o.coll
  let nb := if c.sends o.rank then c.bytes n false else 0
  s.ligInk o true 0 (c.bytes n true) (fun s => s.ligInk o false 0 nb (fun s =>
    State.ligAcc o (s.sideRead (s.ligAgent o) (o.side false) (o.side false).pos 0 nb) (fun bs s =>
      let o1 := o.start n bs
      if c.steps n = 0 then s.putOp o1 else s.stepSends o1)))

/-- The elements of a segment that a member's receive buffer gets, and the first one's index there. -/
def LigOp.results (o : LigOp) (n : Nat) : Nat × List Nat :=
  let c := o.coll
  let lo := o.written * c.segLen n
  match c.op with
  | 0x30 => (lo, (o.acc.drop lo).take (c.segLen n))
  | 0x31 =>
    let a := max lo (o.rank * c.count)
    (a - o.rank * c.count, (o.acc.drop a).take (min (lo + c.segLen n) ((o.rank + 1) * c.count) - a))
  | 0x34 => (0, o.got)
  | 0x35 => (0, [])
  | _ => (0, o.acc)

/-- Segments whose last step has completed (R315). -/
def LigOp.segsDone (o : LigOp) (n : Nat) : Nat :=
  if o.coll.steps n = 0 then o.coll.segs n else o.step / o.coll.steps n

/-- The outputs of the next segment are written (R315, R318), and then `f` follows. After a mismatch that a trusted group does
not detect, the outputs are undefined (R324). -/
def State.ligOutput (s : State) (o : LigOp) (f : LigOp → State → State) : State :=
  let c := o.coll
  let (i, res) := o.results (s.ligN o)
  let vals := if o.odd then res.zipIdx.map (fun p => (Config.mismatched (s.free + p.2)).toNat) else res
  let cs := vals.map c.output
  let w := c.width true
  let bs := leBytes (cs.length * w / 8) (packNat w (cs.map (fun x => x.bits)))
  let o1 := { o with sat := o.sat + (cs.filter (fun x => x.sat)).length, flush := o.flush + (cs.filter (fun x => x.flush)).length
                     written := o.written + 1 }
  s.ligInk o true (i * w / 8) bs.length (fun s =>
    State.ligAcc o (s.sideWrite (s.ligAgent o) (o.side true) (o.side true).pos (i * w / 8) bs) (fun _ s =>
      f o1 ({ s with free := if o.odd then s.free + res.length else s.free }.putOp o1)))

/-- The operation ends with OK once every write and message is complete (R235, R294). -/
def State.ligFinish (s : State) (o : LigOp) : State :=
  if s.fab.unacked.any (fun u => u.engine == some (.ligature o.group o.die)) then s else s.ligEnd o 0 0

/-- After a segment's outputs: the next segment's first step, or the end. -/
def State.ligNext (o : LigOp) (s : State) : State :=
  if o.step < o.coll.allSteps (s.ligN o) then s.stepSends o
  else if o.written < o.coll.segs (s.ligN o) then s else s.ligFinish o

/-- Whether a member of another module runs the same operation in a trusted group is not seen (R324): its data counts as of a
mismatched operation by a free value. (DESIGN CHOICE: log entry 62). -/
def State.oddPeers (s : State) (o : LigOp) (srcs : List Nat) : Bool :=
  let g := s.group o.group
  g.trusted && srcs.any (fun q => (g.ranks.getD q (0, 0)).1 != s.moduleNo) && Config.peerDiffers s.free

/-- The current step's data has all arrived: it joins what the member holds, and the next step begins. In mode 1 the
contributions join in the order of their arrival (R319). -/
def State.stepJoin (s : State) (o : LigOp) : State :=
  let n := s.ligN o
  let c := o.coll
  let g := s.group o.group
  let srcs := s.ligSources o
  let data := srcs.map (fun q => (q, match c.movesAt n o.step q o.rank with
    | some m => s.ligData o q (s.ligStepBytes o m)
    | none => some []))
  if data.any (fun p => p.2.isNone) then s else
  let order := if c.mode = 1 && o.step % max 1 (c.steps n) == 0 then
      (((s.ligMsgs.filter o.takes).map (fun m => m.src)).filter srcs.contains).eraseDups
    else srcs
  let o1 := order.foldl (fun (a : LigOp) q =>
    match c.movesAt n o.step q o.rank, (data.find? (fun p => p.1 == q)).bind (fun p => p.2) with
    | some m, some bs =>
      let vals := elemsFrom c.elemBytes (c.picked n o.step m.1).length bs
      let odd := a.odd || (s.ligFrom o q).any (fun x => match x.dig with | some d => d != o.digest g | none => false)
      match m.2 with
      | .toChunk _ => { a with got := c.join n o.step a.got q m vals o.rank, odd := odd }
      | _ => { a with acc := c.join n o.step a.acc q m vals o.rank, odd := odd }
    | _, _ => a) o
  let o2 : LigOp := { o1 with step := o.step + 1, odd := o1.odd || s.oddPeers o srcs }
  let s1 := State.putOp { s.ligUsed o srcs with free := if g.trusted then s.free + 1 else s.free } o2
  if o2.written < o2.segsDone n then s1.ligOutput o2 State.ligNext else s1.stepSends o2

/-- LIG_STEP_END: the member's operation moves on: it reads its data, sends what is to be sent, writes a segment's outputs
after its last step, and ends its step once the step's messages have arrived (R316). (DEDUCED: log entry 61). -/
def State.ligStep (s : State) (gi die : Nat) : State :=
  let s := s.sendOwed gi
  match s.ligOp gi die with
  | none => s
  | some o =>
    let n := s.ligN o
    if o.phase != .data || o.stalled then s
    else if !o.loaded then s.ligLoad o
    else if !o.out.isEmpty then s.ligFlush o o.out
    else if o.written < o.segsDone n then s.ligOutput o State.ligNext
    else if o.coll.allSteps n ≤ o.step then s.ligFinish o
    else s.stepJoin o

/-- A step ends for a member. -/
def execLigStepEnd (group : BitVec 10) (die : BitVec 5) (s : State) : Result := .next (s.ligStep group.toNat die.toNat)

/-- COLL_OP_START (R313): the next operation of a group starts at a member when the previous one has ended there and, for
a command, R239 has let it start. It opens with the digest round unless TRUSTED is 1 (R323). -/
def State.opStart (s : State) (gi die : Nat) : State :=
  if (s.ligOp gi die).isSome then s else
  match s.ligOps.find? (fun o => o.group == gi && o.die == die) with
  | none => s
  | some o =>
    let free := match o.owner with
      | .cmd r => (match s.cmd r with | some c => c.isStarted | none => false)
      | .cp2 _ _ => true
    if !free then s else
    let g := s.group gi
    let (q, n) := match s.ligCmd o with
      | some r => (r.queue.toNat, r.seq.toNat)
      | none => (0, 0)
    let s1 := s.trace die o.tenant 10 none 0 q n (o.opseq % 65536)
    if g.trusted then
      let o1 := { o with phase := .data }
      (s1.putOp o1).ligLoad o1
    else
      s1.stepSends { o with phase := .digest, known := DigestSum.one (o.digest g) }

/-- A member starts its next operation. -/
def execCollOpStart (group : BitVec 10) (die : BitVec 5) (s : State) : Result := .next (s.opStart group.toNat die.toNat)

/-- The end of the digest round (R323, R328): with no difference the operation is committed and continues, otherwise the
member completes with MISMATCH and records the digests. -/
def State.digestDecide (s : State) (o : LigOp) : State :=
  let k := o.known
  if k.count = 0 then
    let o1 := { o with phase := .data, step := 0 }
    (s.putOp o1).ligLoad o1
  else (s.updGroup o.group (fun g => { g with dig0 := k.ref, digX := k.digx })).ligEnd o 8
    (k.low + min k.count 0xFFFF * 2 ^ 16)

/-- A summary of the sibling block joins a member's own (R323). -/
def LigOp.learn (o : LigOp) (n : Nat) (d : DigestSum) : LigOp :=
  let w := 2 ^ o.step
  let b := o.rank / w
  let size (i : Nat) : Nat := min w (n - i * w)
  { o with step := o.step + 1
           known := if b % 2 = 0 then (if n ≤ (b + 1) * w then o.known else o.known.join d ((b + 1) * w) (size (b + 1)))
                    else d.join o.known (b * w) (size b) }

/-- DIGEST_ROUND_END: the digest round moves on by a step whose summaries have arrived, and after its last step it
ends. -/
def State.digestStep (s : State) (gi die : Nat) : State :=
  let s := s.sendOwed gi
  match s.ligOp gi die with
  | none => s
  | some o =>
    let n := s.ligN o
    if o.phase != .digest then s
    else if !o.out.isEmpty then s.ligFlush o o.out
    else if ceilLog2 n ≤ o.step then s.digestDecide o else
    let srcs := s.ligSources o
    if srcs.any (fun q => (s.ligFrom o q).isEmpty) then s else
    let o1 := o.learn n (DigestSum.parse (((srcs.flatMap (fun q => s.ligFrom o q)).head?.map (fun m => m.data)).getD []))
    let s1 := (s.ligUsed o srcs).putOp o1
    if ceilLog2 n ≤ o1.step then s1.digestDecide o1 else s1.stepSends o1

/-- The digest round of a member moves on. -/
def execDigestRoundEnd (group : BitVec 10) (die : BitVec 5) (s : State) : Result :=
  .next (s.digestStep group.toNat die.toNat)

/-- The lowest rank from which a member still awaits a message (R325). -/
def State.ligAwaited (s : State) (o : LigOp) : Option Nat :=
  (s.ligSources o).find? (fun q =>
    if o.phase == .digest then (s.ligFrom o q).isEmpty
    else match o.coll.movesAt (s.ligN o) o.step q o.rank with
      | some m => (s.ligData o q (s.ligStepBytes o m)).isNone
      | none => false)

/-- GROUP_TIMEOUT: the unpaused time of an operation reaches TMO (R325): PEER_LOST, reason 0. -/
def execGroupTimeout (group : BitVec 10) (die : BitVec 5) (s : State) : Result :=
  let g := s.group group.toNat
  match s.ligOp group.toNat die.toNat with
  | none => .next s
  | some o =>
    .next (if g.paused || g.tmo == 0 then s
      else s.ligEnd o 10 (match s.ligAwaited o with | some q => peerDetail q 0 | none => 0))

/-- A module is throttled (R326): a stack at step 1 or above, or clocks lowered by module-wide throttling. -/
def State.throttled (s : State) : Bool := s.mod.therm || s.mod.thermMhz.isSome || s.dies.any (fun p => p.2.stkStep != 0)

/-- Sends a deferral notice of a group to every other module that holds a member (a notice whose pair is full waits, R294),
and pauses the group's timers here. -/
def State.deferGroup (s : State) (o : LigOp) (ltype : Nat) : State :=
  (s.ligControl o ltype).updGroup o.group (fun g => { g with paused := true })

/-- DEFER_NOTICE_TICK (R326): a throttled module sends THERMAL_DEFER for every group with an operation in progress here,
and a member stalled on a page fault causes FAULT_DEFER. -/
def execDeferNoticeTick (s : State) : Result :=
  let s := (s.groups.map (fun p => p.1)).foldl State.sendOwed s
  let run := s.ligOps.filter (fun o => o.phase != .queued)
  let heads := (run.map (fun o => o.group)).eraseDups.filterMap (fun g => run.find? (fun o => o.group == g))
  let stalls := (run.filter (fun o => o.stalled)).map (fun o => o.group)
  let s1 := if s.throttled then heads.foldl (fun s o => s.deferGroup o 3) s else s
  .next ((heads.filter (fun o => stalls.contains o.group)).foldl (fun s o => s.deferGroup o 4) s1)

/-- TIMER_PAUSE_END: 1.5 ms after the latest notice the group's timers run again (R325). -/
def execTimerPauseEnd (group : BitVec 10) (s : State) : Result :=
  .next (s.updGroup group.toNat (fun g => { g with paused := false }))

/-- GROUP_LOAD (R307, R308): the managing function writes an entry with VALID 1. Ignored while an operation of the group
is in progress at a member here. -/
def State.groupWrite (s : State) (gi : Nat) (v : BitVec 256) : State :=
  if s.ligOps.any (fun o => o.group == gi) then s else
  s.updGroup gi (fun g =>
    let g1 := { g with trusted := v.getLsbD 254, tenant := fld v 248 6, gid := fld v 232 16, epoch := fld v 216 16,
                       nm1 := fld v 201 15, qoff := fld v 192 9, window := fld v 180 12, tmo := fld v 164 16,
                       rankVa := fld v 124 40, members := 0, ranks := [], launched := [], aborted := [], owed := [] }
    if v.getLsbD 255 then { g1 with valid := true, setst := 1, dig0 := 0, digX := 0 }
    else { g1 with valid := false, setst := 0 })

/-- A write of VALID 1 starts the load of the rank table. -/
def execGroupLoad (fn : BitVec 6) (group : BitVec 10) (v : BitVec 256) (s : State) : Result :=
  .next (if s.isMgmt fn.toNat && v.getLsbD 255 then s.groupWrite group.toNat v else s)

/-- GROUP_END: a write of VALID 0 ends the group on this module. -/
def execGroupEnd (fn : BitVec 6) (group : BitVec 10) (s : State) : Result :=
  .next (if s.isMgmt fn.toNat && !(s.ligOps.any (fun o => o.group == group.toNat)) then
      s.updGroup group.toNat (fun g => { g with valid := false, setst := 0, members := 0 })
    else s)

/-- The bytes of a rank table, read through the die cache, when every one lies in a stack page of the tenant. -/
def State.rankTable (s : State) (g : Group) : Option (List Byte × State) :=
  (vaParts (g.rankVa * 256) (2 * (g.nm1 + 1))).foldl (fun o p => o.bind (fun (b : List Byte × State) =>
    let s1 := b.2.walkTouch g.tenant p.1
    match b.2.translate g.tenant p.1 .read with
    | .at (.stack a) _ _ => some (b.1 ++ Memory.readBytes s.mem a p.2, s1.cacheRead a p.2 g.tenant 0)
    | _ => none)) (some ([], s))

/-- GROUP_LOAD_DONE (R308): the rank table has been read; the entry is ready or rejected. -/
def State.groupLoaded (s : State) (gi : Nat) : State :=
  let g := s.group gi
  if g.setst ≠ 1 then s else
  let reject (s : State) : State := s.updGroup gi (fun g => { g with setst := 3, members := 0 })
  match s.rankTable g with
  | none => reject s
  | some (bs, s) =>
    let es := elemsFrom 2 (g.nm1 + 1) bs
    if es.any (fun e => decide (2 ^ 15 ≤ e)) || es.eraseDups.length != es.length
        || s.groups.any (fun p => p.1 != gi && p.2.setst == 2 && p.2.gid == g.gid) then reject s
    else
      let rk := es.map (fun e => (e / 32, e % 32))
      let mem := (rk.filter (fun r => r.1 == s.moduleNo)).foldl (fun a r => a + 2 ^ r.2) 0
      s.updGroup gi (fun g => { g with setst := 2, ranks := rk, members := mem, tabCrc := (crc64 bs).toNat })

/-- The rank table has been read. -/
def execGroupLoadDone (group : BitVec 10) (s : State) : Result := .next (s.groupLoaded group.toNat)

/-- The ready group of a GID (R308). -/
def State.groupOf (s : State) (gid : Nat) : Option Nat :=
  (s.groups.find? (fun p => p.2.setst == 2 && p.2.gid == gid)).map (fun p => p.1)

/-- The rank of a message's sender: its module and the die of its communication queue. -/
def Group.rankFrom (g : Group) (h : MsgHdr) : Option Nat := g.ranks.findIdx? (fun r => r == (h.src, h.queue / 512))

/-- Members of this module with their ranks. -/
def State.localRanks (s : State) (g : Group) : List (Nat × Nat) :=
  (g.ranks.zipIdx).filterMap (fun p => if p.1.1 = s.moduleNo then some (p.2, p.1.2) else none)

/-- Members of this module that have not launched the operation of a message yet. -/
def State.ligAhead (s : State) (g : Group) (h : MsgHdr) : Bool :=
  (s.localRanks g).any (fun r => (g.futureOp r.2 h.lig.opseq).isSome)

/-- A ligature message whose group is ready here can be taken. Data for an operation that some member has not launched waits
while its window might not allow the operation's mode (R313, R321). (DEDUCED: log entry 59; DEDUCED: log entry 63). -/
def State.ligKnown (s : State) (h : MsgHdr) : Bool :=
  match s.groupOf h.lig.gid with
  | none => false
  | some gi => h.lig.ltype != 0 || (s.window h.window).red || !(s.ligAhead (s.group gi) h)

/-- Takes the next delivered ligature message of a type. -/
def State.takeLig (s : State) (ltype : Nat) : Option (List (BitVec 1920) × Nat × State) :=
  match s.takeMsg (fun h => h.kind == 3 && h.lig.ltype == ltype && s.ligKnown h) with
  | none => none
  | some (m, s1) => (s.groupOf (msgHdr m).lig.gid).map (fun g => (m, g, s1))

/-- The operation of a message at a member of this module. -/
def State.ligOpOf (s : State) (gi die : Nat) (h : MsgHdr) : Option LigOp :=
  s.ligOps.find? (fun o => o.group == gi && o.die == die && o.opseq % 65536 == h.lig.opseq)

/-- Data was refused. Where a RECLAIM has cleared the window, the members here that use it end with REVOKED (R254). -/
def State.ligRefuse (s : State) (h : MsgHdr) (gi reason : Nat) : State :=
  let s1 := s.refuse h reason
  if (s.window h.window).revoked then
    (s1.ligOps.filter (fun o => o.group == gi && o.phase != .queued)).foldl (fun s o => s.ligEnd o 5 2) s1
  else s1

/-- LIGATURE_DATA (R317, R319, R321): data of another module is checked against the window and held for its member and
step: for the members that expect it, those whose buffer the offset names first. Data that no member expects is discarded
(R324). -/
def State.ligArrive (s : State) (m : List (BitVec 1920)) (gi : Nat) : State :=
  let h := msgHdr m
  let g := s.group gi
  let n := g.nm1 + 1
  let bs := msgPayload m
  match g.rankFrom h with
  | none => s.sendAck h none
  | some q =>
    let ops := (s.localRanks g).filterMap (fun r => s.ligOpOf gi r.2 h)
    let steps (o : LigOp) : List Nat := (List.range (o.coll.allSteps n)).filter (fun t => t % 256 == h.lig.step)
    let want := ops.filter (fun o => (steps o).any (fun t => (o.coll.movesAt n t q o.rank).isSome))
    let later := (s.localRanks g).filter (fun r => (g.futureOp r.2 h.lig.opseq).isSome)
    let red := want.any (fun o => o.coll.mode == 1)
    match (s.window h.window).check h.srcgrp h.offset bs.length true true red with
    | some reason => s.ligRefuse h gi reason
    | none =>
      let named := want.filter (fun o =>
        decide (s.ligBase o ≤ h.offset ∧ h.offset < s.ligBase o + max 1 (o.coll.bytes n true)))
      let takers := if named.isEmpty then want.map (fun o => o.die) ++ later.map (fun r => r.2) else named.map (fun o => o.die)
      let msg (d : Nat) : LigMsg :=
        { group := gi, die := d, opseq := h.lig.opseq, step := h.lig.step, digest := false, src := q, pos := h.offset,
          rel := false, dig := none, data := bs }
      (takers.foldl (fun s d => s.depositLig (msg d)) s).sendAck h none

/-- A ligature data message. -/
def execLigatureData (s : State) : Result :=
  .next (match s.takeLig 0 with | some (m, g, s1) => s1.ligArrive m g | none => s)

/-- LIGATURE_DIGEST (R323): a summary of another module is held for the members that receive it. -/
def State.digestArrive (s : State) (m : List (BitVec 1920)) (gi : Nat) : State :=
  let h := msgHdr m
  let g := s.group gi
  let n := g.nm1 + 1
  match g.rankFrom h with
  | none => s.sendAck h none
  | some q =>
    ((s.localRanks g).foldl (fun s r =>
      match doubling n h.lig.step q r.1 with
      | none => s
      | some _ =>
        if s.ligMsgs.any (fun x => x.group == gi && x.die == r.2 && x.opseq == h.lig.opseq && x.step == h.lig.step
            && x.digest && x.src == q) then s
        else s.depositLig { group := gi, die := r.2, opseq := h.lig.opseq, step := h.lig.step, digest := true, src := q,
                            pos := 0, rel := true, dig := none, data := msgPayload m }) s).sendAck h none

/-- A digest message. -/
def execLigatureDigest (s : State) : Result :=
  .next (match s.takeLig 1 with | some (m, g, s1) => s1.digestArrive m g | none => s)

/-- LIGATURE_ABORT (R327): every member here completes with PEER_LOST, reason 2, naming the sender's rank; the digest round of a
member first ends if what it needs has arrived. (DEDUCED: log entry 62). -/
def State.abortArrive (s : State) (m : List (BitVec 1920)) (gi : Nat) : State :=
  let h := msgHdr m
  let g := s.group gi
  let s1 := (s.localRanks g).foldl (fun s r =>
    match s.ligOp gi r.2 with
    | some o => if o.opseq % 65536 == h.lig.opseq then
        (List.range (ceilLog2 (g.nm1 + 1) + 1)).foldl (fun s _ => s.digestStep gi r.2) s else s
    | none => s) s
  (s1.ligAborted gi h.lig.opseq ((g.rankFrom h).getD 0)).sendAck h none

/-- An abort message. -/
def execLigatureAbort (s : State) : Result :=
  .next (match s.takeLig 2 with | some (m, g, s1) => s1.abortArrive m g | none => s)

/-- A deferral notice pauses the group's timers (R325). -/
def State.deferArrive (s : State) (ltype : Nat) : State :=
  match s.takeLig ltype with
  | some (m, g, s1) => (s1.updGroup g (fun g => { g with paused := true })).sendAck (msgHdr m) none
  | none => s

/-- A THERMAL_DEFER notice. -/
def execThermalDefer (s : State) : Result := .next (s.deferArrive 3)

/-- A FAULT_DEFER notice. -/
def execFaultDefer (s : State) : Result := .next (s.deferArrive 4)

/-- The j-th LIG.START of a context in this attempt joins the j-th operation of its list (R341): the same image returns a
tag of the kept operation, another image ends the LAUNCH with FAULT_UNRECOVERED, REASON 7, naming the core of the fault that it
replays (R349). (DEDUCED: log entry 64). -/
def State.ligJoin (s : State) (c : CtxRef) (w : Word32) (tag : Nat) (old : LigTag) (img : BitVec 1024) : State :=
  if old.image = img then
    s.commit c (fun y => { y.wx (wRd w) (BitVec.ofNat 64 tag) with
      ligTags := SMap.set y.ligTags tag old, ligCount := y.ligCount + 1 })
  else match (s.ctxOf c).job with
    | some r => match s.cmd r with
      | some m => s.endCommand r 7 (faultDetail m.kind 7 m.fcore m.fdie)
      | none => s
    | none => s.goIdle c 0 false

/-- LIG.START: reads a packet image, checks it and launches the operation, whose tag goes to xd (R314).
(DEDUCED: log entry 64). -/
def execLigStart (c : CtxRef) (w : Word32) (s : State) : Result :=
  s.issue .ligStart c w (fun s => s.imageRead c ((s.ctxOf c).rx (wRs1 w)) 64 (fun bs s =>
    let x := s.ctxOf c
    let img := BitVec.ofNat 1024 (leNat bs)
    let cl := Coll.parse img
    let rs := (pkSlots img).map slotRange ++ (match x.job.bind s.cmd with | some m => m.ranges | none => [])
    let fn := s.tenantOf c.key
    if !(isColl cl.op) || cl.queue / 512 != c.die.toNat || !(s.collOk fn cl rs) then s.trapOperand c w else
    match freeTag (fun t => match SMap.find x.ligTags t with | some y => y.status.isNone | none => false) with
    | none => s
    | some tag =>
      match x.kept[x.ligCount]? with
      | some old => s.ligJoin c w tag old img
      | none =>
        let r := if s.mod.placeValid then s.ligLaunch (.cp2 c x.kept.length) fn c.die.toNat img rs else (s, 0)
        let live := r.1.ligOps.any (fun o => o.group == cl.group && o.die == c.die.toNat && o.opseq == r.2)
        let t : LigTag := { group := cl.group, opseq := r.2, image := img, status := if live then none else some 10 }
        r.1.commit c (fun y => { y.wx (wRd w) (BitVec.ofNat 64 tag) with
          ligTags := SMap.set y.ligTags tag t, kept := y.kept ++ [t], ligCount := y.ligCount + 1 })))

/-- LIG.WAIT: waits for the operation with tag x[rs1]; its status goes to xd, and 0 for a tag that is not outstanding
(R314). (DEDUCED: log entry 64). -/
def execLigWait (c : CtxRef) (w : Word32) (s : State) : Result :=
  s.issue .ligWait c w (fun s =>
    let tag := ((s.ctxOf c).rx (wRs1 w)).toNat
    match SMap.find (s.ctxOf c).ligTags tag with
    | none => s.commit c (fun y => y.wx (wRd w) 0)
    | some t =>
      match t.status with
      | none => s
      | some code =>
        s.commit c (fun y => { y.wx (wRd w) (BitVec.ofNat 64 code) with ligTags := SMap.del y.ligTags tag }))

end Sys2Proof.Machine
end

