-- ==== Sys2Proof/Machine/Reset.lean ====
section
/-! DEFINITION. Resets shared by several commands: the clearing of a core for a change of tenant or a core reset (R271, R346),
the dropping of a page table (R207), the loss of every die's state (R351 to R353, R389), and the doorbell gate of the stages. -/

namespace Sys2Proof.Machine

/-- The scribe accepts commands: stage READY, and the module has not failed (R198, R348, R356). -/
def State.inService (s : State) : Bool := s.mod.stage == .ready && !s.mod.failed

/-- A core is cleared as a change of tenant clears it (R47, R52, R88, R110, R159, R173). -/
def State.clearCore (s : State) (k : Nat) : State :=
  { s.updCoreTimed k (fun c => c.changeTenant k s.free) with free := s.free + 4 }

/-- Translations of a function are dropped everywhere (R207, R209). -/
def State.dropTlb (s : State) (fn : Nat) : State :=
  { s with
    dies := SMap.mapVals s.dies (fun _ d => { d with tlb := d.tlb.filter (fun t => t.fn != fn)
                                                     walkCache := d.walkCache.filter (fun t => t.fn != fn) })
    cores := SMap.mapVals s.cores (fun _ k => { k with tlb := k.tlb.filter (fun t => t.fn != fn) }) }

/-- The die-cache lines of a frame are invalidated without write-back (R273). -/
def Die.dropFrame (d : Die) (frame : Nat) : Die :=
  { d with lines := d.lines.filter (fun l => l.line / 2 ^ 17 != frame)
           evicts := d.evicts.filter (fun e => e.line / 2 ^ 17 != frame)
           misses := d.misses.filter (fun m => m.line / 2 ^ 17 != frame) }

/-- A frame is released: it stays unavailable until it has been zeroed (R273). -/
def State.releaseFrame (s : State) (key : Nat) : State :=
  { s.updDie (key / 512) (fun d => d.dropFrame (key % 512)) with frames := SMap.set s.frames key .zeroing }

/-- Keys of the frames that a level-1 base or the pool names (R272). -/
def State.systemFrame (s : State) (key : Nat) : Bool :=
  s.funcs.any (fun p => p.2.tbValid && p.2.tbBase / 16 == key) || decide (s.l2first ≤ key ∧ key < s.l2first + s.l2frames)

/-- Word addresses of a range that hold a non-zero byte. -/
def Memory.wordsIn (m : Memory) (lo n : Nat) : List Nat :=
  ((m.filter (fun p => decide (lo ≤ p.1 ∧ p.1 < lo + n))).map (fun p => p.1 / 8 * 8)).eraseReps

/-- Level-1 pointers of a function's table: VA of the range, and the SPA of the level-2 table. -/
def State.pointers (s : State) (n : Nat) : List (Nat × Nat) :=
  let base := (s.func n).tbBase * 2 ^ 21
  (Memory.wordsIn s.mem base (2 ^ 21)).filterMap (fun a =>
    let e := s.pte a
    if e % 2 = 1 && !(Nat.testBit e 1) then some ((a - base) / 8 * 2 ^ 30, e / 256 % 2 ^ 31 * 256) else none)

/-- The old table of a function is dropped (R207): its level-2 tables return to the pool, its pages' access counters end (R218),
and its frame is zeroed before it becomes free, unless it is still a system frame, that of the new table among them.
(DEDUCED: log entry 28). -/
def State.dropTable (s : State) (n : Nat) (new : Option Nat) : State :=
  let base := (s.func n).tbBase
  let l2 := (s.pointers n).map (fun p => p.2 / 256)
  let s1 := { s with
    l2used := s.l2used.filter (fun t => !(l2.contains t))
    dies := SMap.mapVals s.dies (fun _ d => { d with accCtrs := d.accCtrs.filter (fun c => c.fn != n) }) }
  let s2 := s1.updFunc n (fun f => { f with tbValid := false, tbInit := false })
  if s2.systemFrame (base / 16) || new.map (fun b => b / 16) == some (base / 16) then s2.zeroMem (base * 2 ^ 21) (2 ^ 21) else s2.releaseFrame (base / 16)

/-- The queues of a function. -/
def State.queuesOf (s : State) (n : Nat) : List Nat := (s.queues.filter (fun p => p.2.owner == n)).map (fun p => p.1)

/-- MOD_DIEHd as identity record 1 holds it (R367). -/
def dieHealth (rec1 : BitVec 2048) (d : Nat) : Nat := fld rec1 (32 * d) 32

/-- MOD_HEALTH as identity record 2 holds it. -/
def Module.recHealth (m : Module) : Nat := fld (SMap.get m.records 2 0) 0 32

/-- The dies right after a reset: the spares that identity record 1 names are mapped in (R346, R360), and the stack training that
is kept holds the frame repairs (R179, R352). -/
def Module.diesAfterReset (m : Module) (kept : Nat → SMap Nat) : SMap Die :=
  let r := SMap.get m.records 1 0
  (List.range 32).filterMap (fun d =>
    let h := dieHealth r d
    let x : Die := if Nat.testBit h 31 then { spareUsed := true, spareCore := h % 32, frep := kept d } else { frep := kept d }
    if x = {} then none else some (d, x))

/-- The module registers after every die and port die has lost its state: what the MMC, the input pins and the governor
keep, with a recorded failure (R348, R352). ALERT# is released (R350). (DEDUCED: log entry 68). -/
def Module.afterReset (m : Module) (stage : Stage) : Module :=
  { stage := stage, bootErr := m.bootErr, slot := m.slot, bootNs := m.bootNs, evict := m.compatStrap, reply := m.compatStrap
    retest := m.full, failed := Nat.testBit m.recHealth 31, fcause := m.recHealth / 2 ^ 24 % 16, govMhz := m.govMhz, plimit := m.plimit
    ceiling := m.ceiling, plimitNew := m.plimitNew, ceilingNew := m.ceilingNew, vinOk := m.vinOk, pgIn := m.pgIn
    powerOn := m.powerOn, tripLatch := m.tripLatch, trips := m.trips, compatStrap := m.compatStrap
    mmcStandby := m.mmcStandby, mmcRun := m.mmcRun, portDies := m.portDies, slotA := m.slotA, slotB := m.slotB, fuseKey := m.fuseKey
    fuseVersion := m.fuseVersion, measurement := m.measurement, records := m.records
    i3cAddr := m.i3cAddr, mmcQueue := m.mmcQueue.filter (fun r => r.path == .i3c), i3cStatus := m.i3cStatus
    i3cData := m.i3cData, i3cOut := m.i3cOut, sensors := m.sensors }

/-- The host links after every port die has been reset: down, and to train again while their PERST# pin is high (R352, R361). -/
def State.linksAfterReset (s : State) : SMap HostLink :=
  SMap.mapVals s.links (fun h l => { perst := l.perst, bifur := l.bifur, training := !l.perst, vfFirst := 4 + 15 * h })

/-- The state after every die, port die, queue, frame and link has been reset (R352, R353): hosts and the MMC keep theirs.
A module reset with FULL = 0 keeps the stack training. (DEDUCED: log entry 68). -/
def State.afterReset (s : State) (stage : Stage) : State :=
  { pending := s.pending, host := s.host, hostMsgs := s.hostMsgs, free := s.free, links := s.linksAfterReset, mod := s.mod.afterReset stage
    dies := s.mod.diesAfterReset (fun d => if stage = .die && !s.mod.full then (s.die d).frep else []) }

/-- Every power stage turns off (R351, R389): every die and port die loses its state. -/
def State.powerOff (s : State) : State :=
  let s1 := s.afterReset (if s.mod.stage = .halted then .halted else .power)
  s1.updMod (fun m => { m with powerOn := false, portDies := [] })

/-- A thermal trip (R351): the latch captures it and turns off every power stage, and the MMC, when it runs, records it.
(DESIGN CHOICE: log entry 81). -/
def State.trip (s : State) : State :=
  s.powerOff.updMod (fun m => { m with tripLatch := true, trips := if m.mmcRun && m.mmcStandby then m.trips + 1 else m.trips })

/-- THERMTRIP# is held low (R350, R351): after a trip, while the standby supply has its input. -/
def Module.thermtripLow (m : Module) : Bool := m.tripLatch && m.vinOk

/-- The WARN bits of the sensor block (R399). -/
def State.warn (s : State) (r : SensorReading) : Nat :=
  b2n (decide (r.vin.toNat < 4200 ∨ 5800 < r.vin.toNat)) + b2n (decide (45 < r.inlet.toInt)) * 2
    + b2n (decide (60 < r.outlet.toNat)) * 4 + b2n s.mod.therm * 8 + b2n (s.dies.any (fun p => p.2.stkStep != 0)) * 16
    + b2n (s.dies.any (fun p => p.2.thold)) * 32

/-- ALERT# is driven low (R397). -/
def State.alertNow (s : State) : Bool :=
  fld s.mod.sensors 112 16 != 0
    || s.mod.stage == .halted || s.mod.stage == .failed || s.mod.failed

end Sys2Proof.Machine
end

