-- ==== Sys2Proof/Machine/MemEvents.lean ====
section
/-! DEFINITION. Events of the inkwell, the die cache, the stacks, the thermometers and the governor (R172, R173, R189 to
R201, R389 to R399). -/

namespace Sys2Proof.Machine

/-- INKWELL_SCRUB: the patrol scrubber reads the core's next row; an uncorrectable error is recorded and raises no fault
until the row is read (R172). -/
def Core.scrub (k : Core) (found : Ecc) : Core :=
  if k.inkClearing then k else
  let p := k.scrubRow
  let k1 := { k.correctRows [p] with scrubRow := (p + 1) % 16384 }
  if k.inkBad.contains p then k1.eccRecord p true else
  match found with
  | .clean => k1
  | .corrected => { k1 with eccCorr := satAdd 16 k1.eccCorr 1 }
  | .uncorrectable => { k1 with inkBad := p :: k1.inkBad }.eccRecord p true

/-- INKWELL_SCRUB. -/
def execInkwellScrub (k : CoreRef) (found : Ecc) (s : State) : Result :=
  onCore k (fun n => s.updCore n (fun c => c.scrub found))

/-- INKWELL_CLEAR_DONE: INK_STAT.CLEARING returns to 0 (R173). -/
def execInkwellClearDone (k : CoreRef) (s : State) : Result :=
  onCore k (fun n => s.updCore n (fun c => { c with inkClearing := false }))

/-- STK_ECC counts a corrected codeword (R195). -/
def Die.stkCorrected (d : Die) : Die := { d with stkCorr := satAdd 16 d.stkCorr 1 }

/-- STK_ECC records an uncorrectable error; while UE is 1 it stays (R197). -/
def Die.stkRecord (d : Die) (line : Nat) (scrub : Bool) : Die :=
  if d.stkUe then d else { d with stkUe := true, stkUeLine := line, stkScrubUe := scrub }

/-- A line becomes poisoned (R196). -/
def State.poisonLine (s : State) (spa : Nat) : State :=
  { s with poison := if s.poison.contains (spa / 256) then s.poison else spa / 256 :: s.poison }

/-- The fault that a reader of a line raises when the line arrives poisoned (R196). (DEDUCED: log entry 31). -/
def State.readerFault (s : State) (spa : Nat) (e : Engine) : State :=
  match e with
  | .ctx c => s.poisonFault c.key c.idx spa
  | .feed t =>
    match s.xfer t with
    | some x => s.feedFault t (x.feed ((x.next.map (fun p => p.1)).getD 0)) 3 spa 0 0 0
    | none => s
  | .ligature g d =>
    match s.ligOp g d with
    | some o => s.ligFault o 3 spa 0 0 0
    | none => s

/-- The weight of a tenant at the stack channels: its far-channel share (R183, R253). -/
def State.farShare (s : State) (fn : Nat) : Nat := max 1 (SMap.get (s.func fn).quotas 5 1)

/-- The die after the line of a miss register has come (R189): the register is free, and the line is placed under its tenant's
mask, with what has merged; none while the line that it displaces has to wait. A tenant that has lost its ways keeps
nothing, and what it wrote goes to the channel. -/
def Die.fillMiss (d : Die) (offer : Bool) (spa : Nat) (m : DcMiss) : Option Die :=
  let d1 := { d with misses := delFirst (fun x => x.line == m.line) d.misses }
  if (d1.holds m.line).isSome then some d1
  else if d1.streams spa m.tenant then (if m.dirty then d1.queueWrite m.line m.tenant false else some d1)
  else d1.place offer spa m.tenant m.dirty m.keep

/-- What arriving stack data shows (R195, R196): a correction is counted; an uncorrectable error is recorded, and poisons the
line unless a write has covered it meanwhile. -/
def State.fillEcc (s : State) (die line : Nat) (covered : Bool) (found : Ecc) : State :=
  match found with
  | .clean => s
  | .corrected => s.updDie die Die.stkCorrected
  | .uncorrectable =>
    let s1 := s.updDie die (fun d => d.stkRecord line false)
    if covered then s1 else s1.poisonLine (lineSpa die line)

/-- A line arrives from the stack (R189, R195, R196): for its miss register, for fetches that allocate nothing, and for the
engines that wait for it, which go on with it or raise the fault of a poisoned line. (DEDUCED: log entry 31). -/
def State.lineArrives (s : State) (die line : Nat) (p : ChanReq × SMap Nat) (found : Ecc) : State :=
  let spa := lineSpa die line
  let d0 := s.die die
  let miss := d0.misses.find? (fun m => m.line == line)
  let fetch := d0.fetches.find? (fun f => f.line == line)
  let d1 := { d0.updChan (chanOf line) (fun c => c.readDone p) with fetches := d0.fetches.filter (fun f => f.line != line) }
  match (match miss with | some m => d1.fillMiss s.mod.evict spa m | none => some d1) with
  | none => s
  | some d2 =>
    let s1 := (s.updCache spa p.1.tenant (fun _ => d2)).fillEcc die line ((miss.map (fun m => m.whole)).getD false) found
    let readers := (miss.map (fun m => m.readers)).getD [] ++ (fetch.map (fun f => f.readers)).getD []
    if s1.poison.contains (spa / 256) then readers.foldl (fun s e => s.readerFault spa e) s1
    else readers.foldl (fun s e => s.arrive e (.stack spa)) s1

/-- What the die cache's own check symbols show of a held line (R194): a correction is counted; a clean line with an
uncorrectable error is invalidated and fetched again; a dirty one becomes poisoned. (DEDUCED: log entry 31). -/
def State.heldLineError (s : State) (die : Nat) (l : DcLine) (found : Ecc) : State :=
  match found with
  | .clean => s
  | .corrected => s.updDie die (fun d => { d with dcCorr := satAdd 16 d.dcCorr 1 })
  | .uncorrectable =>
    if l.dirty then
      (s.updDie die (fun d => { d with dcPoison := satAdd 16 d.dcPoison 1 })).poisonLine (lineSpa die l.line)
    else s.updDie die (fun d =>
      let d1 := { d.dropLine l.line with dcUeClean := satAdd 16 d.dcUeClean 1 }
      (d1.miss (lineSpa die l.line) l.tenant false false l.keep []).getD d1)

/-- DC_LINE_FILL: the line that its channel serves next arrives (R183, R189); for a line that the cache holds, `found` is what
its own check shows. (DEDUCED: log entry 31). -/
def execDcLineFill (die : BitVec 5) (line : BitVec 31) (found : Ecc) (s : State) : Result :=
  let d := s.die die.toNat
  let held (s : State) : State := match d.holds line.toNat with
    | some l => s.heldLineError die.toNat l found
    | none => s
  .next (match (d.chan (chanOf line.toNat)).nextRead s.farShare with
    | some p => if p.1.line = line.toNat then s.lineArrives die.toNat line.toNat p found else held s
    | none => held s)

/-- A write that a channel serves is done (R183, R190): one that writes a cache line back is counted, and frees its entry of
the eviction buffer. -/
def Die.writeServed (d : Die) (c : Nat) (p : ChanReq × SMap Nat) : Die :=
  let d1 := d.updChan c (fun x => x.writeDone p)
  if p.1.back then { d1 with evicts := delFirst (fun e => e.line == p.1.line && e.issued) d1.evicts }.tally 0x10 else d1

/-- The oldest entry of a slice's eviction buffer that its channel's write queue has room for is issued to it (R190). -/
def Die.issueEvict (d : Die) (slice : Nat) : Option Die :=
  ((d.evictsOf slice).find? (fun e => !e.issued && decide ((d.chan (chanOf e.line)).writes.length < 64))).map (fun e =>
    { d.updChan (chanOf e.line) (fun c => c.pushWrite { line := e.line, tenant := e.tenant, back := true }) with
      evicts := updFirst (fun x => x == e) (fun x => { x with issued := true }) d.evicts })

/-- EVICTION_WRITEBACK: a channel of the slice that drains serves a write; else the oldest entry of the eviction buffer is
issued to its channel; else a channel with no read waiting serves a write (R183, R190). (DESIGN CHOICE: log entry 77). -/
def Die.writeback (d : Die) (weight : Nat → Nat) (slice : Nat) : Die :=
  let serve (chs : List Nat) : Option Die := chs.findSome? (fun c => ((d.chan c).nextWrite weight).map (fun p => d.writeServed c p))
  let mine := (List.range 5).map (fun i => 5 * slice + i)
  (serve (mine.filter (fun c => (d.chan c).drain))).getD ((d.issueEvict slice).getD ((serve mine).getD d))

/-- EVICTION_WRITEBACK. -/
def execEvictionWriteback (die : BitVec 5) (slice : BitVec 4) (s : State) : Result :=
  .next (s.updDie die.toNat (fun d => d.writeback s.farShare slice.toNat))

/-- SSD_TRACKER_EXPIRE: a stream tracker is freed (R191). (DEDUCED: log entry 30). -/
def execSsdTrackerExpire (die : BitVec 5) (slice : BitVec 4) (i : BitVec 3) (s : State) : Result :=
  .next (s.updDie die.toNat (fun d => { d with trackers := SMap.del d.trackers (slice.toNat * 8 + i.toNat) }))

/-- The visible frame that physical frame `i` of a position serves (R177, R179). -/
def Die.servedFrame (d : Die) (pos i : Nat) : Option Nat :=
  let rep (w : Nat) : Nat := fld (BitVec.ofNat 32 w) 5 9
  let replaced (f : Nat) : Bool := d.frep.any (fun p => Nat.testBit p.2 31 && rep p.2 == f)
  if 16 ≤ pos then let f := 304 + 20 * (pos - 16) + i; if replaced f then none else some f
  else if i < 19 then let f := 19 * pos + i; if replaced f then none else some f
  else (d.frep.find? (fun p => Nat.testBit p.2 31 && p.2 % 32 == pos)).map (fun p => rep p.2)

/-- The line that the scrubber of a channel reads at index `n` of 655,360 (R178, R197). -/
def Die.scrubTarget (d : Die) (channel n : Nat) : Option Nat :=
  let m := n % 32768
  let low := (channel % 4) ^^^ (m % 4) ^^^ (m / 4 % 4)
  (d.servedFrame (channel / 4) (n / 32768)).map (fun f => f * 2 ^ 17 + 4 * m + low)

/-- STACK_SCRUB: the patrol scrubber of a channel reads its next line (R197). The fault of an uncorrectable error arises at
the first read of the line from the stack. -/
def execStackScrub (die : BitVec 5) (channel : BitVec 7) (found : Ecc) (s : State) : Result :=
  if 80 ≤ channel.toNat then .next s else
  let d := s.die die.toNat
  let n := SMap.get d.scrubLine channel.toNat 0
  let s1 := s.updDie die.toNat (fun d => { d with scrubLine := SMap.set d.scrubLine channel.toNat ((n + 1) % 655360) })
  .next (match d.scrubTarget channel.toNat n with
    | none => s1
    | some line =>
      match found with
      | .clean => s1
      | .corrected => s1.updDie die.toNat Die.stkCorrected
      | .uncorrectable =>
        let s2 := s1.updDie die.toNat (fun d => d.stkRecord line true)
        if (d.holds line).isSome then s2 else s2.poisonLine (lineSpa die.toNat line))

/-- The throttle step in service mode (R199): a rise by as many steps as the temperature reaches, else a fall by as many as
it leaves. -/
def throttleStep (t hyst step temp : Nat) : Nat :=
  let up := ((List.range 3).filter (fun i => decide (t + 3 * i ≤ temp))).length
  if step < up then up else
  (List.range 3).foldl (fun st _ => if 0 < st && decide (temp + hyst ≤ t + 3 * (st - 1)) then st - 1 else st) step

/-- The refresh rate in firmware-driven mode (R200). -/
def firmwareRefresh (refr temp : Nat) : Nat :=
  let up := b2n (decide (85 ≤ temp)) + b2n (decide (95 ≤ temp))
  let down := b2n (decide (83 < temp)) + b2n (decide (93 < temp))
  if refr < up then up else min refr down

/-- STACK_TEMP_MEASURE: TEMP, the throttle step and refresh (R198 to R200); 105 °C trips the module (R201).
(DEDUCED: log entry 69). -/
def execStackTempMeasure (die : BitVec 5) (temp : BitVec 8) (s : State) : Result :=
  let t := temp.toNat
  if 105 ≤ t then .next s.trip else
  let d := s.die die.toNat
  let service := s.mod.stage == .ready
  let step := if service then throttleStep d.stkT d.stkHyst d.stkStep t else 0
  let refr := if service then 2 else firmwareRefresh d.stkRefr t
  let s1 := s.updDie die.toNat (fun d => { d with stkTemp := t, stkStep := step, stkRefr := refr })
  .next (if step = d.stkStep ∧ refr = d.stkRefr then s1
    else s1.trace die.toNat 0 9 none 0 0 0 (t + step * 2 ^ 8 + refr * 2 ^ 10))

/-- DIE_TEMP_MEASURE: module-wide throttling, THOLD and the trip (R236, R394). (DEDUCED: log entry 69). -/
def execDieTempMeasure (die : BitVec 5) (temp : BitVec 8) (s : State) : Result :=
  let t := temp.toNat
  if 125 ≤ t then .next s.trip else
  let thold (d : Die) : Bool := if 110 ≤ t then true else if t ≤ 105 then false else d.thold
  let s1 := s.updDie die.toNat (fun d => { d with dieTemp := t, thold := thold d })
  let therm : Bool := if s1.dies.any (fun p => decide (100 ≤ p.2.dieTemp)) then true
    else if s1.dies.all (fun p => decide (p.2.dieTemp ≤ 97)) then false else s1.mod.therm
  .next (s1.updMod (fun m => { m with therm := therm }))

/-- THERMAL_CLOCK_STEP: throttled clocks fall by 200 MHz while any die reads 100 °C, and rise by 100 MHz once every die reads
97 °C or less (R394). -/
def execThermalClockStep (s : State) : Result :=
  .next (if s.dies.any (fun p => decide (100 ≤ p.2.dieTemp)) then
      s.updMod (fun m => { m with thermMhz := some (max 800 (m.thermMhz.getD m.govMhz - 200)) })
    else if s.dies.all (fun p => decide (p.2.dieTemp ≤ 97)) then
      s.updMod (fun m => { m with thermMhz := m.thermMhz.bind (fun t => if m.govMhz ≤ t + 100 then none else some (t + 100)) })
    else s)

/-- The power limit in force: VIN × 112.5 A below 54 V (R390). -/
def Module.limitNow (m : Module) : Nat :=
  let vin := fld m.sensors 0 16
  if vin ≠ 0 ∧ vin < 5400 then min m.plimit (vin * 9 / 8) else m.plimit

/-- GOVERNOR_STEP: new limit and ceiling take effect, and the module core clock changes in steps of 25 MHz (R390 to R392).
(DEDUCED: log entry 69). -/
def execGovernorStep (avgWatts : BitVec 16) (steps : BitVec 4) (s : State) : Result :=
  .next (s.updMod (fun m =>
    let m1 := { m with plimit := m.plimitNew, ceiling := m.ceilingNew }
    let lim := m1.limitNow
    let f := min m.govMhz m1.ceiling
    let g := if lim < avgWatts.toNat then max 800 (f - 25 * min steps.toNat 8)
      else if avgWatts.toNat * 100 < 98 * lim then min m1.ceiling (f + 25)
      else f
    { m1 with govMhz := g }))

/-- The module core clock after thermal throttling. (DEDUCED: log entry 69). -/
def Module.coreMhz (m : Module) : Nat := min m.govMhz (m.thermMhz.getD m.govMhz)

/-- The sensor block of a sample (R399). -/
def State.sensorBlock (s : State) (r : SensorReading) : List Byte :=
  let perDie (f : Die → Nat) : List Byte := (List.range 32).map (fun d => BitVec.ofNat 8 (f (s.die d)))
  leBytes 2 r.vin.toNat ++ leBytes 2 r.iin.toNat ++ leBytes 2 r.pin.toNat ++ leBytes 2 s.mod.limitNow
    ++ leBytes 2 s.mod.ceiling ++ leBytes 2 s.mod.coreMhz ++ [r.inlet, r.outlet] ++ leBytes 2 (s.warn r)
    ++ perDie (fun d => d.dieTemp) ++ perDie (fun d => d.stkTemp) ++ (r.ports ++ [0, 0, 0, 0]).take 4
    ++ leBytes 4 ((List.range 32).foldl (fun n d => n + b2n (s.die d).thold * 2 ^ d) 0) ++ leBytes 8 r.uptime.toNat

/-- SENSOR_SAMPLE: the MMC samples its sensors and drives ALERT# (R397, R399). (DEDUCED: log entry 69). -/
def execSensorSample (r : SensorReading) (s : State) : Result :=
  if !s.mod.mmcRun then .next s else
  let s1 := s.updMod (fun m => { m with sensors := BitVec.ofNat 2048 (leNat (s.sensorBlock r)) })
  .next (s1.updMod (fun m => { m with alert := s1.alertNow }))

end Sys2Proof.Machine
end

