-- ==== Sys2Proof/Machine/Mmu.lean ====
section
/-! DEFINITION. Translation commands and events: walks, page-fault records and answers (R210 to R217), table bases and the
level-2 pool (R207, R208), MAP and UNMAP (R169, R170, R206, R209), windows (R220, R221) and HINT_MIGRATE (R219). -/

namespace Sys2Proof.Machine

/-- WALK_COMPLETE: a walk for a context's access fills the TLBs, or produces the fault of that access, or waits for a table line
(R204, R210, R211); a prefetch walk fills the die TLB, or nothing (R212). -/
def State.walkDone (s : State) (die fn : Nat) (va : Word) (a : Access) (req : Option CtxRef) : State :=
  match req with
  | none =>
    if vaBad va then s else
    let s1 := s.walkTouch fn va.toNat
    match s.walk fn va.toNat with
    | .entry big e =>
      if (pteDenies e a).isSome then s1
      else s1.fillDieTlb die { fn := fn, page := va.toNat / pageBytes big, big := big, entry := e }
    | _ => s1
  | some c =>
    if c.die.toNat ≠ die || s.tenantOf c.key != fn || (s.ctxOf c).mode != .running then s
    else if vaBad va then s.takeTrap c 5 va
    else State.accEnd c (if a = .fetch then 1 else 0) (s.locate (s.ctxAgent c) va.toNat a) (fun _ s => s)

/-- WALK_COMPLETE. A context that does not exist has no walk. -/
def execWalkComplete (die : BitVec 5) (fn : BitVec 6) (va : Word) (a : Access) (req : Option CtxRef) (s : State) : Result :=
  match req with
  | none => .next (s.walkDone die.toNat fn.toNat va a none)
  | some c => onCtx c (s.walkDone die.toNat fn.toNat va a (some c))

/-- The next tag of a function that no outstanding record of it holds (R214). (DEDUCED: log entry 27). -/
def State.freshTag (s : State) (n : Nat) : Nat :=
  let used := s.dies.flatMap (fun p => (p.2.faults.filter (fun f => f.fn == n)).filterMap (fun f => f.tag))
  let t := (s.func n).nextTag
  ((List.range (used.length + 1)).map (fun i => (t + i) % 65536)).find? (fun x => !(used.contains x)) |>.getD t

/-- FAULT_RECORD_WRITE: the record of a page fault is written once, when the ring has room (R213 to R215). -/
def execFaultRecordWrite (die : BitVec 5) (fn : BitVec 6) (page : BitVec 23) (s : State) : Result :=
  let n := fn.toNat
  let mine (f : PageFault) : Bool := f.fn == n && f.page == page.toNat && f.tag.isNone
  match (s.die die.toNat).faults.find? mine with
  | none => .next s
  | some f =>
    if !(s.func n).fqEn || (s.func n).fqFull then .next s else
    let t := s.freshTag n
    let s1 := s.updDie die.toNat (fun d => { d with faults := updFirst mine (fun f => { f with tag := some t }) d.faults })
    .next ((s1.updFunc n (fun x => { x with nextTag := (t + 1) % 65536 })).putRecord n
      (recordBytes f.va t 0 f.cause f.source f.queue f.seq f.count))

/-- An engine of an answered record goes on, and its stall's end is traced (R216, R217, R376). -/
def State.engineResumes (s : State) (f : PageFault) (e : Engine) (va : Nat) : State :=
  match e with
  | .ctx c =>
    if (s.ctxOf c).mode != .stalled then s else
    let (q, n) := (s.ctxOf c).jobNums
    (s.updCtxOf c (fun x => { x with mode := .running })).trace c.die.toNat f.fn 7 (some c.core.toNat) c.idx q n
      (va % 2 ^ 48 + 2 ^ 63)
  | .feed t =>
    match s.xfer t with
    | some x =>
      let here (l : FeedLane) : Bool := l.stalled == some va
      if !(x.lanes.any here) then s else
      (s.putXfer t { x with lanes := x.lanes.map (fun l => if here l then { l with stalled := none } else l) }).trace (xferDie t) f.fn 7 none (xferCtx t) f.queue f.seq (va % 2 ^ 48 + 2 ^ 63)
    | none => s
  | .ligature g d =>
    match s.ligOp g d with
    | some o => (s.putOp { o with stalled := false }).trace d f.fn 7 none 0 f.queue f.seq (va % 2 ^ 48 + 2 ^ 63)
    | none => s

/-- Commits every issued vector instruction of a context, as before a precise trap (R138, R150). -/
def State.commitAll (s : State) (c : CtxRef) : State := forN (s.ctxOf c).vq.length (fun _ s => s.vecCommit c) s

/-- An engine of a declined record: the access-fault trap, or the end of its command with FAULT_PAGE (R216). -/
def State.engineDeclined (s : State) (e : Engine) (va : Nat) : State :=
  match e with
  | .ctx c => (s.commitAll c).takeTrap c 5 (BitVec.ofNat 64 va)
  | .feed t =>
    match s.xfer t with
    | some x => s.putXfer t (x.stop 6 0xFF)
    | none => s
  | .ligature g d =>
    match s.ligOp g d with
    | some o => s.ligEnd o 6 0xFF
    | none => s

/-- The die that keeps a function's outstanding record of a tag. -/
def State.faultAt (s : State) (n tag : Nat) : Option (Nat × PageFault) :=
  s.dies.findSome? (fun p => (p.2.faults.find? (fun f => f.fn == n && f.tag == some tag)).map (fun f => (p.1, f)))

/-- The answer to a record: it is no longer outstanding, and its engines go on or are declined. -/
def State.answerFault (s : State) (n tag : Nat) (retry : Bool) : State :=
  match s.faultAt n tag with
  | none => s
  | some (die, f) =>
    let s1 := s.updDie die (fun d => { d with faults := delFirst (fun x => x.fn == n && x.tag == some tag) d.faults })
    f.engines.foldl (fun s e =>
      let s2 := s.engineResumes f e.1 e.2
      if retry then s2 else s2.engineDeclined e.1 e.2) s1

/-- FAULT_RETRY: function n, or the managing function, writes RETRY (R216). -/
def execFaultRetry (fn n : BitVec 6) (tag : BitVec 16) (s : State) : Result :=
  .next (if fn = n || s.isMgmt fn.toNat then s.answerFault n.toNat tag.toNat true else s)

/-- FAULT_DECLINE (R216). -/
def execFaultDecline (fn n : BitVec 6) (tag : BitVec 16) (s : State) : Result :=
  .next (if fn = n || s.isMgmt fn.toNat then s.answerFault n.toNat tag.toNat false else s)

/-- FAULT_ANSWER_TIMEOUT: with TMO not 0, an unanswered record is treated as declined (R216). -/
def execFaultAnswerTimeout (n : BitVec 6) (tag : BitVec 16) (s : State) : Result :=
  .next (if (s.func n.toNat).tmo = 0 then s else s.answerFault n.toNat tag.toNat false)

/-- FAULT_QUEUE_HEAD_WRITE: function n writes HEAD (R215). -/
def execFaultQueueHeadWrite (fn n : BitVec 6) (head : BitVec 12) (s : State) : Result :=
  .next (if fn = n then s.updFunc n.toNat (fun f => { f with fqHead := head.toNat }) else s)

/-- The frame is held by some function. -/
def State.frameHeld (s : State) (key : Nat) : Bool :=
  match SMap.find s.frames key with
  | some (.held _) => true
  | _ => false

/-- The frame is free (R272). -/
def State.frameFree (s : State) (key : Nat) : Bool :=
  (SMap.find s.frames key).isNone && !(s.systemFrame key) && decide (key % 512 < 384)

/-- Present leaves of a function's table: VA, size and entry. -/
def State.leaves (s : State) (n : Nat) : List (Nat × Bool × Nat) :=
  if !(s.func n).tbValid then [] else
  let base := (s.func n).tbBase * 2 ^ 21
  let big := (Memory.wordsIn s.mem base (2 ^ 21)).filterMap (fun a =>
    let e := s.pte a
    if e % 2 = 1 && Nat.testBit e 1 then some ((a - base) / 8 * 2 ^ 30, true, e) else none)
  big ++ (s.pointers n).flatMap (fun p => (Memory.wordsIn s.mem p.2 256).filterMap (fun a =>
    let e := s.pte a
    if e % 2 = 1 then some (p.1 + (a - p.2) / 8 * 2 ^ 25, false, e) else none))

/-- Frames of a stack leaf, by key. -/
def leafFrames (big : Bool) (e : Nat) : List Nat :=
  if e / 64 % 4 = 0 then (List.range (if big then 32 else 1)).map (fun i => e / 2 ^ 25 % 2 ^ 14 + i) else []

/-- Some page-table entry maps the frame. -/
def State.frameMapped (s : State) (key : Nat) : Bool :=
  s.funcs.any (fun p => (s.leaves p.1).any (fun l => (leafFrames l.2.1 l.2.2).contains key))

/-- A function has a command in flight (R207). -/
def State.funcBusy (s : State) (n : Nat) : Bool :=
  s.cmds.any (fun c => c.tenant == n || (s.queue c.ref.queue.toNat).owner == n)

/-- A write of MMU_TBASEn by a function (R207). -/
def State.tbaseWrite (s : State) (fn k : Nat) (v : Word) : State :=
  let f := s.func k
  let valid := v.getLsbD 63
  let base := fld v 21 18
  let drops := f.tbValid && (!valid || base != f.tbBase)
  if !(s.isMgmt fn) || s.funcBusy k
      || (valid && (decide (384 ≤ base / 16 % 512) || s.frameHeld (base / 16)))
      || (drops && s.windows.any (fun p => p.2.valid && p.2.tenant == k)) then s else
  let s1 := (if drops then s.dropTable k (if valid then some base else none) else s).dropTlb k
  s1.updFunc k (fun x => { x with
    tbValid := valid, tbBase := base, tbInit := valid && f.tbValid && base == f.tbBase && f.tbInit })

/-- MMU_TBASE_WRITE. -/
def execMmuTbaseWrite (fn n : BitVec 6) (v : Word) (s : State) : Result := .next (s.tbaseWrite fn.toNat n.toNat v)

/-- TABLE_INIT_DONE: all level-1 entries of a new table have P = 0 (R207). A frame that is still being zeroed is zeroed first
(R273). -/
def execTableInitDone (n : BitVec 6) (s : State) : Result :=
  let f := s.func n.toNat
  .next (if f.tbValid && !f.tbInit && SMap.find s.frames (f.tbBase / 16) != some .zeroing then
      (s.zeroMem (f.tbBase * 2 ^ 21) (2 ^ 21)).updFunc n.toNat (fun x => { x with tbInit := true })
    else s)

/-- A write of MMU_L2POOL by a function (R208). -/
def State.l2poolWrite (s : State) (fn : Nat) (v : Word) : State :=
  let first := fld v 25 14
  let n := fld v 0 9
  if !(s.isMgmt fn) || s.funcs.any (fun p => p.2.tbValid) || decide (32 < n) || decide (384 ≤ first % 512)
      || decide (384 < first % 512 + n) || (List.range n).any (fun i => s.frameHeld (first + i)) then s
  else { s with l2first := first, l2frames := n, l2used := [] }

/-- MMU_L2POOL_WRITE. (DEDUCED: log entry 53). -/
def execMmuL2poolWrite (fn : BitVec 6) (v : Word) (s : State) : Result := .next (s.l2poolWrite fn.toNat v)

/-- The started command of an opcode. -/
def State.running (s : State) (r : CmdRef) (op : Nat) : Option Cmd :=
  (s.cmd r).bind (fun c => if c.isStarted && c.opcode == op then some c else none)

/-- A command completes with a status, DETAIL and RESULT. -/
def State.complete (s : State) (r : CmdRef) (status detail result : Nat) : State :=
  s.updCmd r (fun c => { c.finish status detail with result := result })

/-- The pages of a page-form MAP or UNMAP: first VA, size, count. (DEDUCED: log entry 25). -/
structure PageArgs where
  va : Nat
  big : Bool
  count : Nat

/-- Reads them. -/
def Cmd.pages (c : Cmd) : PageArgs :=
  { va := c.param 0, big := Nat.testBit (c.param 2) 32, count := c.param 2 % 2 ^ 32 }

/-- Bytes of the range. -/
def PageArgs.bytes (p : PageArgs) : Nat := p.count * pageBytes p.big

/-- The checks that MAP and UNMAP share: alignment, range and MMU_TBASEn.VALID (R206). (DEDUCED: log entry 25). -/
def State.pagesOk (s : State) (fn : Nat) (p : PageArgs) : Bool :=
  p.va % pageBytes p.big == 0 && decide (p.va + p.bytes ≤ 2 ^ 48) && (s.func fn).tbValid

/-- Entry `i` of a MAP: TARGET advanced by i page sizes. -/
def mapEntry (p1 i : Nat) (big : Bool) : Nat := if p1 % 2 = 0 then p1 else p1 + i * pageBytes big

/-- The checks of R206 on one entry. (DEDUCED: log entry 70). -/
def State.entryOk (s : State) (fn e : Nat) (big : Bool) : Bool :=
  if e % 2 = 0 then e == 0 else
  let w := BitVec.ofNat 64 e
  decide (e < 2 ^ 64) && w.getLsbD 1 && fld w 8 17 == 0 && !(w.getLsbD 5) && !(w.getLsbD 2)
    && (!big || fld w 25 5 == 0) && (pteKind w == 0 || !(w.getLsbD 4)) &&
  match pteKind w with
  | 0 => fld w 39 25 == 0 && (leafFrames big e).all (fun k =>
      decide (k % 512 < 384) && SMap.find s.frames k == some (.held fn))
  | 1 => true
  | 2 => fld w 62 2 == 0 && !(s.mod.placeValid && fld w 52 10 == s.mod.place)
  | _ => false

/-- A present page of the other size covers the page at `va`. (DEDUCED: log entry 25). -/
def State.otherSize (s : State) (fn va : Nat) (big : Bool) : Bool :=
  let e := s.pte (l1EntryAddr (s.func fn) va)
  e % 2 = 1 && Nat.testBit e 1 != big

/-- The address of the entry of a page, when its table exists. -/
def State.entryAddr (s : State) (fn va : Nat) (big : Bool) : Option Nat :=
  let a := l1EntryAddr (s.func fn) va
  if big then some a else
  let e := s.pte a
  if e % 2 = 1 && !(Nat.testBit e 1) then some (l2EntryAddr e va) else none

/-- The entry of a page; 0 when there is none. -/
def State.entryOf (s : State) (fn va : Nat) (big : Bool) : Nat := ((s.entryAddr fn va big).map s.pte).getD 0

/-- VAs of the pages. -/
def PageArgs.vas (p : PageArgs) : List Nat := (List.range p.count).map (fun i => p.va + i * pageBytes p.big)

/-- The lowest free level-2 table of the pool (R208), by number SPA / 256. (DESIGN CHOICE: log entry 24). -/
def State.freeL2 (s : State) : Option Nat :=
  ((List.range (min (s.l2used.length + 1) (s.l2frames * 131072))).map (fun i => s.l2first * 131072 + i)).find?
    (fun t => !(s.l2used.contains t))

/-- Level-2 tables that the pages need beyond those they have. (DESIGN CHOICE: log entry 24). -/
def State.newTables (s : State) (fn : Nat) (p : PageArgs) : Nat :=
  if p.big then 0 else
  (p.vas.filterMap (fun va => if s.pte (l1EntryAddr (s.func fn) va) % 2 = 0 then some (va / 2 ^ 30) else none)).eraseReps.length

/-- Writes a page-table entry through the die cache. -/
def State.putPte (s : State) (fn a e : Nat) : State := (s.cacheWrite a 8 fn 0).putMemLe a 8 e

/-- Writes a page's entry (R205, R208): a level-2 table is taken when one is needed, and an empty one goes back. -/
def State.writeEntry (s : State) (fn va : Nat) (big : Bool) (e : Nat) : State :=
  let a1 := l1EntryAddr (s.func fn) va
  if big then s.putPte fn a1 e else
  let s1 := if s.pte a1 % 2 = 1 || e = 0 then s else
    match s.freeL2 with
    | none => s
    | some t =>
      let z := { s.zeroMem (t * 256) 256 with l2used := t :: s.l2used, poison := s.poison.filter (fun l => l != t) }
      z.putPte fn a1 (t * 256 + 1)
  match s1.entryAddr fn va false with
  | none => s1
  | some a2 =>
    let s2 := s1.putPte fn a2 e
    let t := a2 / 256
    if (List.range 32).all (fun i => s2.pte (t * 256 + 8 * i) % 2 == 0) then
      { s2.putPte fn a1 0 with l2used := s2.l2used.filter (fun x => x != t) }
    else s2

/-- Every TLB drops the translations of a range of a function, and its access counters end (R209, R218).
(DEDUCED: log entry 26). -/
def State.dropRange (s : State) (fn lo n : Nat) : State :=
  let hit (t : TlbEntry) : Bool :=
    t.fn == fn && decide (t.page * pageBytes t.big < lo + n ∧ lo < (t.page + 1) * pageBytes t.big)
  { s with
    dies := SMap.mapVals s.dies (fun _ d => { d with
      tlb := d.tlb.filter (fun t => !(hit t)), walkCache := d.walkCache.filter (fun t => !(hit t))
      accCtrs := d.accCtrs.filter (fun c => !(c.fn == fn && decide (lo < (c.page + 1) * 2 ^ 25 ∧ c.page * 2 ^ 25 < lo + n))) })
    cores := SMap.mapVals s.cores (fun _ k => { k with tlb := k.tlb.filter (fun t => !(hit t)) }) }

/-- The cores that a function owns. -/
def State.coresOf (s : State) (fn : Nat) : List Nat :=
  (s.cores.filter (fun p => p.2.owned && p.2.owner == fn)).map (fun p => p.1)

/-- A vector instruction of a context has translated a store to memory that it has not made yet. -/
def Ctx.storesToMem (x : Ctx) : Bool :=
  (x.vq ++ x.drain).any (fun o => o.stores.any (fun st => match st with | .mem _ _ _ => true | _ => false))

/-- The buffered stores of a function's cores go to their old targets (R209); none while a vector store has still to be
made, or one has to wait. -/
def State.drainFunc (s : State) (fn : Nat) : Option State :=
  let ctxs := (s.coresOf fn).flatMap (fun k => (List.range 4).map (fun j => ctxRefOf k j))
  if ctxs.any (fun c => (s.ctxOf c).storesToMem) then none else
  match accEach (fun c s => s.drainCtx (s.ctxAgent c) c.key c.idx) ctxs s with
  | .ok _ s1 => some s1
  | _ => none

/-- Accesses that were translated through a range of a function are still on their way to their targets (R209): remote writes
with no acknowledgement, and reads with no answer. -/
def State.rangeBusy (s : State) (fn lo n : Nat) : Bool :=
  let mine (cmd : Option CmdRef) (va : Nat) : Bool :=
    decide (lo ≤ va ∧ va < lo + n) && ((cmd.bind s.cmd).map (fun c => c.tenant)).getD fn == fn
  s.fab.unacked.any (fun u => mine u.cmd u.va) || s.fab.reads.any (fun r => mine r.cmd r.va)

/-- The function's older accesses to a range complete to their old targets (R209); none while one has still to. -/
def State.settleRange (s : State) (fn lo n : Nat) : Option State :=
  (s.drainFunc fn).bind (fun s1 => if s1.rangeBusy fn lo n then none else some s1)

/-- The entries of some pages are read through the die cache (R186). -/
def State.readEntries (s : State) (fn : Nat) (vas : List Nat) : State := vas.foldl (fun s va => s.walkTouch fn va) s

/-- MAP, page form (R206, R208, R209). (DESIGN CHOICE: log entry 24; DEDUCED: log entry 26). -/
def State.mapPages (s : State) (r : CmdRef) (c : Cmd) : State :=
  let p := c.pages
  let p1 := c.param 1
  let entries := (List.range p.count).map (fun i => mapEntry p1 i p.big)
  if p.count = 0 then s.complete r 0 0 0
  else if !(s.pagesOk c.tenant p) || !(entries.all (fun e => s.entryOk c.tenant e p.big))
      || p.vas.any (fun va => s.otherSize c.tenant va p.big) then s.complete r 11 5 0
  else if p1 ≠ 0 && decide (s.l2frames * 131072 < s.l2used.length + s.newTables c.tenant p) then s.complete r 4 3 0
  else
    let replaces := p.vas.any (fun va => s.entryOf c.tenant va p.big % 2 == 1)
    match (if replaces then s.settleRange c.tenant p.va p.bytes else some s) with
    | none => ((s.drainFunc c.tenant).getD s)
    | some s1 =>
      let s2 := (p.vas.zip entries).foldl (fun s x => s.writeEntry c.tenant x.1 p.big x.2) (s1.readEntries c.tenant p.vas)
      (if replaces then s2.dropRange c.tenant p.va p.bytes else s2).complete r 0 0 0

/-- MAP_PAGE. -/
def execMapPage (c : CmdRef) (s : State) : Result :=
  match s.running c 0x40 with
  | some m => .next (if m.pageForm then s.mapPages c m else s)
  | none => .next s

/-- A VALID window of a tenant covers some of a range (R209). -/
def State.windowed (s : State) (fn lo n : Nat) : Bool :=
  s.windows.any (fun p => p.2.valid && p.2.tenant == fn
    && decide (p.2.baseVa * 256 < lo + n ∧ lo < (p.2.baseVa + p.2.size) * 256))

/-- UNMAP, page form (R209). -/
def State.unmapPages (s : State) (r : CmdRef) (c : Cmd) : State :=
  let p := c.pages
  if p.count = 0 then s.complete r 0 0 0
  else if !(s.pagesOk c.tenant p) || p.vas.any (fun va => s.otherSize c.tenant va p.big)
      || s.windowed c.tenant p.va p.bytes then s.complete r 11 5 0
  else
    match s.settleRange c.tenant p.va p.bytes with
    | none => ((s.drainFunc c.tenant).getD s)
    | some s1 =>
      ((p.vas.foldl (fun s va => s.writeEntry c.tenant va p.big 0) (s1.readEntries c.tenant p.vas)).dropRange c.tenant p.va p.bytes).complete r 0 0 0

/-- UNMAP_PAGE. -/
def execUnmapPage (c : CmdRef) (s : State) : Result :=
  match s.running c 0x41 with
  | some m => .next (if m.pageForm then s.unmapPages c m else s)
  | none => .next s

/-- Two row ranges overlap. -/
def rowsMeet (a n b m : Nat) : Bool := decide (a < b + m ∧ b < a + n)

/-- A tenant's use of handles and rows over its cores (R174). -/
def State.inkUse (s : State) (fn : Nat) : Nat × Nat :=
  (s.coresOf fn).foldl (fun a k => let u := (s.core k).handleUse; (a.1 + u.1, a.2 + u.2)) (0, 0)

/-- A use fits the quota of a resource; without a QUOTA_SET there is no limit. -/
def State.fits (s : State) (fn res use : Nat) : Bool :=
  match SMap.find (s.func fn).quotas res with
  | some lim => decide (use ≤ lim)
  | none => true

/-- MAP, inkwell form (R169, R174). -/
def State.mapInk (s : State) (r : CmdRef) (c : Cmd) : State :=
  let k := c.inkCore
  let h := c.inkHandle
  let p1 := c.param 1
  let base := p1 % 2 ^ 14
  let count := p1 / 2 ^ 16 % 2 ^ 15
  let core := s.core k
  let use := s.inkUse c.tenant
  if !(core.owned && core.owner == c.tenant) || (core.handle h).st == 1 || count == 0 || decide (16384 < base + count)
      || core.handles.any (fun p => p.2.st == 1 && rowsMeet base count p.2.base p.2.count) then s.complete r 11 5 0
  else if !(s.fits c.tenant 1 (use.1 + 1)) then s.complete r 4 1 0
  else if !(s.fits c.tenant 2 (use.2 + count)) then s.complete r 4 2 0
  else
    let new : Handle := { st := 1, wp := Nat.testBit p1 31, count := count, base := base }
    (s.updCore k (fun x => { x with handles := SMap.set x.handles h new }.discardHandle h)).complete r 0 0 0

/-- MAP_INKWELL. (DEDUCED: log entry 25). -/
def execMapInkwell (c : CmdRef) (s : State) : Result :=
  match s.running c 0x40 with
  | some m => .next (if m.pageForm then s else s.mapInk c m)
  | none => .next s

/-- UNMAP, inkwell form (R169). -/
def State.unmapInk (s : State) (r : CmdRef) (c : Cmd) : State :=
  let k := c.inkCore
  let h := c.inkHandle
  let core := s.core k
  if !(core.owned && core.owner == c.tenant) then s.complete r 11 5 0
  else if (core.handle h).st = 0 then s.complete r 0 0 0
  else (s.updCore k (fun x => { x with handles := SMap.set x.handles h {} }.discardHandle h)).complete r 0 0 0

/-- UNMAP_INKWELL. -/
def execUnmapInkwell (c : CmdRef) (s : State) : Result :=
  match s.running c 0x41 with
  | some m => .next (if m.pageForm then s else s.unmapInk c m)
  | none => .next s

/-- MMU_WINn as 128 bits (R220). -/
def Window.value (w : Window) : Nat :=
  b2n w.rd + b2n w.wr * 2 + b2n w.red * 4 + b2n w.valid * 2 ^ 31 + w.tenant * 2 ^ 34 + w.srcGrp * 2 ^ 40 + w.size * 2 ^ 48
    + w.baseVa * 2 ^ 80

/-- Reads 128 bits as MMU_WINn. -/
def Window.parse (v : BitVec 128) : Window :=
  { baseVa := fld v 80 40, size := fld v 48 32, srcGrp := fld v 40 8, tenant := fld v 34 6, valid := v.getLsbD 31
    red := v.getLsbD 2, wr := v.getLsbD 1, rd := v.getLsbD 0 }

/-- Every page of a range is present and is a stack or host page (R221). -/
def State.windowPages (s : State) (fn va n : Nat) : Bool :=
  (vaParts va n).all (fun p =>
    match s.translate fn p.1 .read with
    | .at (.remote _ _ _) _ _ => false
    | .at _ _ _ => true
    | _ => false)

/-- WINDOW_SET (R221, R253). -/
def execWindowSet (c : CmdRef) (s : State) : Result :=
  match s.running c 0x42 with
  | none => .next s
  | some m =>
    let n := m.param 0 % 4096
    let w := Window.parse (BitVec.ofNat 128 (m.param 1 + m.param 2 * 2 ^ 64))
    let others := (s.windows.filter (fun p => p.1 != n && p.2.valid && p.2.tenant == w.tenant)).length
    if w.size = 0 || decide (2 ^ 40 < w.baseVa + w.size) || !(s.windowPages w.tenant (w.baseVa * 256) (w.size * 256)) then
      .next (s.complete c 11 5 0)
    else if w.valid && !(s.window n).valid && !(s.fits w.tenant 4 (others + 1)) then .next (s.complete c 4 4 0)
    else .next ((s.updWindow n (fun _ => w)).complete c 0 0 0)

/-- The agent of a HINT_MIGRATE's copy. (DESIGN CHOICE: log entry 79). -/
def State.migrateAgent (s : State) (r : CmdRef) (c : Cmd) : Agent :=
  { fn := c.tenant, die := r.die, cmd := some r, who := none, engine := .feed (.cmd r), queue := r.queue.toNat,
    cls := (s.queue r.queue.toNat).prio, feed := 7 }

/-- The end of an access of a HINT_MIGRATE: a poisoned line, one of the page table too, raises the stack uncorrectable fault
(R196, R211). (DESIGN CHOICE: log entry 79). -/
def State.migrateAcc {α : Type} (r : CmdRef) (x : Acc α) (f : α → State → State) : State :=
  match x with
  | .ok a s => f a s
  | .wait s => s
  | .poison spa s => s.feedFault (.cmd r) 7 3 spa 0 0 0
  | .lost reason s => s.complete r 10 (reason * 2 ^ 16) 0
  | .page _ _ _ s => s.complete r 11 5 0
  | .trap _ _ s => s

/-- An entry of a page for a die engine: from the die TLB, or by a walk that fills it (R210). -/
def State.dieEntry (s : State) (ag : Agent) (va : Nat) : Acc (Bool × Word) :=
  match (s.die ag.die).tlb.find? (fun t => t.covers ag.fn va) with
  | some t => .ok (t.big, t.entry) s
  | none => (s.walkFor ag va false).bind (fun p s =>
      .ok p (s.fillDieTlb ag.die { fn := ag.fn, page := va / pageBytes p.1, big := p.1, entry := p.2 }))

/-- HINT_MIGRATE copies a host page into frames of the tenant line by line, and then replaces the page's entry (R219,
R231). -/
def State.migrate (s : State) (r : CmdRef) (c : Cmd) : State :=
  let va := c.param 0
  let dst := c.param 1
  let ag := s.migrateAgent r c
  if 2 ^ 48 ≤ va then s.complete r 11 5 0 else
  State.migrateAcc r (s.dieEntry ag va) (fun p s =>
    let (big, e) := p
    let n := pageBytes big
    let base := va / n * n
    let new := dst + e.toNat % 2 ^ 25 / 256 * 256 + e.toNat % 64
    if pteKind e != 1 || dst % n != 0 || decide (2 ^ 39 ≤ dst) || !(s.entryOk c.tenant new big)
        || (leafFrames big new).any s.frameMapped then s.complete r 11 5 0
    else if c.moved * 256 < n then
      let at_ := dst + c.moved * 256
      State.migrateAcc r ((s.readLoc ag (base + c.moved * 256) ((pteLoc e big base (s.funcLink c.tenant)).add (c.moved * 256)) 256).bind
        (fun bs s => (s.writeLoc ag 0 (.stack at_) bs).bind (fun _ s => .ok () (s.accessDone ag.engine ag.cmd))))
        (fun _ s => s.updCmd r (fun m => { m with moved := m.moved + 1 }))
    else
      match s.settleRange c.tenant base n with
      | some s1 => ((s1.writeEntry c.tenant base big new).dropRange c.tenant base n).complete r 0 0 0
      | none => (s.drainFunc c.tenant).getD s)

/-- HINT_MIGRATE. -/
def execHintMigrate (c : CmdRef) (s : State) : Result :=
  match s.running c 0x60 with
  | some m => .next (s.migrate c m)
  | none => .next s

end Sys2Proof.Machine
end

