-- ==== Sys2Proof/Machine/System.lean ====
section
/-! DEFINITION. Status registers, the handler, PAUSE, DONE, interrupts, the alarm and the watchdog (R141, R144 to
R146, R150 to R154, R161, R332). -/

namespace Sys2Proof.Machine

/-- ISA_FEATURES (R161). -/
def State.features (s : State) : Nat :=
  0x1E0007 + b2n s.mod.evict * 2 ^ 32 + b2n s.mod.reply * 2 ^ 33

/-- ISA_EVT (R150). -/
def State.evt (s : State) (x : Ctx) : Nat :=
  b2n x.cpend * 2 ^ 10 + b2n (s.apend x) * 2 ^ 9 + b2n x.ppend * 2 ^ 8 + b2n x.hen * 2 ^ 7 + b2n x.cen * 2 ^ 5
    + b2n x.aen * 2 ^ 4 + b2n x.pen * 2 ^ 3 + b2n x.inh * 2 ^ 2 + b2n x.gsave * 2 + b2n x.gate

/-- MXU_CTOL (R85). -/
def Core.ctol (k : Core) : Nat := k.ctolFp16 * 2 ^ 8 + k.ctolBf16

/-- The value that SRD returns (R145). -/
def State.srRead (s : State) (c : CtxRef) (n : Nat) : Word :=
  let k := s.core c.key
  let x := s.ctxOf c
  match n with
  | 0x000 => 0x00400200#64
  | 0x001 => BitVec.ofNat 64 s.features
  | 0x002 => BitVec.ofNat 64 (c.idx * 2 ^ 20 + s.place c.die.toNat c.core.toNat)
  | 0x003 => BitVec.ofNat 64 k.owner
  | 0x008 => s.isaCycle c.key
  | 0x009 => x.retired
  | 0x00A => s.time
  | 0x00B => x.alarm
  | 0x010 => x.xflg.setWidth 64
  | 0x020 => BitVec.ofNat 64 (x.hbase.toNat * 256)
  | 0x021 => x.hpc
  | 0x022 => x.hwhy.setWidth 64
  | 0x023 => x.harg
  | 0x024 => BitVec.ofNat 64 (s.evt x)
  | 0x026 => x.hsave
  | 0x100 => x.vxflg.setWidth 64
  | 0x101 => BitVec.ofNat 64 (b2n x.seeded * 2 ^ 32 + x.gen.value.toNat)
  | 0x102 => x.cvtsat.setWidth 64
  | 0x103 => x.cvtflush.setWidth 64
  | 0x104 => BitVec.ofNat 64 (x.mismatch.toNat * 2 ^ 16 + x.resOvf.toNat)
  | 0x110 => BitVec.ofNat 64 k.cwin
  | 0x111 => BitVec.ofNat 64 k.ctol
  | 0x112 => BitVec.ofNat 64 k.fstat.value
  | _ => 0

/-- The old value with the bits of a mask replaced (R144). -/
def masked (old v m : Word) : Word := (old &&& ~~~m) ||| (v &&& m)

/-- Bit `i` of a masked write: the new bit where the mask selects it, else the old one. -/
def maskedBit (old : Bool) (v m : Word) (i : Nat) : Bool := if m.getLsbD i then v.getLsbD i else old

/-- A W1C bit after a masked write: a written 1 clears it (R10). -/
def w1c (old : Bool) (v m : Word) (i : Nat) : Bool := old && !(m.getLsbD i && v.getLsbD i)

/-- The effect of a masked write on a context's own registers (R10, R47, R145, R150). -/
def Ctx.srWrite (x : Ctx) (n : Nat) (v m : Word) : Ctx :=
  match n with
  | 0x00B => { x with alarm := masked x.alarm v m }
  | 0x010 => { x with xflg := (masked (x.xflg.setWidth 64) v m).setWidth 5 }
  | 0x020 => { x with hbase := (masked (BitVec.ofNat 64 (x.hbase.toNat * 256)) v m).extractLsb' 8 40 }
  | 0x021 => { x with hpc := masked x.hpc v m }
  | 0x024 => { x with cpend := w1c x.cpend v m 10, ppend := w1c x.ppend v m 8, hen := maskedBit x.hen v m 7
                      cen := maskedBit x.cen v m 5, aen := maskedBit x.aen v m 4, pen := maskedBit x.pen v m 3
                      gsave := maskedBit x.gsave v m 1, gate := maskedBit x.gate v m 0 }
  | 0x026 => { x with hsave := masked x.hsave v m }
  | 0x100 => { x with vxflg := (masked (x.vxflg.setWidth 64) v m).setWidth 5 }
  | 0x101 =>
    if fld m 0 32 = 0 then x else
    let g := (masked (x.gen.value.setWidth 64) v m).setWidth 32
    { x with gen := .val (if g = 0 then 1 else g), seeded := true }
  | 0x102 => { x with cvtsat := (masked (x.cvtsat.setWidth 64) v m).setWidth 32 }
  | 0x103 => { x with cvtflush := (masked (x.cvtflush.setWidth 64) v m).setWidth 32 }
  | 0x104 =>
    let r := masked (BitVec.ofNat 64 (x.mismatch.toNat * 2 ^ 16 + x.resOvf.toNat)) v m
    { x with mismatch := r.extractLsb' 16 16, resOvf := r.extractLsb' 0 16 }
  | _ => x

/-- ISA_POKE: a 1 in bit c sets PPEND of ctx c (R145). -/
def Core.poke (k : Core) (bits : Nat) : Core :=
  (List.range 4).foldl (fun k j => if Nat.testBit bits j then k.updCtx j (fun x => { x with ppend := true }) else k) k

/-- MXU_CWIN: a value above 4,096 is stored as 4,096 (R80). -/
def Core.setCwin (k : Core) (v : Nat) : Core := { k with cwin := min v 4096 }

/-- The effect of a masked write of a status register on the core (R144 to R146): RO registers stay. -/
def Core.srWrite (k : Core) (j n : Nat) (v m : Word) : Core :=
  match n with
  | 0x025 => k.poke (v &&& m).toNat
  | 0x110 => k.setCwin ((masked (BitVec.ofNat 64 k.cwin) v m).toNat % 2 ^ 13)
  | _ => k.updCtx j (fun x => x.srWrite n v m)

/-- No request, member or pass of a context is left in the matrix unit (R49, R52). -/
def Core.mmDone (k : Core) (j : Nat) : Bool :=
  !((k.mmWait ++ k.group).any (fun r => r.ctx == j)) && !(k.passes.any (fun p => p.parts.any (fun q => q.ctx == j)))

/-- Every earlier instruction of the context has completed: vector, matrix, feed and ligature (R49, R52, R109). -/
def State.allDone (s : State) (c : CtxRef) : Bool :=
  let x := s.ctxOf c
  x.vecStoresDone && (s.core c.key).mmDone c.idx && x.cpDone

/-- Whether a read or write of a status register waits (R49, R52, R109, R139). -/
def State.srWaits (s : State) (c : CtxRef) (n : Nat) : Bool :=
  if n = 0x100 then !((s.ctxOf c).vq.isEmpty)
  else if 0x101 ≤ n ∧ n ≤ 0x104 then !(s.allDone c) else false

/-- SRD: xd = the register. -/
def execSrd (c : CtxRef) (w : Word32) (s : State) : Result :=
  s.issue .srd c w (fun s =>
    if s.srWaits c (wNumK w) then s
    else let v := s.srRead c (wNumK w); s.commit c (fun x => x.wx (wRd w) v))

/-- A write to a status register under a mask, then the commit. -/
def State.srStore (s : State) (c : CtxRef) (n : Nat) (v m : Word) : State :=
  if s.srWaits c n then s else (s.updCore c.key (fun k => k.srWrite c.idx n v m)).commit c id

/-- SWR: the register takes x[rs1]. -/
def execSwr (c : CtxRef) (w : Word32) (s : State) : Result :=
  s.issue .swr c w (fun s => s.srStore c (wNumP w) ((s.ctxOf c).rx (wRs1 w)) (BitVec.allOnes 64))

/-- SMW: the bits that x[rs2] selects take those of x[rs1]. -/
def execSmw (c : CtxRef) (w : Word32) (s : State) : Result :=
  s.issue .smw c w (fun s => s.srStore c (wNumP w) ((s.ctxOf c).rx (wRs1 w)) ((s.ctxOf c).rx (wRs2 w)))

/-- HRET: pc = ISA_HPC, GATE = GSAVE, INH = 0; while INH is 0, the illegal-instruction trap (R151). -/
def execHret (c : CtxRef) (w : Word32) (s : State) : Result :=
  s.issue .hret c w (fun s =>
    if (s.ctxOf c).inh then s.commit c (fun x => { x with pc := x.hpc, gate := x.gsave, inh := false })
    else s.trapIllegal c w)

/-- PAUSE can complete: a pending bit whose enable bit is 1, or no enable bit is 1 (R154). -/
def State.pauseEnds (s : State) (x : Ctx) : Bool := s.irqPending x || !(x.cen || x.aen || x.pen)

/-- PAUSE: completes when it can, whatever GATE and HEN; until then the context issues nothing. -/
def execPause (c : CtxRef) (w : Word32) (s : State) : Result :=
  if (s.ctxOf c).mode = .pausing then
    if 20 ≤ c.core.toNat then .fault (.noSuchCore c.core.toNat)
    else if rowOf w = some .pause && (s.core c.key).runs && s.pauseEnds (s.ctxOf c) then
      .next (s.commit c (fun x => { x with mode := .running }))
    else .next s
  else s.issue .pause c w (fun s =>
    if s.pauseEnds (s.ctxOf c) then s.commit c id else s.updCtxOf c (fun x => { x with mode := .pausing }))

/-- DONE (R141): it waits for every earlier instruction of the context and acts as a fence.sys; the context then
becomes idle with code x[rs1][15:0]. -/
def execDone (c : CtxRef) (w : Word32) (s : State) : Result :=
  s.issue .done c w (fun s =>
    if !(s.allDone c) then s else
    State.accEnd c 0 (s.drainCtx (s.ctxAgent c) c.key c.idx) (fun _ s =>
      if !(s.sysDone c) then s else
      let code := ((s.ctxOf c).rx (wRs1 w)).setWidth 16
      ((s.updCore c.key Core.l1Clear).commit c id).goIdle c code true))

/-- The interrupt that is taken (R153): CPEND first, then APEND, then PPEND; its cause and ISA_HARG (R150). -/
def State.irqCause (s : State) (x : Ctx) : Nat × Word :=
  if x.cpend && x.cen then (18, 0) else if s.apend x && x.aen then (17, s.time) else (16, 0)

/-- An interrupt is taken between two instructions (R151, R153): the context's issued vector instructions commit
first (R138), and a PAUSE completes first. -/
def State.takeInterrupt (s : State) (c : CtxRef) : State :=
  let x := s.ctxOf c
  if !((s.core c.key).runs && (x.mode == .running || x.mode == .pausing) && s.irqTaken x && x.vq.isEmpty) then s else
  let s1 := if x.mode = .pausing then s.commit c id else s
  let (cause, arg) := s.irqCause x
  let (q, n) := x.jobNums
  ((s1.updCtxOf c (fun x => x.enterHandler cause arg)).forgetReads (fun e => e == .ctx c)).trace c.die.toNat
    (s.tenantOf c.key) 4 (some c.core.toNat) c.idx q n (cause + (arg.toNat % 2 ^ 56) * 256)

/-- Interrupt entry. -/
def execInterruptEntry (c : CtxRef) (s : State) : Result := onCtx c (s.takeInterrupt c)

/-- ISA_TIME reaches the context's ISA_ALARM, and APEND becomes 1 (R150). Time does not run back.
(DESIGN CHOICE: log entry 2). -/
def execAlarmExpire (c : CtxRef) (s : State) : Result :=
  onCtx c (s.updMod (fun m => { m with timeNs := max m.timeNs (s.ctxOf c).alarm.toNat }))

/-- What a context's watchdog does not count (R332): PAUSE, DONE and the waits, which the event's sender knows;
a context that is idle, pausing or stalled has none running. -/
def State.watchdogRuns (s : State) (c : CtxRef) : Bool :=
  ((s.ctxOf c).mode == .running) && !((s.core c.key).halted)

/-- The watchdog fires (R332): the core halts and raises the fault of KIND 5, whose ADDR is the pc (R333). -/
def execContextWatchdog (c : CtxRef) (s : State) : Result :=
  onCtx c (if s.watchdogRuns c then s.coreFault c.key c.idx 5 (s.ctxOf c).pc.toNat 0 0 else s)

end Sys2Proof.Machine
end

