-- ==== Sys2Proof/Machine/Scribe.lean ====
section
/-! DEFINITION. The scribe: doorbells and packet fetch (R226, R227), the start of commands (R239 to R243), LAUNCH (R140,
R232), replies (R233 to R238) and the restart of a struck command (R340). -/

namespace Sys2Proof.Machine

/-- Entries of a ring whose SIZE field is `n` (R224). -/
def ringEntries (n : Nat) : Nat := 2 ^ (n + 6)

/-- A doorbell write of 4 or 8 bytes by a function (R226): accepted, or discarded and counted in SCB_CTLd.DBDROP. Before READY
and in a failed module every doorbell is discarded (R348, R356). -/
def State.doorbell (s : State) (fn q bytes tail : Nat) : State :=
  let qu := s.queue q
  if s.inService && (bytes == 4 || bytes == 8) && qu.owner == fn && qu.en && decide (tail < ringEntries qu.ringSize) then s.updQueue q (fun x => { x with tail := tail })
  else s.updDie (queueDie q) (fun d => { d with dbdrop := satAdd 16 d.dbdrop 1 })

/-- DOORBELL: a write of some bytes to a queue's doorbell. -/
def execDoorbell (fn : BitVec 6) (queue : BitVec 14) (w : DoorbellWrite) (s : State) : Result :=
  .next (if s.funcExists fn.toNat then s.doorbell fn.toNat queue.toNat w.bytes.toNat w.tail.toNat else s)

/-- Commands of a queue in flight (R227). -/
def State.inFlight (s : State) (q : Nat) : List Cmd := s.cmds.filter (fun c => c.ref.queue.toNat == q)

/-- The address of a ring entry. -/
def Queue.entryAt (qu : Queue) (i : Nat) : Nat := qu.ringBase.toNat * 4096 + 64 * (i % ringEntries qu.ringSize)

/-- The 64 bytes of a ring entry, once the scribe has read them. (DESIGN CHOICE: log entry 35). -/
def State.ringEntry (s : State) (q i : Nat) : Option (List Byte) :=
  let qu := s.queue q
  let a := qu.entryAt i
  if qu.ringLoc then
    match s.translate qu.owner a .read with
    | .at (.stack spa) _ _ => if (s.poisonedIn spa 64).isSome then none else some (Memory.readBytes s.mem spa 64)
    | _ => none
  else knownBytes s.ringData (hostKey (s.funcLink qu.owner) a) 64

/-- The scribe reads a ring entry: a stack ring through the die cache (R186), a host ring by a device read (R256). -/
def State.readEntry (s : State) (q i : Nat) : State :=
  let qu := s.queue q
  let a := qu.entryAt i
  if qu.ringLoc then
    match s.translate qu.owner a .read with
    | .at (.stack spa) _ _ => (s.walkTouch qu.owner a).cacheRead spa 64 qu.owner 0
    | _ => s
  else if (s.ringEntry q i).isSome then s
  else s.askHost (s.funcLink qu.owner) { reader := .scribe (BitVec.ofNat 14 q), cmd := none, addr := a, bytes := 64 }

/-- A RECLAIM that is in progress stops fetching from a queue (R254). -/
def State.reclaiming (s : State) (q : Nat) : Bool :=
  s.cmds.any (fun c => c.isStarted && c.opcode == 0x51 && c.tenant == (s.queue q).owner
    && Nat.testBit (c.param 0) (queueDie q))

/-- Ring entries that a doorbell has handed over and that have not been fetched. -/
def Queue.avail (qu : Queue) : Nat :=
  let n := ringEntries qu.ringSize
  (qu.tail + n - qu.head % n) % n

/-- The scribe may fetch from a queue (R227), of a function that is not being reset (R264), once its table has been written
(R207). -/
def State.fetchOpen (s : State) (q : Nat) : Bool :=
  let qu := s.queue q
  let flight := (s.inFlight q).length
  let room := ringEntries qu.repSize - 1 - (qu.rtail + ringEntries qu.repSize - qu.rhead % ringEntries qu.repSize) % ringEntries qu.repSize
  let f := s.func qu.owner
  qu.en && qu.avail != 0 && decide (flight < 256) && decide (flight < room) && !(s.reclaiming q) && !(f.tbValid && !f.tbInit)
    && !f.resetting && decide ((s.cmds.filter (fun c => c.ref.die == queueDie q)).length < 4096)

/-- The scribe reads the entries at HEAD that it still needs (R227, R266). -/
def State.readRing (s : State) (q : Nat) : State :=
  let qu := s.queue q
  if !(s.fetchOpen q) then s else
  match s.ringEntry q qu.head with
  | none => s.readEntry q qu.head
  | some b0 => if pkExt (BitVec.ofNat 1024 (leNat b0)) && decide (2 ≤ qu.avail) then s.readEntry q (qu.head + 1) else s

/-- The packet at HEAD and the entries it takes, when the scribe may fetch it (R227). -/
def State.fetchable (s : State) (q : Nat) : Option (BitVec 1024 × Nat) :=
  let qu := s.queue q
  if !(s.fetchOpen q) then none else
  match s.ringEntry q qu.head with
  | none => none
  | some b0 =>
    let p0 := BitVec.ofNat 1024 (leNat b0)
    let t := s.func (s.pkTenant qu.owner p0)
    if t.tbValid && !t.tbInit then none
    else if !(pkExt p0) then some (p0, 1)
    else if qu.avail < 2 then none
    else (s.ringEntry q (qu.head + 1)).map (fun b1 => (BitVec.ofNat 1024 (leNat (b0 ++ b1)), 2))

/-- The queue of a die that the scribe fetches from next. (DESIGN CHOICE: log entry 35). -/
def State.fetchQueue (s : State) (die : Nat) : Option Nat :=
  let last := (s.die die).lastQueue
  let c := (s.queues.map (fun p => p.1)).filter (fun q => queueDie q == die && (s.fetchable q).isSome)
  c.foldl (fun b q => match b with
    | none => some q
    | some x => if s.turn last q < s.turn last x then some q else some x) none

/-- A fetched packet becomes a command in flight (R227 to R230, R236, R335, R371): HEAD moves on, the entries of a stack ring have
been read through the die cache, the bytes read of a host ring are used up, MOD_COMPAT locks. -/
def State.fetchPacket (s0 : State) (q : Nat) (p : BitVec 1024) (n : Nat) : State :=
  let qu := s0.queue q
  let size := ringEntries qu.ringSize
  let link := s0.funcLink qu.owner
  let used := (List.range n).map (fun i => hostKey link (qu.entryAt (qu.head + i)))
  let s := if qu.ringLoc then (List.range n).foldl (fun s i => s.readEntry q (qu.head + i)) s0 else s0
  let s1 := { s with ringData := used.foldl (fun m a => SMap.clearRange m a 64) s.ringData }
  let s2 := (s1.updQueue q (fun x => { x with head := (x.head + n) % size })).updMod (fun m => { m with locked := true })
  let c := s.newCmd q p
  let die := queueDie q
  let s3 := ({ s2 with cmds := s2.cmds ++ [c] }.updDie die (fun d => { d with lastQueue := SMap.set d.lastQueue qu.prio q })).countDie die 0 1
  let s4 := s3.trace die c.tenant 0 none 0 q c.ref.seq.toNat c.opcode
  let done (status detail : Nat) : State := { s4 with cmds := s4.cmds.dropLast ++ [c.finish status detail] }
  match s.packetCheck q p with
  | some k => done 11 k
  | none => if (s.die die).thold then done 12 0 else s4

/-- PACKET_FETCH: the scribe reads what it needs of its queues' host rings, and fetches a packet that it has read. -/
def execPacketFetch (die : BitVec 5) (s : State) : Result :=
  .next (if !s.inService then s else
    match s.fetchQueue die.toNat with
    | none => ((s.queues.map (fun p => p.1)).filter (fun q => queueDie q == die.toNat && !(s.queue q).ringLoc)).foldl
        (fun s q => s.readRing q) s
    | some q =>
      match s.fetchable q with
      | none => s
      | some (p, n) => s.fetchPacket q p n)

/-- The page form waits for every earlier command of its queue (R209, R219). (DEDUCED: log entry 26). -/
def State.pageWaits (s : State) (c : Cmd) : Bool :=
  let p := c.pages
  (c.opcode == 0x41 && c.pageForm && p.count != 0)
    || (c.opcode == 0x40 && c.pageForm && p.vas.any (fun va => s.entryOf c.tenant va p.big % 2 == 1))
    || c.opcode == 0x60

/-- A command is held back by commands fetched before it (R170, R209, R239, R241). (DEDUCED: log entry 37). -/
def State.held (s : State) (c : Cmd) : Bool := s.heldBack c || (s.pageWaits c && !(s.earlier c.ref).isEmpty)

/-- A context that a LAUNCH can take (R232): idle, with nothing of an earlier command left to write (R150), on a core that is
not being cleared, mapped out or kept for a replay (R173, R340, R346). -/
def State.ctxFree (s : State) (x : CtxRef) : Bool :=
  let k := s.core x.key
  let y := s.ctxOf x
  let d := s.die x.die.toNat
  y.mode == .idle && y.job.isNone && y.vq.isEmpty && y.drain.isEmpty && y.openXfers.isEmpty && s.bufferEmpty x && !k.clearing && !k.inkClearing
    && !(d.mapping && d.spareCore == x.core.toNat)
    && !(s.cmds.any (fun c => c.inReplay && c.ctxs.any (fun z => z.key == x.key)))

/-- The resources of a command are free, and no core of its work is being cleared (R173, R232, R249, R313).
(DEDUCED: log entry 37). -/
def State.resourcesFree (s : State) (c : Cmd) : Bool :=
  if s.clearing c then false
  else if c.opcode = 1 then c.launchCtxs.all s.ctxFree
  else if isFeed c.opcode then (s.freeFeeds c.ref.die c.tenant c.feedDesc.feeds).isSome
  else if isColl c.opcode then c.lig.isSome
  else true

/-- A command could start now. -/
def State.startReady (s : State) (c : Cmd) : Bool := c.isWaiting && !(s.held c) && s.resourcesFree c

/-- What a command may have to compete for (R243): 0 a context, 1 a feed, 2 a ligature slot. -/
def Cmd.contest (c : Cmd) : Option Nat :=
  if c.opcode = 1 then some 0 else if isFeed c.opcode then some 1 else if isColl c.opcode then some 2 else none

/-- Two commands of a die compete for a context, a feed or a ligature slot (R243). -/
def compete (a b : Cmd) : Bool :=
  a.contest.isSome && a.contest == b.contest && (a.opcode != 1 || a.launchCtxs.any (fun x => b.launchCtxs.contains x))

/-- The turns of a contest at a die, by PRIO. -/
def Die.turns (d : Die) (k : Nat) : SMap Nat := (d.lastStart.filter (fun p => p.1 / 8 == k)).map (fun p => (p.1 % 8, p.2))

/-- Another ready command that competes with this one goes first, or a cp1 transfer whose turn it is (R243, R252).
(DESIGN CHOICE: log entry 35; DEDUCED: log entry 48). -/
def State.outranked (s : State) (c : Cmd) : Bool :=
  let d := s.die c.ref.die
  let t (x : Cmd) : Nat := s.turn (d.turns (c.contest.getD 0)) x.ref.queue.toNat
  (isFeed c.opcode && !d.cp1Last && s.cp1Waits c.ref.die) || s.cmds.any (fun e => e.ref != c.ref && e.ref.die == c.ref.die && compete e c && s.startReady e &&
    (decide (t e < t c) || (e.ref.queue == c.ref.queue && (s.earlier c.ref).contains e)))

/-- The registers of a context that a LAUNCH starts (R140, R150). -/
def Ctx.launched (x : Ctx) (r : CmdRef) (entry : Nat) (ps : List Nat) (index : Nat) : Ctx :=
  { x with
    mode := .running, pc := BitVec.ofNat 64 entry
    x := (ps.zipIdx 10).foldl (fun m p => SMap.set m p.2 (BitVec.ofNat 64 p.1)) [] |> fun m => SMap.set m 14 (BitVec.ofNat 64 index)
    f := [], alarm := 0xFFFFFFFFFFFFFFFF#64, hbase := 0, cpend := false, ppend := false, hen := false, cen := false
    aen := false, pen := false, inh := false, gsave := false, gate := false, feedTags := [], ligTags := [], ligCount := 0
    job := some r, index := index, code := none }

/-- The blotter's snapshot of a context (R335). -/
def Ctx.snapshot (x : Ctx) : Snapshot :=
  { gen := x.gen, seeded := x.seeded, cvtsat := x.cvtsat, cvtflush := x.cvtflush, mismatch := x.mismatch
    resOvf := x.resOvf, vxflg := x.vxflg, xflg := x.xflg }

/-- Restores a context from its snapshot (R340). -/
def Ctx.restore (x : Ctx) : Ctx :=
  let p := x.snap
  { x with gen := p.gen, seeded := p.seeded, cvtsat := p.cvtsat, cvtflush := p.cvtflush, mismatch := p.mismatch
           resOvf := p.resOvf, vxflg := p.vxflg, xflg := p.xflg }

/-- The contexts of a LAUNCH begin at its entry address (R140); trace event 3. -/
def State.runCtxs (s : State) (r : CmdRef) (c : Cmd) : State :=
  let entry := c.arg % 2 ^ 40 * 256
  c.ctxs.zipIdx.foldl (fun s p =>
    let s1 := s.updCoreTimed p.1.key (fun k =>
      { k.updCtx p.1.idx (fun x => x.launched r entry ((List.range 4).map c.param) p.2) with halted := false })
    s1.trace p.1.die.toNat c.tenant 3 (some p.1.core.toNat) p.1.idx r.queue.toNat r.seq.toNat (entry % 2 ^ 48)) s

/-- The contexts of a LAUNCH are assigned to it, with their snapshots. -/
def State.assignCtxs (s : State) (r : CmdRef) (c : Cmd) : State :=
  let l := c.launchCtxs
  (l.foldl (fun s x => s.updCtxOf x (fun y => { y with job := some r, snap := y.snapshot, kept := [], code := none })) s).updCmd r
    (fun m => { m with ctxs := l, codes := [] })

/-- A semaphore's place: an 8-byte word in a stack page (R242). (DEDUCED: log entry 38). -/
def State.semAt (s : State) (c : Cmd) (a : Access) : Option Nat :=
  match s.translate c.tenant (c.param 0) a with
  | .at (.stack spa) _ _ => some spa
  | _ => none

/-- A FEED_* command starts: it takes its feeds, and its generator (R48, R249). A remote window needs a module number
(R22). -/
def State.startFeed (s : State) (r : CmdRef) (c : Cmd) : State :=
  let f := c.feedDesc
  let op := feedOpOf c.opcode
  if !s.mod.placeValid && (f.sides op).any (fun sd => sd.kind == 2) then s.complete r 10 (3 * 2 ^ 16) 0 else
  match s.freeFeeds r.die c.tenant f.feeds with
  | none => s
  | some l =>
    let g : GenState := if f.seed = 0 then .entropy (640 + 8 * r.die + l.headD 0) s.free else .val (BitVec.ofNat 32 f.seed)
    let s1 := { s with free := s.free + 1 }
    (s1.updDie r.die (fun d => { d with cp1Last := false })).feedBegin (.cmd r) { op := op, desc := packetDesc c.packet, gen := g } l

/-- What starting does for each opcode. (DESIGN CHOICE: log entry 36; DEDUCED: log entry 38). -/
def State.startEffect (s : State) (r : CmdRef) (c : Cmd) : State :=
  if c.opcode = 1 then
    if c.launchCtxs.all (fun x => s.ownsCore c.tenant x.die.toNat x.core.toNat) then s.assignCtxs r c else s.complete r 11 5 0
  else if isFeed c.opcode then s.startFeed r c
  else if c.opcode = 0x20 then (if (s.semAt c .write).isSome then s else s.complete r 11 5 0)
  else if c.opcode = 0x21 then (if (s.semAt c .read).isSome then s else s.complete r 11 5 0)
  else s

/-- COMMAND_START: a fetched command starts when nothing holds it and its resources are free (R239 to R243).
(DESIGN CHOICE: log entry 3; DESIGN CHOICE: log entry 36). -/
def execCommandStart (r : CmdRef) (s : State) : Result :=
  match s.cmd r with
  | none => .next s
  | some c =>
    if !(s.startReady c) || s.outranked c || s.mod.failed then .next s else
    let s1 := s.updCmd r (fun m => { m with phase := .started })
    let s2 := match c.contest with
      | some k => s1.updDie r.die (fun d => { d with lastStart := SMap.set d.lastStart (8 * k + (s.queue r.queue.toNat).prio) r.queue.toNat })
      | none => s1
    .next ((s2.trace r.die c.tenant 1 none 0 r.queue.toNat r.seq.toNat c.opcode).startEffect r c)

/-- LAUNCH: the named contexts start at the entry address (R140, R232). (DESIGN CHOICE: log entry 36). -/
def execLaunch (r : CmdRef) (s : State) : Result :=
  match s.running r 1 with
  | none => .next s
  | some c =>
    .next (if !c.ctxs.isEmpty && c.ctxs.all (fun x =>
        let y := s.ctxOf x
        y.mode == .idle && y.code.isNone && y.job == some r)
      then s.runCtxs r c else s)

/-- The bytes of a reply (R233), or the SKX2016 layout (R238): QUEUE is the packet's, TSTAMP the time of completion. -/
def State.replyBytes (s : State) (c : Cmd) (phase : Bool) : List Byte :=
  let q := fld c.packet 16 14
  let seq := c.ref.seq.toNat
  if s.mod.reply then
    leBytes 2 q ++ leBytes 1 c.status ++ [phaseByte phase] ++ leBytes 4 seq ++ leBytes 8 c.result ++ leBytes 4 c.detail
      ++ leBytes 12 0
  else
    leBytes 4 seq ++ leBytes 2 q ++ leBytes 1 c.opcode ++ leBytes 1 c.status ++ leBytes 2 c.sat ++ leBytes 2 c.flush
      ++ leBytes 4 c.detail ++ leBytes 8 c.result ++ leBytes 4 (c.done.getD s.mod.timeNs / 1024) ++ leBytes 1 (min c.attempts 255)
      ++ leBytes 2 0 ++ [phaseByte phase]

/-- The die caches drop the host and remote lines of a command (R192). (DEDUCED: log entry 32). -/
def State.dropScoped (s : State) (r : CmdRef) : State :=
  { s with dies := SMap.mapVals s.dies (fun _ d => { d with cached := d.cached.filter (fun l => l.cmd != some r) }) }

/-- The buffered stores of one context of a command that has ended go out; one that has no route is lost, and the command's
outcome with it (R22, R295). (DESIGN CHOICE: log entry 40). -/
def State.drainLeft (r : CmdRef) (x : CtxRef) : Nat → State → Option State
  | 0, s => some s
  | n + 1, s =>
    match (s.core x.key).sb.find? (fun e => e.ctx == x.idx) with
    | none => some s
    | some e =>
      let pop (s : State) : State := s.updCore x.key (fun k => { k with sb := delFirst (fun y => y == e) k.sb })
      match s.drainEntry { s.ctxAgent x with cmd := some r } x.key e with
      | .ok _ s1 => State.drainLeft r x n (pop s1)
      | .lost reason s1 => State.drainLeft r x n ((pop s1).peerLost (some r) reason)
      | _ => none

/-- The buffered stores of a command's contexts go to their destinations. (DESIGN CHOICE: log entry 40). -/
def State.drainCmd (s : State) (c : Cmd) : Option State :=
  (c.ctxs.filter (fun x => (s.ctxOf x).job.isNone)).foldl (fun o x =>
    o.bind (fun s => State.drainLeft c.ref x (s.core x.key).sb.length s)) (some s)

/-- The reply of a completed command goes to RTAIL, and its vector is raised when IRQ is 1 (R233, R235). The command is no
longer in flight. (DESIGN CHOICE: log entry 40). -/
def State.reply (s : State) (c : Cmd) : State :=
  let q := c.ref.queue.toNat
  let qu := s.queue q
  let m := if c.attempts = 0 then c else c.outcome 1 0
  let a := qu.repBase.toNat * 4096 + 32 * qu.rtail
  let bs := s.replyBytes m qu.phase
  let s1 := s.dropScoped c.ref
  let s2 := if qu.repLoc then (s1.writeTrusted qu.owner a bs).getD s1 else s1.putHost (s.funcLink qu.owner) a bs
  let t := (qu.rtail + 1) % ringEntries qu.repSize
  let s3 := s2.updQueue q (fun x => { x with rtail := t, phase := if t = 0 then !x.phase else x.phase })
  let s4 := s3.trace c.ref.die c.tenant 2 none 0 (fld c.packet 16 14) c.ref.seq.toNat (m.status + min c.attempts 255 * 256)
  let note (e : Cmd) : Cmd :=
    if e.isStarted && e.opcode == 0x51 && e.tenant == qu.owner && Nat.testBit (e.param 0) c.ref.die && m.status == 5 then
      { e with revokedCount := e.revokedCount + 1 }
    else e
  let s5 := { s4 with cmds := (delFirst (fun x => x.ref == c.ref) s4.cmds).map note }
  if c.irq then s5.raiseVec qu.owner qu.vec else s5

/-- A command of the same queue has completed at an earlier time, and has no reply yet (R235). -/
def State.repliesAfter (s : State) (c : Cmd) : Bool :=
  s.cmds.any (fun e => e.ref != c.ref && e.ref.queue == c.ref.queue && (match e.done with
    | some t => decide (t < c.done.getD s.mod.timeNs)
    | none => false))

/-- REPLY_WRITE: what a stopped context still had in its store buffer is written first; a function that is being reset gets no
reply (R264). (DESIGN CHOICE: log entry 40). -/
def execReplyWrite (r : CmdRef) (s : State) : Result :=
  match s.cmd r with
  | none => .next s
  | some c =>
    if !c.isComplete || !(s.storesOut c) || s.repliesAfter c || (s.func (s.queue r.queue.toNat).owner).resetting then .next s else
    match s.drainCmd c with
    | none => .next s
    | some s1 =>
      match s1.cmd r with
      | none => .next s1
      | some c1 => .next (if s1.writesDone c1 then s1.reply c1 else s1)

/-- The time of completion of every command that has completed by now (R233, R235). -/
def State.stampDone (s : State) : State :=
  { s with cmds := s.cmds.map (fun c => if c.done.isNone && s.cmdDone c then { c with done := some s.mod.timeNs } else c) }

/-- The rows that a KIND 2 fault has left to repair are written with zeros (R342). -/
def State.repairRows (s : State) (l : List (Nat × Nat)) : State :=
  l.foldl (fun s p => s.updCore p.1 (fun k => k.putRow p.2 0)) s

/-- A struck command's writes have settled and its map-out has ended (R340). -/
def State.settled (s : State) (c : Cmd) (mapOut : Bool) : Bool :=
  !(s.fab.unacked.any (fun u => u.cmd == some c.ref && u.committed))
    && c.ctxs.all (fun x => (s.ctxOf x).vq.isEmpty && (s.ctxOf x).drain.isEmpty && (s.core x.key).mmDone x.idx)
    && !(mapOut && (s.die c.ref.die).mapping)

/-- REPLAY_RESTART: once the attempt's writes have settled, the row is repaired, snapshots are restored, and the command
restarts (R340). (DEDUCED: log entry 44). -/
def State.restart (s : State) (r : CmdRef) (c : Cmd) : State :=
  let n := c.attempts + 1
  let s1 := (s.dropScoped r).repairRows c.repair
  let s2 := c.ctxs.foldl (fun s x => s.updCtxOf x Ctx.restore) s1
  let fresh (m : Cmd) : Cmd :=
    { m with phase := .started, attempts := n, sat := 0, flush := 0, status := if m.cancelled then 2 else 0, detail := 0, codes := [], repair := [] }
  let s3 := (s2.updCmd r fresh).countDie r.die 8 1
  let s4 := s3.trace r.die c.tenant 8 none 0 r.queue.toNat r.seq.toNat (min n 255)
  if c.opcode = 1 then s4.runCtxs r c
  else match c.xfer with
    | some x => s4.feedBegin (.cmd r) x x.feeds
    | none => s4

/-- REPLAY_RESTART. (DEDUCED: log entry 44). -/
def execReplayRestart (r : CmdRef) (s : State) : Result :=
  match s.cmd r with
  | none => .next s
  | some c =>
    match c.phase with
    | .replay m =>
      if !(s.settled c m) then .next s else
      (match accEach (fun x s => s.drainCtx (s.ctxAgent x) x.key x.idx) c.ctxs s with
      | .ok _ s1 => .next (s1.restart r c)
      | _ => .next s)
    | _ => .next s

end Sys2Proof.Machine
end

