-- ==== Sys2Proof/Machine/Commands.lean ====
section
/-! DEFINITION. Semaphores, FENCE (R241, R242), CANCEL (R244 to R246), QUOTA_SET and RECLAIM (R253, R254), TRACE_SET and
CTR_SNAPSHOT (R373, R380), and writes of SCB_QCTLq (R224). -/

namespace Sys2Proof.Machine

/-- SEM_SIGNAL sets or adds to the semaphore word (R242). -/
def State.signal (s : State) (r : CmdRef) (c : Cmd) : State :=
  match s.semAt c .write with
  | none => s.complete r 11 5 0
  | some a =>
    let old := Memory.readLe s.mem a 8
    let v := if c.arg % 2 = 1 then old + c.param 1 else c.param 1
    ((s.cacheWrite a 8 c.tenant 0).putMemLe a 8 v).complete r 0 0 0

/-- SEM_SIGNAL. -/
def execSemSignal (c : CmdRef) (s : State) : Result :=
  match s.running c 0x20 with
  | some m => .next (s.signal c m)
  | none => .next s

/-- A SEM_WAIT tests its word: at least P1 completes it; RESULT keeps the last value read (R234, R242). -/
def State.semTest (s : State) (r : CmdRef) (c : Cmd) : State :=
  match s.semAt c .read with
  | none => s.complete r 11 5 0
  | some a =>
    let v := Memory.readLe s.mem a 8
    if c.param 1 ≤ v then s.complete r 0 0 v else s.updCmd r (fun m => { m with result := v })

/-- SEM_WAIT: the test at its start. -/
def execSemWait (c : CmdRef) (s : State) : Result :=
  match s.running c 0x21 with
  | some m => .next (s.semTest c m)
  | none => .next s

/-- SEM_WAIT_RETEST: the test after a write to the word's line. -/
def execSemWaitRetest (c : CmdRef) (s : State) : Result :=
  match s.running c 0x21 with
  | some m => .next (s.semTest c m)
  | none => .next s

/-- SEM_WAIT_TIMEOUT: P2 µs have passed (R242). -/
def execSemWaitTimeout (c : CmdRef) (s : State) : Result :=
  match s.running c 0x21 with
  | some m => .next (if m.param 2 = 0 then s else s.complete c 9 0 m.result)
  | none => .next s

/-- FENCE: an ORDER command that does nothing. -/
def execFence (c : CmdRef) (s : State) : Result :=
  match s.running c 0x53 with
  | some _ => .next (s.complete c 0 0 0)
  | none => .next s

/-- A resource's use by a tenant (R253). (DESIGN CHOICE: log entry 42). -/
def State.quotaUse (s : State) (fn res : Nat) : Nat :=
  match res with
  | 0 => (s.queues.filter (fun p => p.2.en && p.2.owner == fn)).length
  | 1 => (s.inkUse fn).1
  | 2 => (s.inkUse fn).2
  | 3 => (s.frames.filter (fun p => p.2 == .held fn)).length
  | 4 => (s.windows.filter (fun p => p.2.valid && p.2.tenant == fn)).length
  | _ => 0

/-- A limit as it is stored: shares are 1 to 255 (R253). (DESIGN CHOICE: log entry 6; DESIGN CHOICE: log entry 42). -/
def storedLimit (res lim : Nat) : Nat := if res = 5 ∨ res = 6 then min 255 (max 1 lim) else lim

/-- The limit before any QUOTA_SET: none for a count, 1 for a share. (DESIGN CHOICE: log entry 6; DESIGN CHOICE: log entry 42). -/
def defaultLimit (res : Nat) : Nat := if res = 5 ∨ res = 6 then 1 else 0xFFFFFFFF

/-- QUOTA_SET: the limit is stored; RESULT holds the previous limit and the use (R234, R253).
(DESIGN CHOICE: log entry 42). -/
def execQuotaSet (c : CmdRef) (s : State) : Result :=
  match s.running c 0x50 with
  | none => .next s
  | some m =>
    let fn := m.tenant
    let res := m.param 0 / 2 ^ 8 % 16
    let old := SMap.get (s.func fn).quotas res (defaultLimit res)
    let s1 := s.updFunc fn (fun f => { f with quotas := SMap.set f.quotas res (storedLimit res (m.param 1)) })
    .next (s1.complete c 0 0 (old % 2 ^ 32 + s.quotaUse fn res % 2 ^ 32 * 2 ^ 32))

/-- The queues that a RECLAIM acts on. -/
def State.reclaimQueues (s : State) (c : Cmd) : List Nat :=
  (s.queuesOf c.tenant).filter (fun q => Nat.testBit (c.param 0) (queueDie q))

/-- The cores that a RECLAIM acts on: the tenant's, of P1 on the dies of P0. -/
def State.reclaimCores (s : State) (c : Cmd) : List Nat :=
  (s.coresOf c.tenant).filter (fun k => Nat.testBit (c.param 0) (k / 20) && Nat.testBit (c.param 1) (k % 20))

/-- A VALID handle becomes REVOKED (R168, R254). (DEDUCED: log entry 43). -/
def Core.revoke (k : Core) : Core :=
  { k with handles := SMap.mapVals k.handles (fun _ h => if h.st = 1 then { h with st := 2, count := 0, base := 0 } else h)
           retained := none }

/-- A command that has not started ends with REVOKED (R254). (DEDUCED: log entry 43). -/
def State.revokeCmd (s : State) (e : Cmd) : State :=
  match s.ligOf e.ref [] with
  | [] => s.updCmd e.ref (fun m => m.finish 5 3)
  | o :: _ => s.ligEnd o 5 3

/-- RECLAIM, steps 1 to 3 (R254). (DEDUCED: log entry 43). -/
def State.reclaim (s : State) (r : CmdRef) (c : Cmd) : State :=
  let qs := s.reclaimQueues c
  let s1 := (s.cmds.filter (fun e => e.ref != r && e.isWaiting && qs.contains e.ref.queue.toNat)).foldl (fun s e => s.revokeCmd e) s
  let s2 := if Nat.testBit c.arg 8 then (s.reclaimCores c).foldl (fun s k => s.updCore k Core.revoke) s1 else s1
  let s3 := if Nat.testBit c.arg 9 then
      { s2 with windows := SMap.mapVals s2.windows (fun _ w =>
        if w.valid && w.tenant == c.tenant then { w with valid := false, revoked := true } else w) }
    else s2
  s3.updCmd r (fun m => { m with moved := 1 })

/-- RECLAIM. -/
def execReclaim (c : CmdRef) (s : State) : Result :=
  match s.running c 0x51 with
  | some m => .next (if m.moved = 0 then s.reclaim c m else s)
  | none => .next s

/-- RECLAIM_DRAIN_DONE: every command of the queues has ended; with QUEUES = 1 their EN is cleared; RECLAIM completes
(R254). (DEDUCED: log entry 43). -/
def execReclaimDrainDone (c : CmdRef) (s : State) : Result :=
  match s.running c 0x51 with
  | none => .next s
  | some m =>
    let qs := s.reclaimQueues m
    if m.moved = 0 || s.cmds.any (fun e => e.ref != c && qs.contains e.ref.queue.toNat) then .next s else
    let s1 := if Nat.testBit m.arg 10 then qs.foldl (fun s q => s.updQueue q (fun x => { x with en := false })) s else s
    .next (s1.complete c 0 0 m.revokedCount)

/-- A context of a cancelled LAUNCH that still runs issues nothing more (R138, R245). -/
def State.haltCtx (s : State) (x : CtxRef) : State :=
  if (s.ctxOf x).mode = .idle then s else
  (s.updCtxOf x (fun y => { y with mode := .stopping })).updDie x.die.toNat (fun d => d.dropEngine (.ctx x))

/-- A stopped context becomes idle with code 0 once its issued instructions have committed and its MM passes and cp1
transfers have completed (R245). -/
def State.settleCtx (s : State) (x : CtxRef) : State :=
  let y := s.ctxOf x
  if y.mode = .stopping && y.vq.isEmpty && y.drain.isEmpty && (s.core x.key).mmDone x.idx
      && y.feedTags.all (fun p => p.2.isComplete) then s.goIdle x 0 false
  else s

/-- The grace of a cancelled LAUNCH is over (R245). -/
def State.graceOver (s : State) (c : Cmd) : State :=
  c.ctxs.foldl (fun s x => s.settleCtx x) (c.ctxs.foldl (fun s x => s.haltCtx x) s)

/-- A started LAUNCH is cancelled (R245): CPEND in each context that is not idle, and no grace when CGRACE is 0, or for a reset
(R264). One whose contexts have not started yet ends at once. (DEDUCED: log entry 39). -/
def State.cancelLaunch (s : State) (t : Cmd) (grace : Bool) : State :=
  let s1 := s.updCmd t.ref (fun m => { m.outcome 2 0 with cancelled := true, grace := true })
  if t.ctxs.all (fun x => (s.ctxOf x).mode == .idle) then s1.endCommand t.ref 2 0 else
  let s2 := t.ctxs.foldl (fun s x => if (s.ctxOf x).mode = .idle then s else s.updCtxOf x (fun y => { y with cpend := true })) s1
  if grace && (s.die t.ref.die).cgrace != 0 then s2 else s2.graceOver t

/-- Some page of a side is remote. -/
def State.sideIsRemote (s : State) (fn : Nat) (f : FeedDesc) (sd : Side) : Bool :=
  sd.kind == 2 || (sd.kind == 0 && (f.spans sd).any (fun p => (vaParts p.1 p.2).any (fun q =>
    match s.translate fn q.1 .write with
    | .at (.remote _ _ _) _ _ => true
    | _ => false)))

/-- The destination of a FEED_* command is remote. -/
def State.remoteDest (s : State) (t : Cmd) : Bool := s.sideIsRemote t.tenant t.feedDesc t.feedDesc.dstSide

/-- A started FEED_* command is cancelled, unless its last message to a remote destination is committed (R244).
(DEDUCED: log entry 39). -/
def State.cancelFeed (s : State) (t : Cmd) : Option State :=
  match t.xfer with
  | none => none
  | some x =>
    let waits := s.fab.unacked.any (fun u => u.cmd == some t.ref && !u.committed)
    if s.remoteDest t && x.allMoved && !waits then none else
    let s1 := s.updDie t.ref.die (fun d => d.dropFeedFaults (fun y => y == .cmd t.ref))
    some ((s1.withdraw t.ref).putXfer (.cmd t.ref) (x.stop 2 0))

/-- A fetched COLL_* command is cancelled before its commit point (R328). -/
def State.cancelColl (s : State) (t : Cmd) : Option State :=
  match s.ligOf t.ref [] with
  | [] => none
  | o :: _ => if o.phase = .data then none else some (s.ligEnd o 2 0)

/-- What a CANCEL, or a reset of its function (R264), does to its target (R244, R246, R344); none when it is already sent.
(DEDUCED: log entry 39). -/
def State.cancelTarget (s : State) (t : Cmd) (grace : Bool) : Option State :=
  if t.isWaiting then
    match s.cancelColl t with
    | some s1 => some s1
    | none => some (s.updCmd t.ref (fun m => m.finish 2 0))
  else if t.inReplay then some (s.endCommand t.ref 2 0)
  else if t.opcode = 1 then some (s.cancelLaunch t grace)
  else if isFeed t.opcode then s.cancelFeed t
  else if isColl t.opcode then s.cancelColl t
  else none

/-- CANCEL (R244). -/
def execCancel (c : CmdRef) (s : State) : Result :=
  match s.running c 0x52 with
  | none => .next s
  | some m =>
    let target : CmdRef := { queue := BitVec.ofNat 14 (m.param 0), seq := BitVec.ofNat 32 (m.param 1) }
    .next (match (s.cmd target).filter (fun t => !t.isComplete) with
      | none => s.complete c 3 1 0
      | some t =>
        match s.cancelTarget t true with
        | some s1 => s1.complete c 0 0 0
        | none => s.complete c 3 0 0)

/-- The stopped contexts of cancelled commands become idle as their work completes (R245). -/
def State.settleAll (s : State) : State :=
  (s.cmds.filter (fun c => c.grace && c.isStarted)).foldl (fun s c => c.ctxs.foldl (fun s x => s.settleCtx x) s) s

/-- CANCEL_GRACE_EXPIRE: CGRACE µs have passed (R245). -/
def execCancelGraceExpire (c : CmdRef) (s : State) : Result :=
  match s.running c 1 with
  | some m => .next (if m.grace then s.graceOver m else s)
  | none => .next s

/-- Every page of a range is a present stack or host page. -/
def State.plainPages (s : State) (fn va n : Nat) : Bool := decide (va + n ≤ 2 ^ 48) && s.windowPages fn va n

/-- TRACE_SET (R373). (DESIGN CHOICE: log entry 46). -/
def State.traceSet (s : State) (r : CmdRef) (c : Cmd) : State :=
  let d := s.die r.die
  let others := d.traces.filter (fun t => t.fn != c.tenant)
  let size := c.param 1 % 32
  let ring : TraceRing :=
    { fn := c.tenant, va := c.param 0, size := size, mask := c.param 2 % 2 ^ 16, cores := c.param 3 % 2 ^ 20, tail := 0
      drop := 0, phase := true }
  if c.arg % 2 = 0 then (s.updDie r.die (fun d => { d with traces := others })).complete r 0 0 0
  else if !(s.plainPages c.tenant ring.va (64 + 32 * ring.records)) || decide (8 ≤ others.length) then s.complete r 11 5 0
  else (s.updDie r.die (fun d => { d with traces := others ++ [ring] })).complete r 0 0 0

/-- TRACE_SET. -/
def execTraceSet (c : CmdRef) (s : State) : Result :=
  match s.running c 0x70 with
  | some m => .next (s.traceSet c m)
  | none => .next s

/-- The 64-bit counters of a map at offsets 0, 8, ... -/
def counterBytes (m : SMap Nat) (n : Nat) : List Byte := (List.range n).flatMap (fun i => leBytes 8 (SMap.get m (8 * i) 0))

/-- The buffer of a CTR_SNAPSHOT (R380). -/
def State.snapshotBytes (s : State) (c : Cmd) (die : Nat) : List Byte :=
  let p1 := c.param 1
  let mine := (s.coresOf c.tenant).filter (fun k => k / 20 == die)
  leBytes 8 s.mod.timeNs ++ leBytes 8 s.mod.timeNs ++ leBytes 8 p1 ++ leBytes 40 0
    ++ (if Nat.testBit p1 0 then
        mine.flatMap (fun k => (List.range 16).flatMap (fun i => leBytes 8 (SMap.get (s.core k).ctrPc i 0))) else [])
    ++ (if Nat.testBit p1 1 then counterBytes (s.func c.tenant).ctrs 5 else [])
    ++ (if Nat.testBit p1 2 then counterBytes (s.die die).ctrs 8 else [])
    ++ (if Nat.testBit p1 3 then (List.range 32).flatMap (fun p => counterBytes (s.port p).cnt 16) else [])

/-- CTR_SNAPSHOT (R380). -/
def State.snapshotCtrs (s : State) (r : CmdRef) (c : Cmd) : State :=
  let bs := s.snapshotBytes c r.die
  if !(s.plainPages c.tenant (c.param 0) bs.length) then s.complete r 11 5 0 else
  match s.writeTrusted c.tenant (c.param 0) bs with
  | none => s.complete r 11 5 0
  | some s1 =>
    let mine := (s.coresOf c.tenant).filter (fun k => k / 20 == r.die)
    let s2 := if c.arg % 2 = 1 && Nat.testBit (c.param 1) 0 then
        mine.foldl (fun s k => s.updCore k (fun x => { x with ctrPc := [] })) s1
      else s1
    s2.complete r 0 0 0

/-- CTR_SNAPSHOT. -/
def execCtrSnapshot (c : CmdRef) (s : State) : Result :=
  match s.running c 0x71 with
  | some m => .next (s.snapshotCtrs c m)
  | none => .next s

/-- SCB_QCTLq (R224). -/
def Queue.ctl (q : Queue) : Nat := b2n q.en * 2 ^ 63 + b2n q.comm * 2 ^ 62 + q.prio * 2 ^ 59 + q.owner * 2 ^ 53 + q.vec * 2 ^ 42

/-- A write of SCB_QCTLq (R224, R253, R257): each field under its own rule. A write of EN = 1 within the quota enables the
queue, and sets its pointers to 0 and its phase to 1. (DEDUCED: log entry 41). -/
def State.qctlWrite (s : State) (fn q : Nat) (v : Word) : State :=
  let qu := s.queue q
  let own := qu.owner == fn
  if !own && !(s.isMgmt fn) then s else
  let owner := if s.isMgmt fn && !qu.en then fld v 53 6 else qu.owner
  let comm := if qu.en then qu.comm else v.getLsbD 62
  let q1 := { qu with owner := owner, comm := comm, prio := min (fld v 59 3) (s.func owner).maxPrio, vec := fld v 42 11 }
  let q2 :=
    if !own then q1
    else if !(v.getLsbD 63) then { q1 with en := false }
    else if !qu.en && !(s.fits owner 0 (s.quotaUse owner 0 + 1)) then q1
    else { q1 with en := true, head := 0, tail := 0, rtail := 0, rhead := 0, phase := true }
  s.updQueue q (fun _ => q2)

/-- SCB_QCTL_WRITE. -/
def execScbQctlWrite (fn : BitVec 6) (queue : BitVec 14) (v : Word) (s : State) : Result :=
  .next (if s.funcExists fn.toNat then s.qctlWrite fn.toNat queue.toNat v else s)

end Sys2Proof.Machine
end

