-- ==== Sys2Proof/Machine/Port.lean ====
section
/-! DEFINITION. The link layer of an optical port (R278 to R292, R298 to R304): lanes and credits, flits, arbitration, retry,
violations, and the rerouting of messages that a port cannot send (R295, R300). -/

namespace Sys2Proof.Machine

/-- Wavelengths of a mask. -/
def waves (m : Nat) : Nat := ((List.range 8).filter (fun i => Nat.testBit m i)).length

/-- FTYPE of a flit (R281). -/
def flitType (f : BitVec 2048) : Nat := fld f 0 4

/-- The lane of a flit: CLASS, RESP and HOP (R281, R288). -/
def flitLane (f : BitVec 2048) : Nat := laneOf (fld f 4 3) (f.getLsbD 7) (fld f 8 2)

/-- FSEQ of a flit. -/
def flitFseq (f : BitVec 2048) : Nat := fld f 10 12

/-- PAYLOAD of a flit. -/
def flitPayload (f : BitVec 2048) : BitVec 1920 := f.extractLsb' 64 1920

/-- The CRC over bytes 0 to 247 (R281). (DESIGN CHOICE: log entry 55). -/
def flitCrc (f : BitVec 2048) : BitVec 64 := crc64 (leBytes 248 f.toNat)

/-- The CRC holds (R283). -/
def flitCrcOk (f : BitVec 2048) : Bool := f.extractLsb' 1984 64 == flitCrc f

/-- A flit without acknowledgement and CRC. -/
def bareFlit (type lane fseq : Nat) (payload : BitVec 1920) : BitVec 2048 :=
  BitVec.ofNat 2048 (type + laneClass lane * 2 ^ 4 + lane / 4 % 2 * 2 ^ 7 + lane % 4 * 2 ^ 8 + fseq * 2 ^ 10
    + payload.toNat * 2 ^ 64)

/-- Flits of a lane that hold credits at the sender: those sent less those the partner has freed (R282, R289). -/
def Port.used (p : Port) (lane : Nat) : Nat :=
  (SMap.get p.sentCnt lane 0 + 65536 - SMap.get p.freedCnt lane 0) % 65536

/-- Flits of a lane that the receiver buffers (R289). -/
def Port.buffered (p : Port) (lane : Nat) : Nat :=
  (SMap.get p.rxCount lane 0 + 65536 - SMap.get p.rxFreed lane 0) % 65536

/-- Counts by lane fit 32 reserved flits for each lane and 2,048 shared ones (R289). -/
def creditsFit (count : Nat → Nat) : Bool := decide (((List.range 64).map (fun l => count l - 32)).sum ≤ 2048)

/-- The sender holds credits for n more flits of a lane. -/
def Port.creditOk (p : Port) (lane n : Nat) : Bool :=
  creditsFit (fun l => p.used l + (if l = lane then n else 0))

/-- Changes a 16-bit count of a lane. -/
def bumpCount (m : SMap Nat) (lane : Nat) (d : Int) : SMap Nat :=
  SMap.set m lane ((Int.ofNat (SMap.get m lane 0) + d) % 65536).toNat

/-- Flits of a forwarded message that its input lane has freed. -/
def TxItem.freedNow (i : TxItem) : Nat := max i.sent i.freed

/-- A message of the lane is being sent: a lane holds one message at a time (R289). -/
def TxItem.busy (i : TxItem) : Bool := i.abort || (0 < i.sent && i.sent < i.total)

/-- A message whose first flit could be sent but for credits. -/
def Port.startable (p : Port) (i : TxItem) : Bool :=
  !i.busy && !i.flits.isEmpty && !(p.txq.any (fun x => x.busy && x.lane == i.lane))

/-- The message has a flit ready to be sent (R289, R290). -/
def Port.ready (p : Port) (i : TxItem) : Bool :=
  if i.abort then true
  else if i.busy then decide (i.sent < i.flits.length)
  else p.startable i && (i.held || p.creditOk i.lane i.total)

/-- The tenant of a message: SRC and FUNC. -/
def TxItem.tenant (i : TxItem) : Nat := let s := i.source.getD (0, 0); s.1 * 64 + s.2

/-- SHARE of a message; 0 acts as 1. (DESIGN CHOICE: log entry 6). -/
def TxItem.share (i : TxItem) : Nat := max 1 (msgHdr i.flits).share

/-- The unit of virtual time: a multiple of every SHARE, so that 1 / SHARE is exact. -/
def wfqUnit : Nat := (List.range 255).foldl (fun a i => Nat.lcm a (i + 1)) 1

/-- Virtual times of the ready tenants: one that becomes ready starts at the lowest of those that were (R290). -/
def wfqTimes (old : SMap Nat) (tenants : List Nat) : SMap Nat :=
  let known := tenants.filterMap (fun t => SMap.find old t)
  let low := known.foldl min (known.headD 0)
  tenants.foldl (fun m t => SMap.set m t (SMap.get old t low)) []

/-- The first element of a list that no other beats. -/
def bestBy {α : Type} (better : α → α → Bool) : List α → Option α
  | [] => none
  | x :: xs => some (xs.foldl (fun b y => if better y b then y else b) x)

/-- Within a class, the tenant of lowest virtual time, then the lower SRC and FUNC; within a tenant the oldest (R290). -/
def wfqBetter (vt : SMap Nat) (a b : TxItem) : Bool :=
  let k (i : TxItem) : Nat := SMap.get vt i.tenant 0
  decide (k a < k b) || (k a == k b && decide (a.tenant < b.tenant))

/-- The arbitration of R290: the message that takes the slot, and whether a lane that waited 16 slots took it. -/
def Port.arbitrate (p : Port) (vt : SMap Nat) (ready : List TxItem) : Option (TxItem × Bool) :=
  let wait (i : TxItem) : Nat := SMap.get p.laneWait i.lane 0
  match bestBy (fun a b => decide (wait b < wait a) || (wait a == wait b && decide (a.lane < b.lane)))
      (ready.filter (fun i => decide (16 ≤ wait i))) with
  | some s =>
    (bestBy (wfqBetter vt) (ready.filter (fun i => i.lane == s.lane))).map (fun i => (i, true))
  | none =>
    match bestBy (fun a b => decide (laneClass b.lane < laneClass a.lane)) ready with
    | none => none
    | some top =>
      (bestBy (wfqBetter vt) (ready.filter (fun i => laneClass i.lane == laneClass top.lane))).map (fun i => (i, false))

/-- The waits of the lanes after a slot: a lane with a flit ready that was not served waits one more. -/
def nextWaits (old : SMap Nat) (ready : List TxItem) (served : Option Nat) : SMap Nat :=
  ready.foldl (fun m i => if served = some i.lane then m else SMap.set m i.lane (SMap.get old i.lane 0 + 1)) []

/-- A flit with the port's acknowledgement and its CRC (R281, R291). (DESIGN CHOICE: log entry 55). -/
def Port.seal (p : Port) (f : BitVec 2048) : BitVec 2048 :=
  let g := ins (ins f 22 12 ((p.ackBase + 4095) % 4096)) 34 1 (b2n p.ackV)
  ins g 1984 64 (flitCrc g).toNat

/-- The payload of a control flit (R282): CTYPE, and what it carries; the report of R292 names its flit as a NAK does.
(DESIGN CHOICE: log entry 55). -/
def Ctl.payload : Ctl → List Byte
  | .credit freed => leBytes 8 0 ++ (List.range 64).flatMap (fun l => leBytes 2 (SMap.get freed l 0))
  | .nak fseq | .report fseq => leBytes 2 1 ++ leBytes 2 fseq
  | .probe lane => [2, BitVec.ofNat 8 lane]
  | .alive lane => [3, BitVec.ofNat 8 lane]
  | .hold lane => [4, BitVec.ofNat 8 lane]
  | .creditReset lane free => [5, BitVec.ofNat 8 lane] ++ leBytes 2 free
  | .retrain => [6]

/-- The port sends a control flit (R281, R282). -/
def Port.sendCtl (p : Port) (c : Ctl) : Port :=
  { p with tx := .control c (p.seal (bareFlit 5 0 0 (BitVec.ofNat 1920 (leNat c.payload)))) }

/-- The port sends an idle flit, with its acknowledgement (R281). -/
def Port.sendIdle (p : Port) : Port := { p with tx := .idle (p.seal (bareFlit 0 0 0 0)) }

/-- FTYPE of the next flit of a message. -/
def TxItem.nextType (i : TxItem) : Nat :=
  if i.abort then 6 else if i.total = 1 then 4 else if i.sent = 0 then 1 else if i.sent + 1 = i.total then 3 else 2

/-- A numbered message of this module takes its sequence number and START as its first flit is sent (R293, R302).
(DEDUCED: log entry 56). -/
def State.numberMsg (s : State) (i : TxItem) : State × TxItem :=
  let h := msgHdr i.flits
  if i.committed || i.origin.isSome || !(h.kind == 0 || h.kind == 1 || h.kind == 3) then (s, { i with committed := true }) else
  let key := pairKey h.queue h.dest
  let n := SMap.get s.fab.nextMseq key 0
  let start := !((s.fab.unackedOf h.queue h.dest).any (fun u => u.committed))
  let f0 := ins (ins (i.flits.headD 0) 112 16 n) 94 1 (b2n start)
  let mark (u : Unacked) : Unacked := { u with mseq := n, committed := true }
  (s.updFab (fun f => { f with
      nextMseq := SMap.set f.nextMseq key ((n + 1) % 65536)
      unacked := updFirst (fun u => u.queue == h.queue && u.dest == h.dest && u.mseq == h.mseq && !u.committed) mark f.unacked }),
   { i with flits := f0 :: i.flits.tail, committed := true })

/-- A credit return goes out unless one waits already (R282, R289). -/
def Port.returnCredit (p : Port) : Port :=
  if p.control.any (fun c => match c with | .credit _ => true | _ => false) then p
  else { p with control := p.control ++ [.credit p.rxFreed] }

/-- Flits of an input lane are freed (R289). -/
def Port.free (p : Port) (lane n : Nat) : Port :=
  if n = 0 then p else { p with rxFreed := bumpCount p.rxFreed lane n }.returnCredit

/-- Sends the next flit of a chosen message: it enters the retry buffer (R282, R289, R290, R291). -/
def State.sendFlit (s : State) (p : Nat) (i0 : TxItem) (starved : Bool) : State :=
  let vt := (s.port p).vtime
  let (s1, i) := s.numberMsg i0
  let x := s1.port p
  let f := bareFlit i.nextType i.lane x.txFseq (if i.abort then 0 else i.flits.getD i.sent 0)
  let sent := i.sent + 1
  let q := if sent = i.total then delFirst (fun y => y == i0) x.txq else updFirst (fun y => y == i0) (fun _ => { i with sent := sent, held := true }) x.txq
  let taken := if i0.held || i.abort then 0 else i.total
  let above := (SMap.get vt i.tenant 0 != (vt.foldl (fun b t => min b t.2) (SMap.get vt i.tenant 0)))
  let s2 := s1.updPort p (fun x => { x with
    txq := q, retry := x.retry ++ [(x.txFseq, f)], tx := .flit (x.seal f), txFseq := (x.txFseq + 1) % 4096
    sentCnt := bumpCount x.sentCnt i.lane taken
    vtime := SMap.set x.vtime i.tenant (SMap.get x.vtime i.tenant 0 + wfqUnit / i.share) }.count 0 1)
  let s3 := if starved then s2.updPort p (fun x => x.count 0x70 1) else s2
  let s4 := match i.origin with
    | some (q, l) => if i.abort || i.sent < i.freed then s3 else s3.updPort q (fun x => x.free l 1)
    | none => s3
  if above && (i.source.getD (0, 0)).1 == s.moduleNo then s4.countFunc (i.source.getD (0, 0)).2 0x10 1 else s4

/-- LINK_SLOT: a port that is UP sends a control flit that waits, else the next flit to be resent, else a flit of the
message that R290 chooses, else an idle flit. -/
def State.linkSlot (s : State) (p : Nat) : State :=
  let x := s.port p
  if x.state != .up then s else
  let ready := x.txq.filter x.ready
  let vt := wfqTimes x.vtime (ready.map (fun i => i.tenant)).eraseDups
  let starve := x.txq.any (fun i => x.startable i && !i.held && !(x.creditOk i.lane i.total))
  let s0 := s.updPort p (fun x => (if starve then x.count 0x68 1 else x))
  let wait (served : Option Nat) (s : State) : State :=
    s.updPort p (fun y => { y with laneWait := nextWaits x.laneWait ready served })
  match x.control with
  | c :: rest =>
    let c1 := match c with | .credit _ => .credit x.rxFreed | _ => c
    wait none (s0.updPort p (fun y => { y with control := rest, vtime := vt }.sendCtl c1))
  | [] =>
    match x.resend with
    | (_, f) :: rest =>
      wait none (s0.updPort p (fun y =>
        ({ y with resend := rest, tx := .flit (y.seal f), vtime := vt }.count 0 1).count 0x18 1))
    | [] =>
      let s1 := s0.updPort p (fun y => { y with vtime := vt }.sendIdle)
      if 2048 ≤ x.retry.length then wait none s1 else
      match x.arbitrate vt ready with
      | none => wait none s1
      | some (i, starved) => wait (some i.lane) (s1.sendFlit p i starved)

/-- LINK_SLOT. -/
def execLinkSlot (port : BitVec 5) (s : State) : Result := .next (s.linkSlot port.toNat)

/-- Events of a port within one millisecond (R299, R304): the counts start again when a new millisecond begins.
(DEDUCED: log entry 58). -/
def Port.inWindow (p : Port) (now : Nat) : Port :=
  if p.winMs = now / 1000000 then p else { p with winMs := now / 1000000, viols := 0, naks := 0 }

/-- A violation is counted and logged (R303, R304); at VIOLTH within 1 ms the port is to retrain.
(DEDUCED: log entry 58). -/
def State.violation (s : State) (p kind : Nat) (f : BitVec 2048) : State :=
  let carries := flitType f = 1 ∨ flitType f = 4
  let log : Vlog := { valid := true, kind := kind, flitHdr := fld f 0 64, msgHdr := if carries then fld f 64 128 else 0 }
  s.updPort p (fun x =>
    let y := (x.inWindow s.mod.timeNs).count 0x48 1
    { y with vlog := if y.vlog.valid then y.vlog else log, viols := y.viols + 1
             wantRetrain := y.wantRetrain || decide (max 1 s.fab.violTh ≤ y.viols + 1) })

/-- Sends a NAK that names an FSEQ (R283, R303). -/
def Port.sendNak (p : Port) (fseq : Nat) : Port :=
  { p with control := p.control ++ [Ctl.nak fseq], nakked := true }.count 0x10 1

/-- The item of an output port that forwards the unfinished message of an input lane. -/
def State.forwardOf (s : State) (p lane : Nat) (m : RxMsg) : Option (Nat × TxItem) :=
  m.out.bind (fun q => ((s.port q).txq.find? (fun i => i.origin == some (p, lane) && decide (i.flits.length < i.total))).map
    (fun i => (q, i)))

/-- The part of an unfinished message that has been forwarded ends: an abort flit goes to the lane that has sent some of it, and
unsent credits return to the sender (R292, R301). -/
def State.abortForward (s : State) (p lane : Nat) (m : RxMsg) : State :=
  match s.forwardOf p lane m with
  | none => s
  | some (q, i) =>
    if i.sent = 0 then s.updPort q (fun x => { x with txq := delFirst (fun y => y == i) x.txq })
    else
      let a : TxItem := { i with flits := [0], total := 1, sent := 0, abort := true, origin := none }
      s.updPort q (fun x => { x with txq := updFirst (fun y => y == i) (fun _ => a) x.txq
                                     sentCnt := bumpCount x.sentCnt i.lane (-((i.total - i.sent : Nat) : Int)) })

/-- Flits of an unfinished message that have been freed. -/
def State.freedOf (s : State) (p lane : Nat) (m : RxMsg) : Nat :=
  if m.drop ≠ 0 then m.flits.length else ((s.forwardOf p lane m).map (fun x => x.2.freedNow)).getD 0

/-- The unfinished message of a lane. -/
def Port.partialOf (p : Port) (lane : Nat) : Option RxMsg := (SMap.get p.rx lane []).getLast?.bind (fun m => if m.whole then none else some m)

/-- The lane without its unfinished message. (DEDUCED: log entry 56). -/
def Port.dropPartial (p : Port) (lane : Nat) : Port := { p with rx := SMap.set p.rx lane ((SMap.get p.rx lane []).dropLast) }

/-- An unfinished message is discarded and will be resent whole (R292, R301, R303): its flits no longer count. -/
def State.discardPartial (s : State) (p lane : Nat) : State :=
  match (s.port p).partialOf lane with
  | none => s
  | some m =>
    let freed := s.freedOf p lane m
    (s.abortForward p lane m).updPort p (fun x => { x.dropPartial lane with
      rxCount := bumpCount x.rxCount lane (-(m.flits.length : Int)), rxFreed := bumpCount x.rxFreed lane (-(freed : Int)) })

/-- The link's partial messages are discarded (R292). -/
def State.discardPartials (s : State) (p : Nat) : State := (List.range 64).foldl (fun s l => s.discardPartial p l) s

/-- An unfinished message ends for good by an abort flit (R301): its flits are freed. -/
def State.endPartial (s : State) (p lane : Nat) : State :=
  match (s.port p).partialOf lane with
  | none => s
  | some m =>
    let freed := s.freedOf p lane m
    (s.abortForward p lane m).updPort p (fun x => (x.dropPartial lane).free lane (m.flits.length - freed))

/-- A message is lost to its sender (R294, R327): the transfer, the collective operation or the command ends with
PEER_LOST and a reason of R329. -/
def State.lostMsg (s : State) (u : Unacked) (reason : Nat) : State :=
  match u.engine with
  | some (.feed t) =>
    match s.xfer t with
    | some x => if x.isComplete then s else s.putXfer t (x.stop 10 (reason * 2 ^ 16))
    | none => s
  | some (.ligature g d) =>
    match s.ligOp g d with
    | some o => s.ligEnd o 10 (match u.rank with | some r => peerDetail r reason | none => reason * 2 ^ 16)
    | none => s
  | _ =>
    match u.cmd with
    | some r => s.endCommand r 10 (reason * 2 ^ 16)
    | none => s

/-- Takes a message from those that wait for an acknowledgement. -/
def State.takeUnacked (s : State) (p : Unacked → Bool) : Option (Unacked × State) :=
  (s.fab.unacked.find? p).map (fun u => (u, s.updFab (fun f => { f with unacked := delFirst p f.unacked })))

/-- A message that cannot be sent on is discarded: a notice of code 1 goes to SRC (R300); SRC being this module, its command
ends as that notice would end it (R294). (DEDUCED: log entry 57). -/
def State.unreachable (s : State) (h : MsgHdr) (own : Bool) (committed : Bool) : State :=
  if own then
    match s.takeUnacked (fun u => u.queue == h.queue && u.dest == h.dest && u.mseq == h.mseq && u.committed == committed) with
    | some (u, s1) => s1.lostMsg u 1
    | none => s
  else s.sendNotice h 1

/-- A route's first port of this module. -/
def State.firstState (s : State) (r : RouteChoice) : PortState := (s.port (portOfHop r.ports 0)).state

/-- The route by which a message is rerouted after `taken` hops (R300): this module's primary, or its alternate when the
primary's first port is not UP, when the hops fit and the first port can send. (DEDUCED: log entry 57). -/
def State.reroute (s : State) (dest taken : Nat) : Option RouteChoice :=
  let pick := match s.fab.primary dest, s.fab.alternate dest with
    | some p, a => if s.firstState p == PortState.up then some p else a
    | none, a => a
  pick.bind (fun r => if taken + r.hops ≤ 4 && !(s.firstState r).gone then some r else none)

/-- A first flit with the rest of its route replaced after `taken` hops; HOPPTR is one more (R296, R300). -/
def routedFlit (f : BitVec 1920) (taken : Nat) (r : RouteChoice) : BitVec 1920 :=
  let ports := fld f 64 20 % 2 ^ (5 * taken) + r.ports * 2 ^ (5 * taken)
  ins (ins (ins f 48 3 (taken + r.hops)) 51 3 (taken + 1)) 64 20 ports

/-- The forwarding of a message in progress moves to another output port. -/
def State.moveOut (s : State) (o : Option (Nat × Nat)) (q : Nat) : State :=
  match o with
  | none => s
  | some (p, lane) =>
    let l := updFirst (fun (m : RxMsg) => !m.whole && m.out.isSome) (fun m => { m with out := some q })
      (SMap.get (s.port p).rx lane [])
    s.updPort p (fun x => { x with rx := SMap.set x.rx lane l })

/-- A discarded message's unfinished rest is discarded as it arrives. -/
def State.dropRest (s : State) (o : Option (Nat × Nat)) (left : Nat) : State :=
  match o with
  | none => s
  | some (p, lane) =>
    let l := updFirst (fun (m : RxMsg) => !m.whole && m.out.isSome) (fun m => { m with out := none, drop := 4 })
      (SMap.get (s.port p).rx lane [])
    s.updPort p (fun x => { x.free lane left with rx := SMap.set x.rx lane l })

/-- A message queued for a port is rerouted when the hop limit permits (R300). (DEDUCED: log entry 57). -/
def State.tryReroute (s : State) (p : Nat) (i : TxItem) : Option State :=
  let h := msgHdr i.flits
  let taken := h.hopptr - 1
  (s.reroute h.dest taken).bind (fun r =>
    let q := portOfHop r.ports 0
    if q = p then none else
    let fl := routedFlit (i.flits.headD 0) taken r :: i.flits.tail
    let j : TxItem := { i with flits := fl, sent := 0, freed := i.freedNow, held := false }
    let s1 := (s.updPort p (fun x => { x with txq := delFirst (fun y => y == i) x.txq }.count 0x50 1)).moveOut
      (if i.flits.length < i.total then i.origin else none) q
    some (s1.enqueue q j))

/-- A message that cannot be rerouted is discarded with a notice (R300). -/
def State.discardItem (s : State) (p : Nat) (i : TxItem) : State :=
  let s1 := s.updPort p (fun x => { x with txq := delFirst (fun y => y == i) x.txq }.count 0x58 1)
  let s2 := if i.flits.length < i.total then s1.dropRest i.origin (i.flits.length - i.freedNow)
    else match i.origin with
      | some (q, l) => s1.updPort q (fun x => x.free l (i.total - i.freedNow))
      | none => s1
  s2.unreachable (msgHdr i.flits) i.origin.isNone i.committed

/-- Every message queued for a port that has gone is rerouted or discarded; aborts are of no more use (R300). -/
def State.emptyQueue (s : State) (p : Nat) : State :=
  (s.port p).txq.foldl (fun s i =>
    if i.abort then s.updPort p (fun x => { x with txq := delFirst (fun y => y == i) x.txq })
    else (s.tryReroute p i).getD (s.discardItem p i)) s

/-- The port as it is without a link: nothing to resend, no credits, no partner. -/
def Port.unlinked (p : Port) (st : PortState) : Port :=
  { en := p.en, state := st, peerMod := p.peerMod, peerPort := p.peerPort, retrains := p.retrains, txq := p.txq, rx := p.rx
    vlog := p.vlog, cnt := p.cnt }

/-- A port becomes DARK, DEAD or DISABLED: partial messages end, and what is queued for it goes another way (R280, R300).
(DEDUCED: log entry 57). -/
def State.portGone (s : State) (p : Nat) (st : PortState) : State :=
  ((s.discardPartials p).updPort p (fun x => x.unlinked st)).emptyQueue p

/-- Messages of this module that wait at a port that cannot send take a route that has become usable (R295).
(DEDUCED: log entry 57). -/
def State.retryWaiting (s : State) : State :=
  (List.range 32).foldl (fun s p =>
    if !(s.port p).state.gone then s else
    (s.port p).txq.foldl (fun s i =>
      let h := msgHdr i.flits
      match s.routeTo h.dest (laneClass i.lane) with
      | some r =>
        let q := portOfHop r.ports 0
        if i.origin.isSome || i.committed || (s.port q).state.gone then s else
        (s.updPort p (fun x => { x with txq := delFirst (fun y => y == i) x.txq })).enqueue q
          { i with flits := routedFlit (i.flits.headD 0) 0 r :: i.flits.tail }
      | none => s) s) s

/-- A port that enters RETRAIN (R292, R299, R300): one that retrains of itself asks its partner to, the receiver discards the
link's partial messages and expects the flit after its last whole message, and class 7 messages not yet begun are rerouted. -/
def State.startRetrain (s : State) (p : Nat) (asks : Bool) : State :=
  if (s.port p).state != .up then s else
  let s1 := (s.discardPartials p).updPort p (fun x =>
    let y : Port := if asks then x.sendCtl .retrain else { x with tx := .silent }
    { y with
      state := .retrain, retrains := satAdd 8 x.retrains 1, resend := [], control := [], nakked := false
      rxFseq := x.whole, ackBase := x.whole, wantRetrain := false, viols := 0, naks := 0, holdSeen := [] }.count 0x30 1)
  (s1.port p).txq.foldl (fun s i =>
    if laneClass i.lane = 7 ∧ !i.committed ∧ !i.abort then (s.tryReroute p i).getD s else s) s1

/-- The port has failed for good: EVENT 2 for the managing function (R299, R334). -/
def State.portDead (s : State) (p : Nat) : State :=
  (s.portGone p .dead).moduleEvent 2 (p + (s.port p).peerMod * 32)

/-- Ports train from stage LINKS on, in a module that has not failed (R350, R356). -/
def State.portsLit (s : State) : Bool :=
  !s.mod.failed && (s.mod.stage == .links || s.mod.stage == .discovery || s.mod.stage == .ready)

/-- LINK_TRAINED: a DARK or TRAINING port that is enabled comes UP with at least 6 wavelengths (R278 to R280), and with fewer
it has its partner's light and goes on TRAINING; on an UP port the partner tells its number anew (R365).
(DEDUCED: log entry 57). -/
def execLinkTrained (port : BitVec 5) (wmask : BitVec 8) (peer : Option (BitVec 10 × BitVec 5)) (s : State) : Result :=
  let p := port.toNat
  let x := s.port p
  let learn (y : Port) : Port := match peer with
    | some (m, q) => { y with peerV := true, peerMod := m.toNat, peerPort := q.toNat }
    | none => { y with peerV := false }
  .next (
    if x.state == .up then s.updPort p learn
    else if !s.portsLit || !x.en || !(x.state == .dark || x.state == .training) then s
    else if waves wmask.toNat < 6 then s.updPort p (fun y => { y with state := .training })
    else (s.updPort p (fun y => learn { y.unlinked .up with wmask := wmask.toNat })).retryWaiting)

/-- CREDIT_RETURN: cumulative counts of the flits freed in each lane (R282). -/
def execCreditReturn (port : BitVec 5) (freed : List (BitVec 6 × BitVec 16)) (s : State) : Result :=
  .next (if (s.port port.toNat).state != .up then s else
    s.updPort port.toNat (fun x => { x with
      freedCnt := freed.foldl (fun m p => SMap.set m p.1.toNat p.2.toNat) x.freedCnt }))

/-- NAK: the flits from the one it names are resent in order (R291); at RETRYTH within 1 ms the port is to retrain (R299). -/
def execNak (port : BitVec 5) (fseq : BitVec 12) (s : State) : Result :=
  .next (if (s.port port.toNat).state != .up then s else
    s.updPort port.toNat (fun x =>
      let y := x.inWindow s.mod.timeNs
      let from_ := y.retry.dropWhile (fun f => f.1 != fseq.toNat)
      { y with resend := if from_.isEmpty then y.resend else from_, naks := y.naks + 1
               wantRetrain := y.wantRetrain || decide (max 1 s.fab.retryTh ≤ y.naks + 1) }))

/-- The message in progress on an output lane has no flit to send: its own input is stalled (R301). -/
def Port.inputStalled (p : Port) (lane : Nat) : Bool :=
  p.txq.any (fun i => i.lane == lane && i.busy && !i.abort && i.sent == i.flits.length)

/-- PROBE: answered alive, or hold while the port's own input of that message is stalled (R301). -/
def execProbe (port : BitVec 5) (lane : BitVec 6) (s : State) : Result :=
  .next (if (s.port port.toNat).state != .up then s else
    s.updPort port.toNat (fun x => { x with control := x.control ++
      [if x.inputStalled lane.toNat then .hold lane.toNat else .alive lane.toNat] }))

/-- ALIVE: the partner's port works and its input is not stalled (R301). -/
def execAlive (port : BitVec 5) (lane : BitVec 6) (s : State) : Result :=
  .next (s.updPort port.toNat (fun x => { x with holdSeen := x.holdSeen.filter (fun l => l != lane.toNat) }))

/-- HOLD: the stall limit of the lane becomes 2 ms (R301). -/
def execHold (port : BitVec 5) (lane : BitVec 6) (s : State) : Result :=
  .next (s.updPort port.toNat (fun x => { x with holdSeen := lane.toNat :: x.holdSeen.filter (fun l => l != lane.toNat) }))

/-- The flits of the last message that a lane has begun, from the retry buffer. -/
def laneTail (retry : List (Nat × BitVec 2048)) (lane : Nat) : List (BitVec 1920) :=
  retry.foldl (fun l f =>
    if flitLane f.2 ≠ lane then l
    else if flitType f.2 = 1 ∨ flitType f.2 = 4 then [flitPayload f.2]
    else l ++ [flitPayload f.2]) []

/-- The lane's message is sent again from its first flit (R303). -/
def Port.restartLane (p : Port) (lane : Nat) : Port :=
  if p.txq.any (fun i => i.lane == lane && i.busy && !i.abort) then
    { p with txq := updFirst (fun i => i.lane == lane && i.busy && !i.abort) (fun i => { i with sent := 0, freed := i.freedNow, held := false }) p.txq }
  else
    let l := laneTail p.retry lane
    if l.isEmpty then p else
    let h := msgHdr l
    let i : TxItem := { flits := l, total := l.length, lane := lane, committed := true, source := some (h.src, h.func) }
    { p with txq := i :: p.txq }

/-- CREDIT_RESET: the lane's credit count is set from the receiver's free space, and its partial message is resent (R303).
(DEDUCED: log entry 56). -/
def execCreditReset (port : BitVec 5) (lane : BitVec 6) (free : BitVec 16) (s : State) : Result :=
  .next (if (s.port port.toNat).state != .up then s else
    s.updPort port.toNat (fun x =>
      { x.restartLane lane.toNat with
        sentCnt := SMap.set x.sentCnt lane.toNat ((SMap.get x.freedCnt lane.toNat 0 + (2080 - free.toNat)) % 65536) }))

/-- RETRAIN_REQUEST: the partner asks for a retrain (R299). -/
def execRetrainRequest (port : BitVec 5) (s : State) : Result := .next (s.startRetrain port.toNat false)

/-- RETRAIN_START: a port that its NAKs or violations have brought to a threshold retrains (R299, R304). -/
def execRetrainStart (port : BitVec 5) (s : State) : Result :=
  .next (if (s.port port.toNat).wantRetrain then s.startRetrain port.toNat true else s)

/-- RETRAIN_END: with at least 6 wavelengths the port is UP again, reports the flit after its last whole message, and resends from
the flit that the partner names; the third failure in a row makes it DEAD (R292, R299). -/
def execRetrainEnd (port : BitVec 5) (wmask : BitVec 8) (resendFrom : BitVec 12) (s : State) : Result :=
  let p := port.toNat
  let x := s.port p
  .next (
    if x.state != .retrain then s
    else if 6 ≤ waves wmask.toNat then
      (s.updPort p (fun x => { x with state := .up, wmask := wmask.toNat, fails := 0, control := [.report x.whole]
                                      resend := x.retry.dropWhile (fun f => f.1 != resendFrom.toNat) })).retryWaiting
    else if x.fails < 2 then
      s.updPort p (fun x => { x with fails := x.fails + 1, retrains := satAdd 8 x.retrains 1 }.count 0x30 1)
    else s.portDead p)

/-- WAVELENGTH_DROP: a wavelength whose errors of one millisecond reach a threshold is dropped, or the port retrains when fewer
than 6 would be left (R298, R299). -/
def execWavelengthDrop (port : BitVec 5) (wave : BitVec 3) (corrected uncorrectable : BitVec 32) (s : State) : Result :=
  let p := port.toNat
  let x := s.port p
  if x.state != .up || !(Nat.testBit x.wmask wave.toNat) then .next s else
  let s1 := s.updPort p (fun x => (x.count 0x20 corrected.toNat).count 0x28 uncorrectable.toNat)
  let reached := decide (max 1 s.fab.corTh * 1024 ≤ corrected.toNat ∨ max 1 s.fab.uncTh ≤ uncorrectable.toNat)
  .next (if !reached then s1
    else if waves x.wmask ≤ 6 then s1.startRetrain p true
    else s1.updPort p (fun x => { x with wmask := x.wmask - 2 ^ wave.toNat }.count 0x38 1))

/-- PROBE_TIMER: 8 µs without a flit of a message in progress; the hold of the last 8 µs is over (R301). -/
def execProbeTimer (port : BitVec 5) (lane : BitVec 6) (s : State) : Result :=
  .next (match (s.port port.toNat).partialOf lane.toNat with
    | none => s
    | some _ => s.updPort port.toNat (fun x => { x with
        control := x.control ++ [.probe lane.toNat], holdSeen := x.holdSeen.filter (fun l => l != lane.toNat) }))

/-- STALL_DECLARE: the link is declared stalled and retrains; its partial messages are discarded, with aborts (R301). -/
def execStallDeclare (port : BitVec 5) (lane : BitVec 6) (s : State) : Result :=
  .next (match (s.port port.toNat).partialOf lane.toNat with
    | none => s
    | some _ =>
      if (s.port port.toNat).state != .up then s
      else (s.updPort port.toNat (fun x => x.count 0x40 1)).startRetrain port.toNat true)

/-- PARTNER_LIGHT_LOSS: the port is DARK (R280). -/
def execPartnerLightLoss (port : BitVec 5) (s : State) : Result :=
  let st := (s.port port.toNat).state
  .next (if st == .up || st == .training || st == .retrain then s.portGone port.toNat .dark else s)

/-- A write of EN (R280): 0 holds the port DISABLED; 1 lets it train, also out of DEAD after a 0. -/
def State.portEnable (s : State) (p : Nat) (en : Bool) : State :=
  let x := s.port p
  if !en then (if x.state == .disabled then s else s.portGone p .disabled).updPort p (fun x => { x with en := false })
  else if x.en then s
  else s.updPort p (fun x => { x with en := true, state := if s.mod.failed then .disabled else .dark, fails := 0 })

/-- PORT_ENABLE_WRITE: EN is RW for the managing function. -/
def execPortEnableWrite (fn : BitVec 6) (port : BitVec 5) (en : Bool) (s : State) : Result :=
  .next (if s.isMgmt fn.toNat then s.portEnable port.toNat en else s)

end Sys2Proof.Machine
end

