-- ==== Sys2Proof/Machine/Manage.lean ====
section
/-! DEFINITION. The PLZ_ register block as it reads (R280, R294, R295, R304, R305, R363, R364), the discovery flood (R362, R363)
and the fabric-map operations (R364, R365). A management message's payload has no layout in the spec; the model's own is: byte
0 names discovery (0), request (1) or answer (2). -/

namespace Sys2Proof.Machine

/-- The code of a port state (R280). -/
def PortState.code : PortState → Nat
  | .dark => 0 | .training => 1 | .up => 2 | .retrain => 3 | .dead => 4 | .disabled => 5

/-- PLZ_CTL (R294). -/
def Fabric.ctl (f : Fabric) : Nat :=
  f.srcGrp * 2 ^ 56 + f.e2etmo * 2 ^ 48 + f.violTh * 2 ^ 40 + f.retryTh * 2 ^ 32 + f.corTh * 2 ^ 16 + f.uncTh * 2 ^ 8

/-- A write of PLZ_CTL (R294): 0 in a threshold or timeout is stored as 1. -/
def Fabric.setCtl (f : Fabric) (v : Word) : Fabric :=
  { f with srcGrp := fld v 56 8, e2etmo := max 1 (fld v 48 8), violTh := max 1 (fld v 40 8), retryTh := max 1 (fld v 32 8)
           corTh := max 1 (fld v 16 16), uncTh := max 1 (fld v 8 8) }

/-- PLZ_PSTATp (R280). -/
def Port.stat (p : Port) : Nat :=
  b2n p.en * 2 ^ 63 + (if p.peerV then p.peerMod * 2 ^ 53 + p.peerPort * 2 ^ 48 + 2 ^ 47 else 0) + p.wmask * 2 ^ 16
    + p.retrains * 2 ^ 8 + p.state.code

/-- PLZ_VLOGp (R304): the fields read 0 while VALID is 0. -/
def Vlog.value (v : Vlog) : Nat :=
  if v.valid then 2 ^ 255 + v.kind * 2 ^ 252 + v.flitHdr * 2 ^ 128 + v.msgHdr else 0

/-- PLZ_RTn (R295). -/
def Route.word (r : Route) : Nat :=
  b2n r.av * 2 ^ 55 + r.ahops * 2 ^ 52 + r.aport * 2 ^ 32 + b2n r.pv * 2 ^ 23 + r.phops * 2 ^ 20 + r.pport

/-- A route entry from its register value. -/
def Route.parse (v : Word) : Route :=
  { av := v.getLsbD 55, ahops := fld v 52 3, aport := fld v 32 20, pv := v.getLsbD 23, phops := fld v 20 3, pport := fld v 0 20 }

/-- PLZ_DISCn (R363). -/
def Fabric.disc (f : Fabric) (n : Nat) : Nat :=
  match f.discs[n]? with
  | some d => d.serial * 2 ^ 64 + 2 ^ 63 + d.hops * 2 ^ 61 + d.toPath * 2 ^ 46 + d.fromPath * 2 ^ 31
  | none => 0

/-- PLZ_FMCMD (R364); GO is write only. -/
def Fabric.fmCmd (f : Fabric) : Nat :=
  b2n f.fmBusy * 2 ^ 63 + f.fmResult * 2 ^ 59 + f.fmOp * 2 ^ 57 + f.fmHops * 2 ^ 55 + f.fmTo * 2 ^ 40 + f.fmFrom * 2 ^ 25
    + f.fmDest * 2 ^ 15 + f.fmCount * 2 ^ 5

/-- An aligned 8-byte word of the PLZ_ block (R382). -/
def State.plzWord (s : State) (off : Nat) : Nat :=
  let f := s.fab
  if off = 0 then f.ctl
  else if 0x100 ≤ off ∧ off < 0x200 then (s.port ((off - 0x100) / 8)).stat
  else if 0x400 ≤ off ∧ off < 0x800 then (s.port ((off - 0x400) / 32)).vlog.value / 2 ^ (off % 32 * 8) % 2 ^ 64
  else if 0x1000 ≤ off ∧ off < 0x2000 then SMap.get (s.port ((off - 0x1000) / 128)).cnt (off % 128) 0
  else if 0x2000 ≤ off ∧ off < 0x3000 then Memory.readLe f.fmData (off - 0x2000) 8
  else if off = 0x3000 then f.fmCmd
  else if off = 0x3008 then f.fmArg
  else if 0x4000 ≤ off ∧ off < 0x7FF0 then f.disc ((off - 0x4000) / 16) / 2 ^ (off % 16 * 8) % 2 ^ 64
  else if 0x10000 ≤ off ∧ off < 0x12000 then (SMap.get f.routes ((off - 0x10000) / 8) {}).word
  else 0

/-- Sends a management message on a path of output ports (R364), in class 7. (DESIGN CHOICE: log entry 55). -/
def State.sendManagement (s : State) (dest hops path : Nat) (payload : List Byte) : State :=
  let h : MsgHdr :=
    { dest := dest, src := s.moduleNo, srcgrp := s.fab.srcGrp, share := 1, hops := hops, hopptr := 1, kind := 6, ports := path
      paylen := payload.length }
  let fl := msgFlits h payload
  s.enqueue (portOfHop path 0) { flits := fl, total := fl.length, lane := laneOf 7 false 0, source := some (s.moduleNo, 0) }

/-- The payload of a discovery message: the origin's serial number, and output and arrival port of each hop.
(DESIGN CHOICE: log entry 55). -/
def discPayload (serial : Nat) (hops : List (Nat × Nat)) : List Byte :=
  leBytes 1 0 ++ leBytes 1 hops.length ++ leBytes 6 0 ++ leBytes 8 serial
    ++ hops.flatMap (fun p => leBytes 1 p.1 ++ leBytes 1 p.2)

/-- Sends discovery messages on every UP port but one (R362). -/
def State.flood (s : State) (serial : Nat) (hops : List (Nat × Nat)) (but : Option Nat) : State :=
  (List.range 32).foldl (fun s p =>
    if (s.port p).state == .up && but != some p then s.sendManagement 0 1 p (discPayload serial (hops ++ [(p, 0)])) else s) s

/-- A path of ports as PLZ_DISCn packs it (R363). -/
def packPath (ports : List Nat) : Nat := (ports.zipIdx).foldl (fun n p => n + p.1 * 2 ^ (5 * p.2)) 0

/-- A discovery message of 1 to 3 hops arrives (R362): a new serial is recorded in the first free entry, and the message is to
be forwarded when it has taken fewer than 3 hops. (DESIGN CHOICE: log entry 60). -/
def State.discovered (s : State) (port serial : Nat) (hops : List (Nat × Nat)) : State :=
  if serial = Config.serial.toNat || s.fab.discs.any (fun d => d.serial == serial) || decide (1023 ≤ s.fab.discs.length)
      || hops.isEmpty || decide (3 < hops.length) then s else
  let d : Disc := { serial := serial, hops := hops.length, toPath := packPath (hops.map (fun p => p.2)).reverse
                    fromPath := packPath (hops.map (fun p => p.1)) }
  s.updFab (fun f => { f with
    discs := f.discs ++ [d]
    discFwd := if hops.length < 3 then f.discFwd ++ [{ serial := serial, port := port, hops := hops }] else f.discFwd })

/-- DISCOVERY_MESSAGE. -/
def execDiscoveryMessage (port : BitVec 5) (serial : Word) (hops : List (BitVec 5 × BitVec 5)) (s : State) : Result :=
  .next (if (s.port port.toNat).state == .up && !s.mod.failed then
    s.discovered port.toNat serial.toNat (hops.map (fun p => (p.1.toNat, p.2.toNat))) else s)

/-- DISCOVERY_FORWARD: the random delay is over, and the message goes out of every other UP port (R362).
(DESIGN CHOICE: log entry 60). -/
def execDiscoveryForward (serial : Word) (s : State) : Result :=
  .next (match s.fab.discFwd.find? (fun d => d.serial == serial.toNat) with
    | none => s
    | some d =>
      (s.updFab (fun f => { f with discFwd := delFirst (fun x => x.serial == serial.toNat) f.discFwd })).flood d.serial d.hops (some d.port))

/-- What a fabric-map operation asks of its target. -/
structure FmReq where
  op : Nat
  count : Nat
  arg : Nat
  data : List Byte
  deriving DecidableEq, Repr

/-- The offsets that OP 1 writes: PLZ_CTL or route entries (R365). -/
def fmWritable (off : Nat) : Bool := off == 0 || decide (0x10000 ≤ off ∧ off < 0x12000)

/-- The target applies an operation (R365): its RESULT, the words read, and the state after it.
(DESIGN CHOICE: log entry 60). -/
def State.fmApply (s : State) (r : FmReq) : Nat × List Byte × State :=
  let offs := (List.range r.count).map (fun i => r.arg + 8 * i)
  let bad := (11, [], s)
  match r.op with
  | 0 =>
    let m := r.arg % 1024
    if s.mod.placeValid && s.mod.place != m then bad
    else (0, [], (s.updMod (fun x => { x with placeValid := true, place := m })).updFab (fun f => { f with srcGrp := r.arg / 1024 % 256 }))
  | 1 =>
    if r.count = 0 || 512 < r.count || r.arg % 8 ≠ 0 || !(offs.all fmWritable) then bad else
    (0, [], offs.zipIdx.foldl (fun s p =>
      let v : Word := BitVec.ofNat 64 (leNat ((r.data.drop (8 * p.2)).take 8))
      s.updFab (fun f => if p.1 = 0 then f.setCtl v else { f with routes := SMap.set f.routes ((p.1 - 0x10000) / 8) (Route.parse v) })) s)
  | 2 =>
    if r.count = 0 || 512 < r.count || r.arg % 8 ≠ 0 || decide (0x40000 < r.arg + 8 * r.count) then bad
    else (0, offs.flatMap (fun o => leBytes 8 (s.plzWord o)), s)
  | _ => bad

/-- The payload of a request, which carries the way back. (DESIGN CHOICE: log entry 55). -/
def fmPayload (r : FmReq) (hops fromPath : Nat) : List Byte :=
  leBytes 1 1 ++ leBytes 1 r.op ++ leBytes 2 r.count ++ leBytes 4 r.arg ++ leBytes 2 fromPath ++ leBytes 1 hops ++ leBytes 5 0 ++ r.data

/-- The request of a payload. -/
def fmParse (bs : List Byte) : FmReq × Nat × Nat :=
  let n (i k : Nat) : Nat := leNat ((bs.drop i).take k)
  ({ op := n 1 1, count := n 2 2, arg := n 4 4, data := bs.drop 16 }, n 10 1, n 8 2)

/-- A management message that has arrived (R362, R364): a discovery message, a request that this module applies and answers along
FROMPATH, or an answer, which waits for FM_ANSWER while the operation runs. -/
def State.management (s : State) (port : Nat) (m : Delivered) : State :=
  let bs := msgPayload m.flits
  let n (i k : Nat) : Nat := leNat ((bs.drop i).take k)
  match n 0 1 with
  | 0 =>
    let hops := (List.range (n 1 1)).map (fun i => (n (16 + 2 * i) 1, n (17 + 2 * i) 1))
    s.discovered port (n 8 8) (hops.dropLast ++ (hops.getLast?.map (fun p => (p.1, port))).toList)
  | 1 =>
    let (r, hops, back) := fmParse bs
    let (result, data, s1) := s.fmApply r
    s1.sendManagement (msgHdr m.flits).src hops back (leBytes 1 2 ++ leBytes 1 result ++ leBytes 14 0 ++ data)
  | _ => if s.fab.fmBusy then s.updFab (fun f => { f with inbox := f.inbox ++ [m] }) else s

/-- A write of PLZ_FMCMD by the managing function (R364): ignored while BUSY; GO starts the operation, on this module when HOPS
is 0. -/
def State.fmWrite (s : State) (v : Word) : State :=
  if s.fab.fmBusy then s else
  let f := { s.fab with fmOp := fld v 57 2, fmHops := fld v 55 2, fmTo := fld v 40 15, fmFrom := fld v 25 15, fmDest := fld v 15 10
                        fmCount := fld v 5 10 }
  let s1 := { s with fab := f }
  if !v.getLsbD 0 then s1 else
  let r : FmReq := { op := f.fmOp, count := f.fmCount, arg := f.fmArg
                     data := if f.fmOp = 1 then Memory.readBytes f.fmData 0 (8 * f.fmCount) else [] }
  if f.fmOp = 3 then s1.updFab (fun f => { f with fmResult := 11 })
  else if f.fmHops = 0 then
    let (result, data, s2) := s1.fmApply r
    s2.updFab (fun f => { f with fmResult := result, fmData := Memory.writeBytes f.fmData 0 data })
  else (s1.sendManagement f.fmDest f.fmHops f.fmTo (fmPayload r f.fmHops f.fmFrom)).updFab (fun f => { f with fmBusy := true })

/-- A write of PLZ_FMCMD that starts an operation of one OP. (DESIGN CHOICE: log entry 60). -/
def State.fmStart (s : State) (fn op : Nat) (v : Word) : State :=
  if s.isMgmt fn && fld v 57 2 == op && v.getLsbD 0 then s.fmWrite v else s

/-- FM_ASSIGN: OP 0 (R365). -/
def execFmAssign (fn : BitVec 6) (v : Word) (s : State) : Result := .next (s.fmStart fn.toNat 0 v)

/-- FM_WRITE: OP 1 (R365). -/
def execFmWrite (fn : BitVec 6) (v : Word) (s : State) : Result := .next (s.fmStart fn.toNat 1 v)

/-- FM_READ: OP 2 (R365). -/
def execFmRead (fn : BitVec 6) (v : Word) (s : State) : Result := .next (s.fmStart fn.toNat 2 v)

/-- FM_ANSWER: the answer that has arrived completes the operation (R364). -/
def execFmAnswer (s : State) : Result :=
  .next (if !s.fab.fmBusy then s else
    match s.takeMsg (fun h => h.kind == 6) with
    | none => s
    | some (m, s1) =>
      let bs := msgPayload m
      let read := s1.fab.fmOp == 2 && leNat ((bs.drop 1).take 1) == 0
      s1.updFab (fun f => { f with
        fmBusy := false, fmResult := leNat ((bs.drop 1).take 1) % 16
        fmData := if read then Memory.writeBytes f.fmData 0 ((bs.drop 16).take 4096) else f.fmData }))

/-- FM_TIMEOUT: no answer within 1 ms (R364). -/
def execFmTimeout (s : State) : Result :=
  .next (if s.fab.fmBusy then s.updFab (fun f => { f with fmBusy := false, fmResult := 9 }) else s)

end Sys2Proof.Machine
end

