-- ==== Sys2Proof/Machine/Fabric.lean ====
section
/-! DEFINITION. The fabric above the link (R283, R284, R293 to R296, R301, R303): received flits, forwarding, delivery in order,
and what delivered writes, reads, responses, acknowledgements and notices do. -/

namespace Sys2Proof.Machine

/-- Acknowledgements, notices, management messages and ligature control messages travel in class 7 (R287). -/
def MsgHdr.classSeven (h : MsgHdr) : Bool := h.kind == 4 || h.kind == 5 || h.kind == 6 || (h.kind == 3 && h.lig.ltype != 0)

/-- The header of a first or only flit is as R284 gives it: its KIND, KSPEC and reserved bits, a payload that its flits hold, and
the flit's own set, hop lane and class (R287, R288, R317). (DEDUCED: log entry 58). -/
def headerOk (f : BitVec 2048) : Bool :=
  let p := flitPayload f
  let h := MsgHdr.parse p
  hdrReservedOk p && decide (h.kind ≤ 6) && decide (h.paylen ≤ 7648) && decide (h.kind = 1 ∨ h.paylen ≤ 208 + 240 * h.len)
    && f.getLsbD 7 == kindResp h.kind && h.hopptr == fld f 8 2 + 1 && (!h.classSeven || fld f 4 3 == 7) && (
    match h.kind with
    | 1 | 2 => h.kspec / 65536 == 0
    | 3 => decide (h.lig.ltype ≤ 4)
    | 5 => h.kspec / 256 == 0
    | _ => h.kspec == 0)

/-- A message whose first flit's payload is `p` does not end here: a discovery message names no destination (R362), any other
management message names the module number, which is 0 until one is assigned (R364), and nothing else is accepted until then
(R22). (DEDUCED: log entry 58). -/
def State.wrongDest (s : State) (p : BitVec 1920) : Bool :=
  let h := MsgHdr.parse p
  if h.kind = 6 then fld p 256 8 != 0 && h.dest != s.moduleNo else !s.mod.placeValid || h.dest != s.mod.place

/-- The route of a message is illegal at this module (R303 KIND 4). -/
def State.routeBad (s : State) (p : BitVec 1920) : Bool :=
  let h := MsgHdr.parse p
  !(hopsOk h.hops) || decide (h.hops < h.hopptr) || (h.hopptr == h.hops && s.wrongDest p)

/-- The message ends at this module (R296). -/
def MsgHdr.lastHop (h : MsgHdr) : Bool := h.hopptr == h.hops

/-- The next message expected of a pair (R293). -/
def Fabric.expected (f : Fabric) (src queue : Nat) : Nat :=
  ((f.pairs.find? (fun p => p.src == src && p.queue == queue)).map (fun p => p.expected)).getD 0

/-- Sets the next message expected of a pair. -/
def Fabric.expect (f : Fabric) (src queue n : Nat) : Fabric :=
  { f with pairs := { src := src, queue := queue, expected := n % 65536 }
      :: f.pairs.filter (fun p => !(p.src == src && p.queue == queue)) }

/-- Messages of a pair that are held for a gap. -/
def Fabric.earlyOf (f : Fabric) (src queue : Nat) : List Delivered :=
  f.early.filter (fun m => (msgHdr m.flits).src == src && (msgHdr m.flits).queue == queue)

/-- What becomes of a whole message at its last hop (R293, R303). -/
inductive Arrival where
  | delivered (f : Fabric)
  | held (f : Fabric)
  | stays
  | duplicate
  deriving DecidableEq, Repr

/-- The receive order of a pair: the expected message is delivered, a later one within 256 is held while there is room, and
any other is a violation. KINDs 2, 4, 5 and 6 carry no number. -/
def Fabric.arrive (f : Fabric) (m : Delivered) : Arrival :=
  let h := msgHdr m.flits
  if !(h.kind == 0 || h.kind == 1 || h.kind == 3) then .delivered { f with inbox := f.inbox ++ [m] } else
  let e := if h.start then h.mseq else f.expected h.src h.queue
  let d := (h.mseq + 65536 - e) % 65536
  if d = 0 then .delivered { (f.expect h.src h.queue (h.mseq + 1)) with inbox := f.inbox ++ [m] }
  else if 256 < d || (f.earlyOf h.src h.queue).any (fun x => (msgHdr x.flits).mseq == h.mseq) then .duplicate
  else if (f.earlyOf h.src h.queue).length < 256 && f.early.length < 8192 then .held { f with early := f.early ++ [m] }
  else .stays

/-- Removes the first whole message of a lane that waits at its last hop, and frees its flits. -/
def Port.releaseWhole (p : Port) (lane : Nat) (m : RxMsg) : Port :=
  { p with rx := SMap.set p.rx lane (delFirst (fun x => x == m) (SMap.get p.rx lane [])) }.free lane m.flits.length

/-- A whole message at its last hop is consumed (R296), or stays in its lane until space frees. -/
def State.consume (s : State) (p lane : Nat) (m : RxMsg) (f : BitVec 2048) : State :=
  let d : Delivered := { cls := laneClass lane, flits := m.flits }
  if (msgHdr m.flits).kind = 6 then (s.management p d).updPort p (fun x => x.releaseWhole lane m) else
  match s.fab.arrive d with
  | .delivered fab => { s with fab := fab }.updPort p (fun x => x.releaseWhole lane m)
  | .held fab => { s with fab := fab }.updPort p (fun x => x.releaseWhole lane m)
  | .stays => s
  | .duplicate => (s.violation p 5 f).updPort p (fun x => x.releaseWhole lane m)

/-- The flit is taken (R282, R291): the next FSEQ is expected, and a boundary after a whole message is noted. -/
def Port.take (p : Port) (ends : Bool) : Port :=
  let n := (p.rxFseq + 1) % 4096
  { p with rxFseq := n, nakked := false, whole := if ends then n else p.whole }

/-- The acknowledgement that the port sends (R291): up to the flit before the first flit of an unfinished message. -/
def Port.noteAck (p : Port) : Port :=
  let firsts := (List.range 64).filterMap (fun l => (p.partialOf l).map (fun m => m.first))
  let age (n : Nat) : Nat := (n + 4096 - p.ackBase) % 4096
  let base := (firsts.foldl (fun b n => if age n < age b then n else b) p.rxFseq)
  { p with ackBase := base, ackV := p.ackV || base != p.ackBase }

/-- The partner acknowledges flits up to one (R291): they leave the retry buffer. (DEDUCED: log entry 56). -/
def Port.acked (p : Port) (seq : Nat) : Port :=
  if p.retry.any (fun f => f.1 == seq) then
    let rest := (p.retry.dropWhile (fun f => f.1 != seq)).tail
    { p with retry := rest, resend := p.resend.filter (fun f => rest.any (fun g => g.1 == f.1)) }
  else p

/-- Adds a flit to the item that forwards a message in progress (R296). -/
def State.feedForward (s : State) (p lane : Nat) (m : RxMsg) (pl : BitVec 1920) : State :=
  match s.forwardOf p lane m with
  | none => s
  | some (q, i) => s.updPort q (fun x => { x with txq := updFirst (fun y => y == i) (fun y => { y with flits := y.flits ++ [pl] }) x.txq })

/-- Puts the lane's last message. -/
def Port.putLast (p : Port) (lane : Nat) (m : RxMsg) : Port :=
  { p with rx := SMap.set p.rx lane ((SMap.get p.rx lane []).dropLast ++ [m]) }

/-- A flit that breaks a rule of R284: a NAK names its FSEQ, and it is resent (R303 KIND 1). -/
def State.badFlit (s : State) (p : Nat) (f : BitVec 2048) : State :=
  (s.violation p 1 f).updPort p (fun x => x.sendNak (flitFseq f))

/-- The lane without its last message. -/
def Port.popLast (p : Port) (lane : Nat) : Port := { p with rx := SMap.set p.rx lane ((SMap.get p.rx lane []).dropLast) }

/-- A credit overrun (R303 KIND 3): the flit and the lane's partial message are discarded, and the lane's credit is reset. -/
def State.overrun (s : State) (p : Nat) (f : BitVec 2048) : State :=
  let lane := flitLane f
  let s1 := ((s.violation p 3 f).discardPartial p lane).updPort p (fun x => x.take false)
  let mark : RxMsg := { first := flitFseq f, flits := [], drop := 3 }
  s1.updPort p (fun x => { x with
    control := x.control ++ [Ctl.creditReset lane (2080 - x.buffered lane)]
    rx := if flitType f = 1 ∨ flitType f = 2 then SMap.set x.rx lane (SMap.get x.rx lane [] ++ [mark]) else x.rx })

/-- A first or only flit (R284, R303). -/
def State.firstFlit (s : State) (p : Nat) (f : BitVec 2048) : State :=
  let lane := flitLane f
  let pl := flitPayload f
  let h := MsgHdr.parse pl
  let only := flitType f == 4
  let cur := (s.port p).partialOf lane
  if cur.any (fun m => m.drop != 3) || !(headerOk f) || (only == (h.len != 0)) then s.badFlit p f else
  let bad := s.routeBad pl
  let m : RxMsg := { first := flitFseq f, flits := [pl], whole := only, drop := if bad then 4 else 0 }
  let s1 := s.updPort p (fun x =>
    let y := (if cur.isSome then x.popLast lane else x).take only
    { y with rxCount := bumpCount y.rxCount lane 1, rx := SMap.set y.rx lane (SMap.get y.rx lane [] ++ [m]) })
  if bad then
    ((s1.violation p 4 f).sendNotice h 2).updPort p (fun x => (if only then x.popLast lane else x).free lane 1)
  else if only && h.lastHop then s1.consume p lane m f
  else s1

/-- A middle or last flit (R284, R296, R303). -/
def State.nextFlit (s : State) (p : Nat) (f : BitVec 2048) : State :=
  let lane := flitLane f
  let pl := flitPayload f
  let last := flitType f == 3
  match (s.port p).partialOf lane with
  | none => s.badFlit p f
  | some m =>
    if m.drop = 3 then s.updPort p (fun x => (if last then x.popLast lane else x).take false) else
    let h := msgHdr m.flits
    if last != (m.flits.length == h.len) || h.len < m.flits.length then s.badFlit p f else
    let m1 : RxMsg := { m with flits := m.flits ++ [pl], whole := last }
    let s1 := s.feedForward p lane m pl
    let s2 := s1.updPort p (fun x => { x.take last with rxCount := bumpCount x.rxCount lane 1 })
    if m.drop = 4 then s2.updPort p (fun x => (if last then x.popLast lane else x.putLast lane m1).free lane 1)
    else if last && m.out.isSome then s2.updPort p (fun x => x.popLast lane)
    else
      let s3 := s2.updPort p (fun x => x.putLast lane m1)
      if last && h.lastHop then s3.consume p lane m1 f else s3

/-- An abort flit is taken (R301): the partial message in its lane ends, and the abort is passed on. -/
def State.abortIn (s : State) (p lane : Nat) : State :=
  (s.endPartial p lane).updPort p (fun x => (x.take true).count 0x60 1)

/-- The lane has room for one more flit (R289). -/
def Port.rxRoom (p : Port) (lane : Nat) : Bool := creditsFit (fun l => p.buffered l + (if l = lane then 1 else 0))

/-- A message or abort flit with a valid CRC (R282, R291, R303). -/
def State.numberedFlit (s : State) (p : Nat) (f : BitVec 2048) : State :=
  let x := s.port p
  let lane := flitLane f
  if flitFseq f ≠ x.rxFseq then
    (if x.nakked then s else (s.violation p 2 f).updPort p (fun x => x.sendNak x.rxFseq))
  else
    let s1 := if flitType f = 6 then s.abortIn p lane
      else if (x.partialOf lane).any (fun m => m.drop == 3) && (flitType f == 2 || flitType f == 3) then s.nextFlit p f
      else if !(x.rxRoom lane) then s.overrun p f
      else if flitType f = 1 ∨ flitType f = 4 then s.firstFlit p f
      else s.nextFlit p f
    s1.updPort p Port.noteAck

/-- A received flit (R281 to R283): a wrong CRC discards it unread with a NAK; what it acknowledges leaves the retry buffer;
a reserved value is a violation. -/
def State.flitIn (s : State) (p : Nat) (f : BitVec 2048) : State :=
  let t := flitType f
  if (s.port p).state != .up then s
  else if !(flitCrcOk f) then s.updPort p (fun x => x.sendNak x.rxFseq)
  else
    let numbered := t != 0 && t != 5
    let s1 := s.updPort p (fun x => (if numbered && t < 7 then x.count 8 1 else x))
    if 7 ≤ t || fld f 35 29 != 0 || (t == 5 && 6 < fld f 64 8) then s1.badFlit p f
    else
      let s2 := if f.getLsbD 34 then s1.updPort p (fun x => x.acked (fld f 22 12)) else s1
      if numbered then s2.numberedFlit p f else s2

/-- FLIT_RECEIVE. What a control flit carries beyond its CTYPE has no layout in the spec: its effect is the command of its
CTYPE. -/
def execFlitReceive (port : BitVec 5) (flit : BitVec 2048) (s : State) : Result := .next (s.flitIn port.toNat flit)

/-- ABORT_FLIT: an abort flit that is the next expected of its port arrives in a lane (R301). (DEDUCED: log entry 56). -/
def execAbortFlit (port : BitVec 5) (lane : BitVec 6) (s : State) : Result :=
  .next (if (s.port port.toNat).state != .up then s else
    ((s.updPort port.toNat (fun x => x.count 8 1)).abortIn port.toNat lane.toNat).updPort port.toNat Port.noteAck)

/-- MESSAGE_FORWARD: a message not at its last hop goes to the output port of its next hop, its flits as they arrive (R296); a
port that cannot take it is handled under R300. -/
def State.forward (s : State) (p lane : Nat) : State :=
  let l := SMap.get (s.port p).rx lane []
  let pick (m : RxMsg) : Bool := m.out.isNone && m.drop == 0 && !(msgHdr m.flits).lastHop
  match l.find? pick with
  | none => s
  | some m =>
    let h := msgHdr m.flits
    let q := portOfHop h.ports h.hopptr
    let it : TxItem :=
      { flits := ins (m.flits.headD 0) 51 3 (h.hopptr + 1) :: m.flits.tail, total := h.len + 1
        lane := laneOf (laneClass lane) (lane / 4 % 2 == 1) (h.hopptr % 4), origin := some (p, lane), source := some (h.src, h.func) }
    let l1 := if m.whole then delFirst pick l else updFirst pick (fun m => { m with out := some q }) l
    let s1 := (s.updPort p (fun x => { x with rx := SMap.set x.rx lane l1 })).enqueue q it
    match (s.port q).state with
    | .up => s1
    | .retrain | .training => if laneClass lane = 7 then (s1.tryReroute q it).getD s1 else s1
    | _ => (s1.tryReroute q it).getD (s1.discardItem q it)

/-- MESSAGE_FORWARD. -/
def execMessageForward (port : BitVec 5) (lane : BitVec 6) (s : State) : Result := .next (s.forward port.toNat lane.toNat)

/-- A whole message of a pair that waits in an input lane for room: its port and lane. -/
def State.waitingOf (s : State) (src queue : Nat) : Option (Nat × Nat × RxMsg) :=
  s.fab.ports.findSome? (fun p => p.2.rx.findSome? (fun l => (l.2.find? (fun m =>
    let h := msgHdr m.flits
    m.whole && m.drop == 0 && m.out.isNone && h.lastHop && h.src == src && h.queue == queue)).map (fun m => (p.1, l.1, m))))

/-- MESSAGE_DELIVER: a held message whose gap has been filled is delivered, and a message that waits in its input lane is taken
when there is room (R293). -/
def State.deliverNext (s : State) (src queue : Nat) : State :=
  let e := s.fab.expected src queue
  let hit (m : Delivered) : Bool := let h := msgHdr m.flits; h.src == src && h.queue == queue && h.mseq == e
  let s1 := match s.fab.early.find? hit with
    | some m => s.updFab (fun f => { (f.expect src queue (e + 1)) with early := delFirst hit f.early, inbox := f.inbox ++ [m] })
    | none => s
  match s1.waitingOf src queue with
  | some (p, l, m) => s1.consume p l m 0
  | none => s1

/-- MESSAGE_DELIVER. -/
def execMessageDeliver (src : BitVec 10) (queue : BitVec 14) (s : State) : Result := .next (s.deliverNext src.toNat queue.toNat)

/-- Writes bytes at an address of a window's owner: window pages are present, and a receiver never faults on them (R221,
R222). (DEDUCED: log entry 59). -/
def State.windowWrite (s : State) (fn va : Nat) (bs : List Byte) : Option State :=
  (vaParts va bs.length).foldl (fun o p => o.bind (fun s =>
    let part := (bs.drop (p.1 - va)).take p.2
    let s1 := s.walkTouch fn p.1
    match s.translate fn p.1 .read with
    | .at (.stack a) _ _ => some ((s1.cacheWrite a part.length fn 0).putMem a part)
    | .at (.host l a) _ _ => some (s1.putHost l a part)
    | _ => none)) (some s)

/-- REMOTE_WRITE: a write message is checked against its window, performed and acknowledged (R222, R285, R294). -/
def execRemoteWrite (s : State) : Result :=
  .next (match s.takeMsg (fun h => h.kind == 0) with
    | none => s
    | some (m, s1) =>
      let h := msgHdr m
      let bs := msgPayload m
      let w := s1.window h.window
      match w.check h.srcgrp h.offset bs.length false true false with
      | some reason => s1.refuse h reason
      | none =>
        match s1.windowWrite w.tenant (w.va h.offset) bs with
        | some s2 => s2.sendAck h none
        | none => s)

/-- The parts of a read's answer: offset and bytes, at most 28 lines each (R285). -/
def responseParts : Nat → Nat → List Byte → List (Nat × List Byte)
  | 0, _, _ => []
  | n + 1, o, bs => (o, bs.take 7168) :: (if bs.length ≤ 7168 then [] else responseParts n (o + 7168) (bs.drop 7168))

/-- READ_REQUEST: checked, read, answered with read responses of its tag in its class, and acknowledged (R222, R285, R294).
(DEDUCED: log entry 59). -/
def execReadRequest (s : State) : Result :=
  .next (match s.takeDelivered (fun h => h.kind == 1) with
    | none => s
    | some (m, s1) =>
      let h := msgHdr m.flits
      let w := s1.window h.window
      match w.check h.srcgrp h.offset h.paylen true false false with
      | some reason => s1.refuse h reason
      | none =>
        match s1.readTrusted w.tenant (w.va h.offset) h.paylen with
        | none => s
        | some (bs, s1) =>
          let s2 := (responseParts 2 h.offset bs).foldl (fun s r =>
            (s.sendPlain { func := 0, queue := h.queue, cls := m.cls }
              { dest := h.src, kind := 2, queue := h.queue, mseq := h.mseq, window := h.window, offset := r.1, kspec := h.kspec }
              r.2).orElse s) s1
          s2.sendAck h none)

/-- Bytes that arrive for a line of a command at a die (R192); those that it holds already stay as they were first fetched
(R267), and a command that is no longer in flight gets none. -/
def State.fillScoped (s : State) (die : Nat) (cmd : Option CmdRef) (l : Loc) (bs : List Byte) : State :=
  if cmd.any (fun r => (s.cmd r).isNone) then s else
  let tenant := ((cmd.bind s.cmd).map (fun c => c.tenant)).getD 0
  (pieces l.addr bs.length).foldl (fun s p =>
    let line := (l.add (p.1 - l.addr)).line
    let old := ((s.die die).scopedLine cmd line).getD { cmd := cmd, line := line, data := [], tenant := tenant }
    s.updDie die (fun d => d.keepScoped s.mod.evict
      { old with data := putMissing old.data (p.1 % 256) ((bs.drop (p.1 - l.addr)).take p.2) })) s

/-- READ_RESPONSE: data for the engine that asked (R285). -/
def execReadResponse (s : State) : Result :=
  .next (match s.takeMsg (fun h => h.kind == 2) with
    | none => s
    | some (m, s1) =>
      let h := msgHdr m
      let bs := msgPayload m
      let mine (r : ReadTag) : Bool := r.tag == h.kspec % 65536
      match s1.fab.reads.find? mine with
      | none => s1
      | some r =>
        let left := r.bytes - bs.length
        (s1.fillScoped r.die r.cmd (.remote h.src h.window h.offset) bs).updFab (fun f => { f with
          reads := if left = 0 then delFirst mine f.reads else updFirst mine (fun r => { r with bytes := left }) f.reads }))

/-- A refused access of a context (R222, R294): the access-fault trap, also of one that is stalled or pausing; a context that has
stopped has no handler for it (R152). A revoked window ends the command with REVOKED (R254). (DEDUCED: log entry 29). -/
def State.refusedCtx (s : State) (c : CtxRef) (cmd : Option CmdRef) (va : Nat) (revoked : Bool) : State :=
  let live := (s.ctxOf c).mode != .idle && (s.ctxOf c).job == cmd
  let s1 := (s.commitAll c).updDie c.die.toNat (fun d => d.dropEngine (.ctx c))
  match live, revoked with
  | true, true => s1.revokedStop c 2
  | true, false => s1.takeTrap c 5 (BitVec.ofNat 64 va)
  | false, true => (cmd.map (fun r => s.updCmd r (fun m => m.outcome 5 2))).getD s
  | false, false => s.trapRecord c cmd 5 (BitVec.ofNat 64 va)

/-- A refused access (R222, R254, R294): what its reader gets. -/
def State.refused (s : State) (u : Unacked) (code : Nat) : State :=
  let s1 := s.updFab (fun f => { f with reads := f.reads.filter (fun r => !(some r.engine == u.engine && r.va == u.va)) })
  let revoked := code == refusalRevoked
  let (status, detail) := if revoked then (5, 2) else (6, code)
  match u.engine with
  | some (.ctx c) => s1.refusedCtx c u.cmd u.va revoked
  | some (.feed t) =>
    match s1.xfer t with
    | some x => if x.isComplete then s1 else s1.putXfer t (x.stop status detail)
    | none => s1
  | some (.ligature g d) =>
    match s1.ligOp g d with
    | some o => s1.ligEnd o status detail
    | none => s1
  | none => s1

/-- Control messages that groups still owe go out when their pair has room again (R294, R326, R327). -/
def State.sendAllOwed (s : State) : State :=
  (s.groups.filter (fun p => !p.2.owed.isEmpty)).foldl (fun s p => s.sendOwed p.1) s

/-- ACKNOWLEDGEMENT: the message is complete at its destination, or was refused (R222, R294). -/
def execAcknowledgement (s : State) : Result :=
  .next (match s.takeMsg (fun h => h.kind == 4) with
    | none => s
    | some (m, s1) =>
      let h := msgHdr m
      match s1.takeUnacked (fun u => u.queue == h.queue && u.dest == h.src && u.mseq == h.mseq && u.committed) with
      | none => s1
      | some (u, s2) =>
        (match msgPayload m with
        | [] => s2
        | b :: _ => s2.refused u b.toNat).sendAllOwed)

/-- A notice of a code about a message of this module ends its command with PEER_LOST (R294, R303). -/
def State.noticed (s : State) (code : Nat) : State :=
  match s.takeMsg (fun h => h.kind == 5 && h.kspec % 256 == code) with
  | none => s
  | some (m, s1) =>
    let h := msgHdr m
    match s1.takeUnacked (fun u => u.queue == h.queue && u.mseq == h.mseq && u.committed) with
    | none => s1
    | some (u, s2) => s2.lostMsg u 1

/-- NOTICE_UNREACHABLE: code 1. -/
def execNoticeUnreachable (s : State) : Result := .next (s.noticed 1)

/-- NOTICE_ROUTE_ERROR: code 2. -/
def execNoticeRouteError (s : State) : Result := .next (s.noticed 2)

/-- A message that was never begun leaves the queue of its port. -/
def State.unqueue (s : State) (u : Unacked) : State :=
  if u.committed then s else
  s.updFab (fun f => { f with ports := SMap.mapVals f.ports (fun _ p => { p with txq := p.txq.filter (fun i =>
    let h := msgHdr i.flits
    i.committed || i.origin.isSome || !(h.queue == u.queue && h.dest == u.dest && h.mseq == u.mseq
      && (h.kind == 0 || h.kind == 1 || h.kind == 3))) }) })

/-- DELIVERY_TIMEOUT: a message with no acknowledgement for E2ETMO ms ends its command with PEER_LOST, reason 4 (R294, R327). -/
def execDeliveryTimeout (queue : BitVec 14) (dest : BitVec 10) (mseq : BitVec 16) (s : State) : Result :=
  .next (match s.takeUnacked (fun u => u.queue == queue.toNat && u.dest == dest.toNat && u.mseq == mseq.toNat) with
    | none => s
    | some (u, s1) => (s1.unqueue u).lostMsg u 4)

end Sys2Proof.Machine
end

