-- ==== Sys2Proof/Machine/Sha.lean ====
section
/-! DEFINITION. SHA-384 (FIPS 180), by which the MMC checks and measures firmware (R358, R359). (PRESUMED: log entry 65). -/

namespace Sys2Proof.Machine

/-- The round constants of SHA-512. -/
def shaK1 : List Nat :=
  [0x428A2F98D728AE22, 0x7137449123EF65CD, 0xB5C0FBCFEC4D3B2F, 0xE9B5DBA58189DBBC,
   0x3956C25BF348B538, 0x59F111F1B605D019, 0x923F82A4AF194F9B, 0xAB1C5ED5DA6D8118,
   0xD807AA98A3030242, 0x12835B0145706FBE, 0x243185BE4EE4B28C, 0x550C7DC3D5FFB4E2,
   0x72BE5D74F27B896F, 0x80DEB1FE3B1696B1, 0x9BDC06A725C71235, 0xC19BF174CF692694,
   0xE49B69C19EF14AD2, 0xEFBE4786384F25E3, 0x0FC19DC68B8CD5B5, 0x240CA1CC77AC9C65,
   0x2DE92C6F592B0275, 0x4A7484AA6EA6E483, 0x5CB0A9DCBD41FBD4, 0x76F988DA831153B5,
   0x983E5152EE66DFAB, 0xA831C66D2DB43210, 0xB00327C898FB213F, 0xBF597FC7BEEF0EE4,
   0xC6E00BF33DA88FC2, 0xD5A79147930AA725, 0x06CA6351E003826F, 0x142929670A0E6E70,
   0x27B70A8546D22FFC, 0x2E1B21385C26C926, 0x4D2C6DFC5AC42AED, 0x53380D139D95B3DF,
   0x650A73548BAF63DE, 0x766A0ABB3C77B2A8, 0x81C2C92E47EDAEE6, 0x92722C851482353B]

/-- The round constants of SHA-512, continued. -/
def shaK2 : List Nat :=
  [0xA2BFE8A14CF10364, 0xA81A664BBC423001, 0xC24B8B70D0F89791, 0xC76C51A30654BE30,
   0xD192E819D6EF5218, 0xD69906245565A910, 0xF40E35855771202A, 0x106AA07032BBD1B8,
   0x19A4C116B8D2D0C8, 0x1E376C085141AB53, 0x2748774CDF8EEB99, 0x34B0BCB5E19B48A8,
   0x391C0CB3C5C95A63, 0x4ED8AA4AE3418ACB, 0x5B9CCA4F7763E373, 0x682E6FF3D6B2B8A3,
   0x748F82EE5DEFB2FC, 0x78A5636F43172F60, 0x84C87814A1F0AB72, 0x8CC702081A6439EC,
   0x90BEFFFA23631E28, 0xA4506CEBDE82BDE9, 0xBEF9A3F7B2C67915, 0xC67178F2E372532B,
   0xCA273ECEEA26619C, 0xD186B8C721C0C207, 0xEADA7DD6CDE0EB1E, 0xF57D4F7FEE6ED178,
   0x06F067AA72176FBA, 0x0A637DC5A2C898A6, 0x113F9804BEF90DAE, 0x1B710B35131C471B,
   0x28DB77F523047D84, 0x32CAAB7B40C72493, 0x3C9EBE0A15C9BEBC, 0x431D67C49C100D4C,
   0x4CC5D4BECB3E42B6, 0x597F299CFC657E2A, 0x5FCB6FAB3AD6FAEC, 0x6C44198C4A475817]

/-- The initial hash value of SHA-384. -/
def shaInit : List Word :=
  [0xCBBB9D5DC1059ED8, 0x629A292A367CD507, 0x9159015A3070DD17, 0x152FECD8F70E5939,
   0x67332667FFC00B31, 0x8EB44A8768581511, 0xDB0C2E0D64F98FA7, 0x47B5481DBEFA4FA4]

/-- The small sigma functions of the message schedule. -/
def shaSigma (r1 r2 sh : Nat) (x : Word) : Word := x.rotateRight r1 ^^^ x.rotateRight r2 ^^^ (x >>> sh)

/-- The message schedule from its first 16 words: each step appends one word. -/
def shaSchedule : Nat → List Word → List Word
  | 0, w => w
  | n + 1, w =>
    let t := w.length
    let g (i : Nat) : Word := w.getD (t - i) 0
    shaSchedule n (w ++ [shaSigma 19 61 6 (g 2) + g 7 + shaSigma 1 8 7 (g 15) + g 16])

/-- The working variables of the compression. -/
structure ShaVars where
  a : Word
  b : Word
  c : Word
  d : Word
  e : Word
  f : Word
  g : Word
  h : Word
  deriving DecidableEq, Repr

/-- One round with its word and constant. -/
def shaRound (v : ShaVars) (wk : Word) : ShaVars :=
  let s1 := v.e.rotateRight 14 ^^^ v.e.rotateRight 18 ^^^ v.e.rotateRight 41
  let ch := (v.e &&& v.f) ^^^ (~~~v.e &&& v.g)
  let t1 := v.h + s1 + ch + wk
  let s0 := v.a.rotateRight 28 ^^^ v.a.rotateRight 34 ^^^ v.a.rotateRight 39
  let maj := (v.a &&& v.b) ^^^ (v.a &&& v.c) ^^^ (v.b &&& v.c)
  { a := t1 + (s0 + maj), b := v.a, c := v.b, d := v.c, e := v.d + t1, f := v.e, g := v.f, h := v.g }

/-- The 16 words of a 128-byte block. -/
def shaWords (block : List Byte) : List Word :=
  (List.range 16).map (fun i =>
    ((block.drop (8 * i)).take 8).foldl (fun (w : Word) b => (w <<< 8) ||| b.setWidth 64) 0)

/-- The compression of one block into the hash value. -/
def shaCompress (h : List Word) (block : List Byte) : List Word :=
  let i (k : Nat) : Word := h.getD k 0
  let v0 : ShaVars := { a := i 0, b := i 1, c := i 2, d := i 3, e := i 4, f := i 5, g := i 6, h := i 7 }
  let wk := ((shaSchedule 64 (shaWords block)).zip (shaK1 ++ shaK2)).map (fun p => p.1 + BitVec.ofNat 64 p.2)
  let v := wk.foldl shaRound v0
  [v.a + i 0, v.b + i 1, v.c + i 2, v.d + i 3, v.e + i 4, v.f + i 5, v.g + i 6, v.h + i 7]

/-- The hash value after some whole blocks. -/
def shaBlocks : Nat → List Word → List Byte → List Word
  | 0, h, _ => h
  | n + 1, h, bs => shaBlocks n (shaCompress h (bs.take 128)) (bs.drop 128)

/-- A message padded to whole blocks: the byte 80H, zeros, and its length in bits, 16 bytes, highest first. -/
def shaPad (bs : List Byte) : List Byte :=
  bs ++ [0x80] ++ List.replicate ((239 - bs.length % 128) % 128) 0
    ++ (List.range 16).map (fun i => BitVec.ofNat 8 (8 * bs.length / 2 ^ (8 * (15 - i))))

/-- SHA-384 of a message, the first byte of the digest in its highest bits. -/
def sha384 (bs : List Byte) : BitVec 384 :=
  let p := shaPad bs
  ((shaBlocks (p.length / 128) shaInit p).take 6).foldl (fun (n : BitVec 384) x => (n <<< 64) ||| x.setWidth 384) 0

/-- The 48 bytes of a digest, its highest bits first. (DESIGN CHOICE: log entry 66). -/
def digestBytes (d : BitVec 384) : List Byte := (List.range 48).map (fun i => d.extractLsb' (8 * (47 - i)) 8)

end Sys2Proof.Machine
end

