-- ==== Sys2Proof/Machine/Ecdsa.lean ====
section
/-! DEFINITION. ECDSA over P-384 (FIPS 186), by which the boot ROM verifies a firmware slot (R358). Points are in Jacobian
coordinates; Z = 0 is the point at infinity. (PRESUMED: log entry 65). -/

namespace Sys2Proof.Machine

/-- The field prime of P-384. -/
def p384 : Nat := 2 ^ 384 - 2 ^ 128 - 2 ^ 96 + 2 ^ 32 - 1

/-- The order of the base point. -/
def p384Order : Nat :=
  0xFFFFFFFFFFFFFFFFFFFFFFFFFFFFFFFFFFFFFFFFFFFFFFFFC7634D81F4372DDF581A0DB248B0A77AECEC196ACCC52973

/-- The constant term of the curve. -/
def p384B : Nat :=
  0xB3312FA7E23EE7E4988E056BE3F82D19181D9C6EFE8141120314088F5013875AC656398D8A2ED19D2A85C8EDD3EC2AEF

/-- A point in Jacobian coordinates. -/
structure JPoint where
  x : Nat
  y : Nat
  z : Nat
  deriving DecidableEq, Repr

/-- The base point. -/
def p384Base : JPoint :=
  { x := 0xAA87CA22BE8B05378EB1C71EF320AD746E1D3B628BA79B9859F741E082542A385502F25DBF55296C3A545E3872760AB7
    y := 0x3617DE4A96262C6F5D9E98BF9292DC29F8F41DBD289A147CE9DA3113B5F0B8C00A60B1CE1D7E819D7A431D7C90EA0E5F
    z := 1 }

/-- The difference of two field elements. -/
def fsub (a b : Nat) : Nat := (a + p384 - b % p384) % p384

/-- The product of two field elements. -/
def fmul (a b : Nat) : Nat := a * b % p384

/-- Twice a point. -/
def JPoint.twice (p : JPoint) : JPoint :=
  let d := fmul p.z p.z
  let g := fmul p.y p.y
  let b := fmul p.x g
  let a := fmul 3 (fmul (fsub p.x d) (p.x + d))
  let x := fsub (fmul a a) (8 * b)
  { x := x, y := fsub (fmul a (fsub (4 * b) x)) (8 * fmul g g), z := fmul 2 (fmul p.y p.z) }

/-- The sum of two points. -/
def JPoint.add (p q : JPoint) : JPoint :=
  if p.z = 0 then q else if q.z = 0 then p else
  let zp := fmul p.z p.z
  let zq := fmul q.z q.z
  let u := fmul p.x zq
  let s := fmul p.y (fmul q.z zq)
  let h := fsub (fmul q.x zp) u
  let r := fsub (fmul q.y (fmul p.z zp)) s
  if h = 0 then (if r = 0 then p.twice else { x := 1, y := 1, z := 0 }) else
  let hh := fmul h h
  let c := fmul h hh
  let v := fmul u hh
  let x := fsub (fsub (fmul r r) c) (2 * v)
  { x := x, y := fsub (fmul r (fsub v x)) (fmul s c), z := fmul h (fmul p.z q.z) }

/-- A multiple of a point, from its n low bits. -/
def JPoint.times (p : JPoint) : Nat → Nat → JPoint
  | 0, _ => { x := 1, y := 1, z := 0 }
  | n + 1, k =>
    let h := (p.times n (k / 2)).twice
    if k % 2 = 1 then h.add p else h

/-- A power modulo m, from the n low bits of the exponent. -/
def powMod (b m : Nat) : Nat → Nat → Nat
  | 0, _ => 1 % m
  | n + 1, e =>
    let h := powMod b m n (e / 2)
    let q := h * h % m
    if e % 2 = 1 then q * b % m else q

/-- The public key is a point of the curve. -/
def onCurve (x y : Nat) : Bool :=
  decide (x < p384 ∧ y < p384) && y * y % p384 == (x * x * x + (p384 - 3) * x + p384B) % p384

/-- The signature (r, s) of a message with a digest verifies under a public key (R358). -/
def ecdsaOk (x y digest r s : Nat) : Bool :=
  if !(onCurve x y) || r = 0 || p384Order ≤ r || s = 0 || p384Order ≤ s then false else
  let w := powMod s p384Order 384 (p384Order - 2)
  let u := digest * w % p384Order
  let v := r * w % p384Order
  let t := (p384Base.times 384 u).add (({ x := x, y := y, z := 1 } : JPoint).times 384 v)
  let zz := fmul t.z t.z
  t.z != 0 && (t.x == fmul r zz || (decide (r + p384Order < p384) && t.x == fmul (r + p384Order) zz))

end Sys2Proof.Machine
end

