-- ==== Sys2Proof/Machine/Mmc.lean ====
section
/-! DEFINITION. The management controller (R19, R367 to R370, R392): identity records, sensor and measurement requests over the
host mailbox and I3C, the power limit, and its stop. -/

namespace Sys2Proof.Machine

/-- The code of a start-up stage (R355). -/
def Stage.code : Stage → Nat
  | .power => 0 | .firmware => 1 | .die => 2 | .links => 3 | .discovery => 4 | .ready => 5 | .halted => 6 | .failed => 7

/-- MOD_BOOT (R355). -/
def Module.boot (m : Module) : Nat :=
  m.stage.code * 2 ^ 28 + m.bootErr * 2 ^ 24 + b2n m.slot * 2 ^ 23 + min (m.bootNs / 10000000) 0xFFFF

/-- An identity record (R367): record 0 is the manufacturer's; 4 to 7 read 0. -/
def Module.record (m : Module) (n : Nat) : BitVec 2048 :=
  if n = 0 then Config.record0 else if 4 ≤ n ∧ n < 8 then 0 else SMap.get m.records n 0

/-- The MMC serves I3C and the mailbox. -/
def Module.serves (m : Module) : Bool := m.mmcRun && m.mmcStandby

/-- 256 bytes of a record or of the sensor block. -/
def bytes256 (v : BitVec 2048) : List Byte := leBytes 256 v.toNat

/-- A request of 256 data bytes over the mailbox of a function puts them into MOD_IDDATA. -/
def Module.fillMailbox (m : Module) (bytes : List Byte) : Module :=
  { m with mbData := Memory.writeBytes m.mbData 0 (bytes.take 256) }

/-- A request enters the MMC's queue (R368 to R370): over the mailbox, of the managing function while BUSY is 0; over I3C, while
the MMC runs. (DEDUCED: log entry 67). -/
def State.mmcRequest (s : State) (p : MmcPath) (op record : Nat) (bytes : List Byte) : State :=
  match p with
  | .i3c =>
    if s.mod.serves then s.updMod (fun m => { m with
      mmcQueue := m.mmcQueue ++ [{ path := p, op := op, record := record, bytes := bytes }], i3cStatus := 0xFF, i3cData := [] })
    else s
  | .mailbox fn =>
    if !(s.isMgmt fn.toNat) || s.mod.mbBusy then s else
    s.updMod (fun m =>
      let m1 := if op = 1 then m.fillMailbox bytes else m
      { m1 with mbBusy := true, mbOp := op, mbRecord := record
                mmcQueue := m1.mmcQueue ++ [{ path := p, op := op, record := record, bytes := Memory.readBytes m1.mbData 0 256 }] })

/-- ID_READ_RECORD: OP 0. -/
def execIdReadRecord (p : MmcPath) (record : BitVec 4) (s : State) : Result := .next (s.mmcRequest p 0 record.toNat [])

/-- ID_WRITE_RECORD: OP 1. -/
def execIdWriteRecord (p : MmcPath) (record : BitVec 4) (bytes : List Byte) (s : State) : Result :=
  .next (s.mmcRequest p 1 record.toNat bytes)

/-- ID_READ_SENSORS: OP 2. -/
def execIdReadSensors (p : MmcPath) (s : State) : Result := .next (s.mmcRequest p 2 0 [])

/-- ID_READ_MEASUREMENT: OP 3. -/
def execIdReadMeasurement (p : MmcPath) (s : State) : Result := .next (s.mmcRequest p 3 0 [])

/-- A power limit in W and a ceiling in MHz as they are stored (R392). -/
def Module.setPower (m : Module) (watts mhz : Nat) : Module :=
  { m with plimitNew := max 1500 (min 4500 watts), ceilingNew := max 800 (min 2200 mhz) / 25 * 25 }

/-- What a served request answers: RESULT, data, and the module after it. (DEDUCED: log entry 67). -/
def Module.serve (m : Module) (r : MmcReq) : Nat × List Byte × Module :=
  match r.op with
  | 0 => (0, bytes256 (m.record r.record), m)
  | 1 =>
    if 8 ≤ r.record && r.bytes.length == 256 then
      (0, [], { m with records := SMap.set m.records r.record (BitVec.ofNat 2048 (leNat r.bytes)) })
    else (11, [], m)
  | 2 => (0, bytes256 m.sensors, m)
  | 3 => (0, bytes256 (m.record 3), m)
  | 5 =>
    if r.path == .i3c && r.record == 0 && r.bytes.length == 4 then
      (0, [], m.setPower (leNat (r.bytes.take 2)) (leNat (r.bytes.drop 2)))
    else (11, [], m)
  | _ => (11, [], m)

/-- The answer of a request goes to its path. (DEDUCED: log entry 67). -/
def Module.answer (m : Module) (r : MmcReq) (result : Nat) (data : List Byte) : Module :=
  match r.path with
  | .mailbox _ =>
    { m with mbBusy := false, mbResult := result, mbData := if data.isEmpty then m.mbData else Memory.writeBytes m.mbData 0 data }
  | .i3c =>
    if m.mmcQueue.any (fun q => q.path == .i3c) then m else { m with i3cStatus := result, i3cData := data }

/-- The request that completes next (R368): reads run while a write is in progress, so the oldest request that is no write,
else the oldest write. -/
def Module.nextRequest (m : Module) : Option MmcReq :=
  match m.mmcQueue.find? (fun r => r.op != 1) with
  | some r => some r
  | none => m.mmcQueue.head?

/-- ID_REQUEST_DONE. -/
def execIdRequestDone (s : State) : Result :=
  .next (if !s.mod.serves then s else
    match s.mod.nextRequest with
    | none => s
    | some r =>
      let m1 := { s.mod with mmcQueue := delFirst (fun x => x == r) s.mod.mmcQueue }
      let (result, data, m2) := m1.serve r
      { s with mod := m2.answer r result data })

/-- ID_MAILBOX_TIMEOUT: no answer within 100 ms (R19, R369). (DEDUCED: log entry 67). -/
def execIdMailboxTimeout (s : State) : Result :=
  .next (if s.mod.mbBusy then
    s.updMod (fun m => { m with mbBusy := false, mbResult := 9, mmcQueue := m.mmcQueue.filter (fun r => r.path == .i3c) })
    else s)

/-- I3C_SETDASA: the MMC takes a dynamic address (R370). -/
def execI3cSetdasa (addr : BitVec 7) (s : State) : Result :=
  .next (if s.mod.serves then s.updMod (fun m => { m with i3cAddr := addr.toNat }) else s)

/-- I3C_PRIVATE_READ: the status byte and the data of the latest request (R370). -/
def execI3cPrivateRead (s : State) : Result :=
  .next (if s.mod.serves then
    s.updMod (fun m => { m with i3cOut := BitVec.ofNat 8 m.i3cStatus :: (if m.i3cStatus = 0 then m.i3cData else []) })
    else s)

/-- I3C_READ_BOOT_HEALTH: OP 4 answers MOD_BOOT and MOD_HEALTH at any stage (R370). -/
def execI3cReadBootHealth (s : State) : Result :=
  .next (if s.mod.serves then
    s.updMod (fun m => { m with i3cStatus := 0, i3cData := leBytes 4 m.boot ++ leBytes 4 m.health })
    else s)

/-- I3C_SET_POWER_LIMIT: OP 5 (R392). -/
def execI3cSetPowerLimit (record : BitVec 8) (bytes : List Byte) (s : State) : Result :=
  .next (s.mmcRequest .i3c 5 record.toNat bytes)

/-- MMC_STOP: the MMC stops after the module is ready (R19). (DEDUCED: log entry 67). -/
def execMmcStop (s : State) : Result :=
  .next (if s.mod.stage = .ready then s.updMod (fun m => { m with mmcRun := false }) else s)

/-- VIN_ENTERS_RANGE: the standby converter starts, and the MMC runs and serves I3C at its static address (R370, R389). -/
def execVinEntersRange (s : State) : Result :=
  .next (s.updMod (fun m =>
    if m.mmcStandby then { m with vinOk := true }
    else { m with
      vinOk := true, mmcStandby := true, mmcRun := true, i3cAddr := 0x3A, mmcQueue := [], i3cStatus := 0, i3cData := [], i3cOut := [] }))

/-- The MMC has no power (R350, R389): its requests are lost, ALERT# is not driven; the identity memory keeps what it held. -/
def Module.mmcOff (m : Module) : Module :=
  { m with alert := false, mmcStandby := false, mmcRun := false, mmcQueue := [], i3cStatus := 0, i3cData := [], i3cOut := [], i3cAddr := 0x3A }

end Sys2Proof.Machine
end

