-- ==== Sys2Proof/Machine/Startup.lean ====
section
/-! DEFINITION. Power, start-up and module reset (R350 to R362, R389): PG_IN, the input voltage, the release of the dies, firmware,
die bring-up, the links and discovery stages. -/

namespace Sys2Proof.Machine

/-- The module right after a power-on reset (R352): everything is reset, the MMC included; the identity memory and the pins
stay. COMPAT_STRAP is sampled (R371). (DEDUCED: log entry 68). -/
def State.powerOnReset (s : State) : State :=
  let m := s.mod
  let h := m.recHealth
  let m1 : Module := { compatStrap := m.compatStrap, records := m.records, evict := m.compatStrap, reply := m.compatStrap
                       failed := Nat.testBit h 31, fcause := h / 2 ^ 24 % 16, trips := m.trips, slotA := m.slotA, slotB := m.slotB
                       fuseKey := m.fuseKey, fuseVersion := m.fuseVersion }
  { pending := s.pending, host := s.host, hostMsgs := s.hostMsgs, free := s.free, links := s.linksAfterReset, mod := m1
    dies := m1.diesAfterReset (fun _ => []) }

/-- POWER_ON_RESET: PG_IN rises with the input in range; a latched trip has been cleared by its fall (R351, R352). -/
def execPowerOnReset (s : State) : Result := .next (if s.mod.vinOk && !s.mod.pgIn then s.powerOnReset else s)

/-- PG_IN_FALL: the power stages turn off, and the trip latch clears (R351). -/
def execPgInFall (s : State) : Result :=
  .next (s.powerOff.updMod (fun m => { m with pgIn := false, tripLatch := false }))

/-- VIN_LOSS: VIN below 38 V turns off every power stage, and the standby converter has left its range (R389). -/
def execVinLoss (s : State) : Result := .next (s.powerOff.updMod (fun m => { m.mmcOff with vinOk := false }))

/-- Every port die and compute die has been released (R357). -/
def State.allReleased (s : State) : Bool :=
  (List.range 4).all (fun p => SMap.get s.mod.portDies p false) && (List.range 32).all (fun d => (s.die d).released)

/-- DIE_RELEASE: one die is released in stage POWER; with the last one the stage ends (R356, R357). -/
def execDieRelease (portDie : Bool) (i : BitVec 5) (s : State) : Result :=
  if s.mod.stage != .power || !s.mod.powerOn then .next s else
  let s1 := if portDie then (if i.toNat < 4 then s.updMod (fun m => { m with portDies := SMap.set m.portDies i.toNat true }) else s)
    else s.updDie i.toNat (fun d => { d with released := true })
  .next (if s1.allReleased then s1.updMod (fun m => { m with stage := .firmware }) else s1)

/-- RAIL_FAULT: a rail that leaves its range in stage POWER halts the module (R357). -/
def execRailFault (s : State) : Result :=
  .next (if s.mod.stage = .power ∧ s.mod.powerOn then s.powerOff.updMod (fun m => { m with stage := .halted, bootErr := 2 }) else s)

/-- The bytes of the public key in a slot's header. (DESIGN CHOICE: log entry 65). -/
def ImageSlot.keyBytes (c : ImageSlot) : List Byte := digestBytes c.keyX ++ digestBytes c.keyY

/-- The signed bytes of a slot's header. (DESIGN CHOICE: log entry 65). -/
def ImageSlot.header (c : ImageSlot) : List Byte := c.keyBytes ++ digestBytes c.digest ++ leBytes 8 c.version

/-- The boot ROM accepts a slot (R358): the key is the fused one, it has signed the header, the body has the header's digest, and
the version is no less than the fused minimum. -/
def Module.slotAccepted (m : Module) (c : ImageSlot) : Bool :=
  sha384 c.keyBytes == m.fuseKey
    && ecdsaOk c.keyX.toNat c.keyY.toNat (sha384 c.header).toNat c.sigR.toNat c.sigS.toNat
    && sha384 (c.mmc ++ c.computeDie ++ c.portDie) == c.digest && decide (m.fuseVersion ≤ c.version)

/-- The digests of a slot's MMC, compute-die and port-die firmware (R359). -/
def ImageSlot.digests (c : ImageSlot) : List (BitVec 384) := [sha384 c.mmc, sha384 c.computeDie, sha384 c.portDie]

/-- The measurement of the three firmware parts (R359): M = SHA-384(M ‖ digest), from zero. (DESIGN CHOICE: log entry 66). -/
def measure (c : ImageSlot) : BitVec 384 := c.digests.foldl (fun m d => sha384 (digestBytes m ++ digestBytes d)) 0

/-- Identity record 3 (R359, R367): M, the three digests, the slot. (DESIGN CHOICE: log entry 66). -/
def record3 (m : BitVec 384) (c : ImageSlot) (slot : Bool) : BitVec 2048 :=
  BitVec.ofNat 2048 (leNat (digestBytes m ++ c.digests.flatMap digestBytes ++ leBytes 1 (b2n slot)))

/-- The first slot that is accepted is loaded: A is tried, then B (R358). `a` and `b` are what the boot ROM reads of the slots, where
the flash no longer gives what manufacture wrote. (DESIGN CHOICE: log entry 65). -/
def Module.bootSlot (m : Module) (a b : Option ImageSlot) : Option (Bool × ImageSlot) :=
  let ca := a.getD m.slotA
  let cb := b.getD m.slotB
  if m.slotAccepted ca then some (false, ca) else if m.slotAccepted cb then some (true, cb) else none

/-- FIRMWARE_VERIFY: the loaded slot is measured; with none the module halts (R358, R359). -/
def execFirmwareVerify (a b : Option ImageSlot) (s : State) : Result :=
  if s.mod.stage != .firmware then .next s else
  .next (match s.mod.bootSlot a b with
    | some (slot, c) =>
      s.updMod (fun m => { m with stage := .die, slot := slot, measurement := measure c
                                  records := SMap.set m.records 3 (record3 (measure c) c slot) })
    | none => s.powerOff.updMod (fun m => { m with stage := .halted, bootErr := 1 }))

/-- The MMC records a map-out in identity record 1 (R346, R360, R367). -/
def Module.recordMapOut (m : Module) (die core : Nat) : Module :=
  { m with records := SMap.set m.records 1 (ins (SMap.get m.records 1 0) (32 * die) 32 (2 ^ 31 + core)) }

/-- A failing core at the self-test is replaced by the die's unused spare, or fails the module (R360).
(DESIGN CHOICE: log entry 65). -/
def State.badCore (s : State) (die core : Nat) : State :=
  if 32 ≤ die ∨ 20 ≤ core then s
  else if (s.die die).spareUsed then s.failModule 1 die 0 0
  else (s.updDie die (fun d => { d with spareUsed := true, spareCore := core })).updMod (fun m => m.recordMapOut die core)

/-- A failing frame of the stack test is served by the repair frame of its own position, else by the first unused one; the
seventeenth fails the module (R179, R360). (DESIGN CHOICE: log entry 65). -/
def State.badFrame (s : State) (die frame : Nat) : State :=
  if 32 ≤ die ∨ 384 ≤ frame then s else
  let d := s.die die
  let used (p : Nat) : Bool := d.frep.any (fun e => e.2 % 32 == p)
  if d.frep.any (fun e => e.2 / 32 % 512 == frame) then s else
  let own := homePos frame
  let pick := if own < 16 && !(used own) then some own else (List.range 16).find? (fun p => !(used p))
  match pick with
  | none => s.failModule 1 die 0 0
  | some p => s.updDie die (fun d => { d with frep := SMap.set d.frep d.frep.length (2 ^ 31 + frame * 32 + p) })

/-- DIE_BRINGUP_DONE: self-test, stack test unless the training is kept, and zeroing of every die, with refresh at 4× (R200,
R353, R354, R360). A module that fails, or whose failure is recorded, goes to FAILED with its ports dark. (DEDUCED: log entry
45; DESIGN CHOICE: log entry 65). -/
def execDieBringupDone (badCores badFrames : List (Nat × Nat)) (s : State) : Result :=
  if s.mod.stage != .die then .next s else
  let s1 := badCores.foldl (fun s p => s.badCore p.1 p.2) s
  let s2 := if s.mod.retest then badFrames.foldl (fun s p => s.badFrame p.1 p.2) s1 else s1
  let s3 := { s2 with mem := [], poison := [] }
  let s4 := (List.range 32).foldl (fun s d => s.updDie d (fun x => { x with stkRefr := 2, stkStep := 0, released := true })) s3
  .next (if s4.mod.failed then s4.portsDark.updMod (fun m => { m with stage := .failed })
    else s4.updMod (fun m => { m with stage := .links }))

/-- LINKS_STAGE_END: DISCOVERY begins with a discovery message on each UP port (R361, R362). -/
def execLinksStageEnd (s : State) : Result :=
  .next (if s.mod.stage != .links then s
    else (s.updMod (fun m => { m with stage := .discovery })).flood Config.serial.toNat [] none)

/-- DISCOVERY_END: the module is READY, and the stack controllers leave firmware-driven mode (R198, R200, R356, R362). -/
def execDiscoveryEnd (s : State) : Result :=
  .next (if s.mod.stage != .discovery then s else
    let s1 := (List.range 32).foldl (fun s d => s.updDie d (fun x => { x with stkRefr := 2 })) s
    s1.updMod (fun m => { m with stage := .ready }))

/-- A module reset (R352 to R354): every die and port die is reset, and start-up begins again at stage DIE.
(DEDUCED: log entry 68). -/
def State.moduleReset (s : State) : State :=
  let s1 := s.afterReset .die
  (List.range 32).foldl (fun s d => s.updDie d (fun x => { x with released := true })) s1

/-- The dies run: power is on, and stage DIE has been reached. -/
def State.diesRun (s : State) : Bool :=
  s.mod.powerOn && !(s.mod.stage == .power || s.mod.stage == .firmware || s.mod.stage == .halted)

/-- MODULE_RESET: MRST#, or GO in MOD_RSTCTL by the managing function (R352, R354), once the dies run. -/
def execModuleReset (cause : ResetCause) (s : State) : Result :=
  let asked := match cause with
    | .pin => true
    | .goBit fn => s.isMgmt fn.toNat
  .next (if asked && s.diesRun then s.moduleReset else s)

end Sys2Proof.Machine
end

