-- ==== Sys2Proof/Machine/Hosts.lean ====
section
/-! DEFINITION. Hosts and tenants (R255 to R273, R371): host links and functions, device reads of host memory, the device memory
window, MSI-X, core ownership, frames and MOD_COMPAT. -/

namespace Sys2Proof.Machine

/-- The SR-IOV capability of a link's physical function (R257): TotalVFs, First VF Offset and VF Stride. -/
def State.sriov (s : State) (h : Nat) : Nat × Nat × Nat := ((s.link h).vfCount, (s.link h).vfFirst - h, 1)

/-- The virtual functions of a link that exist. -/
def State.vfsOf (s : State) (h : Nat) : List Nat :=
  let (total, offset, stride) := s.sriov h
  (List.range (min (s.link h).numVfs total)).map (fun i => h + offset + i * stride)

/-- The first step of a function's reset (R264): its queues stop fetching, unstarted commands end, and started ones are stopped as
a CANCEL without grace stops them. (DEDUCED: log entry 28). -/
def State.resetBegin (s : State) (n : Nat) : State :=
  let qs := s.queuesOf n
  let s1 := qs.foldl (fun s q => s.updQueue q (fun x => { x with en := false })) (s.updFunc n (fun f => { f with resetting := true }))
  (s1.cmds.filter (fun c => qs.contains c.ref.queue.toNat && !c.isComplete)).foldl (fun s c => (s.cancelTarget c false).getD s) s1

/-- A command of a function that is being reset leaves with no reply once it has completed and its writes have (R264). -/
def State.resetDrop (s : State) (c : Cmd) : State :=
  if !c.isComplete || !(s.storesOut c) then s else
  match s.drainCmd c with
  | none => s
  | some s1 => if s1.writesDone c then { s1.dropScoped c.ref with cmds := delFirst (fun x => x.ref == c.ref) s1.cmds } else s1

/-- The other steps of a function's reset (R264): its fault records are withdrawn, its windows close, its cores are cleared, its
frames are zeroed, its page table is dropped as R207 drops one, and the registers of its queues, its MSI-X table and its
configuration space return to their reset values. (DEDUCED: log entry 28). -/
def State.resetEnd (s : State) (n : Nat) : State :=
  let s1 := { s with dies := SMap.mapVals s.dies (fun _ d => { d with faults := d.faults.filter (fun f => f.fn != n) }) }
  let s2 := { s1 with windows := SMap.mapVals s1.windows (fun _ w => if w.tenant = n then { w with valid := false } else w) }
  let mine := (s2.cores.filter (fun p => p.2.owned && p.2.owner == n)).map (fun p => p.1)
  let s3 := mine.foldl (fun s k => s.clearCore k) s2
  let held := (s3.frames.filter (fun p => p.2 == .held n)).map (fun p => p.1)
  let s4 := held.foldl (fun s f => s.releaseFrame f) s3
  let s5 := if (s4.func n).tbValid then s4.dropTable n none else s4
  let s6 := (s5.updFunc n (fun f =>
    { f with msixEn := false, msix := [], msixPend := [], cto := 0, resetting := false })).dropTlb n
  { s6 with queues := (s.queuesOf n).foldl (fun m q => SMap.del m q) s6.queues }

/-- A function's reset goes on as far as its commands let it (R264). -/
def State.resetOn (s : State) (n : Nat) : State :=
  let qs := s.queuesOf n
  let mine (c : Cmd) : Bool := qs.contains c.ref.queue.toNat
  let s1 := (s.cmds.filter mine).foldl (fun s c => s.resetDrop c) s
  if s1.cmds.any mine then s1 else s1.resetEnd n

/-- The resets that wait for their functions' commands (R264). -/
def State.resetsOn (s : State) : State :=
  ((s.funcs.filter (fun p => p.2.resetting)).map (fun p => p.1)).foldl (fun s n => s.resetOn n) s

/-- A Function Level Reset, of a physical function with its virtual functions (R264). (DEDUCED: log entry 28). -/
def State.flr (s : State) (n : Nat) : State :=
  let one (s : State) (k : Nat) : State := (s.resetBegin k).resetOn k
  if n < 4 then (one ((s.vfsOf n).foldl one s) n).updLink n (fun l => { l with numVfs := 0 }) else one s n

/-- The loss of a host link (R258, R352): its functions are reset, its device reads get no completion, and the managing role
passes to the lowest trained link. -/
def State.linkDown (s : State) (h : Nat) : State :=
  let s1 := (s.flr h).updLink h (fun l => { l with up := false, training := false, reads := [] })
  if s.mgmt = some h then { s1 with mgmt := (List.range 4).find? (fun i => (s1.link i).up) } else s1

/-- Stages in which host links train (R356, R361). -/
def State.linksOpen (s : State) : Bool :=
  s.mod.stage == .links || s.mod.stage == .discovery || s.mod.stage == .ready || s.mod.stage == .failed

/-- The other link of a host port (R255). -/
def siblingLink (h : Nat) : Nat := if h % 2 = 0 then h + 1 else h - 1

/-- PERST_DEASSERTION: the port's strap is sampled, and the link begins to train (R255, R361). -/
def execPerstDeassertion (link : BitVec 2) (bifur : Bool) (s : State) : Result :=
  let h := link.toNat
  .next (if !(s.link h).perst then s else
    (s.updLink h (fun l => { l with perst := false, training := true, bifur := bifur })).updLink (siblingLink h)
      (fun l => { l with bifur := bifur }))

/-- What a link and its partner can negotiate (R255, R256). -/
def modeLegal (m : LinkMode) (bifur : Bool) : Bool :=
  [5, 10, 16, 32, 64, 128].contains m.rate && [1, 2, 4, 8, 16].contains m.width && (m.width != 16 || !bifur) && (m.flit || m.rate != 128)
    && [128, 256, 512].contains m.maxPayload && [128, 256, 512, 1024, 2048, 4096].contains m.maxRead

/-- HOST_LINK_UP: a link that trains is up once its stage has come, in the mode it has negotiated; the first takes the managing
role (R256 to R258, R361). Links 1 and 3 exist on a divided port only. -/
def execHostLinkUp (up : LinkUp) (s : State) : Result :=
  let h := up.link.toNat
  let l := s.link h
  .next (if !s.linksOpen || !l.training || l.up || (h % 2 == 1 && !l.bifur) || !(modeLegal up.mode l.bifur) then s else
    let s1 := s.updLink h (fun l => { l with up := true, training := false, mode := up.mode })
    if s1.mgmt.isNone then { s1 with mgmt := some h } else s1)

/-- HOST_LINK_RESET: PERST# or a loss of the link resets its functions (R264, R352); the link trains again, after a PERST# once it
is deasserted (R361). (DEDUCED: log entry 54). -/
def execHostLinkReset (r : LinkReset) (s : State) : Result :=
  let h := r.link.toNat
  let l := s.link h
  let s1 := if l.up then s.linkDown h else s
  .next (if r.perst then s1.updLink h (fun l => { l with perst := true, training := false })
    else if l.up then s1.updLink h (fun l => { l with training := true }) else s1)

/-- FUNCTION_LEVEL_RESET (R264). -/
def execFunctionLevelReset (n : BitVec 6) (s : State) : Result :=
  .next (if s.funcExists n.toNat then s.flr n.toNat else s)

/-- NUMVFS_WRITE: virtual functions start or cease to exist (R257). (DEDUCED: log entry 54). -/
def execNumvfsWrite (fn : BitVec 6) (n : BitVec 16) (s : State) : Result :=
  .next (if fn.toNat < 4 && s.funcExists fn.toNat then s.updLink fn.toNat (fun l => { l with numVfs := n.toNat }) else s)

/-- Pending vectors of a function that are unmasked and enabled send their messages (R261). -/
def State.flushMsix (s : State) (n : Nat) : State :=
  (((s.func n).msixPend.filter (fun v => (s.func n).vectorOpen v)).foldl (fun s v => s.sendMsix n v) s).updFunc n (fun f =>
    { f with msixPend := f.msixPend.filter (fun v => !(f.vectorOpen v)) })

/-- MSIX_UNMASK: a vector becomes unmasked and enabled, and its pending message is sent (R261).
(PRESUMED: log entry 7; DEDUCED: log entry 54). -/
def execMsixUnmask (n : BitVec 6) (vec : BitVec 11) (s : State) : Result :=
  .next (if !(s.funcExists n.toNat) then s else
    (s.updFunc n.toNat (fun f => { f with
      msixEn := true, msix := SMap.set f.msix vec.toNat (ins (f.vector vec.toNat) 96 1 0) })).flushMsix n.toNat)

/-- A reader's device reads are outstanding no more. -/
def State.dropReads (s : State) (r : HostReader) : State :=
  { s with links := SMap.mapVals s.links (fun _ l => { l with reads := l.reads.filter (fun x => !(sameReader x.reader r)) }) }

/-- A failed read of host memory ends its reader (R263); `code` is 1 for a timeout, 2 for UR or CA, 3 for poisoned data. The feed
that moves pages for a HINT_MIGRATE ends its command. -/
def State.hostReadFails (s0 : State) (r : HostReader) (code : Nat) : State :=
  let s := s0.dropReads r
  match r with
  | .feed t =>
    match s.xfer t, t with
    | some x, _ => if x.isComplete then s else s.putXfer t (x.stop 9 code)
    | none, .cmd c => if (s.cmd c).any (fun m => m.isStarted && m.opcode == 0x60) then s.complete c 9 code 0 else s
    | none, .cp1 _ _ => s
  | .ligature g d =>
    match s.ligOp g.toNat d.toNat with
    | some o => s.ligEnd o 9 code
    | none => s
  | .instruction c va =>
    if c.core.toNat < 20 && (s.ctxOf c).mode == .running then (s.commitAll c).takeTrap c 5 va else s
  | .scribe queue =>
    let q := queue.toNat
    let n := (s.queue q).owner
    if !(s.queue q).en then s else
    let s1 := s.updQueue q (fun x => { x with en := false })
    let s2 := s1.updFunc n (fun f => if f.ferr then f else { f with ferr := true, fkind := code, fqueue := q })
    s2.raiseVec n (s2.func n).fqVec

/-- The die of a reader of host memory. -/
def readerDie : HostReader → Nat
  | .feed t => xferDie t
  | .ligature _ d => d.toNat
  | .instruction c _ => c.die.toNat
  | .scribe q => queueDie q.toNat

/-- The data of a device read has all come. -/
def State.readEnded (s : State) (link : Nat) (x : DevRead) : Bool :=
  match x.reader with
  | .scribe _ => (knownBytes s.ringData (hostKey link x.addr) x.bytes).isSome
  | r => (((s.die (readerDie r)).scopedLine x.cmd (.host link x.addr)).bind (fun c => knownBytes c.data 0 x.bytes)).isSome

/-- Data of a device read reaches the reader that has asked for it (R256, R265): the lines that its command holds (R192), or the
ring entries of a queue, which is read after its doorbell only (R266). The module also keeps what host memory last showed, for
a trace ring's HEAD and for remote reads of host pages. (DESIGN CHOICE: log entry 8). -/
def State.hostData (s : State) (r : HostReader) (link addr : Nat) (bs : List Byte) : State :=
  let s1 := s.putHost link addr bs
  let asked (x : DevRead) : Bool := sameReader x.reader r && decide (x.addr ≤ addr ∧ addr + bs.length ≤ x.addr + x.bytes)
  match (s.link link).reads.find? asked with
  | none => s1
  | some x =>
    let s2 := match r with
      | .scribe _ => { s1 with ringData := putBytes s1.ringData (hostKey link addr) bs }
      | _ => s1.fillScoped (readerDie r) x.cmd (.host link addr) bs
    if s2.readEnded link x || x.cmd.any (fun c => (s.cmd c).isNone) then s2.updLink link (fun l => { l with reads := delFirst (fun y => y == x) l.reads }) else s2

/-- HOST_READ_COMPLETION (R263). -/
def execHostReadCompletion (r : HostReader) (e : HostReadEnd) (s : State) : Result :=
  .next (match e with
    | .data link addr bytes => s.hostData r link.toNat addr.toNat bytes
    | .urOrCa => s.hostReadFails r 2
    | .poisoned => s.hostReadFails r 3)

/-- HOST_READ_TIMEOUT (R262, R263). (DEDUCED: log entry 54). -/
def execHostReadTimeout (r : HostReader) (s : State) : Result := .next (s.hostReadFails r 1)

/-- The SPA range is served for a function (R260): frames it holds; any frame up to 383 for the managing function.
(DEDUCED: log entry 52). -/
def State.bar4Served (s : State) (fn spa n : Nat) : Bool :=
  s.funcExists fn && [spa, spa + n - 1].all (fun a =>
    decide (frameOf a < 384) && decide (a < 2 ^ 39)
      && (s.isMgmt fn || SMap.find s.frames (frameKey (dieOf a) (frameOf a)) == some (.held fn)))

/-- BAR4_READ: a read through the owning die cache; one that is not served completes with Unsupported Request, and a poisoned
line is reported with no data (R196, R260). (DEDUCED: log entry 52). -/
def execBar4Read (fn : BitVec 6) (offset : BitVec 39) (width : BitVec 7) (s : State) : Result :=
  let f := fn.toNat
  let a := offset.toNat
  let n := width.toNat
  .next (if n = 0 then { s with completion := [] }
    else if !(s.bar4Served f a n) then { s.aerLog f 0 with completion := [] }
    else if (s.poisonedIn a n).isSome then { s.aerLog f 1 with completion := [] }
    else { s.cacheRead a n f 0 with completion := Memory.readBytes s.mem a n })

/-- BAR4_WRITE (R260). (DEDUCED: log entry 52). -/
def execBar4Write (fn : BitVec 6) (offset : BitVec 39) (bytes : List Byte) (s : State) : Result :=
  let f := fn.toNat
  let a := offset.toNat
  .next (if bytes.isEmpty then s
    else if !(s.bar4Served f a bytes.length) then s.aerLog f 0
    else (s.cacheWrite a bytes.length f 0).putMem a bytes)

/-- BUSY of MOD_COREOWNi (R271): a command has work on the core, or its clearing runs. -/
def State.coreBusy (s : State) (k : Nat) : Bool :=
  let c := s.core k
  c.clearing || !c.jobs.isEmpty || s.cmds.any (fun m => (m.isStarted || m.inReplay) && (s.worksOn m).contains k)

/-- A write of MOD_COREOWNi (R271): one that gives the core to another function, or takes it from one, clears the core. -/
def State.coreOwn (s : State) (fn k : Nat) (v : Word32) : State :=
  let c := s.core k
  let owned := v.getLsbD 7
  let owner := if owned then fld v 0 6 else 0
  if !(s.isMgmt fn) || s.coreBusy k then s
  else if owned == c.owned && owner == c.owner then s
  else (s.clearCore k).updCore k (fun c => { c with owned := owned, owner := owner })

/-- CORE_OWN_WRITE. -/
def execCoreOwnWrite (fn : BitVec 6) (k : CoreRef) (v : Word32) (s : State) : Result := onCore k (fun n => s.coreOwn fn.toNat n v)

/-- CORE_CLEAR_DONE: the clearing has ended (R271). -/
def execCoreClearDone (k : CoreRef) (s : State) : Result :=
  onCore k (fun n => s.updCore n (fun c => { c with clearing := false }))

/-- The result of a frame request. -/
def State.frameDone (s : State) (n result : Nat) : State := s.updFunc n (fun f => { f with frResult := result, frBusy := false })

/-- The function for which a request is made (R272). -/
def State.frameFor (s : State) (n : Nat) : Nat := if s.isMgmt n then (s.func n).frFunc else n

/-- The lowest free frame of some dies, by key. -/
def State.lowestFree (s : State) (dies : List Nat) : Option Nat :=
  dies.findSome? (fun d => ((List.range 384).map (frameKey d)).find? (fun k => s.frameFree k))

/-- OPK 1: an allocation (R272). (DEDUCED: log entry 53). -/
def State.allocFrame (s : State) (n : Nat) : State :=
  let f := s.func n
  let who := s.frameFor n
  let pick := if f.frAny then s.lowestFree (if f.frWide then List.range 32 else [f.frDie])
    else if s.frameFree (frameKey f.frDie f.frFrame) then some (frameKey f.frDie f.frFrame) else none
  match pick with
  | none => s.frameDone n 11
  | some k =>
    if !(s.fits who 3 (s.quotaUse who 3 + 1)) then s.frameDone n 4 else
    ({ s with frames := SMap.set s.frames k (.held who) }.updFunc n (fun f => { f with frDie := k / 512, frFrame := k % 512 })).frameDone n 0

/-- OPK 2: a release (R272, R273). -/
def State.freeFrame (s : State) (n : Nat) : State :=
  let f := s.func n
  let k := frameKey f.frDie f.frFrame
  let ring (q : Queue) (a size : Nat) (stack : Bool) : Bool :=
    q.en && stack && (vaParts a size).any (fun p => match s.translate q.owner p.1 .read with
      | .at (.stack spa) _ _ => spa / 2 ^ 25 == k
      | _ => false)
  let ringed := s.queues.any (fun p => ring p.2 (p.2.ringBase.toNat * 4096) (64 * ringEntries p.2.ringSize) p.2.ringLoc
    || ring p.2 (p.2.repBase.toNat * 4096) (32 * ringEntries p.2.repSize) p.2.repLoc)
  if decide (384 ≤ f.frFrame) || SMap.find s.frames k != some (.held (s.frameFor n)) || s.frameMapped k || ringed then s.frameDone n 11
  else (s.releaseFrame k).frameDone n 0

/-- FRAME_ALLOCATE: function n writes OPK 1. (DEDUCED: log entry 53). -/
def execFrameAllocate (fn n : BitVec 6) (s : State) : Result := .next (if fn = n then s.allocFrame n.toNat else s)

/-- FRAME_RELEASE: function n writes OPK 2. (DEDUCED: log entry 53). -/
def execFrameRelease (fn n : BitVec 6) (s : State) : Result := .next (if fn = n then s.freeFrame n.toNat else s)

/-- FRAME_ZERO_DONE: a released frame reads 0 and is free (R273). -/
def execFrameZeroDone (die : BitVec 5) (frame : BitVec 9) (s : State) : Result :=
  let k := frameKey die.toNat frame.toNat
  .next (match SMap.find s.frames k with
    | some .zeroing =>
      { s.zeroMem (k * 2 ^ 25) (2 ^ 25) with
        frames := SMap.del s.frames k, poison := s.poison.filter (fun l => l / 2 ^ 17 != k) }
    | _ => s)

/-- A write of MOD_COMPAT by the managing function (R371): it sets the bits before the lock event, and is itself that event. -/
def State.compat (s : State) (fn : Nat) (v : Word32) : State :=
  if !(s.isMgmt fn) || s.mod.locked then s
  else s.updMod (fun m => { m with reply := v.getLsbD 1, evict := v.getLsbD 0, locked := true })

/-- COMPAT_WRITE. (DEDUCED: log entry 51). -/
def execCompatWrite (fn : BitVec 6) (v : Word32) (s : State) : Result := .next (s.compat fn.toNat v)

end Sys2Proof.Machine
end

