-- ==== Sys2Proof/Machine/FaultEvents.lean ====
section
/-! DEFINITION. Map-out, the repeat window and module failure (R345 to R348), and what a nanosecond without a command does
(R145, R379, R391). -/

namespace Sys2Proof.Machine

/-- What a store buffer of the vector engine still owes to memory. -/
def VecOp.memOnly (v : VecOp) : VecOp :=
  { v with stores := v.stores.filter (fun t => match t with | .mem _ _ _ => true | .ink _ _ _ _ _ | .res _ _ => false) }

/-- A context on the spare: as a core reset leaves it, with what the blotter and the ligature engine hold of it (R335, R341),
and the replaced core's stores that are not yet at their destination. -/
def Ctx.onSpare (x : Ctx) (src n : Nat) : Ctx :=
  { gen := .entropy src n, job := x.job, index := x.index, code := x.code, snap := x.snap, kept := x.kept
    ligCount := x.ligCount, drain := x.drain.map VecOp.memOnly }

/-- The spare, in place of the replaced core (R173, R346, R352): reset, its inkwell and reservoir cleared, with the core number's
owner and a copy of the handle table. `idle` is the count of idle milli-cycles from which ISA_CYCLE starts.
(DEDUCED: log entry 44). -/
def Core.spare (k : Core) (src n idle : Nat) : Core :=
  { ctxs := (List.range 4).map (fun j => (j, (k.ctx j).onSpare src (n + j)))
    owned := k.owned, owner := k.owner, inkClearing := false, handles := k.handles, sb := k.sb, cycBase := -(idle : Int) }

/-- The running map-out of a die ends (R346). While the MMC is stopped nothing records it in identity record 1, and the next
module reset starts with the replaced core; the spec does not say what happens then. (DEDUCED: log entry 44; DESIGN CHOICE: log
entry 80). -/
def State.mapOut (s : State) (die : Nat) : State :=
  let core := (s.die die).spareCore
  let k := coreKey die core
  let s1 := s.updCore k (fun c => c.spare k s.free s.mod.idleCyc)
  let s2 := { s1 with free := s.free + 4 }
  let s3 := s2.updDie die (fun d => { d with spareUsed := true, mapping := false })
  let s4 := if s3.mod.mmcRun then s3.updMod (fun m => m.recordMapOut die core) else s3
  (s4.moduleEvent 1 (s4.place die core)).trace die (s4.tenantOf k) 11 (some core) 0 0 0 (s4.place die core)

/-- MAP_OUT_DONE. -/
def execMapOutDone (die : BitVec 5) (s : State) : Result :=
  .next (if (s.die die.toNat).mapping then s.mapOut die.toNat else s)

/-- ARMED_EXPIRE: FWIN seconds have passed since the core's counted fault; with FWIN = 0 the bit stays (R345). -/
def execArmedExpire (k : CoreRef) (s : State) : Result :=
  onCore k (fun n => if s.mod.fwin = 0 then s else s.updCore n (fun c => { c with armed := false }))

/-- Two dies are mesh neighbours: the mesh has 4 rows of 8 columns, and die d is in row d div 8, column d mod 8 (R18). -/
def meshLink (a b : Nat) : Bool :=
  (a / 8 == b / 8 && (a % 8 + 1 == b % 8 || b % 8 + 1 == a % 8)) || (a % 8 == b % 8 && (a / 8 + 1 == b / 8 || b / 8 + 1 == a / 8))

/-- Two of the four port dies are neighbours in their ring (R18). -/
def ringLink (a b : Nat) : Bool := decide (a < 4 ∧ b < 4) && ((a + 1) % 4 == b || (b + 1) % 4 == a)

/-- DIE_LINK_FAILURE: a link between two dies, or between two port dies, has failed (R18, R347, R348). -/
def execDieLinkFailure (a b : BitVec 5) (portRing : Bool) (s : State) : Result :=
  let x := a.toNat
  let y := b.toNat
  .next (if !s.diesRun then s
    else if portRing then (if ringLink x y then s.failModule 2 (min x y) (max x y) 0 else s)
    else if meshLink x y then s.failModule 2 x y 0 else s)

/-- UNCORRECTABLE_INTERNAL_ERROR (R263, R347, R348): a host link that fails reports ERR_FATAL and is lost. Links 0 and 1 belong to
port die 0, links 2 and 3 to port die 1. -/
def execUncorrectableInternalError (src : FailSource) (s : State) : Result :=
  .next (if !s.diesRun then s else
    match src with
    | .portDie p => s.failModule 3 0 0 p.toNat
    | .hostLink l =>
      let s1 := s.aerLog l.toNat 3
      (if (s.link l.toNat).up then s1.linkDown l.toNat else s1).failModule 4 0 0 (l.toNat / 2)
    | .scribe d => s.failModule 5 d.toNat 0 0)

/-- The functions that exist. -/
def State.liveFuncs (s : State) : List Nat := (List.range 64).filter (fun n => s.funcExists n)

/-- A transfer of a function waits for feeds of the pool (R277, R379). -/
def State.waitsForFeeds (s : State) (n : Nat) : Bool :=
  s.cmds.any (fun c => c.isWaiting && c.tenant == n && isFeed c.opcode && !(s.heldBack c) && !(s.clearing c)
      && (s.freeFeeds c.ref.die n c.feedDesc.feeds).isNone)
    || s.cores.any (fun k => k.2.owned && k.2.owner == n && k.2.ctxs.any (fun p => p.2.feedTags.any (fun q =>
      q.2.phase == .running && q.2.feeds.isEmpty && (s.freeFeeds (k.1 / 20) n (FeedDesc.parse q.2.desc).feeds).isNone)))

/-- The function counters of a nanosecond (R277, R379): lowered clocks, throttled stacks, and waits for pool feeds. -/
def State.tickFuncs (s : State) : State :=
  let lowered (n : Nat) : Bool := s.mod.thermMhz.isSome && s.cores.any (fun p => p.2.owned && p.2.owner == n)
  let stepped := s.dies.any (fun p => p.2.stkStep != 0)
  s.liveFuncs.foldl (fun t n =>
    ((t.countFunc n 0 (b2n (lowered n))).countFunc n 8 (b2n stepped)).countFunc n 0x18 (b2n (s.waitsForFeeds n))) s

/-- The events that a core counts in some of its cycles (R377): cycles, waits for a unit's wake, stalls of its contexts on page
faults, and a lowered clock. (DESIGN CHOICE: log entry 47). -/
def Core.tick (k : Core) (cycles : Nat) (lowered : Bool) : Core :=
  let waking := k.vxu == .waking || k.vgu == .waking
  let k1 := (k.countEvent 1 none cycles).countEvent 12 none (if waking then cycles else 0)
  let k2 := k1.countEvent 15 none (if lowered then cycles else 0)
  (List.range 4).foldl (fun c j => c.countEvent 14 (some j) (if (k.ctx j).mode = .stalled then cycles else 0)) k2

/-- The channel slots that a throttle step withholds at a die in a nanosecond: `step` of every 4 slots of 2.56 ns, of 80 channels
(R199, R379). -/
def Die.tick (d : Die) (now : Nat) : Die :=
  let n := ((now + 1) * 100 / 1024 - now * 100 / 1024) * d.stkStep * 80
  if n = 0 then d else { d with ctrs := SMap.set d.ctrs 0x38 (satAdd 64 (SMap.get d.ctrs 0x38 0) n) }

/-- A storage error, or a correctable error of a host link, that has arisen (R172, R263, R331, R336).
(DESIGN CHOICE: log entry 16). -/
def State.upset (s : State) (u : Config.Upset) : State :=
  match u with
  | .inkwell core row hard =>
    s.updCore (core % 640) (fun c =>
      let r := row % 16384
      if hard then { c with inkBad := if c.inkBad.contains r then c.inkBad else r :: c.inkBad }
      else if c.inkBad.contains r || c.inkSoft.contains r then c
      else { c with inkSoft := r :: c.inkSoft })
  | .vector core ctx reg =>
    s.updCtx (core % 640) (ctx % 4) (fun x =>
      let r := reg % 32
      { x with vbad := if x.vbad.contains r then x.vbad else r :: x.vbad })
  | .blotter i => { s with cmds := s.cmds.modify i (fun c => { c with lost := true }) }
  | .link l => if (s.link (l % 4)).up then s.aerLog (l % 4) 2 else s

/-- The storage error, if any, of a nanosecond in which the dies run. (DESIGN CHOICE: log entry 16). -/
def State.upsets (s : State) : State :=
  if !s.diesRun then s else
  let s1 := match Config.upset s.free with
    | some u => s.upset u
    | none => s
  { s1 with free := s.free + 1 }

/-- A nanosecond passes: ISA_TIME and the core cycle counts advance (R145, R391), counters count (R377, R379), a storage error
may arise, and what has completed is noted: the times of commands (R233), contexts that were cancelled (R245), functions that
are being reset (R264), and what the MMC drives on ALERT# (R397). (DESIGN CHOICE: log entry 2). -/
def State.tick (s : State) : State :=
  let m := s.mod
  let cycles := (m.coreCyc + m.coreMhz) / 1000 - m.coreCyc / 1000
  let s1 := s.stampDone.settleAll.resetsOn.tickFuncs
  let s2 := { s1 with
    cores := SMap.mapVals s1.cores (fun _ k => k.tick cycles m.thermMhz.isSome)
    dies := SMap.mapVals s1.dies (fun _ d => d.tick m.timeNs) }
  let s3 := s2.upsets
  s3.updMod (fun m => { m with
    alert := if m.serves then s3.alertNow else m.alert, timeNs := m.timeNs + 1, bootNs := m.bootNs + 1, idleCyc := m.idleCyc + 800, coreCyc := m.coreCyc + m.coreMhz })

end Sys2Proof.Machine
end

