-- ==== Sys2Proof/Machine/Matrix.lean ====
section
/-! DEFINITION. The matrix array: MDSET and MM with their checks (R62 to R66), acceptance and cursive groups (R68,
R76, R78, R81 to R83), the outputs of a pass (R57 to R61, R90 to R95, R104), its completion (R68, R109) and the
checksum comparison (R84 to R86). -/

namespace Sys2Proof.Machine

/-- MDSET: the descriptor's low half from x[RS1], its high half from x[RS2] (R62). -/
def execMdset (c : CtxRef) (w : Word32) (s : State) : Result :=
  s.issue .mdset c w (fun s =>
    let r1 := fld w 16 5
    let r2 := fld w 21 5
    s.commit c (fun x => { x with md := SMap.set x.md (fld w 12 4) (x.rx r2 ++ x.rx r1) }))

/-- Height and width in cells of a block of a shape (R58). -/
def shapeHW : Nat → Nat × Nat
  | 0 => (128, 128)
  | 1 => (128, 64)
  | 2 => (64, 64)
  | _ => (32, 32)

/-- Blocks of a shape (R58). -/
def shapeBlocks : Nat → Nat
  | 0 => 1 | 1 => 2 | 2 => 4 | _ => 16

/-- K covered by a block of height h (R57). -/
def coverK (f : Fmt) (h : Nat) : Nat := if f == .fp4 then 2 * h else h

/-- Outputs across a block of width w (R57). -/
def coverN (f : Fmt) (w : Nat) : Nat :=
  match f with | .bf16 => w / 2 | .fp16 => w / 4 | _ => w

/-- The array formats (R54). -/
def arrayFmt (f : Fmt) : Bool :=
  match f with | .fp32 | .int32 | .int64 => false | _ => true

/-- N_used, R_out and M of a request (R66). -/
def mmExtents (mode : Nat) (a b : OpDesc) : Nat × Nat × Nat :=
  if mode = 2 then (b.dim0, a.dim0, a.dim1) else (b.dim0, a.dim0, a.dim0)

/-- The illegal-operand conditions of R66, over the format words of both operands. -/
def mmBad (shape mode : Nat) (a b : OpDesc) (d : DstDesc) (fa fb : FmtWord) : Bool :=
  let f := fa.fmt
  let (h, w) := shapeHW shape
  let (n, r, _) := mmExtents mode a b
  fa.fmt != fb.fmt || !(arrayFmt f) || a.reserved || b.reserved || d.reserved
    || (mode == 2 && f == .fp64)
    || a.dim1 != b.dim1 || a.blocks != b.blocks || decide (shapeBlocks shape < a.blocks)
    || (mode != 2 && (decide (coverK f h < a.dim1) || decide (coverN f w < n)))
    || (mode == 2 && (decide (h < a.dim0) || decide (coverN f w < b.dim0)))
    || decide (a.pitch * 32 < a.rowBytes f) || decide (b.pitch * 32 < b.rowBytes f)
    || decide (16384 ≤ d.base + (a.blocks - 1) * d.bstride + (r - 1) * d.pitch + (n - 1))
    || decide (d.pitch < n)
    || (decide (1 < a.blocks) && decide (d.bstride < (r - 1) * d.pitch + n))

/-- The entries, by number, that a request writes, block by block and row by row (R65). HATCHED outputs write entry
e of both banks; the number names the one in res0. -/
def MmReq.entries (q : MmReq) : List Nat :=
  let a := OpDesc.parse q.str
  let b := OpDesc.parse q.sta
  let d := DstDesc.parse q.dst
  let (n, r, _) := mmExtents q.mode a b
  let bank := match FmtWord.parse a.fmtw with
    | some w => if w.fmt == .fp64 then 0 else d.bank
    | none => 0
  (List.range a.blocks).flatMap (fun i => (List.range r).flatMap (fun s => (List.range n).map (fun j =>
    d.base + i * d.bstride + s * d.pitch + j + 16384 * bank)))

/-- The request is hatched FP64. -/
def MmReq.isHatched (q : MmReq) : Bool :=
  match FmtWord.parse (OpDesc.parse q.str).fmtw with | some w => w.fmt == .fp64 | none => false

/-- Every entry that a request's outputs touch: both banks when hatched. -/
def MmReq.touches (q : MmReq) : List Nat :=
  if q.isHatched then q.entries ++ q.entries.map (fun e => e + 16384) else q.entries

/-- Rows streamed (R66). -/
def MmReq.rows (q : MmReq) : Nat := (mmExtents q.mode (OpDesc.parse q.str) (OpDesc.parse q.sta)).2.2

/-- A request is eligible for a cursive group (R81). -/
def MmReq.eligible (q : MmReq) : Bool := q.mode != 2 && !q.isHatched && decide (q.rows ≤ 128)

/-- Two requests have shape, mode and stationary descriptor equal (R81). -/
def MmReq.sameStat (p q : MmReq) : Bool := p.shape == q.shape && p.mode == q.mode && p.sta == q.sta

/-- Rows of the open group. -/
def Core.groupRows (k : Core) : Nat := (k.group.map MmReq.rows).foldl (· + ·) 0

/-- A request arrives in the open group's scope (R82): it joins a matching group, closes it when it would take it
above 128 rows, and otherwise waits. -/
def Core.groupArrive (k : Core) (q : MmReq) : Core :=
  match k.group with
  | [] => { k with mmWait := k.mmWait ++ [q] }
  | g :: _ =>
    if k.groupClosed || !(q.eligible && g.sameStat q) then { k with mmWait := k.mmWait ++ [q] }
    else if k.groupRows + q.rows ≤ 128 then
      { k with group := k.group ++ [q], groupClosed := decide (k.groupRows + q.rows = 128) }
    else { k with mmWait := k.mmWait ++ [q], groupClosed := true }

/-- The oldest waiting request opens a group, when none is open and it is eligible, and every waiting request that
matches joins at once (R82). -/
def Core.groupOpen (k : Core) : Core :=
  match k.group, k.mmWait with
  | [], q :: rest =>
    if k.cwin = 0 || !q.eligible then k else
    let base : Core := { k with group := [q], groupClosed := decide (q.rows = 128), mmWait := [] }
    rest.foldl (fun k r => k.groupArrive r) base
  | _, _ => k

/-- A request reaches the matrix unit (R68, R82). -/
def Core.mmArrive (k : Core) (q : MmReq) : Core :=
  if k.cwin = 0 then { k with mmWait := k.mmWait ++ [q] } else (k.groupArrive q).groupOpen

/-- The context has a request that the matrix unit has not accepted yet. -/
def Core.mmPending (k : Core) (j : Nat) : Bool := (k.mmWait ++ k.group).any (fun q => q.ctx == j)

/-- MM.F, MM.H, MM.Q or MM.T: the checks of R66 and R171, then the request (R68). The context's own earlier vector
stores are written first. The context stalls while 16 passes are in flight, and while its previous request still waits, so
that its requests are accepted in program order (R68). (DEDUCED: log entry 18). -/
def execMm (c : CtxRef) (w : Word32) (s : State) : Result :=
  s.issue .mm c w (fun s =>
    let x := s.ctxOf c
    let k := s.core c.key
    let dst := SMap.get x.md (fld w 20 4) 0
    let str := SMap.get x.md (fld w 16 4) 0
    let sta := SMap.get x.md (fld w 12 4) 0
    let a := OpDesc.parse str
    let b := OpDesc.parse sta
    let mode := fld w 10 2
    let shape := fld w 7 3
    match FmtWord.parse a.fmtw, FmtWord.parse b.fmtw with
    | some fa, some fb =>
      if mmBad shape mode a b (DstDesc.parse dst) fa fb then s.trapOperand c w
      else if !x.vecStoresDone || k.mmPending c.idx || decide (16 ≤ k.passes.length) then s
      else match k.operandCheck a fa with
        | .inr (e, h) => s.inkChecked c h e (fun _ => s)
        | .inl (ab, ao) =>
          match k.operandCheck b fb with
          | .inr (e, h) => s.inkChecked c h e (fun _ => s)
          | .inl (bb, bo) =>
            let q : MmReq := { ctx := c.idx, shape := shape, mode := mode, acc := w.getLsbD 24, dst := dst, str := str,
                               sta := sta, strBase := ab, strOff := ao, staBase := bb, staOff := bo }
            (s.updCore c.key (fun k => k.mmArrive q)).commit c id
    | _, _ => s.trapOperand c w)

/-- One element of an operand: block, tensor row and K index (R64, R33). -/
def Core.elemBits (k : Core) (o : OpDesc) (f : Fmt) (base blk r i : Nat) : Nat :=
  let bit := r * o.pitch * 256 + i * f.width
  fld (k.row (base + o.row + blk * o.brows + bit / 4096)) (bit % 4096) f.width

/-- The fine offset of an element (R37, R64); 0 unless SCALE is 2. -/
def Core.elemFine (k : Core) (o : OpDesc) (w : FmtWord) (obase blk r i : Nat) : Nat :=
  if w.scale ≠ 2 then 0 else
  let bit := 4 * (r * o.offPerRow + i / 32)
  fld (k.row (obase + o.orow + blk * o.brows + bit / 4096)) (bit % 4096) 4

/-- An element as the cells read it: INT8 0x80 is −127 (R55); the fine offset applied, the coarse scale not. -/
def Core.cellVal (k : Core) (o : OpDesc) (w : FmtWord) (base obase blk r i : Nat) : FVal :=
  let bits := k.elemBits o w.fmt base blk r i
  if w.fmt == .int8 && bits == 0x80 then FVal.ofInt (-127)
  else (w.fmt.decode bits).scale (-(k.elemFine o w obase blk r i : Int))

/-- One tensor row of an operand as the cells read it. -/
def Core.cellRow (k : Core) (o : OpDesc) (w : FmtWord) (base obase blk r : Nat) : List FVal :=
  (List.range o.dim1).map (fun i => k.cellVal o w base obase blk r i)

/-- INT8 elements 0x80 that a pass reads from one operand (R67). (DEDUCED: log entry 19). -/
def Core.count80 (k : Core) (o : OpDesc) (w : FmtWord) (base : Nat) : Nat :=
  if w.fmt != .int8 then 0 else
  ((List.range o.blocks).flatMap (fun b => (List.range o.dim0).flatMap (fun r =>
    (List.range o.dim1).filter (fun i => k.elemBits o w.fmt base b r i == 0x80)))).length

/-- A list in pieces of n. -/
def chunks {α : Type} : Nat → Nat → List α → List (List α)
  | 0, _, _ => []
  | fuel + 1, n, l => if l.isEmpty then [] else l.take n :: chunks fuel n (l.drop n)

/-- The flags that non-finite products set (R93): NAN 1, PINF 2, NINF 4. -/
def prodFlags (ps : List (FVal × FVal)) : Nat :=
  ps.foldl (fun fl p => match (mulF p.1 p.2).1 with
    | .nan _ _ => fl ||| 1
    | .inf false => fl ||| 2
    | .inf true => fl ||| 4
    | .fin _ _ _ => fl) 0

/-- The exact sum of the finite products in units of 2^-62 (R90). -/
def prodSum (ps : List (FVal × FVal)) : Int :=
  ps.foldl (fun q p => match p.1, p.2 with
    | .fin s m e, .fin t n g => q + signedAt s m e (-31) * signedAt t n g (-31)
    | _, _ => q) 0

/-- An FP32 leaf (R94): the products in ascending K, each added with one rounding; the first one rounded once. -/
def leafSum (ps : List (FVal × FVal)) : BitVec 32 :=
  match ps with
  | [] => 0
  | p :: rest =>
    let first := (arith .fp32 (mulF p.1 p.2)).1.bits
    BitVec.ofNat 32 (rest.foldl (fun a q => (arith .fp32 (fmaF q.1 q.2 (Fmt.fp32.decode a))).1.bits) first)

/-- E of a tensor row (R104): the exponent of its largest finite magnitude, 0 when it has none. -/
def rowExp (xs : List FVal) : Int :=
  let big := xs.foldl (fun (a : Nat × Int) x => match x with
    | .fin _ m e => if magLt a.1 a.2 m e then (m, e) else a
    | _ => a) (0, 0)
  if big.1 = 0 then 0 else (Nat.log2 big.1 : Int) + big.2

/-- The eight signed slices of an element in a row of exponent E (R104). -/
def slicesOf (ex : Int) (x : FVal) : List Int :=
  match x with
  | .fin s m e =>
    let sh := e + 55 - ex
    let k : Nat := if 0 ≤ sh then m <<< sh.toNat else m >>> (-sh).toNat
    (List.range 8).map (fun i => let v : Int := ((k >>> (7 * (7 - i))) % 128 : Nat); if s then -v else v)
  | _ => (List.range 8).map (fun _ => 0)

/-- D of two sliced elements: the 36 slice products (R104). -/
def sliceProd (a b : List Int) : Int :=
  ((a.zipIdx).map (fun p => ((b.zipIdx).map (fun q =>
    if p.2 + q.2 ≤ 7 then p.1 * q.1 * 2 ^ (7 * (14 - p.2 - q.2)) else 0)).foldl (· + ·) 0)).foldl (· + ·) 0

/-- One output of a pass: the streamed or first operand's row against the stationary or second operand's row, in
ascending K; `drain` is the K interval of an output-stationary drain (R61). -/
def outputOf (f : Fmt) (c : Int) (mode : Nat) (a b : List FVal) : MmOut :=
  let ps := a.zip b
  match f with
  | .fp64 =>
    let ea := rowExp a
    let eb := rowExp b
    let d := (ps.map (fun p => sliceProd (slicesOf ea p.1) (slicesOf eb p.2))).foldl (· + ·) 0
    .hatched d (ea + eb - 110) (prodFlags ps)
  | .bf16 | .fp16 =>
    .fp32 (if mode = 2 then (chunks (ps.length + 1) 128 ps).map leafSum else [leafSum ps]) c
  | _ => .fixed (if mode = 2 then (chunks (ps.length + 1) 256 ps).map prodSum else [prodSum ps]) c (prodFlags ps)

/-- FP64 elements at their value: the coarse scale enters E (R36, R104). -/
def coarseRow (w : FmtWord) (xs : List FVal) : List FVal :=
  if w.fmt == .fp64 then xs.map (fun x => x.scale w.cs) else xs

/-- An operand as the cells read it, by block and tensor row. -/
def Core.cellBlocks (k : Core) (o : OpDesc) (w : FmtWord) (base obase : Nat) : List (List (List FVal)) :=
  (List.range o.blocks).map (fun blk => (List.range o.dim0).map (fun r => coarseRow w (k.cellRow o w base obase blk r)))

/-- The streamed operand of a request over the inkwell as it is. -/
def Core.strCells (k : Core) (q : MmReq) : List (List (List FVal)) :=
  let a := OpDesc.parse q.str
  match FmtWord.parse a.fmtw with
  | some fa => k.cellBlocks a fa q.strBase q.strOff
  | none => []

/-- The stationary operand of a request over the inkwell as it is. -/
def Core.staCells (k : Core) (q : MmReq) : List (List (List FVal)) :=
  let b := OpDesc.parse q.sta
  match FmtWord.parse b.fmtw with
  | some fb => k.cellBlocks b fb q.staBase q.staOff
  | none => []

/-- The outputs of one request over the inkwell as it is, in the order of its entries (R59 to R61, R65, R66). -/
def Core.outputsOf (k : Core) (q : MmReq) : List MmOut :=
  match FmtWord.parse (OpDesc.parse q.str).fmtw, FmtWord.parse (OpDesc.parse q.sta).fmtw with
  | some fa, some fb =>
    ((k.strCells q).zip (k.staCells q)).flatMap (fun p => p.1.flatMap (fun ar =>
      p.2.map (fun br => outputOf fa.fmt (fa.cs + fb.cs) q.mode ar br)))
  | _, _ => []

/-- The pass retains the stationary operand (R76). -/
def Core.retains (k : Core) (q : MmReq) : Bool :=
  q.mode != 2 && !q.isHatched &&
    (match k.retained with
     | some r => r.shape == q.shape && r.mode == q.mode && r.desc == q.sta
     | none => false)

/-- The handles that an operand uses: OHANDLE only with SCALE 2 (R64). -/
def OpDesc.handles (o : OpDesc) : List Nat :=
  match FmtWord.parse o.fmtw with
  | some w => if w.scale = 2 then [o.handle, o.ohandle] else [o.handle]
  | none => []

/-- The retained operand after a pass is accepted (R76). -/
def retainedAfter (q : MmReq) : Option Retained :=
  if q.mode = 2 || q.isHatched then none else
  some { shape := q.shape, mode := q.mode, desc := q.sta, rows := q.staRows, handles := (OpDesc.parse q.sta).handles }

/-- A request as part of an accepted pass; `load` counts its stationary operand (R67). -/
def Core.partOf (k : Core) (q : MmReq) (load : Bool) : PassPart :=
  let a := OpDesc.parse q.str
  let b := OpDesc.parse q.sta
  let n := match FmtWord.parse a.fmtw, FmtWord.parse b.fmtw with
    | some fa, some fb => k.count80 a fa q.strBase + (if load then k.count80 b fb q.staBase else 0)
    | _, _ => 0
  { ctx := q.ctx, acc := q.acc, outs := q.entries.zip (k.outputsOf q), sat := n, str := k.strCells q, sta := k.staCells q }

/-- The element format code of a request. -/
def MmReq.fmtCode (q : MmReq) : Nat :=
  match FmtWord.parse (OpDesc.parse q.str).fmtw with | some w => w.fmt.code | none => 0

/-- The parts of a pass of some requests: each counts as when it is accepted alone, so each counts the stationary operand
unless it is retained (R67, R83). (DEDUCED: log entry 19). -/
def Core.partsOf (k : Core) (retained : Bool) (qs : List MmReq) : List PassPart := qs.map (fun q => k.partOf q (!retained))

/-- The entries that a part of a pass in flight writes. -/
def PassPart.touches (p : PassPart) : List Nat :=
  p.outs.flatMap (fun o => match o.2 with
    | .hatched _ _ _ => [o.1 % 16384, o.1 % 16384 + 16384]
    | _ => [o.1])

/-- An entry of a list is among the destinations of passes in flight (R78). -/
def Core.inFlight (k : Core) (es : List Nat) : Bool :=
  k.passes.any (fun p => p.parts.any (fun q => q.touches.any (fun e => es.contains e)))

/-- A request waits for passes of other contexts that touch its entries when it combines (R78), and for reservoir
stores of vector instructions to its entries. -/
def Core.mmBlocked (k : Core) (q : MmReq) : Bool :=
  let es := q.touches
  (q.acc && k.passes.any (fun p => p.parts.any (fun r => r.ctx != q.ctx && r.touches.any (fun e => es.contains e))))
  || k.ctxs.any (fun x => (x.2.vq ++ x.2.drain).any (fun o => o.stores.any (fun st =>
      match st with | .res e _ => es.contains e | _ => false)))

/-- Rows that accepting a pass reads: streamed rows of every request, stationary rows unless retained. -/
def passRows (retained : Bool) (qs : List MmReq) : List Nat :=
  qs.flatMap MmReq.strRows ++ (if retained then [] else match qs with | q :: _ => q.staRows | [] => [])

/-- Handle and relative row of an operand's physical row, for a fault record. -/
def MmReq.nameRow (q : MmReq) (p : Nat) : Nat × Nat :=
  let a := OpDesc.parse q.str
  let b := OpDesc.parse q.sta
  if (physRows q.str q.strBase q.strOff).contains p then
    (if ((match FmtWord.parse a.fmtw with | some w => a.dataRows w.fmt | none => []).map (fun r => q.strBase + r)).contains p
      then (a.handle, p - q.strBase) else (a.ohandle, p - q.strOff))
  else if ((match FmtWord.parse b.fmtw with | some w => b.dataRows w.fmt | none => []).map (fun r => q.staBase + r)).contains p
      then (b.handle, p - q.staBase) else (b.ohandle, p - q.staOff)

/-- Accepts requests as one pass (R68, R83): outputs and counts are those of the inkwell now (R79). An uncorrectable
row raises the inkwell ECC fault (R172) and the pass is not accepted. After a group, its first member's context counts as
the one accepted last. (DESIGN CHOICE: log entry 74). -/
def State.acceptPass (s : State) (key : Nat) (qs : List MmReq) (grouped : Bool) : State :=
  let k := s.core key
  match qs with
  | [] => s
  | q :: _ =>
    let keep := k.retains q
    match k.badRow (passRows keep qs) with
    | some p =>
      let (h, r) := q.nameRow p
      s.inkEccFault key q.ctx h r p
    | none =>
      let pass : Pass := { shape := q.shape, mode := q.mode, fmt := q.fmtCode,
                           rows := (qs.map MmReq.rows).foldl (· + ·) 0, parts := k.partsOf keep qs }
      let (cq, cn) := (s.ctx key q.ctx).jobNums
      let members := (qs.map (fun q => q.ctx)).eraseDups.foldl (fun a j => a + 2 ^ j) 0
      let s0 := if grouped then
          s.trace (key / 20) (s.tenantOf key) 6 (some (key % 20)) q.ctx cq cn
            (pass.rows % 256 + q.shape * 2 ^ 8 + members * 2 ^ 10)
        else s
      s0.updCore key (fun k0 =>
        let k := k0.correctRows (passRows keep qs)
        let k1 := { k with passes := k.passes ++ [pass], lastCtx := q.ctx
                           retained := if keep then k.retained else retainedAfter q }
        let k2 := k1.countEvent 4 (some q.ctx) 1
        if grouped then
          qs.foldl (fun k q => k.countEvent 7 (some q.ctx) 1) (k2.countEvent 6 none 1)
        else k2)

/-- The oldest waiting request of a context. -/
def Core.oldestOf (k : Core) (j : Nat) : Option MmReq := k.mmWait.find? (fun q => q.ctx == j)

/-- The request that is accepted next when no window is set: round-robin from the context after the last (R68).
(DEDUCED: log entry 18). -/
def Core.nextReq (k : Core) : Option MmReq :=
  ([1, 2, 3, 4].filterMap (fun i =>
    match k.oldestOf ((k.lastCtx + i) % 4) with
    | some q => if k.mmBlocked q then none else some q
    | none => none)).head?

/-- Takes a request out of the waiting ones. -/
def Core.dropReq (k : Core) (q : MmReq) : Core := { k with mmWait := delFirst (fun r => r == q) k.mmWait }

/-- The handles that a request's operands use. -/
def MmReq.handles (q : MmReq) : List Nat := (OpDesc.parse q.str).handles ++ (OpDesc.parse q.sta).handles

/-- The oldest request that is not accepted yet and uses a revoked handle (R171). -/
def Core.revokedReq (k : Core) : Option MmReq :=
  (k.group ++ k.mmWait).find? (fun q => q.handles.any (fun h => (k.handle h).st == 2))

/-- Takes a request out of the open group and the waiting ones. -/
def Core.forgetReq (k : Core) (q : MmReq) : Core :=
  { k with mmWait := delFirst (fun r => r == q) k.mmWait, group := delFirst (fun r => r == q) k.group }

/-- The matrix unit accepts what it can (R68, R81, R82): at most 16 passes are in flight, and none after the core has
halted (R86). A request through a handle that has been revoked is not accepted, and its command ends with REVOKED (R171). A
closed group goes first; while a group is open nothing else is accepted; the oldest waiting request then opens the next
group. A group that is open when WINDOW is written 0 is accepted at once. (DEDUCED: log entry 18; DESIGN CHOICE: log
entry 74). -/
def State.mmAccept (s : State) (key : Nat) : State :=
  let k := s.core key
  if k.halted || decide (16 ≤ k.passes.length) then s
  else if let some q := k.revokedReq then
    (s.updCore key (fun k => k.forgetReq q)).revokedStop (ctxRefOf key q.ctx) 1
  else if !k.group.isEmpty then
    (if (k.groupClosed || k.cwin == 0) && !(k.group.any k.mmBlocked) then
      let s1 := s.updCore key (fun k => { k with group := [], groupClosed := false })
      (s1.acceptPass key k.group true).updCore key Core.groupOpen
    else s)
  else if k.cwin ≠ 0 then
    match k.mmWait with
    | [] => s
    | q :: _ =>
      if q.eligible then s.updCore key Core.groupOpen
      else if k.mmBlocked q then s
      else ((s.updCore key (fun k => k.dropReq q)).acceptPass key [q] false).updCore key Core.groupOpen
  else match k.nextReq with
    | none => s
    | some q => (s.updCore key (fun k => k.dropReq q)).acceptPass key [q] false

/-- The matrix unit accepts a waiting request or a closed group. (DESIGN CHOICE: log entry 3). -/
def execMmAccept (k : CoreRef) (s : State) : Result := onCore k (fun key => s.mmAccept key)

/-- A cursive group closes at its window, and is accepted as one pass in the next cycle (R82). -/
def execCursiveGroupClose (k : CoreRef) (s : State) : Result :=
  onCore k (fun key =>
    if (s.core key).group.isEmpty then s
    else (s.updCore key (fun c => { c with groupClosed := true })).mmAccept key)

/-- A part of a pass writes its outputs (R68, R89). -/
def Core.writePart (k : Core) (p : PassPart) : Core × ResCounts :=
  p.outs.foldl (fun a o => a.1.accumulate o.1 p.acc o.2.vals a.2) (k, {})

/-- Adds events to a context's RSV_EVT (R109). -/
def Ctx.addRes (x : Ctx) (r : ResCounts) : Ctx :=
  { x with mismatch := satAddBv x.mismatch r.mismatch, resOvf := satAddBv x.resOvf r.ovf }

/-- A part completes: its outputs, and its context's counts (R52, R109). -/
def State.completePart (s : State) (key : Nat) (p : PassPart) : State :=
  let r := (s.core key).writePart p
  ((s.updCore key (fun _ => r.1)).updCtx key p.ctx (fun x => x.addRes r.2)).addCounts key p.ctx p.sat 0

/-- A pass waits for the passes before it: for one that still has to write one of its entries (R68), and for every one when
it, or one of them, is output-stationary (R77). -/
def Core.passHeld (k : Core) (i : Nat) (p : Pass) : Bool :=
  let es := p.parts.flatMap PassPart.touches
  (k.passes.take i).any (fun o => o.mode == 2 || p.mode == 2 ||
    o.parts.any (fun q => q.touches.any (fun e => es.contains e)))

/-- A pass completes unless a pass before it holds it (R68, R77). (DEDUCED: log entry 18). -/
def State.passComplete (s : State) (key i : Nat) : State :=
  let k := s.core key
  match k.passes[i]? with
  | none => s
  | some p =>
    if k.passHeld i p then s
    else p.parts.foldl (fun s q => s.completePart key q)
      (s.updCore key (fun k => { k with passes := k.passes.eraseIdx i }))

/-- The i-th pass in flight makes its last reservoir write and leaves flight. -/
def execMmPassComplete (k : CoreRef) (i : Nat) (s : State) : Result := onCore k (fun key => s.passComplete key i)

/-- The values of one checksum comparison (R84), in units of 2^-300, of 1 in a hatched slice pass: the expected sum E, the
magnitude sum P, and the exact sum R of the outputs. -/
structure ChkSums where
  expected : Int
  magnitude : Nat
  row : Int
  deriving DecidableEq, Repr

/-- The sum of some integers. -/
def sumInt (l : List Int) : Int := l.foldl (· + ·) 0

/-- The sum of the products of one row of numbers with every row of a block, and the sum of their magnitudes (R84): each
element times the sum of the block's elements at its K, as the checksum cells form it. -/
def rowTotals (a : List Int) (bs : List (List Int)) : Int × Nat :=
  (sumInt ((a.zipIdx).map (fun p => p.1 * sumInt (bs.map (fun b => b.getD p.2 0)))),
   ((a.zipIdx).map (fun p => p.1.natAbs * ((bs.map (fun b => (b.getD p.2 0).natAbs)).foldl (· + ·) 0))).foldl (· + ·) 0)

/-- A finite element in units of 2^-150. -/
def chkElem : FVal → Int
  | .fin s m e => signedAt s m e (-150)
  | _ => 0

/-- An output of one drain in units of 2^-300; none when it is not finite (R85). -/
def MmOut.chkValue : MmOut → Option Int
  | .fixed qs _ flags => if flags = 0 then some (sumInt qs * 2 ^ 238) else none
  | .fp32 ls _ =>
    match ls.map (fun l => Fmt.fp32.decode l.toNat) with
    | [.fin s m e] => some (signedAt s m e (-300))
    | _ => none
  | .hatched _ _ _ => none

/-- The comparison of one row of elements with the rows of a block (R84, R85): none when an output is not finite. -/
def rowSums (f : Fmt) (a : List FVal) (bs : List (List FVal)) : Option ChkSums :=
  let t := rowTotals (a.map chkElem) (bs.map (fun b => b.map chkElem))
  let outs := bs.map (fun b => (outputOf f 0 0 a b).chkValue)
  if outs.any (fun o => o.isNone) then none
  else some { expected := t.1, magnitude := t.2, row := sumInt (outs.map (fun o => o.getD 0)) }

/-- The comparison of one row in a slice pass of hatched FP64 (R72, R84, R104): slice i of the streamed row, slice j of the
stationary rows. -/
def sliceSums (i j : Nat) (a : List FVal) (bs : List (List FVal)) : Option ChkSums :=
  let sl (n : Nat) (xs : List FVal) : List Int := xs.map (fun x => (slicesOf (rowExp xs) x).getD n 0)
  let ai := sl i a
  let bj := bs.map (sl j)
  let t := rowTotals ai bj
  if 7 < i + j || bs.any (fun b => prodFlags (a.zip b) != 0) then none
  else some { expected := t.1, magnitude := t.2, row := sumInt (bj.map (fun b => sumInt ((ai.zip b).map (fun p => p.1 * p.2)))) }

/-- The elements of one output-stationary drain (R61). -/
def drainOf (f : Fmt) (d : Nat) (l : List FVal) : List FVal :=
  let n := match f with | .bf16 | .fp16 => 128 | _ => 256
  (l.drop (n * d)).take n

/-- The comparison that a checksum command names (R84 to R86): its pass and member, its format and its values; none when the
pass makes no such comparison, or the row is not compared. -/
def Core.chkSums (k : Core) (f : ChecksumFail) : Option (Pass × PassPart × Fmt × ChkSums) :=
  (k.passes[f.pass]?).bind (fun p => (p.parts[f.part]?).bind (fun q => (Fmt.ofCode p.fmt).bind (fun fmt =>
    let a := q.str.getD f.block.toNat []
    let b := q.sta.getD f.block.toNat []
    let st := f.step.toNat
    let v : Option ChkSums :=
      if fmt = .fp64 then
        (if f.kind = 2 then (a[f.index.toNat]?).bind (fun r => sliceSums (st % 8) (st / 8) r b) else none)
      else if p.mode = 2 then
        let cut (xs : List (List FVal)) : List (List FVal) := xs.map (drainOf fmt st)
        let rows := if f.kind = 0 then (cut a, cut b) else (cut b, cut a)
        if f.kind = 2 then none else (rows.1[f.index.toNat]?).bind (fun r => if r.isEmpty then none else rowSums fmt r rows.2)
      else if f.kind = 0 && st == 0 then (a[f.index.toNat]?).bind (fun r => rowSums fmt r b)
      else none
    v.map (fun v => (p, q, fmt, v)))))

/-- A comparison passes although a fault adds to the accumulated sum (R85). -/
def checksumOk (fmt : Fmt) (v : ChkSums) (err : Int) (s16 sb : Nat) : Bool :=
  let diff := (v.expected - (v.row + err)).natAbs
  match fmt with
  | .fp16 => decide (diff * 2 ^ s16 ≤ v.magnitude + 2 ^ s16 * 2 ^ 164)
  | .bf16 => decide (diff * 2 ^ sb ≤ v.magnitude + 2 ^ sb * 2 ^ 164)
  | _ => decide (diff = 0)

/-- The pass and the member whose comparison fails (R85, R86). -/
def Core.failedCheck (k : Core) (f : ChecksumFail) : Option (Pass × PassPart) :=
  (k.chkSums f).bind (fun r =>
    if checksumOk r.2.2.1 r.2.2.2 f.err k.ctolFp16 k.ctolBf16 then none else some (r.1, r.2.1))

/-- MXU_FSTAT after a failed comparison (R86). -/
def Fstat.capture (o : Fstat) (p : Pass) (q : PassPart) (f : ChecksumFail) : Fstat :=
  if o.valid then { o with ovr := true } else
  { valid := true, ovr := o.ovr, ctx := q.ctx, shape := p.shape, mode := p.mode, fmt := p.fmt,
    block := f.block.toNat, index := f.index.toNat, kind := f.kind.toNat }

/-- A comparison of R84 that a fault disturbs: a failed one captures MXU_FSTAT and raises the array-checksum fault, KIND 1,
whose ADDR is the captured MXU_FSTAT (R86, R333). The pass still writes its outputs. (UNVERIFIED: log entry 75). -/
def State.checksum (s : State) (key : Nat) (f : ChecksumFail) : State :=
  match (s.core key).failedCheck f with
  | none => s
  | some (p, q) =>
    let s1 := s.updCore key (fun k => { k with fstat := k.fstat.capture p q f })
    s1.coreFault key q.ctx 1 (s1.core key).fstat.value 0 0

/-- The checksum comparison of a row or drain. -/
def execArrayChecksumFault (k : CoreRef) (f : ChecksumFail) (s : State) : Result := onCore k (fun key => s.checksum key f)

end Sys2Proof.Machine
end

