-- ==== Sys2Proof/Machine/Regs.lean ====
section
/-! DEFINITION. BAR0 (R10 to R13, R381 to R386): which register an offset names, what each register reads, and what a write of
4 or 8 bytes does under its access codes. -/

namespace Sys2Proof.Machine

/-- The registers of BAR0. A register wider than 64 bits is named with its 64-bit word. -/
inductive Reg where
  | boot | compat | place | rstctl | health | fltctl
  | vfalloc (h : Nat) | dieh (d : Nat) | frcmd (n : Nat) | coreown (i : Nat) | coreflt (i : Nat)
  | idmb | func (n : Nat) | frreq (n : Nat)
  | scbctl (d : Nat) | feedmap (d : Nat) | qring (q : Nat) | qrep (q : Nat) | qctl (q : Nat) | qptr (q : Nat)
  | tbase (n : Nat) | l2pool | fqcfg (n : Nat) | fqptr (n : Nat) | fresp (n : Nat) | fctl (n : Nat) | win (n word : Nat)
  | plz (off : Nat)
  | grp (g word : Nat) | gerr (g word : Nat)
  | ctrDie (d off : Nat) | ctrFunc (n off : Nat)
  | ssd (d : Nat) | dcecc (d : Nat) | tway (d n : Nat) | stkTemp (d : Nat) | stkTctl (d : Nat) | stkEcc (d : Nat)
  | stkFrep (d n : Nat)
  | inkHt (k n : Nat) | inkStat (k : Nat) | inkEcc (k : Nat) | cwin (k : Nat) | ctol (k : Nat) | fstat (k : Nat)
  | pgctl (k : Nat) | ctrSel (k i : Nat) | ctrPc (k i : Nat)
  deriving DecidableEq, Repr

/-- The index of an offset in an array of n registers of a stride. -/
def regIndex (off base stride n : Nat) : Option Nat :=
  if base ≤ off ∧ off < base + stride * n ∧ (off - base) % stride = 0 then some ((off - base) / stride) else none

/-- The core of an offset in the core windows, with the offset in its window (R382, R384). -/
def coreWindow (off : Nat) : Option (Nat × Nat) :=
  let o := off - 0x08000000
  if off < 0x08000000 ∨ 0x20000 * 32 ≤ o ∨ 20 ≤ o % 0x20000 / 0x1000 then none
  else some (coreKey (o / 0x20000) (o % 0x20000 / 0x1000), o % 0x1000)

/-- The die of an offset in the die windows, with the offset in its window (R382). -/
def dieWindow (off : Nat) : Option (Nat × Nat) :=
  let o := off - 0x04000000
  if off < 0x04000000 ∨ 0x10000 * 32 ≤ o then none else some (o / 0x10000, o % 0x10000)

/-- The 32-bit register at a 4-byte offset (R382). -/
def reg32At (off : Nat) : Option Reg :=
  match off with
  | 0x0000 => some .boot
  | 0x0008 => some .compat
  | 0x0010 => some .place
  | 0x0018 => some .rstctl
  | 0x0020 => some .health
  | 0x0028 => some .fltctl
  | _ =>
    (regIndex off 0x0600 4 4).map Reg.vfalloc <|> (regIndex off 0x0700 4 32).map Reg.dieh <|> (regIndex off 0x0A00 4 64).map Reg.frcmd
      <|> (regIndex off 0x1000 4 640).map Reg.coreown <|> (regIndex off 0x2000 4 640).map Reg.coreflt
      <|> (regIndex off 0x202000 4 64).map Reg.fresp <|> (regIndex off 0x203000 4 64).map Reg.fctl
      <|> (dieWindow off).bind (fun p =>
        if p.2 = 0x10 then some (.ssd p.1) else if p.2 = 0x1000 then some (.stkTemp p.1) else if p.2 = 0x1004 then some (.stkTctl p.1)
        else (regIndex p.2 0x100 4 64).map (Reg.tway p.1) <|> (regIndex p.2 0x1100 4 16).map (Reg.stkFrep p.1))
      <|> (coreWindow off).bind (fun p =>
        if p.2 = 0x200 then some (.inkStat p.1) else if p.2 = 0x400 then some (.cwin p.1) else if p.2 = 0x404 then some (.ctol p.1)
        else if p.2 = 0x408 then some (.fstat p.1) else if p.2 = 0x500 then some (.pgctl p.1) else none)

/-- The register of a queue at an offset from the queue registers (R224). -/
def queueReg (o : Nat) : Option Reg :=
  let q := o / 32
  if 16384 ≤ q then none else
  match o % 32 with
  | 0 => some (.qring q)
  | 8 => some (.qrep q)
  | 16 => some (.qctl q)
  | 24 => some (.qptr q)
  | _ => none

/-- The 64-bit register, or 64-bit word of a wider one, at an 8-byte offset (R382). -/
def reg64At (off : Nat) : Option Reg :=
  if off = 0x200 then some .idmb
  else if 0x110000 ≤ off ∧ off < 0x190000 then queueReg (off - 0x110000)
  else if off = 0x200800 then some .l2pool
  else if 0x300000 ≤ off ∧ off < 0x340000 then some (.plz (off - 0x300000))
  else
    (regIndex off 0x0400 8 64).map Reg.func <|> (regIndex off 0x0800 8 64).map Reg.frreq <|> (regIndex off 0x100000 8 32).map Reg.scbctl
      <|> (regIndex off 0x100200 8 32).map Reg.feedmap <|> (regIndex off 0x200000 8 64).map Reg.tbase
      <|> (regIndex off 0x201000 16 64).map Reg.fqcfg <|> (regIndex off 0x201008 16 64).map Reg.fqptr
      <|> (regIndex off 0x210000 8 8192).map (fun i => Reg.win (i / 2) (i % 2))
      <|> (regIndex off 0x410000 8 4096).map (fun i => Reg.grp (i / 4) (i % 4))
      <|> (regIndex off 0x420000 8 2048).map (fun i => Reg.gerr (i / 2) (i % 2))
      <|> (regIndex off 0x500000 8 1024).map (fun i => Reg.ctrDie (i / 32) (i % 32 * 8))
      <|> (regIndex off 0x504000 8 512).map (fun i => Reg.ctrFunc (i / 8) (i % 8 * 8))
      <|> (dieWindow off).bind (fun p => if p.2 = 0x20 then some (.dcecc p.1) else if p.2 = 0x1020 then some (.stkEcc p.1) else none)
      <|> (coreWindow off).bind (fun p =>
        if p.2 = 0x208 then some (.inkEcc p.1)
        else (regIndex p.2 0 8 64).map (Reg.inkHt p.1) <|> (regIndex p.2 0x600 8 16).map (Reg.ctrSel p.1)
          <|> (regIndex p.2 0x680 8 16).map (Reg.ctrPc p.1))

/-- MOD_FUNCn (R257): PF, MGMT and LINK read 0 while the function does not exist. -/
def State.funcReg (s : State) (n : Nat) : Nat :=
  let f := s.func n
  (if f.ferr then 2 ^ 63 + f.fkind * 2 ^ 61 + f.fqueue * 2 ^ 47 else 0) + f.maxPrio * 2 ^ 8
    + (if s.funcExists n then 2 ^ 7 + b2n (decide (n < 4)) * 2 ^ 6 + b2n (s.isMgmt n) * 2 ^ 4 + s.funcLink n * 2 ^ 2 else 0)

/-- MMU_WINn (R220). -/
def Window.reg (w : Window) : Nat :=
  w.baseVa * 2 ^ 80 + w.size * 2 ^ 48 + w.srcGrp * 2 ^ 40 + w.tenant * 2 ^ 34 + b2n w.valid * 2 ^ 31 + b2n w.red * 4 + b2n w.wr * 2
    + b2n w.rd

/-- LIG_GRPg (R307). -/
def Group.value (g : Group) : Nat :=
  b2n g.valid * 2 ^ 255 + b2n g.trusted * 2 ^ 254 + g.tenant * 2 ^ 248 + g.gid * 2 ^ 232 + g.epoch * 2 ^ 216 + g.nm1 * 2 ^ 201
    + g.qoff * 2 ^ 192 + g.window * 2 ^ 180 + g.tmo * 2 ^ 164 + g.rankVa * 2 ^ 124 + g.setst * 2 ^ 122
    + (if g.setst = 2 then g.members else 0)

/-- A queue ring's register (R224). -/
def ringReg (base : BitVec 52) (size : Nat) (loc : Bool) : Nat := base.toNat * 2 ^ 12 + size * 2 ^ 8 + b2n loc

/-- SCB_FEEDMAPd (R275). -/
def Die.feedMapReg (d : Die) : Nat := ((List.range 7).map (fun i => SMap.get d.feedMap i 0x40 * 2 ^ (8 * i))).sum

/-- INK_HTn (R168): COUNT and BASE read 0 while STATE is not VALID. -/
def Handle.value (h : Handle) : Nat :=
  h.st * 2 ^ 62 + b2n h.wp * 2 ^ 61 + (if h.st = 1 then h.count * 2 ^ 16 + h.base else 0)

/-- Free tables of the level-2 pool (R208). -/
def State.l2free (s : State) : Nat := s.l2frames * 131072 - s.l2used.length

/-- The value of a register, or of one 64-bit word of it. (DEDUCED: log entry 51). -/
def State.regValue (s : State) (r : Reg) : Nat :=
  let m := s.mod
  match r with
  | .boot => m.boot
  | .compat => b2n m.locked * 2 ^ 31 + b2n m.reply * 2 + b2n m.evict
  | .place => b2n m.placeValid * 2 ^ 16 + s.moduleNo
  | .rstctl => b2n m.full * 2
  | .health => m.health
  | .fltctl => m.wdt * 2 ^ 16 + m.fwin
  | .vfalloc h => (s.link h).vfFirst * 2 ^ 8 + (s.link h).vfCount
  | .dieh d => let x := s.die d; b2n x.spareUsed * 2 ^ 31 + b2n x.mapping * 2 ^ 30 + (if x.spareUsed then x.spareCore else 0)
  | .frcmd _ => 0
  | .coreown i => let c := s.core i; b2n (s.coreBusy i) * 2 ^ 8 + (if c.owned then 2 ^ 7 + c.owner else 0)
  | .coreflt i => let c := s.core i; c.faults * 2 ^ 8 + b2n c.armed * 2 ^ 7 + c.lastKind
  | .idmb => b2n m.mbBusy * 2 ^ 63 + m.mbResult * 2 ^ 48 + m.mbRecord * 2 ^ 8 + m.mbOp * 2
  | .func n => s.funcReg n
  | .frreq n =>
    let f := s.func n
    b2n f.frBusy * 2 ^ 63 + f.frResult * 2 ^ 48 + b2n f.frWide * 2 ^ 22 + f.frFunc * 2 ^ 16 + b2n f.frAny * 2 ^ 15 + f.frDie * 2 ^ 10
      + f.frFrame * 2
  | .scbctl d => let x := s.die d; x.dbdrop * 2 ^ 48 + b2n x.thold * 2 ^ 16 + x.cgrace
  | .feedmap d => (s.die d).feedMapReg
  | .qring q => let x := s.queue q; ringReg x.ringBase x.ringSize x.ringLoc
  | .qrep q => let x := s.queue q; ringReg x.repBase x.repSize x.repLoc
  | .qctl q => let x := s.queue q; b2n x.en * 2 ^ 63 + b2n x.comm * 2 ^ 62 + x.prio * 2 ^ 59 + x.owner * 2 ^ 53 + x.vec * 2 ^ 42
  | .qptr q => let x := s.queue q; x.head * 2 ^ 48 + x.tail * 2 ^ 32 + x.rtail * 2 ^ 16 + x.rhead
  | .tbase n => let f := s.func n; b2n f.tbValid * 2 ^ 63 + f.tbBase * 2 ^ 21
  | .l2pool => s.l2free / 1024 * 2 ^ 48 + s.l2first * 2 ^ 25 + s.l2frames
  | .fqcfg n => let f := s.func n; f.fqBase.toNat * 2 ^ 12 + f.fqVec * 2 ^ 4 + b2n f.fqEn * 2 ^ 3 + f.fqSize
  | .fqptr n => let f := s.func n; f.fqDrop * 2 ^ 48 + f.fqTail * 2 ^ 16 + f.fqHead
  | .fresp _ => 0
  | .fctl n => let f := s.func n; f.tmo * 2 ^ 16 + f.hotth
  | .win n w => (s.window n).reg / 2 ^ (64 * w) % 2 ^ 64
  | .plz off => s.plzWord off
  | .grp g w => (s.group g).value / 2 ^ (64 * w) % 2 ^ 64
  | .gerr g w => if w = 0 then (s.group g).digX else (s.group g).dig0
  | .ctrDie d off => SMap.get (s.die d).ctrs off 0
  | .ctrFunc n off => SMap.get (s.func n).ctrs off 0
  | .ssd d => (s.die d).ssdIdle * 2 ^ 8 + (s.die d).ssdThresh
  | .dcecc d => let x := s.die d; x.dcPoison * 2 ^ 32 + x.dcUeClean * 2 ^ 16 + x.dcCorr
  | .tway d n => SMap.get (s.die d).tway n (if n < 4 then 0x7FFF else 0)
  | .stkTemp d => let x := s.die d; x.stkStep * 2 ^ 16 + x.stkRefr * 2 ^ 8 + x.stkTemp
  | .stkTctl d => (s.die d).stkHyst * 2 ^ 8 + (s.die d).stkT
  | .stkEcc d =>
    let x := s.die d
    (if x.stkUe then 2 ^ 63 + b2n x.stkScrubUe * 2 ^ 62 + x.stkUeLine * 2 ^ 30 else 0) + x.stkCorr
  | .stkFrep d n => SMap.get (s.die d).frep n 0
  | .inkHt k n => ((s.core k).handle n).value
  | .inkStat k => let c := s.core k; b2n c.inkClearing * 2 ^ 31 + c.handleUse.1 * 2 ^ 16 + c.handleUse.2
  | .inkEcc k =>
    let c := s.core k
    (if c.eccUe then 2 ^ 63 + b2n c.eccScrub * 2 ^ 62 + c.eccRow * 2 ^ 32 else 0) + c.eccCorr
  | .cwin k => (s.core k).cwin
  | .ctol k => (s.core k).ctolFp16 * 2 ^ 8 + (s.core k).ctolBf16
  | .fstat k => (s.core k).fstat.value
  | .pgctl k =>
    let c := s.core k
    b2n (c.vgu == .on) * 2 ^ 25 + b2n (c.vxu == .on) * 2 ^ 24 + b2n c.gkeep * 2 ^ 17 + b2n c.xkeep * 2 ^ 16 + c.pgIdle
  | .ctrSel k i => (SMap.get (s.core k).ctrSel i 0).toNat
  | .ctrPc k i => SMap.get (s.core k).ctrPc i 0

/-- The core of a register in a core window. -/
def Reg.core : Reg → Option Nat
  | .inkHt k _ | .inkStat k | .inkEcc k | .cwin k | .ctol k | .fstat k | .pgctl k | .ctrSel k _ | .ctrPc k _ => some k
  | _ => none

/-- The core's window is closed while the core is mapped out (R384). -/
def State.windowClosed (s : State) (r : Reg) : Bool :=
  match r.core with
  | some k => (s.die (k / 20)).mapping && (s.die (k / 20)).spareCore == k % 20
  | none => false

/-- A function owns a core. -/
def State.ownsKey (s : State) (fn k : Nat) : Bool := (s.core k).owned && (s.core k).owner == fn

/-- The register shows its value to a function; to any other it reads 0 (R377, R379, R383 and each register's chapter).
(DEDUCED: log entry 51). -/
def State.regReads (s : State) (fn : Nat) (r : Reg) : Bool :=
  let mgmt := s.isMgmt fn
  match r with
  | .coreown i | .coreflt i => mgmt || s.ownsKey fn i
  | .idmb | .ctrDie _ _ => mgmt
  | .frreq n | .fqcfg n | .fqptr n | .ctrFunc n _ => mgmt || fn == n
  | .qring q | .qrep q | .qctl q | .qptr q => mgmt || (s.queue q).owner == fn
  | .win n _ => mgmt || (s.window n).tenant == fn
  | .grp g _ | .gerr g _ => mgmt || (s.group g).tenant == fn
  | .plz off => mgmt || !(decide (0x4000 ≤ off ∧ off < 0x8000))
  | .ctrSel k _ | .ctrPc k _ => mgmt || s.ownsKey fn k
  | _ => true

/-- What a function reads in a register. (DEDUCED: log entry 51). -/
def State.regRead (s : State) (fn : Nat) (r : Reg) : Nat :=
  if s.regReads fn r && !(s.windowClosed r) then s.regValue r else 0

/-- SCB_QRINGq or SCB_QREPq (R224): BASE is the owner's; every field is ignored while EN is 1, and a SIZE above 10 is stored
as 10. -/
def State.ringWrite (s : State) (fn q : Nat) (w : Word) (reply : Bool) : State :=
  let x := s.queue q
  let own := x.owner == fn
  if x.en || !(own || s.isMgmt fn) then s else
  let size := min 10 (fld w 8 4)
  let base (old : BitVec 52) : BitVec 52 := if own then BitVec.ofNat 52 (fld w 12 52) else old
  s.updQueue q (fun x =>
    if reply then { x with repBase := base x.repBase, repSize := size, repLoc := w.getLsbD 0 }
    else { x with ringBase := base x.ringBase, ringSize := size, ringLoc := w.getLsbD 0 })

/-- MOD_VFALLOCh (R257). (DEDUCED: log entry 54). -/
def State.vfallocWrite (s : State) (h : Nat) (w : Word) : State :=
  let first := fld w 8 6
  let count := fld w 0 6
  let meets (i : Nat) : Bool :=
    let l := s.link i
    i != h && l.vfCount != 0 && decide (first < l.vfFirst + l.vfCount ∧ l.vfFirst < first + count)
  if (s.link h).numVfs ≠ 0 ∨ 64 < first + count ∨ first < 4 ∨ 60 < count ∨ (count ≠ 0 ∧ (List.range 4).any meets) then s
  else s.updLink h (fun l => { l with vfFirst := first, vfCount := count })

/-- SCB_FEEDMAPd (R275): 0x41 and above are stored as 0x40. -/
def Die.setFeedMap (d : Die) (w : Word) : Die :=
  { d with feedMap := (List.range 7).map (fun i => (i, min 0x40 (fld w (8 * i) 7))) }

/-- MOD_IDMB (R369): GO sends the request; ignored while BUSY. -/
def State.idmbWrite (s : State) (fn : BitVec 6) (w : Word) (go : Bool) : State :=
  if s.mod.mbBusy then s else
  let s1 := s.updMod (fun m => { m with mbRecord := fld w 8 4, mbOp := fld w 1 3 })
  if go then s1.mmcRequest (.mailbox fn) (fld w 1 3) (fld w 8 4) [] else s1

/-- A word of LIG_GRPg (R386): the fields of that word; the last word starts or ends the group. -/
def State.groupWord (s : State) (g word : Nat) (w : Word) : State :=
  let v := ins (BitVec.ofNat 256 (s.group g).value) (64 * word) 64 w.toNat
  if word = 3 then s.groupWrite g v
  else if s.ligOps.any (fun o => o.group == g) then s
  else s.updGroup g (fun x => { x with window := fld v 180 12, tmo := fld v 164 16, rankVa := fld v 124 40 })

/-- MXU_FSTAT (R86): clearing VALID clears the fields. -/
def Fstat.clear (f : Fstat) (valid ovr : Bool) : Fstat :=
  let g : Fstat := if valid then { ovr := f.ovr } else f
  if ovr then { g with ovr := false } else g

/-- A write of a PLZ_ word by the managing function (R280, R294, R295, R304, R364): `w` is the word with the written half in it,
`o` the written bits. -/
def State.plzWrite (s : State) (off : Nat) (w o mask : Word) : State :=
  if off = 0 then s.updFab (fun f => f.setCtl w)
  else if 0x100 ≤ off ∧ off < 0x200 then (if mask.getLsbD 63 then s.portEnable ((off - 0x100) / 8) (o.getLsbD 63) else s)
  else if 0x400 ≤ off ∧ off < 0x800 then
    (if off % 32 = 24 ∧ o.getLsbD 63 then s.updPort ((off - 0x400) / 32) (fun p => { p with vlog := {} }) else s)
  else if off = 0x3000 then s.fmWrite ((w &&& ~~~1#64) ||| (o &&& 1#64))
  else if off = 0x3008 then (s.updFab (fun f => { f with fmArg := fld w 0 32 }))
  else if 0x10000 ≤ off ∧ off < 0x12000 then s.updFab (fun f => { f with routes := SMap.set f.routes ((off - 0x10000) / 8) (Route.parse w) })
  else s

/-- MMU_FRESPn (R216): RETRY or DECLINE; a reserved ACTION changes nothing. -/
def State.frespWrite (s : State) (n : Nat) (w : Word) : State :=
  match fld w 16 2 with
  | 0 => s.answerFault n (fld w 0 16) true
  | 1 => s.answerFault n (fld w 0 16) false
  | _ => s

/-- MMU_FQCFGn (R215): ignored while EN is 1 and a record is outstanding. -/
def State.fqcfgWrite (s : State) (n : Nat) (w : Word) : State :=
  let f := s.func n
  if f.fqEn && s.dies.any (fun p => p.2.faults.any (fun x => x.fn == n)) then s
  else s.updFunc n (fun f => { f with
    fqBase := BitVec.ofNat 52 (fld w 12 52), fqVec := fld w 4 8, fqEn := w.getLsbD 3, fqSize := fld w 0 3 })

/-- A write of bits `mask` of a register by a function under the register's access codes (R10, R12, R385); `v` holds the bits.
(DEDUCED: log entry 51). -/
def State.regWrite (s : State) (fn : BitVec 6) (r : Reg) (v mask : Word) : State :=
  let n := fn.toNat
  let mgmt := s.isMgmt n
  let w := (BitVec.ofNat 64 (s.regValue r) &&& ~~~mask) ||| (v &&& mask)
  let o := v &&& mask
  let byMgmt (t : State) : State := if mgmt then t else s
  let byPf (k : Nat) (t : State) : State := if s.ownsKey n k && decide (n < 4) then t else s
  let byBoth (k : Nat) (t : State) : State := if s.ownsKey n k || mgmt then t else s
  if s.windowClosed r then s else
  match r with
  | .compat => s.compat n (w.setWidth 32)
  | .rstctl => byMgmt (
      let s1 := s.updMod (fun m => { m with full := w.getLsbD 1 })
      if o.getLsbD 0 && s.diesRun then s1.moduleReset else s1)
  | .fltctl => byMgmt (s.updMod (fun m => { m with wdt := max 16 (fld w 16 5), fwin := fld w 0 16 }))
  | .vfalloc h => byMgmt (s.vfallocWrite h w)
  | .frcmd k => if k = n then (match fld o 0 2 with | 1 => s.allocFrame k | 2 => s.freeFrame k | _ => s) else s
  | .coreown i => s.coreOwn n i (w.setWidth 32)
  | .idmb => byMgmt (s.idmbWrite fn w (o.getLsbD 0))
  | .func k =>
    let s1 := if k = n && o.getLsbD 63 then s.updFunc k (fun f => { f with ferr := false, fkind := 0, fqueue := 0 }) else s
    if mgmt then s1.updFunc k (fun f => { f with maxPrio := fld w 8 3 }) else s1
  | .frreq k =>
    if k = n then s.updFunc k (fun f => { f with
      frWide := w.getLsbD 22, frFunc := if mgmt then fld w 16 6 else f.frFunc, frAny := w.getLsbD 15, frDie := fld w 10 5
      frFrame := fld w 1 9 })
    else s
  | .scbctl d => byMgmt (s.updDie d (fun x => { x with dbdrop := if fld o 48 16 = 0 then x.dbdrop else 0, cgrace := fld w 0 16 }))
  | .feedmap d => byMgmt (s.updDie d (fun x => x.setFeedMap w))
  | .qring q => s.ringWrite n q w false
  | .qrep q => s.ringWrite n q w true
  | .qctl q => s.qctlWrite n q w
  | .qptr q => if (s.queue q).owner == n then s.updQueue q (fun x => { x with rhead := fld w 0 16 }) else s
  | .tbase k => s.tbaseWrite n k w
  | .l2pool => s.l2poolWrite n w
  | .fqcfg k => if k = n then s.fqcfgWrite k w else s
  | .fqptr k =>
    if k = n then s.updFunc k (fun f => { f with fqDrop := if fld o 48 16 = 0 then f.fqDrop else 0, fqHead := fld w 0 12 }) else s
  | .fresp k => if k = n || mgmt then s.frespWrite k o else s
  | .fctl k => byMgmt (s.updFunc k (fun f => { f with tmo := fld w 16 8, hotth := fld w 0 16 }))
  | .plz off => byMgmt (s.plzWrite off w o mask)
  | .grp g i => byMgmt (s.groupWord g i w)
  | .ssd d => byMgmt (s.updDie d (fun x => { x with ssdIdle := max 1 (fld w 8 8), ssdThresh := fld w 0 8 }))
  | .tway d k => byMgmt (s.updDie d (fun x => { x with tway := SMap.set x.tway k (fld w 0 16) }))
  | .stkTctl d => byMgmt (s.updDie d (fun x => { x with stkHyst := max 1 (min 8 (fld w 8 4)), stkT := max 80 (min 100 (fld w 0 8)) }))
  | .stkEcc d =>
    byMgmt (if o.getLsbD 63 then s.updDie d (fun x => { x with stkUe := false, stkScrubUe := false, stkUeLine := 0 }) else s)
  | .inkEcc k =>
    byPf k (if o.getLsbD 63 then s.updCore k (fun c => { c with eccUe := false, eccScrub := false, eccRow := 0 }) else s)
  | .cwin k => byBoth k (s.updCore k (fun c => { c with cwin := min 4096 (fld w 0 13) }))
  | .ctol k => byMgmt (s.updCore k (fun c => { c with ctolFp16 := min 16 (fld w 8 6), ctolBf16 := min 16 (fld w 0 6) }))
  | .fstat k => byMgmt (s.updCore k (fun c => { c with fstat := c.fstat.clear (o.getLsbD 31) (o.getLsbD 30) }))
  | .pgctl k => byPf k (s.updCore k (fun c => { c with gkeep := w.getLsbD 17, xkeep := w.getLsbD 16, pgIdle := fld w 0 16 }))
  | .ctrSel k i => byBoth k (s.updCore k (fun c => { c with ctrSel := SMap.set c.ctrSel i (w &&& 0xF80FF#64) }))
  | .ctrPc k i => byBoth k (s.updCore k (fun c => { c with ctrPc := SMap.set c.ctrPc i (fld w 0 48) }))
  | .boot | .place | .health | .dieh _ | .coreflt _ | .win _ _ | .gerr _ _ | .ctrDie _ _ | .ctrFunc _ _ | .dcecc _
  | .stkTemp _ | .stkFrep _ _ | .inkHt _ _ | .inkStat _ => s

/-- A naturally aligned 4-byte write (R385). -/
def State.write4 (s : State) (fn : BitVec 6) (off v : Nat) : State :=
  match reg32At off with
  | some r => s.regWrite fn r (BitVec.ofNat 64 (v % 2 ^ 32)) 0xFFFFFFFF#64
  | none =>
    match reg64At (off / 8 * 8) with
    | some r =>
      let sh := off % 8 * 8
      s.regWrite fn r (BitVec.ofNat 64 (v % 2 ^ 32 * 2 ^ sh)) (BitVec.ofNat 64 ((2 ^ 32 - 1) * 2 ^ sh))
    | none => s

/-- A naturally aligned 8-byte write: of one 64-bit register, or of two 32-bit registers, the lower address first (R385). -/
def State.write8 (s : State) (fn : BitVec 6) (off v : Nat) : State :=
  match reg64At off with
  | some r => s.regWrite fn r (BitVec.ofNat 64 v) (BitVec.allOnes 64)
  | none => (s.write4 fn off (v % 2 ^ 32)).write4 fn (off + 4) (v / 2 ^ 32 % 2 ^ 32)

/-- The three buffers that take wider accesses (R385). -/
inductive Buffer where
  | iddata | fmdata | msix
  deriving DecidableEq, Repr

/-- The buffer of an offset, with the offset in it. -/
def bufferAt (off : Nat) : Option (Buffer × Nat) :=
  if 0x300 ≤ off ∧ off < 0x400 then some (.iddata, off - 0x300)
  else if 0x302000 ≤ off ∧ off < 0x303000 then some (.fmdata, off - 0x302000)
  else if 0x0F000000 ≤ off ∧ off < 0x0F008000 then some (.msix, off - 0x0F000000)
  else none

/-- The pending-bit array of a function (R259, R261): 2,048 bits. -/
def Func.pba (f : Func) : List Byte :=
  (List.range 256).map (fun i => BitVec.ofNat 8 (((List.range 8).map (fun j => b2n (f.msixPend.contains (8 * i + j)) * 2 ^ j)).sum))

/-- The byte that a function reads at an offset of BAR0: of a buffer, of the pending-bit array, of a register, or 0 where there is
none (R259, R381). MOD_IDDATA shows its bytes to the managing function (R369). -/
def State.barByte (s : State) (fn off : Nat) : Byte :=
  match bufferAt off with
  | some (.iddata, o) => if s.isMgmt fn then BitVec.ofNat 8 (Memory.readLe s.mod.mbData o 1) else 0
  | some (.fmdata, o) => BitVec.ofNat 8 (Memory.readLe s.fab.fmData o 1)
  | some (.msix, o) => ((s.func fn).vector (o / 16)).extractLsb' (8 * (o % 16)) 8
  | none =>
    if 0x0F008000 ≤ off ∧ off < 0x0F008100 then (s.func fn).pba.getD (off - 0x0F008000) 0 else
    match reg32At (off / 4 * 4), reg64At (off / 8 * 8) with
    | some r, _ => BitVec.ofNat 8 (s.regRead fn r / 2 ^ (8 * (off % 4)))
    | none, some r => BitVec.ofNat 8 (s.regRead fn r / 2 ^ (8 * (off % 8)))
    | none, none => 0

/-- Writes a byte of a function's MSI-X table; the reserved bits of the vector control word stay 0. -/
def Func.msixByte (f : Func) (off : Nat) (b : Byte) : Func :=
  let e := ins (f.vector (off / 16)) (8 * (off % 16)) 8 b.toNat
  { f with msix := SMap.set f.msix (off / 16) (e &&& BitVec.ofNat 128 (2 ^ 97 - 1)) }

/-- An aligned write into a buffer: MOD_IDDATA and PLZ_FMDATA of the managing function, the MSI-X table of each function (R261,
R364, R369). -/
def State.bufferWrite (s : State) (fn : Nat) (b : Buffer) (off : Nat) (bs : List Byte) : State :=
  match b with
  | .iddata => if s.isMgmt fn then s.updMod (fun m => { m with mbData := Memory.writeBytes m.mbData off bs }) else s
  | .fmdata => if s.isMgmt fn then s.updFab (fun f => { f with fmData := Memory.writeBytes f.fmData off bs }) else s
  | .msix => (s.updFunc fn (fun f => (bs.zipIdx).foldl (fun f p => f.msixByte (off + p.2) p.1) f)).flushMsix fn

/-- The access is aligned to its own size, a power of two. -/
def aligned (off w : Nat) : Bool := (w == 4 || w == 8 || w == 16 || w == 32 || w == 64) && off % w == 0

/-- A read of some bytes of BAR0 (R385): the bytes that it covers, or none, Unsupported Request, for one above 8 bytes that is
not an aligned access to a buffer. -/
def State.barRead (s : State) (fn off width : Nat) : Option (List Byte) :=
  if decide (width ≤ 8) || ((bufferAt off).isSome && aligned off width) then some ((List.range width).map (fun i => s.barByte fn (off + i)))
  else none

/-- REGISTER_WRITE: a write of some bytes to BAR0 (R381 to R385). -/
def State.barWrite (s : State) (fn : BitVec 6) (off width value : Nat) : State :=
  let bad : State := if width ≤ 8 then s else s.aerLog fn.toNat 0
  if !(s.funcExists fn.toNat) then s else
  match bufferAt off with
  | some (b, o) => if aligned off width then s.bufferWrite fn.toNat b o (leBytes width value) else bad
  | none =>
    if width = 4 ∧ off % 4 = 0 then s.write4 fn off value
    else if width = 8 ∧ off % 8 = 0 then s.write8 fn off value
    else bad

/-- REGISTER_WRITE. -/
def execRegisterWrite (fn : BitVec 6) (offset : BitVec 28) (width : BitVec 7) (value : BitVec 512) (s : State) : Result :=
  .next (s.barWrite fn offset.toNat width.toNat value.toNat)

end Sys2Proof.Machine
end

