-- ==== Sys2Proof/Machine/Scalar.lean ====
section
/-! DEFINITION. The integer, jump and FP64 instructions of the scalar core (R142, R147, R148). -/

namespace Sys2Proof.Machine

/-- SETK: xd = K. -/
def execSetk (c : CtxRef) (w : Word32) (s : State) : Result :=
  s.issueReg .setk c w (fun x => x.wx (wRd w) (BitVec.ofInt 64 (wKW w)))

/-- ADDPC: xd = pc + K × 4, of the instruction's own address. -/
def execAddpc (c : CtxRef) (w : Word32) (s : State) : Result :=
  s.issueReg .addpc c w (fun x => x.wx (wRd w) (x.pc - 4 + BitVec.ofInt 64 (4 * wKW w)))

/-- GOL: xd = pc + 4, then pc = pc + K × 4. -/
def execGol (c : CtxRef) (w : Word32) (s : State) : Result :=
  s.issueReg .gol c w (fun x => { x.wx (wRd w) x.pc with pc := x.pc - 4 + BitVec.ofInt 64 (4 * wKW w) })

/-- The target of GOR: x[rs1] + K × 4. -/
def gorTarget (x : Ctx) (w : Word32) : Word := x.rx (wRs1 w) + BitVec.ofInt 64 (4 * wKK w)

/-- GOR: xd = pc + 4, then pc = x[rs1] + K × 4; a target that is no multiple of 4 raises misaligned-access. -/
def execGor (c : CtxRef) (w : Word32) (s : State) : Result :=
  s.issue .gor c w (fun s =>
    let t := gorTarget (s.ctxOf c) w
    if t.toNat % 4 ≠ 0 then s.takeTrap c 3 t
    else s.commit c (fun x => { x.wx (wRd w) x.pc with pc := t }))

/-- JEQ to JLEU: pc = pc + K × 4 when the relation holds. -/
def execJcond (c : CtxRef) (w : Word32) (s : State) : Result :=
  s.issueReg .jcond c w (fun x =>
    if jumpTaken (wF3 w) (x.rx (wRs1 w)) (x.rx (wRs2 w)) then
      { x with pc := x.pc - 4 + BitVec.ofInt 64 (4 * wKP w) } else x)

/-- ADDK to SHK. -/
def execAluImmediate (c : CtxRef) (w : Word32) (s : State) : Result :=
  s.issueReg .aluImm c w (fun x => x.wx (wRd w) (aluImmOp (wF3 w) (x.rx (wRs1 w)) (wKK w) (wNumK w)))

/-- ADD to XOR, CLT, CLTU. -/
def execAluRegister (c : CtxRef) (w : Word32) (s : State) : Result :=
  s.issueReg .aluReg c w (fun x => x.wx (wRd w) (aluOp (wF7 w) (wF3 w) (x.rx (wRs1 w)) (x.rx (wRs2 w))))

/-- MUL, MULHS, MULHU. -/
def execMultiply (c : CtxRef) (w : Word32) (s : State) : Result :=
  s.issueReg .multiply c w (fun x => x.wx (wRd w) (mulOp (wF3 w) (x.rx (wRs1 w)) (x.rx (wRs2 w))))

/-- QUO, QUOU, MOD, MODU. -/
def execDivide (c : CtxRef) (w : Word32) (s : State) : Result :=
  s.issueReg .divide c w (fun x => x.wx (wRd w) (divOp (wF3 w) (x.rx (wRs1 w)) (x.rx (wRs2 w))))

/-- An FP64 result into fd with its flags into ISA_XFLG. -/
def Ctx.wfRes (x : Ctx) (r : Nat) (v : FRes) : Ctx := (x.wf r (BitVec.ofNat 64 v.bits)).raise v.flags

/-- The FP64 arithmetic result of a word: DFMA in major 0x19, the others by FUNCT7. -/
def fpArithRes (x : Ctx) (w : Word32) : FRes :=
  let a := (x.rf (wRs1 w)).toNat
  let b := (x.rf (wRs2 w)).toNat
  if wMajor w = 0x19 then fp64Fma a b (x.rf (wRd w)).toNat else fp64Op (wF7 w) a b

/-- DADD, DSUB, DMUL, DDIV, DSQRT, DFMA. -/
def execFpArith (c : CtxRef) (w : Word32) (s : State) : Result :=
  s.issueReg .fpArith c w (fun x => x.wfRes (wRd w) (fpArithRes x w))

/-- DMIN, DMAX: the rule of VMIN and VMAX (R115). -/
def execFpMinmax (c : CtxRef) (w : Word32) (s : State) : Result :=
  s.issueReg .fpMinmax c w (fun x =>
    let r := minMax .fp64 (wF7 w == 6) (x.rf (wRs1 w)).toNat (x.rf (wRs2 w)).toNat
    x.wfRes (wRd w) { bits := r.1, flags := r.2 })

/-- The relation of DCEQ, DCLT, DCLE by FUNCT7. -/
def fpRel (f7 : Nat) : Nat := if f7 = 7 then 0 else f7 - 6

/-- DCEQ, DCLT, DCLE: 1 or 0 to xd; a NaN operand gives 0. -/
def execFpCompare (c : CtxRef) (w : Word32) (s : State) : Result :=
  s.issueReg .fpCompare c w (fun x =>
    let r := fpCompare .fp64 (fpRel (wF7 w)) (x.rf (wRs1 w)).toNat (x.rf (wRs2 w)).toNat
    (x.wx (wRd w) (boolWord r.1)).raise r.2)

/-- DABS, DNEG, DCSGN: on the sign bit alone, with no flag. -/
def execFpSign (c : CtxRef) (w : Word32) (s : State) : Result :=
  s.issueReg .fpSign c w (fun x => x.wf (wRd w) (fp64Sign (wF7 w) (x.rf (wRs1 w)) (x.rf (wRs2 w))))

/-- DTOI. -/
def execDtoi (c : CtxRef) (w : Word32) (s : State) : Result :=
  s.issueReg .dtoi c w (fun x =>
    let r := fp64ToInt (x.rf (wRs1 w)).toNat
    (x.wx (wRd w) (BitVec.ofNat 64 r.bits)).raise r.flags)

/-- ITOD. -/
def execItod (c : CtxRef) (w : Word32) (s : State) : Result :=
  s.issueReg .itod c w (fun x => x.wfRes (wRd w) (intToFp64 (x.rx (wRs1 w))))

/-- DTOX, XTOD: 64 bits moved unchanged, with no flag. -/
def execFpMove (c : CtxRef) (w : Word32) (s : State) : Result :=
  s.issueReg .fpMove c w (fun x =>
    if wF7 w = 15 then x.wx (wRd w) (x.rf (wRs1 w)) else x.wf (wRd w) (x.rx (wRs1 w)))

/-- An instruction of an absent coprocessor, cp3 to cp14: its number in ISA_HARG, and no effect (R149). -/
def execCoprocessorAbsent (c : CtxRef) (w : Word32) (s : State) : Result :=
  s.issue .cpAbsent c w (fun s => s.takeTrap c 1 (BitVec.ofNat 64 (wMajor w - 0x71)))

end Sys2Proof.Machine
end

