-- ==== Sys2Proof/Machine/VecRes.lean ====
section
/-! DEFINITION. Reservoir reads by the vector engine: the epilogue descriptor (R130), its checks (R132), the epilogue
(R98 to R100) and the VRES instructions (R131). -/

namespace Sys2Proof.Machine

/-- An epilogue descriptor (R130). -/
structure EdDesc where
  ofmt : BitVec 32
  base : Nat
  bank : Nat
  width : Nat
  trow : Bool
  op : Nat
  mus : Bool
  thandle : Nat
  pitch : Nat
  trowbase : Nat
  tfmt : BitVec 32
  reserved : Bool
  deriving DecidableEq, Repr

/-- Reads an epilogue descriptor; a WIDTH field of 0 means 128. -/
def EdDesc.parse (d : BitVec 128) : EdDesc :=
  { ofmt := d.extractLsb' 0 32, base := fld d 32 14, bank := fld d 46 1,
    width := if fld d 47 7 = 0 then 128 else fld d 47 7, trow := d.getLsbD 54, op := fld d 55 2, mus := d.getLsbD 57,
    thandle := fld d 58 6, pitch := fld d 64 15, trowbase := fld d 79 14, tfmt := d.extractLsb' 93 32,
    reserved := fld d 125 3 != 0 }

/-- The entry of position e (R131). -/
def EdDesc.entry (d : EdDesc) (x e : Nat) : Nat := d.base + x + e / d.width * d.pitch + e % d.width

/-- The element of t that position e takes (R131). -/
def EdDesc.telem (d : EdDesc) (x e : Nat) : Nat := if d.trow then e % d.width else x + e

/-- The number of an entry with its bank. -/
def EdDesc.number (d : EdDesc) (entry : Nat) : Nat := d.bank * 16384 + entry

/-- The format words of a VRES instruction's descriptor when it passes the checks of R132 that the entries do not
decide: OFMT, and TFMT when OP is not 0. -/
def EdDesc.words (d : EdDesc) (vrrd : Bool) : Option (FmtWord × Option FmtWord) :=
  if d.op = 3 || d.pitch = 0 || 16384 < d.pitch || d.reserved then none else
  match FmtWord.parse d.ofmt with
  | none => none
  | some o =>
    if vrrd && o.scale == 2 then none
    else if d.op = 0 then some (o, none)
    else match FmtWord.parse d.tfmt with
      | none => none
      | some t => if t.scale = 2 then none else some (o, some t)

/-- A reservoir read waits for passes in flight that write its entries, for the context's own waiting requests, and for
reservoir stores on their way (R78). -/
def Core.resBusy (k : Core) (j : Nat) (es : List Nat) : Bool :=
  k.inFlight es || (k.mmWait ++ k.group).any (fun q => q.ctx == j && q.touches.any (fun e => es.contains e))
    || k.ctxs.any (fun x => (x.2.vq ++ x.2.drain).any (fun o => o.stores.any (fun st =>
        match st with | .res e _ => es.contains e | _ => false)))

/-- Both halves of every entry, since an entry of either bank may be HATCHED. -/
def bothBanks (es : List Nat) : List Nat := es.flatMap (fun e => [e % 16384, e % 16384 + 16384])

/-- A VRES instruction: its descriptor's checks, the entries of its active positions in range (R132), and the wait of
R78; then its effect on the descriptor, the format words, the entry offset and the active positions. -/
def State.issueRes (s : State) (row : Row) (c : CtxRef) (w : Word32) (regs : List Nat) (raw : Bool)
    (f : EdDesc → FmtWord → Option FmtWord → Nat → List Nat → State → State) : Result :=
  s.issueVec row c w [] regs (fun s =>
    let x := s.ctxOf c
    let d := EdDesc.parse (SMap.get x.ed (vType w) 0)
    match d.words (row == .vrrd) with
    | none => s.trapOperand c w
    | some (o, t) =>
      let n := if raw then 32 else o.fmt.count
      let off := (x.rx (wRs1 w)).toNat
      let act := (List.range n).filter (x.active w)
      if act.any (fun e => decide (16384 ≤ d.entry off e)) then s.trapOperand c w
      else if (s.core c.key).resBusy c.idx (bothBanks (act.map (fun e => d.entry off e))) then s
      else f d o t off act s)

/-- VEDSET: an epilogue descriptor written (R130). (DESIGN CHOICE: log entry 14). -/
def execVedset (c : CtxRef) (w : Word32) (s : State) : Result :=
  s.issueVec .vedset c w [] [] (fun s =>
    (s.updCtxOf c (fun x => { x with ed := SMap.set x.ed (wRd w) (x.rx (wRs2 w) ++ x.rx (wRs1 w)) })).pushVec c {})

/-- The exact value of a position: x × μ, x × μ + t or x × μ × t (R99, R100). -/
def epilogue (op : Nat) (x mu t : FVal) : FVal × BitVec 5 :=
  let p := mulF x mu
  match op with
  | 0 => p
  | 1 => let r := addF p.1 t; (r.1, p.2 ||| r.2)
  | _ => let r := mulF p.1 t; (r.1, p.2 ||| r.2)

/-- The flags of the epilogue's one rounding (R100, R139). An integer output out of range sets OV and IX as an overflow
of that rounding, not IV. (DEDUCED: log entry 12). -/
def epiFlags (c : Conv) (v : FVal) : BitVec 5 :=
  if !v.isFin then 0
  else flagIf (c.ov || c.oor) (flagOV ||| flagIX) ||| flagIf c.un flagUN ||| flagIf c.ix flagIX

/-- μ (R130): f[s2] rounded to FP32, or 1. -/
def EdDesc.mu (d : EdDesc) (x : Ctx) (w : Word32) : FVal :=
  if d.mus then Fmt.fp32.decode (convert .fp32 true .rne (Fmt.fp64.decode (x.rf (wRs2 w)).toNat)).bits
  else .fin false 1 0

/-- The relative inkwell rows of t that the active positions take. -/
def EdDesc.tRows (d : EdDesc) (t : FmtWord) (off : Nat) (act : List Nat) : List Nat :=
  (act.map (fun e => d.trowbase + d.telem off e * t.fmt.width / 4096)).eraseReps

/-- The checks of the elements of t of the active positions through THANDLE (R132, R171); the answer is the handle's first
physical row. -/
def State.checkT (s : State) (c : CtxRef) (d : EdDesc) (t : Option FmtWord) (off : Nat) (act : List Nat)
    (f : Nat → State) : State :=
  match t with
  | none => f 0
  | some tw => s.inkChecked c d.thandle ((s.core c.key).checkRows d.thandle (d.tRows tw off act) false) f

/-- The elements of t of the active positions, read from the rows behind THANDLE. -/
def State.readT (s : State) (c : CtxRef) (d : EdDesc) (t : Option FmtWord) (off : Nat) (act : List Nat) (base : Nat)
    (f : (Nat → FVal) → State → State) : State :=
  match t with
  | none => f (fun _ => .fin false 0 0) s
  | some tw =>
    let wd := tw.fmt.width
    let rows := d.tRows tw off act
    if (s.ctxOf c).inkStoreMeets base rows then s else
    let k := s.core c.key
    s.inkReadable c d.thandle base rows
      (f (fun e =>
        let bit := d.telem off e * wd
        tw.value (fld (k.row (base + d.trowbase + bit / 4096)) (bit % 4096) wd) 0))

/-- The codes, offsets and effects of a reservoir read's positions (R98 to R100). -/
def State.readOut (s : State) (c : CtxRef) (w : Word32) (d : EdDesc) (o : FmtWord) (off : Nat) (tv : Nat → FVal) :
    List Nat × List Nat × Fx :=
  let x := s.ctxOf c
  let k := s.core c.key
  let n := o.fmt.count
  let mu := d.mu x w
  let ys := (List.range n).map (fun e =>
    if x.active w e then epilogue d.op (k.entryVal (d.number (d.entry off e))).value mu (tv e) else (.fin false 0 0, 0))
  let fl := ys.foldl (fun (a : BitVec 5) p => a ||| p.2) 0
  let r := encodeAll o n (x.active w) (fun e => (ys.getD e (.fin false 0 0, 0)).1) (o.draws none n x.curGen) epiFlags
  (r.1, r.2.1, r.2.2.join { fl := fl })

/-- VRRD: reservoir entries through the epilogue into vd. -/
def execVrrd (c : CtxRef) (w : Word32) (s : State) : Result :=
  s.issueRes .vrrd c w (keepsOld w) false (fun d o t off act s =>
    s.checkT c d t off act (fun base => s.readT c d t off act base (fun tv s =>
      let x := s.ctxOf c
      let n := o.fmt.count
      let r := s.readOut c w d o off tv
      let old := x.vreg (wRd w)
      let l := (List.range n).map (fun e =>
        if x.active w e then r.1.getD e 0 else if vMz w then 0 else fld old (o.fmt.width * e) o.fmt.width)
      s.pushVec c { VecOp.ofV (wRd w) (packV o.fmt.width l) r.2.2 with gen := o.genAfter none n x.curGen })))

/-- VRST: reservoir entries through the epilogue to a locator. With SCALE 2 there is no x[D + 1] for D = 31, and the
illegal-operand trap is taken. (DESIGN CHOICE: log entry 72). -/
def execVrst (c : CtxRef) (w : Word32) (s : State) : Result :=
  s.issueRes .vrst c w [] false (fun d o t off act s =>
    let x := s.ctxOf c
    let sc := o.scale == 2
    let l := x.rx (wRd w)
    let ol := x.rx (wRd w + 1)
    if sc && wRd w == 31 then s.trapOperand c w
    else if sc && x.awaitsReg (wRd w + 1) then s
    else
      let go (s : State) : State :=
        let n := o.fmt.count
        s.checkT c d t off act (fun base => s.planOut c l ol sc o.fmt.width n (x.active w) (fun p q s =>
          s.readT c d t off act base (fun tv s =>
            let r := s.readOut c w d o off tv
            s.storeOut c l ol sc o.fmt.width n (x.active w) p q r.1 r.2.1 (fun st s =>
              s.pushMem c { stores := st, flags := r.2.2.fl, sat := r.2.2.sat, flush := r.2.2.flush,
                            gen := o.genAfter none n x.curGen }))))
      s.locOk c l (if sc then s.locOk c ol (go s) else go s))

/-- VRRAW: 32 raw records into vd. -/
def execVrraw (c : CtxRef) (w : Word32) (s : State) : Result :=
  s.issueRes .vrraw c w (keepsOld w) true (fun d _ _ off _ s =>
    let x := s.ctxOf c
    let k := s.core c.key
    let old := x.vreg (wRd w)
    let l := (List.range 32).map (fun r =>
      if x.active w r then (k.entryVal (d.number (d.entry off r))).rawBits.toNat
      else if vMz w then 0 else fld old (512 * r) 512)
    s.pushVec c (VecOp.ofV (wRd w) (packV 512 l) {}))

/-- The entries that differ between two reservoirs, among some numbers, as stores. -/
def resStores (k : Core) (es : List Nat) : List VStore := es.eraseDups.map (fun e => VStore.res e (SMap.get k.res e {}))

/-- VRCOMB: 32 raw records combined into entries (R89). -/
def execVrcomb (c : CtxRef) (w : Word32) (s : State) : Result :=
  s.issueRes .vrcomb c w [wRd w] true (fun d _ _ off act s =>
    let v := (s.ctxOf c).vreg (wRd w)
    let r := act.foldl (fun (a : Core × ResCounts) e =>
      a.1.combineAt (d.number (d.entry off e)) (RVal.ofRaw (v.extractLsb' (512 * e) 512)) a.2) (s.core c.key, {})
    let es := act.flatMap (fun e =>
      let n := d.number (d.entry off e)
      if (RVal.ofRaw (v.extractLsb' (512 * e) 512)).tag.dom = 3 then [n % 16384, n % 16384 + 16384] else [n])
    s.pushVec c { stores := resStores r.1 es, mismatch := r.2.mismatch, resOvf := r.2.ovf })

/-- VRCLR: the entries of active positions become EMPTY; of a HATCHED entry both halves. -/
def execVrclr (c : CtxRef) (w : Word32) (s : State) : Result :=
  s.issueRes .vrclr c w [] false (fun d _ _ off act s =>
    let k := s.core c.key
    let es := act.flatMap (fun e =>
      let n := d.number (d.entry off e)
      if (k.entryVal n).tag.dom = 3 then [n % 16384, n % 16384 + 16384] else [n])
    s.pushVec c { stores := es.eraseDups.map (fun e => VStore.res e {}) })

end Sys2Proof.Machine
end

