-- ==== Sys2Proof/Machine/Dispatch.lean ====
section
/-! DEFINITION. One arm per command: what each does to everything but the queue of waiting commands. -/

namespace Sys2Proof.Machine

def exec (i : Instr) (s : State) : Host.Outcome State Fault Refusal :=
  match i with
  | .setk c w => Sys2Proof.Machine.execSetk c w s
  | .addpc c w => Sys2Proof.Machine.execAddpc c w s
  | .gol c w => Sys2Proof.Machine.execGol c w s
  | .gor c w => Sys2Proof.Machine.execGor c w s
  | .jcond c w => Sys2Proof.Machine.execJcond c w s
  | .load c w => Sys2Proof.Machine.execLoad c w s
  | .store c w => Sys2Proof.Machine.execStore c w s
  | .ldf c w => Sys2Proof.Machine.execLdf c w s
  | .stf c w => Sys2Proof.Machine.execStf c w s
  | .aluImmediate c w => Sys2Proof.Machine.execAluImmediate c w s
  | .aluRegister c w => Sys2Proof.Machine.execAluRegister c w s
  | .multiply c w => Sys2Proof.Machine.execMultiply c w s
  | .divide c w => Sys2Proof.Machine.execDivide c w s
  | .fpArith c w => Sys2Proof.Machine.execFpArith c w s
  | .fpMinmax c w => Sys2Proof.Machine.execFpMinmax c w s
  | .fpCompare c w => Sys2Proof.Machine.execFpCompare c w s
  | .fpSign c w => Sys2Proof.Machine.execFpSign c w s
  | .dtoi c w => Sys2Proof.Machine.execDtoi c w s
  | .itod c w => Sys2Proof.Machine.execItod c w s
  | .fpMove c w => Sys2Proof.Machine.execFpMove c w s
  | .atomic c w => Sys2Proof.Machine.execAtomic c w s
  | .fenceCore c w => Sys2Proof.Machine.execFenceCore c w s
  | .fenceDie c w => Sys2Proof.Machine.execFenceDie c w s
  | .fenceDev c w => Sys2Proof.Machine.execFenceDev c w s
  | .fenceSys c w => Sys2Proof.Machine.execFenceSys c w s
  | .fenceCode c w => Sys2Proof.Machine.execFenceCode c w s
  | .srd c w => Sys2Proof.Machine.execSrd c w s
  | .swr c w => Sys2Proof.Machine.execSwr c w s
  | .smw c w => Sys2Proof.Machine.execSmw c w s
  | .hret c w => Sys2Proof.Machine.execHret c w s
  | .pause c w => Sys2Proof.Machine.execPause c w s
  | .done c w => Sys2Proof.Machine.execDone c w s
  | .bmov c w => Sys2Proof.Machine.execBmov c w s
  | .bfill c w => Sys2Proof.Machine.execBfill c w s
  | .bcmp c w => Sys2Proof.Machine.execBcmp c w s
  | .bscan c w => Sys2Proof.Machine.execBscan c w s
  | .blockRepeatStep c w => Sys2Proof.Machine.execBlockRepeatStep c w s
  | .interruptEntry c => Sys2Proof.Machine.execInterruptEntry c s
  | .alarmExpire c => Sys2Proof.Machine.execAlarmExpire c s
  | .contextWatchdog c => Sys2Proof.Machine.execContextWatchdog c s
  | .coprocessorAbsent c w => Sys2Proof.Machine.execCoprocessorAbsent c w s
  | .mdset c w => Sys2Proof.Machine.execMdset c w s
  | .mm c w => Sys2Proof.Machine.execMm c w s
  | .mmAccept k => Sys2Proof.Machine.execMmAccept k s
  | .cursiveGroupClose k => Sys2Proof.Machine.execCursiveGroupClose k s
  | .arrayChecksumFault k f => Sys2Proof.Machine.execArrayChecksumFault k f s
  | .mmPassComplete k n => Sys2Proof.Machine.execMmPassComplete k n s
  | .vfp c w => Sys2Proof.Machine.execVfp c w s
  | .vint c w => Sys2Proof.Machine.execVint c w s
  | .vcmp c w => Sys2Proof.Machine.execVcmp c w s
  | .vxf c w => Sys2Proof.Machine.execVxf c w s
  | .vwake c w => Sys2Proof.Machine.execVwake c w s
  | .vcvt c w => Sys2Proof.Machine.execVcvt c w s
  | .vmv c w => Sys2Proof.Machine.execVmv c w s
  | .vbcx c w => Sys2Proof.Machine.execVbcx c w s
  | .vbcf c w => Sys2Proof.Machine.execVbcf c w s
  | .viota c w => Sys2Proof.Machine.execViota c w s
  | .vsldn c w => Sys2Proof.Machine.execVsldn c w s
  | .vslup c w => Sys2Proof.Machine.execVslup c w s
  | .vsumF c w => Sys2Proof.Machine.execVsumF c w s
  | .vmaxF c w => Sys2Proof.Machine.execVmaxF c w s
  | .vminF c w => Sys2Proof.Machine.execVminF c w s
  | .vsumI c w => Sys2Proof.Machine.execVsumI c w s
  | .vpopc c w => Sys2Proof.Machine.execVpopc c w s
  | .vfirst c w => Sys2Proof.Machine.execVfirst c w s
  | .vld c w => Sys2Proof.Machine.execVld c w s
  | .vst c w => Sys2Proof.Machine.execVst c w s
  | .vgath c w => Sys2Proof.Machine.execVgath c w s
  | .vscat c w => Sys2Proof.Machine.execVscat c w s
  | .vrrd c w => Sys2Proof.Machine.execVrrd c w s
  | .vrst c w => Sys2Proof.Machine.execVrst c w s
  | .vrraw c w => Sys2Proof.Machine.execVrraw c w s
  | .vrcomb c w => Sys2Proof.Machine.execVrcomb c w s
  | .vrclr c w => Sys2Proof.Machine.execVrclr c w s
  | .vedset c w => Sys2Proof.Machine.execVedset c w s
  | .vmsk c w => Sys2Proof.Machine.execVmsk c w s
  | .vectorCommit c => Sys2Proof.Machine.execVectorCommit c s
  | .vectorStoreDrain c => Sys2Proof.Machine.execVectorStoreDrain c s
  | .unitPowerDown k u => Sys2Proof.Machine.execUnitPowerDown k u s
  | .unitWakeDone k u => Sys2Proof.Machine.execUnitWakeDone k u s
  | .feedStart c w => Sys2Proof.Machine.execFeedStart c w s
  | .feedWait c w => Sys2Proof.Machine.execFeedWait c w s
  | .ligStart c w => Sys2Proof.Machine.execLigStart c w s
  | .ligWait c w => Sys2Proof.Machine.execLigWait c w s
  | .inkwellScrub k found => Sys2Proof.Machine.execInkwellScrub k found s
  | .inkwellClearDone k => Sys2Proof.Machine.execInkwellClearDone k s
  | .dcLineFill die line found => Sys2Proof.Machine.execDcLineFill die line found s
  | .evictionWriteback die slice => Sys2Proof.Machine.execEvictionWriteback die slice s
  | .ssdTrackerExpire die slice n => Sys2Proof.Machine.execSsdTrackerExpire die slice n s
  | .stackScrub die channel found => Sys2Proof.Machine.execStackScrub die channel found s
  | .stackTempMeasure die temp => Sys2Proof.Machine.execStackTempMeasure die temp s
  | .dieTempMeasure die temp => Sys2Proof.Machine.execDieTempMeasure die temp s
  | .thermalClockStep => Sys2Proof.Machine.execThermalClockStep s
  | .governorStep avgWatts steps => Sys2Proof.Machine.execGovernorStep avgWatts steps s
  | .sensorSample r => Sys2Proof.Machine.execSensorSample r s
  | .walkComplete die fn va a req => Sys2Proof.Machine.execWalkComplete die fn va a req s
  | .faultRecordWrite die fn page => Sys2Proof.Machine.execFaultRecordWrite die fn page s
  | .faultRetry fn n tag => Sys2Proof.Machine.execFaultRetry fn n tag s
  | .faultDecline fn n tag => Sys2Proof.Machine.execFaultDecline fn n tag s
  | .faultAnswerTimeout n tag => Sys2Proof.Machine.execFaultAnswerTimeout n tag s
  | .faultQueueHeadWrite fn n head => Sys2Proof.Machine.execFaultQueueHeadWrite fn n head s
  | .mmuTbaseWrite fn n v => Sys2Proof.Machine.execMmuTbaseWrite fn n v s
  | .tableInitDone n => Sys2Proof.Machine.execTableInitDone n s
  | .mmuL2poolWrite fn v => Sys2Proof.Machine.execMmuL2poolWrite fn v s
  | .doorbell fn queue w => Sys2Proof.Machine.execDoorbell fn queue w s
  | .packetFetch die => Sys2Proof.Machine.execPacketFetch die s
  | .commandStart c => Sys2Proof.Machine.execCommandStart c s
  | .replyWrite c => Sys2Proof.Machine.execReplyWrite c s
  | .launch c => Sys2Proof.Machine.execLaunch c s
  | .feedCopy t => Sys2Proof.Machine.execFeedCopy t s
  | .feedFill t => Sys2Proof.Machine.execFeedFill t s
  | .feedConvert t => Sys2Proof.Machine.execFeedConvert t s
  | .feedTileComplete t => Sys2Proof.Machine.execFeedTileComplete t s
  | .feedTransferComplete t => Sys2Proof.Machine.execFeedTransferComplete t s
  | .semSignal c => Sys2Proof.Machine.execSemSignal c s
  | .semWait c => Sys2Proof.Machine.execSemWait c s
  | .semWaitRetest c => Sys2Proof.Machine.execSemWaitRetest c s
  | .semWaitTimeout c => Sys2Proof.Machine.execSemWaitTimeout c s
  | .collAllreduce c => Sys2Proof.Machine.execCollAllreduce c s
  | .collRedscat c => Sys2Proof.Machine.execCollRedscat c s
  | .collAllgather c => Sys2Proof.Machine.execCollAllgather c s
  | .collBcast c => Sys2Proof.Machine.execCollBcast c s
  | .collAlltoall c => Sys2Proof.Machine.execCollAlltoall c s
  | .collBarrier c => Sys2Proof.Machine.execCollBarrier c s
  | .mapPage c => Sys2Proof.Machine.execMapPage c s
  | .mapInkwell c => Sys2Proof.Machine.execMapInkwell c s
  | .unmapPage c => Sys2Proof.Machine.execUnmapPage c s
  | .unmapInkwell c => Sys2Proof.Machine.execUnmapInkwell c s
  | .windowSet c => Sys2Proof.Machine.execWindowSet c s
  | .quotaSet c => Sys2Proof.Machine.execQuotaSet c s
  | .reclaim c => Sys2Proof.Machine.execReclaim c s
  | .reclaimDrainDone c => Sys2Proof.Machine.execReclaimDrainDone c s
  | .cancel c => Sys2Proof.Machine.execCancel c s
  | .cancelGraceExpire c => Sys2Proof.Machine.execCancelGraceExpire c s
  | .fence c => Sys2Proof.Machine.execFence c s
  | .hintMigrate c => Sys2Proof.Machine.execHintMigrate c s
  | .traceSet c => Sys2Proof.Machine.execTraceSet c s
  | .ctrSnapshot c => Sys2Proof.Machine.execCtrSnapshot c s
  | .scbQctlWrite fn queue v => Sys2Proof.Machine.execScbQctlWrite fn queue v s
  | .coreOwnWrite fn k v => Sys2Proof.Machine.execCoreOwnWrite fn k v s
  | .coreClearDone k => Sys2Proof.Machine.execCoreClearDone k s
  | .frameAllocate fn n => Sys2Proof.Machine.execFrameAllocate fn n s
  | .frameRelease fn n => Sys2Proof.Machine.execFrameRelease fn n s
  | .frameZeroDone die frame => Sys2Proof.Machine.execFrameZeroDone die frame s
  | .compatWrite fn v => Sys2Proof.Machine.execCompatWrite fn v s
  | .moduleReset cause => Sys2Proof.Machine.execModuleReset cause s
  | .powerOnReset => Sys2Proof.Machine.execPowerOnReset s
  | .pgInFall => Sys2Proof.Machine.execPgInFall s
  | .vinLoss => Sys2Proof.Machine.execVinLoss s
  | .dieRelease portDie n => Sys2Proof.Machine.execDieRelease portDie n s
  | .railFault => Sys2Proof.Machine.execRailFault s
  | .firmwareVerify a b => Sys2Proof.Machine.execFirmwareVerify a b s
  | .dieBringupDone badCores badFrames => Sys2Proof.Machine.execDieBringupDone badCores badFrames s
  | .linksStageEnd => Sys2Proof.Machine.execLinksStageEnd s
  | .discoveryMessage port serial hops => Sys2Proof.Machine.execDiscoveryMessage port serial hops s
  | .discoveryForward serial => Sys2Proof.Machine.execDiscoveryForward serial s
  | .discoveryEnd => Sys2Proof.Machine.execDiscoveryEnd s
  | .hostLinkUp up => Sys2Proof.Machine.execHostLinkUp up s
  | .hostLinkReset r => Sys2Proof.Machine.execHostLinkReset r s
  | .functionLevelReset n => Sys2Proof.Machine.execFunctionLevelReset n s
  | .hostReadCompletion r e => Sys2Proof.Machine.execHostReadCompletion r e s
  | .hostReadTimeout r => Sys2Proof.Machine.execHostReadTimeout r s
  | .bar4Read fn offset width => Sys2Proof.Machine.execBar4Read fn offset width s
  | .bar4Write fn offset bytes => Sys2Proof.Machine.execBar4Write fn offset bytes s
  | .msixUnmask n vec => Sys2Proof.Machine.execMsixUnmask n vec s
  | .registerWrite fn offset width value => Sys2Proof.Machine.execRegisterWrite fn offset width value s
  | .groupLoad fn group v => Sys2Proof.Machine.execGroupLoad fn group v s
  | .groupLoadDone group => Sys2Proof.Machine.execGroupLoadDone group s
  | .groupEnd fn group => Sys2Proof.Machine.execGroupEnd fn group s
  | .collOpStart group die => Sys2Proof.Machine.execCollOpStart group die s
  | .digestRoundEnd group die => Sys2Proof.Machine.execDigestRoundEnd group die s
  | .ligStepEnd group die => Sys2Proof.Machine.execLigStepEnd group die s
  | .groupTimeout group die => Sys2Proof.Machine.execGroupTimeout group die s
  | .deferNoticeTick => Sys2Proof.Machine.execDeferNoticeTick s
  | .timerPauseEnd group => Sys2Proof.Machine.execTimerPauseEnd group s
  | .fmAssign fn v => Sys2Proof.Machine.execFmAssign fn v s
  | .fmWrite fn v => Sys2Proof.Machine.execFmWrite fn v s
  | .fmRead fn v => Sys2Proof.Machine.execFmRead fn v s
  | .fmAnswer => Sys2Proof.Machine.execFmAnswer s
  | .fmTimeout => Sys2Proof.Machine.execFmTimeout s
  | .portEnableWrite fn port en => Sys2Proof.Machine.execPortEnableWrite fn port en s
  | .linkTrained port wmask peer => Sys2Proof.Machine.execLinkTrained port wmask peer s
  | .linkSlot port => Sys2Proof.Machine.execLinkSlot port s
  | .flitReceive port flit => Sys2Proof.Machine.execFlitReceive port flit s
  | .creditReturn port freed => Sys2Proof.Machine.execCreditReturn port freed s
  | .nak port fseq => Sys2Proof.Machine.execNak port fseq s
  | .probe port lane => Sys2Proof.Machine.execProbe port lane s
  | .alive port lane => Sys2Proof.Machine.execAlive port lane s
  | .hold port lane => Sys2Proof.Machine.execHold port lane s
  | .creditReset port lane free => Sys2Proof.Machine.execCreditReset port lane free s
  | .retrainRequest port => Sys2Proof.Machine.execRetrainRequest port s
  | .abortFlit port lane => Sys2Proof.Machine.execAbortFlit port lane s
  | .messageForward port lane => Sys2Proof.Machine.execMessageForward port lane s
  | .remoteWrite => Sys2Proof.Machine.execRemoteWrite s
  | .readRequest => Sys2Proof.Machine.execReadRequest s
  | .readResponse => Sys2Proof.Machine.execReadResponse s
  | .acknowledgement => Sys2Proof.Machine.execAcknowledgement s
  | .noticeUnreachable => Sys2Proof.Machine.execNoticeUnreachable s
  | .noticeRouteError => Sys2Proof.Machine.execNoticeRouteError s
  | .ligatureData => Sys2Proof.Machine.execLigatureData s
  | .ligatureDigest => Sys2Proof.Machine.execLigatureDigest s
  | .ligatureAbort => Sys2Proof.Machine.execLigatureAbort s
  | .thermalDefer => Sys2Proof.Machine.execThermalDefer s
  | .faultDefer => Sys2Proof.Machine.execFaultDefer s
  | .messageDeliver src queue => Sys2Proof.Machine.execMessageDeliver src queue s
  | .deliveryTimeout queue dest mseq => Sys2Proof.Machine.execDeliveryTimeout queue dest mseq s
  | .wavelengthDrop port wave corrected uncorrectable => Sys2Proof.Machine.execWavelengthDrop port wave corrected uncorrectable s
  | .retrainStart port => Sys2Proof.Machine.execRetrainStart port s
  | .retrainEnd port wmask resendFrom => Sys2Proof.Machine.execRetrainEnd port wmask resendFrom s
  | .probeTimer port lane => Sys2Proof.Machine.execProbeTimer port lane s
  | .stallDeclare port lane => Sys2Proof.Machine.execStallDeclare port lane s
  | .replayRestart c => Sys2Proof.Machine.execReplayRestart c s
  | .mapOutDone die => Sys2Proof.Machine.execMapOutDone die s
  | .armedExpire k => Sys2Proof.Machine.execArmedExpire k s
  | .idReadRecord p record => Sys2Proof.Machine.execIdReadRecord p record s
  | .idWriteRecord p record bytes => Sys2Proof.Machine.execIdWriteRecord p record bytes s
  | .idReadSensors p => Sys2Proof.Machine.execIdReadSensors p s
  | .idReadMeasurement p => Sys2Proof.Machine.execIdReadMeasurement p s
  | .idRequestDone => Sys2Proof.Machine.execIdRequestDone s
  | .idMailboxTimeout => Sys2Proof.Machine.execIdMailboxTimeout s
  | .i3cSetdasa addr => Sys2Proof.Machine.execI3cSetdasa addr s
  | .i3cPrivateRead => Sys2Proof.Machine.execI3cPrivateRead s
  | .i3cReadBootHealth => Sys2Proof.Machine.execI3cReadBootHealth s
  | .i3cSetPowerLimit record bytes => Sys2Proof.Machine.execI3cSetPowerLimit record bytes s
  | .vinEntersRange => Sys2Proof.Machine.execVinEntersRange s
  | .perstDeassertion link bifur => Sys2Proof.Machine.execPerstDeassertion link bifur s
  | .partnerLightLoss port => Sys2Proof.Machine.execPartnerLightLoss port s
  | .mmcStop => Sys2Proof.Machine.execMmcStop s
  | .dieLinkFailure a b portRing => Sys2Proof.Machine.execDieLinkFailure a b portRing s
  | .uncorrectableInternalError src => Sys2Proof.Machine.execUncorrectableInternalError src s
  | .numvfsWrite fn n => Sys2Proof.Machine.execNumvfsWrite fn n s

end Sys2Proof.Machine
end

