-- ==== Sys2Proof/Machine/Step.lean ====
section
/-! DEFINITION. One step: the command at the front of the queue takes its effect; with no command waiting, a
nanosecond passes (DESIGN CHOICE, assumption 2: the table has no row for the clock). -/

namespace Sys2Proof.Machine

/-- One step of the block. (DESIGN CHOICE: log entry 2). -/
def step (s : State) : Host.Outcome State Fault Refusal :=
  match s.pending with
  | [] => .next s.tick
  | c :: rest => exec c { s with pending := rest }

/-- The state with the command that the word spells in front of its queue; the table's rows have no bits, so the
state is unchanged. (DESIGN CHOICE: log entry 71). -/
def State.withFetchWord (s : State) (nbits w : Nat) : State :=
  match decodeTableWord nbits w with
  | some i => { s with pending := i :: s.pending }
  | none => s

end Sys2Proof.Machine
end

