-- ==== Sys2Proof/Certificates/Slice0/Obligations.lean ====
section
/-! DEFINITION. The statements for the provers: what the commands do, from the numbered rules of spec/. -/

namespace Sys2Proof.Claims

open Sys2Proof.Machine

/-- The word is an instruction of the row, and the context can issue it now: its core is owned, not being cleared and
not halted, the context runs, no interrupt is taken first (R153), and no vector instruction in flight still owes it a
scalar register (R117). -/
def Issues (s : State) (row : Row) (c : CtxRef) (w : Word32) : Prop :=
  c.core.toNat < 20 ∧ s.ready c = true ∧ rowOf w = some row ∧ (s.ctxOf c).awaitsScalar w = false

/-- Every byte of stack memory reads the same. -/
def SameMem (s t : State) : Prop := ∀ a, Memory.read t.mem a = Memory.read s.mem a

/-- Only one context changed, and the programmable counters of its core: every other context, everything else of the
core, every other core, and everything outside the cores is unchanged. -/
def OnlyCtx (s t : State) (c : CtxRef) : Prop :=
  t = { s with cores := t.cores } ∧ SameMem s t ∧ (∀ k, k ≠ c.key → t.core k = s.core k) ∧
  t.core c.key = { s.core c.key with ctxs := (t.core c.key).ctxs, ctrPc := (t.core c.key).ctrPc } ∧
  ∀ j, j ≠ c.idx → t.ctx c.key j = s.ctx c.key j

/-- The instruction completed: x[rd] is `v`, unless rd is x0, which discards the write (R140); the pc is `pc`, and
ISA_RETIRED counts it (R145). Every other register of the context, its flags and its memory are unchanged. -/
def WritesX (s t : State) (c : CtxRef) (rd : Nat) (v pc : Word) : Prop :=
  OnlyCtx s t c ∧
  t.ctxOf c = { s.ctxOf c with pc := pc, x := (t.ctxOf c).x, retired := (s.ctxOf c).retired + 1 } ∧
  ∀ r, (t.ctxOf c).rx r = if r = rd ∧ r ≠ 0 then v else (s.ctxOf c).rx r

/-- The instruction completed: f[rd] is `v`, and ISA_XFLG has the flags `fl` added. Nothing else changed but the pc,
which is at the next instruction, and ISA_RETIRED. -/
def WritesF (s t : State) (c : CtxRef) (rd : Nat) (v : Word) (fl : BitVec 5) : Prop :=
  OnlyCtx s t c ∧
  t.ctxOf c = { s.ctxOf c with pc := (s.ctxOf c).pc + 4, f := (t.ctxOf c).f, xflg := (s.ctxOf c).xflg ||| fl
                               retired := (s.ctxOf c).retired + 1 } ∧
  ∀ r, (t.ctxOf c).rf r = if r = rd then v else (s.ctxOf c).rf r

/-- As `WritesX` at the next instruction, with flags added to ISA_XFLG. -/
def WritesXFlags (s t : State) (c : CtxRef) (rd : Nat) (v : Word) (fl : BitVec 5) : Prop :=
  OnlyCtx s t c ∧
  t.ctxOf c = { s.ctxOf c with pc := (s.ctxOf c).pc + 4, x := (t.ctxOf c).x, xflg := (s.ctxOf c).xflg ||| fl
                               retired := (s.ctxOf c).retired + 1 } ∧
  ∀ r, (t.ctxOf c).rx r = if r = rd ∧ r ≠ 0 then v else (s.ctxOf c).rx r

/-- The address of the next instruction. -/
def nextPc (s : State) (c : CtxRef) : Word := (s.ctxOf c).pc + 4

/-- The address K × 4 bytes from the instruction's own. -/
def jumpTo (s : State) (c : CtxRef) (k : Int) : Word := (s.ctxOf c).pc + BitVec.ofInt 64 (4 * k)

end Sys2Proof.Claims

open Sys2Proof Sys2Proof.Machine Sys2Proof.Claims

/-- A step takes the command at the front of the queue and runs it on the state with the queue's rest (the block's
interface: commands wait first in, first out). -/
def Obligations.StepRunsFrontCommand : Prop :=
  ∀ (s : State) (i : Instr) (rest : List Instr), s.pending = i :: rest → step s = exec i { s with pending := rest }

/-- With no command waiting a nanosecond of ISA_TIME passes (the model's choice, log entry 2). While no function is being reset
and no cancelled LAUNCH is in its grace, memory, inkwells, reservoirs, queues, frames, windows and the fabric stay as they are, a
context changes only in the vector registers that a storage error strikes, and a command only in the time of its completion and
in what the blotter has lost; without a storage error (log entry 16) no context changes. -/
def Obligations.IdleStepIsATick : Prop :=
  ∀ s : State, s.pending = [] → ∃ t, step s = .next t ∧ t.mod.timeNs = s.mod.timeNs + 1 ∧ t.pending = [] ∧
    ((∀ p ∈ s.funcs, p.2.resetting = false) → (∀ m ∈ s.cmds, m.grace = false ∨ m.isStarted = false) →
      t.mem = s.mem ∧ t.poison = s.poison ∧ t.queues = s.queues ∧ t.frames = s.frames ∧ t.windows = s.windows ∧ t.fab = s.fab ∧
      (∀ k, (t.core k).ink = (s.core k).ink ∧ (t.core k).res = (s.core k).res) ∧
      (∀ k j, t.ctx k j = { s.ctx k j with vbad := (t.ctx k j).vbad }) ∧
      (∀ r m, s.cmd r = some m → ∃ n, t.cmd r = some n ∧ n = { m with done := n.done, lost := n.lost }) ∧
      ((s.diesRun = true → Config.upset s.free = none) → ∀ k j, t.ctx k j = s.ctx k j))

/-- Every step keeps the canonical form of stack memory: strictly rising addresses, and no listed byte that equals what
an unlisted byte reads as (log entry 4). -/
def Obligations.EveryStepKeepsMemoryForm : Prop :=
  ∀ s t : State, Memory.wf s.mem = true → step s = .next t → Memory.wf t.mem = true

/-- After a power-on reset (R85, R133, R145, R173, R191, R199, R216, R236, R257, R280, R294, R307, R332, R353, R355, R392):
the stage is POWER, ISA_TIME is 0, no command waits or is in flight, memory has its canonical form (log entry 4)
and every byte of it reads 0, and the registers whose reset value the spec gives as other than 0 hold it. -/
def Obligations.ResetState : Prop :=
  let s := State.reset
  Memory.wf s.mem = true ∧ s.mem = [] ∧ (∀ a, Memory.read s.mem a = 0) ∧ s.pending = [] ∧ s.cmds = [] ∧ s.poison = [] ∧
  s.mod.stage = .power ∧ s.mod.timeNs = 0 ∧ s.mod.placeValid = false ∧ s.mod.locked = false ∧ s.mod.failed = false ∧
  s.mod.fwin = 60 ∧ s.mod.plimit = 4500 ∧ s.mod.ceiling = 2000 ∧
  (∀ k j, (s.ctx k j).mode = .idle ∧ (s.ctx k j).alarm = BitVec.allOnes 64 ∧ (s.core k).inkClearing = true ∧
    (s.core k).pgIdle = 64 ∧ (s.core k).ctolFp16 = 16 ∧ (s.core k).ctolBf16 = 16 ∧ (s.core k).owned = false) ∧
  (∀ d, (s.die d).stkT = 95 ∧ (s.die d).stkHyst = 2 ∧ (s.die d).ssdIdle = 4 ∧ (s.die d).ssdThresh = 32 ∧
    (s.die d).cgrace = 1000) ∧
  (∀ n, (s.func n).tmo = 63 ∧ (s.func n).hotth = 0x1000 ∧ (s.func n).maxPrio = 7 ∧ (s.func n).fqEn = false) ∧
  (∀ q, (s.queue q).en = false) ∧ (∀ g, (s.group g).valid = false ∧ (s.group g).tmo = 100) ∧
  (∀ p, (s.port p).en = true ∧ (s.port p).state = .dark) ∧
  s.fab.e2etmo = 50 ∧ s.fab.violTh = 16 ∧ s.fab.retryTh = 64 ∧ s.fab.corTh = 64 ∧ s.fab.uncTh = 16

/-- Commands leave the queue first in, first out: a step that goes on leaves exactly the commands behind the front. -/
def Obligations.QueueIsFirstInFirstOut : Prop :=
  ∀ s t : State, step s = .next t → t.pending = s.pending.tail

/-- No command is refused, and the only stop is a core number of 20 to 31, which names no core (R20). It rests on the
model's own choice of log entry 1. -/
def Obligations.OnlyAbsentCoresStop : Prop :=
  ∀ (i : Instr) (s : State), (∃ t, exec i s = .next t) ∨ ∃ k, 20 ≤ k ∧ k < 32 ∧ exec i s = .fault (.noSuchCore k)

/-- Results of the integer instructions (R147, R148): SETK the sign-extended constant, ADDPC the pc plus K × 4, and the
results of the constant, register, multiply and divide groups, all with the frame of `WritesX`. -/
def Obligations.IntegerInstructionsComplete : Prop :=
  ∀ (s : State) (c : CtxRef) (w : Word32),
    let a := (s.ctxOf c).rx (wRs1 w)
    let b := (s.ctxOf c).rx (wRs2 w)
    (Issues s .setk c w → ∃ t, exec (.setk c w) s = .next t ∧
      WritesX s t c (wRd w) (BitVec.ofInt 64 (wKW w)) (nextPc s c)) ∧
    (Issues s .addpc c w → ∃ t, exec (.addpc c w) s = .next t ∧
      WritesX s t c (wRd w) (jumpTo s c (wKW w)) (nextPc s c)) ∧
    (Issues s .aluImm c w → ∃ t, exec (.aluImmediate c w) s = .next t ∧
      WritesX s t c (wRd w) (aluImmOp (wF3 w) a (wKK w) (wNumK w)) (nextPc s c)) ∧
    (Issues s .aluReg c w → ∃ t, exec (.aluRegister c w) s = .next t ∧
      WritesX s t c (wRd w) (aluOp (wF7 w) (wF3 w) a b) (nextPc s c)) ∧
    (Issues s .multiply c w → ∃ t, exec (.multiply c w) s = .next t ∧
      WritesX s t c (wRd w) (mulOp (wF3 w) a b) (nextPc s c)) ∧
    (Issues s .divide c w → ∃ t, exec (.divide c w) s = .next t ∧
      WritesX s t c (wRd w) (divOp (wF3 w) a b) (nextPc s c))

/-- Division corners (R148): QUO and QUOU by zero give 0, MOD and MODU by zero give the dividend, and the smallest INT64
divided by −1 gives itself with remainder 0. -/
def Obligations.DivisionCorners : Prop :=
  ∀ (s : State) (c : CtxRef) (w : Word32), Issues s .divide c w →
    let a := (s.ctxOf c).rx (wRs1 w)
    let b := (s.ctxOf c).rx (wRs2 w)
    let smallest : Word := 0x8000000000000000#64
    (b = 0 → (wF3 w = 3 ∨ wF3 w = 4) → ∃ t, exec (.divide c w) s = .next t ∧ WritesX s t c (wRd w) 0 (nextPc s c)) ∧
    (b = 0 → (wF3 w = 5 ∨ wF3 w = 6) → ∃ t, exec (.divide c w) s = .next t ∧ WritesX s t c (wRd w) a (nextPc s c)) ∧
    (a = smallest → b = BitVec.allOnes 64 → wF3 w = 3 →
      ∃ t, exec (.divide c w) s = .next t ∧ WritesX s t c (wRd w) smallest (nextPc s c)) ∧
    (a = smallest → b = BitVec.allOnes 64 → wF3 w = 5 →
      ∃ t, exec (.divide c w) s = .next t ∧ WritesX s t c (wRd w) 0 (nextPc s c))

/-- Jumps (R147, R148): GOL and GOR put the address of the next instruction into xd and go to their targets, GOR to one
that is a multiple of 4; a conditional jump goes to its target when its relation holds, and else on. -/
def Obligations.JumpsComplete : Prop :=
  ∀ (s : State) (c : CtxRef) (w : Word32),
    let x := s.ctxOf c
    let target := x.rx (wRs1 w) + BitVec.ofInt 64 (4 * wKK w)
    (Issues s .gol c w → ∃ t, exec (.gol c w) s = .next t ∧
      WritesX s t c (wRd w) (nextPc s c) (jumpTo s c (wKW w))) ∧
    (Issues s .gor c w → target.toNat % 4 = 0 → ∃ t, exec (.gor c w) s = .next t ∧
      WritesX s t c (wRd w) (nextPc s c) target) ∧
    (Issues s .jcond c w → ∃ t, exec (.jcond c w) s = .next t ∧
      WritesX s t c 0 0 (if jumpTaken (wF3 w) (x.rx (wRs1 w)) (x.rx (wRs2 w)) then jumpTo s c (wKP w) else nextPc s c))

/-- Scalar floating point (R142, R148): the arithmetic and DMIN and DMAX write fd and their flags; the comparisons write
1 or 0 to xd; DABS, DNEG and DCSGN change the sign bit alone and set no flag; DTOI and ITOD convert; DTOX and XTOD move
64 bits unchanged and set no flag. -/
def Obligations.ScalarFloatComplete : Prop :=
  ∀ (s : State) (c : CtxRef) (w : Word32),
    let x := s.ctxOf c
    let a := x.rf (wRs1 w)
    let b := x.rf (wRs2 w)
    let mm := minMax .fp64 (wF7 w == 6) a.toNat b.toNat
    let cp := fpCompare .fp64 (fpRel (wF7 w)) a.toNat b.toNat
    let ti := fp64ToInt a.toNat
    let fi := intToFp64 (x.rx (wRs1 w))
    (Issues s .fpArith c w → ∃ t, exec (.fpArith c w) s = .next t ∧
      WritesF s t c (wRd w) (BitVec.ofNat 64 (fpArithRes x w).bits) (fpArithRes x w).flags) ∧
    (Issues s .fpMinmax c w → ∃ t, exec (.fpMinmax c w) s = .next t ∧ WritesF s t c (wRd w) (BitVec.ofNat 64 mm.1) mm.2) ∧
    (Issues s .fpCompare c w → ∃ t, exec (.fpCompare c w) s = .next t ∧
      WritesXFlags s t c (wRd w) (if cp.1 then 1 else 0) cp.2) ∧
    (Issues s .fpSign c w → ∃ t, exec (.fpSign c w) s = .next t ∧ WritesF s t c (wRd w) (fp64Sign (wF7 w) a b) 0) ∧
    (Issues s .dtoi c w → ∃ t, exec (.dtoi c w) s = .next t ∧ WritesXFlags s t c (wRd w) (BitVec.ofNat 64 ti.bits) ti.flags) ∧
    (Issues s .itod c w → ∃ t, exec (.itod c w) s = .next t ∧ WritesF s t c (wRd w) (BitVec.ofNat 64 fi.bits) fi.flags) ∧
    (Issues s .fpMove c w → wF7 w = 15 → ∃ t, exec (.fpMove c w) s = .next t ∧ WritesX s t c (wRd w) a (nextPc s c)) ∧
    (Issues s .fpMove c w → wF7 w = 16 → ∃ t, exec (.fpMove c w) s = .next t ∧
      WritesF s t c (wRd w) (x.rx (wRs1 w)) 0)

/-- The values of the narrow formats (R31, R32): FP4's codes 0 to 7 are 0, 0.5, 1, 1.5, 2, 3, 4 and 6, and 8 to 15 their
negatives, −0 among them; the integer formats are two's complement, so that 0x80 of INT8 is −128; a conversion into INT8 gives
a value of −127 to +127, never 0x80; and the matrix array reads an INT8 element 0x80 as −127. -/
def Obligations.NarrowFormatValues : Prop :=
  (∀ n, n < 8 → ∃ (m : Nat) (e : Int), Fmt.fp4.decode n = .fin false m e ∧ Fmt.fp4.decode (n + 8) = .fin true m e ∧ -1 ≤ e ∧
    [0, 1, 2, 3, 4, 6, 8, 12][n]? = some (m * 2 ^ (e + 1).toNat)) ∧
  (∀ f ∈ [Fmt.int8, .int32, .int64], ∀ n, n < 2 ^ f.width → f.decode n =
    if n < 2 ^ (f.width - 1) then .fin false n 0 else .fin true (2 ^ f.width - n) 0) ∧
  (∀ (w : FmtWord) (fine draw : Nat) (v : FVal), w.fmt = .int8 → draw < 2 ^ 16 →
    (w.store fine draw v).bits ≠ 0x80 ∧ (w.store fine draw v).bits < 2 ^ 8) ∧
  (∀ (k : Core) (o : OpDesc) (w : FmtWord) (base obase blk r i : Nat), w.fmt = .int8 → k.elemBits o w.fmt base blk r i = 0x80 →
    k.cellVal o w base obase blk r i = .fin true 127 0)

namespace Sys2Proof.Claims

/-- The command completes and what it leaves holds of the next state. -/
abbrev Runs (i : Instr) (s : State) (P : State → Prop) : Prop := ∃ t, exec i s = .next t ∧ P t

/-- A trap can be taken: no vector instruction of the context is in flight, HEN is 1 and INH is 0 (R150, R152). -/
def CanTrap (s : State) (c : CtxRef) : Prop :=
  (s.ctxOf c).vq = [] ∧ (s.ctxOf c).hen = true ∧ (s.ctxOf c).inh = false

/-- The handler is entered (R151): ISA_HPC the address of the trapping instruction, ISA_HWHY and ISA_HARG the cause,
GSAVE the old GATE, GATE 0, INH 1, the pc ISA_HBASE.BASE × 256, and no general register changed. Every other context is
unchanged, and so is memory unless a trace ring of the die records the event. -/
def EntersHandler (s t : State) (c : CtxRef) (cause : Nat) (arg : Word) : Prop :=
  t.ctxOf c = { s.ctxOf c with hpc := (s.ctxOf c).pc, hwhy := BitVec.ofNat 6 cause, harg := arg, gsave := (s.ctxOf c).gate
                               gate := false, inh := true, mode := .running
                               pc := BitVec.ofNat 64 ((s.ctxOf c).hbase.toNat * 256) } ∧
  (∀ k j, k ≠ c.key ∨ j ≠ c.idx → t.ctx k j = s.ctx k j) ∧ t.cmds = s.cmds ∧
  ((s.die c.die.toNat).traces = [] → SameMem s t)

/-- The byte of stack memory that a context's scalar load sees: its own buffered store, else the L1 line, else memory
(R157, R159). -/
def SeenByte (s : State) (c : CtxRef) (a : Nat) : Byte :=
  match (s.core c.key).sb.find? (fun e => e.ctx == c.idx && e.line == .stack (a / 64 * 64) && e.mask.getLsbD (a % 64)) with
  | some e => e.data.extractLsb' (8 * (a % 64)) 8
  | none =>
    match (s.core c.key).l1.find? (fun x => x.line == .stack (a / 64 * 64)) with
    | some x => x.data.extractLsb' (8 * (a % 64)) 8
    | none => Memory.read s.mem a

/-- A line of stack memory that its die cache holds, and that is not poisoned (R186, R196). -/
def CacheHas (s : State) (a : Nat) : Prop := (s.die (dieOf a)).holds (lineOf a) ≠ none ∧ s.poison.contains (a / 256) = false

/-- The 64-byte line of a stack address is at hand for a context: in the L1 data cache of its core, or in the owning die cache,
or it has come from there for the context's access, and then it is not poisoned (R159, R186, R189). -/
def AtHand (s : State) (c : CtxRef) (a : Nat) : Prop :=
  (∃ x ∈ (s.core c.key).l1, x.line = .stack (a / 64 * 64)) ∨ CacheHas s a ∨
  (s.hasArrived (.ctx c) (.stack (a / 256 * 256)) = true ∧ s.poison.contains (a / 256) = false)

/-- An access of n bytes at `a` is aligned and within the address space; its translation, which leaves the state `u`, allows it
and puts it at stack address `spa`, and it meets no vector store of the context that is still on its way. -/
def StackAccess (s : State) (c : CtxRef) (a : Word) (n : Nat) (acc : Access) (spa : Nat) (u : State) : Prop :=
  a.toNat % n = 0 ∧ a.toNat < 2 ^ 48 ∧ s.locate (s.ctxAgent c) a.toNat acc = .ok (.stack spa) u ∧
  (s.ctxOf c).vecStoreMeets (.stack spa) n = false

/-- Only the pc, ISA_RETIRED and the named general registers of the context changed, and memory, commands, queues and
every other context are unchanged. The caches and TLBs may have been filled. -/
def OnlyRegs (s t : State) (c : CtxRef) : Prop :=
  t.ctxOf c = { s.ctxOf c with pc := (s.ctxOf c).pc + 4, x := (t.ctxOf c).x, f := (t.ctxOf c).f
                               retired := (s.ctxOf c).retired + 1 } ∧
  (∀ k j, k ≠ c.key ∨ j ≠ c.idx → t.ctx k j = s.ctx k j) ∧ SameMem s t ∧ t.cmds = s.cmds ∧ t.queues = s.queues

end Sys2Proof.Claims

/-- Handler entry and HRET (R151). Every trap that can be taken, whatever its cause, and every interrupt enters the handler as
`EntersHandler` says; a word that belongs to no row, an instruction of an absent coprocessor and a GOR to an address that is
no multiple of 4 are such traps. CPEND is taken first, then APEND with ISA_TIME in ISA_HARG, then PPEND. HRET sets the pc to
ISA_HPC, GATE to GSAVE and INH to 0, and nothing else of the context changes but ISA_RETIRED; executed while INH is 0 it
raises the illegal-instruction trap. -/
def Obligations.HandlerEntryAndReturn : Prop :=
  (∀ (s : State) (c : CtxRef) (cause : Nat) (arg : Word), CanTrap s c →
     EntersHandler s (s.takeTrap c cause arg) c cause arg) ∧
  (∀ (s : State) (c : CtxRef) (w : Word32), CanTrap s c →
     let target := (s.ctxOf c).rx (wRs1 w) + BitVec.ofInt 64 (4 * wKK w)
     (c.core.toNat < 20 → s.ready c = true → rowOf w = none →
       Runs (.aluRegister c w) s (fun t => EntersHandler s t c 0 (w.setWidth 64))) ∧
     (Issues s .cpAbsent c w →
       Runs (.coprocessorAbsent c w) s (fun t => EntersHandler s t c 1 (BitVec.ofNat 64 (wMajor w - 0x71)))) ∧
     (Issues s .gor c w → target.toNat % 4 ≠ 0 → Runs (.gor c w) s (fun t => EntersHandler s t c 3 target)) ∧
     (Issues s .hret c w → Runs (.hret c w) s (fun t => EntersHandler s t c 0 (w.setWidth 64)))) ∧
  (∀ (s : State) (c : CtxRef) (w : Word32), Issues s .hret c w → (s.ctxOf c).inh = true →
     Runs (.hret c w) s (fun t => OnlyCtx s t c ∧
       t.ctxOf c = { s.ctxOf c with pc := (s.ctxOf c).hpc, gate := (s.ctxOf c).gsave, inh := false
                                    retired := (s.ctxOf c).retired + 1 })) ∧
  (∀ (s : State) (c : CtxRef), c.core.toNat < 20 →
     let x := s.ctxOf c
     let taken := (s.core c.key).runs = true ∧ x.mode = .running ∧ x.gate = true ∧ x.hen = true ∧ x.vq = []
     let apend := decide (x.alarm.toNat ≤ s.mod.timeNs % 2 ^ 64)
     (taken → x.cpend = true → x.cen = true → Runs (.interruptEntry c) s (fun t => EntersHandler s t c 18 0)) ∧
     (taken → (x.cpend && x.cen) = false → apend = true → x.aen = true →
       Runs (.interruptEntry c) s (fun t => EntersHandler s t c 17 s.time)) ∧
     (taken → (x.cpend && x.cen) = false → (apend && x.aen) = false → x.ppend = true → x.pen = true →
       Runs (.interruptEntry c) s (fun t => EntersHandler s t c 16 0)))

/-- PAUSE and DONE (R141, R154). PAUSE completes at once when no enable bit is 1, and otherwise when a pending bit whose enable
bit is 1 is set, whatever GATE and HEN; until then the context is pausing. DONE, with every earlier instruction complete and
no store of the context left, makes the context idle with x[rs1][15:0] as its code. -/
def Obligations.PauseAndDoneComplete : Prop :=
  ∀ (s : State) (c : CtxRef) (w : Word32),
    let x := s.ctxOf c
    let ends := (x.cpend && x.cen) || (decide (x.alarm.toNat ≤ s.mod.timeNs % 2 ^ 64) && x.aen) || (x.ppend && x.pen)
      || !(x.cen || x.aen || x.pen)
    (Issues s .pause c w → ends = true → Runs (.pause c w) s (fun t => OnlyCtx s t c ∧
      t.ctxOf c = { x with pc := x.pc + 4, retired := x.retired + 1 })) ∧
    (Issues s .pause c w → ends = false → Runs (.pause c w) s (fun t => OnlyCtx s t c ∧
      t.ctxOf c = { x with mode := .pausing })) ∧
    (c.core.toNat < 20 → (s.core c.key).runs = true → x.mode = .pausing → rowOf w = some .pause → ends = true →
      Runs (.pause c w) s (fun t => OnlyCtx s t c ∧
        t.ctxOf c = { x with mode := .running, pc := x.pc + 4, retired := x.retired + 1 })) ∧
    (Issues s .done c w → s.allDone c = true → (∀ e ∈ (s.core c.key).sb, e.ctx ≠ c.idx) → s.ctxAcked c = true →
      Runs (.done c w) s (fun t => (t.ctxOf c).mode = .idle ∧ (t.ctxOf c).code = some ((x.rx (wRs1 w)).setWidth 16) ∧
        (t.ctxOf c).x = x.x ∧ (t.ctxOf c).f = x.f))

/-- Loads from stack memory whose line is at hand (R148, R157): the value of the bytes that the context sees, extended as the
mnemonic says, to xd, or 64 bits to fd, with nothing else changed but caches. It rests on the model's own choice of log entry
22. -/
def Obligations.LoadsComplete : Prop :=
  ∀ (s u : State) (c : CtxRef) (w : Word32) (spa : Nat), AtHand u c spa →
    let a := (s.ctxOf c).rx (wRs1 w) + BitVec.ofInt 64 (wKK w)
    let value (n : Nat) : Nat := leNat ((List.range n).map (fun i => SeenByte s c (spa + i)))
    (Issues s .load c w → StackAccess s c a (loadBytes (wF3 w)) .read spa u → Runs (.load c w) s (fun t => OnlyRegs s t c ∧
      (t.ctxOf c).f = (s.ctxOf c).f ∧
      ∀ r, (t.ctxOf c).rx r = if r = wRd w ∧ r ≠ 0 then loadExt (wF3 w) (value (loadBytes (wF3 w))) else (s.ctxOf c).rx r)) ∧
    (Issues s .ldf c w → StackAccess s c a 8 .read spa u → Runs (.ldf c w) s (fun t => OnlyRegs s t c ∧
      (t.ctxOf c).x = (s.ctxOf c).x ∧
      ∀ r, (t.ctxOf c).rf r = if r = wRd w then BitVec.ofNat 64 (value 8) else (s.ctxOf c).rf r))

/-- Stores to stack memory (R148, R159): with room in the store buffer, the low bytes of x[rs2], or f[rs2], are what the
context sees at the stored bytes, every other byte that it sees is as before, and memory and every register are
unchanged. It rests on the model's own choice of log entry 22. -/
def Obligations.StoresComplete : Prop :=
  ∀ (s u : State) (c : CtxRef) (w : Word32) (spa : Nat),
    let a := (s.ctxOf c).rx (wRs1 w) + BitVec.ofInt 64 (wKP w)
    let stored (n : Nat) (v : Word) (t : State) : Prop := OnlyRegs s t c ∧ (t.ctxOf c).x = (s.ctxOf c).x ∧
      (t.ctxOf c).f = (s.ctxOf c).f ∧
      ∀ b, SeenByte t c b = if spa ≤ b ∧ b < spa + n then BitVec.ofNat 8 (v.toNat / 2 ^ (8 * (b - spa))) else SeenByte s c b
    (s.core c.key).sb.length < 16 →
    (Issues s .store c w → StackAccess s c a (2 ^ wF3 w) .write spa u →
      Runs (.store c w) s (stored (2 ^ wF3 w) ((s.ctxOf c).rx (wRs2 w)))) ∧
    (Issues s .stf c w → StackAccess s c a 8 .write spa u → Runs (.stf c w) s (stored 8 ((s.ctxOf c).rf (wRs2 w))))

/-- Atomics and fences (R158, R160). An atomic on a line that its die cache holds, with no store of the context buffered: xd gets
the old word at x[rs1], the operation's result is stored there, and every other byte of memory is unchanged. A fence, with every
earlier access of the context complete, completes with no register changed; those of die scope and wider leave the
core's L1 data cache empty, and fence.code its instruction cache too. It rests on the model's own choice of log entry
22. -/
def Obligations.AtomicsAndFencesComplete : Prop :=
  (∀ (s u : State) (c : CtxRef) (w : Word32) (spa : Nat),
     let x := s.ctxOf c
     let old := BitVec.ofNat 64 (Memory.readLe s.mem spa 8)
     let new := atomicOp (wF3 w) old (x.rx (wRs2 w)) (x.rx (wRd w))
     Memory.wf s.mem = true → Issues s .atomic c w → StackAccess s c (x.rx (wRs1 w)) 8 .write spa u → CacheHas u spa →
     (∀ e ∈ (s.core c.key).sb, e.ctx ≠ c.idx) →
     Runs (.atomic c w) s (fun t =>
       (∀ r, (t.ctxOf c).rx r = if r = wRd w ∧ r ≠ 0 then old else x.rx r) ∧ (t.ctxOf c).f = x.f ∧
       (t.ctxOf c).pc = x.pc + 4 ∧ (∀ j, j ≠ c.idx → t.ctx c.key j = s.ctx c.key j) ∧
       Memory.readLe t.mem spa 8 = new.toNat ∧
       ∀ b, b < spa ∨ spa + 8 ≤ b → Memory.read t.mem b = Memory.read s.mem b)) ∧
  (∀ (s : State) (c : CtxRef) (w : Word32),
     let quiet := (s.ctxOf c).vecStoresDone = true ∧ (∀ e ∈ (s.core c.key).sb, e.ctx ≠ c.idx)
     let done (t : State) : Prop := OnlyRegs s t c ∧ (t.ctxOf c).x = (s.ctxOf c).x ∧ (t.ctxOf c).f = (s.ctxOf c).f
     quiet →
     (Issues s .fenceCore c w → Runs (.fenceCore c w) s (fun t => done t ∧ (t.core c.key).l1 = (s.core c.key).l1)) ∧
     (Issues s .fenceDie c w → Runs (.fenceDie c w) s (fun t => done t ∧ (t.core c.key).l1 = [])) ∧
     (Issues s .fenceDev c w → (s.ctxOf c).cpDone = true →
       Runs (.fenceDev c w) s (fun t => done t ∧ (t.core c.key).l1 = [])) ∧
     (Issues s .fenceSys c w → s.sysDone c = true → Runs (.fenceSys c w) s (fun t => done t ∧ (t.core c.key).l1 = [])) ∧
     (Issues s .fenceCode c w →
       Runs (.fenceCode c w) s (fun t => done t ∧ (t.core c.key).l1 = [] ∧ (t.core c.key).icache = [])))

namespace Sys2Proof.Claims

/-- The status registers that a program both reads and writes, each with its RW bits and its W1C bits (R10, R145, R150 and each
register's chapter). -/
def srWritable : List (Nat × Word × Word) :=
  [(0x00B, BitVec.allOnes 64, 0), (0x010, 0x1F, 0), (0x020, 0x0000FFFFFFFFFF00, 0), (0x021, BitVec.allOnes 64, 0), (0x024, 0xBB, 0x500),
   (0x026, BitVec.allOnes 64, 0), (0x100, 0x1F, 0), (0x102, 0xFFFFFFFF, 0), (0x103, 0xFFFFFFFF, 0), (0x104, 0xFFFFFFFF, 0)]

/-- The status registers that a program cannot change. -/
def srReadOnly : List Nat := [0x000, 0x001, 0x002, 0x003, 0x008, 0x009, 0x00A, 0x022, 0x023, 0x111, 0x112]

/-- A write of `v` under the mask `m` to status register n has completed. The bits of a register that reads back follow their
access codes: an RW bit that the mask selects takes the bit of `v`, a W1C bit at which a 1 is written becomes 0, and every
other bit stays. VEC_SRSTATE holds 1 for a written 0 and MXU_CWIN at most 4,096; ISA_POKE sets PPEND of the contexts that it
names. Of the context, only that register, the pc and ISA_RETIRED have changed. -/
def WroteSr (s t : State) (c : CtxRef) (n : Nat) (v m : Word) : Prop :=
  let x := s.ctxOf c
  let old := s.srRead c n
  let gen := ((old &&& ~~~m) ||| (v &&& m)).setWidth 32
  t = { s with cores := t.cores } ∧ (∀ k, k ≠ c.key → t.core k = s.core k) ∧
  (∀ p ∈ srWritable, p.1 = n →
    t.srRead c n = ((old &&& ~~~(m &&& p.2.1)) ||| (v &&& m &&& p.2.1)) &&& ~~~(v &&& m &&& p.2.2)) ∧
  (n ∈ srReadOnly → WritesX s t c 0 0 (nextPc s c)) ∧
  (n = 0x101 → fld m 0 32 ≠ 0 → (t.srRead c n).setWidth 32 = if gen = 0 then 1 else gen) ∧
  (n = 0x025 → ∀ j, j < 4 → (t.ctx c.key j).ppend = ((s.ctx c.key j).ppend || (v &&& m).getLsbD j)) ∧
  (n = 0x110 → (t.core c.key).cwin = min (((old &&& ~~~m) ||| (v &&& m)).toNat % 2 ^ 13) 4096) ∧
  (n ≠ 0x025 → n ≠ 0x110 → OnlyCtx s t c ∧
    t.ctxOf c = { x.srWrite n v m with pc := x.pc + 4, retired := x.retired + 1 })

end Sys2Proof.Claims

/-- The status instructions (R144). SRD writes the register's value to xd; SWR writes x[rs1] to the register, and SMW the bits of
it that x[rs2] selects, as `WroteSr` says; an SWR whose RS2 is not 0, and a number that no status register has, raise the
illegal-instruction trap. -/
def Obligations.StatusInstructionsComplete : Prop :=
  ∀ (s : State) (c : CtxRef) (w : Word32),
    let x := s.ctxOf c
    let listed (n : Nat) : Prop := n ∈ srReadOnly ∨ n ∈ srWritable.map (fun p => p.1) ∨ n = 0x025 ∨ n = 0x101 ∨ n = 0x110
    let trapped (i : Instr) : Prop := CanTrap s c → c.core.toNat < 20 → s.ready c = true → wMajor w = 0x30 →
      Runs i s (fun t => EntersHandler s t c 0 (w.setWidth 64))
    (Issues s .srd c w → s.srWaits c (wNumK w) = false →
      Runs (.srd c w) s (fun t => WritesX s t c (wRd w) (s.srRead c (wNumK w)) (nextPc s c))) ∧
    (Issues s .swr c w → s.srWaits c (wNumP w) = false →
      Runs (.swr c w) s (fun t => WroteSr s t c (wNumP w) (x.rx (wRs1 w)) (BitVec.allOnes 64))) ∧
    (Issues s .smw c w → s.srWaits c (wNumP w) = false →
      Runs (.smw c w) s (fun t => WroteSr s t c (wNumP w) (x.rx (wRs1 w)) (x.rx (wRs2 w)))) ∧
    (wF3 w = 0 → ¬ listed (wNumK w) → trapped (.srd c w)) ∧
    (wF3 w = 1 → wRs2 w ≠ 0 ∨ ¬ listed (wNumP w) → trapped (.swr c w)) ∧
    (wF3 w = 2 → ¬ listed (wNumP w) → trapped (.smw c w))

/-- The alarm and the watchdog (R145, R332, R337, R340, R345). The alarm event brings ISA_TIME to the context's ISA_ALARM, and
changes nothing else. The watchdog of a running context halts its core and counts a fault of KIND 5; on a core with no command it
changes nothing else of the core and no memory; the command of the context, when it is the core's only one and eligible, stops
and enters its replay; the second fault within the window starts the map-out of the core, or fails the module when the die's
spare is not free. Of a context that does not run, or of a halted core, it does nothing. It rests on the model's own choice of
log entry 2. -/
def Obligations.AlarmAndWatchdogComplete : Prop :=
  ∀ (s : State) (c : CtxRef), c.core.toNat < 20 →
    let x := s.ctxOf c
    let k := s.core c.key
    let d := s.die c.die.toNat
    let spare := d.spareUsed = false ∧ d.mapping = false
    let counted (t : State) : Prop := (t.core c.key).halted = true ∧ (t.core c.key).faults = min (k.faults + 1) 255 ∧
      (t.core c.key).armed = true ∧ (t.core c.key).lastKind = 5
    Runs (.alarmExpire c) s (fun t => t = { s with mod := { s.mod with timeNs := max s.mod.timeNs x.alarm.toNat } }) ∧
    (x.mode ≠ .running ∨ k.halted = true → Runs (.contextWatchdog c) s (fun t => t = s)) ∧
    (x.mode = .running → k.halted = false →
      Runs (.contextWatchdog c) s counted ∧
      (k.armed = false → k.jobs = [] → Runs (.contextWatchdog c) s (fun t => SameMem s t ∧ t.cmds = s.cmds ∧
        t.core c.key = { k with halted := true, faults := min (k.faults + 1) 255, armed := true, lastKind := 5 } ∧
        ∀ i, i ≠ c.key → t.core i = s.core i)) ∧
      (∀ r m, k.armed = false → k.jobs = [r] → x.job = some r → s.cmd r = some m → m.phase = .started → m.opcode = 1 →
        m.eligible = true → m.lost = false → m.attempts < 4 → Runs (.contextWatchdog c) s (fun t =>
          t.cmd r = some { m with phase := .replay false, kind := 5, fcore := c.core.toNat, fdie := c.die.toNat } ∧
          ∀ y ∈ m.ctxs, (t.ctxOf y).mode = .idle)) ∧
      (k.armed = true → spare → Runs (.contextWatchdog c) s (fun t =>
        (t.die c.die.toNat).mapping = true ∧ (t.die c.die.toNat).spareCore = c.core.toNat)) ∧
      (k.armed = true → ¬ spare → s.mod.failed = false → Runs (.contextWatchdog c) s (fun t =>
        t.mod.failed = true ∧ t.mod.fcause = 1 ∧ t.mod.dieA = c.die.toNat)))

/-- Block-repeat instructions over one inkwell row (R155, R156, R165): with a count of 64 words and rows that the
handles allow, BMOV copies the row, BFILL fills it with x[rs1], and BCMP and BSCAN of a row that gives no early end only
advance; each leaves its locators one row on and its count 0. A step alone does the same. It rests on the model's own
choice of log entry 23. -/
def Obligations.BlockRepeatCompletes : Prop :=
  ∀ (s : State) (c : CtxRef) (w : Word32),
    let x := s.ctxOf c
    let k := s.core c.key
    let d := x.rx (wRd w)
    let a := x.rx (wRs1 w)
    let distinct := wRd w ≠ 0 ∧ wRs1 w ≠ 0 ∧ wRs2 w ≠ 0 ∧ wRd w ≠ wRs1 w ∧ wRd w ≠ wRs2 w ∧ wRs1 w ≠ wRs2 w
    let row (l : Word) (write : Bool) (p : Nat) : Prop := isInk l = true ∧ inkLocBad l = false ∧
      ∃ base, k.checkRows (inkHandle l) [inkRow l] write = .ok base ∧ p = base + inkRow l
    let advanced (both : Bool) (t : State) : Prop :=
      (t.ctxOf c).rx (wRd w) = d + 1 ∧ (t.ctxOf c).rx (wRs1 w) = (if both then a + 1 else a) ∧
      (t.ctxOf c).rx (wRs2 w) = 0 ∧ (t.ctxOf c).pc = x.pc + 4 ∧ SameMem s t
    distinct → x.rx (wRs2 w) = 64 → x.vecStoresDone = true →
    (∀ p q, Issues s .bmov c w → row d true p → row a false q → k.inkBad.contains q = false → k.mmNeeds p = false →
      Runs (.bmov c w) s (fun t => (t.core c.key).row p = k.row q ∧ advanced true t) ∧
      Runs (.blockRepeatStep c w) s (fun t => (t.core c.key).row p = k.row q ∧ advanced true t)) ∧
    (∀ p, Issues s .bfill c w → row d true p → k.mmNeeds p = false →
      Runs (.bfill c w) s (fun t =>
        (∀ i, i < 64 → fld ((t.core c.key).row p) (64 * i) 64 = a.toNat) ∧ advanced false t)) ∧
    (∀ p q, Issues s .bcmp c w → row d false p → row a false q → k.inkBad.contains p = false → k.inkBad.contains q = false →
      k.row p = k.row q → Runs (.bcmp c w) s (fun t => (t.core c.key).ink = k.ink ∧ advanced true t)) ∧
    (∀ p, Issues s .bscan c w → row d false p → k.inkBad.contains p = false →
      (∀ i, i < 64 → fld (k.row p) (64 * i) 64 ≠ a.toNat) →
      Runs (.bscan c w) s (fun t => (t.core c.key).ink = k.ink ∧ advanced false t))

namespace Sys2Proof.Claims

/-- A core that exists. -/
def CoreExists (k : CoreRef) : Prop := k.core.toNat < 20

/-- Only one core changed; its contexts are unchanged, and everything outside the cores is. -/
def OnlyCore (s t : State) (k : Nat) : Prop :=
  t = { s with cores := t.cores } ∧ SameMem s t ∧ (∀ i, i ≠ k → t.core i = s.core i) ∧ ∀ j, t.ctx k j = s.ctx k j

/-- A vector instruction can issue: its word, its TYPE is one that its row allows (R113), no mask that it reads is still
to be written (R119), and no register that it reads has a parity error (R136). -/
def VecIssues (s : State) (row : Row) (c : CtxRef) (w : Word32) (masks regs : List Nat) : Prop :=
  Issues s row c w ∧ typeOk row w = true ∧
  (∀ m ∈ (if vMask w = 0 then masks else vMask w :: masks), (s.ctxOf c).maskBusy m = false) ∧
  ∀ r ∈ regs, (s.ctxOf c).vbad.contains r = false

/-- The instruction is in flight with its result `o`, the pc is at the next instruction, and nothing else has changed: a
vector instruction's registers, flags and stores change when it commits (R120). -/
def InFlight (s t : State) (c : CtxRef) (o : VecOp) : Prop :=
  OnlyCtx s t c ∧ (t.core c.key).ctrPc = (s.core c.key).ctrPc ∧
  t.ctxOf c = { s.ctxOf c with pc := (s.ctxOf c).pc + 4, vq := (s.ctxOf c).vq ++ [{ o with pc := (s.ctxOf c).pc }] }

/-- Element k of a register image of elements of w bits. -/
def elem (v : BitVec 16384) (w k : Nat) : Nat := fld v (w * k) w

/-- The elements of an image of TYPE: the computed element at an active position; at an inactive one 0 when MZ is 1, else
the old element of vd (R122). -/
def Elements (x : Ctx) (w : Word32) (f : Nat → Nat) (v : BitVec 16384) : Prop :=
  ∀ k, k < typeCount (vType w) → elem v (typeWidth (vType w)) k =
    if x.active w k then f k % 2 ^ typeWidth (vType w)
    else if vMz w then 0 else elem (x.vreg (wRd w)) (typeWidth (vType w)) k

/-- The flags are those that some active position raises, the flags of position k being `f k`. -/
def FlagsOf (x : Ctx) (w : Word32) (f : Nat → BitVec 5) (fl : BitVec 5) : Prop :=
  ∀ i, i < 5 → fl.getLsbD i = (List.range (typeCount (vType w))).any (fun k => x.active w k && (f k).getLsbD i)

end Sys2Proof.Claims

/-- Matrix issue (R62, R63, R66, R68): MDSET writes its descriptor register; an MM that passes the checks of R66 and
R171 puts its request at the end of the core's waiting requests, with the descriptors as they are now, and changes
neither reservoir nor inkwell. It rests on the model's own choice of log entry 18. -/
def Obligations.MatrixIssueCompletes : Prop :=
  ∀ (s : State) (c : CtxRef) (w : Word32),
    let x := s.ctxOf c
    let k := s.core c.key
    (Issues s .mdset c w → x.awaitsReg (fld w 16 5) = false → x.awaitsReg (fld w 21 5) = false →
      Runs (.mdset c w) s (fun t => OnlyCtx s t c ∧
        t.ctxOf c = { x with pc := x.pc + 4, retired := x.retired + 1
                             md := SMap.set x.md (fld w 12 4) (x.rx (fld w 21 5) ++ x.rx (fld w 16 5)) })) ∧
    (∀ fa fb sb so tb ob,
      let dst := SMap.get x.md (fld w 20 4) 0
      let str := SMap.get x.md (fld w 16 4) 0
      let sta := SMap.get x.md (fld w 12 4) 0
      let q : MmReq := { ctx := c.idx, shape := fld w 7 3, mode := fld w 10 2, acc := w.getLsbD 24, dst := dst, str := str
                         sta := sta, strBase := sb, strOff := so, staBase := tb, staOff := ob }
      Issues s .mm c w → x.vecStoresDone = true → k.mmPending c.idx = false → k.passes.length < 16 → k.cwin = 0 →
      FmtWord.parse (OpDesc.parse str).fmtw = some fa → FmtWord.parse (OpDesc.parse sta).fmtw = some fb →
      mmBad (fld w 7 3) (fld w 10 2) (OpDesc.parse str) (OpDesc.parse sta) (DstDesc.parse dst) fa fb = false →
      k.operandCheck (OpDesc.parse str) fa = .inl (sb, so) → k.operandCheck (OpDesc.parse sta) fb = .inl (tb, ob) →
      Runs (.mm c w) s (fun t => (t.core c.key).mmWait = k.mmWait ++ [q] ∧ (t.core c.key).res = k.res ∧
        (t.core c.key).ink = k.ink ∧ t.ctxOf c = { x with pc := x.pc + 4, retired := x.retired + 1 } ∧ SameMem s t))

/-- Vector elementwise instructions (R115, R122, R123): each is in flight with its result for every position. It rests
on the model's own choice of log entry 14. -/
def Obligations.VectorElementwiseCompletes : Prop :=
  ∀ (s : State) (c : CtxRef) (w : Word32),
    let x := s.ctxOf c
    let t := vType w
    let a (k : Nat) : Nat := elem (x.vreg (wRs1 w)) (typeWidth t) k
    let b (k : Nat) : Nat := elem (x.vreg (wRs2 w)) (typeWidth t) k
    let d (k : Nat) : Nat := elem (x.vreg (wRd w)) (typeWidth t) k
    let shift := (x.rx (wRs2 w)).toNat
    let plain (f : Nat → Nat) (u : State) : Prop :=
      ∃ v, Elements x w f v ∧ InFlight s u c { destV := some (wRd w, v) }
    (VecIssues s .vfp c w [] (vfpRegs w ++ keepsOld w) → Runs (.vfp c w) s (fun u => ∃ v fx,
      Elements x w (fun k => (fpOp (typeFmt t) (vFunct w) (a k) (b k) (d k)).bits) v ∧
      FlagsOf x w (fun k => (fpOp (typeFmt t) (vFunct w) (a k) (b k) (d k)).flags) fx.fl ∧
      InFlight s u c (VecOp.ofV (wRd w) v fx))) ∧
    (VecIssues s .vint c w [] ([wRs1 w, wRs2 w] ++ keepsOld w) → Runs (.vint c w) s
      (plain (fun k => vintOp (typeWidth t) (vFunct w) (a k) (b k)))) ∧
    (VecIssues s .vmv c w [] ([wRs1 w] ++ keepsOld w) → Runs (.vmv c w) s (plain a)) ∧
    (VecIssues s .vbcx c w [] (keepsOld w) → Runs (.vbcx c w) s (plain (fun _ => (x.rx (wRs1 w)).toNat))) ∧
    (VecIssues s .viota c w [] (keepsOld w) → Runs (.viota c w) s (plain (fun k => k))) ∧
    (VecIssues s .vsldn c w [] ([wRs1 w] ++ keepsOld w) → Runs (.vsldn c w) s
      (plain (fun k => if k + shift < typeCount t then a (k + shift) else 0))) ∧
    (VecIssues s .vslup c w [] ([wRs1 w, wRd w] ++ keepsOld w) → Runs (.vslup c w) s
      (plain (fun k => if shift ≤ k then a (k - shift) else d k)))

/-- Vector functions, broadcasts of f registers, conversions and comparisons (R113, R115, R122, R126, R134): each is in
flight with its result; a function unit that is powered down starts to wake first, and nothing issues. It rests on the
model's own choices of log entries 11, 13 and 14. -/
def Obligations.VectorFunctionsComplete : Prop :=
  ∀ (s : State) (c : CtxRef) (w : Word32),
    let x := s.ctxOf c
    let t := vType w
    let a (k : Nat) : Nat := elem (x.vreg (wRs1 w)) (typeWidth t) k
    let b (k : Nat) : Nat := elem (x.vreg (wRs2 w)) (typeWidth t) k
    let xf (k : Nat) : FRes := vxfOp (typeFmt t) t (vFunct w) (a k) (b k)
    let regs := (if vFunct w = 0 then [wRs1 w, wRs2 w] else [wRs1 w]) ++ keepsOld w
    let bit (k : Nat) : Bool :=
      if vFunct w = 6 then decide (k < (x.rx (wRs1 w)).toNat)
      else if vFunct w = 7 then decide ((x.rx (wRs1 w)).toNat ≤ k) else (vcmpOp t (vFunct w) (a k) (b k)).1
    (VecIssues s .vxf c w [] regs → (s.core c.key).vxu = .on → Runs (.vxf c w) s (fun u => ∃ v fx,
      Elements x w (fun k => (xf k).bits) v ∧ FlagsOf x w (fun k => (xf k).flags) fx.fl ∧
      InFlight s u c { VecOp.ofV (wRd w) v fx with unit := some .vxu })) ∧
    (VecIssues s .vxf c w [] regs → (s.core c.key).vxu = .off → Runs (.vxf c w) s (fun u =>
      OnlyCore s u c.key ∧ (u.core c.key).vxu = .waking)) ∧
    (VecIssues s .vbcf c w [] (keepsOld w) → Runs (.vbcf c w) s (fun u => ∃ v fx,
      Elements x w (fun _ => ((FmtWord.reg (typeFmt t)).store 0 0 (Fmt.fp64.decode (x.rf (wRs1 w)).toNat)).bits) v ∧
      InFlight s u c (VecOp.ofV (wRd w) v fx))) ∧
    (∀ dw sw, VecIssues s .vcvt c w [] (wRs1 w :: wRd w :: []) → vcvtPlan (x.rx (wRs2 w)) t = some (dw, sw) →
      vMask w = 0 → dw.fmt.count = sw.fmt.count → dw.stoch = false → Runs (.vcvt c w) s (fun u => ∃ v fx,
        (∀ k, k < dw.fmt.count → elem v dw.fmt.width k =
          (dw.store 0 0 (sw.value (elem (x.vreg (wRs1 w)) sw.fmt.width k) 0)).bits % 2 ^ dw.fmt.width) ∧
        InFlight s u c (VecOp.ofV (wRd w) v fx))) ∧
    (VecIssues s .vcmp c w ((keepsOld w).map (fun r => r % 8)) (if 6 ≤ vFunct w then [] else [wRs1 w, wRs2 w]) → Runs (.vcmp c w) s (fun u =>
      ∃ m fl, (∀ k, k < 4096 → m.getLsbD k = (decide (k < typeCount t) &&
          (if x.active w k then bit k else !(vMz w) && (x.mreg (wRd w)).getLsbD k))) ∧
        InFlight s u c { destM := some (wRd w, m), flags := fl }))

/-- Masks, reductions and waking (R97, R112, R115, R123, R135): the mask operations on all 4,096 bits; VSUM over the
fixed tree, VMAX and VMIN over the active elements to an f or x register; VPOPC and VFIRST of a mask; VWAKE starts the
wake of the units that it names. It rests on the model's own choices of log entries 12 and 14. -/
def Obligations.VectorReductionsComplete : Prop :=
  ∀ (s : State) (c : CtxRef) (w : Word32),
    let x := s.ctxOf c
    let t := vType w
    let f := typeFmt t
    let n := typeCount t
    let a (k : Nat) : Nat := elem (x.vreg (wRs1 w)) (typeWidth t) k
    let leaves (blank : Nat) : List Nat := (List.range n).map (fun k => if x.active w k then a k else blank)
    let set : List Nat := (List.range n).filter (fun k => (x.mreg (wRs1 w)).getLsbD k && x.active w k)
    (VecIssues s .vmsk c w (vmskReads w) [] → Runs (.vmsk c w) s (fun u =>
      InFlight s u c { destM := some (wRd w, maskOp (vFunct w) (x.mreg (wRs1 w)) (x.mreg (wRs2 w))) })) ∧
    (VecIssues s .vsumF c w [] [wRs1 w] → Runs (.vsumF c w) s (fun u =>
      let r := treeSum (codeAdd f) (leaves f.signBit)
      InFlight s u c { destF := some (wRd w, toFp64 f (r.1.getD 0)), flags := r.2.fl, sat := r.2.sat, flush := r.2.flush })) ∧
    (VecIssues s .vsumI c w [] [wRs1 w] → Runs (.vsumI c w) s (fun u =>
      let r := treeSum (wrapAdd (typeWidth t)) (leaves 0)
      InFlight s u c { destX := some (wRd w, (BitVec.ofNat (typeWidth t) (r.1.getD 0)).signExtend 64) })) ∧
    (VecIssues s .vmaxF c w [] [wRs1 w] → Runs (.vmaxF c w) s (fun u =>
      InFlight s u c { destF := some (wRd w, (x.extreme w true).1), flags := (x.extreme w true).2 })) ∧
    (VecIssues s .vminF c w [] [wRs1 w] → Runs (.vminF c w) s (fun u =>
      InFlight s u c { destF := some (wRd w, (x.extreme w false).1), flags := (x.extreme w false).2 })) ∧
    (VecIssues s .vpopc c w [wRs1 w] [] → Runs (.vpopc c w) s (fun u =>
      InFlight s u c { destX := some (wRd w, BitVec.ofNat 64 set.length) })) ∧
    (VecIssues s .vfirst c w [wRs1 w] [] → Runs (.vfirst c w) s (fun u =>
      InFlight s u c { destX := some (wRd w, BitVec.ofNat 64 (set.headD n)) })) ∧
    (VecIssues s .vwake c w [] [] → Runs (.vwake c w) s (fun u => SameMem s u ∧
      (wRs1 w % 2 = 1 → (s.core c.key).vxu = .off → (u.core c.key).vxu = .waking) ∧
      (wRs1 w / 2 % 2 = 1 → (s.core c.key).vgu = .off → (u.core c.key).vgu = .waking) ∧ (u.ctxOf c).pc = x.pc + 4))

/-- Vector memory on inkwell rows (R122, R124, R125, R127, R129, R165, R172): a raw load takes the row's bytes into the active
positions; a raw store, a gather and a scatter are in flight with what they read or will write. A load and a gather correct
the single-bit errors of the rows that they read, and nothing else of the inkwell changes. Every check on the locator and the
handle is passed, no row holds an uncorrectable error, and no store of the context to the rows is on its way. It rests on the
model's own choice of log entry 14. -/
def Obligations.VectorMemoryCompletes : Prop :=
  ∀ (s : State) (c : CtxRef) (w : Word32),
    let x := s.ctxOf c
    let k := s.core c.key
    let l := x.rx (wRs1 w)
    let h := k.handle (inkHandle l)
    let usable (row : Nat) : Prop := isInk l = true ∧ inkLocBad l = false ∧ h.st = 1 ∧ row < h.count ∧
      x.vq = [] ∧ x.drain = [] ∧ ∀ p, k.inkBad.contains p = false
    let rows := (vgsActive x w).map (vgsRow x w)
    (∀ f, VecIssues s .vld c w [] (keepsOld w) → vMask w = 0 → (vType w = 6 ∨ vType w = 7) →
      memWord w (x.rx (wRs2 w)) = some f → (∀ i, i < 4 → usable (inkRow l + i)) →
      Runs (.vld c w) s (fun u => ∃ v,
        InFlight ((s.correctRows c.key ((List.range 4).map (fun i => h.base + (inkRow l + i)))).ctxDone c) u c
          { destV := some (wRd w, v) } ∧
        ∀ i, i < typeCount (vType w) → elem v (typeWidth (vType w)) i =
          fld (k.row (h.base + inkRow l + typeWidth (vType w) * i / 4096)) (typeWidth (vType w) * i % 4096)
            (typeWidth (vType w)))) ∧
    (∀ f, VecIssues s .vst c w [] [wRd w] → vMask w = 0 → (vType w = 6 ∨ vType w = 7) →
      memWord w (x.rx (wRs2 w)) = some f → (∀ i, i < 4 → usable (inkRow l + i)) → h.wp = false →
      Runs (.vst c w) s (fun u => ∃ stores, InFlight (s.ctxDone c) u c { stores := stores } ∧
        stores = (List.range 4).map (fun i => VStore.ink (h.base + inkRow l + i) (inkHandle l) (inkRow l + i)
          (BitVec.allOnes 4096) ((x.vreg (wRd w)).extractLsb' (4096 * i) 4096)))) ∧
    (VecIssues s .vgath c w [] (wRs2 w :: wRd w :: []) → k.vgu = .on → vgsTrap x w = none → (∀ r ∈ rows, usable r) →
      rows ≠ [] → Runs (.vgath c w) s (fun u => ∃ v,
        InFlight ((s.correctRows c.key (rows.map (fun r => h.base + r))).ctxDone c) u c
          { destV := some (wRd w, v), unit := some .vgu } ∧
        ∀ i ∈ vgsActive x w, i < typeCount (vType w) → elem v (typeWidth (vType w)) i =
          fld (k.row (h.base + vgsRow x w i)) (8 * (vgsInk x w i % 512).toNat) (typeWidth (vType w)))) ∧
    (VecIssues s .vscat c w [] [wRs2 w, wRd w] → k.vgu = .on → vgsTrap x w = none → (∀ r ∈ rows, usable r) → h.wp = false →
      rows ≠ [] → Runs (.vscat c w) s (fun u => InFlight s u c { unit := some .vgu, stores := (vgsActive x w).map (fun i =>
        let bit := 8 * (vgsInk x w i % 512).toNat
        VStore.ink (h.base + vgsRow x w i) (inkHandle l) (vgsRow x w i)
          (BitVec.ofNat 4096 ((2 ^ typeWidth (vType w) - 1) * 2 ^ bit))
          (BitVec.ofNat 4096 (elem (x.vreg (wRd w)) (typeWidth (vType w)) i * 2 ^ bit))) }))

/-- Passes of the matrix unit (R68, R82, R84, R85, R86, R89): the next waiting request is accepted as a pass with the outputs
of the inkwell as it is; a closing cursive group becomes one pass; the oldest pass writes its outputs, a FIXED sum
replacing or adding to its entry; a comparison of a row's outputs, disturbed by an error, with the expected sum holds for an
integer format when they are equal, and for FP16 and BF16 when they differ by at most the magnitude sum times 2^-S plus
2^-136; one that holds, and one that the pass does not make, changes nothing, and a failed one is captured in MXU_FSTAT and
halts the core. It rests on the model's own choices of log entries 18 and 75. -/
def Obligations.MatrixPassesComplete : Prop :=
  ∀ (s : State) (r : CoreRef), CoreExists r →
    let k := s.core r.key
    (∀ q, k.halted = false → k.cwin = 0 → k.group = [] → k.passes.length < 16 → k.revokedReq = none → k.nextReq = some q →
      k.badRow (passRows (k.retains q) [q]) = none →
      Runs (.mmAccept r) s (fun t => OnlyCore s t r.key ∧ (t.core r.key).mmWait = (k.dropReq q).mmWait ∧
        (t.core r.key).res = k.res ∧ (t.core r.key).ink = k.ink ∧ (t.core r.key).lastCtx = q.ctx ∧
        (t.core r.key).passes = k.passes ++ [{ shape := q.shape, mode := q.mode, fmt := q.fmtCode, rows := q.rows
                                               parts := [k.partOf q (!(k.retains q))] }])) ∧
    (∀ q qs, k.halted = false → k.group = q :: qs → k.passes.length < 16 → k.revokedReq = none → k.mmWait = [] → k.group.any k.mmBlocked = false →
      k.badRow (passRows (k.retains q) (q :: qs)) = none → (s.die r.die.toNat).traces = [] →
      Runs (.cursiveGroupClose r) s (fun t => OnlyCore s t r.key ∧ (t.core r.key).group = [] ∧
        (t.core r.key).groupClosed = false ∧ (t.core r.key).res = k.res ∧ (t.core r.key).ink = k.ink ∧
        ∃ p, (t.core r.key).passes = k.passes ++ [p] ∧ p.shape = q.shape ∧ p.mode = q.mode ∧
          p.parts = k.partsOf (k.retains q) (q :: qs))) ∧
    (∀ p rest part e n c, k.passes = p :: rest → p.parts = [part] → part.outs = [(e, .fixed [n] c 0)] →
      fitsInt 128 n = true →
      Runs (.mmPassComplete r 0) s (fun t => (t.core r.key).passes = rest ∧ (t.core r.key).ink = k.ink ∧ SameMem s t ∧
        (part.acc = false → (t.core r.key).entryVal e = RVal.fixed n c 0) ∧
        (∀ o, part.acc = true → k.entryVal e = RVal.fixed o c 0 → fitsInt 128 o = true → fitsInt 128 (o + n) = true →
          (t.core r.key).entryVal e = RVal.fixed (o + n) c 0) ∧
        (∀ i, i ≠ e → SMap.get (t.core r.key).res i {} = SMap.get k.res i {}) ∧
        (∀ j, j ≠ part.ctx → t.ctx r.key j = s.ctx r.key j) ∧ ∀ i, i ≠ r.key → t.core i = s.core i)) ∧
    (∀ f, k.chkSums f = none → k.failedCheck f = none) ∧
    (∀ f p q fmt v, k.chkSums f = some (p, q, fmt, v) →
      let off : Nat := (v.expected - (v.row + f.err)).natAbs
      let within (tol : Nat) : Prop := off * 2 ^ tol ≤ v.magnitude + 2 ^ tol * 2 ^ 164
      k.failedCheck f = none ↔ (match fmt with | .bf16 => within k.ctolBf16 | .fp16 => within k.ctolFp16 | _ => off = 0)) ∧
    (∀ f, k.failedCheck f = none → Runs (.arrayChecksumFault r f) s (fun t => t = s)) ∧
    (∀ f p q, k.failedCheck f = some (p, q) → k.jobs = [] → k.armed = false →
      Runs (.arrayChecksumFault r f) s (fun t => t.core r.key = { k with
        fstat := k.fstat.capture p q f, halted := true, faults := min (k.faults + 1) 255, armed := true, lastKind := 1 }))

namespace Sys2Proof.Claims

/-- A reservoir instruction passes its checks (R132) and waits for nothing (R78): its descriptor with no scale of 2 and OP
0, the format of its elements, which are not rounded stochastically, and entries of its active positions in range. -/
def ResIssues (s : State) (row : Row) (c : CtxRef) (w : Word32) (regs : List Nat) (raw : Bool) (o : FmtWord) : Prop :=
  let x := s.ctxOf c
  let d := EdDesc.parse (SMap.get x.ed (vType w) 0)
  let act := (List.range (if raw then 32 else o.fmt.count)).filter (x.active w)
  VecIssues s row c w [] regs ∧ d.words (row == .vrrd) = some (o, none) ∧ o.scale ≠ 2 ∧ o.stoch = false ∧
  (∀ e ∈ act, d.entry (x.rx (wRs1 w)).toNat e < 16384) ∧
  (s.core c.key).resBusy c.idx (bothBanks (act.map (fun e => d.entry (x.rx (wRs1 w)).toNat e))) = false

/-- The reservoir entry of position e of a reservoir instruction (R131), with its bank. -/
def resEntry (x : Ctx) (w : Word32) (e : Nat) : Nat :=
  let d := EdDesc.parse (SMap.get x.ed (vType w) 0)
  d.number (d.entry (x.rx (wRs1 w)).toNat e)

/-- The code that a position of a reservoir read gives with OP 0 (R98, R99): the entry's value times μ, rounded once. -/
def resCode (s : State) (c : CtxRef) (w : Word32) (o : FmtWord) (e : Nat) : Nat :=
  let x := s.ctxOf c
  let d := EdDesc.parse (SMap.get x.ed (vType w) 0)
  (o.store 0 0 (mulF ((s.core c.key).entryVal (resEntry x w e)).value (d.mu x w)).1).bits % 2 ^ o.fmt.width

end Sys2Proof.Claims

/-- Reservoir reads (R98, R99, R108, R122, R130, R131): VEDSET writes its descriptor; VRRD puts each active entry
through the epilogue into vd; VRST with every position active stores the same codes to four inkwell rows; VRRAW takes
raw records. The reservoir does not change. It rests on the model's own choices of log entries 12 and 14. -/
def Obligations.ReservoirReadsComplete : Prop :=
  ∀ (s : State) (c : CtxRef) (w : Word32),
    let x := s.ctxOf c
    let k := s.core c.key
    let l := x.rx (wRd w)
    let h := k.handle (inkHandle l)
    (VecIssues s .vedset c w [] [] → Runs (.vedset c w) s (fun u => OnlyCtx s u c ∧
      u.ctxOf c = { x with pc := x.pc + 4, ed := SMap.set x.ed (wRd w) (x.rx (wRs2 w) ++ x.rx (wRs1 w))
                           vq := x.vq ++ [{ pc := x.pc }] })) ∧
    (∀ o, ResIssues s .vrrd c w (keepsOld w) false o → Runs (.vrrd c w) s (fun u => ∃ v fx,
      (∀ e, e < o.fmt.count → elem v o.fmt.width e =
        if x.active w e then resCode s c w o e else if vMz w then 0 else elem (x.vreg (wRd w)) o.fmt.width e) ∧
      InFlight s u c (VecOp.ofV (wRd w) v fx))) ∧
    (∀ o, ResIssues s .vrst c w [] false o → vMask w = 0 → isInk l = true → inkLocBad l = false → h.st = 1 →
      h.wp = false → (∀ i, i < 4 → inkRow l + i < h.count) → Runs (.vrst c w) s (fun u => ∃ (v : BitVec 16384) (fx : Fx),
        (∀ e, e < o.fmt.count → elem v o.fmt.width e = resCode s c w o e) ∧
        InFlight (s.ctxDone c) u c {
          flags := fx.fl, sat := fx.sat, flush := fx.flush
          stores := (List.range 4).map (fun i => VStore.ink (h.base + inkRow l + i) (inkHandle l) (inkRow l + i)
                           (BitVec.allOnes 4096) (v.extractLsb' (4096 * i) 4096)) })) ∧
    (∀ o, ResIssues s .vrraw c w (keepsOld w) true o → Runs (.vrraw c w) s (fun u => ∃ v,
      (∀ e, e < 32 → elem v 512 e = if x.active w e then (k.entryVal (resEntry x w e)).rawBits.toNat
        else if vMz w then 0 else elem (x.vreg (wRd w)) 512 e) ∧
      InFlight s u c { destV := some (wRd w, v) }))

/-- Reservoir writes by the vector engine (R89, R108, R131): VRCLR clears the entries of its active positions; VRCOMB
with one active position stores that entry combined with the record of its position, and counts a mismatch and a
saturation. Both change the reservoir when they drain (R121). It rests on the model's own choices of log entries 14 and
20. -/
def Obligations.ReservoirWritesComplete : Prop :=
  ∀ (s : State) (c : CtxRef) (w : Word32) (o : FmtWord),
    let x := s.ctxOf c
    let k := s.core c.key
    (ResIssues s .vrclr c w [] false o →
      (∀ e, e < o.fmt.count → x.active w e = true → (k.entryVal (resEntry x w e)).tag.dom ≠ 3) →
      Runs (.vrclr c w) s (fun u => ∃ es : List Nat, InFlight s u c { stores := es.map (fun e => VStore.res e {}) } ∧
        ∀ n, n ∈ es ↔ ∃ e, e < o.fmt.count ∧ x.active w e = true ∧ n = resEntry x w e)) ∧
    (∀ e, ResIssues s .vrcomb c w [wRd w] true o → (List.range 32).filter (x.active w) = [e] →
      let v := RVal.ofRaw ((x.vreg (wRd w)).extractLsb' (512 * e) 512)
      let r := combine (k.entryVal (resEntry x w e)) v
      v.tag.dom ≠ 3 → Runs (.vrcomb c w) s (fun u =>
        InFlight s u c { stores := [VStore.res (resEntry x w e) { data := r.val.lo, tag := r.val.tag.bits }]
                         mismatch := b2n r.mismatch, resOvf := b2n r.ovf }))

/-- Commit, drain and power of the vector engine (R120, R121, R134, R165): the oldest instruction in flight writes its
registers and its flags; a drained store writes its inkwell row, its reservoir entry or its byte of a line of stack memory that
the die cache holds; a unit powers down unless KEEP is 1 or an instruction is in flight in it, and finishes its wake. It rests
on the model's own choice of log entry 14. -/
def Obligations.VectorCommitAndDrainComplete : Prop :=
  ∀ (s : State) (c : CtxRef), c.core.toNat < 20 →
    let x := s.ctxOf c
    let k := s.core c.key
    (∀ o rest, x.vq = o :: rest → o.sat = 0 → o.flush = 0 → x.job = none → Runs (.vectorCommit c) s (fun t =>
      let y := t.ctxOf c
      OnlyCtx s t c ∧ y.vq = rest ∧ y.retired = x.retired + 1 ∧ y.pc = x.pc ∧ y.vxflg = x.vxflg ||| o.flags ∧
      y.drain = (if o.stores = [] then x.drain else x.drain ++ [o]) ∧
      (∀ r, SMap.get y.v r 0 = (match o.destV with | some (d, v) => if r = d then v else SMap.get x.v r 0
                                                   | none => SMap.get x.v r 0)) ∧
      (∀ r, y.mreg r = (match o.destM with | some (d, v) => if r = d then v else x.mreg r | none => x.mreg r)) ∧
      (∀ r, y.rx r = (match o.destX with | some (d, v) => if r = d ∧ r ≠ 0 then v else x.rx r | none => x.rx r)) ∧
      (∀ r, y.rf r = (match o.destF with | some (d, v) => if r = d then v else x.rf r | none => x.rf r)))) ∧
    (∀ o rest p h i d, x.drain = o :: rest → o.stores = [.ink p h i (BitVec.allOnes 4096) d] → k.mmNeeds p = false →
      (∀ e ∈ k.sb, e.ctx ≠ c.idx) → Runs (.vectorStoreDrain c) s (fun t => (t.core c.key).row p = d ∧
        (∀ q, q ≠ p → (t.core c.key).row q = k.row q) ∧ (t.core c.key).res = k.res ∧ t.ctxOf c = { x with drain := rest } ∧
        SameMem s t)) ∧
    (∀ o rest e v, x.drain = o :: rest → o.stores = [.res e v] → (∀ e ∈ k.sb, e.ctx ≠ c.idx) →
      SMap.wf k.res = true → Runs (.vectorStoreDrain c) s (fun t => (∀ i, SMap.get (t.core c.key).res i {} = if i = e then v
          else SMap.get k.res i {}) ∧ (t.core c.key).ink = k.ink ∧ t.ctxOf c = { x with drain := rest } ∧ SameMem s t)) ∧
    (∀ o rest spa va b, x.drain = o :: rest → o.stores = [.mem (.stack spa) va b] → (∀ e ∈ k.sb, e.ctx ≠ c.idx) → CacheHas s spa →
      Runs (.vectorStoreDrain c) s (fun t => (∀ a, Memory.wf s.mem = true →
          Memory.read t.mem a = if a = spa then b else Memory.read s.mem a) ∧
        (t.core c.key).ink = k.ink ∧ (t.core c.key).res = k.res ∧ t.ctxOf c = { x with drain := rest })) ∧
    (∀ (r : CoreRef) u, CoreExists r → (s.core r.key).unit u = .on → (s.core r.key).keep u = false →
      (s.core r.key).unitBusy u = false →
      Runs (.unitPowerDown r u) s (fun t => OnlyCore s t r.key ∧ t.core r.key = (s.core r.key).setUnit u .off)) ∧
    (∀ (r : CoreRef) u, CoreExists r → (s.core r.key).keep u = true ∨ (s.core r.key).unitBusy u = true →
      Runs (.unitPowerDown r u) s (fun t => OnlyCore s t r.key ∧ t.core r.key = s.core r.key)) ∧
    (∀ (r : CoreRef) u, CoreExists r → (s.core r.key).unit u = .waking →
      Runs (.unitWakeDone r u) s (fun t => OnlyCore s t r.key ∧ t.core r.key = (s.core r.key).setUnit u .on))

namespace Sys2Proof.Claims

/-- A collective was launched at a member die (R313): it has the next OPSEQ of its group there, and waits for its turn. -/
def Launched (s t : State) (owner : LigOwner) (die : Nat) (img : BitVec 1024) (opseq : Nat) : Prop :=
  opseq = SMap.get (s.group (Coll.parse img).group).launched die 0 + 1 ∧
  SMap.get (t.group (Coll.parse img).group).launched die 0 = opseq ∧
  ∃ o, t.ligOps = s.ligOps ++ [o] ∧ o.group = (Coll.parse img).group ∧ o.die = die ∧ o.opseq = opseq ∧ o.owner = owner ∧
    o.image = img ∧ o.phase = .queued

/-- An inkwell row that a context can read through a locator (R171, R172). -/
def ReadableRow (k : Core) (l : Word) : Prop :=
  isInk l = true ∧ inkLocBad l = false ∧ (k.handle (inkHandle l)).st = 1 ∧ inkRow l < (k.handle (inkHandle l)).count ∧
  k.inkBad.contains ((k.handle (inkHandle l)).base + inkRow l) = false

/-- The n bytes of an image that a cp1 or cp2 instruction reads at its locator (R252, R314): of an inkwell row, or, at a multiple
of 64, of a page of stack memory, whose lines are at hand once the address is translated. -/
def ImageAt (s : State) (c : CtxRef) (l : Word) (n : Nat) (bs : List Byte) : Prop :=
  let k := s.core c.key
  (ReadableRow k l ∧ bs = (rowBytes (k.row ((k.handle (inkHandle l)).base + inkRow l))).take n) ∨
  (isInk l = false ∧ l.toNat % 2 ^ 25 + n ≤ 2 ^ 25 ∧ ∃ spa u, StackAccess s c l 64 .read spa u ∧
    (s.ctxOf c).vecStoreMeets (.stack spa) n = false ∧ (∀ i, i < n → AtHand u c (spa + i)) ∧
    bs = (List.range n).map (fun i => SeenByte s c (spa + i)))

/-- A cp1 or cp2 instruction completes: xd is `v`, the pc is at the next instruction, and of the context nothing else changes but
the tags, counts and generator that `y` names. Memory, the inkwell, the queues and every other context are unchanged. -/
def GivesTag (s t : State) (c : CtxRef) (rd : Nat) (v : Word) (y : Ctx) : Prop :=
  t.ctxOf c = { y with pc := y.pc + 4, x := (t.ctxOf c).x, retired := y.retired + 1 } ∧
  (∀ r, (t.ctxOf c).rx r = if r = rd ∧ r ≠ 0 then v else (s.ctxOf c).rx r) ∧ SameMem s t ∧
  (t.core c.key).ink = (s.core c.key).ink ∧ t.queues = s.queues ∧ t.cmds = s.cmds ∧
  ∀ k j, k ≠ c.key ∨ j ≠ c.idx → t.ctx k j = s.ctx k j

end Sys2Proof.Claims

/-- FEED.START, FEED.WAIT, LIG.START and LIG.WAIT, with an image in an inkwell row or in stack memory (R171, R252, R314, R341).
A start that passes its checks puts the lowest free tag into xd and keeps the transfer, which takes the context's next draws, or
launches the collective, under it; with no free tag it waits, and an image that fails its checks raises the illegal-operand
trap. In a replay LIG.START joins the operation kept at its place, and a different image ends the command with
FAULT_UNRECOVERED, REASON 7. A collective that an abort has ended, or for which there is no module number, has ended at once
with PEER_LOST. A wait for one that has ended gives its status and frees the tag, one for a tag that is not outstanding gives 0,
and any other waits. A locator that is no multiple of 64, or with one of bits [63:48] set, traps. It rests on the model's own
choices of log entries 49 and 64. -/
def Obligations.CoprocessorTagsComplete : Prop :=
  ∀ (s : State) (c : CtxRef) (w : Word32) (bs : List Byte),
    let x := s.ctxOf c
    let l := x.rx (wRs1 w)
    let tag := l.toNat
    let rd := wRd w
    let waits (i : Instr) : Prop := Runs i s (fun t => t.ctxOf c = x ∧ SameMem s t ∧ t.cmds = s.cmds)
    let traps (i : Instr) (cause : Nat) (arg : Word) : Prop := CanTrap s c → Runs i s (fun t => EntersHandler s t c cause arg)
    let fd : BitVec 896 := BitVec.ofNat 896 (leNat bs)
    let f := FeedDesc.parse fd
    let n := f.drawCount f.op
    let feedOk := s.feedCheck (s.tenantOf c.key) c.die.toNat f.op f = none
    let feedBusy (i : Nat) : Bool := match SMap.find x.feedTags i with | some y => !y.isComplete | none => false
    let img : BitVec 1024 := BitVec.ofNat 1024 (leNat bs)
    let cl := Coll.parse img
    let g := s.group cl.group
    let opseq := SMap.get g.launched c.die.toNat 0 + 1
    let collOk := isColl cl.op = true ∧ cl.queue / 512 = c.die.toNat ∧ s.collOk (s.tenantOf c.key) cl
      ((pkSlots img).map slotRange ++ (match x.job.bind s.cmd with | some m => m.ranges | none => [])) = true
    let ligBusy (i : Nat) : Bool := match SMap.find x.ligTags i with | some y => y.status.isNone | none => false
    let joins (i : Nat) (o : LigTag) : Ctx := { x with ligTags := SMap.set x.ligTags i o, ligCount := x.ligCount + 1 }
    (Issues s .feedStart c w → ImageAt s c l 112 bs →
      (∀ i, feedOk → freeTag feedBusy = some i → n = 0 ∨ x.vq = [] → Runs (.feedStart c w) s (fun t =>
        GivesTag s t c rd (BitVec.ofNat 64 i) { x with
          feedTags := SMap.set x.feedTags i { op := f.op, desc := fd, gen := x.gen }
          gen := if n = 0 then x.gen else .val (lfsrAfter n x.gen.value) })) ∧
      (feedOk → freeTag feedBusy = none ∨ (n ≠ 0 ∧ x.vq ≠ []) → waits (.feedStart c w)) ∧
      (¬ feedOk → traps (.feedStart c w) 2 (w.setWidth 64))) ∧
    (Issues s .feedStart c w → isInk l = false → l.toNat % 64 ≠ 0 → traps (.feedStart c w) 3 l) ∧
    (Issues s .feedStart c w → isInk l = false → l.toNat % 64 = 0 → 2 ^ 48 ≤ tag → traps (.feedStart c w) 5 l) ∧
    (Issues s .feedWait c w →
      (SMap.find x.feedTags tag = none → Runs (.feedWait c w) s (fun t => GivesTag s t c rd 0 x)) ∧
      (∀ y code detail, SMap.find x.feedTags tag = some y → y.phase = .complete code detail → Runs (.feedWait c w) s (fun t =>
        GivesTag s t c rd (BitVec.ofNat 64 code) { x with feedTags := SMap.del x.feedTags tag })) ∧
      (∀ y, SMap.find x.feedTags tag = some y → y.isComplete = false → Runs (.feedWait c w) s (fun t => t = s))) ∧
    (Issues s .ligStart c w → ImageAt s c l 64 bs →
      (∀ i, collOk → freeTag ligBusy = some i →
        (x.kept[x.ligCount]? = none → s.mod.placeValid = true → (∀ a ∈ g.aborted, a.1 ≠ c.die.toNat ∨ a.2.1 ≠ opseq) →
          Runs (.ligStart c w) s (fun t =>
            let o : LigTag := { group := cl.group, opseq := opseq, image := img }
            GivesTag s t c rd (BitVec.ofNat 64 i) { joins i o with kept := x.kept ++ [o] } ∧
            Launched s t (.cp2 c x.kept.length) c.die.toNat img opseq)) ∧
        (x.kept[x.ligCount]? = none → s.mod.placeValid = true → (∃ a ∈ g.aborted, a.1 = c.die.toNat ∧ a.2.1 = opseq) →
          Runs (.ligStart c w) s (fun t => (t.ctxOf c).pc = x.pc + 4 ∧ ((rd ≠ 0 → (t.ctxOf c).rx rd = BitVec.ofNat 64 i)) ∧
            SMap.find (t.ctxOf c).ligTags i = some { group := cl.group, opseq := opseq, image := img, status := some 10 })) ∧
        (x.kept[x.ligCount]? = none → s.mod.placeValid = false → (∀ o ∈ s.ligOps, o.opseq ≠ 0) →
          Runs (.ligStart c w) s (fun t =>
            let o : LigTag := { group := cl.group, opseq := 0, image := img, status := some 10 }
            GivesTag s t c rd (BitVec.ofNat 64 i) { joins i o with kept := x.kept ++ [o] })) ∧
        (∀ old, x.kept[x.ligCount]? = some old → old.image = img → Runs (.ligStart c w) s (fun t =>
          GivesTag s t c rd (BitVec.ofNat 64 i) (joins i old))) ∧
        (∀ old r m, x.kept[x.ligCount]? = some old → old.image ≠ img → x.job = some r → s.cmd r = some m →
          m.isComplete = false → m.status = 0 → Runs (.ligStart c w) s (fun t => ∃ e, t.cmd r = some e ∧ e.isComplete = true ∧
            e.status = 7 ∧ e.detail = faultDetail m.kind 7 m.fcore m.fdie))) ∧
      (collOk → freeTag ligBusy = none → waits (.ligStart c w)) ∧
      (¬ collOk → traps (.ligStart c w) 2 (w.setWidth 64))) ∧
    (Issues s .ligStart c w → isInk l = false → l.toNat % 64 ≠ 0 → traps (.ligStart c w) 3 l) ∧
    (Issues s .ligStart c w → isInk l = false → l.toNat % 64 = 0 → 2 ^ 48 ≤ tag → traps (.ligStart c w) 5 l) ∧
    (Issues s .ligWait c w →
      (SMap.find x.ligTags tag = none → Runs (.ligWait c w) s (fun t => GivesTag s t c rd 0 x)) ∧
      (∀ y code, SMap.find x.ligTags tag = some y → y.status = some code → Runs (.ligWait c w) s (fun t =>
        GivesTag s t c rd (BitVec.ofNat 64 code) { x with ligTags := SMap.del x.ligTags tag })) ∧
      (∀ y, SMap.find x.ligTags tag = some y → y.status = none → Runs (.ligWait c w) s (fun t => t = s)))

namespace Sys2Proof.Claims

/-- Only one die changed. -/
def OnlyDie (s t : State) (d : Nat) : Prop := t = { s with dies := t.dies } ∧ ∀ e, e ≠ d → t.die e = s.die e

/-- A command completed with an outcome, and no other command changed. -/
def Completes (s t : State) (r : CmdRef) (m : Cmd) (status detail result : Nat) : Prop :=
  t.cmd r = some { m.finish status detail with result := result } ∧ ∀ q, q ≠ r → t.cmd q = s.cmd q

end Sys2Proof.Claims

/-- Lines of the die cache (R183, R189, R190, R191, R194, R195, R196). A line that its channel serves arrives: it leaves its
miss register and takes the free way of its tenant's, and with an uncorrectable error it is recorded, and poisoned unless a write
has covered it; an engine that waits for it goes on. Of a held line a correction counts, a clean one with an uncorrectable error
is dropped and asked for again, and a dirty one is poisoned. The eviction buffer's oldest entry goes to its channel's write
queue, and leaves the buffer when a draining channel has written it; an expired tracker is freed. None of this changes a byte of
memory. It rests on the model's own choices of log entries 30, 31 and 77. -/
def Obligations.DieCacheEventsComplete : Prop :=
  ∀ (s : State) (die : BitVec 5) (line : BitVec 31) (slice : BitVec 4) (i : BitVec 3), line.toNat < 2 ^ 26 →
    let n := die.toNat
    let d := s.die n
    let spa := lineSpa n line.toNat
    let served := (d.chan (chanOf line.toNat)).nextRead s.farShare
    (∀ m p w, served = some p → p.1.line = line.toNat → d.misses.find? (fun x => x.line == line.toNat) = some m →
      d.fetches = [] → d.holds line.toNat = none → d.wayFor m.tenant (setKey spa) = some w →
      (∀ l ∈ d.setLines (setKey spa), l.way ≠ w) →
      let arrived (t : State) : Prop := (t.die n).misses = delFirst (fun x => x.line == line.toNat) d.misses ∧
        (t.die n).holds line.toNat = some { line := line.toNat, way := w, dirty := m.dirty, keep := m.keep, tenant := m.tenant } ∧
        ((t.die n).chan (chanOf line.toNat)).reads = delFirst (fun r => r == p.1) (d.chan (chanOf line.toNat)).reads ∧ SameMem s t
      (m.readers = [] →
        Runs (.dcLineFill die line .clean) s (fun t => arrived t ∧ t.poison = s.poison ∧ (t.die n).stkCorr = d.stkCorr) ∧
        Runs (.dcLineFill die line .corrected) s (fun t => arrived t ∧ t.poison = s.poison ∧
          (t.die n).stkCorr = min (d.stkCorr + 1) 65535) ∧
        (d.stkUe = false → Runs (.dcLineFill die line .uncorrectable) s (fun t => arrived t ∧
          (m.whole = false → t.poison.contains (spa / 256) = true) ∧ (m.whole = true → t.poison = s.poison) ∧
          (t.die n).stkUe = true ∧ (t.die n).stkUeLine = line.toNat ∧ (t.die n).stkScrubUe = false))) ∧
      (∀ e, m.readers = [e] → s.poison.contains (spa / 256) = false →
        Runs (.dcLineFill die line .clean) s (fun t => arrived t ∧ t.hasArrived e (.stack spa) = true ∧ t.cores = s.cores))) ∧
    (∀ h, (∀ p, served = some p → p.1.line ≠ line.toNat) → d.holds line.toNat = some h →
      Runs (.dcLineFill die line .clean) s (fun t => t = s) ∧
      Runs (.dcLineFill die line .corrected) s (fun t => OnlyDie s t n ∧
        t.die n = { d with dcCorr := min (d.dcCorr + 1) 65535 }) ∧
      (h.dirty = false → Runs (.dcLineFill die line .uncorrectable) s (fun t => OnlyDie s t n ∧
        (t.die n).dcUeClean = min (d.dcUeClean + 1) 65535 ∧ (t.die n).holds line.toNat = none ∧
        (d.misses = [] → d.ways h.tenant (placeOf spa).slice ≠ [] → (d.chan (chanOf line.toNat)).reads = [] →
          (∃ m, (t.die n).misses = [m] ∧ m.line = line.toNat) ∧
          ((t.die n).chan (chanOf line.toNat)).reads = [{ line := line.toNat, tenant := h.tenant }]))) ∧
      (h.dirty = true → Runs (.dcLineFill die line .uncorrectable) s (fun t => SameMem s t ∧
        t.die n = { d with dcPoison := min (d.dcPoison + 1) 65535 } ∧ t.poison.contains (spa / 256) = true))) ∧
    (∀ e, (∀ j, j < 5 → (d.chan (5 * slice.toNat + j)).drain = false) →
      (d.evictsOf slice.toNat).find? (fun e => !e.issued && decide ((d.chan (chanOf e.line)).writes.length < 64)) = some e →
      Runs (.evictionWriteback die slice) s (fun t => OnlyDie s t n ∧
        (t.die n).evicts = updFirst (fun x => x == e) (fun x => { x with issued := true }) d.evicts ∧
        ((t.die n).chan (chanOf e.line)).writes = (d.chan (chanOf e.line)).writes ++
          [{ line := e.line, tenant := e.tenant, back := true }])) ∧
    (∀ j p, j < 5 → (∀ k, k < 5 → ((d.chan (5 * slice.toNat + k)).drain = true ↔ k = j)) →
      (d.chan (5 * slice.toNat + j)).nextWrite s.farShare = some p → p.1.back = true →
      Runs (.evictionWriteback die slice) s (fun t => OnlyDie s t n ∧
        (t.die n).evicts = delFirst (fun e => e.line == p.1.line && e.issued) d.evicts ∧
        ((t.die n).chan (5 * slice.toNat + j)).writes = delFirst (fun r => r == p.1) (d.chan (5 * slice.toNat + j)).writes ∧
        SMap.get (t.die n).ctrs 0x10 0 = min (SMap.get d.ctrs 0x10 0 + 1) (2 ^ 64 - 1))) ∧
    Runs (.ssdTrackerExpire die slice i) s (fun t => OnlyDie s t n ∧
      SMap.find (t.die n).trackers (slice.toNat * 8 + i.toNat) = none)

/-- Scrubbing, and the end of an inkwell clear (R172, R173, R195, R197). The inkwell scrubber corrects the row's single-bit
errors and moves to the next row; a corrected row counts up to 65,535; an uncorrectable one, new or known, is recorded in
INK_ECC, with SCRUB 1, if no record stands, and no context stops. Each stack channel's scrubber moves to its next line; a
corrected line counts; an uncorrectable one that the die cache does not hold is poisoned and recorded in STK_ECC with SCRUB 1.
-/
def Obligations.ScrubbersComplete : Prop :=
  (∀ (s : State) (r : CoreRef), CoreExists r →
     let k := s.core r.key
     let p := k.scrubRow
     let k1 : Core := { k.correctRows [p] with scrubRow := (p + 1) % 16384 }
     let recorded (k : Core) : Core := if k.eccUe then k else { k with eccUe := true, eccRow := p, eccScrub := true }
     (k.inkSoft.contains p = false → k1 = { k with scrubRow := (p + 1) % 16384 }) ∧
     (∀ a b, k.inkSoft = a ++ p :: b → p ∉ a → p ∉ b → k1 =
       { k with scrubRow := (p + 1) % 16384, inkSoft := a ++ b, eccCorr := min (k.eccCorr + 1) 65535 }) ∧
     (k.inkClearing = false → k.inkBad.contains p = false →
       Runs (.inkwellScrub r .clean) s (fun t => OnlyCore s t r.key ∧ t.core r.key = k1) ∧
       Runs (.inkwellScrub r .corrected) s (fun t => OnlyCore s t r.key ∧
         t.core r.key = { k1 with eccCorr := min (k1.eccCorr + 1) 65535 }) ∧
       Runs (.inkwellScrub r .uncorrectable) s (fun t => OnlyCore s t r.key ∧
         t.core r.key = recorded { k1 with inkBad := p :: k.inkBad })) ∧
     (k.inkClearing = false → k.inkBad.contains p = true → ∀ found,
       Runs (.inkwellScrub r found) s (fun t => OnlyCore s t r.key ∧ t.core r.key = recorded k1)) ∧
     Runs (.inkwellClearDone r) s (fun t => OnlyCore s t r.key ∧ t.core r.key = { k with inkClearing := false })) ∧
  (∀ (s : State) (die : BitVec 5) (ch : BitVec 7) (line : Nat), ch.toNat < 80 →
     let n := die.toNat
     let d := s.die n
     let i := SMap.get d.scrubLine ch.toNat 0
     let moved : Die := { d with scrubLine := SMap.set d.scrubLine ch.toNat ((i + 1) % 655360) }
     Runs (.stackScrub die ch .clean) s (fun t => OnlyDie s t n ∧ t.die n = moved) ∧
     (d.scrubTarget ch.toNat i = some line →
       Runs (.stackScrub die ch .corrected) s (fun t => OnlyDie s t n ∧
         t.die n = { moved with stkCorr := min (d.stkCorr + 1) 65535 }) ∧
       (d.holds line = none → d.stkUe = false → Runs (.stackScrub die ch .uncorrectable) s (fun t =>
         t.die n = { moved with stkUe := true, stkUeLine := line, stkScrubUe := true } ∧
         t.poison.contains (lineSpa n line / 256) = true ∧ SameMem s t))))

/-- Temperatures and clocks (R198, R199, R236, R390, R391, R392, R394, R399): a stack measurement sets TEMP, in service
at least the step whose threshold it reaches and step 0 once it is below T − HYST, and double refresh; a die measurement
sets its temperature, THOLD and, from 100 °C, module-wide throttling; throttled clocks step down 200 MHz to no less than
800 and up 100 MHz; the governor takes the new limit and ceiling and steps by 25 MHz; a sensor sample takes its
readings. It rests on the model's own choice of log entry 69. -/
def Obligations.ThermalEventsComplete : Prop :=
  ∀ (s : State) (die : BitVec 5) (temp : BitVec 8) (watts : BitVec 16) (steps : BitVec 4) (r : SensorReading),
    let n := die.toNat
    let d := s.die n
    let m := s.mod
    let f := min m.govMhz m.ceilingNew
    let lim := { m with plimit := m.plimitNew, ceiling := m.ceilingNew }.limitNow
    (temp.toNat < 105 → m.stage = .ready → d.traces = [] → 1 ≤ d.stkHyst → d.stkStep ≤ 3 →
      Runs (.stackTempMeasure die temp) s (fun t => OnlyDie s t n ∧ (t.die n).stkTemp = temp.toNat ∧
        (t.die n).stkRefr = 2 ∧ (∀ i, i < 3 → d.stkT + 3 * i ≤ temp.toNat → i + 1 ≤ (t.die n).stkStep) ∧
        (temp.toNat + d.stkHyst ≤ d.stkT → (t.die n).stkStep = 0))) ∧
    (temp.toNat < 125 → Runs (.dieTempMeasure die temp) s (fun t => SameMem s t ∧ t.cores = s.cores ∧
      t.die n = { d with dieTemp := temp.toNat
                         thold := decide (110 ≤ temp.toNat) || (decide (105 < temp.toNat) && d.thold) } ∧
      (100 ≤ temp.toNat → t.mod.therm = true))) ∧
    (s.dies.any (fun p => decide (100 ≤ p.2.dieTemp)) = true →
      Runs (.thermalClockStep) s (fun t =>
        t = { s with mod := { m with thermMhz := some (max 800 (m.thermMhz.getD m.govMhz - 200)) } })) ∧
    (∀ x, s.dies.any (fun p => decide (100 ≤ p.2.dieTemp)) = false →
      s.dies.all (fun p => decide (p.2.dieTemp ≤ 97)) = true → m.thermMhz = some x →
      Runs (.thermalClockStep) s (fun t =>
        t = { s with mod := { m with thermMhz := if m.govMhz ≤ x + 100 then none else some (x + 100) } })) ∧
    Runs (.governorStep watts steps) s (fun t => t = { s with mod := { m with
      plimit := m.plimitNew, ceiling := m.ceilingNew
      govMhz := if lim < watts.toNat then max 800 (f - 25 * min steps.toNat 8)
                else if watts.toNat * 100 < 98 * lim then min m.ceilingNew (f + 25) else f } }) ∧
    (m.mmcRun = true → Runs (.sensorSample r) s (fun t => fld t.mod.sensors 0 16 = r.vin.toNat ∧
      fld t.mod.sensors 16 16 = r.iin.toNat ∧ fld t.mod.sensors 32 16 = r.pin.toNat ∧ t.dies = s.dies ∧ t.cores = s.cores ∧
      SameMem s t))

/-- Walks and page-fault records (R210, R211, R213, R214, R215): a walk that finds a page which permits the access fills the die
TLB; a context's access that finds no page, as every access does while the function has no valid table and no TLB holds the
address, stalls the context with a fault record outstanding, while the function's fault queue is on; the record is written at
TAIL of the fault ring with a tag and the phase. It rests on the model's own choice of log entry 27. -/
def Obligations.PageFaultsAreRecorded : Prop :=
  ∀ (s : State) (die : BitVec 5) (fn : BitVec 6) (va : Word) (a : Access),
    let n := fn.toNat
    let d := s.die die.toNat
    let fu := s.func n
    let addr := fu.fqBase.toNat * 4096 + 32 * fu.fqTail
    (∀ big e, va.toNat < 2 ^ 48 → s.walk n va.toNat = .entry big e → pteDenies e a = none →
      Runs (.walkComplete die fn va a none) s (fun t => SameMem s t ∧ t.cores = s.cores ∧
        { fn := n, page := va.toNat / pageBytes big, big := big, entry := e } ∈ (t.die die.toNat).tlb)) ∧
    (∀ (c : CtxRef), c.core.toNat < 20 → c.die = die → s.tenantOf c.key = n → (s.ctxOf c).mode = .running →
      va.toNat < 2 ^ 48 → fu.fqEn = true →
      let stalled (u t : State) (cause : Nat) (wr : Bool) : Prop := SameMem u t ∧
        t.ctxOf c = { u.ctxOf c with mode := .stalled } ∧ (∀ k, k ≠ c.key → t.core k = u.core k) ∧
        ∃ f, (t.die die.toNat).faults = [f] ∧ f.fn = n ∧ f.page = va.toNat / 2 ^ 25 ∧ f.va = va.toNat ∧ f.cause = cause ∧
          f.source = u.sourceOf die.toNat c.core.toNat c.idx (if a = .fetch then 1 else 0) 0 wr ∧
          f.tag = none ∧ f.engines = [(.ctx c, va.toNat)]
      (∀ cause wr u, s.locate (s.ctxAgent c) va.toNat a = .page cause va.toNat wr u → (u.func n).fqEn = true →
        u.tenantOf c.key = n → (u.die die.toNat).faults = [] → (u.die die.toNat).traces = [] →
        Runs (.walkComplete die fn va a (some c)) s (fun t => stalled u t cause wr)) ∧
      (fu.tbValid = false → (∀ e ∈ (s.core c.key).tlb ++ d.tlb, e.covers n va.toNat = false) → d.walks.length < 32 →
        d.faults = [] → d.traces = [] →
        Runs (.walkComplete die fn va a (some c)) s (fun t => stalled s t 0 (a == .write)))) ∧
    (∀ (page : BitVec 23) f, fu.fqEn = true → fu.fqFull = false →
      d.faults.find? (fun f => f.fn == n && f.page == page.toNat && f.tag.isNone) = some f →
      Runs (.faultRecordWrite die fn page) s (fun t => SameMem s t ∧ t.cores = s.cores ∧
        (t.func n).fqTail = (fu.fqTail + 1) % fu.fqEntries ∧
        knownBytes t.host (hostKey (s.funcLink n) addr) 32 = some (
          recordBytes f.va (s.freshTag n) 0 f.cause f.source f.queue f.seq f.count ++ [phaseByte fu.fqPhase]) ∧
        (t.die die.toNat).faults = updFirst (fun f => f.fn == n && f.page == page.toNat && f.tag.isNone)
          (fun f => { f with tag := some (s.freshTag n) }) d.faults))

/-- Answers to fault records (R216): RETRY lets the stalled context go on, DECLINE and the time-out raise its access-fault
trap with the faulting address; either way the record is no longer outstanding. A write of HEAD moves HEAD. -/
def Obligations.FaultAnswersComplete : Prop :=
  ∀ (s : State) (fn n : BitVec 6) (tag : BitVec 16) (die : Nat) (f : PageFault) (c : CtxRef) (va : Nat),
    let x := s.ctxOf c
    let gone (t : State) : Prop := (t.die die).faults =
      delFirst (fun y => y.fn == n.toNat && y.tag == some tag.toNat) (s.die die).faults
    let asked := s.faultAt n.toNat tag.toNat = some (die, f) ∧ f.engines = [(.ctx c, va)] ∧ x.mode = .stalled ∧
      (s.die c.die.toNat).traces = []
    (asked → fn = n ∨ s.isMgmt fn.toNat = true → Runs (.faultRetry fn n tag) s (fun t => gone t ∧ SameMem s t ∧
      t.ctxOf c = { x with mode := .running } ∧ ∀ k j, k ≠ c.key ∨ j ≠ c.idx → t.ctx k j = s.ctx k j)) ∧
    (asked → CanTrap s c → fn = n ∨ s.isMgmt fn.toNat = true → Runs (.faultDecline fn n tag) s (fun t => gone t ∧
      EntersHandler s t c 5 (BitVec.ofNat 64 va))) ∧
    (asked → CanTrap s c → (s.func n.toNat).tmo ≠ 0 → Runs (.faultAnswerTimeout n tag) s (fun t => gone t ∧
      EntersHandler s t c 5 (BitVec.ofNat 64 va))) ∧
    (∀ head, Runs (.faultQueueHeadWrite n n head) s (fun t => (t.func n.toNat).fqHead = head.toNat ∧
      t = { s with funcs := t.funcs } ∧ ∀ k, k ≠ n.toNat → t.func k = s.func k))

/-- Page tables (R207, R208, R272): the managing function gives a function a level-1 table in a frame that is visible
and not held, or the level-2 pool while no table is valid; then every level-1 entry of the table becomes 0, and no other
byte changes. It rests on the model's own choice of log entry 24. -/
def Obligations.PageTablesComplete : Prop :=
  ∀ (s : State) (fn n : BitVec 6) (v : Word),
    let k := n.toNat
    let f := s.func k
    let base := fld v 21 18
    let first := fld v 25 14
    let frames := fld v 0 9
    (s.isMgmt fn.toNat = true → s.funcBusy k = false → f.tbValid = false → v.getLsbD 63 = true → base / 16 % 512 < 384 →
      s.frameHeld (base / 16) = false → Runs (.mmuTbaseWrite fn n v) s (fun t => SameMem s t ∧
        t.func k = { f with tbValid := true, tbBase := base, tbInit := false } ∧ ∀ j, j ≠ k → t.func j = s.func j)) ∧
    (f.tbValid = true → f.tbInit = false → SMap.find s.frames (f.tbBase / 16) ≠ some .zeroing → Memory.wf s.mem = true → Runs (.tableInitDone n) s (fun t =>
      t.func k = { f with tbInit := true } ∧ (∀ j, j ≠ k → t.func j = s.func j) ∧ ∀ a, Memory.read t.mem a =
        if f.tbBase * 2 ^ 21 ≤ a ∧ a < (f.tbBase + 1) * 2 ^ 21 then 0 else Memory.read s.mem a)) ∧
    (s.isMgmt fn.toNat = true → (∀ p ∈ s.funcs, p.2.tbValid = false) → frames ≤ 32 → first % 512 + frames ≤ 384 →
      first % 512 < 384 → (∀ i, i < frames → s.frameHeld (first + i) = false) →
      Runs (.mmuL2poolWrite fn v) s (fun t => t = { s with l2first := first, l2frames := frames, l2used := [] })) ∧
    (s.isMgmt fn.toNat = false → Runs (.mmuTbaseWrite fn n v) s (fun t => t = s) ∧
      Runs (.mmuL2poolWrite fn v) s (fun t => t = s))

/-- Fetching and starting commands, and replies (R226, R227, R235, R239, R241, R264): an accepted doorbell, of 4 or 8 bytes, sets
TAIL and a refused one counts in DBDROP; a fetched packet that passes its checks becomes a command in flight and HEAD moves past
it; a command that nothing holds starts; a completed one writes its 32-byte reply at RTAIL of its host reply ring and
leaves, after those of its queue that completed before it, and not while its function is being reset. It rests on the model's own
choices of log entries 35, 36 and 40. -/
def Obligations.QueueCommandsComplete : Prop :=
  ∀ (s : State) (fn : BitVec 6) (die : BitVec 5) (queue : BitVec 14) (bytes : BitVec 4) (tail : BitVec 16) (r : CmdRef),
    let q := queue.toNat
    let qu := s.queue q
    let ok := s.inService = true ∧ (bytes = 4 ∨ bytes = 8) ∧ qu.owner = fn.toNat ∧ qu.en = true ∧ tail.toNat < ringEntries qu.ringSize
    let home := s.queue r.queue.toNat
    (s.funcExists fn.toNat = true → ok → Runs (.doorbell fn queue ⟨bytes, tail⟩) s (fun t =>
      t.queue q = { qu with tail := tail.toNat } ∧ t = { s with queues := t.queues } ∧
      ∀ p, p ≠ q → t.queue p = s.queue p)) ∧
    (s.funcExists fn.toNat = true → ¬ ok → Runs (.doorbell fn queue ⟨bytes, tail⟩) s (fun t => OnlyDie s t (queueDie q) ∧
      t.die (queueDie q) = { s.die (queueDie q) with dbdrop := min ((s.die (queueDie q)).dbdrop + 1) 65535 })) ∧
    (∀ h p n, s.inService = true → s.fetchQueue die.toNat = some h → s.fetchable h = some (p, n) →
      s.packetCheck h p = none → (s.die (queueDie h)).thold = false → (s.die (queueDie h)).traces = [] →
      Runs (.packetFetch die) s (fun t => t.cmds = s.cmds ++ [s.newCmd h p] ∧ SameMem s t ∧ t.cores = s.cores ∧
        t.queue h = { s.queue h with head := ((s.queue h).head + n) % ringEntries (s.queue h).ringSize } ∧
        (∀ k, k ≠ h → t.queue k = s.queue k) ∧ t.mod.locked = true)) ∧
    (∀ h p n k, s.inService = true → s.fetchQueue die.toNat = some h → s.fetchable h = some (p, n) →
      s.packetCheck h p = some k → (s.die (queueDie h)).traces = [] →
      Runs (.packetFetch die) s (fun t => t.cmds = s.cmds ++ [(s.newCmd h p).finish 11 k] ∧ SameMem s t)) ∧
    (∀ c, s.cmd r = some c → s.startReady c = true → s.outranked c = false → s.mod.failed = false →
      c.opcode ∈ [0x42, 0x50, 0x51, 0x52, 0x53, 0x70, 0x71] → (s.die r.die).traces = [] →
      Runs (.commandStart r) s (fun t => t.cmd r = some { c with phase := .started } ∧
        (∀ p, p ≠ r → t.cmd p = s.cmd p) ∧ SameMem s t ∧ t.cores = s.cores ∧ t.queues = s.queues)) ∧
    (∀ c, s.cmd r = some c → s.startReady c = true → s.outranked c = false → s.mod.failed = false → c.opcode = 1 →
      (∀ x ∈ c.launchCtxs, s.ownsCore c.tenant x.die.toNat x.core.toNat = true) → (s.die r.die).traces = [] →
      Runs (.commandStart r) s (fun t =>
        t.cmd r = some { c with phase := .started, ctxs := c.launchCtxs, codes := [] } ∧
        ∀ x ∈ c.launchCtxs, (t.ctxOf x).job = some r ∧ (t.ctxOf x).mode = (s.ctxOf x).mode)) ∧
    (∀ c, s.cmd r = some c → s.repliesAfter c = true ∨ (s.func home.owner).resetting = true →
      Runs (.replyWrite r) s (fun t => t = s)) ∧
    (∀ c, s.cmd r = some c → c.isComplete = true → s.writesDone c = true → c.ctxs = [] → s.repliesAfter c = false →
      (s.func home.owner).resetting = false → home.repLoc = false → c.attempts = 0 → c.irq = false → (s.die r.die).traces = [] →
      Runs (.replyWrite r) s (fun t => SameMem s t ∧ t.cores = s.cores ∧
        t.cmds.length + 1 = s.cmds.length ∧
        (t.queue r.queue.toNat).rtail = (home.rtail + 1) % ringEntries home.repSize ∧
        knownBytes t.host (hostKey (s.funcLink home.owner) (home.repBase.toNat * 4096 + 32 * home.rtail)) 32 =
          some (s.replyBytes c home.phase)))

/-- LAUNCH (R140, R232): each named context runs from the entry address, with x10 to x13 its parameters, x14 its index
and every other x and f register 0, HEN, GATE, INH and the pending and enable bits 0, ISA_ALARM all ones, and ISA_HBASE
0. It rests on the model's own choice of log entry 36. -/
def Obligations.LaunchRunsItsContexts : Prop :=
  ∀ (s : State) (r : CmdRef) (m : Cmd) (c : CtxRef),
    let x := s.ctxOf c
    s.cmd r = some m → m.phase = .started → m.opcode = 1 → m.ctxs = [c] → x.mode = .idle → x.code = none →
    x.job = some r → (s.die c.die.toNat).traces = [] →
    Runs (.launch r) s (fun t =>
      let y := t.ctxOf c
      y.mode = .running ∧ y.pc = BitVec.ofNat 64 (m.arg % 2 ^ 40 * 256) ∧
      (∀ i, i < 4 → y.rx (10 + i) = BitVec.ofNat 64 (m.param i)) ∧ y.rx 14 = 0 ∧
      (∀ i, i < 10 ∨ 14 < i → y.rx i = 0) ∧ (∀ i, y.rf i = 0) ∧
      y.hen = false ∧ y.gate = false ∧ y.gsave = false ∧ y.inh = false ∧ y.cpend = false ∧ y.ppend = false ∧
      y.cen = false ∧ y.aen = false ∧ y.pen = false ∧ y.alarm = BitVec.allOnes 64 ∧ y.hbase = 0 ∧ y.v = x.v ∧
      (t.core c.key).halted = false ∧ (∀ j, j ≠ c.idx → t.ctx c.key j = s.ctx c.key j) ∧
      (∀ k, k ≠ c.key → t.core k = s.core k) ∧ SameMem s t ∧ t.cmds = s.cmds)

namespace Sys2Proof.Claims

/-- A transfer of a command that is about to move its only row: one tile of one row into one row of the inkwell, from an
inkwell row unless it is a fill, by one feed, with no scale of 2 and no stochastic rounding, and with no access barred (R171,
R79). -/
def MovesOneRow (s : State) (r : CmdRef) (x : Xfer) (f : FeedDesc) : Prop :=
  s.xfer (.cmd r) = some x ∧ f = FeedDesc.parse x.desc ∧ x.phase = .running ∧ x.feeds.length = 1 ∧
  x.lanes = [{ tile := 0 }] ∧
  f.rows = 1 ∧ f.tiles = 1 ∧ f.dkind = 1 ∧ f.elems * f.dstSide.width = 4096 ∧ f.dstSide.word.scale ≠ 2 ∧
  f.dstSide.word.stoch = false ∧ (x.op = .fill ∨ (f.skind = 1 ∧ f.srcSide.word.scale ≠ 2)) ∧
  (f.inkAccesses x.op 0 [(0, 0, f.elems)]).findSome? (fun a => s.inkBar r.die a.1 a.2.1 a.2.2.1 a.2.2.2) = none

/-- The physical row of an inkwell locator of a feed side. -/
def sideRow (s : State) (die core pos : Nat) : Nat :=
  ((s.core (coreKey die core)).handle (inkHandle (BitVec.ofNat 64 pos))).base + inkRow (BitVec.ofNat 64 pos)

/-- Element i of the source of a transfer between inkwell rows. -/
def sourceElem (s : State) (die : Nat) (f : FeedDesc) (i : Nat) : Nat :=
  let w := f.srcSide.width
  fld ((s.core (coreKey die f.score)).row (sideRow s die f.score f.src + w * i / 4096)) (w * i % 4096) w

/-- The transfer has moved its row: the destination row holds `g i` in element i, every other row is as before, and the
transfer stands at the end of its tile. -/
def MovedRow (s t : State) (r : CmdRef) (f : FeedDesc) (g : Nat → Nat) : Prop :=
  let key := coreKey r.die f.dcore
  let p := sideRow s r.die f.dcore f.dst
  (∀ i, i < f.elems → elem (((t.core key).row p).setWidth 16384) f.dstSide.width i = g i % 2 ^ f.dstSide.width) ∧
  (∀ k q, k ≠ key ∨ q ≠ p → (t.core k).row q = (s.core k).row q) ∧ SameMem s t ∧
  ∃ y, t.xfer (.cmd r) = some y ∧ y.lanes = [{ tile := 0, elem := f.elems }] ∧ y.phase = .running

end Sys2Proof.Claims

/-- Feeds (R38, R39, R235, R249): a copy moves codes bit for bit, a fill rounds PATTERN, a convert rounds each value; a
feed that has finished a tile moves on by as many tiles as the transfer has feeds; a transfer whose tiles are all moved, and whose
messages are acknowledged, completes its command with OK, and one that is to stop with its status. It rests on the model's own
choice of log entry 48. -/
def Obligations.FeedTransfersComplete : Prop :=
  ∀ (s : State) (r : CmdRef) (x : Xfer) (m : Cmd),
    let f := FeedDesc.parse x.desc
    let d := f.dstSide.word
    (MovesOneRow s r x f → x.op = .copy → f.sfmt = f.dfmt →
      Runs (.feedCopy (.cmd r)) s (fun t => MovedRow s t r f (sourceElem s r.die f))) ∧
    (MovesOneRow s r x f → x.op = .fill →
      Runs (.feedFill (.cmd r)) s (fun t => MovedRow s t r f (fun _ => (d.store 0 0 (Fmt.fp64.decode f.pattern)).bits))) ∧
    (MovesOneRow s r x f → x.op = .convert → f.sfmt ≠ f.dfmt →
      Runs (.feedConvert (.cmd r)) s (fun t => MovedRow s t r f (fun i =>
        (d.store 0 0 (f.srcSide.word.value (sourceElem s r.die f i) 0)).bits))) ∧
    (∀ i l, s.xfer (.cmd r) = some x → x.phase = .running → x.feeds ≠ [] → x.next = some (i, l) →
      f.rows * f.elems ≤ l.elem → f.tiles ≤ l.tile + x.feeds.length → (s.die r.die).traces = [] →
      Runs (.feedTileComplete (.cmd r)) s (fun t => t = { s with cmds := t.cmds } ∧
        t.xfer (.cmd r) = some { x with lanes := x.lanes.set i { tile := l.tile + x.feeds.length } })) ∧
    (∀ code detail, s.cmd r = some m → s.xfer (.cmd r) = some x →
      (x.phase = .running ∧ x.feeds ≠ [] ∧ (∀ l ∈ x.lanes, f.tiles ≤ l.tile) ∧ code = 0 ∧ detail = 0) ∨
        x.phase = .stopping code detail →
      (∀ u ∈ s.fab.unacked, u.engine ≠ some (.feed (.cmd r))) → Runs (.feedTransferComplete (.cmd r)) s (fun t =>
        t = { s with cmds := t.cmds, dies := t.dies } ∧ (∀ q, q ≠ r → t.cmd q = s.cmd q) ∧ t.cmd r = some ({ m with
          sat := min (m.sat + x.sat) 65535, flush := min (m.flush + x.flush) 65535 }.finish code detail)))

/-- Semaphores (R234, R242): SEM_SIGNAL sets or adds to its word and completes; SEM_WAIT and its re-test complete with
the word's value once it is at least P1, and else keep it as RESULT; the time-out completes with TIMEOUT. It rests on
the model's own choice of log entry 36. -/
def Obligations.SemaphoresComplete : Prop :=
  ∀ (s : State) (r : CmdRef) (m : Cmd) (a : Nat),
    let v := Memory.readLe s.mem a 8
    (s.running r 0x20 = some m → s.semAt m .write = some a → Memory.wf s.mem = true → Runs (.semSignal r) s (fun t =>
      Completes s t r m 0 0 0 ∧
      Memory.readLe t.mem a 8 = (if m.arg % 2 = 1 then v + m.param 1 else m.param 1) % 2 ^ 64 ∧
      ∀ b, b < a ∨ a + 8 ≤ b → Memory.read t.mem b = Memory.read s.mem b)) ∧
    (s.running r 0x21 = some m → s.semAt m .read = some a → m.param 1 ≤ v →
      Runs (.semWait r) s (fun t => Completes s t r m 0 0 v ∧ t = { s with cmds := t.cmds }) ∧
      Runs (.semWaitRetest r) s (fun t => Completes s t r m 0 0 v ∧ t = { s with cmds := t.cmds })) ∧
    (s.running r 0x21 = some m → s.semAt m .read = some a → v < m.param 1 →
      Runs (.semWait r) s (fun t => t.cmd r = some { m with result := v } ∧ t = { s with cmds := t.cmds })) ∧
    (s.running r 0x21 = some m → m.param 2 ≠ 0 → Runs (.semWaitTimeout r) s (fun t =>
      Completes s t r m 9 0 m.result ∧ t = { s with cmds := t.cmds }))

/-- A fetched COLL_* command launches its operation with the next OPSEQ of its group (R313); a module without a number
completes it with PEER_LOST, reason 3 (R22, R329). It rests on the model's own choices of log entries 36 and 61. -/
def Obligations.CollectivesLaunch : Prop :=
  ∀ (s : State) (r : CmdRef) (c : Cmd) (i : Instr),
    (i, c.opcode) ∈ [(Instr.collAllreduce r, 0x30), (.collRedscat r, 0x31), (.collAllgather r, 0x32), (.collBcast r, 0x33),
      (.collAlltoall r, 0x34), (.collBarrier r, 0x35)] →
    s.cmd r = some c → c.isComplete = false → c.lig = none → (s.earlier r).all (fun e => e.lig.isSome) = true →
    (s.mod.placeValid = true → (s.group (Coll.parse c.packet).group).aborted = [] → Runs i s (fun t =>
      ∃ n, Launched s t (.cmd r) r.die c.packet n ∧ t.cmd r = some { c with lig := some n } ∧
        (∀ q, q ≠ r → t.cmd q = s.cmd q) ∧ t.cores = s.cores ∧ SameMem s t)) ∧
    (s.mod.placeValid = false → Runs i s (fun t => t.cmd r = some (c.finish 10 (3 * 2 ^ 16)) ∧
      t = { s with cmds := t.cmds }))

/-- MAP and UNMAP (R168, R169, R205, R206, R209): MAP writes the page's entry, UNMAP makes it not present and drops the
page's translations; the inkwell forms make the handle VALID with its rows, or INVALID. Each completes with OK, and no
other byte of memory changes. It rests on the model's own choices of log entries 25 and 26. -/
def Obligations.MappingCommandsComplete : Prop :=
  ∀ (s : State) (r : CmdRef) (m : Cmd) (a : Nat),
    let p := m.pages
    let e := m.param 1
    let k := m.inkCore
    let h := m.inkHandle
    let rows := e % 2 ^ 14
    let count := e / 2 ^ 16 % 2 ^ 15
    let core := s.core k
    let owns := core.owned = true ∧ core.owner = m.tenant
    let top := l1EntryAddr (s.func m.tenant) p.va
    let one := m.pageForm = true ∧ p.count = 1 ∧ s.pagesOk m.tenant p = true ∧ s.otherSize m.tenant p.va p.big = false ∧
      s.entryAddr m.tenant p.va p.big = some a ∧ Memory.wf s.mem = true
    (s.running r 0x40 = some m → one → e % 2 = 1 → s.entryOk m.tenant e p.big = true → s.pte a % 2 = 0 →
      s.l2used.length ≤ s.l2frames * 131072 → Runs (.mapPage r) s (fun t => Completes s t r m 0 0 0 ∧
        Memory.readLe t.mem a 8 = e ∧ ∀ b, b < a ∨ a + 8 ≤ b → Memory.read t.mem b = Memory.read s.mem b)) ∧
    (s.running r 0x41 = some m → one → s.windowed m.tenant p.va p.bytes = false → s.coresOf m.tenant = [] →
      s.rangeBusy m.tenant p.va p.bytes = false →
      Runs (.unmapPage r) s (fun t => Completes s t r m 0 0 0 ∧ Memory.readLe t.mem a 8 = 0 ∧
        (∀ b, b < a ∨ a + 8 ≤ b → b < top ∨ top + 8 ≤ b → Memory.read t.mem b = Memory.read s.mem b) ∧
        ∀ d, ∀ y ∈ (t.die d).tlb, y.covers m.tenant p.va = false)) ∧
    (s.running r 0x40 = some m → m.pageForm = false → owns → (core.handle h).st ≠ 1 → count ≠ 0 → rows + count ≤ 16384 →
      (∀ y ∈ core.handles, y.2.st = 1 → rowsMeet rows count y.2.base y.2.count = false) →
      s.fits m.tenant 1 ((s.inkUse m.tenant).1 + 1) = true → s.fits m.tenant 2 ((s.inkUse m.tenant).2 + count) = true →
      Runs (.mapInkwell r) s (fun t => Completes s t r m 0 0 0 ∧ (t.core k).ink = core.ink ∧ SameMem s t ∧
        (∀ i, (t.core k).handle i = if i = h then { st := 1, wp := Nat.testBit e 31, count := count, base := rows }
          else core.handle i) ∧ ∀ i, i ≠ k → t.core i = s.core i)) ∧
    (s.running r 0x41 = some m → m.pageForm = false → owns → (core.handle h).st ≠ 0 →
      Runs (.unmapInkwell r) s (fun t => Completes s t r m 0 0 0 ∧ (t.core k).ink = core.ink ∧ SameMem s t ∧
        (∀ i, (t.core k).handle i = if i = h then {} else core.handle i) ∧ ∀ i, i ≠ k → t.core i = s.core i))

/-- WINDOW_SET, QUOTA_SET, FENCE, TRACE_SET and CTR_SNAPSHOT (R220, R221, R234, R241, R253, R373, R380) do what they
name and complete with OK. It rests on the model's own choices of log entries 36 and 46. -/
def Obligations.ManagingCommandsComplete : Prop :=
  ∀ (s : State) (r : CmdRef) (m : Cmd),
    let w := Window.parse (BitVec.ofNat 128 (m.param 1 + m.param 2 * 2 ^ 64))
    let n := m.param 0 % 4096
    let res := m.param 0 / 2 ^ 8 % 16
    let lim := m.param 1
    let others := (s.die r.die).traces.filter (fun t => t.fn != m.tenant)
    let size := m.param 1 % 32
    let bytes := s.snapshotBytes m r.die
    (s.running r 0x42 = some m → w.size ≠ 0 → w.baseVa + w.size ≤ 2 ^ 40 →
      s.windowPages w.tenant (w.baseVa * 256) (w.size * 256) = true →
      (w.valid = false ∨ (s.window n).valid = true ∨ SMap.find (s.func w.tenant).quotas 4 = none) →
      Runs (.windowSet r) s (fun t => Completes s t r m 0 0 0 ∧ t.window n = w ∧ (∀ i, i ≠ n → t.window i = s.window i) ∧
        t = { s with cmds := t.cmds, windows := t.windows })) ∧
    (s.running r 0x50 = some m → Runs (.quotaSet r) s (fun t =>
      SMap.get (t.func m.tenant).quotas res 0 = (if res = 5 ∨ res = 6 then min 255 (max 1 lim) else lim) ∧
      (∀ i, i ≠ res → SMap.find (t.func m.tenant).quotas i = SMap.find (s.func m.tenant).quotas i) ∧
      (∀ i, i ≠ m.tenant → t.func i = s.func i) ∧ t = { s with cmds := t.cmds, funcs := t.funcs } ∧
      ∃ c, t.cmd r = some c ∧ c.isComplete = true ∧ c.result % 2 ^ 32 =
        SMap.get (s.func m.tenant).quotas res (if res = 5 ∨ res = 6 then 1 else 0xFFFFFFFF) % 2 ^ 32)) ∧
    (s.running r 0x53 = some m → Runs (.fence r) s (fun t => Completes s t r m 0 0 0 ∧ t = { s with cmds := t.cmds })) ∧
    (s.running r 0x70 = some m → m.arg % 2 = 0 → Runs (.traceSet r) s (fun t => Completes s t r m 0 0 0 ∧
      (t.die r.die).traces = others ∧ SameMem s t)) ∧
    (s.running r 0x70 = some m → m.arg % 2 = 1 → s.plainPages m.tenant (m.param 0) (64 + 32 * 2 ^ (size + 8)) = true →
      others.length < 8 → Runs (.traceSet r) s (fun t => Completes s t r m 0 0 0 ∧ SameMem s t ∧
        (t.die r.die).traces = others ++ [{ fn := m.tenant, va := m.param 0, size := size, mask := m.param 2 % 2 ^ 16
                                            cores := m.param 3 % 2 ^ 20, tail := 0, drop := 0, phase := true }])) ∧
    (∀ s1, s.running r 0x71 = some m → s.plainPages m.tenant (m.param 0) bytes.length = true →
      s.writeTrusted m.tenant (m.param 0) bytes = some s1 → Runs (.ctrSnapshot r) s (fun t => t.mem = s1.mem ∧
        t.host = s1.host ∧ t.cmd r = some { m.finish 0 0 with result := 0 } ∧
        (m.arg % 2 = 1 → Nat.testBit (m.param 1) 0 = true → ∀ k ∈ s.coresOf m.tenant, k / 20 = r.die →
          (t.core k).ctrPc = [])))

/-- HINT_MIGRATE (R209, R219): with the page's entry at hand, each step copies one 256-byte line of the host page into the new
frames, and after the last one, once the tenant's older accesses to the page are complete, the page's entry names them. It rests
on the model's own choices of log entries 36 and 79. -/
def Obligations.MigrationCompletes : Prop :=
  ∀ (s u s1 : State) (r : CmdRef) (m : Cmd) (big : Bool) (e : Word) (bs : List Byte) (a : Nat),
    let va := m.param 0
    let dst := m.param 1
    let n := pageBytes big
    let base := va / n * n
    let new := dst + e.toNat % 2 ^ 25 / 256 * 256 + e.toNat % 64
    let next := dst + m.moved * 256
    let ag := s.migrateAgent r m
    let ok := s.running r 0x60 = some m ∧ va < 2 ^ 48 ∧ s.dieEntry ag va = .ok (big, e) u ∧ e.toNat % 2 = 1 ∧ pteKind e = 1 ∧
      dst % n = 0 ∧
      dst < 2 ^ 39 ∧ u.entryOk m.tenant new big = true ∧ (leafFrames big new).any u.frameMapped = false ∧
      Memory.wf s.mem = true
    (ok → m.moved * 256 < n → bs.length = 256 →
      u.readLoc ag (base + m.moved * 256) ((pteLoc e big base (u.funcLink m.tenant)).add (m.moved * 256)) 256 = .ok bs s1 →
      (s1.stackWrite next 256 m.tenant 0).isSome = true →
      Runs (.hintMigrate r) s (fun t => t.cmd r = some { m with moved := m.moved + 1 } ∧
        Memory.readBytes t.mem next 256 = bs ∧ ∀ b, b < next ∨ next + 256 ≤ b → Memory.read t.mem b = Memory.read s.mem b)) ∧
    (ok → n ≤ m.moved * 256 → u.coresOf m.tenant = [] → u.rangeBusy m.tenant base n = false →
      u.entryAddr m.tenant base big = some a →
      Runs (.hintMigrate r) s (fun t => Completes s t r m 0 0 0 ∧ Memory.readLe t.mem a 8 = new ∧
        ∀ b, b < a ∨ a + 8 ≤ b → Memory.read t.mem b = Memory.read s.mem b))

/-- RECLAIM (R168, R254): it revokes the handles of the named cores and clears VALID of the tenant's windows as its ARG says;
once no command of its queues is in flight it disables them when QUEUES is 1, and completes with the number of commands
that ended with REVOKED. CANCEL (R244, R245): of a command that waits, both complete, the target with CANCELLED; of one
that is not in flight, ALREADY_SENT with DETAIL 1; of a started LAUNCH, CPEND is set in its running contexts, and when
the grace is over they issue nothing more. It rests on the model's own choices of log entries 39 and 43. -/
def Obligations.ReclaimAndCancelComplete : Prop :=
  (∀ (s : State) (r : CmdRef) (m : Cmd), s.running r 0x51 = some m →
     let qs := s.reclaimQueues m
     (m.moved = 0 → (∀ e ∈ s.cmds, e.isWaiting = true → e.ref = r ∨ e.ref.queue.toNat ∉ qs) → Runs (.reclaim r) s (fun t =>
       t.cmd r = some { m with moved := 1 } ∧ (∀ q, q ≠ r → t.cmd q = s.cmd q) ∧ SameMem s t ∧
       (∀ k, t.core k = if Nat.testBit m.arg 8 ∧ k ∈ s.reclaimCores m then (s.core k).revoke else s.core k) ∧
       (∀ w, t.window w = if Nat.testBit m.arg 9 ∧ (s.window w).valid = true ∧ (s.window w).tenant = m.tenant
         then { s.window w with valid := false, revoked := true } else s.window w))) ∧
     (m.moved ≠ 0 → (∀ e ∈ s.cmds, e.ref = r ∨ e.ref.queue.toNat ∉ qs) → Runs (.reclaimDrainDone r) s (fun t =>
       Completes s t r m 0 0 m.revokedCount ∧ t = { s with cmds := t.cmds, queues := t.queues } ∧
       ∀ q, (t.queue q).en = ((s.queue q).en && !(Nat.testBit m.arg 10 && qs.contains q))))) ∧
  (∀ (s : State) (r : CmdRef) (m : Cmd), s.running r 0x52 = some m →
     let g : CmdRef := { queue := BitVec.ofNat 14 (m.param 0), seq := BitVec.ofNat 32 (m.param 1) }
     (s.cmd g = none ∨ (∃ c, s.cmd g = some c ∧ c.isComplete = true) → Runs (.cancel r) s (fun t => Completes s t r m 3 1 0 ∧ t = { s with cmds := t.cmds })) ∧
     (∀ c, s.cmd g = some c → c.phase = .waiting → isColl c.opcode = false → s.ligOf g [] = [] → g ≠ r →
       Runs (.cancel r) s (fun t => t.cmd g = some (c.finish 2 0) ∧ t.cmd r = some { m.finish 0 0 with result := 0 } ∧
         (∀ q, q ≠ r → q ≠ g → t.cmd q = s.cmd q) ∧ t = { s with cmds := t.cmds })) ∧
     (∀ c x, s.cmd g = some c → c.phase = .started → c.opcode = 1 → c.ctxs = [x] → (s.ctxOf x).mode = .running → g ≠ r →
       (s.die g.die).cgrace ≠ 0 → Runs (.cancel r) s (fun t => t.ctxOf x = { s.ctxOf x with cpend := true } ∧
         t.cmd g = some { c.outcome 2 0 with cancelled := true, grace := true } ∧
         t.cmd r = some { m.finish 0 0 with result := 0 } ∧ SameMem s t)) ∧
     (∀ c x, s.running g 1 = some c → c.grace = true → c.ctxs = [x] → (s.ctxOf x).mode = .running → (s.ctxOf x).vq ≠ [] →
       Runs (.cancelGraceExpire g) s (fun t => t.ctxOf x = { s.ctxOf x with mode := .stopping } ∧ SameMem s t ∧
         t.cmds = s.cmds)))

/-- Queue control, core ownership and MOD_COMPAT (R224, R226, R257, R271, R371): a function enables its own queue, or writes EN
= 1 again, with its pointers at 0 and its phase at 1; the managing function gives a free core to a tenant, which clears it;
MOD_COMPAT takes its bits once and locks. A function that may not write a register changes nothing. It rests on the model's own
choices of log entries 41 and 51. -/
def Obligations.ManagingRegistersComplete : Prop :=
  ∀ (s : State) (fn : BitVec 6) (queue : BitVec 14) (v : Word) (k : CoreRef) (u : Word32), CoreExists k →
    let n := fn.toNat
    let q := queue.toNat
    let qu := s.queue q
    let core := s.core k.key
    (s.funcExists n = true → qu.owner = n → s.isMgmt n = false → v.getLsbD 63 = true →
      qu.en = true ∨ SMap.find (s.func n).quotas 0 = none → Runs (.scbQctlWrite fn queue v) s (fun t =>
        t.queue q = { qu with en := true, comm := if qu.en then qu.comm else v.getLsbD 62, prio := min (fld v 59 3) (s.func n).maxPrio
                              vec := fld v 42 11, head := 0, tail := 0, rtail := 0, rhead := 0, phase := true } ∧
        t = { s with queues := t.queues } ∧ ∀ p, p ≠ q → t.queue p = s.queue p)) ∧
    (qu.owner ≠ n → s.isMgmt n = false → Runs (.scbQctlWrite fn queue v) s (fun t => t = s)) ∧
    (s.isMgmt n = true → s.coreBusy k.key = false → core.owned = false → u.getLsbD 7 = true →
      Runs (.coreOwnWrite fn k u) s (fun t =>
        let c := t.core k.key
        c.owned = true ∧ c.owner = fld u 0 6 ∧ c.clearing = true ∧ c.ink = [] ∧ c.handles = [] ∧ c.res = [] ∧
        (∀ j, j < 4 → (t.ctx k.key j).mode = .idle ∧ (t.ctx k.key j).v = [] ∧ (t.ctx k.key j).vxflg = 0 ∧
          (t.ctx k.key j).seeded = false ∧ (t.ctx k.key j).x = (s.ctx k.key j).x) ∧
        (∀ i, i ≠ k.key → t.core i = s.core i) ∧ SameMem s t)) ∧
    (s.isMgmt n = false → Runs (.coreOwnWrite fn k u) s (fun t => t = s)) ∧
    Runs (.coreClearDone k) s (fun t => OnlyCore s t k.key ∧ t.core k.key = { core with clearing := false }) ∧
    (s.isMgmt n = true → s.mod.locked = false → Runs (.compatWrite fn u) s (fun t =>
      t = { s with mod := { s.mod with reply := u.getLsbD 1, evict := u.getLsbD 0, locked := true } })) ∧
    (s.isMgmt n = false ∨ s.mod.locked = true → Runs (.compatWrite fn u) s (fun t => t = s))

/-- Frames (R272, R273): a function takes a free frame it names, or gets MALFORMED; a released frame is not free until
it has been zeroed, and then every byte of it reads 0 and no other byte has changed. It rests on the model's own choice
of log entry 53. -/
def Obligations.FrameCommandsComplete : Prop :=
  ∀ (s : State) (n : BitVec 6) (die : BitVec 5) (frame : BitVec 9),
    let f := s.func n.toNat
    let k := frameKey f.frDie f.frFrame
    let z := frameKey die.toNat frame.toNat
    let noRings := ∀ p ∈ s.queues, p.2.en = false
    (s.isMgmt n.toNat = false → f.frAny = false → f.frFrame < 512 → s.frameFree k = true → SMap.find f.quotas 3 = none →
      Runs (.frameAllocate n n) s (fun t => SMap.find t.frames k = some (.held n.toNat) ∧
        (t.func n.toNat).frResult = 0 ∧ (t.func n.toNat).frBusy = false ∧ SameMem s t ∧
        ∀ i, i ≠ k → SMap.find t.frames i = SMap.find s.frames i)) ∧
    (f.frAny = false → s.frameFree k = false → Runs (.frameAllocate n n) s (fun t =>
      (t.func n.toNat).frResult = 11 ∧ t.frames = s.frames ∧ SameMem s t)) ∧
    (s.isMgmt n.toNat = false → f.frFrame < 384 → SMap.find s.frames k = some (.held n.toNat) → s.frameMapped k = false →
      noRings → Runs (.frameRelease n n) s (fun t => SMap.find t.frames k = some .zeroing ∧
        (t.func n.toNat).frResult = 0 ∧ SameMem s t)) ∧
    (SMap.find s.frames z = some .zeroing → Memory.wf s.mem = true → Runs (.frameZeroDone die frame) s (fun t =>
      SMap.find t.frames z = none ∧ ∀ a, Memory.read t.mem a =
        if z * 2 ^ 25 ≤ a ∧ a < (z + 1) * 2 ^ 25 then 0 else Memory.read s.mem a))

namespace Sys2Proof.Claims

/-- Every die, port die, queue, frame and command is at its reset value (R352): no byte of memory is listed, nothing is in
flight, and every page table, window, group, quota and port register is as after a power-on reset. -/
def DiesReset (t : State) : Prop :=
  t.mem = [] ∧ t.poison = [] ∧ t.frames = [] ∧ t.l2frames = 0 ∧ t.cores = [] ∧ t.queues = [] ∧ t.cmds = [] ∧ t.funcs = [] ∧
  t.windows = [] ∧ t.fab = {} ∧ t.groups = [] ∧ t.ligOps = [] ∧ t.mgmt = none

end Sys2Proof.Claims

/-- Resets and power (R350, R351, R352, R354, R357, R389): a power-on reset and a module reset bring every die to its reset
state, and a module reset releases ALERT# and keeps the stack training unless FULL is 1; a fall of PG_IN turns every power stage
off and clears the trip latch; VIN below 38 V turns them off and stops the MMC; a rail fault in stage POWER halts the module
with BOOT_ERR 2; VIN in range lets the MMC run again. It rests on the model's own choice of log entry 68. -/
def Obligations.ResetCommandsComplete : Prop :=
  ∀ (s : State) (cause : ResetCause) (fn : BitVec 6),
    let asked := cause = .pin ∨ (cause = .goBit fn ∧ s.isMgmt fn.toNat = true)
    (s.mod.vinOk = true → s.mod.pgIn = false → Runs (.powerOnReset) s (fun t => DiesReset t ∧ t.mod.stage = .power ∧
      t.mod.powerOn = true ∧ t.mod.pgIn = true ∧ t.mod.timeNs = 0 ∧ t.mod.tripLatch = false ∧
      t.mod.records = s.mod.records ∧ t.pending = s.pending)) ∧
    (asked → s.diesRun = true → Runs (.moduleReset cause) s (fun t => DiesReset t ∧ t.mod.stage = .die ∧ t.mod.timeNs = 0 ∧
      t.mod.records = s.mod.records ∧ t.mod.plimit = s.mod.plimit ∧ t.mod.govMhz = s.mod.govMhz ∧ t.pending = s.pending ∧
      t.mod.alert = false ∧ t.mod.retest = s.mod.full ∧
      ∀ d, d < 32 → (t.die d).frep = if s.mod.full then [] else (s.die d).frep)) ∧
    (cause = .goBit fn → s.isMgmt fn.toNat = false → Runs (.moduleReset cause) s (fun t => t = s)) ∧
    Runs (.pgInFall) s (fun t => DiesReset t ∧ t.mod.powerOn = false ∧ t.mod.pgIn = false ∧ t.mod.tripLatch = false ∧
      t.pending = s.pending) ∧
    Runs (.vinLoss) s (fun t => DiesReset t ∧ t.mod.powerOn = false ∧ t.mod.vinOk = false ∧ t.mod.mmcRun = false) ∧
    (s.mod.stage = .power → s.mod.powerOn = true → Runs (.railFault) s (fun t => DiesReset t ∧ t.mod.stage = .halted ∧
      t.mod.bootErr = 2 ∧ t.mod.powerOn = false))

/-- Start-up (R356, R357, R358, R360, R362): the last die released ends POWER; the first accepted firmware slot, A
before B, as the flash gives them, is measured and loaded, and with neither the module halts with BOOT_ERR 1; bring-up zeroes stack memory and
ends in LINKS, or in FAILED after a recorded failure; LINKS ends in DISCOVERY, and DISCOVERY in READY with double
refresh. It rests on the model's own choice of log entry 65. -/
def Obligations.StartupStagesComplete : Prop :=
  ∀ (s : State) (i : BitVec 5) (a b : Option ImageSlot),
    let m := s.mod
    let slotA := a.getD m.slotA
    let slotB := b.getD m.slotB
    let loads (slot : Bool) (c : ImageSlot) (t : State) : Prop := t.mod.stage = .die ∧ t.mod.slot = slot ∧
      t.mod.measurement = measure c ∧ t = { s with mod := t.mod }
    let released : State := s.updDie i.toNat (fun d => { d with released := true })
    (m.stage = .power → m.powerOn = true → released.allReleased = false → Runs (.dieRelease false i) s (fun t =>
      t = released)) ∧
    (m.stage = .power → m.powerOn = true → released.allReleased = true → Runs (.dieRelease false i) s (fun t =>
      t.mod = { m with stage := .firmware } ∧ (t.die i.toNat).released = true)) ∧
    (m.stage = .firmware → m.slotAccepted slotA = true → Runs (.firmwareVerify a b) s (loads false slotA)) ∧
    (m.stage = .firmware → m.slotAccepted slotA = false → m.slotAccepted slotB = true →
      Runs (.firmwareVerify a b) s (loads true slotB)) ∧
    (m.stage = .firmware → m.slotAccepted slotA = false → m.slotAccepted slotB = false → Runs (.firmwareVerify a b) s (fun t =>
      t.mod.stage = .halted ∧ t.mod.bootErr = 1 ∧ t.mod.powerOn = false)) ∧
    (∀ c, m.slotAccepted c = true → sha384 (digestBytes c.keyX ++ digestBytes c.keyY) = m.fuseKey ∧
      sha384 (c.mmc ++ c.computeDie ++ c.portDie) = c.digest ∧ m.fuseVersion ≤ c.version) ∧
    (m.stage = .die → m.failed = false → Runs (.dieBringupDone [] []) s (fun t => t.mod.stage = .links ∧ t.mem = [] ∧
      t.poison = [] ∧ t.cores = s.cores ∧ ∀ d, d < 32 → (t.die d).stkRefr = 2 ∧ (t.die d).stkStep = 0)) ∧
    (m.stage = .die → m.failed = true → Runs (.dieBringupDone [] []) s (fun t => t.mod.stage = .failed ∧
      ∀ p, p < 32 → (t.port p).state = .disabled)) ∧
    (m.stage = .links → (∀ p, p < 32 → (s.port p).state ≠ .up) → Runs (.linksStageEnd) s (fun t =>
      t = { s with mod := { m with stage := .discovery } })) ∧
    (m.stage = .discovery → Runs (.discoveryEnd) s (fun t => t.mod = { m with stage := .ready } ∧
      (∀ d, d < 32 → (t.die d).stkRefr = 2) ∧ SameMem s t ∧ t.cores = s.cores))

/-- Discovery and the fabric map (R362 to R365). A discovery message of a new serial number that arrives on an UP port
is recorded with its path in both directions, and one of fewer than 3 hops waits to be forwarded; once forwarded it no
longer waits. A write of PLZ_FMCMD with GO by the managing function, while BUSY is 0, is applied on this module when
HOPS is 0: it assigns the module number unless another is assigned, writes a route entry, or reads words of the block;
with more hops the request goes out on the first port and BUSY is 1 until the answer, or 1 ms without one, which gives
RESULT 9. It rests on the model's own choices of log entries 55 and 60. -/
def Obligations.FabricMapCompletes : Prop :=
  (∀ (s : State) (port : BitVec 5) (serial : Word) (o a : BitVec 5),
     let hop := (o.toNat, a.toNat)
     ((s.port port.toNat).state = .up → s.mod.failed = false → serial ≠ Config.serial → s.fab.discs = [] →
       Runs (.discoveryMessage port serial [(o, a)]) s (fun t => t = { s with fab := { s.fab with
         discs := [{ serial := serial.toNat, hops := 1, toPath := a.toNat, fromPath := o.toNat }]
         discFwd := s.fab.discFwd ++ [{ serial := serial.toNat, port := port.toNat, hops := [hop] }] } })) ∧
     (∀ d, s.fab.discFwd = [d] → d.serial = serial.toNat → (∀ p, p < 32 → (s.port p).state = .up → p = d.port) →
       Runs (.discoveryForward serial) s (fun t => t = { s with fab := { s.fab with discFwd := [] } }))) ∧
  (∀ (s : State) (fn : BitVec 6) (v : Word) (msg : List (BitVec 1920)) (s1 : State),
     let f := s.fab
     let set := { f with fmOp := fld v 57 2, fmHops := fld v 55 2, fmTo := fld v 40 15, fmFrom := fld v 25 15
                         fmDest := fld v 15 10, fmCount := fld v 5 10 }
     let n := fld v 5 10
     let go (op : Nat) := s.isMgmt fn.toNat = true ∧ f.fmBusy = false ∧ v.getLsbD 0 = true ∧ fld v 57 2 = op
     let here := fld v 55 2 = 0
     let bs := msgPayload msg
     let m := f.fmArg % 1024
     (go 0 → here → s.mod.placeValid = false ∨ s.mod.place = m → Runs (.fmAssign fn v) s (fun t =>
       t = { s with mod := { s.mod with placeValid := true, place := m }
                    fab := { set with srcGrp := f.fmArg / 1024 % 256, fmResult := 0 } })) ∧
     (go 0 → here → s.mod.placeValid = true → s.mod.place ≠ m → Runs (.fmAssign fn v) s (fun t =>
       t = { s with fab := { set with fmResult := 11 } })) ∧
     (go 1 → here → n = 1 → f.fmArg % 8 = 0 → 0x10000 ≤ f.fmArg → f.fmArg < 0x12000 → Runs (.fmWrite fn v) s (fun t =>
       t = { s with fab := { set with fmResult := 0, routes := t.fab.routes } } ∧
       ∀ i, SMap.get t.fab.routes i {} = if i = (f.fmArg - 0x10000) / 8
         then Route.parse (BitVec.ofNat 64 (Memory.readLe f.fmData 0 8)) else SMap.get f.routes i {})) ∧
     (go 2 → here → n ≠ 0 → n ≤ 512 → f.fmArg % 8 = 0 → f.fmArg + 8 * n ≤ 0x40000 → Runs (.fmRead fn v) s (fun t =>
       t = { s with fab := { set with fmResult := 0, fmData := t.fab.fmData } } ∧
       t.fab.fmData = Memory.writeBytes f.fmData 0 ((List.range n).flatMap (fun i =>
         leBytes 8 ({ s with fab := set }.plzWord (f.fmArg + 8 * i)))))) ∧
     (go 2 → here → n = 0 ∨ 512 < n → Runs (.fmRead fn v) s (fun t =>
       t = { s with fab := { set with fmResult := 11 } })) ∧
     (∀ op, op < 3 → go op → ¬ here →
       Runs (if op = 0 then .fmAssign fn v else if op = 1 then .fmWrite fn v else .fmRead fn v) s (fun t =>
         t = { s with fab := { set with fmBusy := true, ports := t.fab.ports } } ∧
         ∃ i, (t.port (portOfHop (fld v 40 15) 0)).txq = (s.port (portOfHop (fld v 40 15) 0)).txq ++ [i] ∧
           laneClass i.lane = 7 ∧ i.sent = 0)) ∧
     (s.isMgmt fn.toNat = false ∨ f.fmBusy = true → Runs (.fmAssign fn v) s (fun t => t = s) ∧
       Runs (.fmWrite fn v) s (fun t => t = s) ∧ Runs (.fmRead fn v) s (fun t => t = s)) ∧
     (f.fmBusy = true → s.takeMsg (fun h => h.kind == 6) = some (msg, s1) → Runs (.fmAnswer) s (fun t =>
       t = { s with fab := { s1.fab with
         fmBusy := false, fmResult := leNat ((bs.drop 1).take 1) % 16
         fmData := if f.fmOp = 2 ∧ leNat ((bs.drop 1).take 1) = 0 then Memory.writeBytes f.fmData 0 ((bs.drop 16).take 4096)
           else f.fmData } })) ∧
     (f.fmBusy = true → Runs (.fmTimeout) s (fun t => t = { s with fab := { f with fmBusy := false, fmResult := 9 } })) ∧
     (f.fmBusy = false → Runs (.fmTimeout) s (fun t => t = s)))

/-- Host links and functions (R255 to R258, R264, R361): PERST# rising starts training with the port's strap; a link comes up in
the mode that it has negotiated, and the first one up takes the managing role; a link reset or a function-level reset ends the
function's commands, closes its windows and clears its MSI-X table; NumVFs makes virtual functions exist. It rests on the
model's own choices of log entries 7 and 54. -/
def Obligations.HostLinksComplete : Prop :=
  ∀ (s : State) (link : BitVec 2) (bifur perst : Bool) (mode : LinkMode) (n fn : BitVec 6) (vfs : BitVec 16),
    let h := link.toNat
    let l := s.link h
    let gone (k : Nat) (t : State) : Prop := (∀ w, (t.window w).tenant = k → (t.window w).valid = false) ∧
      (t.func k).msixEn = false ∧ (t.func k).msix = [] ∧ (t.func k).msixPend = []
    (l.perst = true → Runs (.perstDeassertion link bifur) s (fun t => (t.link h).perst = false ∧ (t.link h).training = true ∧
      (t.link h).bifur = bifur ∧ (t.link (siblingLink h)).bifur = bifur ∧ t = { s with links := t.links })) ∧
    (l.perst = false → Runs (.perstDeassertion link bifur) s (fun t => t = s)) ∧
    (s.linksOpen = true → l.training = true → l.up = false → h % 2 = 0 ∨ l.bifur = true → modeLegal mode l.bifur = true →
      Runs (.hostLinkUp ⟨link, mode⟩) s (fun t =>
        t.link h = { l with up := true, training := false, mode := mode } ∧ t.mgmt = some (s.mgmt.getD h) ∧
        t = { s with links := t.links, mgmt := t.mgmt })) ∧
    (l.up = true → l.numVfs = 0 → s.cmds = [] → s.frames = [] → (s.func h).tbValid = false →
      Runs (.hostLinkReset ⟨link, perst⟩) s (fun t => gone h t ∧ (t.link h).up = false ∧ (t.link h).training = !perst ∧
        (t.link h).perst = (perst || l.perst) ∧ (t.link h).reads = [] ∧ SameMem s t)) ∧
    (l.up = false → Runs (.hostLinkReset ⟨link, perst⟩) s (fun t => t = { s with links := t.links } ∧
      t.link h = if perst then { l with perst := true, training := false } else l)) ∧
    (s.funcExists n.toNat = true → 4 ≤ n.toNat → Runs (.functionLevelReset n) s (fun t =>
      ∀ q, (s.queue q).owner = n.toNat → (t.queue q).en = false)) ∧
    (s.funcExists n.toNat = true → 4 ≤ n.toNat → s.cmds = [] → s.frames = [] → (s.func n.toNat).tbValid = false →
      Runs (.functionLevelReset n) s (fun t => gone n.toNat t ∧ SameMem s t ∧ t.links = s.links ∧
        ∀ k ∈ s.coresOf n.toNat, (t.core k).ink = [])) ∧
    (fn.toNat < 4 → s.funcExists fn.toNat = true → Runs (.numvfsWrite fn vfs) s (fun t =>
      t.link fn.toNat = { s.link fn.toNat with numVfs := vfs.toNat } ∧ t = { s with links := t.links } ∧
      ∀ i, i ≠ fn.toNat → t.link i = s.link i))

/-- Host memory and the device-memory window (R192, R196, R260, R261, R263, R266): the data of a scribe's outstanding ring read is
kept until it is fetched, and data that it has not asked for is not; a failed read clears EN and records the failure; BAR4 reads
and writes the stack bytes at its offset for the holder of the frame, and else reports Unsupported Request, and a poisoned line as
poisoned; an unmasked vector sends its pending message. It rests on the model's own choices of log entries 8, 35 and 52. -/
def Obligations.HostAccessesComplete : Prop :=
  ∀ (s : State) (queue : BitVec 14) (link : BitVec 2) (addr : Word) (bytes : List Byte) (fn : BitVec 6) (off : BitVec 39)
    (width : BitVec 7) (vec : BitVec 11),
    let q := queue.toNat
    let n := fn.toNat
    let o := (s.queue q).owner
    let f := s.func n
    let failed (code : Nat) (t : State) : Prop := t.queue q = { s.queue q with en := false } ∧ (t.func o).ferr = true ∧
      (t.func o).fkind = code ∧ (t.func o).fqueue = q ∧ t.mem = s.mem ∧ t.cores = s.cores
    (bytes.length = 64 →
      (s.link link.toNat).reads = [{ reader := .scribe queue, cmd := none, addr := addr.toNat, bytes := 64 }] →
      Runs (.hostReadCompletion (.scribe queue) (.data link addr bytes)) s (fun t =>
        knownBytes t.ringData (hostKey link.toNat addr.toNat) 64 = some bytes ∧ (t.link link.toNat).reads = [] ∧
        t.queues = s.queues ∧ t.mem = s.mem)) ∧
    ((∀ x ∈ (s.link link.toNat).reads, x.reader ≠ .scribe queue) →
      Runs (.hostReadCompletion (.scribe queue) (.data link addr bytes)) s (fun t => t = { s with host := t.host })) ∧
    ((s.queue q).en = true → (s.func o).ferr = false →
      Runs (.hostReadCompletion (.scribe queue) .urOrCa) s (failed 2) ∧
      Runs (.hostReadCompletion (.scribe queue) .poisoned) s (failed 3) ∧ Runs (.hostReadTimeout (.scribe queue)) s (failed 1)) ∧
    (0 < width.toNat → s.bar4Served n off.toNat width.toNat = true → s.poisonedIn off.toNat width.toNat = none →
      Runs (.bar4Read fn off width) s (fun t => t.completion = Memory.readBytes s.mem off.toNat width.toNat ∧ SameMem s t)) ∧
    (0 < width.toNat → s.bar4Served n off.toNat width.toNat = false → Runs (.bar4Read fn off width) s (fun t =>
      t.completion = [] ∧ SMap.get t.aer (4 * n) 0 = SMap.get s.aer (4 * n) 0 + 1 ∧ SameMem s t)) ∧
    (∀ a, 0 < width.toNat → s.bar4Served n off.toNat width.toNat = true → s.poisonedIn off.toNat width.toNat = some a →
      Runs (.bar4Read fn off width) s (fun t =>
        t.completion = [] ∧ SMap.get t.aer (4 * n + 1) 0 = SMap.get s.aer (4 * n + 1) 0 + 1 ∧ SameMem s t)) ∧
    (bytes ≠ [] → s.bar4Served n off.toNat bytes.length = true → Memory.wf s.mem = true →
      Runs (.bar4Write fn off bytes) s (fun t => Memory.readBytes t.mem off.toNat bytes.length = bytes ∧
        ∀ a, a < off.toNat ∨ off.toNat + bytes.length ≤ a → Memory.read t.mem a = Memory.read s.mem a)) ∧
    (s.funcExists n = true → f.msixPend = [vec.toNat] → Runs (.msixUnmask fn vec) s (fun t =>
      t.hostMsgs = s.hostMsgs ++ [{ fn := n, vec := vec.toNat, addr := fld (f.vector vec.toNat) 0 64
                                    data := fld (f.vector vec.toNat) 64 32 }] ∧
      (t.func n).msixPend = [] ∧ (t.func n).vectorOpen vec.toNat = true ∧ t = { s with hostMsgs := t.hostMsgs, funcs := t.funcs }))

namespace Sys2Proof.Claims

/-- Only one group entry changed. -/
def OnlyGroup (s t : State) (g : Nat) : Prop := t = { s with groups := t.groups } ∧ ∀ i, i ≠ g → t.group i = s.group i

/-- One operation is under way on the module: of a command that has not completed, at a member whose die writes no trace. -/
def OnlyOp (s : State) (g die : Nat) (o : LigOp) (r : CmdRef) (m : Cmd) : Prop :=
  s.ligOps = [o] ∧ o.group = g ∧ o.die = die ∧ o.owner = .cmd r ∧ s.cmd r = some m ∧ m.isComplete = false ∧
  (s.die die).traces = []

/-- That operation has ended: its command is complete with a status and the operation's counts, and no other command, no byte
of memory, no core and no function register has changed. -/
def OpEnds (s t : State) (o : LigOp) (r : CmdRef) (m : Cmd) (status detail : Nat) : Prop :=
  t.ligOps = [] ∧ SameMem s t ∧ t.cores = s.cores ∧ t.funcs = s.funcs ∧ (∀ q, q ≠ r → t.cmd q = s.cmd q) ∧
  t.cmd r = some ({ m with sat := min (m.sat + o.sat) 65535, flush := min (m.flush + o.flush) 65535 }.finish status detail)

end Sys2Proof.Claims

/-- Group entries and their timers (R307, R308, R325, R326): a write of VALID 1 by the managing function stores the fields and
starts the load, a write of VALID 0 ends the group, and either is ignored while an operation of the group is under way; the
load makes the entry ready or rejects it; a deferral pauses the group's timers and the end of the pause lets them run; TMO
ends the operation with PEER_LOST, reason 0, naming the lowest awaited rank. -/
def Obligations.GroupCommandsComplete : Prop :=
  ∀ (s : State) (fn : BitVec 6) (group : BitVec 10) (die : BitVec 5) (v : BitVec 256) (o : LigOp) (r : CmdRef) (m : Cmd)
    (bs : List Byte) (u : State),
    let i := group.toNat
    let g := s.group i
    let free := ∀ x ∈ s.ligOps, x.group ≠ i
    let es := elemsFrom 2 (g.nm1 + 1) bs
    let ranks := es.map (fun e => (e / 32, e % 32))
    (s.isMgmt fn.toNat = true → free → v.getLsbD 255 = true → Runs (.groupLoad fn group v) s (fun t => OnlyGroup s t i ∧
      t.group i = { g with valid := true, trusted := v.getLsbD 254, tenant := fld v 248 6, gid := fld v 232 16
                           epoch := fld v 216 16, nm1 := fld v 201 15, qoff := fld v 192 9, window := fld v 180 12
                           tmo := fld v 164 16, rankVa := fld v 124 40, setst := 1, members := 0, ranks := []
                           launched := [], aborted := [], owed := [], dig0 := 0, digX := 0 })) ∧
    (s.isMgmt fn.toNat = true → free → Runs (.groupEnd fn group) s (fun t => OnlyGroup s t i ∧
      t.group i = { g with valid := false, setst := 0, members := 0 })) ∧
    (s.isMgmt fn.toNat = false ∨ (∃ x ∈ s.ligOps, x.group = i) →
      Runs (.groupLoad fn group v) s (fun t => t = s) ∧ Runs (.groupEnd fn group) s (fun t => t = s)) ∧
    (s.rankTable g = some (bs, u) → u = { s with dies := u.dies, funcs := u.funcs }) ∧
    (g.setst = 1 → s.rankTable g = some (bs, u) → (∀ e ∈ es, e < 2 ^ 15) → es.Nodup →
      (∀ p ∈ s.groups, p.1 ≠ i → p.2.setst = 2 → p.2.gid ≠ g.gid) →
      Runs (.groupLoadDone group) s (fun t => OnlyGroup u t i ∧
        t.group i = { g with setst := 2, ranks := ranks, tabCrc := (crc64 bs).toNat
                             members := (ranks.filter (fun p => p.1 == s.moduleNo)).foldl (fun a p => a + 2 ^ p.2) 0 })) ∧
    (g.setst = 1 → s.rankTable g = none →
      Runs (.groupLoadDone group) s (fun t => OnlyGroup s t i ∧ t.group i = { g with setst := 3, members := 0 })) ∧
    (g.setst = 1 → s.rankTable g = some (bs, u) → (∃ e ∈ es, 2 ^ 15 ≤ e) ∨ ¬ es.Nodup →
      Runs (.groupLoadDone group) s (fun t => OnlyGroup u t i ∧ t.group i = { g with setst := 3, members := 0 })) ∧
    Runs (.timerPauseEnd group) s (fun t => OnlyGroup s t i ∧ t.group i = { g with paused := false }) ∧
    (OnlyOp s i die.toNat o r m → o.phase ≠ .queued → s.throttled = true ∨ o.stalled = true →
      Runs (.deferNoticeTick) s (fun t => t = { s with groups := t.groups, fab := t.fab } ∧
        t.group i = { g with paused := true, owed := (t.group i).owed })) ∧
    (s.throttled = false → (∀ x ∈ s.ligOps, x.stalled = false) → (∀ k, (s.group k).owed = []) →
      Runs (.deferNoticeTick) s (fun t => t = { s with groups := t.groups } ∧ ∀ k, t.group k = s.group k)) ∧
    (OnlyOp s i die.toNat o r m → o.phase ≠ .queued → g.paused = false → g.tmo ≠ 0 →
      Runs (.groupTimeout group die) s (fun t => OpEnds s t o r m 10 (match s.ligAwaited o with
        | some q => peerDetail q 0
        | none => 0))) ∧
    (g.paused = true ∨ g.tmo = 0 → Runs (.groupTimeout group die) s (fun t => t = s))

/-- Collective operations (R313, R316, R317, R319, R323, R324, R325, R327, R328): in an untrusted group an operation opens with
its member's own digest and hands it to the members of its first step; two blocks of ranks with one digest have no difference, and
with two the second block's ranks differ; a summary that has arrived joins the member's, and the round moves on; when no digest
differs the operation goes on to its data, and otherwise its command completes with MISMATCH and the entry records the digests; an
operation whose steps are over and whose outputs are written completes with OK; data and digest messages of another module are
held for their member; an abort ends the operation with PEER_LOST, reason 2; a deferral notice pauses the group's timers. It rests
on the model's own choices of log entries 61, 62 and 63. -/
def Obligations.CollectiveStepsComplete : Prop :=
  (∀ (a b : DigestSum) (base size : Nat), a.count = 0 → b.count = 0 →
     (b.ref = a.ref → (a.join b base size).count = 0 ∧ (a.join b base size).ref = a.ref) ∧
     (b.ref ≠ a.ref → a.join b base size = { ref := a.ref, low := base, digx := b.ref, count := size })) ∧
  ∀ (s : State) (group : BitVec 10) (die : BitVec 5) (o : LigOp) (r : CmdRef) (m : Cmd) (msg : List (BitVec 1920))
    (s1 : State) (q rank d : Nat),
    let i := group.toNat
    let g := s.group i
    let n := g.nm1 + 1
    let only := OnlyOp s i die.toNat o r m
    let here := ∀ k, k < n → (g.ranks.getD k (0, 0)).1 = s.moduleNo
    let k := o.known
    let one := DigestSum.one (o.digest g)
    let h := msgHdr msg
    let taken (ltype : Nat) := s.takeLig ltype = some (msg, i, s1)
    let onlyMsgs (t : State) : Prop := t = { s with ligMsgs := t.ligMsgs, fab := t.fab }
    let onlyOps (t : State) : Prop := t = { s with groups := t.groups, ligOps := t.ligOps, ligMsgs := t.ligMsgs, dies := t.dies } ∧
      ∀ k, t.group k = s.group k
    let digestRound := only ∧ o.phase = .digest ∧ o.out = []
    (only → o.phase = .queued → m.isStarted = true → g.trusted = false → here → Runs (.collOpStart group die) s (fun t =>
      onlyOps t ∧ t.ligOps = [{ o with phase := .digest, known := one, out := [] }] ∧
      ∀ k, k < n → doubling n o.step o.rank k ≠ none → ∃ x ∈ t.ligMsgs, x.group = i ∧ x.die = (g.ranks.getD k (0, 0)).2 ∧
        x.digest = true ∧ x.src = o.rank ∧ x.data = one.bytes)) ∧
    (only → o.phase = .queued → m.isStarted = false → Runs (.collOpStart group die) s (fun t => t = s)) ∧
    (∀ x xs, digestRound → here → g.owed = [] → s.ligSources o = [q] → s.ligFrom o q = x :: xs → o.step + 1 < ceilLog2 n →
      Runs (.digestRoundEnd group die) s (fun t => onlyOps t ∧
        t.ligOps = [{ o.learn n (DigestSum.parse x.data) with out := [] }])) ∧
    (digestRound → here → g.owed = [] → ceilLog2 n ≤ o.step → o.coll.op = 0x35 → o.coll.count = 0 →
      isInk o.coll.recv = false → k.count = 0 →
      Runs (.digestRoundEnd group die) s (fun t => onlyOps t ∧
        t.ligOps = [{ o with phase := .data, step := 0, loaded := true, acc := [] }])) ∧
    (digestRound → ceilLog2 n ≤ o.step → k.count ≠ 0 →
      Runs (.digestRoundEnd group die) s (fun t => (t.group i).dig0 = k.ref ∧ (t.group i).digX = k.digx ∧
        OpEnds s t o r m 8 (k.low + min k.count 65535 * 2 ^ 16))) ∧
    (only → o.phase = .data → o.stalled = false → o.loaded = true → o.out = [] → o.segsDone n ≤ o.written →
      o.coll.allSteps n ≤ o.step → (∀ u ∈ s.fab.unacked, u.engine ≠ some (.ligature i die.toNat)) → g.owed = [] →
      Runs (.ligStepEnd group die) s (fun t => OpEnds s t o r m 0 0)) ∧
    (taken 0 → (∀ x ∈ s.ligOps, x.group ≠ i) → g.rankFrom h = some q → s.localRanks g = [(rank, d)] →
      (s.window h.window).check h.srcgrp h.offset (msgPayload msg).length true true false = none →
      ((g.futureOp d h.lig.opseq).isSome = true → Runs (.ligatureData) s (fun t => onlyMsgs t ∧ t.ligMsgs = s.ligMsgs ++ [
        { group := i, die := d, opseq := h.lig.opseq, step := h.lig.step, digest := false, src := q, pos := h.offset
          rel := false, dig := none, data := msgPayload msg }])) ∧
      (g.futureOp d h.lig.opseq = none → Runs (.ligatureData) s (fun t => onlyMsgs t ∧ t.ligMsgs = s.ligMsgs))) ∧
    (∀ reason, taken 0 → (∀ x ∈ s.ligOps, x.group ≠ i) → g.rankFrom h = some q → s.localRanks g = [(rank, d)] →
      (s.window h.window).check h.srcgrp h.offset (msgPayload msg).length true true false = some reason →
      Runs (.ligatureData) s (fun t => t.ligMsgs = s.ligMsgs ∧ t.ligOps = s.ligOps ∧ t.cores = s.cores)) ∧
    (∀ base size, taken 1 → g.rankFrom h = some q → s.localRanks g = [(rank, d)] →
      doubling n h.lig.step q rank = some (base, size) → s.ligMsgs = [] →
      Runs (.ligatureDigest) s (fun t => onlyMsgs t ∧ t.ligMsgs = [
        { group := i, die := d, opseq := h.lig.opseq, step := h.lig.step, digest := true, src := q, pos := 0
          rel := true, dig := none, data := msgPayload msg }])) ∧
    (only → o.phase ≠ .digest → taken 2 → h.lig.opseq = o.opseq % 65536 → Runs (.ligatureAbort) s (fun t =>
      OpEnds s t o r m 10 (peerDetail ((g.rankFrom h).getD 0) 2))) ∧
    (taken 3 → Runs (.thermalDefer) s (fun t => t = { s with groups := t.groups, fab := t.fab } ∧
      t.group i = { g with paused := true })) ∧
    (taken 4 → Runs (.faultDefer) s (fun t => t = { s with groups := t.groups, fab := t.fab } ∧
      t.group i = { g with paused := true }))

namespace Sys2Proof.Claims

/-- Only one optical port changed: every other port, the fabric's other registers and everything outside it are as before. -/
def OnlyPort (s t : State) (p : Nat) : Prop :=
  t = { s with fab := { s.fab with ports := t.fab.ports } } ∧ ∀ q, q ≠ p → t.port q = s.port q

/-- The command leaves port p as `x` and changes nothing else. -/
def LeavesPort (i : Instr) (s : State) (p : Nat) (x : Port) : Prop :=
  Runs i s (fun t => OnlyPort s t p ∧ t.port p = x)

/-- A port that has entered RETRAIN with no message queued or arriving (R292, R299): nothing waits to be resent, the
receiver expects the flit after its last whole message, and a port that retrains of itself asks its partner to. -/
def Retrained (x : Port) (asks : Bool) : Port :=
  { if asks then x.sendCtl .retrain else { x with tx := .silent } with
    state := .retrain, retrains := min (x.retrains + 1) 255, resend := [], control := [], nakked := false
    rxFseq := x.whole, ackBase := x.whole, wantRetrain := false, viols := 0, naks := 0, holdSeen := [] }.count 0x30 1

end Sys2Proof.Claims

/-- The states of an optical port (R278 to R280, R292, R298 to R301, R304). EN 0 holds an idle port DISABLED and EN 1
lets it train; training ends in UP with at least 6 wavelengths, and with fewer the port stays TRAINING; a retrain that is
asked for, or that a threshold brought about, takes an UP port to RETRAIN, and a port that retrains of itself asks its
partner to; it ends in UP, with a report of the flit after the last whole message, or counts a failure, and the third
failure makes the port DEAD; a wavelength at a threshold is dropped while 6 are left; a lost partner makes the port DARK;
a stalled link retrains and is counted. It rests on the model's own choices of log entries 55, 57 and 58. -/
def Obligations.PortStatesComplete : Prop :=
  ∀ (s : State) (fn : BitVec 6) (port : BitVec 5) (wmask : BitVec 8) (partner : Option (BitVec 10 × BitVec 5))
    (from_ : BitVec 12) (wave : BitVec 3) (cor unc : BitVec 32) (lane : BitVec 6),
    let p := port.toNat
    let x := s.port p
    let mgmt := s.isMgmt fn.toNat = true
    let empty := x.txq = [] ∧ x.rx = []
    let noQueues := ∀ q, (s.port q).txq = []
    let learn (y : Port) : Port := match partner with
      | some (m, q) => { y with peerV := true, peerMod := m.toNat, peerPort := q.toNat }
      | none => { y with peerV := false }
    let reached := max 1 s.fab.corTh * 1024 ≤ cor.toNat ∨ max 1 s.fab.uncTh ≤ unc.toNat
    let errors := (x.count 0x20 cor.toNat).count 0x28 unc.toNat
    (mgmt → empty → x.state ≠ .disabled → LeavesPort (.portEnableWrite fn port false) s p
      { x.unlinked .disabled with en := false }) ∧
    (mgmt → x.en = false → s.mod.failed = false → LeavesPort (.portEnableWrite fn port true) s p
      { x with en := true, state := .dark, fails := 0 }) ∧
    (¬ mgmt → ∀ en, Runs (.portEnableWrite fn port en) s (fun t => t = s)) ∧
    (s.portsLit = true → x.en = true → x.state = .dark ∨ x.state = .training → 6 ≤ waves wmask.toNat → noQueues →
      LeavesPort (.linkTrained port wmask partner) s p (learn { x.unlinked .up with wmask := wmask.toNat })) ∧
    (x.state = .up → LeavesPort (.linkTrained port wmask partner) s p (learn x)) ∧
    (s.portsLit = true → x.en = true → x.state = .dark ∨ x.state = .training → waves wmask.toNat < 6 →
      LeavesPort (.linkTrained port wmask partner) s p { x with state := .training }) ∧
    (x.state ≠ .up → s.portsLit = false ∨ x.en = false ∨ (x.state ≠ .dark ∧ x.state ≠ .training) →
      Runs (.linkTrained port wmask partner) s (fun t => t = s)) ∧
    (x.state = .up → empty → LeavesPort (.retrainRequest port) s p (Retrained x false)) ∧
    (x.state = .up → empty → x.wantRetrain = true → LeavesPort (.retrainStart port) s p (Retrained x true)) ∧
    (x.wantRetrain = false → Runs (.retrainStart port) s (fun t => t = s)) ∧
    (x.state = .retrain → 6 ≤ waves wmask.toNat → noQueues → LeavesPort (.retrainEnd port wmask from_) s p
      { x with state := .up, wmask := wmask.toNat, fails := 0, control := [.report x.whole]
               resend := x.retry.dropWhile (fun f => f.1 != from_.toNat) }) ∧
    (x.state = .retrain → waves wmask.toNat < 6 → x.fails < 2 → LeavesPort (.retrainEnd port wmask from_) s p
      ({ x with fails := x.fails + 1, retrains := min (x.retrains + 1) 255 }.count 0x30 1)) ∧
    (x.state = .retrain → waves wmask.toNat < 6 → 2 ≤ x.fails → empty → s.mgmt = none →
      LeavesPort (.retrainEnd port wmask from_) s p (x.unlinked .dead)) ∧
    (x.state = .up → Nat.testBit x.wmask wave.toNat = true → ¬ reached →
      LeavesPort (.wavelengthDrop port wave cor unc) s p errors) ∧
    (x.state = .up → Nat.testBit x.wmask wave.toNat = true → reached → 6 < waves x.wmask →
      LeavesPort (.wavelengthDrop port wave cor unc) s p ({ errors with wmask := x.wmask - 2 ^ wave.toNat }.count 0x38 1)) ∧
    (x.state = .up → Nat.testBit x.wmask wave.toNat = true → reached → waves x.wmask ≤ 6 → empty →
      LeavesPort (.wavelengthDrop port wave cor unc) s p (Retrained errors true)) ∧
    (x.state = .up ∨ x.state = .training ∨ x.state = .retrain → empty →
      LeavesPort (.partnerLightLoss port) s p (x.unlinked .dark)) ∧
    (x.state = .up → (x.partialOf lane.toNat).isSome = true → Runs (.stallDeclare port lane) s (fun t =>
      t = { s with fab := t.fab } ∧ (t.port p).state = .retrain ∧
      SMap.get (t.port p).cnt 0x40 0 = min (SMap.get x.cnt 0x40 0 + 1) (2 ^ 64 - 1))) ∧
    (x.partialOf lane.toNat = none → Runs (.stallDeclare port lane) s (fun t => t = s))

/-- Control of an UP port (R282, R283, R289, R291, R299, R301, R303): freed counts are taken over, a NAK resends from
the flit it names, a probe is answered alive, or hold while the port's own input is stalled, and a credit reset sets the
lane's count from the receiver's free space; alive and hold set the stall limit of a lane, and 8 µs without a flit of a
message in progress send a probe. It rests on the model's own choices of log entries 55 and 56. -/
def Obligations.LinkControlComplete : Prop :=
  ∀ (s : State) (port : BitVec 5) (lane : BitVec 6) (freed : List (BitVec 6 × BitVec 16)) (seq : BitVec 12)
    (free : BitVec 16),
    let p := port.toNat
    let x := s.port p
    let l := lane.toNat
    let y := x.inWindow s.mod.timeNs
    let rest := x.retry.dropWhile (fun f => f.1 != seq.toNat)
    let others := x.holdSeen.filter (fun k => k != l)
    (x.state = .up →
      LeavesPort (.creditReturn port freed) s p { x with
        freedCnt := freed.foldl (fun m q => SMap.set m q.1.toNat q.2.toNat) x.freedCnt } ∧
      LeavesPort (.nak port seq) s p { y with
        resend := if rest = [] then y.resend else rest, naks := y.naks + 1
        wantRetrain := y.wantRetrain || decide (max 1 s.fab.retryTh ≤ y.naks + 1) } ∧
      LeavesPort (.probe port lane) s p { x with
        control := x.control ++ [if x.inputStalled l then .hold l else .alive l] } ∧
      LeavesPort (.creditReset port lane free) s p { x.restartLane l with
        sentCnt := SMap.set x.sentCnt l ((SMap.get x.freedCnt l 0 + (2080 - free.toNat)) % 65536) }) ∧
    (x.state ≠ .up → Runs (.creditReturn port freed) s (fun t => t = s) ∧ Runs (.nak port seq) s (fun t => t = s) ∧
      Runs (.probe port lane) s (fun t => t = s) ∧ Runs (.creditReset port lane free) s (fun t => t = s)) ∧
    LeavesPort (.alive port lane) s p { x with holdSeen := others } ∧
    LeavesPort (.hold port lane) s p { x with holdSeen := l :: others } ∧
    ((x.partialOf l).isSome = true → LeavesPort (.probeTimer port lane) s p { x with
      control := x.control ++ [.probe l], holdSeen := others }) ∧
    (x.partialOf l = none → Runs (.probeTimer port lane) s (fun t => t = s))

/-- Flits (R281 to R284, R289 to R291, R293, R296, R301). A slot of an UP port sends a waiting control flit, else the
next flit to be resent, else the only flit of a message with credits, which takes the next FSEQ and enters the retry
buffer, else an idle flit. A flit with a wrong CRC is answered with a NAK of the expected FSEQ; a message of one flit
that is expected at its last hop is delivered; an abort flit takes its FSEQ and is counted; a message not at its last
hop goes to the port of its next hop; a held message whose gap has closed is delivered. It rests on the model's own
choices of log entries 55 and 56. -/
def Obligations.LinkFlitsComplete : Prop :=
  ∀ (s : State) (port : BitVec 5) (flit : BitVec 2048) (lane : BitVec 6) (src : BitVec 10) (queue : BitVec 14) (d : Delivered)
    (m : RxMsg),
    let p := port.toNat
    let x := s.port p
    let up := x.state = .up
    let pl := flitPayload flit
    let h := msgHdr [pl]
    let e := s.fab.expected src.toNat queue.toNat
    let hit (k : Delivered) : Bool := (msgHdr k.flits).src == src.toNat && (msgHdr k.flits).queue == queue.toNat
      && (msgHdr k.flits).mseq == e
    let mh := msgHdr m.flits
    let q := portOfHop mh.ports mh.hopptr
    (∀ c rest, up → x.control = c :: rest → (∀ f, c ≠ .credit f) → Runs (.linkSlot port) s (fun t => OnlyPort s t p ∧
      (t.port p).tx = .control c (x.seal (bareFlit 5 0 0 (BitVec.ofNat 1920 (leNat c.payload)))) ∧
      (t.port p).control = rest ∧ (t.port p).retry = x.retry ∧ (t.port p).txq = x.txq)) ∧
    (∀ f rest, up → x.control = [] → x.resend = f :: rest → Runs (.linkSlot port) s (fun t => OnlyPort s t p ∧
      (t.port p).tx = .flit (x.seal f.2) ∧ (t.port p).resend = rest ∧ (t.port p).retry = x.retry)) ∧
    (∀ i f, up → x.control = [] → x.resend = [] → x.retry.length < 2048 → x.txq = [i] → i.flits = [f] → i.total = 1 →
      i.sent = 0 → i.abort = false → i.committed = true → i.origin = none → x.creditOk i.lane 1 = true →
      Runs (.linkSlot port) s (fun t =>
        let out := bareFlit 4 i.lane x.txFseq f
        OnlyPort s t p ∧ (t.port p).tx = .flit (x.seal out) ∧ (t.port p).retry = x.retry ++ [(x.txFseq, out)] ∧
        (t.port p).txq = [] ∧ (t.port p).txFseq = (x.txFseq + 1) % 4096)) ∧
    (up → x.control = [] → x.resend = [] → x.txq = [] → Runs (.linkSlot port) s (fun t => OnlyPort s t p ∧
      (t.port p).tx = .idle (x.seal (bareFlit 0 0 0 0)) ∧ (t.port p).retry = x.retry)) ∧
    (¬ up → Runs (.linkSlot port) s (fun t => t = s) ∧ Runs (.flitReceive port flit) s (fun t => t = s) ∧
      Runs (.abortFlit port lane) s (fun t => t = s)) ∧
    (up → flitCrcOk flit = false → LeavesPort (.flitReceive port flit) s p (x.sendNak x.rxFseq)) ∧
    (up → flitCrcOk flit = true → flitType flit = 4 → fld flit 34 30 = 0 → flitFseq flit = x.rxFseq → x.rx = [] →
      x.rxRoom (flitLane flit) = true → headerOk flit = true → h.len = 0 → s.routeBad pl = false → h.lastHop = true →
      h.kind = 2 ∨ h.kind = 4 ∨ h.kind = 5 ∨ h.start = true ∨ (h.kind < 6 ∧ h.mseq = s.fab.expected h.src h.queue) →
      h.kind ≠ 6 → Runs (.flitReceive port flit) s (fun t => t = { s with fab := t.fab } ∧
        t.fab.inbox = s.fab.inbox ++ [{ cls := laneClass (flitLane flit), flits := [pl] }] ∧
        (t.port p).rxFseq = (x.rxFseq + 1) % 4096 ∧ ∀ k, k ≠ p → t.port k = s.port k)) ∧
    (up → x.rx = [] → LeavesPort (.abortFlit port lane) s p (((x.count 8 1).take true).count 0x60 1).noteAck) ∧
    (SMap.get x.rx lane.toNat [] = [m] → m.whole = true → m.out = none → m.drop = 0 → mh.lastHop = false →
      (s.port q).state = .up → Runs (.messageForward port lane) s (fun t => t = { s with fab := t.fab } ∧
        SMap.get (t.port p).rx lane.toNat [] = [] ∧ (∀ k, k ≠ p → k ≠ q → t.port k = s.port k) ∧
        (t.port q).txq = (s.port q).txq ++ [
          { flits := ins (m.flits.headD 0) 51 3 (mh.hopptr + 1) :: m.flits.tail, total := mh.len + 1
            lane := laneOf (laneClass lane.toNat) (lane.toNat / 4 % 2 == 1) (mh.hopptr % 4)
            origin := some (p, lane.toNat), source := some (mh.src, mh.func) }])) ∧
    (s.fab.early.find? hit = some d → s.waitingOf src.toNat queue.toNat = none →
      Runs (.messageDeliver src queue) s (fun t => t = { s with fab := t.fab } ∧ t.fab.inbox = s.fab.inbox ++ [d] ∧
        t.fab.early = delFirst hit s.fab.early ∧ t.fab.expected src.toNat queue.toNat = (e + 1) % 65536)) ∧
    (s.fab.early.find? hit = none → s.waitingOf src.toNat queue.toNat = none →
      Runs (.messageDeliver src queue) s (fun t => t = s))

namespace Sys2Proof.Claims

/-- A message that a transfer of a command sent is lost: the transfer is stopping with PEER_LOST and a reason (R294, R329), and
nothing else but the fabric has changed. -/
def TransferLost (s t : State) (r : CmdRef) (c : Cmd) (x : Xfer) (reason : Nat) : Prop :=
  t = { s with cmds := t.cmds, fab := t.fab } ∧ (∀ q, q ≠ r → t.cmd q = s.cmd q) ∧
  t.cmd r = some { c with xfer := some (x.stop 10 (reason * 2 ^ 16)) }

end Sys2Proof.Claims

/-- Messages of other modules (R192, R222, R285, R294, R303, R327). A write that passes its window's checks and lies in
one stack page is stored there, and no other byte changes; a read is answered in its class with the bytes read; data for
a pending tag is held for the engine that asked; an accepted message no longer waits for its acknowledgement; a refused
request changes no memory; a refusal stops the transfer that sent the message with FAULT_PAGE, or with REVOKED for a
revoked window (R254); a notice, and a delivery time-out, stop the transfer that sent the message with PEER_LOST. It
rests on the model's own choices of log entries 55, 57 and 59. -/
def Obligations.MessagesComplete : Prop :=
  ∀ (s s1 s2 v : State) (msg : List (BitVec 1920)) (m : Delivered) (u : Unacked) (a : Nat) (bs : List Byte) (e : BitVec 64)
    (big : Bool) (r : CmdRef) (c : Cmd) (x : Xfer) (queue : BitVec 14) (dest : BitVec 10) (mseq : BitVec 16),
    let h := msgHdr msg
    let w := s.window h.window
    let data := msgPayload msg
    let va := w.va h.offset
    let mh := msgHdr m.flits
    let mw := s.window mh.window
    let mine (y : Unacked) : Bool := y.queue == h.queue && y.dest == h.src && y.mseq == h.mseq && y.committed
    let about (y : Unacked) : Bool := y.queue == h.queue && y.mseq == h.mseq && y.committed
    let named (y : Unacked) : Bool := y.queue == queue.toNat && y.dest == dest.toNat && y.mseq == mseq.toNat
    let sender := u.engine = some (.feed (.cmd r)) ∧ s.cmd r = some c ∧ s.xfer (.cmd r) = some x ∧ x.isComplete = false
    let tag (y : ReadTag) : Bool := y.tag == h.kspec % 65536
    let noneOwed := ∀ g ∈ s.groups, g.2.owed = []
    (s.takeMsg (fun h => h.kind == 0) = some (msg, s1) → w.check h.srcgrp h.offset data.length false true false = none →
      data ≠ [] → va % 2 ^ 25 + data.length ≤ 2 ^ 25 → s.translate w.tenant va .read = .at (.stack a) e big →
      Memory.wf s.mem = true → Runs (.remoteWrite) s (fun t => Memory.readBytes t.mem a data.length = data ∧
        (∀ b, b < a ∨ a + data.length ≤ b → Memory.read t.mem b = Memory.read s.mem b) ∧ t.cores = s.cores)) ∧
    (∀ reason, s.takeMsg (fun h => h.kind == 0) = some (msg, s1) →
      w.check h.srcgrp h.offset data.length false true false = some reason →
      Runs (.remoteWrite) s (fun t => SameMem s t ∧ t.cores = s.cores)) ∧
    (∀ route, s.takeDelivered (fun h => h.kind == 1) = some (m, s1) →
      mw.check mh.srcgrp mh.offset mh.paylen true false false = none →
      s1.readTrusted mw.tenant (mw.va mh.offset) mh.paylen = some (bs, v) → bs.length ≤ 7168 → v.routeTo mh.src m.cls = some route →
      Runs (.readRequest) s (fun t => t = { v with fab := t.fab } ∧
        ∃ i ∈ (t.port (portOfHop route.ports 0)).txq, i.lane = laneOf m.cls true 0 ∧ i.flits = msgFlits
          { dest := mh.src, src := v.moduleNo, srcgrp := v.fab.srcGrp, share := (v.func 0).linkShare, hops := route.hops
            hopptr := 1, kind := 2, ports := route.ports, func := 0, queue := mh.queue, mseq := mh.mseq
            window := mh.window, offset := mh.offset, paylen := bs.length, kspec := mh.kspec } bs)) ∧
    (∀ t0, s.takeMsg (fun h => h.kind == 2) = some (msg, s1) → s.fab.reads.find? tag = some t0 → data ≠ [] →
      h.offset % 256 + data.length ≤ 256 → h.offset % 256 = 0 → (∀ q, t0.cmd = some q → (s.cmd q).isSome = true) →
      (s.die t0.die).scopedLine t0.cmd (.remote h.src h.window h.offset) = none →
      Runs (.readResponse) s (fun t => t = { s with dies := t.dies, fab := t.fab } ∧
        t.fab.reads = (if t0.bytes ≤ data.length then delFirst tag s.fab.reads
          else updFirst tag (fun y => { y with bytes := t0.bytes - data.length }) s.fab.reads) ∧
        ∃ l, (t.die t0.die).scopedLine t0.cmd (.remote h.src h.window h.offset) = some l ∧
          knownBytes l.data 0 data.length = some data)) ∧
    (s.takeMsg (fun h => h.kind == 2) = some (msg, s1) → s.fab.reads.find? tag = none →
      Runs (.readResponse) s (fun t => t = s1)) ∧
    (s.takeMsg (fun h => h.kind == 4) = some (msg, s1) → s1.takeUnacked mine = some (u, s2) → data = [] → noneOwed →
      Runs (.acknowledgement) s (fun t => t = s2)) ∧
    (∀ b rest, s.takeMsg (fun h => h.kind == 4) = some (msg, s1) → s1.takeUnacked mine = some (u, s2) → data = b :: rest →
      sender → Runs (.acknowledgement) s (fun t => SameMem s t ∧
        t.cmd r = some { c with xfer := some (if b.toNat = refusalRevoked then x.stop 5 2 else x.stop 6 b.toNat) })) ∧
    (s.takeMsg (fun h => h.kind == 5 && h.kspec % 256 == 1) = some (msg, s1) → s1.takeUnacked about = some (u, s2) → sender →
      Runs (.noticeUnreachable) s (fun t => TransferLost s t r c x 1)) ∧
    (s.takeMsg (fun h => h.kind == 5 && h.kspec % 256 == 2) = some (msg, s1) → s1.takeUnacked about = some (u, s2) → sender →
      Runs (.noticeRouteError) s (fun t => TransferLost s t r c x 1)) ∧
    (s.takeUnacked named = some (u, s1) → sender →
      Runs (.deliveryTimeout queue dest mseq) s (fun t => TransferLost s t r c x 4)) ∧
    (s.takeUnacked named = none → Runs (.deliveryTimeout queue dest mseq) s (fun t => t = s))

/-- Replay, map-out and module failure (R17, R335, R340, R345 to R348): a struck command without contexts whose writes
have settled restarts with one more attempt and clean counts; the end of a map-out puts the spare, cleared and with the
replaced core's owner and handles, in its place; ARMED clears FWIN seconds after a fault; a failed link of two
neighbouring dies, port die, host link or scribe fails the module: its cause is recorded, ports are dark, contexts are
idle, and every command in flight completes with FAULT_UNRECOVERED of KIND 7; a host link that was up reports ERR_FATAL
and is down (R263). It rests on the model's own choices of log entries 44 and 45. -/
def Obligations.ReplayAndFailureComplete : Prop :=
  ∀ (s : State) (r : CmdRef) (c : Cmd) (die a b : BitVec 5) (ring : Bool) (core : CoreRef) (src : FailSource) (q : CmdRef) (m : Cmd),
    let d := die.toNat
    let k := coreKey d (s.die d).spareCore
    let cause (u : FailSource) : Nat := match u with | .portDie _ => 3 | .hostLink _ => 4 | .scribe _ => 5
    let down (t : State) (n : Nat) : Prop := t.mod.failed = true ∧ t.mod.fcause = n ∧
      (∀ p, p < 32 → (t.port p).state = .disabled) ∧ (∀ key j, (t.ctx key j).mode = .idle)
    let failed (i : Instr) (n da : Nat) : Prop := Runs i s (fun t => down t n ∧ SameMem s t ∧
      (s.cmd q = some m → t.cmd q = some (if m.isComplete then m else
        { m.finish 7 (faultDetail 7 5 31 da) with result := if m.opcode = 1 then launchResult m.codes else m.result })))
    let linked := if ring then ringLink a.toNat b.toNat = true else meshLink a.toNat b.toNat = true
    (∀ w, s.cmd r = some c → c.phase = .replay w → s.settled c w = true → c.ctxs = [] → c.xfer = none → c.opcode ≠ 1 →
      (s.die r.die).traces = [] → Runs (.replayRestart r) s (fun t =>
        t.cmd r = some { c with phase := .started, attempts := c.attempts + 1, sat := 0, flush := 0, detail := 0
                                status := if c.cancelled then 2 else 0, codes := [], repair := [] } ∧
        (∀ p ∈ c.repair, (t.core p.1).row p.2 = 0) ∧ SameMem s t ∧ ∀ i, i ≠ r → t.cmd i = s.cmd i)) ∧
    (∀ w, s.cmd r = some c → c.phase = .replay w → s.settled c w = false → Runs (.replayRestart r) s (fun t => t = s)) ∧
    ((s.die d).mapping = true → (s.die d).traces = [] → Runs (.mapOutDone die) s (fun t => SameMem s t ∧
      t.die d = { s.die d with spareUsed := true, mapping := false } ∧
      (t.core k).owned = (s.core k).owned ∧ (t.core k).owner = (s.core k).owner ∧ (t.core k).handles = (s.core k).handles ∧
      (t.core k).ink = [] ∧ (t.core k).res = [] ∧ (t.core k).l1 = [] ∧ (t.core k).halted = false ∧
      (∀ j, j < 4 → (t.ctx k j).x = [] ∧ (t.ctx k j).mode = .idle ∧ (t.ctx k j).job = (s.ctx k j).job) ∧
      ∀ i, i ≠ k → t.core i = s.core i)) ∧
    ((s.die d).mapping = false → Runs (.mapOutDone die) s (fun t => t = s)) ∧
    (CoreExists core → s.mod.fwin ≠ 0 → Runs (.armedExpire core) s (fun t => OnlyCore s t core.key ∧
      t.core core.key = { s.core core.key with armed := false })) ∧
    (CoreExists core → s.mod.fwin = 0 → Runs (.armedExpire core) s (fun t => t = s)) ∧
    (s.diesRun = true → s.mod.failed = false → linked →
      failed (.dieLinkFailure a b ring) 2 (if ring then min a.toNat b.toNat else a.toNat)) ∧
    (s.diesRun = true → s.mod.failed = false → (∀ l, src = .hostLink l → (s.link l.toNat).up = false) →
      failed (.uncorrectableInternalError src) (cause src) (match src with | .scribe i => i.toNat | _ => 0)) ∧
    (∀ l, s.diesRun = true → s.mod.failed = false → src = .hostLink l → (s.link l.toNat).up = true →
      Runs (.uncorrectableInternalError src) s (fun t => down t 4 ∧ (t.link l.toNat).up = false ∧
        SMap.get t.aer (4 * l.toNat + 3) 0 = SMap.get s.aer (4 * l.toNat + 3) 0 + 1)) ∧
    (s.diesRun = false ∨ s.mod.failed = true ∨ ¬ linked → Runs (.dieLinkFailure a b ring) s (fun t => t = s)) ∧
    (s.diesRun = false → Runs (.uncorrectableInternalError src) s (fun t => t = s))

/-- The management controller (R19, R367 to R370, R389, R392): VIN in range starts it; a request over I3C, or over the
mailbox of the managing function while BUSY is 0, joins its queue; it answers a read with the record's bytes and stores
a write to records 8 to 15; OP 5 stores limit and ceiling within their bounds; a mailbox request without an answer ends
with TIMEOUT. It rests on the model's own choice of log entry 67. -/
def Obligations.ManagementControllerCompletes : Prop :=
  ∀ (s : State) (fn : BitVec 6) (n : BitVec 4) (bytes : List Byte) (addr : BitVec 7) (rec : BitVec 8) (r : MmcReq),
    let m := s.mod
    let box := s.isMgmt fn.toNat = true ∧ m.mbBusy = false
    let onlyMod (t : State) (x : Module) : Prop := t = { s with mod := x }
    let i3c (i : Instr) (op record : Nat) (bs : List Byte) : Prop := m.serves = true → Runs i s (fun t => onlyMod t
      { m with mmcQueue := m.mmcQueue ++ [{ path := .i3c, op := op, record := record, bytes := bs }], i3cStatus := 255
               i3cData := [] })
    let mail (i : Instr) (op record : Nat) : Prop := box → Runs i s (fun t => onlyMod t
      { m with mbBusy := true, mbOp := op, mbRecord := record, mmcQueue := m.mmcQueue ++
                [{ path := .mailbox fn, op := op, record := record, bytes := Memory.readBytes m.mbData 0 256 }] })
    let one := m.serves = true ∧ m.mmcQueue = [r]
    let answered (data : List Byte) (x : Module) : Module :=
      { x with mmcQueue := [], i3cStatus := 0, i3cData := data }
    i3c (.idReadRecord .i3c n) 0 n.toNat [] ∧ mail (.idReadRecord (.mailbox fn) n) 0 n.toNat ∧
    i3c (.idWriteRecord .i3c n bytes) 1 n.toNat bytes ∧
    (box → Runs (.idWriteRecord (.mailbox fn) n bytes) s (fun t => t.mod.mbBusy = true ∧ t.mod.mbOp = 1 ∧
      t.mod.mbData = Memory.writeBytes m.mbData 0 (bytes.take 256) ∧ onlyMod t t.mod)) ∧
    i3c (.idReadSensors .i3c) 2 0 [] ∧ mail (.idReadSensors (.mailbox fn)) 2 0 ∧
    i3c (.idReadMeasurement .i3c) 3 0 [] ∧ mail (.idReadMeasurement (.mailbox fn)) 3 0 ∧
    i3c (.i3cSetPowerLimit rec bytes) 5 rec.toNat bytes ∧
    (¬ box → Runs (.idReadRecord (.mailbox fn) n) s (fun t => t = s) ∧
      Runs (.idWriteRecord (.mailbox fn) n bytes) s (fun t => t = s)) ∧
    (one → r.path = .i3c →
      (r.op = 0 → Runs (.idRequestDone) s (fun t => onlyMod t (answered (bytes256 (m.record r.record)) m))) ∧
      (r.op = 1 → 8 ≤ r.record → r.bytes.length = 256 → Runs (.idRequestDone) s (fun t => onlyMod t (answered []
        { m with records := SMap.set m.records r.record (BitVec.ofNat 2048 (leNat r.bytes)) }))) ∧
      (r.op = 1 → r.record < 8 → Runs (.idRequestDone) s (fun t => onlyMod t
        { answered [] m with i3cStatus := 11 })) ∧
      (r.op = 2 → Runs (.idRequestDone) s (fun t => onlyMod t (answered (bytes256 m.sensors) m))) ∧
      (r.op = 5 → r.record = 0 → r.bytes.length = 4 → Runs (.idRequestDone) s (fun t =>
        t.mod.plimitNew = max 1500 (min 4500 (leNat (r.bytes.take 2))) ∧
        t.mod.ceilingNew = max 800 (min 2200 (leNat (r.bytes.drop 2))) / 25 * 25 ∧
        onlyMod t (answered [] { m with plimitNew := t.mod.plimitNew, ceilingNew := t.mod.ceilingNew })))) ∧
    (m.mbBusy = true → Runs (.idMailboxTimeout) s (fun t => t.mod.mbBusy = false ∧ t.mod.mbResult = 9 ∧ onlyMod t t.mod)) ∧
    (m.serves = true → Runs (.i3cSetdasa addr) s (fun t => onlyMod t { m with i3cAddr := addr.toNat }) ∧
      Runs (.i3cReadBootHealth) s (fun t => onlyMod t { m with i3cStatus := 0, i3cData := leBytes 4 m.boot ++ leBytes 4 m.health }) ∧
      Runs (.i3cPrivateRead) s (fun t => onlyMod t { m with
        i3cOut := BitVec.ofNat 8 m.i3cStatus :: (if m.i3cStatus = 0 then m.i3cData else []) })) ∧
    (m.serves = false → Runs (.idRequestDone) s (fun t => t = s) ∧ Runs (.i3cSetdasa addr) s (fun t => t = s) ∧
      Runs (.i3cReadBootHealth) s (fun t => t = s) ∧ Runs (.i3cPrivateRead) s (fun t => t = s)) ∧
    (m.stage = .ready → Runs (.mmcStop) s (fun t => onlyMod t { m with mmcRun := false })) ∧
    (m.mmcStandby = true → Runs (.vinEntersRange) s (fun t => onlyMod t { m with vinOk := true })) ∧
    (m.mmcStandby = false → Runs (.vinEntersRange) s (fun t => t.mod.vinOk = true ∧ t.mod.serves = true ∧
      t.mod.i3cAddr = 0x3A ∧ t.mod.records = m.records ∧ onlyMod t t.mod))

/-- Writes to BAR0 (R215, R224, R294, R332, R381 to R385, and each register's chapter): an aligned write of 4 or 8 bytes
acts on the register that its offset names, as its access codes say: the managing function sets MOD_FLTCTL, MMU_FCTLn,
PLZ_CTL and STK_TCTLd with their clamps, the owner of a core or the managing function MXU_CWIN, a queue's owner RHEAD. A
write of a function that may not write the register, of a function that does not exist, or of another width changes
nothing. It rests on the model's own choice of log entry 51. -/
def Obligations.RegisterWritesComplete : Prop :=
  ∀ (s : State) (fn : BitVec 6) (off : BitVec 28) (width : BitVec 7) (v : BitVec 512) (d : BitVec 5) (k : CoreRef)
    (i : BitVec 6) (queue : BitVec 14),
    let n := fn.toNat
    let o := off.toNat
    let lives := s.funcExists n = true
    let mgmt := s.isMgmt n = true
    let is32 := width.toNat = 4
    let is64 := width.toNat = 8
    let write := Instr.registerWrite fn off width v
    let same := Runs write s (fun t => t = s)
    let c := k.key
    let q := queue.toNat
    (s.funcExists n = false → same) ∧
    (lives → width.toNat ≤ 8 → ¬ is32 → ¬ is64 → same) ∧ (lives → is32 → o % 4 ≠ 0 → same) ∧ (lives → is64 → o % 8 ≠ 0 → same) ∧
    (lives → is32 → o = 0x28 → (mgmt → Runs write s (fun t =>
      t = { s with mod := { s.mod with wdt := max 16 (fld v 16 5), fwin := fld v 0 16 } })) ∧ (¬ mgmt → same)) ∧
    (lives → is32 → o = 0x203000 + 4 * i.toNat → (mgmt → Runs write s (fun t => t = { s with funcs := t.funcs } ∧
      t.func i.toNat = { s.func i.toNat with tmo := fld v 16 8, hotth := fld v 0 16 } ∧
      ∀ j, j ≠ i.toNat → t.func j = s.func j)) ∧ (¬ mgmt → same)) ∧
    (lives → is64 → o = 0x300000 → (mgmt → Runs write s (fun t => t = { s with fab := { s.fab with
      srcGrp := fld v 56 8, e2etmo := max 1 (fld v 48 8), violTh := max 1 (fld v 40 8), retryTh := max 1 (fld v 32 8)
      corTh := max 1 (fld v 16 16), uncTh := max 1 (fld v 8 8) } })) ∧ (¬ mgmt → same)) ∧
    (lives → is32 → o = 0x04001004 + 0x10000 * d.toNat → (mgmt → Runs write s (fun t => OnlyDie s t d.toNat ∧
      t.die d.toNat = { s.die d.toNat with stkHyst := max 1 (min 8 (fld v 8 4)), stkT := max 80 (min 100 (fld v 0 8)) })) ∧
      (¬ mgmt → same)) ∧
    (lives → is32 → CoreExists k → o = 0x08000400 + 0x20000 * (c / 20) + 0x1000 * (c % 20) → s.windowClosed (.cwin c) = false →
      (s.ownsKey n c = true ∨ mgmt → Runs write s (fun t => OnlyCore s t c ∧
        t.core c = { s.core c with cwin := min 4096 (fld v 0 13) })) ∧ (s.ownsKey n c = false → ¬ mgmt → same)) ∧
    (lives → is64 → o = 0x110018 + 32 * q → ((s.queue q).owner = n → Runs write s (fun t => t = { s with queues := t.queues } ∧
      t.queue q = { s.queue q with rhead := fld v 0 16 } ∧ ∀ j, j ≠ q → t.queue j = s.queue j)) ∧
      ((s.queue q).owner ≠ n → same))
end

