-- ==== Sys2Proof/Laws/Dispatch.lean ====
section
/-! SUPPORT. The meaning that `exec` gives each command, one equation for each. -/

namespace Sys2Proof.Machine

@[simp] theorem exec_setk (c : CtxRef) (w : Word32) (s : State) : exec (.setk c w) s = execSetk c w s := rfl
@[simp] theorem exec_addpc (c : CtxRef) (w : Word32) (s : State) : exec (.addpc c w) s = execAddpc c w s := rfl
@[simp] theorem exec_gol (c : CtxRef) (w : Word32) (s : State) : exec (.gol c w) s = execGol c w s := rfl
@[simp] theorem exec_gor (c : CtxRef) (w : Word32) (s : State) : exec (.gor c w) s = execGor c w s := rfl
@[simp] theorem exec_jcond (c : CtxRef) (w : Word32) (s : State) : exec (.jcond c w) s = execJcond c w s := rfl
@[simp] theorem exec_load (c : CtxRef) (w : Word32) (s : State) : exec (.load c w) s = execLoad c w s := rfl
@[simp] theorem exec_store (c : CtxRef) (w : Word32) (s : State) : exec (.store c w) s = execStore c w s := rfl
@[simp] theorem exec_ldf (c : CtxRef) (w : Word32) (s : State) : exec (.ldf c w) s = execLdf c w s := rfl
@[simp] theorem exec_stf (c : CtxRef) (w : Word32) (s : State) : exec (.stf c w) s = execStf c w s := rfl
@[simp] theorem exec_aluImmediate (c : CtxRef) (w : Word32) (s : State) : exec (.aluImmediate c w) s = execAluImmediate c w s := rfl
@[simp] theorem exec_aluRegister (c : CtxRef) (w : Word32) (s : State) : exec (.aluRegister c w) s = execAluRegister c w s := rfl
@[simp] theorem exec_multiply (c : CtxRef) (w : Word32) (s : State) : exec (.multiply c w) s = execMultiply c w s := rfl
@[simp] theorem exec_divide (c : CtxRef) (w : Word32) (s : State) : exec (.divide c w) s = execDivide c w s := rfl
@[simp] theorem exec_fpArith (c : CtxRef) (w : Word32) (s : State) : exec (.fpArith c w) s = execFpArith c w s := rfl
@[simp] theorem exec_fpMinmax (c : CtxRef) (w : Word32) (s : State) : exec (.fpMinmax c w) s = execFpMinmax c w s := rfl
@[simp] theorem exec_fpCompare (c : CtxRef) (w : Word32) (s : State) : exec (.fpCompare c w) s = execFpCompare c w s := rfl
@[simp] theorem exec_fpSign (c : CtxRef) (w : Word32) (s : State) : exec (.fpSign c w) s = execFpSign c w s := rfl
@[simp] theorem exec_dtoi (c : CtxRef) (w : Word32) (s : State) : exec (.dtoi c w) s = execDtoi c w s := rfl
@[simp] theorem exec_itod (c : CtxRef) (w : Word32) (s : State) : exec (.itod c w) s = execItod c w s := rfl
@[simp] theorem exec_fpMove (c : CtxRef) (w : Word32) (s : State) : exec (.fpMove c w) s = execFpMove c w s := rfl
@[simp] theorem exec_atomic (c : CtxRef) (w : Word32) (s : State) : exec (.atomic c w) s = execAtomic c w s := rfl
@[simp] theorem exec_fenceCore (c : CtxRef) (w : Word32) (s : State) : exec (.fenceCore c w) s = execFenceCore c w s := rfl
@[simp] theorem exec_fenceDie (c : CtxRef) (w : Word32) (s : State) : exec (.fenceDie c w) s = execFenceDie c w s := rfl
@[simp] theorem exec_fenceDev (c : CtxRef) (w : Word32) (s : State) : exec (.fenceDev c w) s = execFenceDev c w s := rfl
@[simp] theorem exec_fenceSys (c : CtxRef) (w : Word32) (s : State) : exec (.fenceSys c w) s = execFenceSys c w s := rfl
@[simp] theorem exec_fenceCode (c : CtxRef) (w : Word32) (s : State) : exec (.fenceCode c w) s = execFenceCode c w s := rfl
@[simp] theorem exec_srd (c : CtxRef) (w : Word32) (s : State) : exec (.srd c w) s = execSrd c w s := rfl
@[simp] theorem exec_swr (c : CtxRef) (w : Word32) (s : State) : exec (.swr c w) s = execSwr c w s := rfl
@[simp] theorem exec_smw (c : CtxRef) (w : Word32) (s : State) : exec (.smw c w) s = execSmw c w s := rfl
@[simp] theorem exec_hret (c : CtxRef) (w : Word32) (s : State) : exec (.hret c w) s = execHret c w s := rfl
@[simp] theorem exec_pause (c : CtxRef) (w : Word32) (s : State) : exec (.pause c w) s = execPause c w s := rfl
@[simp] theorem exec_done (c : CtxRef) (w : Word32) (s : State) : exec (.done c w) s = execDone c w s := rfl
@[simp] theorem exec_bmov (c : CtxRef) (w : Word32) (s : State) : exec (.bmov c w) s = execBmov c w s := rfl
@[simp] theorem exec_bfill (c : CtxRef) (w : Word32) (s : State) : exec (.bfill c w) s = execBfill c w s := rfl
@[simp] theorem exec_bcmp (c : CtxRef) (w : Word32) (s : State) : exec (.bcmp c w) s = execBcmp c w s := rfl
@[simp] theorem exec_bscan (c : CtxRef) (w : Word32) (s : State) : exec (.bscan c w) s = execBscan c w s := rfl
@[simp] theorem exec_blockRepeatStep (c : CtxRef) (w : Word32) (s : State) : exec (.blockRepeatStep c w) s = execBlockRepeatStep c w s := rfl
@[simp] theorem exec_interruptEntry (c : CtxRef) (s : State) : exec (.interruptEntry c) s = execInterruptEntry c s := rfl
@[simp] theorem exec_alarmExpire (c : CtxRef) (s : State) : exec (.alarmExpire c) s = execAlarmExpire c s := rfl
@[simp] theorem exec_contextWatchdog (c : CtxRef) (s : State) : exec (.contextWatchdog c) s = execContextWatchdog c s := rfl
@[simp] theorem exec_coprocessorAbsent (c : CtxRef) (w : Word32) (s : State) : exec (.coprocessorAbsent c w) s = execCoprocessorAbsent c w s := rfl
@[simp] theorem exec_mdset (c : CtxRef) (w : Word32) (s : State) : exec (.mdset c w) s = execMdset c w s := rfl
@[simp] theorem exec_mm (c : CtxRef) (w : Word32) (s : State) : exec (.mm c w) s = execMm c w s := rfl
@[simp] theorem exec_mmAccept (k : CoreRef) (s : State) : exec (.mmAccept k) s = execMmAccept k s := rfl
@[simp] theorem exec_cursiveGroupClose (k : CoreRef) (s : State) : exec (.cursiveGroupClose k) s = execCursiveGroupClose k s := rfl
@[simp] theorem exec_arrayChecksumFault (k : CoreRef) (f : ChecksumFail) (s : State) : exec (.arrayChecksumFault k f) s = execArrayChecksumFault k f s := rfl
@[simp] theorem exec_mmPassComplete (k : CoreRef) (i : Nat) (s : State) : exec (.mmPassComplete k i) s = execMmPassComplete k i s := rfl
@[simp] theorem exec_vfp (c : CtxRef) (w : Word32) (s : State) : exec (.vfp c w) s = execVfp c w s := rfl
@[simp] theorem exec_vint (c : CtxRef) (w : Word32) (s : State) : exec (.vint c w) s = execVint c w s := rfl
@[simp] theorem exec_vcmp (c : CtxRef) (w : Word32) (s : State) : exec (.vcmp c w) s = execVcmp c w s := rfl
@[simp] theorem exec_vxf (c : CtxRef) (w : Word32) (s : State) : exec (.vxf c w) s = execVxf c w s := rfl
@[simp] theorem exec_vwake (c : CtxRef) (w : Word32) (s : State) : exec (.vwake c w) s = execVwake c w s := rfl
@[simp] theorem exec_vcvt (c : CtxRef) (w : Word32) (s : State) : exec (.vcvt c w) s = execVcvt c w s := rfl
@[simp] theorem exec_vmv (c : CtxRef) (w : Word32) (s : State) : exec (.vmv c w) s = execVmv c w s := rfl
@[simp] theorem exec_vbcx (c : CtxRef) (w : Word32) (s : State) : exec (.vbcx c w) s = execVbcx c w s := rfl
@[simp] theorem exec_vbcf (c : CtxRef) (w : Word32) (s : State) : exec (.vbcf c w) s = execVbcf c w s := rfl
@[simp] theorem exec_viota (c : CtxRef) (w : Word32) (s : State) : exec (.viota c w) s = execViota c w s := rfl
@[simp] theorem exec_vsldn (c : CtxRef) (w : Word32) (s : State) : exec (.vsldn c w) s = execVsldn c w s := rfl
@[simp] theorem exec_vslup (c : CtxRef) (w : Word32) (s : State) : exec (.vslup c w) s = execVslup c w s := rfl
@[simp] theorem exec_vsumF (c : CtxRef) (w : Word32) (s : State) : exec (.vsumF c w) s = execVsumF c w s := rfl
@[simp] theorem exec_vmaxF (c : CtxRef) (w : Word32) (s : State) : exec (.vmaxF c w) s = execVmaxF c w s := rfl
@[simp] theorem exec_vminF (c : CtxRef) (w : Word32) (s : State) : exec (.vminF c w) s = execVminF c w s := rfl
@[simp] theorem exec_vsumI (c : CtxRef) (w : Word32) (s : State) : exec (.vsumI c w) s = execVsumI c w s := rfl
@[simp] theorem exec_vpopc (c : CtxRef) (w : Word32) (s : State) : exec (.vpopc c w) s = execVpopc c w s := rfl
@[simp] theorem exec_vfirst (c : CtxRef) (w : Word32) (s : State) : exec (.vfirst c w) s = execVfirst c w s := rfl
@[simp] theorem exec_vld (c : CtxRef) (w : Word32) (s : State) : exec (.vld c w) s = execVld c w s := rfl
@[simp] theorem exec_vst (c : CtxRef) (w : Word32) (s : State) : exec (.vst c w) s = execVst c w s := rfl
@[simp] theorem exec_vgath (c : CtxRef) (w : Word32) (s : State) : exec (.vgath c w) s = execVgath c w s := rfl
@[simp] theorem exec_vscat (c : CtxRef) (w : Word32) (s : State) : exec (.vscat c w) s = execVscat c w s := rfl
@[simp] theorem exec_vrrd (c : CtxRef) (w : Word32) (s : State) : exec (.vrrd c w) s = execVrrd c w s := rfl
@[simp] theorem exec_vrst (c : CtxRef) (w : Word32) (s : State) : exec (.vrst c w) s = execVrst c w s := rfl
@[simp] theorem exec_vrraw (c : CtxRef) (w : Word32) (s : State) : exec (.vrraw c w) s = execVrraw c w s := rfl
@[simp] theorem exec_vrcomb (c : CtxRef) (w : Word32) (s : State) : exec (.vrcomb c w) s = execVrcomb c w s := rfl
@[simp] theorem exec_vrclr (c : CtxRef) (w : Word32) (s : State) : exec (.vrclr c w) s = execVrclr c w s := rfl
@[simp] theorem exec_vedset (c : CtxRef) (w : Word32) (s : State) : exec (.vedset c w) s = execVedset c w s := rfl
@[simp] theorem exec_vmsk (c : CtxRef) (w : Word32) (s : State) : exec (.vmsk c w) s = execVmsk c w s := rfl
@[simp] theorem exec_vectorCommit (c : CtxRef) (s : State) : exec (.vectorCommit c) s = execVectorCommit c s := rfl
@[simp] theorem exec_vectorStoreDrain (c : CtxRef) (s : State) : exec (.vectorStoreDrain c) s = execVectorStoreDrain c s := rfl
@[simp] theorem exec_unitPowerDown (k : CoreRef) (u : GUnit) (s : State) : exec (.unitPowerDown k u) s = execUnitPowerDown k u s := rfl
@[simp] theorem exec_unitWakeDone (k : CoreRef) (u : GUnit) (s : State) : exec (.unitWakeDone k u) s = execUnitWakeDone k u s := rfl
@[simp] theorem exec_feedStart (c : CtxRef) (w : Word32) (s : State) : exec (.feedStart c w) s = execFeedStart c w s := rfl
@[simp] theorem exec_feedWait (c : CtxRef) (w : Word32) (s : State) : exec (.feedWait c w) s = execFeedWait c w s := rfl
@[simp] theorem exec_ligStart (c : CtxRef) (w : Word32) (s : State) : exec (.ligStart c w) s = execLigStart c w s := rfl
@[simp] theorem exec_ligWait (c : CtxRef) (w : Word32) (s : State) : exec (.ligWait c w) s = execLigWait c w s := rfl
@[simp] theorem exec_inkwellScrub (k : CoreRef) (found : Ecc) (s : State) : exec (.inkwellScrub k found) s = execInkwellScrub k found s := rfl
@[simp] theorem exec_inkwellClearDone (k : CoreRef) (s : State) : exec (.inkwellClearDone k) s = execInkwellClearDone k s := rfl
@[simp] theorem exec_dcLineFill (die : BitVec 5) (line : BitVec 31) (found : Ecc) (s : State) : exec (.dcLineFill die line found) s = execDcLineFill die line found s := rfl
@[simp] theorem exec_evictionWriteback (die : BitVec 5) (slice : BitVec 4) (s : State) : exec (.evictionWriteback die slice) s = execEvictionWriteback die slice s := rfl
@[simp] theorem exec_ssdTrackerExpire (die : BitVec 5) (slice : BitVec 4) (i : BitVec 3) (s : State) : exec (.ssdTrackerExpire die slice i) s = execSsdTrackerExpire die slice i s := rfl
@[simp] theorem exec_stackScrub (die : BitVec 5) (channel : BitVec 7) (found : Ecc) (s : State) : exec (.stackScrub die channel found) s = execStackScrub die channel found s := rfl
@[simp] theorem exec_stackTempMeasure (die : BitVec 5) (temp : BitVec 8) (s : State) : exec (.stackTempMeasure die temp) s = execStackTempMeasure die temp s := rfl
@[simp] theorem exec_dieTempMeasure (die : BitVec 5) (temp : BitVec 8) (s : State) : exec (.dieTempMeasure die temp) s = execDieTempMeasure die temp s := rfl
@[simp] theorem exec_thermalClockStep (s : State) : exec (.thermalClockStep) s = execThermalClockStep s := rfl
@[simp] theorem exec_governorStep (avgWatts : BitVec 16) (steps : BitVec 4) (s : State) : exec (.governorStep avgWatts steps) s = execGovernorStep avgWatts steps s := rfl
@[simp] theorem exec_sensorSample (r : SensorReading) (s : State) : exec (.sensorSample r) s = execSensorSample r s := rfl
@[simp] theorem exec_walkComplete (die : BitVec 5) (fn : BitVec 6) (va : Word) (a : Access) (req : Option CtxRef) (s : State) : exec (.walkComplete die fn va a req) s = execWalkComplete die fn va a req s := rfl
@[simp] theorem exec_faultRecordWrite (die : BitVec 5) (fn : BitVec 6) (page : BitVec 23) (s : State) : exec (.faultRecordWrite die fn page) s = execFaultRecordWrite die fn page s := rfl
@[simp] theorem exec_faultRetry (fn n : BitVec 6) (tag : BitVec 16) (s : State) : exec (.faultRetry fn n tag) s = execFaultRetry fn n tag s := rfl
@[simp] theorem exec_faultDecline (fn n : BitVec 6) (tag : BitVec 16) (s : State) : exec (.faultDecline fn n tag) s = execFaultDecline fn n tag s := rfl
@[simp] theorem exec_faultAnswerTimeout (n : BitVec 6) (tag : BitVec 16) (s : State) : exec (.faultAnswerTimeout n tag) s = execFaultAnswerTimeout n tag s := rfl
@[simp] theorem exec_faultQueueHeadWrite (fn n : BitVec 6) (head : BitVec 12) (s : State) : exec (.faultQueueHeadWrite fn n head) s = execFaultQueueHeadWrite fn n head s := rfl
@[simp] theorem exec_mmuTbaseWrite (fn n : BitVec 6) (v : Word) (s : State) : exec (.mmuTbaseWrite fn n v) s = execMmuTbaseWrite fn n v s := rfl
@[simp] theorem exec_tableInitDone (n : BitVec 6) (s : State) : exec (.tableInitDone n) s = execTableInitDone n s := rfl
@[simp] theorem exec_mmuL2poolWrite (fn : BitVec 6) (v : Word) (s : State) : exec (.mmuL2poolWrite fn v) s = execMmuL2poolWrite fn v s := rfl
@[simp] theorem exec_doorbell (fn : BitVec 6) (queue : BitVec 14) (w : DoorbellWrite) (s : State) : exec (.doorbell fn queue w) s = execDoorbell fn queue w s := rfl
@[simp] theorem exec_packetFetch (die : BitVec 5) (s : State) : exec (.packetFetch die) s = execPacketFetch die s := rfl
@[simp] theorem exec_commandStart (c : CmdRef) (s : State) : exec (.commandStart c) s = execCommandStart c s := rfl
@[simp] theorem exec_replyWrite (c : CmdRef) (s : State) : exec (.replyWrite c) s = execReplyWrite c s := rfl
@[simp] theorem exec_launch (c : CmdRef) (s : State) : exec (.launch c) s = execLaunch c s := rfl
@[simp] theorem exec_feedCopy (t : XferRef) (s : State) : exec (.feedCopy t) s = execFeedCopy t s := rfl
@[simp] theorem exec_feedFill (t : XferRef) (s : State) : exec (.feedFill t) s = execFeedFill t s := rfl
@[simp] theorem exec_feedConvert (t : XferRef) (s : State) : exec (.feedConvert t) s = execFeedConvert t s := rfl
@[simp] theorem exec_feedTileComplete (t : XferRef) (s : State) : exec (.feedTileComplete t) s = execFeedTileComplete t s := rfl
@[simp] theorem exec_feedTransferComplete (t : XferRef) (s : State) : exec (.feedTransferComplete t) s = execFeedTransferComplete t s := rfl
@[simp] theorem exec_semSignal (c : CmdRef) (s : State) : exec (.semSignal c) s = execSemSignal c s := rfl
@[simp] theorem exec_semWait (c : CmdRef) (s : State) : exec (.semWait c) s = execSemWait c s := rfl
@[simp] theorem exec_semWaitRetest (c : CmdRef) (s : State) : exec (.semWaitRetest c) s = execSemWaitRetest c s := rfl
@[simp] theorem exec_semWaitTimeout (c : CmdRef) (s : State) : exec (.semWaitTimeout c) s = execSemWaitTimeout c s := rfl
@[simp] theorem exec_collAllreduce (c : CmdRef) (s : State) : exec (.collAllreduce c) s = execCollAllreduce c s := rfl
@[simp] theorem exec_collRedscat (c : CmdRef) (s : State) : exec (.collRedscat c) s = execCollRedscat c s := rfl
@[simp] theorem exec_collAllgather (c : CmdRef) (s : State) : exec (.collAllgather c) s = execCollAllgather c s := rfl
@[simp] theorem exec_collBcast (c : CmdRef) (s : State) : exec (.collBcast c) s = execCollBcast c s := rfl
@[simp] theorem exec_collAlltoall (c : CmdRef) (s : State) : exec (.collAlltoall c) s = execCollAlltoall c s := rfl
@[simp] theorem exec_collBarrier (c : CmdRef) (s : State) : exec (.collBarrier c) s = execCollBarrier c s := rfl
@[simp] theorem exec_mapPage (c : CmdRef) (s : State) : exec (.mapPage c) s = execMapPage c s := rfl
@[simp] theorem exec_mapInkwell (c : CmdRef) (s : State) : exec (.mapInkwell c) s = execMapInkwell c s := rfl
@[simp] theorem exec_unmapPage (c : CmdRef) (s : State) : exec (.unmapPage c) s = execUnmapPage c s := rfl
@[simp] theorem exec_unmapInkwell (c : CmdRef) (s : State) : exec (.unmapInkwell c) s = execUnmapInkwell c s := rfl
@[simp] theorem exec_windowSet (c : CmdRef) (s : State) : exec (.windowSet c) s = execWindowSet c s := rfl
@[simp] theorem exec_quotaSet (c : CmdRef) (s : State) : exec (.quotaSet c) s = execQuotaSet c s := rfl
@[simp] theorem exec_reclaim (c : CmdRef) (s : State) : exec (.reclaim c) s = execReclaim c s := rfl
@[simp] theorem exec_reclaimDrainDone (c : CmdRef) (s : State) : exec (.reclaimDrainDone c) s = execReclaimDrainDone c s := rfl
@[simp] theorem exec_cancel (c : CmdRef) (s : State) : exec (.cancel c) s = execCancel c s := rfl
@[simp] theorem exec_cancelGraceExpire (c : CmdRef) (s : State) : exec (.cancelGraceExpire c) s = execCancelGraceExpire c s := rfl
@[simp] theorem exec_fence (c : CmdRef) (s : State) : exec (.fence c) s = execFence c s := rfl
@[simp] theorem exec_hintMigrate (c : CmdRef) (s : State) : exec (.hintMigrate c) s = execHintMigrate c s := rfl
@[simp] theorem exec_traceSet (c : CmdRef) (s : State) : exec (.traceSet c) s = execTraceSet c s := rfl
@[simp] theorem exec_ctrSnapshot (c : CmdRef) (s : State) : exec (.ctrSnapshot c) s = execCtrSnapshot c s := rfl
@[simp] theorem exec_scbQctlWrite (fn : BitVec 6) (queue : BitVec 14) (v : Word) (s : State) : exec (.scbQctlWrite fn queue v) s = execScbQctlWrite fn queue v s := rfl
@[simp] theorem exec_coreOwnWrite (fn : BitVec 6) (k : CoreRef) (v : Word32) (s : State) : exec (.coreOwnWrite fn k v) s = execCoreOwnWrite fn k v s := rfl
@[simp] theorem exec_coreClearDone (k : CoreRef) (s : State) : exec (.coreClearDone k) s = execCoreClearDone k s := rfl
@[simp] theorem exec_frameAllocate (fn n : BitVec 6) (s : State) : exec (.frameAllocate fn n) s = execFrameAllocate fn n s := rfl
@[simp] theorem exec_frameRelease (fn n : BitVec 6) (s : State) : exec (.frameRelease fn n) s = execFrameRelease fn n s := rfl
@[simp] theorem exec_frameZeroDone (die : BitVec 5) (frame : BitVec 9) (s : State) : exec (.frameZeroDone die frame) s = execFrameZeroDone die frame s := rfl
@[simp] theorem exec_compatWrite (fn : BitVec 6) (v : Word32) (s : State) : exec (.compatWrite fn v) s = execCompatWrite fn v s := rfl
@[simp] theorem exec_moduleReset (cause : ResetCause) (s : State) : exec (.moduleReset cause) s = execModuleReset cause s := rfl
@[simp] theorem exec_powerOnReset (s : State) : exec (.powerOnReset) s = execPowerOnReset s := rfl
@[simp] theorem exec_pgInFall (s : State) : exec (.pgInFall) s = execPgInFall s := rfl
@[simp] theorem exec_vinLoss (s : State) : exec (.vinLoss) s = execVinLoss s := rfl
@[simp] theorem exec_dieRelease (portDie : Bool) (i : BitVec 5) (s : State) : exec (.dieRelease portDie i) s = execDieRelease portDie i s := rfl
@[simp] theorem exec_railFault (s : State) : exec (.railFault) s = execRailFault s := rfl
@[simp] theorem exec_firmwareVerify (a b : Option ImageSlot) (s : State) : exec (.firmwareVerify a b) s = execFirmwareVerify a b s := rfl
@[simp] theorem exec_dieBringupDone (badCores badFrames : List (Nat × Nat)) (s : State) : exec (.dieBringupDone badCores badFrames) s = execDieBringupDone badCores badFrames s := rfl
@[simp] theorem exec_linksStageEnd (s : State) : exec (.linksStageEnd) s = execLinksStageEnd s := rfl
@[simp] theorem exec_discoveryMessage (port : BitVec 5) (serial : Word) (hops : List (BitVec 5 × BitVec 5)) (s : State) : exec (.discoveryMessage port serial hops) s = execDiscoveryMessage port serial hops s := rfl
@[simp] theorem exec_discoveryForward (serial : Word) (s : State) : exec (.discoveryForward serial) s = execDiscoveryForward serial s := rfl
@[simp] theorem exec_discoveryEnd (s : State) : exec (.discoveryEnd) s = execDiscoveryEnd s := rfl
@[simp] theorem exec_hostLinkUp (up : LinkUp) (s : State) : exec (.hostLinkUp up) s = execHostLinkUp up s := rfl
@[simp] theorem exec_hostLinkReset (r : LinkReset) (s : State) : exec (.hostLinkReset r) s = execHostLinkReset r s := rfl
@[simp] theorem exec_functionLevelReset (n : BitVec 6) (s : State) : exec (.functionLevelReset n) s = execFunctionLevelReset n s := rfl
@[simp] theorem exec_hostReadCompletion (r : HostReader) (e : HostReadEnd) (s : State) : exec (.hostReadCompletion r e) s = execHostReadCompletion r e s := rfl
@[simp] theorem exec_hostReadTimeout (r : HostReader) (s : State) : exec (.hostReadTimeout r) s = execHostReadTimeout r s := rfl
@[simp] theorem exec_bar4Read (fn : BitVec 6) (offset : BitVec 39) (width : BitVec 7) (s : State) : exec (.bar4Read fn offset width) s = execBar4Read fn offset width s := rfl
@[simp] theorem exec_bar4Write (fn : BitVec 6) (offset : BitVec 39) (bytes : List Byte) (s : State) : exec (.bar4Write fn offset bytes) s = execBar4Write fn offset bytes s := rfl
@[simp] theorem exec_msixUnmask (n : BitVec 6) (vec : BitVec 11) (s : State) : exec (.msixUnmask n vec) s = execMsixUnmask n vec s := rfl
@[simp] theorem exec_registerWrite (fn : BitVec 6) (offset : BitVec 28) (width : BitVec 7) (value : BitVec 512) (s : State) : exec (.registerWrite fn offset width value) s = execRegisterWrite fn offset width value s := rfl
@[simp] theorem exec_groupLoad (fn : BitVec 6) (group : BitVec 10) (v : BitVec 256) (s : State) : exec (.groupLoad fn group v) s = execGroupLoad fn group v s := rfl
@[simp] theorem exec_groupLoadDone (group : BitVec 10) (s : State) : exec (.groupLoadDone group) s = execGroupLoadDone group s := rfl
@[simp] theorem exec_groupEnd (fn : BitVec 6) (group : BitVec 10) (s : State) : exec (.groupEnd fn group) s = execGroupEnd fn group s := rfl
@[simp] theorem exec_collOpStart (group : BitVec 10) (die : BitVec 5) (s : State) : exec (.collOpStart group die) s = execCollOpStart group die s := rfl
@[simp] theorem exec_digestRoundEnd (group : BitVec 10) (die : BitVec 5) (s : State) : exec (.digestRoundEnd group die) s = execDigestRoundEnd group die s := rfl
@[simp] theorem exec_ligStepEnd (group : BitVec 10) (die : BitVec 5) (s : State) : exec (.ligStepEnd group die) s = execLigStepEnd group die s := rfl
@[simp] theorem exec_groupTimeout (group : BitVec 10) (die : BitVec 5) (s : State) : exec (.groupTimeout group die) s = execGroupTimeout group die s := rfl
@[simp] theorem exec_deferNoticeTick (s : State) : exec (.deferNoticeTick) s = execDeferNoticeTick s := rfl
@[simp] theorem exec_timerPauseEnd (group : BitVec 10) (s : State) : exec (.timerPauseEnd group) s = execTimerPauseEnd group s := rfl
@[simp] theorem exec_fmAssign (fn : BitVec 6) (v : Word) (s : State) : exec (.fmAssign fn v) s = execFmAssign fn v s := rfl
@[simp] theorem exec_fmWrite (fn : BitVec 6) (v : Word) (s : State) : exec (.fmWrite fn v) s = execFmWrite fn v s := rfl
@[simp] theorem exec_fmRead (fn : BitVec 6) (v : Word) (s : State) : exec (.fmRead fn v) s = execFmRead fn v s := rfl
@[simp] theorem exec_fmAnswer (s : State) : exec (.fmAnswer) s = execFmAnswer s := rfl
@[simp] theorem exec_fmTimeout (s : State) : exec (.fmTimeout) s = execFmTimeout s := rfl
@[simp] theorem exec_portEnableWrite (fn : BitVec 6) (port : BitVec 5) (en : Bool) (s : State) : exec (.portEnableWrite fn port en) s = execPortEnableWrite fn port en s := rfl
@[simp] theorem exec_linkTrained (port : BitVec 5) (wmask : BitVec 8) (peer : Option (BitVec 10 × BitVec 5)) (s : State) : exec (.linkTrained port wmask peer) s = execLinkTrained port wmask peer s := rfl
@[simp] theorem exec_linkSlot (port : BitVec 5) (s : State) : exec (.linkSlot port) s = execLinkSlot port s := rfl
@[simp] theorem exec_flitReceive (port : BitVec 5) (flit : BitVec 2048) (s : State) : exec (.flitReceive port flit) s = execFlitReceive port flit s := rfl
@[simp] theorem exec_creditReturn (port : BitVec 5) (freed : List (BitVec 6 × BitVec 16)) (s : State) : exec (.creditReturn port freed) s = execCreditReturn port freed s := rfl
@[simp] theorem exec_nak (port : BitVec 5) (fseq : BitVec 12) (s : State) : exec (.nak port fseq) s = execNak port fseq s := rfl
@[simp] theorem exec_probe (port : BitVec 5) (lane : BitVec 6) (s : State) : exec (.probe port lane) s = execProbe port lane s := rfl
@[simp] theorem exec_alive (port : BitVec 5) (lane : BitVec 6) (s : State) : exec (.alive port lane) s = execAlive port lane s := rfl
@[simp] theorem exec_hold (port : BitVec 5) (lane : BitVec 6) (s : State) : exec (.hold port lane) s = execHold port lane s := rfl
@[simp] theorem exec_creditReset (port : BitVec 5) (lane : BitVec 6) (free : BitVec 16) (s : State) : exec (.creditReset port lane free) s = execCreditReset port lane free s := rfl
@[simp] theorem exec_retrainRequest (port : BitVec 5) (s : State) : exec (.retrainRequest port) s = execRetrainRequest port s := rfl
@[simp] theorem exec_abortFlit (port : BitVec 5) (lane : BitVec 6) (s : State) : exec (.abortFlit port lane) s = execAbortFlit port lane s := rfl
@[simp] theorem exec_messageForward (port : BitVec 5) (lane : BitVec 6) (s : State) : exec (.messageForward port lane) s = execMessageForward port lane s := rfl
@[simp] theorem exec_remoteWrite (s : State) : exec (.remoteWrite) s = execRemoteWrite s := rfl
@[simp] theorem exec_readRequest (s : State) : exec (.readRequest) s = execReadRequest s := rfl
@[simp] theorem exec_readResponse (s : State) : exec (.readResponse) s = execReadResponse s := rfl
@[simp] theorem exec_acknowledgement (s : State) : exec (.acknowledgement) s = execAcknowledgement s := rfl
@[simp] theorem exec_noticeUnreachable (s : State) : exec (.noticeUnreachable) s = execNoticeUnreachable s := rfl
@[simp] theorem exec_noticeRouteError (s : State) : exec (.noticeRouteError) s = execNoticeRouteError s := rfl
@[simp] theorem exec_ligatureData (s : State) : exec (.ligatureData) s = execLigatureData s := rfl
@[simp] theorem exec_ligatureDigest (s : State) : exec (.ligatureDigest) s = execLigatureDigest s := rfl
@[simp] theorem exec_ligatureAbort (s : State) : exec (.ligatureAbort) s = execLigatureAbort s := rfl
@[simp] theorem exec_thermalDefer (s : State) : exec (.thermalDefer) s = execThermalDefer s := rfl
@[simp] theorem exec_faultDefer (s : State) : exec (.faultDefer) s = execFaultDefer s := rfl
@[simp] theorem exec_messageDeliver (src : BitVec 10) (queue : BitVec 14) (s : State) : exec (.messageDeliver src queue) s = execMessageDeliver src queue s := rfl
@[simp] theorem exec_deliveryTimeout (queue : BitVec 14) (dest : BitVec 10) (mseq : BitVec 16) (s : State) : exec (.deliveryTimeout queue dest mseq) s = execDeliveryTimeout queue dest mseq s := rfl
@[simp] theorem exec_wavelengthDrop (port : BitVec 5) (wave : BitVec 3) (corrected uncorrectable : BitVec 32) (s : State) : exec (.wavelengthDrop port wave corrected uncorrectable) s = execWavelengthDrop port wave corrected uncorrectable s := rfl
@[simp] theorem exec_retrainStart (port : BitVec 5) (s : State) : exec (.retrainStart port) s = execRetrainStart port s := rfl
@[simp] theorem exec_retrainEnd (port : BitVec 5) (wmask : BitVec 8) (resendFrom : BitVec 12) (s : State) : exec (.retrainEnd port wmask resendFrom) s = execRetrainEnd port wmask resendFrom s := rfl
@[simp] theorem exec_probeTimer (port : BitVec 5) (lane : BitVec 6) (s : State) : exec (.probeTimer port lane) s = execProbeTimer port lane s := rfl
@[simp] theorem exec_stallDeclare (port : BitVec 5) (lane : BitVec 6) (s : State) : exec (.stallDeclare port lane) s = execStallDeclare port lane s := rfl
@[simp] theorem exec_replayRestart (c : CmdRef) (s : State) : exec (.replayRestart c) s = execReplayRestart c s := rfl
@[simp] theorem exec_mapOutDone (die : BitVec 5) (s : State) : exec (.mapOutDone die) s = execMapOutDone die s := rfl
@[simp] theorem exec_armedExpire (k : CoreRef) (s : State) : exec (.armedExpire k) s = execArmedExpire k s := rfl
@[simp] theorem exec_idReadRecord (p : MmcPath) (record : BitVec 4) (s : State) : exec (.idReadRecord p record) s = execIdReadRecord p record s := rfl
@[simp] theorem exec_idWriteRecord (p : MmcPath) (record : BitVec 4) (bytes : List Byte) (s : State) : exec (.idWriteRecord p record bytes) s = execIdWriteRecord p record bytes s := rfl
@[simp] theorem exec_idReadSensors (p : MmcPath) (s : State) : exec (.idReadSensors p) s = execIdReadSensors p s := rfl
@[simp] theorem exec_idReadMeasurement (p : MmcPath) (s : State) : exec (.idReadMeasurement p) s = execIdReadMeasurement p s := rfl
@[simp] theorem exec_idRequestDone (s : State) : exec (.idRequestDone) s = execIdRequestDone s := rfl
@[simp] theorem exec_idMailboxTimeout (s : State) : exec (.idMailboxTimeout) s = execIdMailboxTimeout s := rfl
@[simp] theorem exec_i3cSetdasa (addr : BitVec 7) (s : State) : exec (.i3cSetdasa addr) s = execI3cSetdasa addr s := rfl
@[simp] theorem exec_i3cPrivateRead (s : State) : exec (.i3cPrivateRead) s = execI3cPrivateRead s := rfl
@[simp] theorem exec_i3cReadBootHealth (s : State) : exec (.i3cReadBootHealth) s = execI3cReadBootHealth s := rfl
@[simp] theorem exec_i3cSetPowerLimit (record : BitVec 8) (bytes : List Byte) (s : State) : exec (.i3cSetPowerLimit record bytes) s = execI3cSetPowerLimit record bytes s := rfl
@[simp] theorem exec_vinEntersRange (s : State) : exec (.vinEntersRange) s = execVinEntersRange s := rfl
@[simp] theorem exec_perstDeassertion (link : BitVec 2) (bifur : Bool) (s : State) : exec (.perstDeassertion link bifur) s = execPerstDeassertion link bifur s := rfl
@[simp] theorem exec_partnerLightLoss (port : BitVec 5) (s : State) : exec (.partnerLightLoss port) s = execPartnerLightLoss port s := rfl
@[simp] theorem exec_mmcStop (s : State) : exec (.mmcStop) s = execMmcStop s := rfl
@[simp] theorem exec_dieLinkFailure (a b : BitVec 5) (portRing : Bool) (s : State) : exec (.dieLinkFailure a b portRing) s = execDieLinkFailure a b portRing s := rfl
@[simp] theorem exec_uncorrectableInternalError (src : FailSource) (s : State) : exec (.uncorrectableInternalError src) s = execUncorrectableInternalError src s := rfl
@[simp] theorem exec_numvfsWrite (fn : BitVec 6) (n : BitVec 16) (s : State) : exec (.numvfsWrite fn n) s = execNumvfsWrite fn n s := rfl

end Sys2Proof.Machine
end

