-- ==== Sys2Proof/Laws/State.lean ====
section
/-! SUPPORT. The small lemmas of the state: one for each field after each named update, and what the named reads give
after the named updates. -/

namespace Sys2Proof.Machine

/-! Sparse maps. -/

theorem SMap.find_set {α : Type} (m : SMap α) (k i : Nat) (v : α) :
    SMap.find (SMap.set m k v) i = if k = i then some v else SMap.find m i := by
  induction m with
  | nil =>
    simp only [SMap.set, SMap.find]
    split <;> simp
  | cons p m ih =>
    obtain ⟨j, w⟩ := p
    simp only [SMap.set]
    by_cases h1 : k < j
    · simp only [h1, if_true, SMap.find]
      by_cases h2 : k = i
      · simp [h2]
      · by_cases h3 : i < k
        · have h4 : ¬ j = i := by omega
          have h5 : i < j := by omega
          simp [h2, h3, h4, h5]
        · simp [h2, h3]
    · by_cases h2 : j = k
      · subst h2
        simp only [h1, if_false, if_true, SMap.find]
        by_cases h3 : j = i
        · simp [h3]
        · simp [h3]
      · simp only [h1, h2, if_false, SMap.find, ih]
        by_cases h3 : j = i
        · have h4 : ¬ k = i := by omega
          simp [h3, h4]
        · by_cases h4 : i < j
          · have h5 : ¬ k = i := by omega
            simp [h3, h4, h5]
          · simp [h3, h4]

theorem SMap.get_set {α : Type} (m : SMap α) (k i : Nat) (v d : α) :
    SMap.get (SMap.set m k v) i d = if k = i then v else SMap.get m i d := by
  simp only [SMap.get, SMap.find_set]
  split <;> simp

@[simp] theorem SMap.get_set_same {α : Type} (m : SMap α) (k : Nat) (v d : α) :
    SMap.get (SMap.set m k v) k d = v := by simp [SMap.get_set]

@[simp] theorem SMap.get_set_ne {α : Type} (m : SMap α) (k i : Nat) (v d : α) (h : k ≠ i) :
    SMap.get (SMap.set m k v) i d = SMap.get m i d := by simp [SMap.get_set, h]

@[simp] theorem SMap.get_nil {α : Type} (i : Nat) (d : α) : SMap.get [] i d = d := rfl

/-! The fields after `State.updCore`. -/

@[simp] theorem State.updCore_pending (s : State) (k : Nat) (f : Core → Core) : (s.updCore k f).pending = s.pending := rfl
@[simp] theorem State.updCore_mem (s : State) (k : Nat) (f : Core → Core) : (s.updCore k f).mem = s.mem := rfl
@[simp] theorem State.updCore_poison (s : State) (k : Nat) (f : Core → Core) : (s.updCore k f).poison = s.poison := rfl
@[simp] theorem State.updCore_frames (s : State) (k : Nat) (f : Core → Core) : (s.updCore k f).frames = s.frames := rfl
@[simp] theorem State.updCore_l2used (s : State) (k : Nat) (f : Core → Core) : (s.updCore k f).l2used = s.l2used := rfl
@[simp] theorem State.updCore_l2first (s : State) (k : Nat) (f : Core → Core) : (s.updCore k f).l2first = s.l2first := rfl
@[simp] theorem State.updCore_l2frames (s : State) (k : Nat) (f : Core → Core) : (s.updCore k f).l2frames = s.l2frames := rfl
@[simp] theorem State.updCore_host (s : State) (k : Nat) (f : Core → Core) : (s.updCore k f).host = s.host := rfl
@[simp] theorem State.updCore_ringData (s : State) (k : Nat) (f : Core → Core) : (s.updCore k f).ringData = s.ringData := rfl
@[simp] theorem State.updCore_dies (s : State) (k : Nat) (f : Core → Core) : (s.updCore k f).dies = s.dies := rfl
@[simp] theorem State.updCore_queues (s : State) (k : Nat) (f : Core → Core) : (s.updCore k f).queues = s.queues := rfl
@[simp] theorem State.updCore_cmds (s : State) (k : Nat) (f : Core → Core) : (s.updCore k f).cmds = s.cmds := rfl
@[simp] theorem State.updCore_funcs (s : State) (k : Nat) (f : Core → Core) : (s.updCore k f).funcs = s.funcs := rfl
@[simp] theorem State.updCore_windows (s : State) (k : Nat) (f : Core → Core) : (s.updCore k f).windows = s.windows := rfl
@[simp] theorem State.updCore_links (s : State) (k : Nat) (f : Core → Core) : (s.updCore k f).links = s.links := rfl
@[simp] theorem State.updCore_mgmt (s : State) (k : Nat) (f : Core → Core) : (s.updCore k f).mgmt = s.mgmt := rfl
@[simp] theorem State.updCore_fab (s : State) (k : Nat) (f : Core → Core) : (s.updCore k f).fab = s.fab := rfl
@[simp] theorem State.updCore_groups (s : State) (k : Nat) (f : Core → Core) : (s.updCore k f).groups = s.groups := rfl
@[simp] theorem State.updCore_ligOps (s : State) (k : Nat) (f : Core → Core) : (s.updCore k f).ligOps = s.ligOps := rfl
@[simp] theorem State.updCore_ligMsgs (s : State) (k : Nat) (f : Core → Core) : (s.updCore k f).ligMsgs = s.ligMsgs := rfl
@[simp] theorem State.updCore_mod (s : State) (k : Nat) (f : Core → Core) : (s.updCore k f).mod = s.mod := rfl
@[simp] theorem State.updCore_hostMsgs (s : State) (k : Nat) (f : Core → Core) : (s.updCore k f).hostMsgs = s.hostMsgs := rfl
@[simp] theorem State.updCore_completion (s : State) (k : Nat) (f : Core → Core) : (s.updCore k f).completion = s.completion := rfl
@[simp] theorem State.updCore_aer (s : State) (k : Nat) (f : Core → Core) : (s.updCore k f).aer = s.aer := rfl
@[simp] theorem State.updCore_free (s : State) (k : Nat) (f : Core → Core) : (s.updCore k f).free = s.free := rfl

/-! The fields after `State.updCtx`. -/

@[simp] theorem State.updCtx_pending (s : State) (k j : Nat) (f : Ctx → Ctx) : (s.updCtx k j f).pending = s.pending := rfl
@[simp] theorem State.updCtx_mem (s : State) (k j : Nat) (f : Ctx → Ctx) : (s.updCtx k j f).mem = s.mem := rfl
@[simp] theorem State.updCtx_poison (s : State) (k j : Nat) (f : Ctx → Ctx) : (s.updCtx k j f).poison = s.poison := rfl
@[simp] theorem State.updCtx_frames (s : State) (k j : Nat) (f : Ctx → Ctx) : (s.updCtx k j f).frames = s.frames := rfl
@[simp] theorem State.updCtx_l2used (s : State) (k j : Nat) (f : Ctx → Ctx) : (s.updCtx k j f).l2used = s.l2used := rfl
@[simp] theorem State.updCtx_l2first (s : State) (k j : Nat) (f : Ctx → Ctx) : (s.updCtx k j f).l2first = s.l2first := rfl
@[simp] theorem State.updCtx_l2frames (s : State) (k j : Nat) (f : Ctx → Ctx) : (s.updCtx k j f).l2frames = s.l2frames := rfl
@[simp] theorem State.updCtx_host (s : State) (k j : Nat) (f : Ctx → Ctx) : (s.updCtx k j f).host = s.host := rfl
@[simp] theorem State.updCtx_ringData (s : State) (k j : Nat) (f : Ctx → Ctx) : (s.updCtx k j f).ringData = s.ringData := rfl
@[simp] theorem State.updCtx_dies (s : State) (k j : Nat) (f : Ctx → Ctx) : (s.updCtx k j f).dies = s.dies := rfl
@[simp] theorem State.updCtx_queues (s : State) (k j : Nat) (f : Ctx → Ctx) : (s.updCtx k j f).queues = s.queues := rfl
@[simp] theorem State.updCtx_cmds (s : State) (k j : Nat) (f : Ctx → Ctx) : (s.updCtx k j f).cmds = s.cmds := rfl
@[simp] theorem State.updCtx_funcs (s : State) (k j : Nat) (f : Ctx → Ctx) : (s.updCtx k j f).funcs = s.funcs := rfl
@[simp] theorem State.updCtx_windows (s : State) (k j : Nat) (f : Ctx → Ctx) : (s.updCtx k j f).windows = s.windows := rfl
@[simp] theorem State.updCtx_links (s : State) (k j : Nat) (f : Ctx → Ctx) : (s.updCtx k j f).links = s.links := rfl
@[simp] theorem State.updCtx_mgmt (s : State) (k j : Nat) (f : Ctx → Ctx) : (s.updCtx k j f).mgmt = s.mgmt := rfl
@[simp] theorem State.updCtx_fab (s : State) (k j : Nat) (f : Ctx → Ctx) : (s.updCtx k j f).fab = s.fab := rfl
@[simp] theorem State.updCtx_groups (s : State) (k j : Nat) (f : Ctx → Ctx) : (s.updCtx k j f).groups = s.groups := rfl
@[simp] theorem State.updCtx_ligOps (s : State) (k j : Nat) (f : Ctx → Ctx) : (s.updCtx k j f).ligOps = s.ligOps := rfl
@[simp] theorem State.updCtx_ligMsgs (s : State) (k j : Nat) (f : Ctx → Ctx) : (s.updCtx k j f).ligMsgs = s.ligMsgs := rfl
@[simp] theorem State.updCtx_mod (s : State) (k j : Nat) (f : Ctx → Ctx) : (s.updCtx k j f).mod = s.mod := rfl
@[simp] theorem State.updCtx_hostMsgs (s : State) (k j : Nat) (f : Ctx → Ctx) : (s.updCtx k j f).hostMsgs = s.hostMsgs := rfl
@[simp] theorem State.updCtx_completion (s : State) (k j : Nat) (f : Ctx → Ctx) : (s.updCtx k j f).completion = s.completion := rfl
@[simp] theorem State.updCtx_aer (s : State) (k j : Nat) (f : Ctx → Ctx) : (s.updCtx k j f).aer = s.aer := rfl
@[simp] theorem State.updCtx_free (s : State) (k j : Nat) (f : Ctx → Ctx) : (s.updCtx k j f).free = s.free := rfl

/-! The fields after `State.updDie`. -/

@[simp] theorem State.updDie_pending (s : State) (d : Nat) (f : Die → Die) : (s.updDie d f).pending = s.pending := rfl
@[simp] theorem State.updDie_mem (s : State) (d : Nat) (f : Die → Die) : (s.updDie d f).mem = s.mem := rfl
@[simp] theorem State.updDie_poison (s : State) (d : Nat) (f : Die → Die) : (s.updDie d f).poison = s.poison := rfl
@[simp] theorem State.updDie_frames (s : State) (d : Nat) (f : Die → Die) : (s.updDie d f).frames = s.frames := rfl
@[simp] theorem State.updDie_l2used (s : State) (d : Nat) (f : Die → Die) : (s.updDie d f).l2used = s.l2used := rfl
@[simp] theorem State.updDie_l2first (s : State) (d : Nat) (f : Die → Die) : (s.updDie d f).l2first = s.l2first := rfl
@[simp] theorem State.updDie_l2frames (s : State) (d : Nat) (f : Die → Die) : (s.updDie d f).l2frames = s.l2frames := rfl
@[simp] theorem State.updDie_host (s : State) (d : Nat) (f : Die → Die) : (s.updDie d f).host = s.host := rfl
@[simp] theorem State.updDie_ringData (s : State) (d : Nat) (f : Die → Die) : (s.updDie d f).ringData = s.ringData := rfl
@[simp] theorem State.updDie_cores (s : State) (d : Nat) (f : Die → Die) : (s.updDie d f).cores = s.cores := rfl
@[simp] theorem State.updDie_queues (s : State) (d : Nat) (f : Die → Die) : (s.updDie d f).queues = s.queues := rfl
@[simp] theorem State.updDie_cmds (s : State) (d : Nat) (f : Die → Die) : (s.updDie d f).cmds = s.cmds := rfl
@[simp] theorem State.updDie_funcs (s : State) (d : Nat) (f : Die → Die) : (s.updDie d f).funcs = s.funcs := rfl
@[simp] theorem State.updDie_windows (s : State) (d : Nat) (f : Die → Die) : (s.updDie d f).windows = s.windows := rfl
@[simp] theorem State.updDie_links (s : State) (d : Nat) (f : Die → Die) : (s.updDie d f).links = s.links := rfl
@[simp] theorem State.updDie_mgmt (s : State) (d : Nat) (f : Die → Die) : (s.updDie d f).mgmt = s.mgmt := rfl
@[simp] theorem State.updDie_fab (s : State) (d : Nat) (f : Die → Die) : (s.updDie d f).fab = s.fab := rfl
@[simp] theorem State.updDie_groups (s : State) (d : Nat) (f : Die → Die) : (s.updDie d f).groups = s.groups := rfl
@[simp] theorem State.updDie_ligOps (s : State) (d : Nat) (f : Die → Die) : (s.updDie d f).ligOps = s.ligOps := rfl
@[simp] theorem State.updDie_ligMsgs (s : State) (d : Nat) (f : Die → Die) : (s.updDie d f).ligMsgs = s.ligMsgs := rfl
@[simp] theorem State.updDie_mod (s : State) (d : Nat) (f : Die → Die) : (s.updDie d f).mod = s.mod := rfl
@[simp] theorem State.updDie_hostMsgs (s : State) (d : Nat) (f : Die → Die) : (s.updDie d f).hostMsgs = s.hostMsgs := rfl
@[simp] theorem State.updDie_completion (s : State) (d : Nat) (f : Die → Die) : (s.updDie d f).completion = s.completion := rfl
@[simp] theorem State.updDie_aer (s : State) (d : Nat) (f : Die → Die) : (s.updDie d f).aer = s.aer := rfl
@[simp] theorem State.updDie_free (s : State) (d : Nat) (f : Die → Die) : (s.updDie d f).free = s.free := rfl

/-! The fields after `State.updFunc`. -/

@[simp] theorem State.updFunc_pending (s : State) (n : Nat) (f : Func → Func) : (s.updFunc n f).pending = s.pending := rfl
@[simp] theorem State.updFunc_mem (s : State) (n : Nat) (f : Func → Func) : (s.updFunc n f).mem = s.mem := rfl
@[simp] theorem State.updFunc_poison (s : State) (n : Nat) (f : Func → Func) : (s.updFunc n f).poison = s.poison := rfl
@[simp] theorem State.updFunc_frames (s : State) (n : Nat) (f : Func → Func) : (s.updFunc n f).frames = s.frames := rfl
@[simp] theorem State.updFunc_l2used (s : State) (n : Nat) (f : Func → Func) : (s.updFunc n f).l2used = s.l2used := rfl
@[simp] theorem State.updFunc_l2first (s : State) (n : Nat) (f : Func → Func) : (s.updFunc n f).l2first = s.l2first := rfl
@[simp] theorem State.updFunc_l2frames (s : State) (n : Nat) (f : Func → Func) : (s.updFunc n f).l2frames = s.l2frames := rfl
@[simp] theorem State.updFunc_host (s : State) (n : Nat) (f : Func → Func) : (s.updFunc n f).host = s.host := rfl
@[simp] theorem State.updFunc_ringData (s : State) (n : Nat) (f : Func → Func) : (s.updFunc n f).ringData = s.ringData := rfl
@[simp] theorem State.updFunc_cores (s : State) (n : Nat) (f : Func → Func) : (s.updFunc n f).cores = s.cores := rfl
@[simp] theorem State.updFunc_dies (s : State) (n : Nat) (f : Func → Func) : (s.updFunc n f).dies = s.dies := rfl
@[simp] theorem State.updFunc_queues (s : State) (n : Nat) (f : Func → Func) : (s.updFunc n f).queues = s.queues := rfl
@[simp] theorem State.updFunc_cmds (s : State) (n : Nat) (f : Func → Func) : (s.updFunc n f).cmds = s.cmds := rfl
@[simp] theorem State.updFunc_windows (s : State) (n : Nat) (f : Func → Func) : (s.updFunc n f).windows = s.windows := rfl
@[simp] theorem State.updFunc_links (s : State) (n : Nat) (f : Func → Func) : (s.updFunc n f).links = s.links := rfl
@[simp] theorem State.updFunc_mgmt (s : State) (n : Nat) (f : Func → Func) : (s.updFunc n f).mgmt = s.mgmt := rfl
@[simp] theorem State.updFunc_fab (s : State) (n : Nat) (f : Func → Func) : (s.updFunc n f).fab = s.fab := rfl
@[simp] theorem State.updFunc_groups (s : State) (n : Nat) (f : Func → Func) : (s.updFunc n f).groups = s.groups := rfl
@[simp] theorem State.updFunc_ligOps (s : State) (n : Nat) (f : Func → Func) : (s.updFunc n f).ligOps = s.ligOps := rfl
@[simp] theorem State.updFunc_ligMsgs (s : State) (n : Nat) (f : Func → Func) : (s.updFunc n f).ligMsgs = s.ligMsgs := rfl
@[simp] theorem State.updFunc_mod (s : State) (n : Nat) (f : Func → Func) : (s.updFunc n f).mod = s.mod := rfl
@[simp] theorem State.updFunc_hostMsgs (s : State) (n : Nat) (f : Func → Func) : (s.updFunc n f).hostMsgs = s.hostMsgs := rfl
@[simp] theorem State.updFunc_completion (s : State) (n : Nat) (f : Func → Func) : (s.updFunc n f).completion = s.completion := rfl
@[simp] theorem State.updFunc_aer (s : State) (n : Nat) (f : Func → Func) : (s.updFunc n f).aer = s.aer := rfl
@[simp] theorem State.updFunc_free (s : State) (n : Nat) (f : Func → Func) : (s.updFunc n f).free = s.free := rfl

/-! The fields after `State.updQueue`. -/

@[simp] theorem State.updQueue_pending (s : State) (q : Nat) (f : Queue → Queue) : (s.updQueue q f).pending = s.pending := rfl
@[simp] theorem State.updQueue_mem (s : State) (q : Nat) (f : Queue → Queue) : (s.updQueue q f).mem = s.mem := rfl
@[simp] theorem State.updQueue_poison (s : State) (q : Nat) (f : Queue → Queue) : (s.updQueue q f).poison = s.poison := rfl
@[simp] theorem State.updQueue_frames (s : State) (q : Nat) (f : Queue → Queue) : (s.updQueue q f).frames = s.frames := rfl
@[simp] theorem State.updQueue_l2used (s : State) (q : Nat) (f : Queue → Queue) : (s.updQueue q f).l2used = s.l2used := rfl
@[simp] theorem State.updQueue_l2first (s : State) (q : Nat) (f : Queue → Queue) : (s.updQueue q f).l2first = s.l2first := rfl
@[simp] theorem State.updQueue_l2frames (s : State) (q : Nat) (f : Queue → Queue) : (s.updQueue q f).l2frames = s.l2frames := rfl
@[simp] theorem State.updQueue_host (s : State) (q : Nat) (f : Queue → Queue) : (s.updQueue q f).host = s.host := rfl
@[simp] theorem State.updQueue_ringData (s : State) (q : Nat) (f : Queue → Queue) : (s.updQueue q f).ringData = s.ringData := rfl
@[simp] theorem State.updQueue_cores (s : State) (q : Nat) (f : Queue → Queue) : (s.updQueue q f).cores = s.cores := rfl
@[simp] theorem State.updQueue_dies (s : State) (q : Nat) (f : Queue → Queue) : (s.updQueue q f).dies = s.dies := rfl
@[simp] theorem State.updQueue_cmds (s : State) (q : Nat) (f : Queue → Queue) : (s.updQueue q f).cmds = s.cmds := rfl
@[simp] theorem State.updQueue_funcs (s : State) (q : Nat) (f : Queue → Queue) : (s.updQueue q f).funcs = s.funcs := rfl
@[simp] theorem State.updQueue_windows (s : State) (q : Nat) (f : Queue → Queue) : (s.updQueue q f).windows = s.windows := rfl
@[simp] theorem State.updQueue_links (s : State) (q : Nat) (f : Queue → Queue) : (s.updQueue q f).links = s.links := rfl
@[simp] theorem State.updQueue_mgmt (s : State) (q : Nat) (f : Queue → Queue) : (s.updQueue q f).mgmt = s.mgmt := rfl
@[simp] theorem State.updQueue_fab (s : State) (q : Nat) (f : Queue → Queue) : (s.updQueue q f).fab = s.fab := rfl
@[simp] theorem State.updQueue_groups (s : State) (q : Nat) (f : Queue → Queue) : (s.updQueue q f).groups = s.groups := rfl
@[simp] theorem State.updQueue_ligOps (s : State) (q : Nat) (f : Queue → Queue) : (s.updQueue q f).ligOps = s.ligOps := rfl
@[simp] theorem State.updQueue_ligMsgs (s : State) (q : Nat) (f : Queue → Queue) : (s.updQueue q f).ligMsgs = s.ligMsgs := rfl
@[simp] theorem State.updQueue_mod (s : State) (q : Nat) (f : Queue → Queue) : (s.updQueue q f).mod = s.mod := rfl
@[simp] theorem State.updQueue_hostMsgs (s : State) (q : Nat) (f : Queue → Queue) : (s.updQueue q f).hostMsgs = s.hostMsgs := rfl
@[simp] theorem State.updQueue_completion (s : State) (q : Nat) (f : Queue → Queue) : (s.updQueue q f).completion = s.completion := rfl
@[simp] theorem State.updQueue_aer (s : State) (q : Nat) (f : Queue → Queue) : (s.updQueue q f).aer = s.aer := rfl
@[simp] theorem State.updQueue_free (s : State) (q : Nat) (f : Queue → Queue) : (s.updQueue q f).free = s.free := rfl

/-! The fields after `State.updLink`. -/

@[simp] theorem State.updLink_pending (s : State) (h : Nat) (f : HostLink → HostLink) : (s.updLink h f).pending = s.pending := rfl
@[simp] theorem State.updLink_mem (s : State) (h : Nat) (f : HostLink → HostLink) : (s.updLink h f).mem = s.mem := rfl
@[simp] theorem State.updLink_poison (s : State) (h : Nat) (f : HostLink → HostLink) : (s.updLink h f).poison = s.poison := rfl
@[simp] theorem State.updLink_frames (s : State) (h : Nat) (f : HostLink → HostLink) : (s.updLink h f).frames = s.frames := rfl
@[simp] theorem State.updLink_l2used (s : State) (h : Nat) (f : HostLink → HostLink) : (s.updLink h f).l2used = s.l2used := rfl
@[simp] theorem State.updLink_l2first (s : State) (h : Nat) (f : HostLink → HostLink) : (s.updLink h f).l2first = s.l2first := rfl
@[simp] theorem State.updLink_l2frames (s : State) (h : Nat) (f : HostLink → HostLink) : (s.updLink h f).l2frames = s.l2frames := rfl
@[simp] theorem State.updLink_host (s : State) (h : Nat) (f : HostLink → HostLink) : (s.updLink h f).host = s.host := rfl
@[simp] theorem State.updLink_ringData (s : State) (h : Nat) (f : HostLink → HostLink) : (s.updLink h f).ringData = s.ringData := rfl
@[simp] theorem State.updLink_cores (s : State) (h : Nat) (f : HostLink → HostLink) : (s.updLink h f).cores = s.cores := rfl
@[simp] theorem State.updLink_dies (s : State) (h : Nat) (f : HostLink → HostLink) : (s.updLink h f).dies = s.dies := rfl
@[simp] theorem State.updLink_queues (s : State) (h : Nat) (f : HostLink → HostLink) : (s.updLink h f).queues = s.queues := rfl
@[simp] theorem State.updLink_cmds (s : State) (h : Nat) (f : HostLink → HostLink) : (s.updLink h f).cmds = s.cmds := rfl
@[simp] theorem State.updLink_funcs (s : State) (h : Nat) (f : HostLink → HostLink) : (s.updLink h f).funcs = s.funcs := rfl
@[simp] theorem State.updLink_windows (s : State) (h : Nat) (f : HostLink → HostLink) : (s.updLink h f).windows = s.windows := rfl
@[simp] theorem State.updLink_mgmt (s : State) (h : Nat) (f : HostLink → HostLink) : (s.updLink h f).mgmt = s.mgmt := rfl
@[simp] theorem State.updLink_fab (s : State) (h : Nat) (f : HostLink → HostLink) : (s.updLink h f).fab = s.fab := rfl
@[simp] theorem State.updLink_groups (s : State) (h : Nat) (f : HostLink → HostLink) : (s.updLink h f).groups = s.groups := rfl
@[simp] theorem State.updLink_ligOps (s : State) (h : Nat) (f : HostLink → HostLink) : (s.updLink h f).ligOps = s.ligOps := rfl
@[simp] theorem State.updLink_ligMsgs (s : State) (h : Nat) (f : HostLink → HostLink) : (s.updLink h f).ligMsgs = s.ligMsgs := rfl
@[simp] theorem State.updLink_mod (s : State) (h : Nat) (f : HostLink → HostLink) : (s.updLink h f).mod = s.mod := rfl
@[simp] theorem State.updLink_hostMsgs (s : State) (h : Nat) (f : HostLink → HostLink) : (s.updLink h f).hostMsgs = s.hostMsgs := rfl
@[simp] theorem State.updLink_completion (s : State) (h : Nat) (f : HostLink → HostLink) : (s.updLink h f).completion = s.completion := rfl
@[simp] theorem State.updLink_aer (s : State) (h : Nat) (f : HostLink → HostLink) : (s.updLink h f).aer = s.aer := rfl
@[simp] theorem State.updLink_free (s : State) (h : Nat) (f : HostLink → HostLink) : (s.updLink h f).free = s.free := rfl

/-! The fields after `State.updWindow`. -/

@[simp] theorem State.updWindow_pending (s : State) (w : Nat) (f : Window → Window) : (s.updWindow w f).pending = s.pending := rfl
@[simp] theorem State.updWindow_mem (s : State) (w : Nat) (f : Window → Window) : (s.updWindow w f).mem = s.mem := rfl
@[simp] theorem State.updWindow_poison (s : State) (w : Nat) (f : Window → Window) : (s.updWindow w f).poison = s.poison := rfl
@[simp] theorem State.updWindow_frames (s : State) (w : Nat) (f : Window → Window) : (s.updWindow w f).frames = s.frames := rfl
@[simp] theorem State.updWindow_l2used (s : State) (w : Nat) (f : Window → Window) : (s.updWindow w f).l2used = s.l2used := rfl
@[simp] theorem State.updWindow_l2first (s : State) (w : Nat) (f : Window → Window) : (s.updWindow w f).l2first = s.l2first := rfl
@[simp] theorem State.updWindow_l2frames (s : State) (w : Nat) (f : Window → Window) : (s.updWindow w f).l2frames = s.l2frames := rfl
@[simp] theorem State.updWindow_host (s : State) (w : Nat) (f : Window → Window) : (s.updWindow w f).host = s.host := rfl
@[simp] theorem State.updWindow_ringData (s : State) (w : Nat) (f : Window → Window) : (s.updWindow w f).ringData = s.ringData := rfl
@[simp] theorem State.updWindow_cores (s : State) (w : Nat) (f : Window → Window) : (s.updWindow w f).cores = s.cores := rfl
@[simp] theorem State.updWindow_dies (s : State) (w : Nat) (f : Window → Window) : (s.updWindow w f).dies = s.dies := rfl
@[simp] theorem State.updWindow_queues (s : State) (w : Nat) (f : Window → Window) : (s.updWindow w f).queues = s.queues := rfl
@[simp] theorem State.updWindow_cmds (s : State) (w : Nat) (f : Window → Window) : (s.updWindow w f).cmds = s.cmds := rfl
@[simp] theorem State.updWindow_funcs (s : State) (w : Nat) (f : Window → Window) : (s.updWindow w f).funcs = s.funcs := rfl
@[simp] theorem State.updWindow_links (s : State) (w : Nat) (f : Window → Window) : (s.updWindow w f).links = s.links := rfl
@[simp] theorem State.updWindow_mgmt (s : State) (w : Nat) (f : Window → Window) : (s.updWindow w f).mgmt = s.mgmt := rfl
@[simp] theorem State.updWindow_fab (s : State) (w : Nat) (f : Window → Window) : (s.updWindow w f).fab = s.fab := rfl
@[simp] theorem State.updWindow_groups (s : State) (w : Nat) (f : Window → Window) : (s.updWindow w f).groups = s.groups := rfl
@[simp] theorem State.updWindow_ligOps (s : State) (w : Nat) (f : Window → Window) : (s.updWindow w f).ligOps = s.ligOps := rfl
@[simp] theorem State.updWindow_ligMsgs (s : State) (w : Nat) (f : Window → Window) : (s.updWindow w f).ligMsgs = s.ligMsgs := rfl
@[simp] theorem State.updWindow_mod (s : State) (w : Nat) (f : Window → Window) : (s.updWindow w f).mod = s.mod := rfl
@[simp] theorem State.updWindow_hostMsgs (s : State) (w : Nat) (f : Window → Window) : (s.updWindow w f).hostMsgs = s.hostMsgs := rfl
@[simp] theorem State.updWindow_completion (s : State) (w : Nat) (f : Window → Window) : (s.updWindow w f).completion = s.completion := rfl
@[simp] theorem State.updWindow_aer (s : State) (w : Nat) (f : Window → Window) : (s.updWindow w f).aer = s.aer := rfl
@[simp] theorem State.updWindow_free (s : State) (w : Nat) (f : Window → Window) : (s.updWindow w f).free = s.free := rfl

/-! The fields after `State.updGroup`. -/

@[simp] theorem State.updGroup_pending (s : State) (g : Nat) (f : Group → Group) : (s.updGroup g f).pending = s.pending := rfl
@[simp] theorem State.updGroup_mem (s : State) (g : Nat) (f : Group → Group) : (s.updGroup g f).mem = s.mem := rfl
@[simp] theorem State.updGroup_poison (s : State) (g : Nat) (f : Group → Group) : (s.updGroup g f).poison = s.poison := rfl
@[simp] theorem State.updGroup_frames (s : State) (g : Nat) (f : Group → Group) : (s.updGroup g f).frames = s.frames := rfl
@[simp] theorem State.updGroup_l2used (s : State) (g : Nat) (f : Group → Group) : (s.updGroup g f).l2used = s.l2used := rfl
@[simp] theorem State.updGroup_l2first (s : State) (g : Nat) (f : Group → Group) : (s.updGroup g f).l2first = s.l2first := rfl
@[simp] theorem State.updGroup_l2frames (s : State) (g : Nat) (f : Group → Group) : (s.updGroup g f).l2frames = s.l2frames := rfl
@[simp] theorem State.updGroup_host (s : State) (g : Nat) (f : Group → Group) : (s.updGroup g f).host = s.host := rfl
@[simp] theorem State.updGroup_ringData (s : State) (g : Nat) (f : Group → Group) : (s.updGroup g f).ringData = s.ringData := rfl
@[simp] theorem State.updGroup_cores (s : State) (g : Nat) (f : Group → Group) : (s.updGroup g f).cores = s.cores := rfl
@[simp] theorem State.updGroup_dies (s : State) (g : Nat) (f : Group → Group) : (s.updGroup g f).dies = s.dies := rfl
@[simp] theorem State.updGroup_queues (s : State) (g : Nat) (f : Group → Group) : (s.updGroup g f).queues = s.queues := rfl
@[simp] theorem State.updGroup_cmds (s : State) (g : Nat) (f : Group → Group) : (s.updGroup g f).cmds = s.cmds := rfl
@[simp] theorem State.updGroup_funcs (s : State) (g : Nat) (f : Group → Group) : (s.updGroup g f).funcs = s.funcs := rfl
@[simp] theorem State.updGroup_windows (s : State) (g : Nat) (f : Group → Group) : (s.updGroup g f).windows = s.windows := rfl
@[simp] theorem State.updGroup_links (s : State) (g : Nat) (f : Group → Group) : (s.updGroup g f).links = s.links := rfl
@[simp] theorem State.updGroup_mgmt (s : State) (g : Nat) (f : Group → Group) : (s.updGroup g f).mgmt = s.mgmt := rfl
@[simp] theorem State.updGroup_fab (s : State) (g : Nat) (f : Group → Group) : (s.updGroup g f).fab = s.fab := rfl
@[simp] theorem State.updGroup_ligOps (s : State) (g : Nat) (f : Group → Group) : (s.updGroup g f).ligOps = s.ligOps := rfl
@[simp] theorem State.updGroup_ligMsgs (s : State) (g : Nat) (f : Group → Group) : (s.updGroup g f).ligMsgs = s.ligMsgs := rfl
@[simp] theorem State.updGroup_mod (s : State) (g : Nat) (f : Group → Group) : (s.updGroup g f).mod = s.mod := rfl
@[simp] theorem State.updGroup_hostMsgs (s : State) (g : Nat) (f : Group → Group) : (s.updGroup g f).hostMsgs = s.hostMsgs := rfl
@[simp] theorem State.updGroup_completion (s : State) (g : Nat) (f : Group → Group) : (s.updGroup g f).completion = s.completion := rfl
@[simp] theorem State.updGroup_aer (s : State) (g : Nat) (f : Group → Group) : (s.updGroup g f).aer = s.aer := rfl
@[simp] theorem State.updGroup_free (s : State) (g : Nat) (f : Group → Group) : (s.updGroup g f).free = s.free := rfl

/-! The fields after `State.updMod`. -/

@[simp] theorem State.updMod_pending (s : State) (f : Module → Module) : (s.updMod f).pending = s.pending := rfl
@[simp] theorem State.updMod_mem (s : State) (f : Module → Module) : (s.updMod f).mem = s.mem := rfl
@[simp] theorem State.updMod_poison (s : State) (f : Module → Module) : (s.updMod f).poison = s.poison := rfl
@[simp] theorem State.updMod_frames (s : State) (f : Module → Module) : (s.updMod f).frames = s.frames := rfl
@[simp] theorem State.updMod_l2used (s : State) (f : Module → Module) : (s.updMod f).l2used = s.l2used := rfl
@[simp] theorem State.updMod_l2first (s : State) (f : Module → Module) : (s.updMod f).l2first = s.l2first := rfl
@[simp] theorem State.updMod_l2frames (s : State) (f : Module → Module) : (s.updMod f).l2frames = s.l2frames := rfl
@[simp] theorem State.updMod_host (s : State) (f : Module → Module) : (s.updMod f).host = s.host := rfl
@[simp] theorem State.updMod_ringData (s : State) (f : Module → Module) : (s.updMod f).ringData = s.ringData := rfl
@[simp] theorem State.updMod_cores (s : State) (f : Module → Module) : (s.updMod f).cores = s.cores := rfl
@[simp] theorem State.updMod_dies (s : State) (f : Module → Module) : (s.updMod f).dies = s.dies := rfl
@[simp] theorem State.updMod_queues (s : State) (f : Module → Module) : (s.updMod f).queues = s.queues := rfl
@[simp] theorem State.updMod_cmds (s : State) (f : Module → Module) : (s.updMod f).cmds = s.cmds := rfl
@[simp] theorem State.updMod_funcs (s : State) (f : Module → Module) : (s.updMod f).funcs = s.funcs := rfl
@[simp] theorem State.updMod_windows (s : State) (f : Module → Module) : (s.updMod f).windows = s.windows := rfl
@[simp] theorem State.updMod_links (s : State) (f : Module → Module) : (s.updMod f).links = s.links := rfl
@[simp] theorem State.updMod_mgmt (s : State) (f : Module → Module) : (s.updMod f).mgmt = s.mgmt := rfl
@[simp] theorem State.updMod_fab (s : State) (f : Module → Module) : (s.updMod f).fab = s.fab := rfl
@[simp] theorem State.updMod_groups (s : State) (f : Module → Module) : (s.updMod f).groups = s.groups := rfl
@[simp] theorem State.updMod_ligOps (s : State) (f : Module → Module) : (s.updMod f).ligOps = s.ligOps := rfl
@[simp] theorem State.updMod_ligMsgs (s : State) (f : Module → Module) : (s.updMod f).ligMsgs = s.ligMsgs := rfl
@[simp] theorem State.updMod_hostMsgs (s : State) (f : Module → Module) : (s.updMod f).hostMsgs = s.hostMsgs := rfl
@[simp] theorem State.updMod_completion (s : State) (f : Module → Module) : (s.updMod f).completion = s.completion := rfl
@[simp] theorem State.updMod_aer (s : State) (f : Module → Module) : (s.updMod f).aer = s.aer := rfl
@[simp] theorem State.updMod_free (s : State) (f : Module → Module) : (s.updMod f).free = s.free := rfl

/-! The fields after `State.updFab`. -/

@[simp] theorem State.updFab_pending (s : State) (f : Fabric → Fabric) : (s.updFab f).pending = s.pending := rfl
@[simp] theorem State.updFab_mem (s : State) (f : Fabric → Fabric) : (s.updFab f).mem = s.mem := rfl
@[simp] theorem State.updFab_poison (s : State) (f : Fabric → Fabric) : (s.updFab f).poison = s.poison := rfl
@[simp] theorem State.updFab_frames (s : State) (f : Fabric → Fabric) : (s.updFab f).frames = s.frames := rfl
@[simp] theorem State.updFab_l2used (s : State) (f : Fabric → Fabric) : (s.updFab f).l2used = s.l2used := rfl
@[simp] theorem State.updFab_l2first (s : State) (f : Fabric → Fabric) : (s.updFab f).l2first = s.l2first := rfl
@[simp] theorem State.updFab_l2frames (s : State) (f : Fabric → Fabric) : (s.updFab f).l2frames = s.l2frames := rfl
@[simp] theorem State.updFab_host (s : State) (f : Fabric → Fabric) : (s.updFab f).host = s.host := rfl
@[simp] theorem State.updFab_ringData (s : State) (f : Fabric → Fabric) : (s.updFab f).ringData = s.ringData := rfl
@[simp] theorem State.updFab_cores (s : State) (f : Fabric → Fabric) : (s.updFab f).cores = s.cores := rfl
@[simp] theorem State.updFab_dies (s : State) (f : Fabric → Fabric) : (s.updFab f).dies = s.dies := rfl
@[simp] theorem State.updFab_queues (s : State) (f : Fabric → Fabric) : (s.updFab f).queues = s.queues := rfl
@[simp] theorem State.updFab_cmds (s : State) (f : Fabric → Fabric) : (s.updFab f).cmds = s.cmds := rfl
@[simp] theorem State.updFab_funcs (s : State) (f : Fabric → Fabric) : (s.updFab f).funcs = s.funcs := rfl
@[simp] theorem State.updFab_windows (s : State) (f : Fabric → Fabric) : (s.updFab f).windows = s.windows := rfl
@[simp] theorem State.updFab_links (s : State) (f : Fabric → Fabric) : (s.updFab f).links = s.links := rfl
@[simp] theorem State.updFab_mgmt (s : State) (f : Fabric → Fabric) : (s.updFab f).mgmt = s.mgmt := rfl
@[simp] theorem State.updFab_groups (s : State) (f : Fabric → Fabric) : (s.updFab f).groups = s.groups := rfl
@[simp] theorem State.updFab_ligOps (s : State) (f : Fabric → Fabric) : (s.updFab f).ligOps = s.ligOps := rfl
@[simp] theorem State.updFab_ligMsgs (s : State) (f : Fabric → Fabric) : (s.updFab f).ligMsgs = s.ligMsgs := rfl
@[simp] theorem State.updFab_mod (s : State) (f : Fabric → Fabric) : (s.updFab f).mod = s.mod := rfl
@[simp] theorem State.updFab_hostMsgs (s : State) (f : Fabric → Fabric) : (s.updFab f).hostMsgs = s.hostMsgs := rfl
@[simp] theorem State.updFab_completion (s : State) (f : Fabric → Fabric) : (s.updFab f).completion = s.completion := rfl
@[simp] theorem State.updFab_aer (s : State) (f : Fabric → Fabric) : (s.updFab f).aer = s.aer := rfl
@[simp] theorem State.updFab_free (s : State) (f : Fabric → Fabric) : (s.updFab f).free = s.free := rfl

/-! The fields after `State.updPort`. -/

@[simp] theorem State.updPort_pending (s : State) (p : Nat) (f : Port → Port) : (s.updPort p f).pending = s.pending := rfl
@[simp] theorem State.updPort_mem (s : State) (p : Nat) (f : Port → Port) : (s.updPort p f).mem = s.mem := rfl
@[simp] theorem State.updPort_poison (s : State) (p : Nat) (f : Port → Port) : (s.updPort p f).poison = s.poison := rfl
@[simp] theorem State.updPort_frames (s : State) (p : Nat) (f : Port → Port) : (s.updPort p f).frames = s.frames := rfl
@[simp] theorem State.updPort_l2used (s : State) (p : Nat) (f : Port → Port) : (s.updPort p f).l2used = s.l2used := rfl
@[simp] theorem State.updPort_l2first (s : State) (p : Nat) (f : Port → Port) : (s.updPort p f).l2first = s.l2first := rfl
@[simp] theorem State.updPort_l2frames (s : State) (p : Nat) (f : Port → Port) : (s.updPort p f).l2frames = s.l2frames := rfl
@[simp] theorem State.updPort_host (s : State) (p : Nat) (f : Port → Port) : (s.updPort p f).host = s.host := rfl
@[simp] theorem State.updPort_ringData (s : State) (p : Nat) (f : Port → Port) : (s.updPort p f).ringData = s.ringData := rfl
@[simp] theorem State.updPort_cores (s : State) (p : Nat) (f : Port → Port) : (s.updPort p f).cores = s.cores := rfl
@[simp] theorem State.updPort_dies (s : State) (p : Nat) (f : Port → Port) : (s.updPort p f).dies = s.dies := rfl
@[simp] theorem State.updPort_queues (s : State) (p : Nat) (f : Port → Port) : (s.updPort p f).queues = s.queues := rfl
@[simp] theorem State.updPort_cmds (s : State) (p : Nat) (f : Port → Port) : (s.updPort p f).cmds = s.cmds := rfl
@[simp] theorem State.updPort_funcs (s : State) (p : Nat) (f : Port → Port) : (s.updPort p f).funcs = s.funcs := rfl
@[simp] theorem State.updPort_windows (s : State) (p : Nat) (f : Port → Port) : (s.updPort p f).windows = s.windows := rfl
@[simp] theorem State.updPort_links (s : State) (p : Nat) (f : Port → Port) : (s.updPort p f).links = s.links := rfl
@[simp] theorem State.updPort_mgmt (s : State) (p : Nat) (f : Port → Port) : (s.updPort p f).mgmt = s.mgmt := rfl
@[simp] theorem State.updPort_groups (s : State) (p : Nat) (f : Port → Port) : (s.updPort p f).groups = s.groups := rfl
@[simp] theorem State.updPort_ligOps (s : State) (p : Nat) (f : Port → Port) : (s.updPort p f).ligOps = s.ligOps := rfl
@[simp] theorem State.updPort_ligMsgs (s : State) (p : Nat) (f : Port → Port) : (s.updPort p f).ligMsgs = s.ligMsgs := rfl
@[simp] theorem State.updPort_mod (s : State) (p : Nat) (f : Port → Port) : (s.updPort p f).mod = s.mod := rfl
@[simp] theorem State.updPort_hostMsgs (s : State) (p : Nat) (f : Port → Port) : (s.updPort p f).hostMsgs = s.hostMsgs := rfl
@[simp] theorem State.updPort_completion (s : State) (p : Nat) (f : Port → Port) : (s.updPort p f).completion = s.completion := rfl
@[simp] theorem State.updPort_aer (s : State) (p : Nat) (f : Port → Port) : (s.updPort p f).aer = s.aer := rfl
@[simp] theorem State.updPort_free (s : State) (p : Nat) (f : Port → Port) : (s.updPort p f).free = s.free := rfl

/-! The fields after `State.updCmd`. -/

@[simp] theorem State.updCmd_pending (s : State) (r : CmdRef) (f : Cmd → Cmd) : (s.updCmd r f).pending = s.pending := rfl
@[simp] theorem State.updCmd_mem (s : State) (r : CmdRef) (f : Cmd → Cmd) : (s.updCmd r f).mem = s.mem := rfl
@[simp] theorem State.updCmd_poison (s : State) (r : CmdRef) (f : Cmd → Cmd) : (s.updCmd r f).poison = s.poison := rfl
@[simp] theorem State.updCmd_frames (s : State) (r : CmdRef) (f : Cmd → Cmd) : (s.updCmd r f).frames = s.frames := rfl
@[simp] theorem State.updCmd_l2used (s : State) (r : CmdRef) (f : Cmd → Cmd) : (s.updCmd r f).l2used = s.l2used := rfl
@[simp] theorem State.updCmd_l2first (s : State) (r : CmdRef) (f : Cmd → Cmd) : (s.updCmd r f).l2first = s.l2first := rfl
@[simp] theorem State.updCmd_l2frames (s : State) (r : CmdRef) (f : Cmd → Cmd) : (s.updCmd r f).l2frames = s.l2frames := rfl
@[simp] theorem State.updCmd_host (s : State) (r : CmdRef) (f : Cmd → Cmd) : (s.updCmd r f).host = s.host := rfl
@[simp] theorem State.updCmd_ringData (s : State) (r : CmdRef) (f : Cmd → Cmd) : (s.updCmd r f).ringData = s.ringData := rfl
@[simp] theorem State.updCmd_cores (s : State) (r : CmdRef) (f : Cmd → Cmd) : (s.updCmd r f).cores = s.cores := rfl
@[simp] theorem State.updCmd_dies (s : State) (r : CmdRef) (f : Cmd → Cmd) : (s.updCmd r f).dies = s.dies := rfl
@[simp] theorem State.updCmd_queues (s : State) (r : CmdRef) (f : Cmd → Cmd) : (s.updCmd r f).queues = s.queues := rfl
@[simp] theorem State.updCmd_funcs (s : State) (r : CmdRef) (f : Cmd → Cmd) : (s.updCmd r f).funcs = s.funcs := rfl
@[simp] theorem State.updCmd_windows (s : State) (r : CmdRef) (f : Cmd → Cmd) : (s.updCmd r f).windows = s.windows := rfl
@[simp] theorem State.updCmd_links (s : State) (r : CmdRef) (f : Cmd → Cmd) : (s.updCmd r f).links = s.links := rfl
@[simp] theorem State.updCmd_mgmt (s : State) (r : CmdRef) (f : Cmd → Cmd) : (s.updCmd r f).mgmt = s.mgmt := rfl
@[simp] theorem State.updCmd_fab (s : State) (r : CmdRef) (f : Cmd → Cmd) : (s.updCmd r f).fab = s.fab := rfl
@[simp] theorem State.updCmd_groups (s : State) (r : CmdRef) (f : Cmd → Cmd) : (s.updCmd r f).groups = s.groups := rfl
@[simp] theorem State.updCmd_ligOps (s : State) (r : CmdRef) (f : Cmd → Cmd) : (s.updCmd r f).ligOps = s.ligOps := rfl
@[simp] theorem State.updCmd_ligMsgs (s : State) (r : CmdRef) (f : Cmd → Cmd) : (s.updCmd r f).ligMsgs = s.ligMsgs := rfl
@[simp] theorem State.updCmd_mod (s : State) (r : CmdRef) (f : Cmd → Cmd) : (s.updCmd r f).mod = s.mod := rfl
@[simp] theorem State.updCmd_hostMsgs (s : State) (r : CmdRef) (f : Cmd → Cmd) : (s.updCmd r f).hostMsgs = s.hostMsgs := rfl
@[simp] theorem State.updCmd_completion (s : State) (r : CmdRef) (f : Cmd → Cmd) : (s.updCmd r f).completion = s.completion := rfl
@[simp] theorem State.updCmd_aer (s : State) (r : CmdRef) (f : Cmd → Cmd) : (s.updCmd r f).aer = s.aer := rfl
@[simp] theorem State.updCmd_free (s : State) (r : CmdRef) (f : Cmd → Cmd) : (s.updCmd r f).free = s.free := rfl

/-! The fields after `State.putMem`. -/

@[simp] theorem State.putMem_pending (s : State) (a : Nat) (bs : List Byte) : (s.putMem a bs).pending = s.pending := rfl
@[simp] theorem State.putMem_poison (s : State) (a : Nat) (bs : List Byte) : (s.putMem a bs).poison = s.poison := rfl
@[simp] theorem State.putMem_frames (s : State) (a : Nat) (bs : List Byte) : (s.putMem a bs).frames = s.frames := rfl
@[simp] theorem State.putMem_l2used (s : State) (a : Nat) (bs : List Byte) : (s.putMem a bs).l2used = s.l2used := rfl
@[simp] theorem State.putMem_l2first (s : State) (a : Nat) (bs : List Byte) : (s.putMem a bs).l2first = s.l2first := rfl
@[simp] theorem State.putMem_l2frames (s : State) (a : Nat) (bs : List Byte) : (s.putMem a bs).l2frames = s.l2frames := rfl
@[simp] theorem State.putMem_host (s : State) (a : Nat) (bs : List Byte) : (s.putMem a bs).host = s.host := rfl
@[simp] theorem State.putMem_ringData (s : State) (a : Nat) (bs : List Byte) : (s.putMem a bs).ringData = s.ringData := rfl
@[simp] theorem State.putMem_cores (s : State) (a : Nat) (bs : List Byte) : (s.putMem a bs).cores = s.cores := rfl
@[simp] theorem State.putMem_dies (s : State) (a : Nat) (bs : List Byte) : (s.putMem a bs).dies = s.dies := rfl
@[simp] theorem State.putMem_queues (s : State) (a : Nat) (bs : List Byte) : (s.putMem a bs).queues = s.queues := rfl
@[simp] theorem State.putMem_cmds (s : State) (a : Nat) (bs : List Byte) : (s.putMem a bs).cmds = s.cmds := rfl
@[simp] theorem State.putMem_funcs (s : State) (a : Nat) (bs : List Byte) : (s.putMem a bs).funcs = s.funcs := rfl
@[simp] theorem State.putMem_windows (s : State) (a : Nat) (bs : List Byte) : (s.putMem a bs).windows = s.windows := rfl
@[simp] theorem State.putMem_links (s : State) (a : Nat) (bs : List Byte) : (s.putMem a bs).links = s.links := rfl
@[simp] theorem State.putMem_mgmt (s : State) (a : Nat) (bs : List Byte) : (s.putMem a bs).mgmt = s.mgmt := rfl
@[simp] theorem State.putMem_fab (s : State) (a : Nat) (bs : List Byte) : (s.putMem a bs).fab = s.fab := rfl
@[simp] theorem State.putMem_groups (s : State) (a : Nat) (bs : List Byte) : (s.putMem a bs).groups = s.groups := rfl
@[simp] theorem State.putMem_ligOps (s : State) (a : Nat) (bs : List Byte) : (s.putMem a bs).ligOps = s.ligOps := rfl
@[simp] theorem State.putMem_ligMsgs (s : State) (a : Nat) (bs : List Byte) : (s.putMem a bs).ligMsgs = s.ligMsgs := rfl
@[simp] theorem State.putMem_mod (s : State) (a : Nat) (bs : List Byte) : (s.putMem a bs).mod = s.mod := rfl
@[simp] theorem State.putMem_hostMsgs (s : State) (a : Nat) (bs : List Byte) : (s.putMem a bs).hostMsgs = s.hostMsgs := rfl
@[simp] theorem State.putMem_completion (s : State) (a : Nat) (bs : List Byte) : (s.putMem a bs).completion = s.completion := rfl
@[simp] theorem State.putMem_aer (s : State) (a : Nat) (bs : List Byte) : (s.putMem a bs).aer = s.aer := rfl
@[simp] theorem State.putMem_free (s : State) (a : Nat) (bs : List Byte) : (s.putMem a bs).free = s.free := rfl

/-! The fields after `State.zeroMem`. -/

@[simp] theorem State.zeroMem_pending (s : State) (a n : Nat) : (s.zeroMem a n).pending = s.pending := rfl
@[simp] theorem State.zeroMem_poison (s : State) (a n : Nat) : (s.zeroMem a n).poison = s.poison := rfl
@[simp] theorem State.zeroMem_frames (s : State) (a n : Nat) : (s.zeroMem a n).frames = s.frames := rfl
@[simp] theorem State.zeroMem_l2used (s : State) (a n : Nat) : (s.zeroMem a n).l2used = s.l2used := rfl
@[simp] theorem State.zeroMem_l2first (s : State) (a n : Nat) : (s.zeroMem a n).l2first = s.l2first := rfl
@[simp] theorem State.zeroMem_l2frames (s : State) (a n : Nat) : (s.zeroMem a n).l2frames = s.l2frames := rfl
@[simp] theorem State.zeroMem_host (s : State) (a n : Nat) : (s.zeroMem a n).host = s.host := rfl
@[simp] theorem State.zeroMem_ringData (s : State) (a n : Nat) : (s.zeroMem a n).ringData = s.ringData := rfl
@[simp] theorem State.zeroMem_cores (s : State) (a n : Nat) : (s.zeroMem a n).cores = s.cores := rfl
@[simp] theorem State.zeroMem_dies (s : State) (a n : Nat) : (s.zeroMem a n).dies = s.dies := rfl
@[simp] theorem State.zeroMem_queues (s : State) (a n : Nat) : (s.zeroMem a n).queues = s.queues := rfl
@[simp] theorem State.zeroMem_cmds (s : State) (a n : Nat) : (s.zeroMem a n).cmds = s.cmds := rfl
@[simp] theorem State.zeroMem_funcs (s : State) (a n : Nat) : (s.zeroMem a n).funcs = s.funcs := rfl
@[simp] theorem State.zeroMem_windows (s : State) (a n : Nat) : (s.zeroMem a n).windows = s.windows := rfl
@[simp] theorem State.zeroMem_links (s : State) (a n : Nat) : (s.zeroMem a n).links = s.links := rfl
@[simp] theorem State.zeroMem_mgmt (s : State) (a n : Nat) : (s.zeroMem a n).mgmt = s.mgmt := rfl
@[simp] theorem State.zeroMem_fab (s : State) (a n : Nat) : (s.zeroMem a n).fab = s.fab := rfl
@[simp] theorem State.zeroMem_groups (s : State) (a n : Nat) : (s.zeroMem a n).groups = s.groups := rfl
@[simp] theorem State.zeroMem_ligOps (s : State) (a n : Nat) : (s.zeroMem a n).ligOps = s.ligOps := rfl
@[simp] theorem State.zeroMem_ligMsgs (s : State) (a n : Nat) : (s.zeroMem a n).ligMsgs = s.ligMsgs := rfl
@[simp] theorem State.zeroMem_mod (s : State) (a n : Nat) : (s.zeroMem a n).mod = s.mod := rfl
@[simp] theorem State.zeroMem_hostMsgs (s : State) (a n : Nat) : (s.zeroMem a n).hostMsgs = s.hostMsgs := rfl
@[simp] theorem State.zeroMem_completion (s : State) (a n : Nat) : (s.zeroMem a n).completion = s.completion := rfl
@[simp] theorem State.zeroMem_aer (s : State) (a n : Nat) : (s.zeroMem a n).aer = s.aer := rfl
@[simp] theorem State.zeroMem_free (s : State) (a n : Nat) : (s.zeroMem a n).free = s.free := rfl

/-! The fields after `State.putHost`. -/

@[simp] theorem State.putHost_pending (s : State) (l a : Nat) (bs : List Byte) : (s.putHost l a bs).pending = s.pending := rfl
@[simp] theorem State.putHost_mem (s : State) (l a : Nat) (bs : List Byte) : (s.putHost l a bs).mem = s.mem := rfl
@[simp] theorem State.putHost_poison (s : State) (l a : Nat) (bs : List Byte) : (s.putHost l a bs).poison = s.poison := rfl
@[simp] theorem State.putHost_frames (s : State) (l a : Nat) (bs : List Byte) : (s.putHost l a bs).frames = s.frames := rfl
@[simp] theorem State.putHost_l2used (s : State) (l a : Nat) (bs : List Byte) : (s.putHost l a bs).l2used = s.l2used := rfl
@[simp] theorem State.putHost_l2first (s : State) (l a : Nat) (bs : List Byte) : (s.putHost l a bs).l2first = s.l2first := rfl
@[simp] theorem State.putHost_l2frames (s : State) (l a : Nat) (bs : List Byte) : (s.putHost l a bs).l2frames = s.l2frames := rfl
@[simp] theorem State.putHost_ringData (s : State) (l a : Nat) (bs : List Byte) : (s.putHost l a bs).ringData = s.ringData := rfl
@[simp] theorem State.putHost_cores (s : State) (l a : Nat) (bs : List Byte) : (s.putHost l a bs).cores = s.cores := rfl
@[simp] theorem State.putHost_dies (s : State) (l a : Nat) (bs : List Byte) : (s.putHost l a bs).dies = s.dies := rfl
@[simp] theorem State.putHost_queues (s : State) (l a : Nat) (bs : List Byte) : (s.putHost l a bs).queues = s.queues := rfl
@[simp] theorem State.putHost_cmds (s : State) (l a : Nat) (bs : List Byte) : (s.putHost l a bs).cmds = s.cmds := rfl
@[simp] theorem State.putHost_funcs (s : State) (l a : Nat) (bs : List Byte) : (s.putHost l a bs).funcs = s.funcs := rfl
@[simp] theorem State.putHost_windows (s : State) (l a : Nat) (bs : List Byte) : (s.putHost l a bs).windows = s.windows := rfl
@[simp] theorem State.putHost_links (s : State) (l a : Nat) (bs : List Byte) : (s.putHost l a bs).links = s.links := rfl
@[simp] theorem State.putHost_mgmt (s : State) (l a : Nat) (bs : List Byte) : (s.putHost l a bs).mgmt = s.mgmt := rfl
@[simp] theorem State.putHost_fab (s : State) (l a : Nat) (bs : List Byte) : (s.putHost l a bs).fab = s.fab := rfl
@[simp] theorem State.putHost_groups (s : State) (l a : Nat) (bs : List Byte) : (s.putHost l a bs).groups = s.groups := rfl
@[simp] theorem State.putHost_ligOps (s : State) (l a : Nat) (bs : List Byte) : (s.putHost l a bs).ligOps = s.ligOps := rfl
@[simp] theorem State.putHost_ligMsgs (s : State) (l a : Nat) (bs : List Byte) : (s.putHost l a bs).ligMsgs = s.ligMsgs := rfl
@[simp] theorem State.putHost_mod (s : State) (l a : Nat) (bs : List Byte) : (s.putHost l a bs).mod = s.mod := rfl
@[simp] theorem State.putHost_hostMsgs (s : State) (l a : Nat) (bs : List Byte) : (s.putHost l a bs).hostMsgs = s.hostMsgs := rfl
@[simp] theorem State.putHost_completion (s : State) (l a : Nat) (bs : List Byte) : (s.putHost l a bs).completion = s.completion := rfl
@[simp] theorem State.putHost_aer (s : State) (l a : Nat) (bs : List Byte) : (s.putHost l a bs).aer = s.aer := rfl
@[simp] theorem State.putHost_free (s : State) (l a : Nat) (bs : List Byte) : (s.putHost l a bs).free = s.free := rfl

/-! The named reads after the named updates. -/

theorem State.core_updCore (s : State) (k i : Nat) (f : Core → Core) :
    (s.updCore k f).core i = if k = i then f (s.core k) else s.core i := SMap.get_set ..

@[simp] theorem State.core_updCore_same (s : State) (k : Nat) (f : Core → Core) :
    (s.updCore k f).core k = f (s.core k) := SMap.get_set_same ..

@[simp] theorem State.core_updCore_ne (s : State) (k i : Nat) (f : Core → Core) (h : k ≠ i) :
    (s.updCore k f).core i = s.core i := SMap.get_set_ne _ _ _ _ _ h

theorem Core.ctx_updCtx (k : Core) (j i : Nat) (f : Ctx → Ctx) :
    (k.updCtx j f).ctx i = if j = i then f (k.ctx j) else k.ctx i := SMap.get_set ..

@[simp] theorem Core.ctx_updCtx_same (k : Core) (j : Nat) (f : Ctx → Ctx) :
    (k.updCtx j f).ctx j = f (k.ctx j) := SMap.get_set_same ..

@[simp] theorem Core.ctx_updCtx_ne (k : Core) (j i : Nat) (f : Ctx → Ctx) (h : j ≠ i) :
    (k.updCtx j f).ctx i = k.ctx i := SMap.get_set_ne _ _ _ _ _ h

theorem State.die_updDie (s : State) (d i : Nat) (f : Die → Die) :
    (s.updDie d f).die i = if d = i then f (s.die d) else s.die i := SMap.get_set ..

@[simp] theorem State.die_updDie_same (s : State) (d : Nat) (f : Die → Die) :
    (s.updDie d f).die d = f (s.die d) := SMap.get_set_same ..

theorem State.func_updFunc (s : State) (n i : Nat) (f : Func → Func) :
    (s.updFunc n f).func i = if n = i then f (s.func n) else s.func i := SMap.get_set ..

@[simp] theorem State.func_updFunc_same (s : State) (n : Nat) (f : Func → Func) :
    (s.updFunc n f).func n = f (s.func n) := SMap.get_set_same ..

theorem State.queue_updQueue (s : State) (q i : Nat) (f : Queue → Queue) :
    (s.updQueue q f).queue i = if q = i then f (s.queue q) else s.queue i := SMap.get_set ..

@[simp] theorem State.queue_updQueue_same (s : State) (q : Nat) (f : Queue → Queue) :
    (s.updQueue q f).queue q = f (s.queue q) := SMap.get_set_same ..

theorem State.link_updLink (s : State) (h i : Nat) (f : HostLink → HostLink) :
    (s.updLink h f).link i = if h = i then f (s.link h) else s.link i := by
  simp only [State.link, State.updLink, SMap.get_set]

@[simp] theorem State.link_updLink_same (s : State) (h : Nat) (f : HostLink → HostLink) :
    (s.updLink h f).link h = f (s.link h) := by simp [State.link_updLink]

theorem State.window_updWindow (s : State) (w i : Nat) (f : Window → Window) :
    (s.updWindow w f).window i = if w = i then f (s.window w) else s.window i := SMap.get_set ..

@[simp] theorem State.window_updWindow_same (s : State) (w : Nat) (f : Window → Window) :
    (s.updWindow w f).window w = f (s.window w) := SMap.get_set_same ..

theorem State.group_updGroup (s : State) (g i : Nat) (f : Group → Group) :
    (s.updGroup g f).group i = if g = i then f (s.group g) else s.group i := SMap.get_set ..

@[simp] theorem State.group_updGroup_same (s : State) (g : Nat) (f : Group → Group) :
    (s.updGroup g f).group g = f (s.group g) := SMap.get_set_same ..

@[simp] theorem State.updMod_mod (s : State) (f : Module → Module) : (s.updMod f).mod = f s.mod := rfl

@[simp] theorem State.updFab_fab (s : State) (f : Fabric → Fabric) : (s.updFab f).fab = f s.fab := rfl

theorem State.port_updPort (s : State) (p i : Nat) (f : Port → Port) :
    (s.updPort p f).port i = if p = i then f (s.port p) else s.port i := SMap.get_set ..

@[simp] theorem State.port_updPort_same (s : State) (p : Nat) (f : Port → Port) :
    (s.updPort p f).port p = f (s.port p) := SMap.get_set_same ..

/-! Registers of a context (R140). -/

@[simp] theorem Ctx.rx_zero (x : Ctx) : x.rx 0 = 0 := rfl

theorem Ctx.rx_wx (x : Ctx) (r i : Nat) (v : Word) :
    (x.wx r v).rx i = if i = r ∧ r ≠ 0 then v else x.rx i := by
  unfold Ctx.wx Ctx.rx
  by_cases hr : r = 0
  · simp [hr]
  · by_cases hi : i = 0
    · simp [hr, hi]
      omega
    · simp only [hr, hi, if_false, SMap.get_set]
      by_cases h : r = i <;> simp [h, hr, eq_comm]
      omega

theorem Ctx.rf_wf (x : Ctx) (r i : Nat) (v : Word) : (x.wf r v).rf i = if r = i then v else x.rf i := SMap.get_set ..

@[simp] theorem Ctx.rf_wx (x : Ctx) (r i : Nat) (v : Word) : (x.wx r v).rf i = x.rf i := by
  unfold Ctx.wx Ctx.rf; split <;> rfl

@[simp] theorem Ctx.rx_wf (x : Ctx) (r i : Nat) (v : Word) : (x.wf r v).rx i = x.rx i := rfl

/-! The other fields of a context after a register write, and of a core after a context update or a count. -/

@[simp] theorem Ctx.wx_mode (x : Ctx) (r : Nat) (v : Word) : (x.wx r v).mode = x.mode := by unfold Ctx.wx; split <;> rfl
@[simp] theorem Ctx.wx_pc (x : Ctx) (r : Nat) (v : Word) : (x.wx r v).pc = x.pc := by unfold Ctx.wx; split <;> rfl
@[simp] theorem Ctx.wx_f (x : Ctx) (r : Nat) (v : Word) : (x.wx r v).f = x.f := by unfold Ctx.wx; split <;> rfl
@[simp] theorem Ctx.wx_xflg (x : Ctx) (r : Nat) (v : Word) : (x.wx r v).xflg = x.xflg := by unfold Ctx.wx; split <;> rfl
@[simp] theorem Ctx.wx_alarm (x : Ctx) (r : Nat) (v : Word) : (x.wx r v).alarm = x.alarm := by unfold Ctx.wx; split <;> rfl
@[simp] theorem Ctx.wx_hbase (x : Ctx) (r : Nat) (v : Word) : (x.wx r v).hbase = x.hbase := by unfold Ctx.wx; split <;> rfl
@[simp] theorem Ctx.wx_hpc (x : Ctx) (r : Nat) (v : Word) : (x.wx r v).hpc = x.hpc := by unfold Ctx.wx; split <;> rfl
@[simp] theorem Ctx.wx_hwhy (x : Ctx) (r : Nat) (v : Word) : (x.wx r v).hwhy = x.hwhy := by unfold Ctx.wx; split <;> rfl
@[simp] theorem Ctx.wx_harg (x : Ctx) (r : Nat) (v : Word) : (x.wx r v).harg = x.harg := by unfold Ctx.wx; split <;> rfl
@[simp] theorem Ctx.wx_hsave (x : Ctx) (r : Nat) (v : Word) : (x.wx r v).hsave = x.hsave := by unfold Ctx.wx; split <;> rfl
@[simp] theorem Ctx.wx_cpend (x : Ctx) (r : Nat) (v : Word) : (x.wx r v).cpend = x.cpend := by unfold Ctx.wx; split <;> rfl
@[simp] theorem Ctx.wx_ppend (x : Ctx) (r : Nat) (v : Word) : (x.wx r v).ppend = x.ppend := by unfold Ctx.wx; split <;> rfl
@[simp] theorem Ctx.wx_hen (x : Ctx) (r : Nat) (v : Word) : (x.wx r v).hen = x.hen := by unfold Ctx.wx; split <;> rfl
@[simp] theorem Ctx.wx_cen (x : Ctx) (r : Nat) (v : Word) : (x.wx r v).cen = x.cen := by unfold Ctx.wx; split <;> rfl
@[simp] theorem Ctx.wx_aen (x : Ctx) (r : Nat) (v : Word) : (x.wx r v).aen = x.aen := by unfold Ctx.wx; split <;> rfl
@[simp] theorem Ctx.wx_pen (x : Ctx) (r : Nat) (v : Word) : (x.wx r v).pen = x.pen := by unfold Ctx.wx; split <;> rfl
@[simp] theorem Ctx.wx_inh (x : Ctx) (r : Nat) (v : Word) : (x.wx r v).inh = x.inh := by unfold Ctx.wx; split <;> rfl
@[simp] theorem Ctx.wx_gsave (x : Ctx) (r : Nat) (v : Word) : (x.wx r v).gsave = x.gsave := by unfold Ctx.wx; split <;> rfl
@[simp] theorem Ctx.wx_gate (x : Ctx) (r : Nat) (v : Word) : (x.wx r v).gate = x.gate := by unfold Ctx.wx; split <;> rfl
@[simp] theorem Ctx.wx_retired (x : Ctx) (r : Nat) (v : Word) : (x.wx r v).retired = x.retired := by unfold Ctx.wx; split <;> rfl
@[simp] theorem Ctx.wx_vxflg (x : Ctx) (r : Nat) (v : Word) : (x.wx r v).vxflg = x.vxflg := by unfold Ctx.wx; split <;> rfl
@[simp] theorem Ctx.wx_gen (x : Ctx) (r : Nat) (v : Word) : (x.wx r v).gen = x.gen := by unfold Ctx.wx; split <;> rfl
@[simp] theorem Ctx.wx_seeded (x : Ctx) (r : Nat) (v : Word) : (x.wx r v).seeded = x.seeded := by unfold Ctx.wx; split <;> rfl
@[simp] theorem Ctx.wx_cvtsat (x : Ctx) (r : Nat) (v : Word) : (x.wx r v).cvtsat = x.cvtsat := by unfold Ctx.wx; split <;> rfl
@[simp] theorem Ctx.wx_cvtflush (x : Ctx) (r : Nat) (v : Word) : (x.wx r v).cvtflush = x.cvtflush := by unfold Ctx.wx; split <;> rfl
@[simp] theorem Ctx.wx_mismatch (x : Ctx) (r : Nat) (v : Word) : (x.wx r v).mismatch = x.mismatch := by unfold Ctx.wx; split <;> rfl
@[simp] theorem Ctx.wx_resOvf (x : Ctx) (r : Nat) (v : Word) : (x.wx r v).resOvf = x.resOvf := by unfold Ctx.wx; split <;> rfl
@[simp] theorem Ctx.wx_v (x : Ctx) (r : Nat) (v : Word) : (x.wx r v).v = x.v := by unfold Ctx.wx; split <;> rfl
@[simp] theorem Ctx.wx_vbad (x : Ctx) (r : Nat) (v : Word) : (x.wx r v).vbad = x.vbad := by unfold Ctx.wx; split <;> rfl
@[simp] theorem Ctx.wx_m (x : Ctx) (r : Nat) (v : Word) : (x.wx r v).m = x.m := by unfold Ctx.wx; split <;> rfl
@[simp] theorem Ctx.wx_ed (x : Ctx) (r : Nat) (v : Word) : (x.wx r v).ed = x.ed := by unfold Ctx.wx; split <;> rfl
@[simp] theorem Ctx.wx_md (x : Ctx) (r : Nat) (v : Word) : (x.wx r v).md = x.md := by unfold Ctx.wx; split <;> rfl
@[simp] theorem Ctx.wx_vq (x : Ctx) (r : Nat) (v : Word) : (x.wx r v).vq = x.vq := by unfold Ctx.wx; split <;> rfl
@[simp] theorem Ctx.wx_drain (x : Ctx) (r : Nat) (v : Word) : (x.wx r v).drain = x.drain := by unfold Ctx.wx; split <;> rfl
@[simp] theorem Ctx.wx_feedTags (x : Ctx) (r : Nat) (v : Word) : (x.wx r v).feedTags = x.feedTags := by unfold Ctx.wx; split <;> rfl
@[simp] theorem Ctx.wx_ligTags (x : Ctx) (r : Nat) (v : Word) : (x.wx r v).ligTags = x.ligTags := by unfold Ctx.wx; split <;> rfl
@[simp] theorem Ctx.wx_kept (x : Ctx) (r : Nat) (v : Word) : (x.wx r v).kept = x.kept := by unfold Ctx.wx; split <;> rfl
@[simp] theorem Ctx.wx_ligCount (x : Ctx) (r : Nat) (v : Word) : (x.wx r v).ligCount = x.ligCount := by unfold Ctx.wx; split <;> rfl
@[simp] theorem Ctx.wx_job (x : Ctx) (r : Nat) (v : Word) : (x.wx r v).job = x.job := by unfold Ctx.wx; split <;> rfl
@[simp] theorem Ctx.wx_index (x : Ctx) (r : Nat) (v : Word) : (x.wx r v).index = x.index := by unfold Ctx.wx; split <;> rfl
@[simp] theorem Ctx.wx_code (x : Ctx) (r : Nat) (v : Word) : (x.wx r v).code = x.code := by unfold Ctx.wx; split <;> rfl
@[simp] theorem Ctx.wx_snap (x : Ctx) (r : Nat) (v : Word) : (x.wx r v).snap = x.snap := by unfold Ctx.wx; split <;> rfl

@[simp] theorem Ctx.wf_mode (x : Ctx) (r : Nat) (v : Word) : (x.wf r v).mode = x.mode := rfl
@[simp] theorem Ctx.wf_pc (x : Ctx) (r : Nat) (v : Word) : (x.wf r v).pc = x.pc := rfl
@[simp] theorem Ctx.wf_x (x : Ctx) (r : Nat) (v : Word) : (x.wf r v).x = x.x := rfl
@[simp] theorem Ctx.wf_xflg (x : Ctx) (r : Nat) (v : Word) : (x.wf r v).xflg = x.xflg := rfl
@[simp] theorem Ctx.wf_alarm (x : Ctx) (r : Nat) (v : Word) : (x.wf r v).alarm = x.alarm := rfl
@[simp] theorem Ctx.wf_hbase (x : Ctx) (r : Nat) (v : Word) : (x.wf r v).hbase = x.hbase := rfl
@[simp] theorem Ctx.wf_hpc (x : Ctx) (r : Nat) (v : Word) : (x.wf r v).hpc = x.hpc := rfl
@[simp] theorem Ctx.wf_hwhy (x : Ctx) (r : Nat) (v : Word) : (x.wf r v).hwhy = x.hwhy := rfl
@[simp] theorem Ctx.wf_harg (x : Ctx) (r : Nat) (v : Word) : (x.wf r v).harg = x.harg := rfl
@[simp] theorem Ctx.wf_hsave (x : Ctx) (r : Nat) (v : Word) : (x.wf r v).hsave = x.hsave := rfl
@[simp] theorem Ctx.wf_cpend (x : Ctx) (r : Nat) (v : Word) : (x.wf r v).cpend = x.cpend := rfl
@[simp] theorem Ctx.wf_ppend (x : Ctx) (r : Nat) (v : Word) : (x.wf r v).ppend = x.ppend := rfl
@[simp] theorem Ctx.wf_hen (x : Ctx) (r : Nat) (v : Word) : (x.wf r v).hen = x.hen := rfl
@[simp] theorem Ctx.wf_cen (x : Ctx) (r : Nat) (v : Word) : (x.wf r v).cen = x.cen := rfl
@[simp] theorem Ctx.wf_aen (x : Ctx) (r : Nat) (v : Word) : (x.wf r v).aen = x.aen := rfl
@[simp] theorem Ctx.wf_pen (x : Ctx) (r : Nat) (v : Word) : (x.wf r v).pen = x.pen := rfl
@[simp] theorem Ctx.wf_inh (x : Ctx) (r : Nat) (v : Word) : (x.wf r v).inh = x.inh := rfl
@[simp] theorem Ctx.wf_gsave (x : Ctx) (r : Nat) (v : Word) : (x.wf r v).gsave = x.gsave := rfl
@[simp] theorem Ctx.wf_gate (x : Ctx) (r : Nat) (v : Word) : (x.wf r v).gate = x.gate := rfl
@[simp] theorem Ctx.wf_retired (x : Ctx) (r : Nat) (v : Word) : (x.wf r v).retired = x.retired := rfl
@[simp] theorem Ctx.wf_vxflg (x : Ctx) (r : Nat) (v : Word) : (x.wf r v).vxflg = x.vxflg := rfl
@[simp] theorem Ctx.wf_gen (x : Ctx) (r : Nat) (v : Word) : (x.wf r v).gen = x.gen := rfl
@[simp] theorem Ctx.wf_seeded (x : Ctx) (r : Nat) (v : Word) : (x.wf r v).seeded = x.seeded := rfl
@[simp] theorem Ctx.wf_cvtsat (x : Ctx) (r : Nat) (v : Word) : (x.wf r v).cvtsat = x.cvtsat := rfl
@[simp] theorem Ctx.wf_cvtflush (x : Ctx) (r : Nat) (v : Word) : (x.wf r v).cvtflush = x.cvtflush := rfl
@[simp] theorem Ctx.wf_mismatch (x : Ctx) (r : Nat) (v : Word) : (x.wf r v).mismatch = x.mismatch := rfl
@[simp] theorem Ctx.wf_resOvf (x : Ctx) (r : Nat) (v : Word) : (x.wf r v).resOvf = x.resOvf := rfl
@[simp] theorem Ctx.wf_v (x : Ctx) (r : Nat) (v : Word) : (x.wf r v).v = x.v := rfl
@[simp] theorem Ctx.wf_vbad (x : Ctx) (r : Nat) (v : Word) : (x.wf r v).vbad = x.vbad := rfl
@[simp] theorem Ctx.wf_m (x : Ctx) (r : Nat) (v : Word) : (x.wf r v).m = x.m := rfl
@[simp] theorem Ctx.wf_ed (x : Ctx) (r : Nat) (v : Word) : (x.wf r v).ed = x.ed := rfl
@[simp] theorem Ctx.wf_md (x : Ctx) (r : Nat) (v : Word) : (x.wf r v).md = x.md := rfl
@[simp] theorem Ctx.wf_vq (x : Ctx) (r : Nat) (v : Word) : (x.wf r v).vq = x.vq := rfl
@[simp] theorem Ctx.wf_drain (x : Ctx) (r : Nat) (v : Word) : (x.wf r v).drain = x.drain := rfl
@[simp] theorem Ctx.wf_feedTags (x : Ctx) (r : Nat) (v : Word) : (x.wf r v).feedTags = x.feedTags := rfl
@[simp] theorem Ctx.wf_ligTags (x : Ctx) (r : Nat) (v : Word) : (x.wf r v).ligTags = x.ligTags := rfl
@[simp] theorem Ctx.wf_kept (x : Ctx) (r : Nat) (v : Word) : (x.wf r v).kept = x.kept := rfl
@[simp] theorem Ctx.wf_ligCount (x : Ctx) (r : Nat) (v : Word) : (x.wf r v).ligCount = x.ligCount := rfl
@[simp] theorem Ctx.wf_job (x : Ctx) (r : Nat) (v : Word) : (x.wf r v).job = x.job := rfl
@[simp] theorem Ctx.wf_index (x : Ctx) (r : Nat) (v : Word) : (x.wf r v).index = x.index := rfl
@[simp] theorem Ctx.wf_code (x : Ctx) (r : Nat) (v : Word) : (x.wf r v).code = x.code := rfl
@[simp] theorem Ctx.wf_snap (x : Ctx) (r : Nat) (v : Word) : (x.wf r v).snap = x.snap := rfl

@[simp] theorem Core.updCtx_owned (k : Core) (j : Nat) (f : Ctx → Ctx) : (k.updCtx j f).owned = k.owned := rfl
@[simp] theorem Core.updCtx_owner (k : Core) (j : Nat) (f : Ctx → Ctx) : (k.updCtx j f).owner = k.owner := rfl
@[simp] theorem Core.updCtx_clearing (k : Core) (j : Nat) (f : Ctx → Ctx) : (k.updCtx j f).clearing = k.clearing := rfl
@[simp] theorem Core.updCtx_inkClearing (k : Core) (j : Nat) (f : Ctx → Ctx) : (k.updCtx j f).inkClearing = k.inkClearing := rfl
@[simp] theorem Core.updCtx_ink (k : Core) (j : Nat) (f : Ctx → Ctx) : (k.updCtx j f).ink = k.ink := rfl
@[simp] theorem Core.updCtx_inkBad (k : Core) (j : Nat) (f : Ctx → Ctx) : (k.updCtx j f).inkBad = k.inkBad := rfl
@[simp] theorem Core.updCtx_handles (k : Core) (j : Nat) (f : Ctx → Ctx) : (k.updCtx j f).handles = k.handles := rfl
@[simp] theorem Core.updCtx_eccUe (k : Core) (j : Nat) (f : Ctx → Ctx) : (k.updCtx j f).eccUe = k.eccUe := rfl
@[simp] theorem Core.updCtx_eccScrub (k : Core) (j : Nat) (f : Ctx → Ctx) : (k.updCtx j f).eccScrub = k.eccScrub := rfl
@[simp] theorem Core.updCtx_eccRow (k : Core) (j : Nat) (f : Ctx → Ctx) : (k.updCtx j f).eccRow = k.eccRow := rfl
@[simp] theorem Core.updCtx_eccCorr (k : Core) (j : Nat) (f : Ctx → Ctx) : (k.updCtx j f).eccCorr = k.eccCorr := rfl
@[simp] theorem Core.updCtx_scrubRow (k : Core) (j : Nat) (f : Ctx → Ctx) : (k.updCtx j f).scrubRow = k.scrubRow := rfl
@[simp] theorem Core.updCtx_res (k : Core) (j : Nat) (f : Ctx → Ctx) : (k.updCtx j f).res = k.res := rfl
@[simp] theorem Core.updCtx_cwin (k : Core) (j : Nat) (f : Ctx → Ctx) : (k.updCtx j f).cwin = k.cwin := rfl
@[simp] theorem Core.updCtx_ctolFp16 (k : Core) (j : Nat) (f : Ctx → Ctx) : (k.updCtx j f).ctolFp16 = k.ctolFp16 := rfl
@[simp] theorem Core.updCtx_ctolBf16 (k : Core) (j : Nat) (f : Ctx → Ctx) : (k.updCtx j f).ctolBf16 = k.ctolBf16 := rfl
@[simp] theorem Core.updCtx_fstat (k : Core) (j : Nat) (f : Ctx → Ctx) : (k.updCtx j f).fstat = k.fstat := rfl
@[simp] theorem Core.updCtx_mmWait (k : Core) (j : Nat) (f : Ctx → Ctx) : (k.updCtx j f).mmWait = k.mmWait := rfl
@[simp] theorem Core.updCtx_group (k : Core) (j : Nat) (f : Ctx → Ctx) : (k.updCtx j f).group = k.group := rfl
@[simp] theorem Core.updCtx_groupClosed (k : Core) (j : Nat) (f : Ctx → Ctx) : (k.updCtx j f).groupClosed = k.groupClosed := rfl
@[simp] theorem Core.updCtx_passes (k : Core) (j : Nat) (f : Ctx → Ctx) : (k.updCtx j f).passes = k.passes := rfl
@[simp] theorem Core.updCtx_lastCtx (k : Core) (j : Nat) (f : Ctx → Ctx) : (k.updCtx j f).lastCtx = k.lastCtx := rfl
@[simp] theorem Core.updCtx_retained (k : Core) (j : Nat) (f : Ctx → Ctx) : (k.updCtx j f).retained = k.retained := rfl
@[simp] theorem Core.updCtx_pgIdle (k : Core) (j : Nat) (f : Ctx → Ctx) : (k.updCtx j f).pgIdle = k.pgIdle := rfl
@[simp] theorem Core.updCtx_xkeep (k : Core) (j : Nat) (f : Ctx → Ctx) : (k.updCtx j f).xkeep = k.xkeep := rfl
@[simp] theorem Core.updCtx_gkeep (k : Core) (j : Nat) (f : Ctx → Ctx) : (k.updCtx j f).gkeep = k.gkeep := rfl
@[simp] theorem Core.updCtx_vxu (k : Core) (j : Nat) (f : Ctx → Ctx) : (k.updCtx j f).vxu = k.vxu := rfl
@[simp] theorem Core.updCtx_vgu (k : Core) (j : Nat) (f : Ctx → Ctx) : (k.updCtx j f).vgu = k.vgu := rfl
@[simp] theorem Core.updCtx_ctrSel (k : Core) (j : Nat) (f : Ctx → Ctx) : (k.updCtx j f).ctrSel = k.ctrSel := rfl
@[simp] theorem Core.updCtx_ctrPc (k : Core) (j : Nat) (f : Ctx → Ctx) : (k.updCtx j f).ctrPc = k.ctrPc := rfl
@[simp] theorem Core.updCtx_halted (k : Core) (j : Nat) (f : Ctx → Ctx) : (k.updCtx j f).halted = k.halted := rfl
@[simp] theorem Core.updCtx_sb (k : Core) (j : Nat) (f : Ctx → Ctx) : (k.updCtx j f).sb = k.sb := rfl
@[simp] theorem Core.updCtx_l1 (k : Core) (j : Nat) (f : Ctx → Ctx) : (k.updCtx j f).l1 = k.l1 := rfl
@[simp] theorem Core.updCtx_icache (k : Core) (j : Nat) (f : Ctx → Ctx) : (k.updCtx j f).icache = k.icache := rfl
@[simp] theorem Core.updCtx_tlb (k : Core) (j : Nat) (f : Ctx → Ctx) : (k.updCtx j f).tlb = k.tlb := rfl
@[simp] theorem Core.updCtx_cycBase (k : Core) (j : Nat) (f : Ctx → Ctx) : (k.updCtx j f).cycBase = k.cycBase := rfl
@[simp] theorem Core.updCtx_faults (k : Core) (j : Nat) (f : Ctx → Ctx) : (k.updCtx j f).faults = k.faults := rfl
@[simp] theorem Core.updCtx_armed (k : Core) (j : Nat) (f : Ctx → Ctx) : (k.updCtx j f).armed = k.armed := rfl
@[simp] theorem Core.updCtx_lastKind (k : Core) (j : Nat) (f : Ctx → Ctx) : (k.updCtx j f).lastKind = k.lastKind := rfl

@[simp] theorem Core.countEvent_ctxs (k : Core) (e : Nat) (j : Option Nat) (n : Nat) : (k.countEvent e j n).ctxs = k.ctxs := by unfold Core.countEvent; split <;> rfl
@[simp] theorem Core.countEvent_owned (k : Core) (e : Nat) (j : Option Nat) (n : Nat) : (k.countEvent e j n).owned = k.owned := by unfold Core.countEvent; split <;> rfl
@[simp] theorem Core.countEvent_owner (k : Core) (e : Nat) (j : Option Nat) (n : Nat) : (k.countEvent e j n).owner = k.owner := by unfold Core.countEvent; split <;> rfl
@[simp] theorem Core.countEvent_clearing (k : Core) (e : Nat) (j : Option Nat) (n : Nat) : (k.countEvent e j n).clearing = k.clearing := by unfold Core.countEvent; split <;> rfl
@[simp] theorem Core.countEvent_inkClearing (k : Core) (e : Nat) (j : Option Nat) (n : Nat) : (k.countEvent e j n).inkClearing = k.inkClearing := by unfold Core.countEvent; split <;> rfl
@[simp] theorem Core.countEvent_ink (k : Core) (e : Nat) (j : Option Nat) (n : Nat) : (k.countEvent e j n).ink = k.ink := by unfold Core.countEvent; split <;> rfl
@[simp] theorem Core.countEvent_inkBad (k : Core) (e : Nat) (j : Option Nat) (n : Nat) : (k.countEvent e j n).inkBad = k.inkBad := by unfold Core.countEvent; split <;> rfl
@[simp] theorem Core.countEvent_handles (k : Core) (e : Nat) (j : Option Nat) (n : Nat) : (k.countEvent e j n).handles = k.handles := by unfold Core.countEvent; split <;> rfl
@[simp] theorem Core.countEvent_eccUe (k : Core) (e : Nat) (j : Option Nat) (n : Nat) : (k.countEvent e j n).eccUe = k.eccUe := by unfold Core.countEvent; split <;> rfl
@[simp] theorem Core.countEvent_eccScrub (k : Core) (e : Nat) (j : Option Nat) (n : Nat) : (k.countEvent e j n).eccScrub = k.eccScrub := by unfold Core.countEvent; split <;> rfl
@[simp] theorem Core.countEvent_eccRow (k : Core) (e : Nat) (j : Option Nat) (n : Nat) : (k.countEvent e j n).eccRow = k.eccRow := by unfold Core.countEvent; split <;> rfl
@[simp] theorem Core.countEvent_eccCorr (k : Core) (e : Nat) (j : Option Nat) (n : Nat) : (k.countEvent e j n).eccCorr = k.eccCorr := by unfold Core.countEvent; split <;> rfl
@[simp] theorem Core.countEvent_scrubRow (k : Core) (e : Nat) (j : Option Nat) (n : Nat) : (k.countEvent e j n).scrubRow = k.scrubRow := by unfold Core.countEvent; split <;> rfl
@[simp] theorem Core.countEvent_res (k : Core) (e : Nat) (j : Option Nat) (n : Nat) : (k.countEvent e j n).res = k.res := by unfold Core.countEvent; split <;> rfl
@[simp] theorem Core.countEvent_cwin (k : Core) (e : Nat) (j : Option Nat) (n : Nat) : (k.countEvent e j n).cwin = k.cwin := by unfold Core.countEvent; split <;> rfl
@[simp] theorem Core.countEvent_ctolFp16 (k : Core) (e : Nat) (j : Option Nat) (n : Nat) : (k.countEvent e j n).ctolFp16 = k.ctolFp16 := by unfold Core.countEvent; split <;> rfl
@[simp] theorem Core.countEvent_ctolBf16 (k : Core) (e : Nat) (j : Option Nat) (n : Nat) : (k.countEvent e j n).ctolBf16 = k.ctolBf16 := by unfold Core.countEvent; split <;> rfl
@[simp] theorem Core.countEvent_fstat (k : Core) (e : Nat) (j : Option Nat) (n : Nat) : (k.countEvent e j n).fstat = k.fstat := by unfold Core.countEvent; split <;> rfl
@[simp] theorem Core.countEvent_mmWait (k : Core) (e : Nat) (j : Option Nat) (n : Nat) : (k.countEvent e j n).mmWait = k.mmWait := by unfold Core.countEvent; split <;> rfl
@[simp] theorem Core.countEvent_group (k : Core) (e : Nat) (j : Option Nat) (n : Nat) : (k.countEvent e j n).group = k.group := by unfold Core.countEvent; split <;> rfl
@[simp] theorem Core.countEvent_groupClosed (k : Core) (e : Nat) (j : Option Nat) (n : Nat) : (k.countEvent e j n).groupClosed = k.groupClosed := by unfold Core.countEvent; split <;> rfl
@[simp] theorem Core.countEvent_passes (k : Core) (e : Nat) (j : Option Nat) (n : Nat) : (k.countEvent e j n).passes = k.passes := by unfold Core.countEvent; split <;> rfl
@[simp] theorem Core.countEvent_lastCtx (k : Core) (e : Nat) (j : Option Nat) (n : Nat) : (k.countEvent e j n).lastCtx = k.lastCtx := by unfold Core.countEvent; split <;> rfl
@[simp] theorem Core.countEvent_retained (k : Core) (e : Nat) (j : Option Nat) (n : Nat) : (k.countEvent e j n).retained = k.retained := by unfold Core.countEvent; split <;> rfl
@[simp] theorem Core.countEvent_pgIdle (k : Core) (e : Nat) (j : Option Nat) (n : Nat) : (k.countEvent e j n).pgIdle = k.pgIdle := by unfold Core.countEvent; split <;> rfl
@[simp] theorem Core.countEvent_xkeep (k : Core) (e : Nat) (j : Option Nat) (n : Nat) : (k.countEvent e j n).xkeep = k.xkeep := by unfold Core.countEvent; split <;> rfl
@[simp] theorem Core.countEvent_gkeep (k : Core) (e : Nat) (j : Option Nat) (n : Nat) : (k.countEvent e j n).gkeep = k.gkeep := by unfold Core.countEvent; split <;> rfl
@[simp] theorem Core.countEvent_vxu (k : Core) (e : Nat) (j : Option Nat) (n : Nat) : (k.countEvent e j n).vxu = k.vxu := by unfold Core.countEvent; split <;> rfl
@[simp] theorem Core.countEvent_vgu (k : Core) (e : Nat) (j : Option Nat) (n : Nat) : (k.countEvent e j n).vgu = k.vgu := by unfold Core.countEvent; split <;> rfl
@[simp] theorem Core.countEvent_ctrSel (k : Core) (e : Nat) (j : Option Nat) (n : Nat) : (k.countEvent e j n).ctrSel = k.ctrSel := by unfold Core.countEvent; split <;> rfl
@[simp] theorem Core.countEvent_halted (k : Core) (e : Nat) (j : Option Nat) (n : Nat) : (k.countEvent e j n).halted = k.halted := by unfold Core.countEvent; split <;> rfl
@[simp] theorem Core.countEvent_sb (k : Core) (e : Nat) (j : Option Nat) (n : Nat) : (k.countEvent e j n).sb = k.sb := by unfold Core.countEvent; split <;> rfl
@[simp] theorem Core.countEvent_l1 (k : Core) (e : Nat) (j : Option Nat) (n : Nat) : (k.countEvent e j n).l1 = k.l1 := by unfold Core.countEvent; split <;> rfl
@[simp] theorem Core.countEvent_icache (k : Core) (e : Nat) (j : Option Nat) (n : Nat) : (k.countEvent e j n).icache = k.icache := by unfold Core.countEvent; split <;> rfl
@[simp] theorem Core.countEvent_tlb (k : Core) (e : Nat) (j : Option Nat) (n : Nat) : (k.countEvent e j n).tlb = k.tlb := by unfold Core.countEvent; split <;> rfl
@[simp] theorem Core.countEvent_cycBase (k : Core) (e : Nat) (j : Option Nat) (n : Nat) : (k.countEvent e j n).cycBase = k.cycBase := by unfold Core.countEvent; split <;> rfl
@[simp] theorem Core.countEvent_faults (k : Core) (e : Nat) (j : Option Nat) (n : Nat) : (k.countEvent e j n).faults = k.faults := by unfold Core.countEvent; split <;> rfl
@[simp] theorem Core.countEvent_armed (k : Core) (e : Nat) (j : Option Nat) (n : Nat) : (k.countEvent e j n).armed = k.armed := by unfold Core.countEvent; split <;> rfl
@[simp] theorem Core.countEvent_lastKind (k : Core) (e : Nat) (j : Option Nat) (n : Nat) : (k.countEvent e j n).lastKind = k.lastKind := by unfold Core.countEvent; split <;> rfl

@[simp] theorem Core.retire_owned (k : Core) (j : Nat) : (k.retire j).owned = k.owned := by simp [Core.retire]
@[simp] theorem Core.retire_owner (k : Core) (j : Nat) : (k.retire j).owner = k.owner := by simp [Core.retire]
@[simp] theorem Core.retire_clearing (k : Core) (j : Nat) : (k.retire j).clearing = k.clearing := by simp [Core.retire]
@[simp] theorem Core.retire_inkClearing (k : Core) (j : Nat) : (k.retire j).inkClearing = k.inkClearing := by simp [Core.retire]
@[simp] theorem Core.retire_ink (k : Core) (j : Nat) : (k.retire j).ink = k.ink := by simp [Core.retire]
@[simp] theorem Core.retire_inkBad (k : Core) (j : Nat) : (k.retire j).inkBad = k.inkBad := by simp [Core.retire]
@[simp] theorem Core.retire_handles (k : Core) (j : Nat) : (k.retire j).handles = k.handles := by simp [Core.retire]
@[simp] theorem Core.retire_eccUe (k : Core) (j : Nat) : (k.retire j).eccUe = k.eccUe := by simp [Core.retire]
@[simp] theorem Core.retire_eccScrub (k : Core) (j : Nat) : (k.retire j).eccScrub = k.eccScrub := by simp [Core.retire]
@[simp] theorem Core.retire_eccRow (k : Core) (j : Nat) : (k.retire j).eccRow = k.eccRow := by simp [Core.retire]
@[simp] theorem Core.retire_eccCorr (k : Core) (j : Nat) : (k.retire j).eccCorr = k.eccCorr := by simp [Core.retire]
@[simp] theorem Core.retire_scrubRow (k : Core) (j : Nat) : (k.retire j).scrubRow = k.scrubRow := by simp [Core.retire]
@[simp] theorem Core.retire_res (k : Core) (j : Nat) : (k.retire j).res = k.res := by simp [Core.retire]
@[simp] theorem Core.retire_cwin (k : Core) (j : Nat) : (k.retire j).cwin = k.cwin := by simp [Core.retire]
@[simp] theorem Core.retire_ctolFp16 (k : Core) (j : Nat) : (k.retire j).ctolFp16 = k.ctolFp16 := by simp [Core.retire]
@[simp] theorem Core.retire_ctolBf16 (k : Core) (j : Nat) : (k.retire j).ctolBf16 = k.ctolBf16 := by simp [Core.retire]
@[simp] theorem Core.retire_fstat (k : Core) (j : Nat) : (k.retire j).fstat = k.fstat := by simp [Core.retire]
@[simp] theorem Core.retire_mmWait (k : Core) (j : Nat) : (k.retire j).mmWait = k.mmWait := by simp [Core.retire]
@[simp] theorem Core.retire_group (k : Core) (j : Nat) : (k.retire j).group = k.group := by simp [Core.retire]
@[simp] theorem Core.retire_groupClosed (k : Core) (j : Nat) : (k.retire j).groupClosed = k.groupClosed := by simp [Core.retire]
@[simp] theorem Core.retire_passes (k : Core) (j : Nat) : (k.retire j).passes = k.passes := by simp [Core.retire]
@[simp] theorem Core.retire_lastCtx (k : Core) (j : Nat) : (k.retire j).lastCtx = k.lastCtx := by simp [Core.retire]
@[simp] theorem Core.retire_retained (k : Core) (j : Nat) : (k.retire j).retained = k.retained := by simp [Core.retire]
@[simp] theorem Core.retire_pgIdle (k : Core) (j : Nat) : (k.retire j).pgIdle = k.pgIdle := by simp [Core.retire]
@[simp] theorem Core.retire_xkeep (k : Core) (j : Nat) : (k.retire j).xkeep = k.xkeep := by simp [Core.retire]
@[simp] theorem Core.retire_gkeep (k : Core) (j : Nat) : (k.retire j).gkeep = k.gkeep := by simp [Core.retire]
@[simp] theorem Core.retire_vxu (k : Core) (j : Nat) : (k.retire j).vxu = k.vxu := by simp [Core.retire]
@[simp] theorem Core.retire_vgu (k : Core) (j : Nat) : (k.retire j).vgu = k.vgu := by simp [Core.retire]
@[simp] theorem Core.retire_ctrSel (k : Core) (j : Nat) : (k.retire j).ctrSel = k.ctrSel := by simp [Core.retire]
@[simp] theorem Core.retire_halted (k : Core) (j : Nat) : (k.retire j).halted = k.halted := by simp [Core.retire]
@[simp] theorem Core.retire_sb (k : Core) (j : Nat) : (k.retire j).sb = k.sb := by simp [Core.retire]
@[simp] theorem Core.retire_l1 (k : Core) (j : Nat) : (k.retire j).l1 = k.l1 := by simp [Core.retire]
@[simp] theorem Core.retire_icache (k : Core) (j : Nat) : (k.retire j).icache = k.icache := by simp [Core.retire]
@[simp] theorem Core.retire_tlb (k : Core) (j : Nat) : (k.retire j).tlb = k.tlb := by simp [Core.retire]
@[simp] theorem Core.retire_cycBase (k : Core) (j : Nat) : (k.retire j).cycBase = k.cycBase := by simp [Core.retire]
@[simp] theorem Core.retire_faults (k : Core) (j : Nat) : (k.retire j).faults = k.faults := by simp [Core.retire]
@[simp] theorem Core.retire_armed (k : Core) (j : Nat) : (k.retire j).armed = k.armed := by simp [Core.retire]
@[simp] theorem Core.retire_lastKind (k : Core) (j : Nat) : (k.retire j).lastKind = k.lastKind := by simp [Core.retire]

@[simp] theorem Core.ctx_countEvent (k : Core) (e : Nat) (j : Option Nat) (n i : Nat) :
    (k.countEvent e j n).ctx i = k.ctx i := by unfold Core.ctx; simp

theorem Core.ctx_retire (k : Core) (j i : Nat) :
    (k.retire j).ctx i = if j = i then { k.ctx j with retired := (k.ctx j).retired + 1 } else k.ctx i := by
  simp [Core.retire, Core.ctx_updCtx]

end Sys2Proof.Machine
end

