-- ==== Sys2Proof/Laws/Issue.lean ====
section
/-! SUPPORT. What the shared operations of instruction words do: issue, commit, the operations on one core or context,
and trace records. -/

namespace Sys2Proof.Machine

/-- A word of its row that its context can issue has the row's effect. -/
theorem State.issue_next {s : State} {row : Row} {c : CtxRef} {w : Word32} (f : State → State) (hc : c.core.toNat < 20)
    (hr : s.ready c = true) (hw : rowOf w = some row) (ha : (s.ctxOf c).awaitsScalar w = false) :
    s.issue row c w f = .next (f s) := by
  have : ¬ 20 ≤ c.core.toNat := by omega
  simp [State.issue, this, hr, hw, ha]

/-- A core that exists. -/
theorem onCore_next {k : CoreRef} (f : Nat → State) (h : k.core.toNat < 20) : onCore k f = .next (f k.key) := by
  have : ¬ 20 ≤ k.core.toNat := by omega
  simp [onCore, this]

/-- A context of a core that exists. -/
theorem onCtx_next {c : CtxRef} (s : State) (h : c.core.toNat < 20) : onCtx c s = .next s := by
  have : ¬ 20 ≤ c.core.toNat := by omega
  simp [onCtx, this]

/-- What the end of an access leaves: only what the die keeps for it changes. -/
theorem State.accessDone_eq (s : State) (e : Engine) (cmd : Option CmdRef) :
    s.accessDone e cmd = { s with dies := (s.accessDone e cmd).dies } := by
  unfold State.accessDone; dsimp only; split <;> rfl

theorem State.ctxDone_eq (s : State) (c : CtxRef) : s.ctxDone c = { s with dies := (s.ctxDone c).dies } :=
  State.accessDone_eq s _ _

@[simp] theorem State.ctxDone_core (s : State) (c : CtxRef) (k : Nat) : (s.ctxDone c).core k = s.core k := by
  rw [State.ctxDone_eq]; rfl

@[simp] theorem State.accessDone_core (s : State) (e : Engine) (cmd : Option CmdRef) (k : Nat) :
    (s.accessDone e cmd).core k = s.core k := by rw [State.accessDone_eq]; rfl

theorem State.ctxOf_updCore (s : State) (c : CtxRef) (f : Core → Core) :
    (s.updCore c.key f).ctxOf c = (f (s.core c.key)).ctx c.idx := by simp [State.ctxOf, State.ctx]

@[simp] theorem State.ctxOf_updCtxOf (s : State) (c : CtxRef) (f : Ctx → Ctx) : (s.updCtxOf c f).ctxOf c = f (s.ctxOf c) := by
  simp [State.ctxOf, State.updCtxOf, State.updCtx, State.ctx]

/-- The registers after a commit. -/
theorem State.commit_ctxOf (s : State) (c : CtxRef) (f : Ctx → Ctx) :
    (s.commit c f).ctxOf c =
      { f { s.ctxOf c with pc := (s.ctxOf c).pc + 4 } with
        retired := (f { s.ctxOf c with pc := (s.ctxOf c).pc + 4 }).retired + 1 } := by
  simp [State.commit, State.ctxOf, State.ctx, Core.ctx_retire]

theorem State.commit_ctx_ne (s : State) (c : CtxRef) (f : Ctx → Ctx) (j : Nat) (h : j ≠ c.idx) :
    (s.commit c f).ctx c.key j = s.ctx c.key j := by
  simp [State.commit, State.ctx, Core.ctx_retire, Ne.symm h]

theorem State.commit_core_ne (s : State) (c : CtxRef) (f : Ctx → Ctx) (k : Nat) (h : k ≠ c.key) :
    (s.commit c f).core k = s.core k := by
  simp [State.commit, Ne.symm h]

/-- A commit changes nothing outside the cores. -/
theorem State.commit_eq (s : State) (c : CtxRef) (f : Ctx → Ctx) :
    s.commit c f = { s with cores := (s.commit c f).cores } := rfl

/-- A commit changes nothing of its core but the context and the programmable counters. -/
theorem State.commit_core (s : State) (c : CtxRef) (f : Ctx → Ctx) :
    (s.commit c f).core c.key =
      { s.core c.key with ctxs := ((s.commit c f).core c.key).ctxs, ctrPc := ((s.commit c f).core c.key).ctrPc } := by
  simp only [State.commit, State.core_updCore_same, Core.retire, Core.countEvent]
  split <;> rfl

end Sys2Proof.Machine
end

