-- ==== Sys2Proof/Laws/Memory.lean ====
section
/-! SUPPORT. The laws of sparse maps and of byte memory: every operation keeps the canonical form, a read after a write
to the same place gives the value written, and a write leaves every other place alone. -/

namespace Sys2Proof.Machine

theorem SMap.rising_mono {α : Type} {m : SMap α} {lo lo' : Nat} (h : lo' ≤ lo) (hm : SMap.rising lo m = true) :
    SMap.rising lo' m = true := by
  cases m with
  | nil => rfl
  | cons p m =>
    simp only [SMap.rising, Bool.and_eq_true, decide_eq_true_eq] at hm ⊢
    exact ⟨by omega, hm.2⟩

theorem SMap.rising_set {α : Type} {m : SMap α} {lo k : Nat} {v : α} (h : lo ≤ k) (hm : SMap.rising lo m = true) :
    SMap.rising lo (SMap.set m k v) = true := by
  induction m generalizing lo with
  | nil => simp [SMap.set, SMap.rising, h]
  | cons p m ih =>
    obtain ⟨j, w⟩ := p
    simp only [SMap.rising, Bool.and_eq_true, decide_eq_true_eq] at hm
    simp only [SMap.set]
    by_cases h1 : k < j
    · simp only [h1, if_true, SMap.rising, Bool.and_eq_true, decide_eq_true_eq]
      exact ⟨h, by omega, hm.2⟩
    · by_cases h2 : j = k
      · simp only [h2, Nat.lt_irrefl, if_false, if_true, SMap.rising, Bool.and_eq_true, decide_eq_true_eq]
        exact ⟨h, h2 ▸ hm.2⟩
      · simp only [h1, h2, if_false, SMap.rising, Bool.and_eq_true, decide_eq_true_eq]
        exact ⟨hm.1, ih (by omega) hm.2⟩

theorem SMap.rising_filter {α : Type} {m : SMap α} {lo : Nat} (p : Nat × α → Bool) (hm : SMap.rising lo m = true) :
    SMap.rising lo (m.filter p) = true := by
  induction m generalizing lo with
  | nil => rfl
  | cons q m ih =>
    obtain ⟨j, w⟩ := q
    simp only [SMap.rising, Bool.and_eq_true, decide_eq_true_eq] at hm
    simp only [List.filter]
    split
    · simp only [SMap.rising, Bool.and_eq_true, decide_eq_true_eq]
      exact ⟨hm.1, ih hm.2⟩
    · exact SMap.rising_mono (by omega) (ih hm.2)

theorem SMap.wf_set {α : Type} {m : SMap α} (k : Nat) (v : α) (hm : SMap.wf m = true) : SMap.wf (SMap.set m k v) = true :=
  SMap.rising_set (Nat.zero_le _) hm

theorem SMap.wf_del {α : Type} {m : SMap α} (k : Nat) (hm : SMap.wf m = true) : SMap.wf (SMap.del m k) = true :=
  SMap.rising_filter _ hm

theorem SMap.wf_clearRange {α : Type} {m : SMap α} (lo n : Nat) (hm : SMap.wf m = true) :
    SMap.wf (SMap.clearRange m lo n) = true := SMap.rising_filter _ hm

theorem SMap.rising_mapVals {α : Type} {m : SMap α} {lo : Nat} (f : Nat → α → α) (hm : SMap.rising lo m = true) :
    SMap.rising lo (SMap.mapVals m f) = true := by
  induction m generalizing lo with
  | nil => rfl
  | cons q m ih =>
    obtain ⟨j, w⟩ := q
    simp only [SMap.rising, Bool.and_eq_true, decide_eq_true_eq] at hm
    simp only [SMap.mapVals, List.map, SMap.rising, Bool.and_eq_true, decide_eq_true_eq]
    exact ⟨hm.1, ih hm.2⟩

theorem SMap.wf_mapVals {α : Type} {m : SMap α} (f : Nat → α → α) (hm : SMap.wf m = true) :
    SMap.wf (SMap.mapVals m f) = true := SMap.rising_mapVals f hm

/-- Below its first key a rising map lists nothing. -/
theorem SMap.find_below {α : Type} {m : SMap α} {lo k : Nat} (hk : k < lo) (hm : SMap.rising lo m = true) :
    SMap.find m k = none := by
  cases m with
  | nil => rfl
  | cons p m =>
    obtain ⟨j, w⟩ := p
    simp only [SMap.rising, Bool.and_eq_true, decide_eq_true_eq] at hm
    have h1 : ¬ j = k := by omega
    have h2 : k < j := by omega
    simp [SMap.find, h1, h2]

theorem SMap.find_filter {α : Type} {m : SMap α} {lo : Nat} (p : Nat → Bool) (k : Nat) (hm : SMap.rising lo m = true) :
    SMap.find (m.filter (fun q => p q.1)) k = if p k then SMap.find m k else none := by
  induction m generalizing lo with
  | nil => simp [SMap.find]
  | cons q m ih =>
    obtain ⟨j, w⟩ := q
    simp only [SMap.rising, Bool.and_eq_true, decide_eq_true_eq] at hm
    simp only [List.filter]
    by_cases hj : j = k
    · subst hj
      cases hp : p j with
      | true => simp [SMap.find]
      | false => rw [ih hm.2]; simp [hp]
    · by_cases hl : k < j
      · have hb : SMap.find m k = none := SMap.find_below (by omega) hm.2
        cases hp : p j with
        | true => simp [SMap.find, hj, hl]
        | false => rw [ih hm.2, hb]; simp [SMap.find, hj, hl]
      · cases hp : p j with
        | true => simp only [SMap.find, hj, hl, if_false]; exact ih hm.2
        | false => rw [ih hm.2]; simp [SMap.find, hj, hl]

theorem SMap.mem_set {α : Type} {m : SMap α} {k : Nat} {v : α} {q : Nat × α} (h : q ∈ SMap.set m k v) :
    q = (k, v) ∨ q ∈ m := by
  induction m with
  | nil => simpa [SMap.set] using h
  | cons p m ih =>
    obtain ⟨j, w⟩ := p
    simp only [SMap.set] at h
    split at h
    · simpa using h
    · split at h
      · rcases List.mem_cons.1 h with h | h
        · exact .inl h
        · exact .inr (List.mem_cons_of_mem _ h)
      · rcases List.mem_cons.1 h with h | h
        · exact .inr (by simp [h])
        · exact (ih h).imp id (List.mem_cons_of_mem _)

theorem Memory.wf_iff (m : Memory) : Memory.wf m = true ↔ SMap.wf m = true ∧ ∀ q ∈ m, q.2 ≠ 0 := by
  simp [Memory.wf, List.all_eq_true]

theorem Memory.wf_nil : Memory.wf [] = true := rfl

theorem Memory.wf_filter {m : Memory} (p : Host.Cell → Bool) (hm : Memory.wf m = true) :
    Memory.wf (m.filter p) = true := by
  rw [Memory.wf_iff] at hm ⊢
  exact ⟨SMap.rising_filter p hm.1, fun q hq => hm.2 q (List.mem_filter.1 hq).1⟩

/-- A write keeps the canonical form. -/
theorem Memory.wf_write {m : Memory} (a : Nat) (b : Byte) (hm : Memory.wf m = true) :
    Memory.wf (Memory.write m a b) = true := by
  unfold Memory.write
  split
  · exact Memory.wf_filter _ hm
  · rename_i hb
    rw [Memory.wf_iff] at hm ⊢
    refine ⟨SMap.wf_set a b hm.1, fun q hq => ?_⟩
    rcases SMap.mem_set hq with h | h
    · subst h; exact hb
    · exact hm.2 q h

theorem Memory.wf_writeBytes {m : Memory} (a : Nat) (bs : List Byte) (hm : Memory.wf m = true) :
    Memory.wf (Memory.writeBytes m a bs) = true := by
  induction bs generalizing m a with
  | nil => exact hm
  | cons b bs ih => exact ih _ (Memory.wf_write a b hm)

theorem Memory.wf_writeLe {m : Memory} (a n v : Nat) (hm : Memory.wf m = true) :
    Memory.wf (Memory.writeLe m a n v) = true := Memory.wf_writeBytes _ _ hm

theorem Memory.wf_zero {m : Memory} (a n : Nat) (hm : Memory.wf m = true) : Memory.wf (Memory.zero m a n) = true :=
  Memory.wf_filter _ hm

/-- A read after a write: the byte written at its place, and every other byte as before. -/
theorem Memory.read_write {m : Memory} (a i : Nat) (b : Byte) (hm : Memory.wf m = true) :
    Memory.read (Memory.write m a b) i = if i = a then b else Memory.read m i := by
  unfold Memory.read Memory.write
  split
  · rename_i hb
    have h := SMap.find_filter (fun j => j != a) i ((Memory.wf_iff m).1 hm).1
    unfold SMap.get SMap.del
    rw [h]
    by_cases hi : i = a <;> simp [hi, hb]
  · rw [SMap.get_set]
    by_cases hi : i = a
    · simp [hi]
    · simp [hi, Ne.symm hi]

/-- A write of bytes leaves every place outside them alone. -/
theorem Memory.read_writeBytes_ne {m : Memory} (a i : Nat) (bs : List Byte) (hm : Memory.wf m = true)
    (h : i < a ∨ a + bs.length ≤ i) : Memory.read (Memory.writeBytes m a bs) i = Memory.read m i := by
  induction bs generalizing m a with
  | nil => rfl
  | cons b bs ih =>
    simp only [List.length_cons] at h
    rw [Memory.writeBytes, ih _ (Memory.wf_write a b hm) (by omega), Memory.read_write a i b hm, if_neg (by omega)]

/-- A read of the bytes written gives them back. -/
theorem Memory.readBytes_writeBytes {m : Memory} (a : Nat) (bs : List Byte) (hm : Memory.wf m = true) :
    Memory.readBytes (Memory.writeBytes m a bs) a bs.length = bs := by
  induction bs generalizing m a with
  | nil => rfl
  | cons b bs ih =>
    rw [List.length_cons, Memory.readBytes, Memory.writeBytes, ih _ (Memory.wf_write a b hm),
      Memory.read_writeBytes_ne _ _ _ (Memory.wf_write a b hm) (by omega), Memory.read_write a a b hm, if_pos rfl]

/-- Zeroing a range: zero inside, every other byte as before. -/
theorem Memory.read_zero {m : Memory} (a n i : Nat) (hm : Memory.wf m = true) :
    Memory.read (Memory.zero m a n) i = if a ≤ i ∧ i < a + n then 0 else Memory.read m i := by
  have h := SMap.find_filter (fun j => decide (j < a ∨ a + n ≤ j)) i ((Memory.wf_iff m).1 hm).1
  unfold Memory.read Memory.zero SMap.clearRange SMap.get
  rw [h]
  by_cases hi : a ≤ i ∧ i < a + n
  · have : ¬ (i < a ∨ a + n ≤ i) := by omega
    simp [hi, this]
  · have : i < a ∨ a + n ≤ i := by omega
    simp [hi, this]

theorem leBytes_length (n v : Nat) : (leBytes n v).length = n := by
  induction n generalizing v with
  | zero => rfl
  | succ n ih => simp [leBytes, ih]

theorem leNat_leBytes (n v : Nat) : leNat (leBytes n v) = v % 256 ^ n := by
  induction n generalizing v with
  | zero => simp [leBytes, leNat, Nat.mod_one]
  | succ n ih =>
    rw [leBytes, leNat, ih, BitVec.toNat_ofNat, Nat.pow_succ 256 n, Nat.mul_comm (256 ^ n) 256, Nat.mod_mul]

/-- A number written and read back. -/
theorem Memory.readLe_writeLe {m : Memory} (a n v : Nat) (hm : Memory.wf m = true) :
    Memory.readLe (Memory.writeLe m a n v) a n = v % 256 ^ n := by
  have h := Memory.readBytes_writeBytes a (leBytes n v) hm
  rw [leBytes_length] at h
  rw [Memory.readLe, Memory.writeLe, h, leNat_leBytes]

theorem State.putMem_wf {s : State} (a : Nat) (bs : List Byte) (h : Memory.wf s.mem = true) :
    Memory.wf (s.putMem a bs).mem = true := Memory.wf_writeBytes _ _ h

theorem State.putMemLe_wf {s : State} (a n v : Nat) (h : Memory.wf s.mem = true) :
    Memory.wf (s.putMemLe a n v).mem = true := Memory.wf_writeLe _ _ _ h

theorem State.zeroMem_wf {s : State} (a n : Nat) (h : Memory.wf s.mem = true) :
    Memory.wf (s.zeroMem a n).mem = true := Memory.wf_zero _ _ h

theorem State.reset_mem_wf : Memory.wf State.reset.mem = true := rfl

end Sys2Proof.Machine
end

