-- ==== Sys2Proof/Laws/Keeps.lean ====
section
/-! SUPPORT. What every operation keeps: the queue of waiting commands, and the canonical form of the memory. One lemma
for each operation, in the order of the definition files. -/

namespace Sys2Proof.Machine

/-- From `s` to `t` the queue is unchanged, and the memory keeps its canonical form. -/
def Keeps (s t : State) : Prop := t.pending = s.pending ∧ (Memory.wf s.mem = true → Memory.wf t.mem = true)

/-- What an access leaves keeps them. -/
def KAcc {α : Type} (s : State) (x : Acc α) : Prop :=
  match x with
  | .ok _ t => Keeps s t
  | .wait t => Keeps s t
  | .trap _ _ t => Keeps s t
  | .page _ _ _ t => Keeps s t
  | .poison _ t => Keeps s t
  | .lost _ t => Keeps s t

/-- A state that may be answered keeps them. -/
def KOpt (s : State) (o : Option State) : Prop := ∀ t, o = some t → Keeps s t

/-- A state that may be answered beside a value keeps them. -/
def KPair {β : Type} (s : State) (o : Option (β × State)) : Prop := ∀ b t, o = some (b, t) → Keeps s t

/-- What a command's meaning answers keeps them. -/
def KRes (s : State) (r : Result) : Prop := ∀ t, r = .next t → Keeps s t

/-- What a message leaves keeps them. -/
def KSend (s : State) (r : SendResult) : Prop := ∀ t, r = .sent t → Keeps s t

/-- What a step of a block-repeat instruction leaves keeps them. -/
def KBr (s : State) (b : BrStep) : Prop := Keeps s b.state

theorem Keeps.rfl' (s : State) : Keeps s s := ⟨rfl, id⟩

theorem keeps_ite {s0 a b : State} {c : Prop} [Decidable c] (ha : c → Keeps s0 a) (hb : ¬c → Keeps s0 b) :
    Keeps s0 (if c then a else b) := by split <;> simp_all

theorem kacc_ite {α : Type} {s0 : State} {a b : Acc α} {c : Prop} [Decidable c] (ha : c → KAcc s0 a) (hb : ¬c → KAcc s0 b) :
    KAcc s0 (if c then a else b) := by split <;> simp_all

theorem kopt_ite {s0 : State} {a b : Option State} {c : Prop} [Decidable c] (ha : c → KOpt s0 a) (hb : ¬c → KOpt s0 b) :
    KOpt s0 (if c then a else b) := by split <;> simp_all

theorem kres_ite {s0 : State} {a b : Result} {c : Prop} [Decidable c] (ha : c → KRes s0 a) (hb : ¬c → KRes s0 b) :
    KRes s0 (if c then a else b) := by split <;> simp_all

theorem ksend_ite {s0 : State} {a b : SendResult} {c : Prop} [Decidable c] (ha : c → KSend s0 a) (hb : ¬c → KSend s0 b) :
    KSend s0 (if c then a else b) := by split <;> simp_all

theorem kbr_ite {s0 : State} {a b : BrStep} {c : Prop} [Decidable c] (ha : c → KBr s0 a) (hb : ¬c → KBr s0 b) :
    KBr s0 (if c then a else b) := by split <;> simp_all

theorem keeps_mk {s0 s : State} (h : Keeps s0 s) {a2 : List Nat} {a3 : SMap FrameUse} {a4 : List Nat} {a5 a6 : Nat}
    {a7 a8 : SMap Byte} {a9 : SMap Core} {a10 : SMap Die} {a11 : SMap Queue} {a12 : List Cmd} {a13 : SMap Func}
    {a14 : SMap Window} {a15 : SMap HostLink} {a16 : Option Nat} {a17 : Fabric} {a18 : SMap Group} {a19 : List LigOp}
    {a20 : List LigMsg} {a21 : Module} {a22 : List HostMsg} {a23 : List Byte} {a24 : SMap Nat} {a25 : Nat} :
    Keeps s0 ⟨s.pending, s.mem, a2, a3, a4, a5, a6, a7, a8, a9, a10, a11, a12, a13, a14, a15, a16, a17, a18, a19, a20, a21,
      a22, a23, a24, a25⟩ := h

theorem keeps_of_eqs {s0 s t : State} (h : Keeps s0 s) (hp : t.pending = s.pending) (hm : t.mem = s.mem) : Keeps s0 t := by
  unfold Keeps at *; rw [hp, hm]; exact h

theorem keeps_mem {s0 s t : State} (h : Keeps s0 s) (hp : t.pending = s.pending)
    (hm : Memory.wf s.mem = true → Memory.wf t.mem = true) : Keeps s0 t := ⟨hp.trans h.1, fun w => hm (h.2 w)⟩

theorem keeps_mkNil {s0 s : State} (h : Keeps s0 s) {a2 : List Nat} {a3 : SMap FrameUse} {a4 : List Nat} {a5 a6 : Nat}
    {a7 a8 : SMap Byte} {a9 : SMap Core} {a10 : SMap Die} {a11 : SMap Queue} {a12 : List Cmd} {a13 : SMap Func}
    {a14 : SMap Window} {a15 : SMap HostLink} {a16 : Option Nat} {a17 : Fabric} {a18 : SMap Group} {a19 : List LigOp}
    {a20 : List LigMsg} {a21 : Module} {a22 : List HostMsg} {a23 : List Byte} {a24 : SMap Nat} {a25 : Nat} :
    Keeps s0 ⟨s.pending, [], a2, a3, a4, a5, a6, a7, a8, a9, a10, a11, a12, a13, a14, a15, a16, a17, a18, a19, a20, a21,
      a22, a23, a24, a25⟩ := keeps_mem h rfl fun _ => rfl

theorem kacc_ok {α : Type} {s0 s : State} {a : α} (h : Keeps s0 s) : KAcc s0 (Acc.ok a s) := h
theorem kacc_wait {α : Type} {s0 s : State} (h : Keeps s0 s) : KAcc s0 (Acc.wait (α := α) s) := h
theorem kacc_trap {α : Type} {s0 s : State} {c : Nat} {a : Word} (h : Keeps s0 s) : KAcc s0 (Acc.trap (α := α) c a s) := h
theorem kacc_page {α : Type} {s0 s : State} {c a : Nat} {w : Bool} (h : Keeps s0 s) :
    KAcc s0 (Acc.page (α := α) c a w s) := h
theorem kacc_poison {α : Type} {s0 s : State} {a : Nat} (h : Keeps s0 s) : KAcc s0 (Acc.poison (α := α) a s) := h
theorem kacc_lost {α : Type} {s0 s : State} {a : Nat} (h : Keeps s0 s) : KAcc s0 (Acc.lost (α := α) a s) := h

theorem kacc_ok_eq {α : Type} {s0 t : State} {a : α} {x : Acc α} (e : x = .ok a t) (h : KAcc s0 x) : Keeps s0 t := by
  subst e; exact h
theorem kacc_wait_eq {α : Type} {s0 t : State} {x : Acc α} (e : x = .wait t) (h : KAcc s0 x) : Keeps s0 t := by
  subst e; exact h
theorem kacc_trap_eq {α : Type} {s0 t : State} {c : Nat} {a : Word} {x : Acc α} (e : x = .trap c a t) (h : KAcc s0 x) :
    Keeps s0 t := by subst e; exact h
theorem kacc_page_eq {α : Type} {s0 t : State} {c a : Nat} {w : Bool} {x : Acc α} (e : x = .page c a w t) (h : KAcc s0 x) :
    Keeps s0 t := by subst e; exact h
theorem kacc_poison_eq {α : Type} {s0 t : State} {a : Nat} {x : Acc α} (e : x = .poison a t) (h : KAcc s0 x) :
    Keeps s0 t := by subst e; exact h
theorem kacc_lost_eq {α : Type} {s0 t : State} {a : Nat} {x : Acc α} (e : x = .lost a t) (h : KAcc s0 x) : Keeps s0 t := by
  subst e; exact h
theorem kopt_eq {s0 t : State} {o : Option State} (e : o = some t) (h : KOpt s0 o) : Keeps s0 t := h t e
theorem ksend_eq {s0 t : State} {o : SendResult} (e : o = .sent t) (h : KSend s0 o) : Keeps s0 t := h t e
theorem kbr_more_eq {s0 t : State} {o : BrStep} (e : o = .more t) (h : KBr s0 o) : Keeps s0 t := by subst e; exact h
theorem kbr_over_eq {s0 t : State} {o : BrStep} (e : o = .ended t) (h : KBr s0 o) : Keeps s0 t := by subst e; exact h

theorem kopt_some {s0 s : State} (h : Keeps s0 s) : KOpt s0 (some s) := fun _ e => Option.some.inj e ▸ h
theorem kopt_none {s0 : State} : KOpt s0 none := fun _ e => absurd e (Option.some_ne_none _).symm
theorem kopt_bind {α : Type} {s0 : State} {o : Option α} {f : α → Option State} (h : ∀ a, o = some a → KOpt s0 (f a)) :
    KOpt s0 (o.bind f) := by
  cases o with
  | none => exact kopt_none
  | some a => exact h a rfl
theorem kopt_map {α : Type} {s0 : State} {o : Option α} {f : α → State} (h : ∀ a, Keeps s0 (f a)) :
    KOpt s0 (o.map f) := by
  cases o with
  | none => exact kopt_none
  | some a => exact kopt_some (h a)
theorem keeps_getD {s0 s : State} {o : Option State} (h : KOpt s0 o) (hs : Keeps s0 s) : Keeps s0 (o.getD s) := by
  cases o with
  | none => exact hs
  | some a => exact h a rfl
theorem kpair_some {β : Type} {s0 s : State} {b : β} (h : Keeps s0 s) : KPair s0 (some (b, s)) := fun _ _ e => by
  cases e; exact h
theorem kpair_none {β : Type} {s0 : State} : KPair (β := β) s0 none := fun _ _ e => absurd e (Option.some_ne_none _).symm
theorem kpair_eq {β : Type} {s0 t : State} {b : β} {o : Option (β × State)} (e : o = some (b, t)) (h : KPair s0 o) :
    Keeps s0 t := h b t e
theorem kpair_bind {β γ : Type} {s0 : State} {o : Option (β × State)} {f : β × State → Option (γ × State)}
    (h : KPair s0 o) (hf : ∀ p, Keeps s0 p.2 → KPair s0 (f p)) : KPair s0 (o.bind f) := by
  cases o with
  | none => exact kpair_none
  | some p => exact hf p (h p.1 p.2 rfl)
theorem kpair_map {α β : Type} {s0 : State} {o : Option α} {f : α → β × State} (h : ∀ a, Keeps s0 (f a).2) :
    KPair s0 (o.map f) := by
  cases o with
  | none => exact kpair_none
  | some a => exact kpair_some (h a)
theorem kpair_ite {β : Type} {s0 : State} {a b : Option (β × State)} {c : Prop} [Decidable c] (ha : c → KPair s0 a)
    (hb : ¬c → KPair s0 b) : KPair s0 (if c then a else b) := by split <;> simp_all
theorem kpair_foldl {α β : Type} {s0 : State} {o : Option (β × State)} {f : Option (β × State) → α → Option (β × State)}
    {l : List α} (h : KPair s0 o) (hf : ∀ t x, KPair s0 t → KPair s0 (f t x)) : KPair s0 (l.foldl f o) := by
  induction l generalizing o with
  | nil => exact h
  | cons x l ih => exact ih (hf o x h)
theorem kres_next {s0 s : State} (h : Keeps s0 s) : KRes s0 (.next s) := fun _ e => Host.Outcome.next.inj e ▸ h
theorem kres_fault {s0 : State} {f : Fault} : KRes s0 (.fault f) := fun _ e => Host.Outcome.noConfusion rfl rfl rfl (heq_of_eq e)
theorem ksend_sent {s0 s : State} (h : Keeps s0 s) : KSend s0 (.sent s) := fun _ e => SendResult.sent.inj e ▸ h
theorem ksend_full {s0 : State} : KSend s0 .full := fun _ e => SendResult.noConfusion e
theorem ksend_noRoute {s0 : State} : KSend s0 .noRoute := fun _ e => SendResult.noConfusion e
theorem kbr_more {s0 s : State} (h : Keeps s0 s) : KBr s0 (.more s) := h
theorem kbr_over {s0 s : State} (h : Keeps s0 s) : KBr s0 (.ended s) := h

theorem keeps_foldl {α : Type} {s0 s : State} {f : State → α → State} {l : List α} (h : Keeps s0 s)
    (hf : ∀ t x, Keeps s0 t → Keeps s0 (f t x)) : Keeps s0 (l.foldl f s) := by
  induction l generalizing s with
  | nil => exact h
  | cons x l ih => exact ih (hf s x h)

theorem keeps_foldl_fst {α β : Type} {s0 : State} {p : State × β} {f : State × β → α → State × β} {l : List α}
    (h : Keeps s0 p.1) (hf : ∀ t x, Keeps s0 t.1 → Keeps s0 (f t x).1) : Keeps s0 (l.foldl f p).1 := by
  induction l generalizing p with
  | nil => exact h
  | cons x l ih => exact ih (hf p x h)

theorem kopt_foldl {α : Type} {s0 : State} {o : Option State} {f : Option State → α → Option State} {l : List α}
    (h : KOpt s0 o) (hf : ∀ t x, KOpt s0 t → KOpt s0 (f t x)) : KOpt s0 (l.foldl f o) := by
  induction l generalizing o with
  | nil => exact h
  | cons x l ih => exact ih (hf o x h)

theorem keeps_fst {β : Type} {s0 t : State} {b : β} {p : State × β} (e : p = (t, b)) (h : Keeps s0 p.1) : Keeps s0 t := by
  subst e; exact h
theorem keeps_snd {β : Type} {s0 t : State} {b : β} {p : β × State} (e : p = (b, t)) (h : Keeps s0 p.2) : Keeps s0 t := by
  subst e; exact h

theorem repeatFrom_keeps {s0 : State} {f : Nat → State → State} (hf : ∀ k t, Keeps s0 t → Keeps s0 (f k t)) (n : Nat) :
    ∀ (k : Nat) (s : State), Keeps s0 s → Keeps s0 (repeatFrom f k n s) := by
  induction n with
  | zero => exact fun _ _ h => h
  | succ n ih => exact fun k s h => ih (k + 1) _ (hf k s h)

theorem forN_keeps {s0 s : State} {n : Nat} {f : Nat → State → State} (hf : ∀ k t, Keeps s0 t → Keeps s0 (f k t))
    (h : Keeps s0 s) : Keeps s0 (forN n f s) := repeatFrom_keeps hf n 0 s h

/-! Ops.lean. -/

theorem State.updCore_keeps {s0 s : State} (hk : Keeps s0 s) (k : Nat) (f : Core → Core) :
    Keeps s0 (State.updCore s k f) := by
  unfold State.updCore
  repeat' first
    | with_reducible first | assumption | intro _
    | dsimp only | with_reducible apply keeps_mk

theorem State.updCtx_keeps {s0 s : State} (hk : Keeps s0 s) (k : Nat) (j : Nat) (f : Ctx → Ctx) :
    Keeps s0 (State.updCtx s k j f) := by
  unfold State.updCtx
  repeat' first
    | with_reducible first | assumption | apply State.updCore_keeps | intro _
    | dsimp only

theorem State.updDie_keeps {s0 s : State} (hk : Keeps s0 s) (d : Nat) (f : Die → Die) :
    Keeps s0 (State.updDie s d f) := by
  unfold State.updDie
  repeat' first
    | with_reducible first | assumption | intro _
    | dsimp only | with_reducible apply keeps_mk

theorem State.updFunc_keeps {s0 s : State} (hk : Keeps s0 s) (n : Nat) (f : Func → Func) :
    Keeps s0 (State.updFunc s n f) := by
  unfold State.updFunc
  repeat' first
    | with_reducible first | assumption | intro _
    | dsimp only | with_reducible apply keeps_mk

theorem State.updQueue_keeps {s0 s : State} (hk : Keeps s0 s) (q : Nat) (f : Queue → Queue) :
    Keeps s0 (State.updQueue s q f) := by
  unfold State.updQueue
  repeat' first
    | with_reducible first | assumption | intro _
    | dsimp only | with_reducible apply keeps_mk

theorem State.updLink_keeps {s0 s : State} (hk : Keeps s0 s) (h : Nat) (f : HostLink → HostLink) :
    Keeps s0 (State.updLink s h f) := by
  unfold State.updLink
  repeat' first
    | with_reducible first | assumption | intro _
    | dsimp only | with_reducible apply keeps_mk

theorem State.updWindow_keeps {s0 s : State} (hk : Keeps s0 s) (w : Nat) (f : Window → Window) :
    Keeps s0 (State.updWindow s w f) := by
  unfold State.updWindow
  repeat' first
    | with_reducible first | assumption | intro _
    | dsimp only | with_reducible apply keeps_mk

theorem State.updGroup_keeps {s0 s : State} (hk : Keeps s0 s) (g : Nat) (f : Group → Group) :
    Keeps s0 (State.updGroup s g f) := by
  unfold State.updGroup
  repeat' first
    | with_reducible first | assumption | intro _
    | dsimp only | with_reducible apply keeps_mk

theorem State.updMod_keeps {s0 s : State} (hk : Keeps s0 s) (f : Module → Module) :
    Keeps s0 (State.updMod s f) := by
  unfold State.updMod
  repeat' first
    | with_reducible first | assumption | intro _
    | dsimp only | with_reducible apply keeps_mk

theorem State.updFab_keeps {s0 s : State} (hk : Keeps s0 s) (f : Fabric → Fabric) :
    Keeps s0 (State.updFab s f) := by
  unfold State.updFab
  repeat' first
    | with_reducible first | assumption | intro _
    | dsimp only | with_reducible apply keeps_mk

theorem State.updPort_keeps {s0 s : State} (hk : Keeps s0 s) (p : Nat) (f : Port → Port) :
    Keeps s0 (State.updPort s p f) := by
  unfold State.updPort
  repeat' first
    | with_reducible first | assumption | apply State.updFab_keeps | intro _
    | dsimp only

theorem State.updCmd_keeps {s0 s : State} (hk : Keeps s0 s) (r : CmdRef) (f : Cmd → Cmd) :
    Keeps s0 (State.updCmd s r f) := by
  unfold State.updCmd
  repeat' first
    | with_reducible first | assumption | intro _
    | dsimp only | with_reducible apply keeps_mk

theorem State.putMem_keeps {s0 s : State} (h : Keeps s0 s) (a : Nat) (bs : List Byte) : Keeps s0 (s.putMem a bs) :=
  keeps_mem h rfl (Memory.wf_writeBytes a bs)

theorem State.putMemLe_keeps {s0 s : State} (h : Keeps s0 s) (a n v : Nat) : Keeps s0 (s.putMemLe a n v) :=
  keeps_mem h rfl (Memory.wf_writeLe a n v)

theorem State.zeroMem_keeps {s0 s : State} (h : Keeps s0 s) (a n : Nat) : Keeps s0 (s.zeroMem a n) :=
  keeps_mem h rfl (Memory.wf_zero a n)

theorem State.putHost_keeps {s0 s : State} (hk : Keeps s0 s) (link : Nat) (addr : Nat) (bs : List Byte) :
    Keeps s0 (State.putHost s link addr bs) := by
  unfold State.putHost
  repeat' first
    | with_reducible first | assumption | intro _
    | dsimp only | with_reducible apply keeps_mk

theorem State.fresh_keeps {s0 s : State} (hk : Keeps s0 s) : Keeps s0 (State.fresh s).2 := by
  unfold State.fresh
  repeat' first
    | with_reducible first | assumption | intro _
    | dsimp only | with_reducible apply keeps_mk

theorem State.sendMsix_keeps {s0 s : State} (hk : Keeps s0 s) (n : Nat) (v : Nat) :
    Keeps s0 (State.sendMsix s n v) := by
  unfold State.sendMsix
  try dsimp only
  repeat' first
    | with_reducible first | assumption | intro _
    | dsimp only | with_reducible apply keeps_mk

theorem State.raiseVec_keeps {s0 s : State} (hk : Keeps s0 s) (n : Nat) (v : Nat) :
    Keeps s0 (State.raiseVec s n v) := by
  unfold State.raiseVec
  repeat' first
    | with_reducible first | assumption | apply keeps_ite | apply State.updFunc_keeps | apply State.sendMsix_keeps
                             | intro _
    | split | dsimp only

theorem State.aerLog_keeps {s0 s : State} (hk : Keeps s0 s) (n : Nat) (kind : Nat) :
    Keeps s0 (State.aerLog s n kind) := by
  unfold State.aerLog
  repeat' first
    | with_reducible first | assumption | intro _
    | dsimp only | with_reducible apply keeps_mk

theorem State.putRecord_keeps {s0 s : State} (hk : Keeps s0 s) (n : Nat) (bytes : List Byte) :
    Keeps s0 (State.putRecord s n bytes) := by
  unfold State.putRecord
  try dsimp only
  repeat' first
    | with_reducible first | assumption | apply State.updFunc_keeps | apply State.putHost_keeps
                             | apply State.raiseVec_keeps | intro _
    | dsimp only

theorem State.record_keeps {s0 s : State} (hk : Keeps s0 s) (n : Nat) (bytes : List Byte) :
    Keeps s0 (State.record s n bytes) := by
  unfold State.record
  try dsimp only
  repeat' first
    | with_reducible first | assumption | apply keeps_ite | apply State.updFunc_keeps | apply State.putRecord_keeps
                             | intro _
    | split | dsimp only

theorem State.moduleEvent_keeps {s0 s : State} (hk : Keeps s0 s) (event : Nat) (addr : Nat) :
    Keeps s0 (State.moduleEvent s event addr) := by
  unfold State.moduleEvent
  repeat' first
    | with_reducible first | assumption | apply State.record_keeps | intro _
    | split | dsimp only

theorem State.countDie_keeps {s0 s : State} (hk : Keeps s0 s) (d : Nat) (off : Nat) (n : Nat) :
    Keeps s0 (State.countDie s d off n) := by
  unfold State.countDie
  repeat' first
    | with_reducible first | assumption | apply State.updDie_keeps | intro _
    | dsimp only

theorem State.countFunc_keeps {s0 s : State} (hk : Keeps s0 s) (f : Nat) (off : Nat) (n : Nat) :
    Keeps s0 (State.countFunc s f off n) := by
  unfold State.countFunc
  repeat' first
    | with_reducible first | assumption | apply State.updFunc_keeps | intro _
    | dsimp only

theorem State.updCoreTimed_keeps {s0 s : State} (hk : Keeps s0 s) (k : Nat) (f : Core → Core) :
    Keeps s0 (State.updCoreTimed s k f) := by
  unfold State.updCoreTimed
  try dsimp only
  repeat' first
    | with_reducible first | assumption | apply State.updCore_keeps | intro _
    | dsimp only

/-! Link.lean. -/

theorem State.enqueue_keeps {s0 s : State} (hk : Keeps s0 s) (p : Nat) (it : TxItem) :
    Keeps s0 (State.enqueue s p it) := by
  unfold State.enqueue
  repeat' first
    | with_reducible first | assumption | apply State.updPort_keeps | intro _
    | dsimp only

theorem State.sendPlain_keeps {s0 s : State} (hk : Keeps s0 s) (sd : Sender) (h : MsgHdr) (payload : List Byte) :
    KSend s0 (State.sendPlain s sd h payload) := by
  unfold State.sendPlain
  try dsimp only
  repeat' first
    | with_reducible first | assumption | apply ksend_ite | apply keeps_ite | apply State.enqueue_keeps
                             | apply ksend_sent | apply ksend_noRoute | intro _
    | split | dsimp only | with_reducible apply keeps_mk

theorem State.sendMsg_keeps {s0 s : State} (hk : Keeps s0 s) (sd : Sender) (h : MsgHdr) (payload : List Byte) :
    KSend s0 (State.sendMsg s sd h payload) := by
  unfold State.sendMsg
  try dsimp only
  repeat' first
    | with_reducible first | assumption | apply ksend_ite | apply State.updFab_keeps | apply State.sendPlain_keeps
                             | apply ksend_sent | apply ksend_full | refine ksend_eq (by assumption) ?_ | intro _
    | split | dsimp only

theorem State.withdrawIf_keeps {s0 s : State} (hk : Keeps s0 s) (p : Option CmdRef → Option Engine → Bool) :
    Keeps s0 (State.withdrawIf s p) := by
  unfold State.withdrawIf
  repeat' first
    | with_reducible first | assumption | apply State.updFab_keeps | intro _
    | dsimp only | with_reducible apply keeps_mk

theorem State.withdraw_keeps {s0 s : State} (hk : Keeps s0 s) (r : CmdRef) : Keeps s0 (State.withdraw s r) := by
  unfold State.withdraw
  repeat' first
    | with_reducible first | assumption | apply State.withdrawIf_keeps | apply keeps_getD | intro _
    | dsimp only

theorem State.sendWrite_keeps {s0 s : State} (hk : Keeps s0 s) (sd : Sender) (module : Nat) (window : Nat)
    (offset : Nat) (payload : List Byte) : KSend s0 (State.sendWrite s sd module window offset payload) := by
  unfold State.sendWrite
  repeat' first
    | with_reducible first | assumption | apply State.sendMsg_keeps | intro _
    | dsimp only

theorem State.sendRead_keeps {s0 s : State} (hk : Keeps s0 s) (sd : Sender) (e : Engine) (die : Nat) (module : Nat)
    (window : Nat) (offset : Nat) (bytes : Nat) :
    KSend s0 (State.sendRead s sd e die module window offset bytes) := by
  unfold State.sendRead
  try dsimp only
  repeat' first
    | with_reducible first | assumption | apply State.updFab_keeps | apply State.sendMsg_keeps | apply ksend_sent
                             | refine ksend_eq (by assumption) ?_ | intro _
    | split | dsimp only

theorem State.sendNotice_keeps {s0 s : State} (hk : Keeps s0 s) (h : MsgHdr) (code : Nat) :
    Keeps s0 (State.sendNotice s h code) := by
  unfold State.sendNotice
  repeat' first
    | with_reducible first | assumption | apply State.sendPlain_keeps | refine ksend_eq (by assumption) ?_ | intro _
    | split | dsimp only

/-! Cache.lean. -/

theorem State.updCache_keeps {s0 s : State} (hk : Keeps s0 s) (spa : Nat) (fn : Nat) (f : Die → Die) :
    Keeps s0 (State.updCache s spa fn f) := by
  unfold State.updCache
  try dsimp only
  repeat' first
    | with_reducible first | assumption | apply State.updDie_keeps | apply State.countFunc_keeps | apply keeps_foldl
                             | intro _
    | dsimp only

theorem State.arrive_keeps {s0 s : State} (hk : Keeps s0 s) (e : Engine) (l : Loc) :
    Keeps s0 (State.arrive s e l) := by
  unfold State.arrive
  repeat' first
    | with_reducible first | assumption | apply keeps_ite | apply State.updDie_keeps | intro _
    | split | dsimp only | with_reducible apply keeps_mk

theorem State.accessDone_keeps {s0 s : State} (hk : Keeps s0 s) (e : Engine) (cmd : Option CmdRef) :
    Keeps s0 (State.accessDone s e cmd) := by
  unfold State.accessDone
  try dsimp only
  repeat' first
    | with_reducible first | assumption | apply keeps_ite | apply State.updDie_keeps | intro _
    | split | dsimp only | with_reducible apply keeps_mk

theorem State.forgetReads_keeps {s0 s : State} (hk : Keeps s0 s) (gone : Engine → Bool) :
    Keeps s0 (State.forgetReads s gone) := by
  unfold State.forgetReads
  try dsimp only
  repeat' first
    | with_reducible first | assumption | intro _
    | dsimp only | with_reducible apply keeps_mk

theorem State.countLine_keeps {s0 s : State} (hk : Keeps s0 s) (e : Engine) (spa : Nat) (event : Nat) :
    Keeps s0 (State.countLine s e spa event) := by
  unfold State.countLine
  repeat' first
    | with_reducible first | assumption | apply keeps_ite | apply State.updCore_keeps | intro _
    | split | dsimp only

theorem State.askLine_keeps {s0 s : State} (hk : Keeps s0 s) (e : Engine) (fn : Nat) (hint : Nat) (spa : Nat) :
    Keeps s0 (State.askLine s e fn hint spa).2 := by
  unfold State.askLine
  try dsimp only
  repeat' first
    | with_reducible first | assumption | apply keeps_ite | apply State.updDie_keeps | apply State.updCache_keeps
                             | apply State.countLine_keeps | intro _
    | split | dsimp only

theorem State.stackRead_keeps {s0 s : State} (hk : Keeps s0 s) (e : Engine) (fn : Nat) (hint : Nat) (spa : Nat)
    (n : Nat) :
    Keeps s0 (State.stackRead s e fn hint spa n).2 := by
  unfold State.stackRead
  try dsimp only
  repeat' first
    | with_reducible first | assumption | apply keeps_ite | apply State.askLine_keeps | apply keeps_foldl
                             | refine keeps_snd (by assumption) ?_ | intro _
    | split | dsimp only

theorem State.cacheRead_keeps {s0 s : State} (hk : Keeps s0 s) (spa : Nat) (n : Nat) (fn : Nat) (hint : Nat) :
    Keeps s0 (State.cacheRead s spa n fn hint) := by
  unfold State.cacheRead
  repeat' first
    | with_reducible first | assumption | apply State.updDie_keeps | apply State.updCache_keeps | apply keeps_foldl
                             | intro _
    | split | dsimp only

theorem State.wroteLine_keeps {s0 s : State} (hk : Keeps s0 s) (spa : Nat) (n : Nat) :
    Keeps s0 (State.wroteLine s spa n) := by
  unfold State.wroteLine
  repeat' first
    | with_reducible first | assumption | apply keeps_ite | intro _
    | split | dsimp only | with_reducible apply keeps_mk

theorem State.stackWrite_keeps {s0 s : State} (hk : Keeps s0 s) (spa : Nat) (n : Nat) (fn : Nat) (hint : Nat) :
    KOpt s0 (State.stackWrite s spa n fn hint) := by
  unfold State.stackWrite
  repeat' first
    | with_reducible first | assumption | apply State.updCache_keeps | apply State.wroteLine_keeps | apply kopt_foldl
                             | apply kopt_some | apply kopt_none | apply kopt_bind | apply kopt_map
                             | refine kopt_eq (by assumption) ?_ | intro _
    | dsimp only

theorem State.cacheWrite_keeps {s0 s : State} (hk : Keeps s0 s) (spa : Nat) (n : Nat) (fn : Nat) (hint : Nat) :
    Keeps s0 (State.cacheWrite s spa n fn hint) := by
  unfold State.cacheWrite
  repeat' first
    | with_reducible first | assumption | apply State.updCache_keeps | apply State.wroteLine_keeps | apply keeps_foldl
                             | apply keeps_getD | intro _
    | dsimp only

theorem State.discardLine_keeps {s0 s : State} (hk : Keeps s0 s) (spa : Nat) :
    Keeps s0 (State.discardLine s spa) := by
  unfold State.discardLine
  try dsimp only
  repeat' first
    | with_reducible first | assumption | apply State.updDie_keeps | apply State.zeroMem_keeps | intro _
    | dsimp only | with_reducible apply keeps_mk

/-! Mem.lean. -/

theorem Acc.bind_keeps {α β : Type} {s0 : State} {x : Acc α} {f : α → State → Acc β} (h : KAcc s0 x)
    (hf : ∀ a t, Keeps s0 t → KAcc s0 (f a t)) : KAcc s0 (x.bind f) := by
  cases x with
  | ok a t => exact hf a t h
  | _ => exact h

theorem accCollect_keeps {β γ : Type} {s0 s : State} {f : β → State → Acc (List γ)} {l : List β} (h : Keeps s0 s)
    (hf : ∀ a t, Keeps s0 t → KAcc s0 (f a t)) : KAcc s0 (accCollect f l s) := by
  induction l generalizing s with
  | nil => exact h
  | cons x l ih => exact Acc.bind_keeps (hf _ _ h) fun _ _ h => Acc.bind_keeps (ih h) fun _ _ h => h

theorem accEach_keeps {β : Type} {s0 s : State} {f : β → State → Acc Unit} {l : List β} (h : Keeps s0 s)
    (hf : ∀ a t, Keeps s0 t → KAcc s0 (f a t)) : KAcc s0 (accEach f l s) := by
  induction l generalizing s with
  | nil => exact h
  | cons x l ih => exact Acc.bind_keeps (hf _ _ h) fun _ _ h => ih h

theorem State.walkTouch_keeps {s0 s : State} (hk : Keeps s0 s) (fn : Nat) (va : Nat) :
    Keeps s0 (State.walkTouch s fn va) := by
  unfold State.walkTouch
  try dsimp only
  repeat' first
    | with_reducible first | assumption | apply keeps_ite | apply State.cacheRead_keeps | intro _
    | split | dsimp only

theorem State.fillCoreTlb_keeps {s0 s : State} (hk : Keeps s0 s) (ag : Agent) (t : TlbEntry) :
    Keeps s0 (State.fillCoreTlb s ag t) := by
  unfold State.fillCoreTlb
  repeat' first
    | with_reducible first | assumption | apply State.updCore_keeps | intro _
    | split | dsimp only | with_reducible apply keeps_mk

theorem State.fillDieTlb_keeps {s0 s : State} (hk : Keeps s0 s) (die : Nat) (t : TlbEntry) :
    Keeps s0 (State.fillDieTlb s die t) := by
  unfold State.fillDieTlb
  repeat' first
    | with_reducible first | assumption | apply State.updDie_keeps | intro _
    | dsimp only | with_reducible apply keeps_mk

theorem State.fillWalkCache_keeps {s0 s : State} (hk : Keeps s0 s) (die : Nat) (fn : Nat) (va : Nat) (e1 : Nat) :
    Keeps s0 (State.fillWalkCache s die fn va e1) := by
  unfold State.fillWalkCache
  try dsimp only
  repeat' first
    | with_reducible first | assumption | apply State.updDie_keeps | intro _
    | dsimp only | with_reducible apply keeps_mk

theorem State.tableRead_keeps {s0 s : State} (hk : Keeps s0 s) (ag : Agent) (a : Nat) :
    KAcc s0 (State.tableRead s ag a) := by
  unfold State.tableRead
  try dsimp only
  repeat' first
    | with_reducible first | assumption | apply kacc_ite | apply keeps_ite | apply State.stackRead_keeps
                             | apply kacc_ok | apply kacc_wait | apply kacc_poison
                             | refine keeps_snd (by assumption) ?_ | intro _
    | split | dsimp only

theorem State.walkReads_keeps {s0 s : State} (hk : Keeps s0 s) (ag : Agent) (va : Nat) (wr : Bool) :
    KAcc s0 (State.walkReads s ag va wr) := by
  unfold State.walkReads
  try dsimp only
  repeat' first
    | with_reducible first | assumption | apply kacc_ite | apply keeps_ite | apply State.fillWalkCache_keeps
                             | apply State.tableRead_keeps | apply Acc.bind_keeps | apply kacc_ok | apply kacc_page
                             | intro _
    | split | dsimp only

theorem State.walkFor_keeps {s0 s : State} (hk : Keeps s0 s) (ag : Agent) (va : Nat) (wr : Bool) :
    KAcc s0 (State.walkFor s ag va wr) := by
  unfold State.walkFor
  try dsimp only
  repeat' first
    | with_reducible first | assumption | apply kacc_ite | apply keeps_ite | apply State.updDie_keeps
                             | apply State.countDie_keeps | apply State.walkReads_keeps | apply kacc_ok
                             | apply kacc_wait | apply kacc_trap | apply kacc_page | apply kacc_poison
                             | apply kacc_lost | refine kacc_ok_eq (by assumption) ?_
                             | refine kacc_wait_eq (by assumption) ?_ | refine kacc_trap_eq (by assumption) ?_
                             | refine kacc_page_eq (by assumption) ?_ | refine kacc_poison_eq (by assumption) ?_
                             | refine kacc_lost_eq (by assumption) ?_ | intro _
    | split | dsimp only | with_reducible apply keeps_mk

theorem State.grant_keeps {s0 s : State} (hk : Keeps s0 s) (ag : Agent) (t : TlbEntry) (va : Nat) (a : Access) :
    KAcc s0 (State.grant s ag t va a) := by
  unfold State.grant
  repeat' first
    | with_reducible first | assumption | apply kacc_ok | apply kacc_page | intro _
    | split | dsimp only

theorem State.locate_keeps {s0 s : State} (hk : Keeps s0 s) (ag : Agent) (va : Nat) (a : Access) :
    KAcc s0 (State.locate s ag va a) := by
  unfold State.locate
  try dsimp only
  repeat' first
    | with_reducible first | assumption | apply State.fillCoreTlb_keeps | apply State.fillDieTlb_keeps
                             | apply State.walkFor_keeps | apply State.grant_keeps | apply Acc.bind_keeps
                             | apply kacc_ok | intro _
    | split | dsimp only

theorem State.hotNotice_keeps {s0 s : State} (hk : Keeps s0 s) (ag : Agent) (wr : Bool) (page : Nat) (count : Nat) :
    Keeps s0 (State.hotNotice s ag wr page count) := by
  unfold State.hotNotice
  repeat' first
    | with_reducible first | assumption | apply State.record_keeps | apply keeps_getD | intro _
    | dsimp only

theorem State.countHostLine_keeps {s0 s : State} (hk : Keeps s0 s) (ag : Agent) (wr : Bool) (va : Nat) :
    Keeps s0 (State.countHostLine s ag wr va) := by
  unfold State.countHostLine
  try dsimp only
  repeat' first
    | with_reducible first | assumption | apply keeps_ite | apply State.updDie_keeps | apply State.hotNotice_keeps
                             | apply State.noticed_keeps | apply keeps_getD | intro _
    | split | dsimp only | with_reducible apply keeps_mk

theorem State.askHost_keeps {s0 s : State} (hk : Keeps s0 s) (link : Nat) (r : DevRead) :
    Keeps s0 (State.askHost s link r) := by
  unfold State.askHost
  try dsimp only
  repeat' first
    | with_reducible first | assumption | apply keeps_ite | apply State.updLink_keeps | intro _
    | split | dsimp only | with_reducible apply keeps_mk

theorem State.readHostPiece_keeps {s0 s : State} (hk : Keeps s0 s) (ag : Agent) (va : Nat) (link : Nat)
    (addr : Nat) (n : Nat) :
    KAcc s0 (State.readHostPiece s ag va link addr n) := by
  unfold State.readHostPiece
  try dsimp only
  repeat' first
    | with_reducible first | assumption | apply kacc_ite | apply keeps_ite | apply State.arrive_keeps
                             | apply State.countHostLine_keeps | apply State.askHost_keeps | apply Acc.bind_keeps
                             | apply kacc_ok | apply kacc_wait | intro _
    | split | dsimp only

theorem State.readRemotePiece_keeps {s0 s : State} (hk : Keeps s0 s) (ag : Agent) (va : Nat) (m : Nat) (w : Nat)
    (o : Nat) (n : Nat) : KAcc s0 (State.readRemotePiece s ag va m w o n) := by
  unfold State.readRemotePiece
  try dsimp only
  repeat' first
    | with_reducible first | assumption | apply kacc_ite | apply State.sendRead_keeps | apply kacc_ok
                             | apply kacc_wait | apply kacc_lost | refine ksend_eq (by assumption) ?_ | intro _
    | split | dsimp only

theorem State.readLoc_keeps {s0 s : State} (hk : Keeps s0 s) (ag : Agent) (va : Nat) (l : Loc) (n : Nat) :
    KAcc s0 (State.readLoc s ag va l n) := by
  unfold State.readLoc
  try dsimp only
  repeat' first
    | with_reducible first | assumption | apply kacc_ite | apply keeps_ite | apply State.stackRead_keeps
                             | apply State.readHostPiece_keeps | apply State.readRemotePiece_keeps
                             | apply accCollect_keeps | apply kacc_ok | apply kacc_wait | apply kacc_poison
                             | refine keeps_snd (by assumption) ?_ | intro _
    | split | dsimp only

theorem State.writeLoc_keeps {s0 s : State} (hk : Keeps s0 s) (ag : Agent) (va : Nat) (l : Loc) (bs : List Byte) :
    KAcc s0 (State.writeLoc s ag va l bs) := by
  unfold State.writeLoc
  repeat' first
    | with_reducible first | assumption | apply kacc_ite | apply keeps_ite | apply State.putMem_keeps
                             | apply State.putHost_keeps | apply State.sendWrite_keeps | apply State.stackWrite_keeps
                             | apply State.countHostLine_keeps | apply keeps_foldl | apply kacc_ok | apply kacc_wait
                             | apply kacc_lost | refine ksend_eq (by assumption) ?_
                             | refine kopt_eq (by assumption) ?_ | intro _
    | split | dsimp only | with_reducible apply keeps_mk

theorem State.locateAll_keeps {s0 s : State} (hk : Keeps s0 s) (ag : Agent) (va : Nat) (n : Nat) (a : Access) :
    KAcc s0 (State.locateAll s ag va n a) := by
  unfold State.locateAll
  repeat' first
    | with_reducible first | assumption | apply Acc.bind_keeps | apply accCollect_keeps | apply State.locate_keeps
                             | apply kacc_ok | intro _
    | dsimp only

theorem State.readVa_keeps {s0 s : State} (hk : Keeps s0 s) (ag : Agent) (va : Nat) (n : Nat) :
    KAcc s0 (State.readVa s ag va n) := by
  unfold State.readVa
  repeat' first
    | with_reducible first | assumption | apply Acc.bind_keeps | apply accCollect_keeps | apply State.readLoc_keeps
                             | apply State.locateAll_keeps | intro _
    | dsimp only

theorem State.writeVa_keeps {s0 s : State} (hk : Keeps s0 s) (ag : Agent) (va : Nat) (bs : List Byte) :
    KAcc s0 (State.writeVa s ag va bs) := by
  unfold State.writeVa
  repeat' first
    | with_reducible first | assumption | apply Acc.bind_keeps | apply accEach_keeps | apply State.writeLoc_keeps
                             | apply State.locateAll_keeps | intro _
    | dsimp only

theorem State.drainEntry_keeps {s0 s : State} (hk : Keeps s0 s) (ag : Agent) (k : Nat) (e : SbEntry) :
    KAcc s0 (State.drainEntry s ag k e) := by
  unfold State.drainEntry
  repeat' first
    | with_reducible first | assumption | apply State.updCore_keeps | apply Acc.bind_keeps | apply accEach_keeps
                             | apply State.writeLoc_keeps | apply kacc_ok | intro _
    | dsimp only

theorem State.drainCtx_keeps {s0 s : State} (hk : Keeps s0 s) (ag : Agent) (k : Nat) (j : Nat) :
    KAcc s0 (State.drainCtx s ag k j) := by
  unfold State.drainCtx
  repeat' first
    | with_reducible first | assumption | apply State.updCore_keeps | apply Acc.bind_keeps | apply accEach_keeps
                             | apply State.drainEntry_keeps | apply kacc_ok | intro _
    | dsimp only

theorem State.bufferStore_keeps {s0 s : State} (hk : Keeps s0 s) (k : Nat) (j : Nat) (va : Nat) (l : Loc)
    (bs : List Byte) : KAcc s0 (State.bufferStore s k j va l bs) := by
  unfold State.bufferStore
  try dsimp only
  repeat' first
    | with_reducible first | assumption | apply kacc_ite | apply State.updCore_keeps | apply Acc.bind_keeps
                             | apply State.drainEntry_keeps | apply kacc_ok | intro _
    | split | dsimp only

theorem State.l1Read_keeps {s0 s : State} (hk : Keeps s0 s) (ag : Agent) (k : Nat) (spa : Nat) (n : Nat) :
    KAcc s0 (State.l1Read s ag k spa n) := by
  unfold State.l1Read
  try dsimp only
  repeat' first
    | with_reducible first | assumption | apply State.updCore_keeps | apply Acc.bind_keeps
                             | apply State.readLoc_keeps | apply kacc_ok | intro _
    | split | dsimp only | with_reducible apply keeps_mk

theorem State.coreRead_keeps {s0 s : State} (hk : Keeps s0 s) (ag : Agent) (k : Nat) (j : Nat) (va : Nat) (l : Loc)
    (n : Nat) : KAcc s0 (State.coreRead s ag k j va l n) := by
  unfold State.coreRead
  try dsimp only
  repeat' first
    | with_reducible first | assumption | apply Acc.bind_keeps | apply accCollect_keeps | apply State.readLoc_keeps
                             | apply State.l1Read_keeps | apply kacc_ok | intro _
    | split | dsimp only

/-! Trap.lean. -/

theorem State.writeTrusted_keeps {s0 s : State} (hk : Keeps s0 s) (fn : Nat) (va : Nat) (bs : List Byte) :
    KOpt s0 (State.writeTrusted s fn va bs) := by
  unfold State.writeTrusted
  try dsimp only
  repeat' first
    | with_reducible first | assumption | apply State.putMem_keeps | apply State.putHost_keeps
                             | apply State.cacheWrite_keeps | apply State.walkTouch_keeps | apply kopt_foldl
                             | apply kopt_some | apply kopt_none | apply kopt_bind | refine kopt_eq (by assumption) ?_
                             | intro _
    | split | dsimp only

theorem State.traceHead_keeps {s0 s : State} (hk : Keeps s0 s) (r : TraceRing) : KPair s0 (State.traceHead s r) := by
  unfold State.traceHead
  dsimp only
  repeat' first
    | with_reducible first | assumption | apply kpair_some | apply kpair_none | apply kpair_map
                             | apply State.cacheRead_keeps | apply State.walkTouch_keeps | intro _
    | split

theorem State.setRing_keeps {s0 s : State} (hk : Keeps s0 s) (die : Nat) (r : TraceRing) :
    Keeps s0 (State.setRing s die r) := by
  unfold State.setRing
  repeat' first
    | with_reducible first | assumption | apply State.updDie_keeps | intro _
    | dsimp only | with_reducible apply keeps_mk

theorem State.dropRecord_keeps {s0 s : State} (hk : Keeps s0 s) (die : Nat) (r : TraceRing) :
    Keeps s0 (State.dropRecord s die r) := by
  unfold State.dropRecord
  repeat' first
    | with_reducible first | assumption | apply State.writeTrusted_keeps | apply State.setRing_keeps
                             | apply keeps_getD | intro _
    | dsimp only | with_reducible apply keeps_mk

theorem State.traceTo_keeps {s0 s : State} (hk : Keeps s0 s) (die : Nat) (r : TraceRing) (record : List Byte) :
    Keeps s0 (State.traceTo s die r record) := by
  unfold State.traceTo
  dsimp only
  split
  · exact State.dropRecord_keeps hk _ _
  · rename_i e
    have ht := State.traceHead_keeps hk _ _ _ e
    apply keeps_ite <;> intro _
    · exact State.dropRecord_keeps ht _ _
    split
    · exact State.dropRecord_keeps ht _ _
    · rename_i e1
      have h1 := State.writeTrusted_keeps ht _ _ _ _ e1
      split
      · exact State.dropRecord_keeps ht _ _
      · rename_i e2
        exact State.setRing_keeps (State.writeTrusted_keeps h1 _ _ _ _ e2) _ _

theorem State.trace_keeps {s0 s : State} (hk : Keeps s0 s) (die : Nat) (fn : Nat) (code : Nat) (core : Option Nat)
    (ctx : Nat) (queue : Nat) (seq : Nat) (data : Nat) :
    Keeps s0 (State.trace s die fn code core ctx queue seq data) := by
  unfold State.trace
  try dsimp only
  repeat' first
    | with_reducible first | assumption | apply State.traceTo_keeps | apply keeps_foldl | intro _
    | split | dsimp only

theorem State.updCtxOf_keeps {s0 s : State} (hk : Keeps s0 s) (c : CtxRef) (f : Ctx → Ctx) :
    Keeps s0 (State.updCtxOf s c f) := by
  unfold State.updCtxOf
  repeat' first
    | with_reducible first | assumption | apply State.updCtx_keeps | intro _
    | dsimp only

theorem State.addCounts_keeps {s0 s : State} (hk : Keeps s0 s) (k : Nat) (j : Nat) (sat : Nat) (flush : Nat) :
    Keeps s0 (State.addCounts s k j sat flush) := by
  unfold State.addCounts
  try dsimp only
  repeat' first
    | with_reducible first | assumption | apply State.updCore_keeps | apply State.updCmd_keeps | intro _
    | split | dsimp only

theorem State.ligSend_keeps {s0 s : State} (hk : Keeps s0 s) (gi : Nat) (die : Nat) (opseq : Nat) (ltype : Nat)
    (step : Nat) (cls : Nat) (dest : Nat) (pos : Nat) (rank : Option Nat) (payload : List Byte) :
    KSend s0 (State.ligSend s gi die opseq ltype step cls dest pos rank payload) := by
  unfold State.ligSend
  try dsimp only
  repeat' first
    | with_reducible first | assumption | apply ksend_ite | apply keeps_ite | apply State.sendMsg_keeps
                             | apply keeps_getD | intro _
    | split | dsimp only

theorem SendResult.orElse_keeps {s0 s : State} {r : SendResult} (h : Keeps s0 s) (hr : KSend s0 r) : Keeps s0 (r.orElse s) := by
  cases r with
  | sent t => exact hr t rfl
  | _ => exact h

theorem State.sendOwed_keeps {s0 s : State} (hk : Keeps s0 s) (gi : Nat) : Keeps s0 (State.sendOwed s gi) := by
  unfold State.sendOwed
  repeat' first
    | with_reducible first | assumption | apply State.updGroup_keeps | apply State.ligSend_keeps | apply keeps_foldl
                             | refine ksend_eq (by assumption) ?_ | intro _
    | split | dsimp only | with_reducible apply keeps_mk

theorem State.ligControl_keeps {s0 s : State} (hk : Keeps s0 s) (o : LigOp) (ltype : Nat) :
    Keeps s0 (State.ligControl s o ltype) := by
  unfold State.ligControl
  try dsimp only
  repeat' first
    | with_reducible first | assumption | apply State.updGroup_keeps | apply State.sendOwed_keeps | intro _
    | dsimp only | with_reducible apply keeps_mk

theorem State.ligClose_keeps {s0 s : State} (hk : Keeps s0 s) (o : LigOp) (status : Nat) (detail : Nat) :
    Keeps s0 (State.ligClose s o status detail) := by
  unfold State.ligClose
  try dsimp only
  repeat' first
    | with_reducible first | assumption | apply keeps_ite | apply State.updDie_keeps | apply State.updCmd_keeps
                             | apply State.forgetReads_keeps | apply State.trace_keeps | apply State.updCtxOf_keeps
                             | intro _
    | split | dsimp only | with_reducible apply keeps_mk

theorem State.ligLost_keeps {s0 s : State} (hk : Keeps s0 s) (o : LigOp) (rank : Nat) :
    Keeps s0 (State.ligLost s o rank) := by
  unfold State.ligLost
  repeat' first
    | with_reducible first | assumption | apply State.ligControl_keeps | apply State.ligClose_keeps | intro _
    | dsimp only

theorem State.ligAborted_keeps {s0 s : State} (hk : Keeps s0 s) (gi : Nat) (opseq : Nat) (rank : Nat) :
    Keeps s0 (State.ligAborted s gi opseq rank) := by
  unfold State.ligAborted
  try dsimp only
  repeat' first
    | with_reducible first | assumption | apply keeps_ite | apply State.updGroup_keeps | apply State.ligLost_keeps
                             | apply keeps_foldl | intro _
    | split | dsimp only | with_reducible apply keeps_mk

theorem State.ligEnd_keeps {s0 s : State} (hk : Keeps s0 s) (o : LigOp) (status : Nat) (detail : Nat) :
    Keeps s0 (State.ligEnd s o status detail) := by
  unfold State.ligEnd
  try dsimp only
  repeat' first
    | with_reducible first | assumption | apply keeps_ite | apply State.withdrawIf_keeps
                             | apply State.ligControl_keeps | apply State.ligClose_keeps
                             | apply State.ligAborted_keeps | intro _
    | split | dsimp only

theorem State.launchEnd_keeps {s0 s : State} (hk : Keeps s0 s) (r : CmdRef) : Keeps s0 (State.launchEnd s r) := by
  unfold State.launchEnd
  try dsimp only
  repeat' first
    | with_reducible first | assumption | apply keeps_ite | apply State.updCmd_keeps | apply State.updCtxOf_keeps
                             | apply State.ligEnd_keeps | apply keeps_foldl | intro _
    | split | dsimp only | with_reducible apply keeps_mk

theorem State.goIdle_keeps {s0 s : State} (hk : Keeps s0 s) (c : CtxRef) (code : BitVec 16) (reported : Bool) :
    Keeps s0 (State.goIdle s c code reported) := by
  unfold State.goIdle
  try dsimp only
  repeat' first
    | with_reducible first | assumption | apply keeps_ite | apply State.updCtx_keeps | apply State.updCmd_keeps
                             | apply State.updCoreTimed_keeps | apply State.forgetReads_keeps
                             | apply State.trace_keeps | apply State.launchEnd_keeps | intro _
    | split | dsimp only | with_reducible apply keeps_mk

theorem State.trapRecord_keeps {s0 s : State} (hk : Keeps s0 s) (c : CtxRef) (cmd : Option CmdRef) (cause : Nat)
    (arg : Word) :
    Keeps s0 (State.trapRecord s c cmd cause arg) := by
  unfold State.trapRecord
  try dsimp only
  repeat' first
    | with_reducible first | assumption | apply State.updCmd_keeps | apply State.record_keeps | apply keeps_getD
                             | intro _
    | split | dsimp only

theorem State.trapStop_keeps {s0 s : State} (hk : Keeps s0 s) (c : CtxRef) (cause : Nat) (arg : Word) :
    Keeps s0 (State.trapStop s c cause arg) := by
  unfold State.trapStop
  repeat' first
    | with_reducible first | assumption | apply State.goIdle_keeps | apply State.trapRecord_keeps | intro _
    | dsimp only

theorem State.takeTrap_keeps {s0 s : State} (hk : Keeps s0 s) (c : CtxRef) (cause : Nat) (arg : Word) :
    Keeps s0 (State.takeTrap s c cause arg) := by
  unfold State.takeTrap
  try dsimp only
  repeat' first
    | with_reducible first | assumption | apply keeps_ite | apply State.forgetReads_keeps | apply State.trace_keeps
                             | apply State.updCtxOf_keeps | apply State.trapStop_keeps | intro _
    | split | dsimp only

theorem State.trapIllegal_keeps {s0 s : State} (hk : Keeps s0 s) (c : CtxRef) (w : Word32) :
    Keeps s0 (State.trapIllegal s c w) := by
  unfold State.trapIllegal
  repeat' first
    | with_reducible first | assumption | apply State.takeTrap_keeps | intro _
    | dsimp only

theorem State.trapOperand_keeps {s0 s : State} (hk : Keeps s0 s) (c : CtxRef) (w : Word32) :
    Keeps s0 (State.trapOperand s c w) := by
  unfold State.trapOperand
  repeat' first
    | with_reducible first | assumption | apply State.takeTrap_keeps | intro _
    | dsimp only

theorem State.stallPage_keeps {s0 s : State} (hk : Keeps s0 s) (c : CtxRef) (engine : Nat) (cause : Nat)
    (va : Nat) (wr : Bool) :
    Keeps s0 (State.stallPage s c engine cause va wr) := by
  unfold State.stallPage
  try dsimp only
  repeat' first
    | with_reducible first | assumption | apply keeps_ite | apply State.updDie_keeps | apply State.trace_keeps
                             | apply State.updCtxOf_keeps | apply State.takeTrap_keeps | intro _
    | split | dsimp only | with_reducible apply keeps_mk

theorem State.stopCtx_keeps {s0 s : State} (hk : Keeps s0 s) (c : CtxRef) : Keeps s0 (State.stopCtx s c) := by
  unfold State.stopCtx
  try dsimp only
  repeat' first
    | with_reducible first | assumption | apply State.updCtx_keeps | apply State.updDie_keeps
                             | apply State.updCoreTimed_keeps | apply State.forgetReads_keeps | intro _
    | dsimp only | with_reducible apply keeps_mk

theorem State.stopXfers_keeps {s0 s : State} (hk : Keeps s0 s) (r : CmdRef) (ctxs : List CtxRef) :
    Keeps s0 (State.stopXfers s r ctxs) := by
  unfold State.stopXfers
  try dsimp only
  repeat' first
    | with_reducible first | assumption | apply State.updDie_keeps | apply State.withdraw_keeps
                             | apply State.forgetReads_keeps | apply State.updCtxOf_keeps | apply keeps_foldl
                             | intro _
    | split | dsimp only | with_reducible apply keeps_mk

theorem State.strikeCmd_keeps {s0 s : State} (hk : Keeps s0 s) (k : Strike) (r : CmdRef) (own : Bool) :
    Keeps s0 (State.strikeCmd s k r own) := by
  unfold State.strikeCmd
  try dsimp only
  repeat' first
    | with_reducible first | assumption | apply keeps_ite | apply State.updCmd_keeps | apply State.updCtxOf_keeps
                             | apply State.ligEnd_keeps | apply State.stopCtx_keeps | apply State.stopXfers_keeps
                             | apply State.mapOut_keeps | apply keeps_foldl | intro _
    | split | dsimp only | with_reducible apply keeps_mk

theorem State.faultRecord_keeps {s0 s : State} (hk : Keeps s0 s) (fn : Nat) (k : Strike) (addr : Nat) (ctx : Nat)
    (r : Option CmdRef) :
    Keeps s0 (State.faultRecord s fn k addr ctx r) := by
  unfold State.faultRecord
  try dsimp only
  repeat' first
    | with_reducible first | assumption | apply keeps_ite | apply State.record_keeps | apply State.mapOut_keeps
                             | intro _
    | split | dsimp only

theorem State.portsDark_keeps {s0 s : State} (hk : Keeps s0 s) : Keeps s0 (State.portsDark s) := by
  unfold State.portsDark
  repeat' first
    | with_reducible first | assumption | apply State.updFab_keeps | intro _
    | dsimp only

theorem State.failModule_keeps {s0 s : State} (hk : Keeps s0 s) (cause : Nat) (dieA : Nat) (dieB : Nat)
    (portDie : Nat) :
    Keeps s0 (State.failModule s cause dieA dieB portDie) := by
  unfold State.failModule
  try dsimp only
  repeat' first
    | with_reducible first | assumption | apply keeps_ite | apply State.updMod_keeps | apply State.moduleEvent_keeps
                             | apply State.portsDark_keeps | intro _
    | split | dsimp only | with_reducible apply keeps_mk

theorem State.countFault_keeps {s0 s : State} (hk : Keeps s0 s) (k : Nat) (kind : Nat) :
    Keeps s0 (State.countFault s k kind).1 := by
  unfold State.countFault
  try dsimp only
  repeat' first
    | with_reducible first | assumption | apply State.updCore_keeps | apply State.updDie_keeps
                             | apply State.failModule_keeps | intro _
    | split | dsimp only

theorem State.strikeAll_keeps {s0 s : State} (hk : Keeps s0 s) (st : Strike) (own : Option CmdRef)
    (others : List CmdRef) :
    Keeps s0 (State.strikeAll s st own others) := by
  unfold State.strikeAll
  repeat' first
    | with_reducible first | assumption | apply State.strikeCmd_keeps | apply keeps_foldl | intro _
    | dsimp only

theorem State.coreFault_keeps {s0 s : State} (hk : Keeps s0 s) (k : Nat) (j : Nat) (kind : Nat) (addr : Nat)
    (handle : Nat) (row : Nat) :
    Keeps s0 (State.coreFault s k j kind addr handle row) := by
  unfold State.coreFault
  try dsimp only
  repeat' first
    | with_reducible first | assumption | apply keeps_ite | apply State.updCore_keeps | apply State.faultRecord_keeps
                             | apply State.countFault_keeps | apply State.strikeAll_keeps | apply State.mapOut_keeps
                             | refine keeps_fst (by assumption) ?_ | intro _
    | split | dsimp only | with_reducible apply keeps_mk

theorem State.inkEccFault_keeps {s0 s : State} (hk : Keeps s0 s) (k : Nat) (j : Nat) (handle : Nat) (row : Nat)
    (phys : Nat) : Keeps s0 (State.inkEccFault s k j handle row phys) := by
  unfold State.inkEccFault
  repeat' first
    | with_reducible first | assumption | apply State.updCore_keeps | apply State.coreFault_keeps | intro _
    | dsimp only

theorem State.poisonFault_keeps {s0 s : State} (hk : Keeps s0 s) (k : Nat) (j : Nat) (spa : Nat) :
    Keeps s0 (State.poisonFault s k j spa) := by
  unfold State.poisonFault
  repeat' first
    | with_reducible first | assumption | apply State.coreFault_keeps | intro _
    | dsimp only

theorem State.peerLost_keeps {s0 s : State} (hk : Keeps s0 s) (r : Option CmdRef) (reason : Nat) :
    Keeps s0 (State.peerLost s r reason) := by
  unfold State.peerLost
  repeat' first
    | with_reducible first | assumption | apply State.updCmd_keeps | intro _
    | split | dsimp only

theorem State.endCommand_keeps {s0 s : State} (hk : Keeps s0 s) (r : CmdRef) (status : Nat) (detail : Nat) :
    Keeps s0 (State.endCommand s r status detail) := by
  unfold State.endCommand
  try dsimp only
  repeat' first
    | with_reducible first | assumption | apply keeps_ite | apply State.updCmd_keeps | apply State.updCtxOf_keeps
                             | apply State.stopCtx_keeps | apply State.ligEnd_keeps | apply State.stopXfers_keeps
                             | apply keeps_foldl | intro _
    | split | dsimp only

theorem State.accEnd_keeps {α : Type} {s0 : State} (c : CtxRef) (engine : Nat) {x : Acc α} {f : α → State → State}
    (hx : KAcc s0 x) (hf : ∀ a t, Keeps s0 t → Keeps s0 (f a t)) : Keeps s0 (State.accEnd c engine x f) := by
  cases x with
  | ok a t => exact hf a t hx
  | wait t => exact hx
  | trap cause arg t => exact State.takeTrap_keeps hx c cause arg
  | page cause va wr t => exact State.stallPage_keeps hx c engine cause va wr
  | poison spa t => exact State.poisonFault_keeps hx _ _ _
  | lost reason t =>
    simp only [State.accEnd]
    split
    · exact State.endCommand_keeps hx _ _ _
    · exact State.goIdle_keeps hx _ _ _

/-! Issue.lean. -/

theorem State.issue_keeps {s0 s : State} (hk : Keeps s0 s) (row : Row) (c : CtxRef) (w : Word32) (f : State → State)
    (hf : ∀ a0, Keeps s0 a0 → Keeps s0 (f a0)) : KRes s0 (State.issue s row c w f) := by
  unfold State.issue
  repeat' first
    | with_reducible first | assumption | apply kres_ite | apply keeps_ite | apply hf
                             | apply State.trapIllegal_keeps | apply kres_next | apply kres_fault | intro _
    | split | dsimp only

theorem State.commit_keeps {s0 s : State} (hk : Keeps s0 s) (c : CtxRef) (f : Ctx → Ctx) :
    Keeps s0 (State.commit s c f) := by
  unfold State.commit
  repeat' first
    | with_reducible first | assumption | apply State.updCore_keeps | apply State.updCtx_keeps
                             | apply State.accessDone_keeps | intro _
    | dsimp only | with_reducible apply keeps_mk

theorem State.ctxDone_keeps {s0 s : State} (hk : Keeps s0 s) (c : CtxRef) : Keeps s0 (State.ctxDone s c) := by
  unfold State.ctxDone
  repeat' first
    | with_reducible first | assumption | apply State.accessDone_keeps | intro _
    | dsimp only

theorem State.issueReg_keeps {s0 s : State} (hk : Keeps s0 s) (row : Row) (c : CtxRef) (w : Word32) (f : Ctx → Ctx)
    : KRes s0 (State.issueReg s row c w f) := by
  unfold State.issueReg
  repeat' first
    | with_reducible first | assumption | apply State.issue_keeps | apply State.commit_keeps | intro _
    | dsimp only

theorem onCore_keeps {s0 : State} (k : CoreRef) (f : Nat → State) (hf : ∀ a0, Keeps s0 (f a0)) :
    KRes s0 (onCore k f) := by
  unfold onCore
  repeat' first
    | with_reducible first | assumption | apply kres_ite | apply hf | apply kres_next | apply kres_fault | intro _
    | dsimp only

theorem onCtx_keeps {s0 s : State} (hk : Keeps s0 s) (c : CtxRef) : KRes s0 (onCtx c s) := by
  unfold onCtx
  repeat' first
    | with_reducible first | assumption | apply kres_ite | apply kres_next | apply kres_fault | intro _
    | dsimp only

/-! ScalarMem.lean. -/

theorem State.locateOrdered_keeps {s0 s : State} (hk : Keeps s0 s) (ag : Agent) (x : Ctx) (va : Nat) (n : Nat)
    (a : Access) : KAcc s0 (State.locateOrdered s ag x va n a) := by
  unfold State.locateOrdered
  repeat' first
    | with_reducible first | assumption | apply kacc_ite | apply Acc.bind_keeps | apply State.locate_keeps
                             | apply kacc_ok | apply kacc_wait | intro _
    | split | dsimp only

theorem State.scalarRead_keeps {s0 s : State} (hk : Keeps s0 s) (c : CtxRef) (va : Nat) (n : Nat) :
    KAcc s0 (State.scalarRead s c va n) := by
  unfold State.scalarRead
  try dsimp only
  repeat' first
    | with_reducible first | assumption | apply Acc.bind_keeps | apply State.coreRead_keeps
                             | apply State.locateOrdered_keeps | intro _
    | dsimp only

theorem State.scalarWrite_keeps {s0 s : State} (hk : Keeps s0 s) (c : CtxRef) (va : Nat) (bs : List Byte) :
    KAcc s0 (State.scalarWrite s c va bs) := by
  unfold State.scalarWrite
  try dsimp only
  repeat' first
    | with_reducible first | assumption | apply Acc.bind_keeps | apply State.bufferStore_keeps
                             | apply State.locateOrdered_keeps | intro _
    | dsimp only

theorem State.loadInstr_keeps {s0 s : State} (hk : Keeps s0 s) (c : CtxRef) (a : Word) (n : Nat)
    (f : Nat → Ctx → Ctx) :
    Keeps s0 (State.loadInstr s c a n f) := by
  unfold State.loadInstr
  repeat' first
    | with_reducible first | assumption | apply State.takeTrap_keeps | apply State.accEnd_keeps
                             | apply State.commit_keeps | apply State.ctxDone_keeps | apply State.scalarRead_keeps
                             | intro _
    | split | dsimp only

theorem State.storeInstr_keeps {s0 s : State} (hk : Keeps s0 s) (c : CtxRef) (a : Word) (v : Word) (n : Nat) :
    Keeps s0 (State.storeInstr s c a v n) := by
  unfold State.storeInstr
  repeat' first
    | with_reducible first | assumption | apply State.takeTrap_keeps | apply State.accEnd_keeps
                             | apply State.commit_keeps | apply State.ctxDone_keeps | apply State.scalarWrite_keeps
                             | apply Acc.bind_keeps | intro _
    | split | dsimp only

theorem execLoad_keeps {s0 s : State} (hk : Keeps s0 s) (c : CtxRef) (w : Word32) : KRes s0 (execLoad c w s) := by
  unfold execLoad
  repeat' first
    | with_reducible first | assumption | apply State.issue_keeps | apply State.loadInstr_keeps | intro _
    | dsimp only

theorem execStore_keeps {s0 s : State} (hk : Keeps s0 s) (c : CtxRef) (w : Word32) : KRes s0 (execStore c w s) := by
  unfold execStore
  try dsimp only
  repeat' first
    | with_reducible first | assumption | apply State.issue_keeps | apply State.storeInstr_keeps | intro _
    | dsimp only

theorem execLdf_keeps {s0 s : State} (hk : Keeps s0 s) (c : CtxRef) (w : Word32) : KRes s0 (execLdf c w s) := by
  unfold execLdf
  repeat' first
    | with_reducible first | assumption | apply State.issue_keeps | apply State.loadInstr_keeps | intro _
    | dsimp only

theorem execStf_keeps {s0 s : State} (hk : Keeps s0 s) (c : CtxRef) (w : Word32) : KRes s0 (execStf c w s) := by
  unfold execStf
  try dsimp only
  repeat' first
    | with_reducible first | assumption | apply State.issue_keeps | apply State.storeInstr_keeps | intro _
    | dsimp only

theorem State.atomicAt_keeps {s0 s : State} (hk : Keeps s0 s) (ag : Agent) (k : Nat) (va : Nat) (l : Loc)
    (f : Word → Word) : KAcc s0 (State.atomicAt s ag k va l f) := by
  unfold State.atomicAt
  try dsimp only
  repeat' first
    | with_reducible first | assumption | apply State.updCore_keeps | apply Acc.bind_keeps
                             | apply State.readLoc_keeps | apply State.writeLoc_keeps | apply kacc_ok
                             | apply kacc_trap | intro _
    | split | dsimp only

theorem execAtomic_keeps {s0 s : State} (hk : Keeps s0 s) (c : CtxRef) (w : Word32) : KRes s0 (execAtomic c w s) := by
  unfold execAtomic
  try dsimp only
  repeat' first
    | with_reducible first | assumption | apply State.drainCtx_keeps | apply State.takeTrap_keeps
                             | apply State.accEnd_keeps | apply State.issue_keeps | apply State.commit_keeps
                             | apply State.ctxDone_keeps | apply State.locateOrdered_keeps
                             | apply State.atomicAt_keeps | apply Acc.bind_keeps | apply kres_next | apply kres_fault
                             | intro _
    | split | dsimp only

theorem State.fence_keeps {s0 s : State} (hk : Keeps s0 s) (c : CtxRef) (scope : State → Bool) (act : Core → Core) :
    Keeps s0 (State.fence s c scope act) := by
  unfold State.fence
  repeat' first
    | with_reducible first | assumption | apply keeps_ite | apply State.updCore_keeps | apply State.drainCtx_keeps
                             | apply State.accEnd_keeps | apply State.commit_keeps | intro _
    | dsimp only

theorem execFenceCore_keeps {s0 s : State} (hk : Keeps s0 s) (c : CtxRef) (w : Word32) :
    KRes s0 (execFenceCore c w s) := by
  unfold execFenceCore
  repeat' first
    | with_reducible first | assumption | apply State.issue_keeps | apply State.fence_keeps | intro _
    | dsimp only

theorem execFenceDie_keeps {s0 s : State} (hk : Keeps s0 s) (c : CtxRef) (w : Word32) :
    KRes s0 (execFenceDie c w s) := by
  unfold execFenceDie
  repeat' first
    | with_reducible first | assumption | apply State.issue_keeps | apply State.fence_keeps | intro _
    | dsimp only

theorem execFenceDev_keeps {s0 s : State} (hk : Keeps s0 s) (c : CtxRef) (w : Word32) :
    KRes s0 (execFenceDev c w s) := by
  unfold execFenceDev
  repeat' first
    | with_reducible first | assumption | apply State.issue_keeps | apply State.fence_keeps | intro _
    | dsimp only

theorem execFenceSys_keeps {s0 s : State} (hk : Keeps s0 s) (c : CtxRef) (w : Word32) :
    KRes s0 (execFenceSys c w s) := by
  unfold execFenceSys
  repeat' first
    | with_reducible first | assumption | apply keeps_ite | apply State.updCore_keeps | apply State.drainCtx_keeps
                             | apply State.accEnd_keeps | apply State.issue_keeps | apply State.commit_keeps
                             | intro _
    | split | dsimp only

theorem execFenceCode_keeps {s0 s : State} (hk : Keeps s0 s) (c : CtxRef) (w : Word32) :
    KRes s0 (execFenceCode c w s) := by
  unfold execFenceCode
  repeat' first
    | with_reducible first | assumption | apply State.issue_keeps | apply State.fence_keeps | intro _
    | dsimp only

/-! InkAccess.lean. -/

theorem State.revokedStop_keeps {s0 s : State} (hk : Keeps s0 s) (c : CtxRef) (detail : Nat) :
    Keeps s0 (State.revokedStop s c detail) := by
  unfold State.revokedStop
  try dsimp only
  repeat' first
    | with_reducible first | assumption | apply State.updCmd_keeps | apply State.goIdle_keeps | intro _
    | split | dsimp only

theorem State.inkChecked_keeps {s0 s : State} (hk : Keeps s0 s) (c : CtxRef) (h : Nat) (r : HandleCheck)
    (f : Nat → State) (hf : ∀ a0, Keeps s0 (f a0)) : Keeps s0 (State.inkChecked s c h r f) := by
  unfold State.inkChecked
  repeat' first
    | with_reducible first | assumption | apply hf | apply State.takeTrap_keeps | apply State.revokedStop_keeps
                             | intro _
    | split | dsimp only

theorem State.correctRows_keeps {s0 s : State} (hk : Keeps s0 s) (k : Nat) (rows : List Nat) :
    Keeps s0 (State.correctRows s k rows) := by
  unfold State.correctRows
  repeat' first
    | with_reducible first | assumption | apply keeps_ite | apply State.updCore_keeps | intro _
    | split | dsimp only

theorem State.inkReadable_keeps {s0 s : State} (hk : Keeps s0 s) (c : CtxRef) (h : Nat) (base : Nat)
    (rows : List Nat) (f : State → State) (hf : ∀ t, Keeps s0 t → Keeps s0 (f t)) :
    Keeps s0 (State.inkReadable s c h base rows f) := by
  unfold State.inkReadable
  repeat' first
    | with_reducible first | assumption | apply hf | apply State.inkEccFault_keeps | apply State.correctRows_keeps
                             | intro _
    | split | dsimp only

theorem State.rangeRead_keeps {s0 s : State} (hk : Keeps s0 s) (c : CtxRef) (va : Nat) (n : Nat) :
    KAcc s0 (State.rangeRead s c va n) := by
  unfold State.rangeRead
  try dsimp only
  repeat' first
    | with_reducible first | assumption | apply State.locateAll_keeps | apply State.coreRead_keeps
                             | apply accCollect_keeps | apply Acc.bind_keeps | intro _
    | dsimp only | with_reducible apply keeps_mk

theorem State.rangeWrite_keeps {s0 s : State} (hk : Keeps s0 s) (c : CtxRef) (va : Nat) (bs : List Byte) :
    KAcc s0 (State.rangeWrite s c va bs) := by
  unfold State.rangeWrite
  try dsimp only
  repeat' first
    | with_reducible first | assumption | apply State.locateAll_keeps | apply State.bufferStore_keeps
                             | apply accEach_keeps | apply Acc.bind_keeps | intro _
    | dsimp only | with_reducible apply keeps_mk

/-! BlockRepeat.lean. -/

theorem BrStep.state_keeps {s0 : State} {b : BrStep} (h : KBr s0 b) : Keeps s0 b.state := h

theorem brAcc_keeps {α : Type} {s0 : State} (c : CtxRef) {x : Acc α} {f : α → State → BrStep} (hx : KAcc s0 x)
    (hf : ∀ a t, Keeps s0 t → KBr s0 (f a t)) : KBr s0 (brAcc c x f) := by
  cases x with
  | ok a t => exact hf a t hx
  | _ => exact State.accEnd_keeps c 3 hx fun _ _ h => h

theorem State.brRead_keeps {s0 s : State} (hk : Keeps s0 s) (c : CtxRef) (l : Word) (n : Nat)
    (f : List Byte → State → BrStep) (hf : ∀ a0 t, Keeps s0 t → KBr s0 (f a0 t)) :
    KBr s0 (State.brRead s c l n f) := by
  unfold State.brRead
  repeat' first
    | with_reducible first | assumption | apply kbr_ite | apply keeps_ite | apply hf | apply State.inkEccFault_keeps
                             | apply State.inkChecked_keeps | apply State.correctRows_keeps
                             | apply State.rangeRead_keeps | apply Acc.bind_keeps | apply brAcc_keeps | apply kbr_more
                             | apply kbr_over | refine kacc_ok_eq (by assumption) ?_
                             | refine kacc_wait_eq (by assumption) ?_ | refine kacc_trap_eq (by assumption) ?_
                             | refine kacc_page_eq (by assumption) ?_ | refine kacc_poison_eq (by assumption) ?_
                             | refine kacc_lost_eq (by assumption) ?_ | intro _
    | split | dsimp only

theorem State.brWrite_keeps {s0 s : State} (hk : Keeps s0 s) (c : CtxRef) (l : Word) (bs : List Byte)
    (f : State → BrStep) (hf : ∀ a0, Keeps s0 a0 → KBr s0 (f a0)) : KBr s0 (State.brWrite s c l bs f) := by
  unfold State.brWrite
  repeat' first
    | with_reducible first | assumption | apply kbr_ite | apply hf | apply State.updCore_keeps
                             | apply State.inkChecked_keeps | apply State.rangeWrite_keeps | apply brAcc_keeps
                             | apply kbr_over | intro _
    | split | dsimp only

theorem State.brDone_keeps {s0 s : State} (hk : Keeps s0 s) (c : CtxRef) (w : Word32) (both : Bool) (words : Nat)
    (step : Nat) :
    KBr s0 (State.brDone s c w both words step) := by
  unfold State.brDone
  try dsimp only
  repeat' first
    | with_reducible first | assumption | apply kbr_ite | apply keeps_ite | apply State.updCtxOf_keeps
                             | apply State.commit_keeps | apply State.ctxDone_keeps | apply kbr_more | apply kbr_over
                             | intro _
    | split | dsimp only

theorem State.blockStep_keeps {s0 s : State} (hk : Keeps s0 s) (c : CtxRef) (w : Word32) :
    KBr s0 (State.blockStep s c w) := by
  unfold State.blockStep
  try dsimp only
  repeat' first
    | with_reducible first | assumption | apply kbr_ite | apply State.takeTrap_keeps | apply State.trapOperand_keeps
                             | apply State.commit_keeps | apply State.brRead_keeps | apply State.brWrite_keeps
                             | apply State.brDone_keeps | apply kbr_over | intro _
    | split | dsimp only

theorem State.blockRun_keeps {s0 : State} (c : CtxRef) (w : Word32) (n : Nat) :
    ∀ {s : State}, Keeps s0 s → Keeps s0 (State.blockRun c w n s) := by
  induction n with
  | zero => exact fun h => h
  | succ n ih =>
    intro s h
    have hb := State.blockStep_keeps h c w
    simp only [State.blockRun]
    split
    · exact kbr_over_eq (by assumption) hb
    · exact ih (kbr_more_eq (by assumption) hb)

theorem State.blockInstr_keeps {s0 s : State} (hk : Keeps s0 s) (c : CtxRef) (w : Word32) :
    Keeps s0 (State.blockInstr s c w) := by
  unfold State.blockInstr
  repeat' first
    | with_reducible first | assumption | apply State.blockRun_keeps | intro _
    | dsimp only

theorem execBmov_keeps {s0 s : State} (hk : Keeps s0 s) (c : CtxRef) (w : Word32) : KRes s0 (execBmov c w s) := by
  unfold execBmov
  repeat' first
    | with_reducible first | assumption | apply State.issue_keeps | apply State.blockInstr_keeps | intro _
    | dsimp only

theorem execBfill_keeps {s0 s : State} (hk : Keeps s0 s) (c : CtxRef) (w : Word32) : KRes s0 (execBfill c w s) := by
  unfold execBfill
  repeat' first
    | with_reducible first | assumption | apply State.issue_keeps | apply State.blockInstr_keeps | intro _
    | dsimp only

theorem execBcmp_keeps {s0 s : State} (hk : Keeps s0 s) (c : CtxRef) (w : Word32) : KRes s0 (execBcmp c w s) := by
  unfold execBcmp
  repeat' first
    | with_reducible first | assumption | apply State.issue_keeps | apply State.blockInstr_keeps | intro _
    | dsimp only

theorem execBscan_keeps {s0 s : State} (hk : Keeps s0 s) (c : CtxRef) (w : Word32) : KRes s0 (execBscan c w s) := by
  unfold execBscan
  repeat' first
    | with_reducible first | assumption | apply State.issue_keeps | apply State.blockInstr_keeps | intro _
    | dsimp only

theorem execBlockRepeatStep_keeps {s0 s : State} (hk : Keeps s0 s) (c : CtxRef) (w : Word32) :
    KRes s0 (execBlockRepeatStep c w s) := by
  unfold execBlockRepeatStep
  repeat' first
    | with_reducible first | assumption | apply State.issue_keeps | apply BrStep.state_keeps
                             | apply State.blockStep_keeps | intro _
    | dsimp only

/-! VecCore.lean. -/

theorem State.pushVec_keeps {s0 s : State} (hk : Keeps s0 s) (c : CtxRef) (o : VecOp) :
    Keeps s0 (State.pushVec s c o) := by
  unfold State.pushVec
  repeat' first
    | with_reducible first | assumption | apply State.accessDone_keeps | apply State.updCtxOf_keeps | intro _
    | dsimp only | with_reducible apply keeps_mk

theorem State.pushMem_keeps {s0 s : State} (hk : Keeps s0 s) (c : CtxRef) (o : VecOp) :
    Keeps s0 (State.pushMem s c o) := by
  unfold State.pushMem
  repeat' first
    | with_reducible first | assumption | apply State.ctxDone_keeps | apply State.pushVec_keeps | intro _
    | dsimp only

theorem State.parity_keeps {s0 s : State} (hk : Keeps s0 s) (c : CtxRef) (regs : List Nat) (f : State)
    (hf : Keeps s0 f) : Keeps s0 (State.parity s c regs f) := by
  unfold State.parity
  try dsimp only
  repeat' first
    | with_reducible first | assumption | apply State.coreFault_keeps | intro _
    | split | dsimp only

theorem State.issueVec_keeps {s0 s : State} (hk : Keeps s0 s) (row : Row) (c : CtxRef) (w : Word32)
    (masks : List Nat) (regs : List Nat) (f : State → State) (hf : ∀ a0, Keeps s0 a0 → Keeps s0 (f a0)) :
    KRes s0 (State.issueVec s row c w masks regs f) := by
  unfold State.issueVec
  repeat' first
    | with_reducible first | assumption | apply keeps_ite | apply hf | apply State.trapOperand_keeps
                             | apply State.issue_keeps | apply State.parity_keeps | intro _
    | split | dsimp only

theorem State.vecCommit_keeps {s0 s : State} (hk : Keeps s0 s) (c : CtxRef) : Keeps s0 (State.vecCommit s c) := by
  unfold State.vecCommit
  try dsimp only
  repeat' first
    | with_reducible first | assumption | apply State.updCore_keeps | apply State.addCounts_keeps | intro _
    | split | dsimp only

theorem execVectorCommit_keeps {s0 s : State} (hk : Keeps s0 s) (c : CtxRef) : KRes s0 (execVectorCommit c s) := by
  unfold execVectorCommit
  repeat' first
    | with_reducible first | assumption | apply onCtx_keeps | apply State.vecCommit_keeps | intro _
    | dsimp only

theorem State.drainMem_keeps {s0 s : State} (hk : Keeps s0 s) (ag : Agent) (key : Nat) (o : VecOp) :
    KAcc s0 (State.drainMem s ag key o) := by
  unfold State.drainMem
  repeat' first
    | with_reducible first | assumption | apply State.updCore_keeps | apply Acc.bind_keeps | apply accEach_keeps
                             | apply State.writeLoc_keeps | apply kacc_ok | intro _
    | dsimp only

theorem State.vecDrain_keeps {s0 s : State} (hk : Keeps s0 s) (c : CtxRef) : Keeps s0 (State.vecDrain s c) := by
  unfold State.vecDrain
  try dsimp only
  repeat' first
    | with_reducible first | assumption | apply keeps_ite | apply State.updCore_keeps | apply State.drainCtx_keeps
                             | apply State.updCtxOf_keeps | apply State.inkEccFault_keeps | apply State.accEnd_keeps
                             | apply State.drainMem_keeps | apply Acc.bind_keeps | apply kacc_ok | apply kacc_lost
                             | refine kacc_ok_eq (by assumption) ?_ | refine kacc_wait_eq (by assumption) ?_
                             | refine kacc_trap_eq (by assumption) ?_ | refine kacc_page_eq (by assumption) ?_
                             | refine kacc_poison_eq (by assumption) ?_ | refine kacc_lost_eq (by assumption) ?_
                             | intro _
    | split | dsimp only | with_reducible apply keeps_mk

theorem execVectorStoreDrain_keeps {s0 s : State} (hk : Keeps s0 s) (c : CtxRef) :
    KRes s0 (execVectorStoreDrain c s) := by
  unfold execVectorStoreDrain
  repeat' first
    | with_reducible first | assumption | apply onCtx_keeps | apply State.vecDrain_keeps | intro _
    | dsimp only

theorem State.needUnit_keeps {s0 s : State} (hk : Keeps s0 s) (c : CtxRef) (u : GUnit) (f : State → State)
    (hf : ∀ a0, Keeps s0 a0 → Keeps s0 (f a0)) : Keeps s0 (State.needUnit s c u f) := by
  unfold State.needUnit
  repeat' first
    | with_reducible first | assumption | apply keeps_ite | apply hf | apply State.updCore_keeps | intro _
    | dsimp only

theorem execUnitPowerDown_keeps {s0 s : State} (hk : Keeps s0 s) (k : CoreRef) (u : GUnit) :
    KRes s0 (execUnitPowerDown k u s) := by
  unfold execUnitPowerDown
  repeat' first
    | with_reducible first | assumption | apply kres_ite | apply keeps_ite | apply State.updCore_keeps
                             | apply kres_next | apply kres_fault | apply onCore_keeps | intro _
    | split | dsimp only

theorem execUnitWakeDone_keeps {s0 s : State} (hk : Keeps s0 s) (k : CoreRef) (u : GUnit) :
    KRes s0 (execUnitWakeDone k u s) := by
  unfold execUnitWakeDone
  repeat' first
    | with_reducible first | assumption | apply State.updCore_keeps | apply onCore_keeps | intro _
    | split | dsimp only

/-! Vector.lean. -/

theorem State.vecElems_keeps {s0 s : State} (hk : Keeps s0 s) (row : Row) (c : CtxRef) (w : Word32)
    (regs : List Nat) (f : Ctx → Nat → Nat × Fx) : KRes s0 (State.vecElems s row c w regs f) := by
  unfold State.vecElems
  try dsimp only
  repeat' first
    | with_reducible first | assumption | apply State.pushVec_keeps | apply State.issueVec_keeps | intro _
    | dsimp only

theorem execVfp_keeps {s0 s : State} (hk : Keeps s0 s) (c : CtxRef) (w : Word32) : KRes s0 (execVfp c w s) := by
  unfold execVfp
  repeat' first
    | with_reducible first | assumption | apply State.vecElems_keeps | intro _
    | dsimp only

theorem execVint_keeps {s0 s : State} (hk : Keeps s0 s) (c : CtxRef) (w : Word32) : KRes s0 (execVint c w s) := by
  unfold execVint
  repeat' first
    | with_reducible first | assumption | apply State.vecElems_keeps | intro _
    | dsimp only

theorem execVcmp_keeps {s0 s : State} (hk : Keeps s0 s) (c : CtxRef) (w : Word32) : KRes s0 (execVcmp c w s) := by
  unfold execVcmp
  try dsimp only
  repeat' first
    | with_reducible first | assumption | apply kres_ite | apply keeps_ite | apply State.pushVec_keeps
                             | apply State.issueVec_keeps | apply kres_next | apply kres_fault | intro _
    | split | dsimp only

theorem execVxf_keeps {s0 s : State} (hk : Keeps s0 s) (c : CtxRef) (w : Word32) : KRes s0 (execVxf c w s) := by
  unfold execVxf
  try dsimp only
  repeat' first
    | with_reducible first | assumption | apply kres_ite | apply keeps_ite | apply State.pushVec_keeps
                             | apply State.issueVec_keeps | apply State.needUnit_keeps | apply kres_next
                             | apply kres_fault | intro _
    | split | dsimp only | with_reducible apply keeps_mk

theorem execVwake_keeps {s0 s : State} (hk : Keeps s0 s) (c : CtxRef) (w : Word32) : KRes s0 (execVwake c w s) := by
  unfold execVwake
  try dsimp only
  repeat' first
    | with_reducible first | assumption | apply State.updCore_keeps | apply State.pushVec_keeps
                             | apply State.issueVec_keeps | intro _
    | split | dsimp only

theorem execVcvt_keeps {s0 s : State} (hk : Keeps s0 s) (c : CtxRef) (w : Word32) : KRes s0 (execVcvt c w s) := by
  unfold execVcvt
  try dsimp only
  repeat' first
    | with_reducible first | assumption | apply kres_ite | apply keeps_ite | apply State.trapOperand_keeps
                             | apply State.pushVec_keeps | apply State.parity_keeps | apply State.issueVec_keeps
                             | apply kres_next | apply kres_fault | apply keeps_getD | intro _
    | split | dsimp only | with_reducible apply keeps_mk

theorem execVmv_keeps {s0 s : State} (hk : Keeps s0 s) (c : CtxRef) (w : Word32) : KRes s0 (execVmv c w s) := by
  unfold execVmv
  repeat' first
    | with_reducible first | assumption | apply State.vecElems_keeps | intro _
    | dsimp only

theorem execVbcx_keeps {s0 s : State} (hk : Keeps s0 s) (c : CtxRef) (w : Word32) : KRes s0 (execVbcx c w s) := by
  unfold execVbcx
  repeat' first
    | with_reducible first | assumption | apply State.vecElems_keeps | intro _
    | dsimp only

theorem execVbcf_keeps {s0 s : State} (hk : Keeps s0 s) (c : CtxRef) (w : Word32) : KRes s0 (execVbcf c w s) := by
  unfold execVbcf
  repeat' first
    | with_reducible first | assumption | apply State.vecElems_keeps | intro _
    | dsimp only

theorem execViota_keeps {s0 s : State} (hk : Keeps s0 s) (c : CtxRef) (w : Word32) : KRes s0 (execViota c w s) := by
  unfold execViota
  repeat' first
    | with_reducible first | assumption | apply State.vecElems_keeps | intro _
    | dsimp only

theorem execVsldn_keeps {s0 s : State} (hk : Keeps s0 s) (c : CtxRef) (w : Word32) : KRes s0 (execVsldn c w s) := by
  unfold execVsldn
  try dsimp only
  repeat' first
    | with_reducible first | assumption | apply State.vecElems_keeps | intro _
    | split | dsimp only

theorem execVslup_keeps {s0 s : State} (hk : Keeps s0 s) (c : CtxRef) (w : Word32) : KRes s0 (execVslup c w s) := by
  unfold execVslup
  try dsimp only
  repeat' first
    | with_reducible first | assumption | apply State.vecElems_keeps | intro _
    | split | dsimp only

theorem execVsumF_keeps {s0 s : State} (hk : Keeps s0 s) (c : CtxRef) (w : Word32) : KRes s0 (execVsumF c w s) := by
  unfold execVsumF
  try dsimp only
  repeat' first
    | with_reducible first | assumption | apply State.pushVec_keeps | apply State.issueVec_keeps | intro _
    | dsimp only

theorem execVmaxF_keeps {s0 s : State} (hk : Keeps s0 s) (c : CtxRef) (w : Word32) : KRes s0 (execVmaxF c w s) := by
  unfold execVmaxF
  try dsimp only
  repeat' first
    | with_reducible first | assumption | apply State.pushVec_keeps | apply State.issueVec_keeps | intro _
    | dsimp only

theorem execVminF_keeps {s0 s : State} (hk : Keeps s0 s) (c : CtxRef) (w : Word32) : KRes s0 (execVminF c w s) := by
  unfold execVminF
  try dsimp only
  repeat' first
    | with_reducible first | assumption | apply State.pushVec_keeps | apply State.issueVec_keeps | intro _
    | dsimp only

theorem execVsumI_keeps {s0 s : State} (hk : Keeps s0 s) (c : CtxRef) (w : Word32) : KRes s0 (execVsumI c w s) := by
  unfold execVsumI
  try dsimp only
  repeat' first
    | with_reducible first | assumption | apply State.pushVec_keeps | apply State.issueVec_keeps | intro _
    | dsimp only

theorem execVpopc_keeps {s0 s : State} (hk : Keeps s0 s) (c : CtxRef) (w : Word32) : KRes s0 (execVpopc c w s) := by
  unfold execVpopc
  repeat' first
    | with_reducible first | assumption | apply State.pushVec_keeps | apply State.issueVec_keeps | intro _
    | dsimp only

theorem execVfirst_keeps {s0 s : State} (hk : Keeps s0 s) (c : CtxRef) (w : Word32) :
    KRes s0 (execVfirst c w s) := by
  unfold execVfirst
  repeat' first
    | with_reducible first | assumption | apply State.pushVec_keeps | apply State.issueVec_keeps | intro _
    | dsimp only

theorem execVmsk_keeps {s0 s : State} (hk : Keeps s0 s) (c : CtxRef) (w : Word32) : KRes s0 (execVmsk c w s) := by
  unfold execVmsk
  try dsimp only
  repeat' first
    | with_reducible first | assumption | apply State.pushVec_keeps | apply State.issueVec_keeps | apply kres_next
                             | apply kres_fault | intro _
    | dsimp only

/-! VecMem.lean. -/

theorem State.locOk_keeps {s0 s : State} (hk : Keeps s0 s) (c : CtxRef) (l : Word) (f : State) (hf : Keeps s0 f) :
    Keeps s0 (State.locOk s c l f) := by
  unfold State.locOk
  repeat' first
    | with_reducible first | assumption | apply State.takeTrap_keeps | intro _
    | split | dsimp only

theorem State.locateRuns_keeps {s0 s : State} (hk : Keeps s0 s) (c : CtxRef) (va : Nat) (runs : List (Nat × Nat))
    (a : Access) :
    KAcc s0 (State.locateRuns s c va runs a) := by
  unfold State.locateRuns
  repeat' first
    | with_reducible first | assumption | apply kacc_ite | apply keeps_ite | apply State.locateAll_keeps
                             | apply accCollect_keeps | apply kacc_trap | intro _
    | split | dsimp only

theorem State.locPlan_keeps {s0 s : State} (hk : Keeps s0 s) (c : CtxRef) (l : Word) (mask : Nat) (n : Nat)
    (a : Access) (f : LocPlan → State → State) (hf : ∀ a0 t, Keeps s0 t → Keeps s0 (f a0 t)) :
    Keeps s0 (State.locPlan s c l mask n a f) := by
  unfold State.locPlan
  repeat' first
    | with_reducible first | assumption | apply keeps_ite | apply hf | apply State.accEnd_keeps
                             | apply State.inkChecked_keeps | apply State.locateRuns_keeps | intro _
    | split | dsimp only

theorem State.planRead_keeps {s0 s : State} (hk : Keeps s0 s) (c : CtxRef) (l : Word) (mask : Nat) (n : Nat)
    (p : LocPlan) (f : Nat → State → State) (hf : ∀ a0 t, Keeps s0 t → Keeps s0 (f a0 t)) :
    Keeps s0 (State.planRead s c l mask n p f) := by
  unfold State.planRead
  try dsimp only
  repeat' first
    | with_reducible first | assumption | apply keeps_ite | apply hf | apply State.coreRead_keeps
                             | apply State.accEnd_keeps | apply State.inkReadable_keeps | apply keeps_foldl
                             | apply accCollect_keeps | apply Acc.bind_keeps | apply kacc_ok | intro _
    | split | dsimp only

theorem State.planWrite_keeps {s0 s : State} (hk : Keeps s0 s) (c : CtxRef) (l : Word) (mask : Nat) (data : Nat)
    (n : Nat) (p : LocPlan) (f : List VStore → State → State) (hf : ∀ a0 t, Keeps s0 t → Keeps s0 (f a0 t)) :
    Keeps s0 (State.planWrite s c l mask data n p f) := by
  unfold State.planWrite
  try dsimp only
  repeat' first
    | with_reducible first | assumption | apply keeps_ite | apply hf | apply State.coreRead_keeps
                             | apply State.accEnd_keeps | apply accCollect_keeps | apply Acc.bind_keeps
                             | apply kacc_ok | apply kacc_wait | intro _
    | split | dsimp only

theorem execVld_keeps {s0 s : State} (hk : Keeps s0 s) (c : CtxRef) (w : Word32) : KRes s0 (execVld c w s) := by
  unfold execVld
  try dsimp only
  repeat' first
    | with_reducible first | assumption | apply kres_ite | apply keeps_ite | apply State.trapOperand_keeps
                             | apply State.pushMem_keeps | apply State.issueVec_keeps | apply State.locOk_keeps
                             | apply State.locPlan_keeps | apply State.planRead_keeps | apply kres_next
                             | apply kres_fault | intro _
    | split | dsimp only

theorem State.planOut_keeps {s0 s : State} (hk : Keeps s0 s) (c : CtxRef) (l : Word) (ol : Word) (scaled : Bool)
    (width : Nat) (n : Nat) (act : Nat → Bool) (f : LocPlan → LocPlan → State → State)
    (hf : ∀ a0 a1 t, Keeps s0 t → Keeps s0 (f a0 a1 t)) :
    Keeps s0 (State.planOut s c l ol scaled width n act f) := by
  unfold State.planOut
  repeat' first
    | with_reducible first | assumption | apply keeps_ite | apply hf | apply State.locPlan_keeps | intro _
    | split | dsimp only

theorem State.storeOut_keeps {s0 s : State} (hk : Keeps s0 s) (c : CtxRef) (l : Word) (ol : Word) (scaled : Bool)
    (width : Nat) (n : Nat) (act : Nat → Bool) (p : LocPlan) (q : LocPlan) (codes : List Nat) (offs : List Nat)
    (f : List VStore → State → State) (hf : ∀ a0 t, Keeps s0 t → Keeps s0 (f a0 t)) :
    Keeps s0 (State.storeOut s c l ol scaled width n act p q codes offs f) := by
  unfold State.storeOut
  repeat' first
    | with_reducible first | assumption | apply keeps_ite | apply hf | apply State.planWrite_keeps | intro _
    | split | dsimp only

theorem execVst_keeps {s0 s : State} (hk : Keeps s0 s) (c : CtxRef) (w : Word32) : KRes s0 (execVst c w s) := by
  unfold execVst
  try dsimp only
  repeat' first
    | with_reducible first | assumption | apply kres_ite | apply keeps_ite | apply State.trapOperand_keeps
                             | apply State.pushMem_keeps | apply State.issueVec_keeps | apply State.locOk_keeps
                             | apply State.planOut_keeps | apply State.storeOut_keeps | apply kres_next
                             | apply kres_fault | intro _
    | split | dsimp only

theorem State.vgsLocate_keeps {s0 s : State} (hk : Keeps s0 s) (c : CtxRef) (w : Word32) (a : Access) :
    KAcc s0 (State.vgsLocate s c w a) := by
  unfold State.vgsLocate
  try dsimp only
  repeat' first
    | with_reducible first | assumption | apply State.locate_keeps | apply accCollect_keeps | apply Acc.bind_keeps
                             | apply kacc_ok | intro _
    | dsimp only

theorem execVgath_keeps {s0 s : State} (hk : Keeps s0 s) (c : CtxRef) (w : Word32) : KRes s0 (execVgath c w s) := by
  unfold execVgath
  try dsimp only
  repeat' first
    | with_reducible first | assumption | apply kres_ite | apply keeps_ite | apply kacc_ite
                             | apply State.coreRead_keeps | apply State.takeTrap_keeps | apply State.accEnd_keeps
                             | apply State.inkChecked_keeps | apply State.inkReadable_keeps
                             | apply State.pushMem_keeps | apply State.issueVec_keeps | apply State.needUnit_keeps
                             | apply State.vgsLocate_keeps | apply accCollect_keeps | apply Acc.bind_keeps
                             | apply kacc_ok | apply kacc_wait | apply kres_next | apply kres_fault | apply kopt_map
                             | apply keeps_getD | intro _
    | split | dsimp only | with_reducible apply keeps_mk

theorem execVscat_keeps {s0 s : State} (hk : Keeps s0 s) (c : CtxRef) (w : Word32) : KRes s0 (execVscat c w s) := by
  unfold execVscat
  try dsimp only
  repeat' first
    | with_reducible first | assumption | apply kres_ite | apply keeps_ite | apply kacc_ite
                             | apply State.takeTrap_keeps | apply State.accEnd_keeps | apply State.inkChecked_keeps
                             | apply State.pushVec_keeps | apply State.pushMem_keeps | apply State.issueVec_keeps
                             | apply State.needUnit_keeps | apply State.vgsLocate_keeps | apply kres_next
                             | apply kres_fault | intro _
    | split | dsimp only

/-! System.lean. -/

theorem execSrd_keeps {s0 s : State} (hk : Keeps s0 s) (c : CtxRef) (w : Word32) : KRes s0 (execSrd c w s) := by
  unfold execSrd
  try dsimp only
  repeat' first
    | with_reducible first | assumption | apply keeps_ite | apply State.issue_keeps | apply State.commit_keeps
                             | intro _
    | split | dsimp only

theorem State.srStore_keeps {s0 s : State} (hk : Keeps s0 s) (c : CtxRef) (n : Nat) (v : Word) (m : Word) :
    Keeps s0 (State.srStore s c n v m) := by
  unfold State.srStore
  repeat' first
    | with_reducible first | assumption | apply keeps_ite | apply State.updCore_keeps | apply State.commit_keeps
                             | intro _
    | dsimp only

theorem execSwr_keeps {s0 s : State} (hk : Keeps s0 s) (c : CtxRef) (w : Word32) : KRes s0 (execSwr c w s) := by
  unfold execSwr
  repeat' first
    | with_reducible first | assumption | apply State.issue_keeps | apply State.srStore_keeps | intro _
    | dsimp only

theorem execSmw_keeps {s0 s : State} (hk : Keeps s0 s) (c : CtxRef) (w : Word32) : KRes s0 (execSmw c w s) := by
  unfold execSmw
  repeat' first
    | with_reducible first | assumption | apply State.issue_keeps | apply State.srStore_keeps | intro _
    | dsimp only

theorem execHret_keeps {s0 s : State} (hk : Keeps s0 s) (c : CtxRef) (w : Word32) : KRes s0 (execHret c w s) := by
  unfold execHret
  repeat' first
    | with_reducible first | assumption | apply keeps_ite | apply State.trapIllegal_keeps | apply State.issue_keeps
                             | apply State.commit_keeps | intro _
    | split | dsimp only

theorem execPause_keeps {s0 s : State} (hk : Keeps s0 s) (c : CtxRef) (w : Word32) : KRes s0 (execPause c w s) := by
  unfold execPause
  repeat' first
    | with_reducible first | assumption | apply kres_ite | apply keeps_ite | apply State.updCtxOf_keeps
                             | apply State.issue_keeps | apply State.commit_keeps | apply kres_next
                             | apply kres_fault | intro _
    | split | dsimp only

theorem execDone_keeps {s0 s : State} (hk : Keeps s0 s) (c : CtxRef) (w : Word32) : KRes s0 (execDone c w s) := by
  unfold execDone
  try dsimp only
  repeat' first
    | with_reducible first | assumption | apply keeps_ite | apply State.updCore_keeps | apply State.drainCtx_keeps
                             | apply State.goIdle_keeps | apply State.accEnd_keeps | apply State.issue_keeps
                             | apply State.commit_keeps | intro _
    | split | dsimp only

theorem State.takeInterrupt_keeps {s0 s : State} (hk : Keeps s0 s) (c : CtxRef) :
    Keeps s0 (State.takeInterrupt s c) := by
  unfold State.takeInterrupt
  try dsimp only
  repeat' first
    | with_reducible first | assumption | apply keeps_ite | apply State.forgetReads_keeps | apply State.trace_keeps
                             | apply State.updCtxOf_keeps | apply State.commit_keeps | intro _
    | split | dsimp only

theorem execInterruptEntry_keeps {s0 s : State} (hk : Keeps s0 s) (c : CtxRef) :
    KRes s0 (execInterruptEntry c s) := by
  unfold execInterruptEntry
  repeat' first
    | with_reducible first | assumption | apply onCtx_keeps | apply State.takeInterrupt_keeps | intro _
    | dsimp only

theorem execAlarmExpire_keeps {s0 s : State} (hk : Keeps s0 s) (c : CtxRef) : KRes s0 (execAlarmExpire c s) := by
  unfold execAlarmExpire
  repeat' first
    | with_reducible first | assumption | apply State.updMod_keeps | apply onCtx_keeps | intro _
    | dsimp only

theorem execContextWatchdog_keeps {s0 s : State} (hk : Keeps s0 s) (c : CtxRef) :
    KRes s0 (execContextWatchdog c s) := by
  unfold execContextWatchdog
  repeat' first
    | with_reducible first | assumption | apply keeps_ite | apply State.coreFault_keeps | apply onCtx_keeps
                             | intro _
    | split | dsimp only

/-! Matrix.lean. -/

theorem execMdset_keeps {s0 s : State} (hk : Keeps s0 s) (c : CtxRef) (w : Word32) : KRes s0 (execMdset c w s) := by
  unfold execMdset
  try dsimp only
  repeat' first
    | with_reducible first | assumption | apply State.issue_keeps | apply State.commit_keeps | apply kres_next
                             | apply kres_fault | intro _
    | dsimp only | with_reducible apply keeps_mk

theorem execMm_keeps {s0 s : State} (hk : Keeps s0 s) (c : CtxRef) (w : Word32) : KRes s0 (execMm c w s) := by
  unfold execMm
  try dsimp only
  repeat' first
    | with_reducible first | assumption | apply kres_ite | apply keeps_ite | apply State.updCore_keeps
                             | apply State.trapOperand_keeps | apply State.issue_keeps | apply State.commit_keeps
                             | apply State.inkChecked_keeps | apply kres_next | apply kres_fault | intro _
    | split | dsimp only

theorem State.acceptPass_keeps {s0 s : State} (hk : Keeps s0 s) (key : Nat) (qs : List MmReq) (grouped : Bool) :
    Keeps s0 (State.acceptPass s key qs grouped) := by
  unfold State.acceptPass
  try dsimp only
  repeat' first
    | with_reducible first | assumption | apply keeps_ite | apply State.updCore_keeps | apply State.trace_keeps
                             | apply State.inkEccFault_keeps | apply State.correctRows_keeps | apply keeps_foldl
                             | intro _
    | split | dsimp only | with_reducible apply keeps_mk

theorem State.mmAccept_keeps {s0 s : State} (hk : Keeps s0 s) (key : Nat) : Keeps s0 (State.mmAccept s key) := by
  unfold State.mmAccept
  try dsimp only
  repeat' first
    | with_reducible first | assumption | apply keeps_ite | apply State.updCore_keeps | apply State.revokedStop_keeps
                             | apply State.acceptPass_keeps | intro _
    | split | dsimp only | with_reducible apply keeps_mk

theorem execMmAccept_keeps {s0 s : State} (hk : Keeps s0 s) (k : CoreRef) : KRes s0 (execMmAccept k s) := by
  unfold execMmAccept
  repeat' first
    | with_reducible first | assumption | apply onCore_keeps | apply State.mmAccept_keeps | intro _
    | dsimp only

theorem execCursiveGroupClose_keeps {s0 s : State} (hk : Keeps s0 s) (k : CoreRef) :
    KRes s0 (execCursiveGroupClose k s) := by
  unfold execCursiveGroupClose
  repeat' first
    | with_reducible first | assumption | apply keeps_ite | apply State.updCore_keeps | apply onCore_keeps
                             | apply State.mmAccept_keeps | intro _
    | split | dsimp only

theorem State.completePart_keeps {s0 s : State} (hk : Keeps s0 s) (key : Nat) (p : PassPart) :
    Keeps s0 (State.completePart s key p) := by
  unfold State.completePart
  try dsimp only
  repeat' first
    | with_reducible first | assumption | apply State.updCore_keeps | apply State.updCtx_keeps
                             | apply State.addCounts_keeps | intro _
    | dsimp only

theorem State.passComplete_keeps {s0 s : State} (hk : Keeps s0 s) (key : Nat) (i : Nat) :
    Keeps s0 (State.passComplete s key i) := by
  unfold State.passComplete
  try dsimp only
  repeat' first
    | with_reducible first | assumption | apply keeps_ite | apply State.updCore_keeps | apply State.completePart_keeps
                             | apply keeps_foldl | intro _
    | split | dsimp only | with_reducible apply keeps_mk

theorem execMmPassComplete_keeps {s0 s : State} (hk : Keeps s0 s) (k : CoreRef) (i : Nat) :
    KRes s0 (execMmPassComplete k i s) := by
  unfold execMmPassComplete
  try dsimp only
  repeat' first
    | with_reducible first | assumption | apply onCore_keeps | apply State.passComplete_keeps | intro _
    | dsimp only

theorem State.checksum_keeps {s0 s : State} (hk : Keeps s0 s) (key : Nat) (f : ChecksumFail) :
    Keeps s0 (State.checksum s key f) := by
  unfold State.checksum
  try dsimp only
  repeat' first
    | with_reducible first | assumption | apply State.updCore_keeps | apply State.coreFault_keeps | intro _
    | split | dsimp only | with_reducible apply keeps_mk

theorem execArrayChecksumFault_keeps {s0 s : State} (hk : Keeps s0 s) (k : CoreRef) (f : ChecksumFail) :
    KRes s0 (execArrayChecksumFault k f s) := by
  unfold execArrayChecksumFault
  repeat' first
    | with_reducible first | assumption | apply onCore_keeps | apply State.checksum_keeps | intro _
    | dsimp only

/-! Scalar.lean. -/

theorem execSetk_keeps {s0 s : State} (hk : Keeps s0 s) (c : CtxRef) (w : Word32) : KRes s0 (execSetk c w s) := by
  unfold execSetk
  repeat' first
    | with_reducible first | assumption | apply State.issueReg_keeps | intro _
    | dsimp only

theorem execAddpc_keeps {s0 s : State} (hk : Keeps s0 s) (c : CtxRef) (w : Word32) : KRes s0 (execAddpc c w s) := by
  unfold execAddpc
  repeat' first
    | with_reducible first | assumption | apply State.issueReg_keeps | intro _
    | dsimp only

theorem execGol_keeps {s0 s : State} (hk : Keeps s0 s) (c : CtxRef) (w : Word32) : KRes s0 (execGol c w s) := by
  unfold execGol
  repeat' first
    | with_reducible first | assumption | apply State.issueReg_keeps | intro _
    | dsimp only

theorem execGor_keeps {s0 s : State} (hk : Keeps s0 s) (c : CtxRef) (w : Word32) : KRes s0 (execGor c w s) := by
  unfold execGor
  try dsimp only
  repeat' first
    | with_reducible first | assumption | apply keeps_ite | apply State.takeTrap_keeps | apply State.issue_keeps
                             | apply State.commit_keeps | intro _
    | split | dsimp only

theorem execJcond_keeps {s0 s : State} (hk : Keeps s0 s) (c : CtxRef) (w : Word32) : KRes s0 (execJcond c w s) := by
  unfold execJcond
  repeat' first
    | with_reducible first | assumption | apply State.issueReg_keeps | intro _
    | split | dsimp only

theorem execAluImmediate_keeps {s0 s : State} (hk : Keeps s0 s) (c : CtxRef) (w : Word32) :
    KRes s0 (execAluImmediate c w s) := by
  unfold execAluImmediate
  repeat' first
    | with_reducible first | assumption | apply State.issueReg_keeps | intro _
    | dsimp only

theorem execAluRegister_keeps {s0 s : State} (hk : Keeps s0 s) (c : CtxRef) (w : Word32) :
    KRes s0 (execAluRegister c w s) := by
  unfold execAluRegister
  repeat' first
    | with_reducible first | assumption | apply State.issueReg_keeps | intro _
    | dsimp only

theorem execMultiply_keeps {s0 s : State} (hk : Keeps s0 s) (c : CtxRef) (w : Word32) :
    KRes s0 (execMultiply c w s) := by
  unfold execMultiply
  repeat' first
    | with_reducible first | assumption | apply State.issueReg_keeps | intro _
    | dsimp only

theorem execDivide_keeps {s0 s : State} (hk : Keeps s0 s) (c : CtxRef) (w : Word32) :
    KRes s0 (execDivide c w s) := by
  unfold execDivide
  repeat' first
    | with_reducible first | assumption | apply State.issueReg_keeps | intro _
    | dsimp only

theorem execFpArith_keeps {s0 s : State} (hk : Keeps s0 s) (c : CtxRef) (w : Word32) :
    KRes s0 (execFpArith c w s) := by
  unfold execFpArith
  repeat' first
    | with_reducible first | assumption | apply State.issueReg_keeps | intro _
    | dsimp only

theorem execFpMinmax_keeps {s0 s : State} (hk : Keeps s0 s) (c : CtxRef) (w : Word32) :
    KRes s0 (execFpMinmax c w s) := by
  unfold execFpMinmax
  try dsimp only
  repeat' first
    | with_reducible first | assumption | apply State.issueReg_keeps | intro _
    | dsimp only

theorem execFpCompare_keeps {s0 s : State} (hk : Keeps s0 s) (c : CtxRef) (w : Word32) :
    KRes s0 (execFpCompare c w s) := by
  unfold execFpCompare
  try dsimp only
  repeat' first
    | with_reducible first | assumption | apply State.issueReg_keeps | intro _
    | dsimp only

theorem execFpSign_keeps {s0 s : State} (hk : Keeps s0 s) (c : CtxRef) (w : Word32) :
    KRes s0 (execFpSign c w s) := by
  unfold execFpSign
  repeat' first
    | with_reducible first | assumption | apply State.issueReg_keeps | intro _
    | dsimp only

theorem execDtoi_keeps {s0 s : State} (hk : Keeps s0 s) (c : CtxRef) (w : Word32) : KRes s0 (execDtoi c w s) := by
  unfold execDtoi
  try dsimp only
  repeat' first
    | with_reducible first | assumption | apply State.issueReg_keeps | intro _
    | dsimp only

theorem execItod_keeps {s0 s : State} (hk : Keeps s0 s) (c : CtxRef) (w : Word32) : KRes s0 (execItod c w s) := by
  unfold execItod
  repeat' first
    | with_reducible first | assumption | apply State.issueReg_keeps | intro _
    | dsimp only

theorem execFpMove_keeps {s0 s : State} (hk : Keeps s0 s) (c : CtxRef) (w : Word32) :
    KRes s0 (execFpMove c w s) := by
  unfold execFpMove
  repeat' first
    | with_reducible first | assumption | apply State.issueReg_keeps | intro _
    | split | dsimp only

theorem execCoprocessorAbsent_keeps {s0 s : State} (hk : Keeps s0 s) (c : CtxRef) (w : Word32) :
    KRes s0 (execCoprocessorAbsent c w s) := by
  unfold execCoprocessorAbsent
  repeat' first
    | with_reducible first | assumption | apply State.takeTrap_keeps | apply State.issue_keeps | intro _
    | dsimp only

/-! VecRes.lean. -/

theorem State.issueRes_keeps {s0 s : State} (hk : Keeps s0 s) (row : Row) (c : CtxRef) (w : Word32)
    (regs : List Nat) (raw : Bool) (f : EdDesc → FmtWord → Option FmtWord → Nat → List Nat → State → State)
    (hf : ∀ a0 a1 a2 a3 a4 a5, Keeps s0 a5 → Keeps s0 (f a0 a1 a2 a3 a4 a5)) :
    KRes s0 (State.issueRes s row c w regs raw f) := by
  unfold State.issueRes
  try dsimp only
  repeat' first
    | with_reducible first | assumption | apply keeps_ite | apply hf | apply State.trapOperand_keeps
                             | apply State.issueVec_keeps | intro _
    | split | dsimp only

theorem execVedset_keeps {s0 s : State} (hk : Keeps s0 s) (c : CtxRef) (w : Word32) :
    KRes s0 (execVedset c w s) := by
  unfold execVedset
  repeat' first
    | with_reducible first | assumption | apply State.updCtxOf_keeps | apply State.pushVec_keeps
                             | apply State.issueVec_keeps | intro _
    | dsimp only

theorem State.checkT_keeps {s0 s : State} (hk : Keeps s0 s) (c : CtxRef) (d : EdDesc) (t : Option FmtWord)
    (off : Nat) (act : List Nat) (f : Nat → State) (hf : ∀ a0, Keeps s0 (f a0)) :
    Keeps s0 (State.checkT s c d t off act f) := by
  unfold State.checkT
  repeat' first
    | with_reducible first | assumption | apply hf | apply State.inkChecked_keeps | intro _
    | split | dsimp only

theorem State.readT_keeps {s0 s : State} (hk : Keeps s0 s) (c : CtxRef) (d : EdDesc) (t : Option FmtWord)
    (off : Nat) (act : List Nat) (base : Nat) (f : (Nat → FVal) → State → State)
    (hf : ∀ a0 t, Keeps s0 t → Keeps s0 (f a0 t)) :
    Keeps s0 (State.readT s c d t off act base f) := by
  unfold State.readT
  try dsimp only
  repeat' first
    | with_reducible first | assumption | apply keeps_ite | apply hf | apply State.inkReadable_keeps | intro _
    | split | dsimp only

theorem execVrrd_keeps {s0 s : State} (hk : Keeps s0 s) (c : CtxRef) (w : Word32) : KRes s0 (execVrrd c w s) := by
  unfold execVrrd
  try dsimp only
  repeat' first
    | with_reducible first | assumption | apply kres_ite | apply keeps_ite | apply State.pushVec_keeps
                             | apply State.issueRes_keeps | apply State.checkT_keeps | apply State.readT_keeps
                             | apply kres_next | apply kres_fault | apply keeps_getD | intro _
    | split | dsimp only | with_reducible apply keeps_mk

theorem execVrst_keeps {s0 s : State} (hk : Keeps s0 s) (c : CtxRef) (w : Word32) : KRes s0 (execVrst c w s) := by
  unfold execVrst
  try dsimp only
  repeat' first
    | with_reducible first | assumption | apply kres_ite | apply keeps_ite | apply State.trapOperand_keeps
                             | apply State.pushMem_keeps | apply State.locOk_keeps | apply State.planOut_keeps
                             | apply State.storeOut_keeps | apply State.issueRes_keeps | apply State.checkT_keeps
                             | apply State.readT_keeps | apply kres_next | apply kres_fault | intro _
    | split | dsimp only

theorem execVrraw_keeps {s0 s : State} (hk : Keeps s0 s) (c : CtxRef) (w : Word32) : KRes s0 (execVrraw c w s) := by
  unfold execVrraw
  try dsimp only
  repeat' first
    | with_reducible first | assumption | apply State.pushVec_keeps | apply State.issueRes_keeps | intro _
    | split | dsimp only

theorem execVrcomb_keeps {s0 s : State} (hk : Keeps s0 s) (c : CtxRef) (w : Word32) :
    KRes s0 (execVrcomb c w s) := by
  unfold execVrcomb
  try dsimp only
  repeat' first
    | with_reducible first | assumption | apply State.pushVec_keeps | apply State.issueRes_keeps | intro _
    | split | dsimp only

theorem execVrclr_keeps {s0 s : State} (hk : Keeps s0 s) (c : CtxRef) (w : Word32) : KRes s0 (execVrclr c w s) := by
  unfold execVrclr
  try dsimp only
  repeat' first
    | with_reducible first | assumption | apply State.pushVec_keeps | apply State.issueRes_keeps | intro _
    | split | dsimp only

end Sys2Proof.Machine
end

