-- ==== Sys2Proof/Laws/KeepsEngines.lean ====
section
/-! SUPPORT. What every operation keeps, continued: the engines: feeds, messages, ligature, resets, translation, scribe. -/

namespace Sys2Proof.Machine

/-! FeedDesc.lean. -/

theorem State.putXfer_keeps {s0 s : State} (hk : Keeps s0 s) (t : XferRef) (x : Xfer) :
    Keeps s0 (State.putXfer s t x) := by
  unfold State.putXfer
  repeat' first
    | with_reducible first | assumption | apply State.updCmd_keeps | apply State.updCtxOf_keeps | intro _
    | split | dsimp only

/-! Feed.lean. -/

theorem State.inkFix_keeps {s0 s : State} (hk : Keeps s0 s) (die : Nat) (l : List (Side × Nat × Nat × Nat)) :
    Keeps s0 (State.inkFix s die l) := by
  unfold State.inkFix
  try dsimp only
  repeat' first
    | with_reducible first | assumption | apply keeps_ite | apply State.correctRows_keeps | apply keeps_foldl
                             | intro _
    | split | dsimp only

theorem State.sideRead_keeps {s0 s : State} (hk : Keeps s0 s) (ag : Agent) (sd : Side) (pos : Nat) (off : Nat)
    (n : Nat) : KAcc s0 (State.sideRead s ag sd pos off n) := by
  unfold State.sideRead
  try dsimp only
  repeat' first
    | with_reducible first | assumption | apply kacc_ite | apply State.readLoc_keeps | apply State.readVa_keeps
                             | apply kacc_ok | intro _
    | split | dsimp only

theorem State.sideWrite_keeps {s0 s : State} (hk : Keeps s0 s) (ag : Agent) (sd : Side) (pos : Nat) (off : Nat)
    (bs : List Byte) : KAcc s0 (State.sideWrite s ag sd pos off bs) := by
  unfold State.sideWrite
  try dsimp only
  repeat' first
    | with_reducible first | assumption | apply kacc_ite | apply State.updCore_keeps | apply State.writeLoc_keeps
                             | apply State.writeVa_keeps | apply kacc_ok | intro _
    | split | dsimp only

theorem State.sideLocate_keeps {s0 s : State} (hk : Keeps s0 s) (ag : Agent) (sd : Side) (pos : Nat) (off : Nat)
    (n : Nat) : KAcc s0 (State.sideLocate s ag sd pos off n) := by
  unfold State.sideLocate
  repeat' first
    | with_reducible first | assumption | apply kacc_ite | apply Acc.bind_keeps | apply State.locateAll_keeps
                             | apply kacc_ok | intro _
    | dsimp only

theorem State.halfRead_keeps {s0 s : State} (hk : Keeps s0 s) (ag : Agent) (sd : Side) (pos : Nat) (off : Nat) :
    KAcc s0 (State.halfRead s ag sd pos off) := by
  unfold State.halfRead
  repeat' first
    | with_reducible first | assumption | apply Acc.bind_keeps | apply State.readLoc_keeps
                             | apply State.locate_keeps | apply State.sideRead_keeps | apply kacc_ok | intro _
    | split | dsimp only | with_reducible apply keeps_mk

theorem State.readSpan_keeps {s0 s : State} (hk : Keeps s0 s) (ag : Agent) (f : FeedDesc) (tile : Nat)
    (sp : Nat × Nat × Nat) : KAcc s0 (State.readSpan s ag f tile sp) := by
  unfold State.readSpan
  try dsimp only
  repeat' first
    | with_reducible first | assumption | apply kacc_ite | apply Acc.bind_keeps | apply State.sideRead_keeps
                             | apply kacc_ok | intro _
    | split | dsimp only

theorem State.discardCovered_keeps {s0 s : State} (hk : Keeps s0 s) (x : Xfer) (l : List (Nat × BitVec 256)) :
    Keeps s0 (State.discardCovered s x l).1 := by
  unfold State.discardCovered
  try dsimp only
  repeat' first
    | with_reducible first | assumption | apply State.discardLine_keeps | apply keeps_foldl_fst | intro _
    | split | dsimp only

theorem State.moveLine_keeps {s0 s : State} (hk : Keeps s0 s) (t : XferRef) (x : Xfer) (f : FeedDesc) (i : Nat)
    (l : FeedLane) (e : Nat) :
    KAcc s0 (State.moveLine s t x f i l e) := by
  unfold State.moveLine
  try dsimp only
  repeat' first
    | with_reducible first | assumption | apply kacc_ite | apply keeps_ite | apply State.sideWrite_keeps
                             | apply State.sideLocate_keeps | apply State.halfRead_keeps | apply State.readSpan_keeps
                             | apply State.discardCovered_keeps | apply keeps_foldl | apply accCollect_keeps
                             | apply Acc.bind_keeps | apply kacc_ok | apply kacc_wait | apply kacc_trap
                             | apply kacc_page | apply kacc_poison | apply kacc_lost | apply keeps_getD
                             | refine keeps_fst (by assumption) ?_ | refine kacc_ok_eq (by assumption) ?_
                             | refine kacc_wait_eq (by assumption) ?_ | refine kacc_trap_eq (by assumption) ?_
                             | refine kacc_page_eq (by assumption) ?_ | refine kacc_poison_eq (by assumption) ?_
                             | refine kacc_lost_eq (by assumption) ?_ | intro _
    | split | dsimp only | with_reducible apply keeps_mk

theorem State.feedStall_keeps {s0 s : State} (hk : Keeps s0 s) (t : XferRef) (x : Xfer) (i : Nat) (cause : Nat)
    (va : Nat) (wr : Bool) :
    Keeps s0 (State.feedStall s t x i cause va wr) := by
  unfold State.feedStall
  try dsimp only
  repeat' first
    | with_reducible first | assumption | apply keeps_ite | apply State.updDie_keeps | apply State.trace_keeps
                             | apply State.putXfer_keeps | intro _
    | split | dsimp only | with_reducible apply keeps_mk

theorem State.feedFault_keeps {s0 s : State} (hk : Keeps s0 s) (t : XferRef) (feed : Nat) (kind : Nat)
    (addr : Nat) (key : Nat) (handle : Nat) (row : Nat) :
    Keeps s0 (State.feedFault s t feed kind addr key handle row) := by
  unfold State.feedFault
  try dsimp only
  repeat' first
    | with_reducible first | assumption | apply keeps_ite | apply State.faultRecord_keeps
                             | apply State.countFault_keeps | apply State.strikeAll_keeps | apply State.mapOut_keeps
                             | refine keeps_fst (by assumption) ?_ | intro _
    | split | dsimp only

theorem State.prefetch_keeps {s0 s : State} (hk : Keeps s0 s) (t : XferRef) (x : Xfer) (f : FeedDesc) (tile : Nat) :
    Keeps s0 (State.prefetch s t x f tile) := by
  unfold State.prefetch
  try dsimp only
  repeat' first
    | with_reducible first | assumption | apply keeps_ite | apply State.countDie_keeps | apply State.fillDieTlb_keeps
                             | apply keeps_foldl | intro _
    | split | dsimp only

theorem State.feedBegin_keeps {s0 s : State} (hk : Keeps s0 s) (t : XferRef) (x : Xfer) (feeds : List Nat) :
    Keeps s0 (State.feedBegin s t x feeds) := by
  unfold State.feedBegin
  try dsimp only
  repeat' first
    | with_reducible first | assumption | apply State.putXfer_keeps | apply State.prefetch_keeps | apply keeps_foldl
                             | intro _
    | split | dsimp only | with_reducible apply keeps_mk

theorem State.cp1Begin_keeps {s0 s : State} (hk : Keeps s0 s) (t : XferRef) (x : Xfer) (n : Nat) :
    Keeps s0 (State.cp1Begin s t x n) := by
  unfold State.cp1Begin
  try dsimp only
  repeat' first
    | with_reducible first | assumption | apply keeps_ite | apply State.updDie_keeps | apply State.feedBegin_keeps
                             | intro _
    | split | dsimp only | with_reducible apply keeps_mk

theorem State.feedMove_keeps {s0 s : State} (hk : Keeps s0 s) (t : XferRef) (op : FeedOp) :
    Keeps s0 (State.feedMove s t op) := by
  unfold State.feedMove
  try dsimp only
  repeat' first
    | with_reducible first | assumption | apply keeps_ite | apply State.updCore_keeps | apply State.accessDone_keeps
                             | apply State.putXfer_keeps | apply State.inkFix_keeps | apply State.moveLine_keeps
                             | apply State.feedStall_keeps | apply State.feedFault_keeps | apply State.cp1Begin_keeps
                             | apply Acc.bind_keeps | refine kacc_ok_eq (by assumption) ?_
                             | refine kacc_wait_eq (by assumption) ?_ | refine kacc_trap_eq (by assumption) ?_
                             | refine kacc_page_eq (by assumption) ?_ | refine kacc_poison_eq (by assumption) ?_
                             | refine kacc_lost_eq (by assumption) ?_ | intro _
    | split | dsimp only

theorem onXfer_keeps {s0 s : State} (hk : Keeps s0 s) (t : XferRef) : KRes s0 (onXfer t s) := by
  unfold onXfer
  repeat' first
    | with_reducible first | assumption | apply onCtx_keeps | apply kres_next | intro _
    | split | dsimp only

theorem execFeedCopy_keeps {s0 s : State} (hk : Keeps s0 s) (t : XferRef) : KRes s0 (execFeedCopy t s) := by
  unfold execFeedCopy
  repeat' first
    | with_reducible first | assumption | apply State.feedMove_keeps | apply onXfer_keeps | intro _
    | dsimp only

theorem execFeedFill_keeps {s0 s : State} (hk : Keeps s0 s) (t : XferRef) : KRes s0 (execFeedFill t s) := by
  unfold execFeedFill
  repeat' first
    | with_reducible first | assumption | apply State.feedMove_keeps | apply onXfer_keeps | intro _
    | dsimp only

theorem execFeedConvert_keeps {s0 s : State} (hk : Keeps s0 s) (t : XferRef) : KRes s0 (execFeedConvert t s) := by
  unfold execFeedConvert
  repeat' first
    | with_reducible first | assumption | apply State.feedMove_keeps | apply onXfer_keeps | intro _
    | dsimp only

theorem State.tileComplete_keeps {s0 s : State} (hk : Keeps s0 s) (t : XferRef) :
    Keeps s0 (State.tileComplete s t) := by
  unfold State.tileComplete
  try dsimp only
  repeat' first
    | with_reducible first | assumption | apply keeps_ite | apply State.trace_keeps | apply State.putXfer_keeps
                             | apply State.prefetch_keeps | intro _
    | split | dsimp only

theorem execFeedTileComplete_keeps {s0 s : State} (hk : Keeps s0 s) (t : XferRef) :
    KRes s0 (execFeedTileComplete t s) := by
  unfold execFeedTileComplete
  try dsimp only
  repeat' first
    | with_reducible first | assumption | apply onXfer_keeps | apply State.tileComplete_keeps | intro _
    | dsimp only

theorem State.endXfer_keeps {s0 s : State} (hk : Keeps s0 s) (t : XferRef) : Keeps s0 (State.endXfer s t) := by
  unfold State.endXfer
  repeat' first
    | with_reducible first | assumption | apply State.updDie_keeps | apply State.forgetReads_keeps | intro _
    | dsimp only

theorem State.transferComplete_keeps {s0 s : State} (hk : Keeps s0 s) (t : XferRef) :
    Keeps s0 (State.transferComplete s t) := by
  unfold State.transferComplete
  try dsimp only
  repeat' first
    | with_reducible first | assumption | apply keeps_ite | apply State.updCmd_keeps | apply State.addCounts_keeps
                             | apply State.putXfer_keeps | apply State.endXfer_keeps | apply State.complete_keeps
                             | intro _
    | split | dsimp only | with_reducible apply keeps_mk

theorem execFeedTransferComplete_keeps {s0 s : State} (hk : Keeps s0 s) (t : XferRef) :
    KRes s0 (execFeedTransferComplete t s) := by
  unfold execFeedTransferComplete
  try dsimp only
  repeat' first
    | with_reducible first | assumption | apply onXfer_keeps | apply State.transferComplete_keeps | intro _
    | dsimp only

theorem State.imageRead_keeps {s0 s : State} (hk : Keeps s0 s) (c : CtxRef) (l : Word) (n : Nat)
    (f : List Byte → State → State) (hf : ∀ a0 t, Keeps s0 t → Keeps s0 (f a0 t)) :
    Keeps s0 (State.imageRead s c l n f) := by
  unfold State.imageRead
  try dsimp only
  repeat' first
    | with_reducible first | assumption | apply keeps_ite | apply kacc_ite | apply hf | apply State.locateAll_keeps
                             | apply State.coreRead_keeps | apply State.takeTrap_keeps | apply State.accEnd_keeps
                             | apply State.ctxDone_keeps | apply State.inkChecked_keeps
                             | apply State.inkReadable_keeps | apply accCollect_keeps | apply Acc.bind_keeps
                             | apply kacc_wait | apply kacc_trap | intro _
    | split | dsimp only

theorem execFeedStart_keeps {s0 s : State} (hk : Keeps s0 s) (c : CtxRef) (w : Word32) :
    KRes s0 (execFeedStart c w s) := by
  unfold execFeedStart
  try dsimp only
  repeat' first
    | with_reducible first | assumption | apply keeps_ite | apply State.trapOperand_keeps | apply State.issue_keeps
                             | apply State.commit_keeps | apply State.imageRead_keeps | intro _
    | split | dsimp only

theorem execFeedWait_keeps {s0 s : State} (hk : Keeps s0 s) (c : CtxRef) (w : Word32) :
    KRes s0 (execFeedWait c w s) := by
  unfold execFeedWait
  try dsimp only
  repeat' first
    | with_reducible first | assumption | apply State.issue_keeps | apply State.commit_keeps | intro _
    | split | dsimp only

/-! Msg.lean. -/

theorem State.takeDelivered_keeps {s0 s t : State} {p : MsgHdr → Bool} {m : Delivered} (e : s.takeDelivered p = some (m, t))
    (h : Keeps s0 s) : Keeps s0 t := by
  unfold State.takeDelivered at e
  cases hf : s.fab.inbox.find? (fun m => p (msgHdr m.flits)) with
  | none => simp [hf] at e
  | some d =>
    simp only [hf, Option.map_some, Option.some.injEq, Prod.mk.injEq] at e
    rw [← e.2]
    exact State.updFab_keeps h _

theorem State.takeMsg_keeps {s0 s t : State} {p : MsgHdr → Bool} {m : List (BitVec 1920)} (e : s.takeMsg p = some (m, t))
    (h : Keeps s0 s) : Keeps s0 t := by
  unfold State.takeMsg at e
  cases hf : s.takeDelivered p with
  | none => simp [hf] at e
  | some d =>
    obtain ⟨d, u⟩ := d
    simp only [hf, Option.map_some, Option.some.injEq, Prod.mk.injEq] at e
    exact e.2 ▸ State.takeDelivered_keeps hf h

theorem State.sendAck_keeps {s0 s : State} (hk : Keeps s0 s) (h : MsgHdr) (refusal : Option Nat) :
    Keeps s0 (State.sendAck s h refusal) := by
  unfold State.sendAck
  repeat' first
    | with_reducible first | assumption | apply State.sendPlain_keeps | refine ksend_eq (by assumption) ?_ | intro _
    | split | dsimp only

theorem State.refuse_keeps {s0 s : State} (hk : Keeps s0 s) (h : MsgHdr) (reason : Nat) :
    Keeps s0 (State.refuse s h reason) := by
  unfold State.refuse
  try dsimp only
  repeat' first
    | with_reducible first | assumption | apply keeps_ite | apply State.record_keeps | apply State.sendAck_keeps
                             | intro _
    | split | dsimp only

theorem State.readTrusted_keeps {s0 s : State} (hk : Keeps s0 s) (fn va n : Nat) : KPair s0 (State.readTrusted s fn va n) := by
  unfold State.readTrusted
  repeat' first
    | with_reducible first | assumption | apply kpair_foldl | apply kpair_bind | apply kpair_ite | apply kpair_some
                             | apply kpair_none | apply kpair_map | apply State.cacheRead_keeps
                             | apply State.walkTouch_keeps | intro _
    | split | dsimp only

/-! Lig.lean. -/

theorem State.putOp_keeps {s0 s : State} (hk : Keeps s0 s) (o : LigOp) : Keeps s0 (State.putOp s o) := by
  unfold State.putOp
  repeat' first
    | with_reducible first | assumption | intro _
    | dsimp only | with_reducible apply keeps_mk

theorem State.ligLaunch_keeps {s0 s : State} (hk : Keeps s0 s) (owner : LigOwner) (fn : Nat) (die : Nat)
    (img : BitVec 1024) (rs : List Rng) :
    Keeps s0 (State.ligLaunch s owner fn die img rs).1 := by
  unfold State.ligLaunch
  try dsimp only
  repeat' first
    | with_reducible first | assumption | apply State.updGroup_keeps | apply State.ligLost_keeps | apply keeps_getD
                             | intro _
    | split | dsimp only | with_reducible apply keeps_mk

theorem State.collLaunch_keeps {s0 s : State} (hk : Keeps s0 s) (op : Nat) (r : CmdRef) :
    Keeps s0 (State.collLaunch s op r) := by
  unfold State.collLaunch
  try dsimp only
  repeat' first
    | with_reducible first | assumption | apply keeps_ite | apply State.updCmd_keeps | apply State.ligLaunch_keeps
                             | intro _
    | split | dsimp only

theorem execCollAllreduce_keeps {s0 s : State} (hk : Keeps s0 s) (c : CmdRef) :
    KRes s0 (execCollAllreduce c s) := by
  unfold execCollAllreduce
  repeat' first
    | with_reducible first | assumption | apply State.collLaunch_keeps | apply kres_next | intro _
    | dsimp only

theorem execCollRedscat_keeps {s0 s : State} (hk : Keeps s0 s) (c : CmdRef) : KRes s0 (execCollRedscat c s) := by
  unfold execCollRedscat
  repeat' first
    | with_reducible first | assumption | apply State.collLaunch_keeps | apply kres_next | intro _
    | dsimp only

theorem execCollAllgather_keeps {s0 s : State} (hk : Keeps s0 s) (c : CmdRef) :
    KRes s0 (execCollAllgather c s) := by
  unfold execCollAllgather
  repeat' first
    | with_reducible first | assumption | apply State.collLaunch_keeps | apply kres_next | intro _
    | dsimp only

theorem execCollBcast_keeps {s0 s : State} (hk : Keeps s0 s) (c : CmdRef) : KRes s0 (execCollBcast c s) := by
  unfold execCollBcast
  repeat' first
    | with_reducible first | assumption | apply State.collLaunch_keeps | apply kres_next | intro _
    | dsimp only

theorem execCollAlltoall_keeps {s0 s : State} (hk : Keeps s0 s) (c : CmdRef) : KRes s0 (execCollAlltoall c s) := by
  unfold execCollAlltoall
  repeat' first
    | with_reducible first | assumption | apply State.collLaunch_keeps | apply kres_next | intro _
    | dsimp only

theorem execCollBarrier_keeps {s0 s : State} (hk : Keeps s0 s) (c : CmdRef) : KRes s0 (execCollBarrier c s) := by
  unfold execCollBarrier
  repeat' first
    | with_reducible first | assumption | apply State.collLaunch_keeps | apply kres_next | intro _
    | dsimp only

theorem State.depositLig_keeps {s0 s : State} (hk : Keeps s0 s) (m : LigMsg) : Keeps s0 (State.depositLig s m) := by
  unfold State.depositLig
  repeat' first
    | with_reducible first | assumption | intro _
    | dsimp only | with_reducible apply keeps_mk

theorem State.ligUsed_keeps {s0 s : State} (hk : Keeps s0 s) (o : LigOp) (srcs : List Nat) :
    Keeps s0 (State.ligUsed s o srcs) := by
  unfold State.ligUsed
  repeat' first
    | with_reducible first | assumption | intro _
    | dsimp only | with_reducible apply keeps_mk

theorem State.ligHand_keeps {s0 s : State} (hk : Keeps s0 s) (o : LigOp) (r : Nat) (bs : List Byte) :
    Keeps s0 (State.ligHand s o r bs).1 := by
  unfold State.ligHand
  try dsimp only
  repeat' first
    | with_reducible first | assumption | apply keeps_ite | apply State.depositLig_keeps
                             | apply keeps_getD | intro _
    | split | dsimp only

theorem State.ligFlush_keeps {s0 : State} (o : LigOp) (l : List (Nat × Nat × List Byte)) :
    ∀ {s : State}, Keeps s0 s → Keeps s0 (s.ligFlush o l) := by
  induction l with
  | nil => exact fun h => State.putOp_keeps h _
  | cons p l ih =>
    intro s h
    obtain ⟨r, pos, bs⟩ := p
    simp only [State.ligFlush]
    split
    · exact ih (ksend_eq (by assumption) (State.ligSend_keeps h _ _ _ _ _ _ _ _ _ _))
    · exact State.putOp_keeps h _
    · exact State.ligEnd_keeps h _ _ _

theorem State.stepSends_keeps {s0 s : State} (hk : Keeps s0 s) (o : LigOp) : Keeps s0 (State.stepSends s o) := by
  unfold State.stepSends
  dsimp only
  apply State.ligFlush_keeps
  apply keeps_foldl_fst hk
  intro t r ht
  split
  · exact ht
  · exact State.ligHand_keeps ht _ _ _

theorem State.ligStall_keeps {s0 s : State} (hk : Keeps s0 s) (o : LigOp) (cause : Nat) (va : Nat) (wr : Bool) :
    Keeps s0 (State.ligStall s o cause va wr) := by
  unfold State.ligStall
  try dsimp only
  repeat' first
    | with_reducible first | assumption | apply keeps_ite | apply State.updDie_keeps | apply State.trace_keeps
                             | apply State.ligEnd_keeps | apply State.putOp_keeps | intro _
    | split | dsimp only | with_reducible apply keeps_mk

theorem State.ligFault_keeps {s0 s : State} (hk : Keeps s0 s) (o : LigOp) (kind : Nat) (addr : Nat) (key : Nat)
    (handle : Nat) (row : Nat) :
    Keeps s0 (State.ligFault s o kind addr key handle row) := by
  unfold State.ligFault
  try dsimp only
  repeat' first
    | with_reducible first | assumption | apply keeps_ite | apply State.faultRecord_keeps
                             | apply State.countFault_keeps | apply State.strikeAll_keeps | apply State.mapOut_keeps
                             | refine keeps_fst (by assumption) ?_ | intro _
    | split | dsimp only

theorem State.ligInk_keeps {s0 s : State} (hk : Keeps s0 s) (o : LigOp) (recv : Bool) (off : Nat) (n : Nat)
    (f : State → State) (hf : ∀ t, Keeps s0 t → Keeps s0 (f t)) :
    Keeps s0 (State.ligInk s o recv off n f) := by
  unfold State.ligInk
  try dsimp only
  repeat' first
    | with_reducible first | assumption | apply keeps_ite | apply hf | apply State.updCore_keeps
                             | apply State.ligEnd_keeps | apply State.inkFix_keeps | apply State.ligFault_keeps
                             | intro _
    | split | dsimp only

theorem State.ligAcc_keeps {α : Type} {s0 : State} (o : LigOp) {x : Acc α} {f : α → State → State} (hx : KAcc s0 x)
    (hf : ∀ a t, Keeps s0 t → Keeps s0 (f a t)) : Keeps s0 (State.ligAcc o x f) := by
  cases x with
  | ok a t => exact hf a _ (State.accessDone_keeps hx _ _)
  | wait t => exact hx
  | trap cause arg t => exact hx
  | page cause va wr t => exact State.ligStall_keeps hx _ _ _ _
  | poison spa t => exact State.ligFault_keeps hx _ _ _ _ _ _
  | lost reason t => exact State.ligEnd_keeps hx _ _ _

theorem State.ligLoad_keeps {s0 s : State} (hk : Keeps s0 s) (o : LigOp) : Keeps s0 (State.ligLoad s o) := by
  unfold State.ligLoad
  try dsimp only
  repeat' first
    | with_reducible first | assumption | apply keeps_ite | apply State.sideRead_keeps | apply State.putOp_keeps
                             | apply State.stepSends_keeps | apply State.ligInk_keeps | apply State.ligAcc_keeps
                             | apply Acc.bind_keeps | intro _
    | split | dsimp only

theorem State.ligOutput_keeps {s0 s : State} (hk : Keeps s0 s) (o : LigOp) (f : LigOp → State → State)
    (hf : ∀ a0 t, Keeps s0 t → Keeps s0 (f a0 t)) :
    Keeps s0 (State.ligOutput s o f) := by
  unfold State.ligOutput
  try dsimp only
  repeat' first
    | with_reducible first | assumption | apply keeps_ite | apply hf | apply State.sideWrite_keeps
                             | apply State.putOp_keeps | apply State.ligInk_keeps | apply State.ligAcc_keeps
                             | apply Acc.bind_keeps | intro _
    | split | dsimp only | with_reducible apply keeps_mk

theorem State.ligFinish_keeps {s0 s : State} (hk : Keeps s0 s) (o : LigOp) : Keeps s0 (State.ligFinish s o) := by
  unfold State.ligFinish
  repeat' first
    | with_reducible first | assumption | apply keeps_ite | apply State.ligEnd_keeps | intro _
    | split | dsimp only

theorem State.ligNext_keeps {s0 s : State} (hk : Keeps s0 s) (o : LigOp) : Keeps s0 (State.ligNext o s) := by
  unfold State.ligNext
  repeat' first
    | with_reducible first | assumption | apply keeps_ite | apply State.stepSends_keeps | apply State.ligFinish_keeps
                             | intro _
    | split | dsimp only

theorem State.stepJoin_keeps {s0 s : State} (hk : Keeps s0 s) (o : LigOp) : Keeps s0 (State.stepJoin s o) := by
  unfold State.stepJoin
  try dsimp only
  repeat' first
    | with_reducible first | assumption | apply keeps_ite | apply State.putOp_keeps | apply State.ligUsed_keeps
                             | apply State.stepSends_keeps | apply State.ligOutput_keeps | apply State.ligNext_keeps
                             | apply keeps_foldl | intro _
    | split | dsimp only | with_reducible apply keeps_mk

theorem State.ligStep_keeps {s0 s : State} (hk : Keeps s0 s) (gi : Nat) (die : Nat) :
    Keeps s0 (State.ligStep s gi die) := by
  unfold State.ligStep
  try dsimp only
  repeat' first
    | with_reducible first | assumption | apply keeps_ite | apply State.sendOwed_keeps | apply State.ligLoad_keeps
                             | apply State.ligOutput_keeps | apply State.ligFinish_keeps | apply State.ligNext_keeps
                             | apply State.stepJoin_keeps | apply State.ligFlush_keeps | intro _
    | split | dsimp only

theorem execLigStepEnd_keeps {s0 s : State} (hk : Keeps s0 s) (group : BitVec 10) (die : BitVec 5) :
    KRes s0 (execLigStepEnd group die s) := by
  unfold execLigStepEnd
  repeat' first
    | with_reducible first | assumption | apply State.ligStep_keeps | apply kres_next | intro _
    | dsimp only

theorem State.opStart_keeps {s0 s : State} (hk : Keeps s0 s) (gi : Nat) (die : Nat) :
    Keeps s0 (State.opStart s gi die) := by
  unfold State.opStart
  try dsimp only
  repeat' first
    | with_reducible first | assumption | apply keeps_ite | apply State.trace_keeps | apply State.putOp_keeps
                             | apply State.stepSends_keeps | apply State.ligLoad_keeps | intro _
    | split | dsimp only | with_reducible apply keeps_mk

theorem execCollOpStart_keeps {s0 s : State} (hk : Keeps s0 s) (group : BitVec 10) (die : BitVec 5) :
    KRes s0 (execCollOpStart group die s) := by
  unfold execCollOpStart
  repeat' first
    | with_reducible first | assumption | apply State.opStart_keeps | apply kres_next | intro _
    | dsimp only

theorem State.digestDecide_keeps {s0 s : State} (hk : Keeps s0 s) (o : LigOp) :
    Keeps s0 (State.digestDecide s o) := by
  unfold State.digestDecide
  try dsimp only
  repeat' first
    | with_reducible first | assumption | apply keeps_ite | apply State.updGroup_keeps | apply State.ligEnd_keeps
                             | apply State.putOp_keeps | apply State.ligLoad_keeps | intro _
    | split | dsimp only | with_reducible apply keeps_mk

theorem State.digestStep_keeps {s0 s : State} (hk : Keeps s0 s) (gi : Nat) (die : Nat) :
    Keeps s0 (State.digestStep s gi die) := by
  unfold State.digestStep
  try dsimp only
  repeat' first
    | with_reducible first | assumption | apply keeps_ite | apply State.sendOwed_keeps | apply State.putOp_keeps
                             | apply State.ligUsed_keeps | apply State.stepSends_keeps
                             | apply State.digestDecide_keeps | apply State.ligFlush_keeps | apply keeps_getD
                             | intro _
    | split | dsimp only

theorem execDigestRoundEnd_keeps {s0 s : State} (hk : Keeps s0 s) (group : BitVec 10) (die : BitVec 5) :
    KRes s0 (execDigestRoundEnd group die s) := by
  unfold execDigestRoundEnd
  repeat' first
    | with_reducible first | assumption | apply State.digestStep_keeps | apply kres_next | intro _
    | dsimp only

theorem execGroupTimeout_keeps {s0 s : State} (hk : Keeps s0 s) (group : BitVec 10) (die : BitVec 5) :
    KRes s0 (execGroupTimeout group die s) := by
  unfold execGroupTimeout
  try dsimp only
  repeat' first
    | with_reducible first | assumption | apply keeps_ite | apply State.ligEnd_keeps | apply kres_next | intro _
    | split | dsimp only

theorem State.deferGroup_keeps {s0 s : State} (hk : Keeps s0 s) (o : LigOp) (ltype : Nat) :
    Keeps s0 (State.deferGroup s o ltype) := by
  unfold State.deferGroup
  repeat' first
    | with_reducible first | assumption | apply State.updGroup_keeps | apply State.ligControl_keeps | intro _
    | dsimp only | with_reducible apply keeps_mk

theorem execDeferNoticeTick_keeps {s0 s : State} (hk : Keeps s0 s) : KRes s0 (execDeferNoticeTick s) := by
  unfold execDeferNoticeTick
  try dsimp only
  repeat' first
    | with_reducible first | assumption | apply kres_ite | apply keeps_ite | apply State.sendOwed_keeps
                             | apply State.deferGroup_keeps | apply keeps_foldl | apply kres_next | apply kres_fault
                             | intro _
    | split | dsimp only

theorem execTimerPauseEnd_keeps {s0 s : State} (hk : Keeps s0 s) (group : BitVec 10) :
    KRes s0 (execTimerPauseEnd group s) := by
  unfold execTimerPauseEnd
  repeat' first
    | with_reducible first | assumption | apply State.updGroup_keeps | apply kres_next | intro _
    | dsimp only

theorem State.groupWrite_keeps {s0 s : State} (hk : Keeps s0 s) (gi : Nat) (v : BitVec 256) :
    Keeps s0 (State.groupWrite s gi v) := by
  unfold State.groupWrite
  try dsimp only
  repeat' first
    | with_reducible first | assumption | apply keeps_ite | apply State.updGroup_keeps | intro _
    | split | dsimp only | with_reducible apply keeps_mk

theorem execGroupLoad_keeps {s0 s : State} (hk : Keeps s0 s) (fn : BitVec 6) (group : BitVec 10) (v : BitVec 256) :
    KRes s0 (execGroupLoad fn group v s) := by
  unfold execGroupLoad
  repeat' first
    | with_reducible first | assumption | apply keeps_ite | apply State.groupWrite_keeps | apply kres_next | intro _
    | split | dsimp only

theorem execGroupEnd_keeps {s0 s : State} (hk : Keeps s0 s) (fn : BitVec 6) (group : BitVec 10) :
    KRes s0 (execGroupEnd fn group s) := by
  unfold execGroupEnd
  repeat' first
    | with_reducible first | assumption | apply keeps_ite | apply State.updGroup_keeps | apply kres_next | intro _
    | split | dsimp only

theorem State.rankTable_keeps {s0 s : State} (hk : Keeps s0 s) (g : Group) : KPair s0 (State.rankTable s g) := by
  unfold State.rankTable
  repeat' first
    | with_reducible first | assumption | apply kpair_foldl | apply kpair_bind | apply kpair_ite | apply kpair_some
                             | apply kpair_none | apply kpair_map | apply State.cacheRead_keeps
                             | apply State.walkTouch_keeps | intro _
    | split | dsimp only

theorem State.groupLoaded_keeps {s0 s : State} (hk : Keeps s0 s) (gi : Nat) : Keeps s0 (State.groupLoaded s gi) := by
  unfold State.groupLoaded
  dsimp only
  split
  · exact hk
  · split
    · exact State.updGroup_keeps hk _ _
    · rename_i e
      have ht := State.rankTable_keeps hk _ _ _ e
      split <;> exact State.updGroup_keeps ht _ _

theorem execGroupLoadDone_keeps {s0 s : State} (hk : Keeps s0 s) (group : BitVec 10) :
    KRes s0 (execGroupLoadDone group s) := by
  unfold execGroupLoadDone
  repeat' first
    | with_reducible first | assumption | apply State.groupLoaded_keeps | apply kres_next | intro _
    | dsimp only

theorem State.takeLig_keeps {s0 s t : State} {ltype g : Nat} {m : List (BitVec 1920)} (e : s.takeLig ltype = some (m, g, t))
    (h : Keeps s0 s) : Keeps s0 t := by
  unfold State.takeLig at e
  split at e
  · simp at e
  · rename_i m' s1 heq
    cases hg : s.groupOf (msgHdr m').lig.gid with
    | none => simp [hg] at e
    | some g' =>
      simp only [hg, Option.map_some, Option.some.injEq, Prod.mk.injEq] at e
      exact e.2.2 ▸ State.takeMsg_keeps heq h

theorem State.ligRefuse_keeps {s0 s : State} (hk : Keeps s0 s) (h : MsgHdr) (gi : Nat) (reason : Nat) :
    Keeps s0 (State.ligRefuse s h gi reason) := by
  unfold State.ligRefuse
  try dsimp only
  repeat' first
    | with_reducible first | assumption | apply keeps_ite | apply State.ligEnd_keeps | apply State.refuse_keeps
                             | apply keeps_foldl | intro _
    | split | dsimp only

theorem State.ligArrive_keeps {s0 s : State} (hk : Keeps s0 s) (m : List (BitVec 1920)) (gi : Nat) :
    Keeps s0 (State.ligArrive s m gi) := by
  unfold State.ligArrive
  try dsimp only
  repeat' first
    | with_reducible first | assumption | apply keeps_ite | apply State.sendAck_keeps | apply State.depositLig_keeps
                             | apply State.ligRefuse_keeps | apply keeps_foldl | intro _
    | split | dsimp only

theorem execLigatureData_keeps {s0 s : State} (hk : Keeps s0 s) : KRes s0 (execLigatureData s) := by
  unfold execLigatureData
  repeat' first
    | with_reducible first | assumption | refine State.takeLig_keeps (by assumption) ?_
                             | apply State.ligArrive_keeps | apply kres_next | intro _
    | split | dsimp only

theorem State.digestArrive_keeps {s0 s : State} (hk : Keeps s0 s) (m : List (BitVec 1920)) (gi : Nat) :
    Keeps s0 (State.digestArrive s m gi) := by
  unfold State.digestArrive
  try dsimp only
  repeat' first
    | with_reducible first | assumption | apply keeps_ite | apply State.sendAck_keeps | apply State.depositLig_keeps
                             | apply keeps_foldl | intro _
    | split | dsimp only

theorem execLigatureDigest_keeps {s0 s : State} (hk : Keeps s0 s) : KRes s0 (execLigatureDigest s) := by
  unfold execLigatureDigest
  repeat' first
    | with_reducible first | assumption | refine State.takeLig_keeps (by assumption) ?_
                             | apply State.digestArrive_keeps | apply kres_next | intro _
    | split | dsimp only

theorem State.abortArrive_keeps {s0 s : State} (hk : Keeps s0 s) (m : List (BitVec 1920)) (gi : Nat) :
    Keeps s0 (State.abortArrive s m gi) := by
  unfold State.abortArrive
  try dsimp only
  repeat' first
    | with_reducible first | assumption | apply keeps_ite | apply State.ligAborted_keeps | apply State.sendAck_keeps
                             | apply State.digestStep_keeps | apply keeps_foldl | apply keeps_getD | intro _
    | split | dsimp only

theorem execLigatureAbort_keeps {s0 s : State} (hk : Keeps s0 s) : KRes s0 (execLigatureAbort s) := by
  unfold execLigatureAbort
  repeat' first
    | with_reducible first | assumption | apply State.abortArrive_keeps | apply kres_next | apply kres_fault
                             | refine State.takeLig_keeps (by assumption) ?_ | intro _
    | split | dsimp only

theorem State.deferArrive_keeps {s0 s : State} (hk : Keeps s0 s) (ltype : Nat) :
    Keeps s0 (State.deferArrive s ltype) := by
  unfold State.deferArrive
  repeat' first
    | with_reducible first | assumption | refine State.takeLig_keeps (by assumption) ?_ | apply State.updGroup_keeps
                             | apply State.sendAck_keeps | intro _
    | split | dsimp only

theorem execThermalDefer_keeps {s0 s : State} (hk : Keeps s0 s) : KRes s0 (execThermalDefer s) := by
  unfold execThermalDefer
  repeat' first
    | with_reducible first | assumption | apply State.deferArrive_keeps | apply kres_next | intro _
    | dsimp only

theorem execFaultDefer_keeps {s0 s : State} (hk : Keeps s0 s) : KRes s0 (execFaultDefer s) := by
  unfold execFaultDefer
  repeat' first
    | with_reducible first | assumption | apply State.deferArrive_keeps | apply kres_next | intro _
    | dsimp only

theorem State.ligJoin_keeps {s0 s : State} (hk : Keeps s0 s) (c : CtxRef) (w : Word32) (tag : Nat) (old : LigTag)
    (img : BitVec 1024) :
    Keeps s0 (State.ligJoin s c w tag old img) := by
  unfold State.ligJoin
  repeat' first
    | with_reducible first | assumption | apply keeps_ite | apply State.goIdle_keeps | apply State.endCommand_keeps
                             | apply State.commit_keeps | intro _
    | split | dsimp only | with_reducible apply keeps_mk

theorem execLigStart_keeps {s0 s : State} (hk : Keeps s0 s) (c : CtxRef) (w : Word32) :
    KRes s0 (execLigStart c w s) := by
  unfold execLigStart
  try dsimp only
  repeat' first
    | with_reducible first | assumption | apply keeps_ite | apply State.trapOperand_keeps | apply State.issue_keeps
                             | apply State.commit_keeps | apply State.imageRead_keeps | apply State.ligLaunch_keeps
                             | apply State.ligJoin_keeps | intro _
    | split | dsimp only

theorem execLigWait_keeps {s0 s : State} (hk : Keeps s0 s) (c : CtxRef) (w : Word32) :
    KRes s0 (execLigWait c w s) := by
  unfold execLigWait
  try dsimp only
  repeat' first
    | with_reducible first | assumption | apply State.issue_keeps | apply State.commit_keeps | intro _
    | split | dsimp only

/-! Reset.lean. -/

theorem State.clearCore_keeps {s0 s : State} (hk : Keeps s0 s) (k : Nat) : Keeps s0 (State.clearCore s k) := by
  unfold State.clearCore
  repeat' first
    | with_reducible first | assumption | apply State.updCoreTimed_keeps | intro _
    | dsimp only | with_reducible apply keeps_mk

theorem State.dropTlb_keeps {s0 s : State} (hk : Keeps s0 s) (fn : Nat) : Keeps s0 (State.dropTlb s fn) := by
  unfold State.dropTlb
  repeat' first
    | with_reducible first | assumption | intro _
    | dsimp only | with_reducible apply keeps_mk

theorem State.releaseFrame_keeps {s0 s : State} (hk : Keeps s0 s) (key : Nat) :
    Keeps s0 (State.releaseFrame s key) := by
  unfold State.releaseFrame
  repeat' first
    | with_reducible first | assumption | apply State.updDie_keeps | intro _
    | dsimp only | with_reducible apply keeps_mk

theorem State.dropTable_keeps {s0 s : State} (hk : Keeps s0 s) (n : Nat) (new : Option Nat) :
    Keeps s0 (State.dropTable s n new) := by
  unfold State.dropTable
  try dsimp only
  repeat' first
    | with_reducible first | assumption | apply keeps_ite | apply State.updFunc_keeps | apply State.zeroMem_keeps
                             | apply State.releaseFrame_keeps | intro _
    | split | dsimp only | with_reducible apply keeps_mk

theorem State.afterReset_keeps {s0 s : State} (h : Keeps s0 s) (stage : Stage) : Keeps s0 (s.afterReset stage) :=
  keeps_mem h rfl fun _ => rfl

theorem State.powerOff_keeps {s0 s : State} (hk : Keeps s0 s) : Keeps s0 (State.powerOff s) := by
  unfold State.powerOff
  try dsimp only
  repeat' first
    | with_reducible first | assumption | apply State.updMod_keeps | apply State.afterReset_keeps | intro _
    | split | dsimp only

theorem State.trip_keeps {s0 s : State} (hk : Keeps s0 s) : Keeps s0 (State.trip s) := by
  unfold State.trip
  repeat' first
    | with_reducible first | assumption | apply keeps_ite | apply State.updMod_keeps | apply State.powerOff_keeps
                             | intro _
    | split | dsimp only | with_reducible apply keeps_mk

/-! MemEvents.lean. -/

theorem execInkwellScrub_keeps {s0 s : State} (hk : Keeps s0 s) (k : CoreRef) (found : Ecc) :
    KRes s0 (execInkwellScrub k found s) := by
  unfold execInkwellScrub
  repeat' first
    | with_reducible first | assumption | apply State.updCore_keeps | apply onCore_keeps | intro _
    | dsimp only

theorem execInkwellClearDone_keeps {s0 s : State} (hk : Keeps s0 s) (k : CoreRef) :
    KRes s0 (execInkwellClearDone k s) := by
  unfold execInkwellClearDone
  repeat' first
    | with_reducible first | assumption | apply State.updCore_keeps | apply onCore_keeps | intro _
    | dsimp only

theorem State.poisonLine_keeps {s0 s : State} (hk : Keeps s0 s) (spa : Nat) :
    Keeps s0 (State.poisonLine s spa) := by
  unfold State.poisonLine
  repeat' first
    | with_reducible first | assumption | intro _
    | split | dsimp only | with_reducible apply keeps_mk

theorem State.readerFault_keeps {s0 s : State} (hk : Keeps s0 s) (spa : Nat) (e : Engine) :
    Keeps s0 (State.readerFault s spa e) := by
  unfold State.readerFault
  repeat' first
    | with_reducible first | assumption | apply State.poisonFault_keeps | apply State.feedFault_keeps
                             | apply State.ligFault_keeps | apply keeps_getD | intro _
    | split | dsimp only

theorem State.fillEcc_keeps {s0 s : State} (hk : Keeps s0 s) (die : Nat) (line : Nat) (covered : Bool)
    (found : Ecc) :
    Keeps s0 (State.fillEcc s die line covered found) := by
  unfold State.fillEcc
  try dsimp only
  repeat' first
    | with_reducible first | assumption | apply keeps_ite | apply State.updDie_keeps | apply State.poisonLine_keeps
                             | intro _
    | split | dsimp only

theorem State.lineArrives_keeps {s0 s : State} (hk : Keeps s0 s) (die : Nat) (line : Nat) (p : ChanReq × SMap Nat)
    (found : Ecc) :
    Keeps s0 (State.lineArrives s die line p found) := by
  unfold State.lineArrives
  try dsimp only
  repeat' first
    | with_reducible first | assumption | apply keeps_ite | apply State.updCache_keeps | apply State.arrive_keeps
                             | apply State.readerFault_keeps | apply State.fillEcc_keeps | apply keeps_foldl
                             | apply keeps_getD | intro _
    | split | dsimp only | with_reducible apply keeps_mk

theorem State.heldLineError_keeps {s0 s : State} (hk : Keeps s0 s) (die : Nat) (l : DcLine) (found : Ecc) :
    Keeps s0 (State.heldLineError s die l found) := by
  unfold State.heldLineError
  try dsimp only
  repeat' first
    | with_reducible first | assumption | apply keeps_ite | apply State.updDie_keeps | apply State.poisonLine_keeps
                             | apply keeps_getD | intro _
    | split | dsimp only | with_reducible apply keeps_mk

theorem execDcLineFill_keeps {s0 s : State} (hk : Keeps s0 s) (die : BitVec 5) (line : BitVec 31) (found : Ecc) :
    KRes s0 (execDcLineFill die line found s) := by
  unfold execDcLineFill
  try dsimp only
  repeat' first
    | with_reducible first | assumption | apply kres_ite | apply keeps_ite | apply State.lineArrives_keeps
                             | apply State.heldLineError_keeps | apply kres_next | apply kres_fault | intro _
    | split | dsimp only

theorem execEvictionWriteback_keeps {s0 s : State} (hk : Keeps s0 s) (die : BitVec 5) (slice : BitVec 4) :
    KRes s0 (execEvictionWriteback die slice s) := by
  unfold execEvictionWriteback
  repeat' first
    | with_reducible first | assumption | apply State.updDie_keeps | apply kres_next | apply kres_fault | intro _
    | dsimp only

theorem execSsdTrackerExpire_keeps {s0 s : State} (hk : Keeps s0 s) (die : BitVec 5) (slice : BitVec 4)
    (i : BitVec 3) : KRes s0 (execSsdTrackerExpire die slice i s) := by
  unfold execSsdTrackerExpire
  repeat' first
    | with_reducible first | assumption | apply State.updDie_keeps | apply kres_next | intro _
    | dsimp only

theorem execStackScrub_keeps {s0 s : State} (hk : Keeps s0 s) (die : BitVec 5) (channel : BitVec 7) (found : Ecc) :
    KRes s0 (execStackScrub die channel found s) := by
  unfold execStackScrub
  try dsimp only
  repeat' first
    | with_reducible first | assumption | apply kres_ite | apply keeps_ite | apply State.updDie_keeps
                             | apply State.poisonLine_keeps | apply kres_next | intro _
    | split | dsimp only

theorem execStackTempMeasure_keeps {s0 s : State} (hk : Keeps s0 s) (die : BitVec 5) (temp : BitVec 8) :
    KRes s0 (execStackTempMeasure die temp s) := by
  unfold execStackTempMeasure
  try dsimp only
  repeat' first
    | with_reducible first | assumption | apply kres_ite | apply keeps_ite | apply State.updDie_keeps
                             | apply State.trace_keeps | apply State.trip_keeps | apply kres_next | intro _
    | split | dsimp only

theorem execDieTempMeasure_keeps {s0 s : State} (hk : Keeps s0 s) (die : BitVec 5) (temp : BitVec 8) :
    KRes s0 (execDieTempMeasure die temp s) := by
  unfold execDieTempMeasure
  try dsimp only
  repeat' first
    | with_reducible first | assumption | apply kres_ite | apply State.updDie_keeps | apply State.updMod_keeps
                             | apply State.trip_keeps | apply kres_next | intro _
    | split | dsimp only

theorem execThermalClockStep_keeps {s0 s : State} (hk : Keeps s0 s) : KRes s0 (execThermalClockStep s) := by
  unfold execThermalClockStep
  repeat' first
    | with_reducible first | assumption | apply keeps_ite | apply State.updMod_keeps | apply kres_next | intro _
    | split | dsimp only

theorem execGovernorStep_keeps {s0 s : State} (hk : Keeps s0 s) (avgWatts : BitVec 16) (steps : BitVec 4) :
    KRes s0 (execGovernorStep avgWatts steps s) := by
  unfold execGovernorStep
  try dsimp only
  repeat' first
    | with_reducible first | assumption | apply State.updMod_keeps | apply kres_next | intro _
    | split | dsimp only

theorem execSensorSample_keeps {s0 s : State} (hk : Keeps s0 s) (r : SensorReading) :
    KRes s0 (execSensorSample r s) := by
  unfold execSensorSample
  try dsimp only
  repeat' first
    | with_reducible first | assumption | apply kres_ite | apply State.updMod_keeps | apply kres_next | intro _
    | split | dsimp only

/-! Mmu.lean. -/

theorem State.walkDone_keeps {s0 s : State} (hk : Keeps s0 s) (die : Nat) (fn : Nat) (va : Word) (a : Access)
    (req : Option CtxRef) :
    Keeps s0 (State.walkDone s die fn va a req) := by
  unfold State.walkDone
  try dsimp only
  repeat' first
    | with_reducible first | assumption | apply keeps_ite | apply State.walkTouch_keeps | apply State.fillDieTlb_keeps
                             | apply State.locate_keeps | apply State.takeTrap_keeps | apply State.accEnd_keeps
                             | apply Acc.bind_keeps | intro _
    | split | dsimp only

theorem execWalkComplete_keeps {s0 s : State} (hk : Keeps s0 s) (die : BitVec 5) (fn : BitVec 6) (va : Word)
    (a : Access) (req : Option CtxRef) : KRes s0 (execWalkComplete die fn va a req s) := by
  unfold execWalkComplete
  repeat' first
    | with_reducible first | assumption | apply onCtx_keeps | apply State.walkDone_keeps | apply kres_next | intro _
    | split | dsimp only

theorem execFaultRecordWrite_keeps {s0 s : State} (hk : Keeps s0 s) (die : BitVec 5) (fn : BitVec 6)
    (page : BitVec 23) : KRes s0 (execFaultRecordWrite die fn page s) := by
  unfold execFaultRecordWrite
  try dsimp only
  repeat' first
    | with_reducible first | assumption | apply kres_ite | apply State.updDie_keeps | apply State.updFunc_keeps
                             | apply State.putRecord_keeps | apply kres_next | intro _
    | split | dsimp only

theorem State.engineResumes_keeps {s0 s : State} (hk : Keeps s0 s) (f : PageFault) (e : Engine) (va : Nat) :
    Keeps s0 (State.engineResumes s f e va) := by
  unfold State.engineResumes
  try dsimp only
  repeat' first
    | with_reducible first | assumption | apply keeps_ite | apply State.trace_keeps | apply State.updCtxOf_keeps
                             | apply State.putXfer_keeps | apply State.putOp_keeps | intro _
    | split | dsimp only | with_reducible apply keeps_mk

theorem State.commitAll_keeps {s0 s : State} (hk : Keeps s0 s) (c : CtxRef) : Keeps s0 (State.commitAll s c) := by
  unfold State.commitAll
  repeat' first
    | with_reducible first | assumption | apply State.vecCommit_keeps | apply forN_keeps | intro _
    | dsimp only

theorem State.engineDeclined_keeps {s0 s : State} (hk : Keeps s0 s) (e : Engine) (va : Nat) :
    Keeps s0 (State.engineDeclined s e va) := by
  unfold State.engineDeclined
  repeat' first
    | with_reducible first | assumption | apply State.takeTrap_keeps | apply State.ligEnd_keeps
                             | apply State.putXfer_keeps | apply State.commitAll_keeps | intro _
    | split | dsimp only

theorem State.answerFault_keeps {s0 s : State} (hk : Keeps s0 s) (n : Nat) (tag : Nat) (retry : Bool) :
    Keeps s0 (State.answerFault s n tag retry) := by
  unfold State.answerFault
  try dsimp only
  repeat' first
    | with_reducible first | assumption | apply keeps_ite | apply State.updDie_keeps
                             | apply State.engineResumes_keeps | apply State.engineDeclined_keeps
                             | apply keeps_foldl | intro _
    | split | dsimp only

theorem execFaultRetry_keeps {s0 s : State} (hk : Keeps s0 s) (fn : BitVec 6) (n : BitVec 6) (tag : BitVec 16) :
    KRes s0 (execFaultRetry fn n tag s) := by
  unfold execFaultRetry
  repeat' first
    | with_reducible first | assumption | apply keeps_ite | apply State.answerFault_keeps | apply kres_next
                             | intro _
    | split | dsimp only

theorem execFaultDecline_keeps {s0 s : State} (hk : Keeps s0 s) (fn : BitVec 6) (n : BitVec 6) (tag : BitVec 16) :
    KRes s0 (execFaultDecline fn n tag s) := by
  unfold execFaultDecline
  repeat' first
    | with_reducible first | assumption | apply keeps_ite | apply State.answerFault_keeps | apply kres_next
                             | intro _
    | split | dsimp only

theorem execFaultAnswerTimeout_keeps {s0 s : State} (hk : Keeps s0 s) (n : BitVec 6) (tag : BitVec 16) :
    KRes s0 (execFaultAnswerTimeout n tag s) := by
  unfold execFaultAnswerTimeout
  repeat' first
    | with_reducible first | assumption | apply keeps_ite | apply State.answerFault_keeps | apply kres_next
                             | intro _
    | split | dsimp only

theorem execFaultQueueHeadWrite_keeps {s0 s : State} (hk : Keeps s0 s) (fn : BitVec 6) (n : BitVec 6)
    (head : BitVec 12) : KRes s0 (execFaultQueueHeadWrite fn n head s) := by
  unfold execFaultQueueHeadWrite
  repeat' first
    | with_reducible first | assumption | apply keeps_ite | apply State.updFunc_keeps | apply kres_next | intro _
    | split | dsimp only

theorem State.tbaseWrite_keeps {s0 s : State} (hk : Keeps s0 s) (fn : Nat) (k : Nat) (v : Word) :
    Keeps s0 (State.tbaseWrite s fn k v) := by
  unfold State.tbaseWrite
  try dsimp only
  repeat' first
    | with_reducible first | assumption | apply keeps_ite | apply State.updFunc_keeps | apply State.dropTlb_keeps
                             | apply State.dropTable_keeps | intro _
    | split | dsimp only | with_reducible apply keeps_mk

theorem execMmuTbaseWrite_keeps {s0 s : State} (hk : Keeps s0 s) (fn : BitVec 6) (n : BitVec 6) (v : Word) :
    KRes s0 (execMmuTbaseWrite fn n v s) := by
  unfold execMmuTbaseWrite
  repeat' first
    | with_reducible first | assumption | apply State.tbaseWrite_keeps | apply kres_next | intro _
    | dsimp only

theorem execTableInitDone_keeps {s0 s : State} (hk : Keeps s0 s) (n : BitVec 6) :
    KRes s0 (execTableInitDone n s) := by
  unfold execTableInitDone
  try dsimp only
  repeat' first
    | with_reducible first | assumption | apply kres_ite | apply keeps_ite | apply State.updFunc_keeps
                             | apply State.zeroMem_keeps | apply kres_next | apply kres_fault | intro _
    | split | dsimp only | with_reducible apply keeps_mk

theorem State.l2poolWrite_keeps {s0 s : State} (hk : Keeps s0 s) (fn : Nat) (v : Word) :
    Keeps s0 (State.l2poolWrite s fn v) := by
  unfold State.l2poolWrite
  try dsimp only
  repeat' first
    | with_reducible first | assumption | apply keeps_ite | intro _
    | split | dsimp only | with_reducible apply keeps_mk

theorem execMmuL2poolWrite_keeps {s0 s : State} (hk : Keeps s0 s) (fn : BitVec 6) (v : Word) :
    KRes s0 (execMmuL2poolWrite fn v s) := by
  unfold execMmuL2poolWrite
  repeat' first
    | with_reducible first | assumption | apply State.l2poolWrite_keeps | apply kres_next | intro _
    | dsimp only

theorem State.complete_keeps {s0 s : State} (hk : Keeps s0 s) (r : CmdRef) (status : Nat) (detail : Nat)
    (result : Nat) : Keeps s0 (State.complete s r status detail result) := by
  unfold State.complete
  repeat' first
    | with_reducible first | assumption | apply State.updCmd_keeps | intro _
    | dsimp only

theorem State.putPte_keeps {s0 s : State} (hk : Keeps s0 s) (fn : Nat) (a : Nat) (e : Nat) :
    Keeps s0 (State.putPte s fn a e) := by
  unfold State.putPte
  repeat' first
    | with_reducible first | assumption | apply State.putMemLe_keeps | apply State.cacheWrite_keeps | intro _
    | dsimp only

theorem State.writeEntry_keeps {s0 s : State} (hk : Keeps s0 s) (fn : Nat) (va : Nat) (big : Bool) (e : Nat) :
    Keeps s0 (State.writeEntry s fn va big e) := by
  unfold State.writeEntry
  try dsimp only
  repeat' first
    | with_reducible first | assumption | apply keeps_ite | apply State.zeroMem_keeps | apply State.putPte_keeps
                             | intro _
    | split | dsimp only | with_reducible apply keeps_mk

theorem State.dropRange_keeps {s0 s : State} (hk : Keeps s0 s) (fn : Nat) (lo : Nat) (n : Nat) :
    Keeps s0 (State.dropRange s fn lo n) := by
  unfold State.dropRange
  try dsimp only
  repeat' first
    | with_reducible first | assumption | intro _
    | dsimp only | with_reducible apply keeps_mk

theorem State.drainFunc_keeps {s0 s : State} (hk : Keeps s0 s) (fn : Nat) : KOpt s0 (State.drainFunc s fn) := by
  unfold State.drainFunc
  try dsimp only
  repeat' first
    | with_reducible first | assumption | apply kopt_ite | apply accEach_keeps | apply State.drainCtx_keeps
                             | apply kopt_some | apply kopt_none | refine kacc_ok_eq (by assumption) ?_ | intro _
    | split | dsimp only

theorem State.settleRange_keeps {s0 s : State} (hk : Keeps s0 s) (fn : Nat) (lo : Nat) (n : Nat) :
    KOpt s0 (State.settleRange s fn lo n) := by
  unfold State.settleRange
  repeat' first
    | with_reducible first | assumption | apply kopt_ite | apply keeps_ite | apply State.drainFunc_keeps
                             | apply kopt_some | apply kopt_none | apply kopt_bind | refine kopt_eq (by assumption) ?_
                             | intro _
    | split | dsimp only

theorem State.readEntries_keeps {s0 s : State} (hk : Keeps s0 s) (fn : Nat) (vas : List Nat) :
    Keeps s0 (State.readEntries s fn vas) := by
  unfold State.readEntries
  repeat' first
    | with_reducible first | assumption | apply State.walkTouch_keeps | apply keeps_foldl | intro _
    | dsimp only

theorem State.mapPages_keeps {s0 s : State} (hk : Keeps s0 s) (r : CmdRef) (c : Cmd) :
    Keeps s0 (State.mapPages s r c) := by
  unfold State.mapPages
  try dsimp only
  repeat' first
    | with_reducible first | assumption | apply keeps_ite | apply kopt_ite | apply State.complete_keeps
                             | apply State.writeEntry_keeps | apply State.dropRange_keeps
                             | apply State.drainFunc_keeps | apply State.settleRange_keeps
                             | apply State.readEntries_keeps | apply keeps_foldl | apply kopt_some | apply kopt_none
                             | apply keeps_getD | refine kopt_eq (by assumption) ?_ | intro _
    | split | dsimp only

theorem execMapPage_keeps {s0 s : State} (hk : Keeps s0 s) (c : CmdRef) : KRes s0 (execMapPage c s) := by
  unfold execMapPage
  repeat' first
    | with_reducible first | assumption | apply keeps_ite | apply State.mapPages_keeps | apply kres_next | intro _
    | split | dsimp only

theorem State.unmapPages_keeps {s0 s : State} (hk : Keeps s0 s) (r : CmdRef) (c : Cmd) :
    Keeps s0 (State.unmapPages s r c) := by
  unfold State.unmapPages
  try dsimp only
  repeat' first
    | with_reducible first | assumption | apply keeps_ite | apply kopt_ite | apply State.complete_keeps
                             | apply State.writeEntry_keeps | apply State.dropRange_keeps
                             | apply State.drainFunc_keeps | apply State.settleRange_keeps
                             | apply State.readEntries_keeps | apply keeps_foldl | apply kopt_some | apply kopt_none
                             | apply keeps_getD | refine kopt_eq (by assumption) ?_ | intro _
    | split | dsimp only

theorem execUnmapPage_keeps {s0 s : State} (hk : Keeps s0 s) (c : CmdRef) : KRes s0 (execUnmapPage c s) := by
  unfold execUnmapPage
  repeat' first
    | with_reducible first | assumption | apply keeps_ite | apply State.unmapPages_keeps | apply kres_next | intro _
    | split | dsimp only

theorem State.mapInk_keeps {s0 s : State} (hk : Keeps s0 s) (r : CmdRef) (c : Cmd) :
    Keeps s0 (State.mapInk s r c) := by
  unfold State.mapInk
  try dsimp only
  repeat' first
    | with_reducible first | assumption | apply keeps_ite | apply State.updCore_keeps | apply State.complete_keeps
                             | intro _
    | split | dsimp only

theorem execMapInkwell_keeps {s0 s : State} (hk : Keeps s0 s) (c : CmdRef) : KRes s0 (execMapInkwell c s) := by
  unfold execMapInkwell
  repeat' first
    | with_reducible first | assumption | apply keeps_ite | apply State.mapInk_keeps | apply kres_next | intro _
    | split | dsimp only

theorem State.unmapInk_keeps {s0 s : State} (hk : Keeps s0 s) (r : CmdRef) (c : Cmd) :
    Keeps s0 (State.unmapInk s r c) := by
  unfold State.unmapInk
  try dsimp only
  repeat' first
    | with_reducible first | assumption | apply keeps_ite | apply State.updCore_keeps | apply State.complete_keeps
                             | intro _
    | split | dsimp only

theorem execUnmapInkwell_keeps {s0 s : State} (hk : Keeps s0 s) (c : CmdRef) : KRes s0 (execUnmapInkwell c s) := by
  unfold execUnmapInkwell
  repeat' first
    | with_reducible first | assumption | apply keeps_ite | apply State.unmapInk_keeps | apply kres_next | intro _
    | split | dsimp only

theorem execWindowSet_keeps {s0 s : State} (hk : Keeps s0 s) (c : CmdRef) : KRes s0 (execWindowSet c s) := by
  unfold execWindowSet
  try dsimp only
  repeat' first
    | with_reducible first | assumption | apply kres_ite | apply State.updWindow_keeps | apply State.complete_keeps
                             | apply kres_next | intro _
    | split | dsimp only

theorem State.migrateAcc_keeps {α : Type} {s0 : State} (r : CmdRef) {x : Acc α} {f : α → State → State}
    (hx : KAcc s0 x) (hf : ∀ a t, Keeps s0 t → Keeps s0 (f a t)) : Keeps s0 (State.migrateAcc r x f) := by
  cases x with
  | ok a t => exact hf a t hx
  | wait t => exact hx
  | trap cause arg t => exact hx
  | page cause va wr t => exact State.complete_keeps hx _ _ _ _
  | poison spa t => exact State.feedFault_keeps hx _ _ _ _ _ _ _
  | lost reason t => exact State.complete_keeps hx _ _ _ _

theorem State.dieEntry_keeps {s0 s : State} (hk : Keeps s0 s) (ag : Agent) (va : Nat) :
    KAcc s0 (State.dieEntry s ag va) := by
  unfold State.dieEntry
  repeat' first
    | with_reducible first | assumption | apply State.fillDieTlb_keeps | apply State.walkFor_keeps
                             | apply Acc.bind_keeps | apply kacc_ok | intro _
    | split | dsimp only

theorem State.migrate_keeps {s0 s : State} (hk : Keeps s0 s) (r : CmdRef) (c : Cmd) :
    Keeps s0 (State.migrate s r c) := by
  unfold State.migrate
  try dsimp only
  repeat' first
    | with_reducible first | assumption | apply keeps_ite | apply kacc_ite | apply kopt_ite | apply State.updCmd_keeps
                             | apply State.accessDone_keeps | apply State.readLoc_keeps | apply State.writeLoc_keeps
                             | apply State.complete_keeps | apply State.writeEntry_keeps | apply State.dropRange_keeps
                             | apply State.drainFunc_keeps | apply State.settleRange_keeps
                             | apply State.migrateAcc_keeps | apply State.dieEntry_keeps | apply Acc.bind_keeps
                             | apply kacc_ok | apply kopt_some | apply kopt_none | apply keeps_getD
                             | refine kopt_eq (by assumption) ?_ | intro _
    | split | dsimp only | with_reducible apply keeps_mk

theorem execHintMigrate_keeps {s0 s : State} (hk : Keeps s0 s) (c : CmdRef) : KRes s0 (execHintMigrate c s) := by
  unfold execHintMigrate
  repeat' first
    | with_reducible first | assumption | apply State.migrate_keeps | apply kres_next | intro _
    | split | dsimp only

/-! Scribe.lean. -/

theorem State.doorbell_keeps {s0 s : State} (hk : Keeps s0 s) (fn : Nat) (q : Nat) (bytes : Nat) (tail : Nat) :
    Keeps s0 (State.doorbell s fn q bytes tail) := by
  unfold State.doorbell
  try dsimp only
  repeat' first
    | with_reducible first | assumption | apply keeps_ite | apply State.updDie_keeps | apply State.updQueue_keeps
                             | intro _
    | split | dsimp only | with_reducible apply keeps_mk

theorem execDoorbell_keeps {s0 s : State} (hk : Keeps s0 s) (fn : BitVec 6) (queue : BitVec 14) (w : DoorbellWrite) :
    KRes s0 (execDoorbell fn queue w s) := by
  unfold execDoorbell
  repeat' first
    | with_reducible first | assumption | apply kres_ite | apply keeps_ite | apply State.doorbell_keeps
                             | apply kres_next | apply kres_fault | intro _
    | split | dsimp only

theorem State.readEntry_keeps {s0 s : State} (hk : Keeps s0 s) (q : Nat) (i : Nat) :
    Keeps s0 (State.readEntry s q i) := by
  unfold State.readEntry
  try dsimp only
  repeat' first
    | with_reducible first | assumption | apply keeps_ite | apply State.cacheRead_keeps | apply State.walkTouch_keeps
                             | apply State.askHost_keeps | intro _
    | split | dsimp only

theorem State.readRing_keeps {s0 s : State} (hk : Keeps s0 s) (q : Nat) : Keeps s0 (State.readRing s q) := by
  unfold State.readRing
  try dsimp only
  repeat' first
    | with_reducible first | assumption | apply keeps_ite | apply State.readEntry_keeps | intro _
    | split | dsimp only

theorem State.fetchPacket_keeps {s0 s : State} (hk : Keeps s0 s) (q : Nat) (p : BitVec 1024) (n : Nat) :
    Keeps s0 (State.fetchPacket s q p n) := by
  unfold State.fetchPacket
  try dsimp only
  repeat' first
    | with_reducible first | assumption | apply keeps_ite | apply State.updDie_keeps | apply State.updQueue_keeps
                             | apply State.updMod_keeps | apply State.countDie_keeps | apply State.trace_keeps
                             | apply State.readEntry_keeps | apply keeps_foldl | intro _
    | split | dsimp only | with_reducible apply keeps_mk

theorem execPacketFetch_keeps {s0 s : State} (hk : Keeps s0 s) (die : BitVec 5) :
    KRes s0 (execPacketFetch die s) := by
  unfold execPacketFetch
  repeat' first
    | with_reducible first | assumption | apply kres_ite | apply keeps_ite | apply State.readRing_keeps
                             | apply State.fetchPacket_keeps | apply keeps_foldl | apply kres_next | apply kres_fault
                             | intro _
    | split | dsimp only

theorem State.runCtxs_keeps {s0 s : State} (hk : Keeps s0 s) (r : CmdRef) (c : Cmd) :
    Keeps s0 (State.runCtxs s r c) := by
  unfold State.runCtxs
  try dsimp only
  repeat' first
    | with_reducible first | assumption | apply State.updCoreTimed_keeps | apply State.trace_keeps
                             | apply keeps_foldl | intro _
    | dsimp only

theorem State.assignCtxs_keeps {s0 s : State} (hk : Keeps s0 s) (r : CmdRef) (c : Cmd) :
    Keeps s0 (State.assignCtxs s r c) := by
  unfold State.assignCtxs
  try dsimp only
  repeat' first
    | with_reducible first | assumption | apply State.updCmd_keeps | apply State.updCtxOf_keeps | apply keeps_foldl
                             | intro _
    | dsimp only

theorem State.startFeed_keeps {s0 s : State} (hk : Keeps s0 s) (r : CmdRef) (c : Cmd) :
    Keeps s0 (State.startFeed s r c) := by
  unfold State.startFeed
  try dsimp only
  repeat' first
    | with_reducible first | assumption | apply keeps_ite | apply State.updDie_keeps | apply State.feedBegin_keeps
                             | apply State.complete_keeps | intro _
    | split | dsimp only | with_reducible apply keeps_mk

theorem State.startEffect_keeps {s0 s : State} (hk : Keeps s0 s) (r : CmdRef) (c : Cmd) :
    Keeps s0 (State.startEffect s r c) := by
  unfold State.startEffect
  try dsimp only
  repeat' first
    | with_reducible first | assumption | apply keeps_ite | apply State.complete_keeps
                             | apply State.assignCtxs_keeps | apply State.startFeed_keeps | intro _
    | split | dsimp only

theorem execCommandStart_keeps {s0 s : State} (hk : Keeps s0 s) (r : CmdRef) : KRes s0 (execCommandStart r s) := by
  unfold execCommandStart
  try dsimp only
  repeat' first
    | with_reducible first | assumption | apply kres_ite | apply keeps_ite | apply State.updDie_keeps
                             | apply State.updCmd_keeps | apply State.trace_keeps | apply State.startEffect_keeps
                             | apply kres_next | apply kres_fault | intro _
    | split | dsimp only | with_reducible apply keeps_mk

theorem execLaunch_keeps {s0 s : State} (hk : Keeps s0 s) (r : CmdRef) : KRes s0 (execLaunch r s) := by
  unfold execLaunch
  try dsimp only
  repeat' first
    | with_reducible first | assumption | apply keeps_ite | apply State.runCtxs_keeps | apply kres_next | intro _
    | split | dsimp only

theorem State.dropScoped_keeps {s0 s : State} (hk : Keeps s0 s) (r : CmdRef) : Keeps s0 (State.dropScoped s r) := by
  unfold State.dropScoped
  repeat' first
    | with_reducible first | assumption | intro _
    | dsimp only | with_reducible apply keeps_mk

theorem State.drainLeft_keeps {s0 : State} (r : CmdRef) (x : CtxRef) (n : Nat) :
    ∀ {s : State}, Keeps s0 s → KOpt s0 (State.drainLeft r x n s) := by
  induction n with
  | zero => exact fun h => kopt_some h
  | succ n ih =>
    intro s h
    simp only [State.drainLeft]
    split
    · exact kopt_some h
    · split
      · exact ih (State.updCore_keeps (kacc_ok_eq (by assumption) (State.drainEntry_keeps h _ _ _)) _ _)
      · exact ih (State.peerLost_keeps (State.updCore_keeps
          (kacc_lost_eq (by assumption) (State.drainEntry_keeps h _ _ _)) _ _) _ _)
      · exact kopt_none

theorem State.drainCmd_keeps {s0 s : State} (hk : Keeps s0 s) (c : Cmd) : KOpt s0 (State.drainCmd s c) := by
  unfold State.drainCmd
  repeat' first
    | with_reducible first | assumption | apply kopt_foldl | apply State.drainLeft_keeps | apply kopt_some
                             | apply kopt_none | apply kopt_bind | refine kopt_eq (by assumption) ?_ | intro _
    | dsimp only

theorem State.reply_keeps {s0 s : State} (hk : Keeps s0 s) (c : Cmd) : Keeps s0 (State.reply s c) := by
  unfold State.reply
  try dsimp only
  repeat' first
    | with_reducible first | assumption | apply keeps_ite | apply State.updQueue_keeps | apply State.putHost_keeps
                             | apply State.raiseVec_keeps | apply State.writeTrusted_keeps | apply State.trace_keeps
                             | apply State.dropScoped_keeps | apply keeps_getD | intro _
    | split | dsimp only | with_reducible apply keeps_mk

theorem execReplyWrite_keeps {s0 s : State} (hk : Keeps s0 s) (r : CmdRef) : KRes s0 (execReplyWrite r s) := by
  unfold execReplyWrite
  repeat' first
    | with_reducible first | assumption | apply kres_ite | apply keeps_ite | apply State.drainCmd_keeps
                             | apply State.reply_keeps | apply kres_next | apply kres_fault
                             | refine kopt_eq (by assumption) ?_ | intro _
    | split | dsimp only

theorem State.stampDone_keeps {s0 s : State} (hk : Keeps s0 s) : Keeps s0 (State.stampDone s) := by
  unfold State.stampDone
  repeat' first
    | with_reducible first | assumption | apply keeps_ite | intro _
    | split | dsimp only | with_reducible apply keeps_mk

theorem State.repairRows_keeps {s0 s : State} (hk : Keeps s0 s) (l : List (Nat × Nat)) :
    Keeps s0 (State.repairRows s l) := by
  unfold State.repairRows
  repeat' first
    | with_reducible first | assumption | apply State.updCore_keeps | apply keeps_foldl | intro _
    | dsimp only

theorem State.restart_keeps {s0 s : State} (hk : Keeps s0 s) (r : CmdRef) (c : Cmd) :
    Keeps s0 (State.restart s r c) := by
  unfold State.restart
  try dsimp only
  repeat' first
    | with_reducible first | assumption | apply keeps_ite | apply State.updCmd_keeps | apply State.fresh_keeps
                             | apply State.countDie_keeps | apply State.trace_keeps | apply State.updCtxOf_keeps
                             | apply State.feedBegin_keeps | apply State.runCtxs_keeps | apply State.dropScoped_keeps
                             | apply State.repairRows_keeps | apply keeps_foldl | refine keeps_snd (by assumption) ?_
                             | intro _
    | split | dsimp only | with_reducible apply keeps_mk

theorem execReplayRestart_keeps {s0 s : State} (hk : Keeps s0 s) (r : CmdRef) :
    KRes s0 (execReplayRestart r s) := by
  unfold execReplayRestart
  repeat' first
    | with_reducible first | assumption | apply kres_ite | apply accEach_keeps | apply State.drainCtx_keeps
                             | apply State.restart_keeps | apply kres_next | refine kacc_ok_eq (by assumption) ?_
                             | intro _
    | split | dsimp only

/-! Commands.lean. -/

theorem State.signal_keeps {s0 s : State} (hk : Keeps s0 s) (r : CmdRef) (c : Cmd) :
    Keeps s0 (State.signal s r c) := by
  unfold State.signal
  try dsimp only
  repeat' first
    | with_reducible first | assumption | apply State.putMemLe_keeps | apply State.cacheWrite_keeps
                             | apply State.complete_keeps | intro _
    | split | dsimp only

theorem execSemSignal_keeps {s0 s : State} (hk : Keeps s0 s) (c : CmdRef) : KRes s0 (execSemSignal c s) := by
  unfold execSemSignal
  repeat' first
    | with_reducible first | assumption | apply State.signal_keeps | apply kres_next | intro _
    | split | dsimp only

theorem State.semTest_keeps {s0 s : State} (hk : Keeps s0 s) (r : CmdRef) (c : Cmd) :
    Keeps s0 (State.semTest s r c) := by
  unfold State.semTest
  try dsimp only
  repeat' first
    | with_reducible first | assumption | apply keeps_ite | apply State.updCmd_keeps | apply State.complete_keeps
                             | intro _
    | split | dsimp only

theorem execSemWait_keeps {s0 s : State} (hk : Keeps s0 s) (c : CmdRef) : KRes s0 (execSemWait c s) := by
  unfold execSemWait
  repeat' first
    | with_reducible first | assumption | apply State.semTest_keeps | apply kres_next | intro _
    | split | dsimp only

theorem execSemWaitRetest_keeps {s0 s : State} (hk : Keeps s0 s) (c : CmdRef) :
    KRes s0 (execSemWaitRetest c s) := by
  unfold execSemWaitRetest
  repeat' first
    | with_reducible first | assumption | apply State.semTest_keeps | apply kres_next | intro _
    | split | dsimp only

theorem execSemWaitTimeout_keeps {s0 s : State} (hk : Keeps s0 s) (c : CmdRef) :
    KRes s0 (execSemWaitTimeout c s) := by
  unfold execSemWaitTimeout
  try dsimp only
  repeat' first
    | with_reducible first | assumption | apply keeps_ite | apply State.complete_keeps | apply kres_next | intro _
    | split | dsimp only

theorem execFence_keeps {s0 s : State} (hk : Keeps s0 s) (c : CmdRef) : KRes s0 (execFence c s) := by
  unfold execFence
  try dsimp only
  repeat' first
    | with_reducible first | assumption | apply State.complete_keeps | apply kres_next | intro _
    | split | dsimp only

theorem execQuotaSet_keeps {s0 s : State} (hk : Keeps s0 s) (c : CmdRef) : KRes s0 (execQuotaSet c s) := by
  unfold execQuotaSet
  try dsimp only
  repeat' first
    | with_reducible first | assumption | apply State.updFunc_keeps | apply State.complete_keeps | apply kres_next
                             | intro _
    | split | dsimp only

theorem State.revokeCmd_keeps {s0 s : State} (hk : Keeps s0 s) (e : Cmd) : Keeps s0 (State.revokeCmd s e) := by
  unfold State.revokeCmd
  repeat' first
    | with_reducible first | assumption | apply State.updCmd_keeps | apply State.ligEnd_keeps | intro _
    | split | dsimp only

theorem State.reclaim_keeps {s0 s : State} (hk : Keeps s0 s) (r : CmdRef) (c : Cmd) :
    Keeps s0 (State.reclaim s r c) := by
  unfold State.reclaim
  try dsimp only
  repeat' first
    | with_reducible first | assumption | apply keeps_ite | apply State.updCore_keeps | apply State.updCmd_keeps
                             | apply State.revokeCmd_keeps | apply keeps_foldl | intro _
    | split | dsimp only | with_reducible apply keeps_mk

theorem execReclaim_keeps {s0 s : State} (hk : Keeps s0 s) (c : CmdRef) : KRes s0 (execReclaim c s) := by
  unfold execReclaim
  repeat' first
    | with_reducible first | assumption | apply keeps_ite | apply State.reclaim_keeps | apply kres_next | intro _
    | split | dsimp only

theorem execReclaimDrainDone_keeps {s0 s : State} (hk : Keeps s0 s) (c : CmdRef) :
    KRes s0 (execReclaimDrainDone c s) := by
  unfold execReclaimDrainDone
  try dsimp only
  repeat' first
    | with_reducible first | assumption | apply kres_ite | apply keeps_ite | apply State.updQueue_keeps
                             | apply State.complete_keeps | apply keeps_foldl | apply kres_next | intro _
    | split | dsimp only

theorem State.haltCtx_keeps {s0 s : State} (hk : Keeps s0 s) (x : CtxRef) : Keeps s0 (State.haltCtx s x) := by
  unfold State.haltCtx
  repeat' first
    | with_reducible first | assumption | apply keeps_ite | apply State.updDie_keeps | apply State.updCtxOf_keeps
                             | intro _
    | split | dsimp only | with_reducible apply keeps_mk

theorem State.settleCtx_keeps {s0 s : State} (hk : Keeps s0 s) (x : CtxRef) : Keeps s0 (State.settleCtx s x) := by
  unfold State.settleCtx
  try dsimp only
  repeat' first
    | with_reducible first | assumption | apply keeps_ite | apply State.goIdle_keeps | intro _
    | split | dsimp only

theorem State.graceOver_keeps {s0 s : State} (hk : Keeps s0 s) (c : Cmd) : Keeps s0 (State.graceOver s c) := by
  unfold State.graceOver
  repeat' first
    | with_reducible first | assumption | apply State.haltCtx_keeps | apply State.settleCtx_keeps
                             | apply keeps_foldl | intro _
    | dsimp only

theorem State.cancelLaunch_keeps {s0 s : State} (hk : Keeps s0 s) (t : Cmd) (grace : Bool) :
    Keeps s0 (State.cancelLaunch s t grace) := by
  unfold State.cancelLaunch
  try dsimp only
  repeat' first
    | with_reducible first | assumption | apply keeps_ite | apply State.updCmd_keeps | apply State.updCtxOf_keeps
                             | apply State.endCommand_keeps | apply State.graceOver_keeps | apply keeps_foldl
                             | intro _
    | split | dsimp only | with_reducible apply keeps_mk

theorem State.cancelFeed_keeps {s0 s : State} (hk : Keeps s0 s) (t : Cmd) : KOpt s0 (State.cancelFeed s t) := by
  unfold State.cancelFeed
  try dsimp only
  repeat' first
    | with_reducible first | assumption | apply kopt_ite | apply keeps_ite | apply State.updDie_keeps
                             | apply State.withdraw_keeps | apply State.putXfer_keeps | apply kopt_some
                             | apply kopt_none | intro _
    | split | dsimp only

theorem State.cancelColl_keeps {s0 s : State} (hk : Keeps s0 s) (t : Cmd) : KOpt s0 (State.cancelColl s t) := by
  unfold State.cancelColl
  repeat' first
    | with_reducible first | assumption | apply kopt_ite | apply State.ligEnd_keeps | apply kopt_some
                             | apply kopt_none | intro _
    | split | dsimp only

theorem State.cancelTarget_keeps {s0 s : State} (hk : Keeps s0 s) (t : Cmd) (grace : Bool) :
    KOpt s0 (State.cancelTarget s t grace) := by
  unfold State.cancelTarget
  repeat' first
    | with_reducible first | assumption | apply kopt_ite | apply keeps_ite | apply State.updCmd_keeps
                             | apply State.endCommand_keeps | apply State.cancelLaunch_keeps
                             | apply State.cancelFeed_keeps | apply State.cancelColl_keeps | apply kopt_some
                             | apply kopt_none | refine kopt_eq (by assumption) ?_ | intro _
    | split | dsimp only

theorem execCancel_keeps {s0 s : State} (hk : Keeps s0 s) (c : CmdRef) : KRes s0 (execCancel c s) := by
  unfold execCancel
  try dsimp only
  repeat' first
    | with_reducible first | assumption | apply State.complete_keeps | apply State.cancelTarget_keeps
                             | apply kres_next | apply kres_fault | refine kopt_eq (by assumption) ?_ | intro _
    | split | dsimp only

theorem State.settleAll_keeps {s0 s : State} (hk : Keeps s0 s) : Keeps s0 (State.settleAll s) := by
  unfold State.settleAll
  repeat' first
    | with_reducible first | assumption | apply State.settleCtx_keeps | apply keeps_foldl | intro _
    | dsimp only

theorem execCancelGraceExpire_keeps {s0 s : State} (hk : Keeps s0 s) (c : CmdRef) :
    KRes s0 (execCancelGraceExpire c s) := by
  unfold execCancelGraceExpire
  repeat' first
    | with_reducible first | assumption | apply keeps_ite | apply State.graceOver_keeps | apply kres_next | intro _
    | split | dsimp only

theorem State.traceSet_keeps {s0 s : State} (hk : Keeps s0 s) (r : CmdRef) (c : Cmd) :
    Keeps s0 (State.traceSet s r c) := by
  unfold State.traceSet
  try dsimp only
  repeat' first
    | with_reducible first | assumption | apply keeps_ite | apply State.updDie_keeps | apply State.complete_keeps
                             | intro _
    | split | dsimp only

theorem execTraceSet_keeps {s0 s : State} (hk : Keeps s0 s) (c : CmdRef) : KRes s0 (execTraceSet c s) := by
  unfold execTraceSet
  repeat' first
    | with_reducible first | assumption | apply State.traceSet_keeps | apply kres_next | intro _
    | split | dsimp only

theorem State.snapshotCtrs_keeps {s0 s : State} (hk : Keeps s0 s) (r : CmdRef) (c : Cmd) :
    Keeps s0 (State.snapshotCtrs s r c) := by
  unfold State.snapshotCtrs
  try dsimp only
  repeat' first
    | with_reducible first | assumption | apply keeps_ite | apply State.updCore_keeps
                             | apply State.writeTrusted_keeps | apply State.complete_keeps | apply keeps_foldl
                             | refine kopt_eq (by assumption) ?_ | intro _
    | split | dsimp only

theorem execCtrSnapshot_keeps {s0 s : State} (hk : Keeps s0 s) (c : CmdRef) : KRes s0 (execCtrSnapshot c s) := by
  unfold execCtrSnapshot
  repeat' first
    | with_reducible first | assumption | apply State.snapshotCtrs_keeps | apply kres_next | intro _
    | split | dsimp only

theorem State.qctlWrite_keeps {s0 s : State} (hk : Keeps s0 s) (fn : Nat) (q : Nat) (v : Word) :
    Keeps s0 (State.qctlWrite s fn q v) := by
  unfold State.qctlWrite
  try dsimp only
  repeat' first
    | with_reducible first | assumption | apply keeps_ite | apply State.updQueue_keeps | intro _
    | split | dsimp only | with_reducible apply keeps_mk

theorem execScbQctlWrite_keeps {s0 s : State} (hk : Keeps s0 s) (fn : BitVec 6) (queue : BitVec 14) (v : Word) :
    KRes s0 (execScbQctlWrite fn queue v s) := by
  unfold execScbQctlWrite
  repeat' first
    | with_reducible first | assumption | apply keeps_ite | apply State.qctlWrite_keeps | apply kres_next | intro _
    | split | dsimp only

end Sys2Proof.Machine
end

