-- ==== Sys2Proof/Laws/KeepsModule.lean ====
section
/-! SUPPORT. What every operation keeps, continued: the fabric, the management controller, start-up, hosts and registers. -/

namespace Sys2Proof.Machine

/-! Port.lean. -/

theorem State.numberMsg_keeps {s0 s : State} (hk : Keeps s0 s) (i : TxItem) : Keeps s0 (State.numberMsg s i).1 := by
  unfold State.numberMsg
  try dsimp only
  repeat' first
    | with_reducible first | assumption | apply State.updFab_keeps | intro _
    | split | dsimp only

theorem State.sendFlit_keeps {s0 s : State} (hk : Keeps s0 s) (p : Nat) (i0 : TxItem) (starved : Bool) :
    Keeps s0 (State.sendFlit s p i0 starved) := by
  unfold State.sendFlit
  try dsimp only
  repeat' first
    | with_reducible first | assumption | apply keeps_ite | apply State.updPort_keeps | apply State.countFunc_keeps
                             | apply State.numberMsg_keeps | intro _
    | split | dsimp only

theorem State.linkSlot_keeps {s0 s : State} (hk : Keeps s0 s) (p : Nat) : Keeps s0 (State.linkSlot s p) := by
  unfold State.linkSlot
  try dsimp only
  repeat' first
    | with_reducible first | assumption | apply keeps_ite | apply State.updPort_keeps | apply State.sendFlit_keeps
                             | intro _
    | split | dsimp only | with_reducible apply keeps_mk

theorem execLinkSlot_keeps {s0 s : State} (hk : Keeps s0 s) (port : BitVec 5) : KRes s0 (execLinkSlot port s) := by
  unfold execLinkSlot
  repeat' first
    | with_reducible first | assumption | apply State.linkSlot_keeps | apply kres_next | intro _
    | dsimp only

theorem State.violation_keeps {s0 s : State} (hk : Keeps s0 s) (p : Nat) (kind : Nat) (f : BitVec 2048) :
    Keeps s0 (State.violation s p kind f) := by
  unfold State.violation
  try dsimp only
  repeat' first
    | with_reducible first | assumption | apply State.updPort_keeps | intro _
    | split | dsimp only

theorem State.abortForward_keeps {s0 s : State} (hk : Keeps s0 s) (p : Nat) (lane : Nat) (m : RxMsg) :
    Keeps s0 (State.abortForward s p lane m) := by
  unfold State.abortForward
  try dsimp only
  repeat' first
    | with_reducible first | assumption | apply keeps_ite | apply State.updPort_keeps | intro _
    | split | dsimp only

theorem State.discardPartial_keeps {s0 s : State} (hk : Keeps s0 s) (p : Nat) (lane : Nat) :
    Keeps s0 (State.discardPartial s p lane) := by
  unfold State.discardPartial
  try dsimp only
  repeat' first
    | with_reducible first | assumption | apply State.updPort_keeps | apply State.abortForward_keeps | intro _
    | split | dsimp only

theorem State.discardPartials_keeps {s0 s : State} (hk : Keeps s0 s) (p : Nat) :
    Keeps s0 (State.discardPartials s p) := by
  unfold State.discardPartials
  repeat' first
    | with_reducible first | assumption | apply State.discardPartial_keeps | apply keeps_foldl | intro _
    | dsimp only

theorem State.endPartial_keeps {s0 s : State} (hk : Keeps s0 s) (p : Nat) (lane : Nat) :
    Keeps s0 (State.endPartial s p lane) := by
  unfold State.endPartial
  try dsimp only
  repeat' first
    | with_reducible first | assumption | apply State.updPort_keeps | apply State.abortForward_keeps | intro _
    | split | dsimp only

theorem State.lostMsg_keeps {s0 s : State} (hk : Keeps s0 s) (u : Unacked) (reason : Nat) :
    Keeps s0 (State.lostMsg s u reason) := by
  unfold State.lostMsg
  try dsimp only
  repeat' first
    | with_reducible first | assumption | apply keeps_ite | apply State.ligEnd_keeps | apply State.endCommand_keeps
                             | apply State.putXfer_keeps | intro _
    | split | dsimp only

theorem State.takeUnacked_keeps {s0 s t : State} {p : Unacked → Bool} {u : Unacked} (e : s.takeUnacked p = some (u, t))
    (h : Keeps s0 s) : Keeps s0 t := by
  unfold State.takeUnacked at e
  cases hf : s.fab.unacked.find? p with
  | none => simp [hf] at e
  | some d =>
    simp only [hf, Option.map_some, Option.some.injEq, Prod.mk.injEq] at e
    exact e.2 ▸ State.updFab_keeps h _

theorem State.unreachable_keeps {s0 s : State} (hk : Keeps s0 s) (h : MsgHdr) (own : Bool) (committed : Bool) :
    Keeps s0 (State.unreachable s h own committed) := by
  unfold State.unreachable
  repeat' first
    | with_reducible first | assumption | refine State.takeUnacked_keeps (by assumption) ?_ | apply keeps_ite
                             | apply State.sendNotice_keeps | apply State.lostMsg_keeps | intro _
    | split | dsimp only

theorem State.moveOut_keeps {s0 s : State} (hk : Keeps s0 s) (o : Option (Nat × Nat)) (q : Nat) :
    Keeps s0 (State.moveOut s o q) := by
  unfold State.moveOut
  try dsimp only
  repeat' first
    | with_reducible first | assumption | apply State.updPort_keeps | intro _
    | split | dsimp only

theorem State.dropRest_keeps {s0 s : State} (hk : Keeps s0 s) (o : Option (Nat × Nat)) (left : Nat) :
    Keeps s0 (State.dropRest s o left) := by
  unfold State.dropRest
  try dsimp only
  repeat' first
    | with_reducible first | assumption | apply State.updPort_keeps | intro _
    | split | dsimp only

theorem State.tryReroute_keeps {s0 s : State} (hk : Keeps s0 s) (p : Nat) (i : TxItem) :
    KOpt s0 (State.tryReroute s p i) := by
  unfold State.tryReroute
  try dsimp only
  repeat' first
    | with_reducible first | assumption | apply kopt_ite | apply State.updPort_keeps | apply State.enqueue_keeps
                             | apply State.moveOut_keeps | apply kopt_some | apply kopt_none | apply kopt_bind
                             | intro _
    | split | dsimp only

theorem State.discardItem_keeps {s0 s : State} (hk : Keeps s0 s) (p : Nat) (i : TxItem) :
    Keeps s0 (State.discardItem s p i) := by
  unfold State.discardItem
  try dsimp only
  repeat' first
    | with_reducible first | assumption | apply keeps_ite | apply State.updPort_keeps
                             | apply State.unreachable_keeps | apply State.dropRest_keeps | intro _
    | split | dsimp only

theorem State.emptyQueue_keeps {s0 s : State} (hk : Keeps s0 s) (p : Nat) : Keeps s0 (State.emptyQueue s p) := by
  unfold State.emptyQueue
  repeat' first
    | with_reducible first | assumption | apply keeps_ite | apply State.updPort_keeps | apply State.tryReroute_keeps
                             | apply State.discardItem_keeps | apply keeps_foldl | apply keeps_getD | intro _
    | split | dsimp only

theorem State.portGone_keeps {s0 s : State} (hk : Keeps s0 s) (p : Nat) (st : PortState) :
    Keeps s0 (State.portGone s p st) := by
  unfold State.portGone
  repeat' first
    | with_reducible first | assumption | apply State.updPort_keeps | apply State.discardPartials_keeps
                             | apply State.emptyQueue_keeps | intro _
    | dsimp only

theorem State.retryWaiting_keeps {s0 s : State} (hk : Keeps s0 s) : Keeps s0 (State.retryWaiting s) := by
  unfold State.retryWaiting
  try dsimp only
  repeat' first
    | with_reducible first | assumption | apply keeps_ite | apply State.updPort_keeps | apply State.enqueue_keeps
                             | apply keeps_foldl | intro _
    | split | dsimp only

theorem State.startRetrain_keeps {s0 s : State} (hk : Keeps s0 s) (p : Nat) (asks : Bool) :
    Keeps s0 (State.startRetrain s p asks) := by
  unfold State.startRetrain
  try dsimp only
  repeat' first
    | with_reducible first | assumption | apply keeps_ite | apply State.updPort_keeps
                             | apply State.discardPartials_keeps | apply State.tryReroute_keeps | apply keeps_foldl
                             | apply keeps_getD | intro _
    | split | dsimp only | with_reducible apply keeps_mk

theorem State.portDead_keeps {s0 s : State} (hk : Keeps s0 s) (p : Nat) : Keeps s0 (State.portDead s p) := by
  unfold State.portDead
  repeat' first
    | with_reducible first | assumption | apply State.moduleEvent_keeps | apply State.portGone_keeps | intro _
    | dsimp only

theorem execLinkTrained_keeps {s0 s : State} (hk : Keeps s0 s) (port : BitVec 5) (wmask : BitVec 8)
    (peer : Option (BitVec 10 × BitVec 5)) :
    KRes s0 (execLinkTrained port wmask peer s) := by
  unfold execLinkTrained
  try dsimp only
  repeat' first
    | with_reducible first | assumption | apply kres_ite | apply keeps_ite | apply State.updPort_keeps
                             | apply State.retryWaiting_keeps | apply kres_next | apply kres_fault | intro _
    | split | dsimp only | with_reducible apply keeps_mk

theorem execCreditReturn_keeps {s0 s : State} (hk : Keeps s0 s) (port : BitVec 5)
    (freed : List (BitVec 6 × BitVec 16)) : KRes s0 (execCreditReturn port freed s) := by
  unfold execCreditReturn
  repeat' first
    | with_reducible first | assumption | apply keeps_ite | apply State.updPort_keeps | apply kres_next | intro _
    | split | dsimp only

theorem execNak_keeps {s0 s : State} (hk : Keeps s0 s) (port : BitVec 5) (fseq : BitVec 12) :
    KRes s0 (execNak port fseq s) := by
  unfold execNak
  try dsimp only
  repeat' first
    | with_reducible first | assumption | apply keeps_ite | apply State.updPort_keeps | apply kres_next | intro _
    | split | dsimp only

theorem execProbe_keeps {s0 s : State} (hk : Keeps s0 s) (port : BitVec 5) (lane : BitVec 6) :
    KRes s0 (execProbe port lane s) := by
  unfold execProbe
  repeat' first
    | with_reducible first | assumption | apply keeps_ite | apply State.updPort_keeps | apply kres_next | intro _
    | split | dsimp only

theorem execAlive_keeps {s0 s : State} (hk : Keeps s0 s) (port : BitVec 5) (lane : BitVec 6) :
    KRes s0 (execAlive port lane s) := by
  unfold execAlive
  repeat' first
    | with_reducible first | assumption | apply State.updPort_keeps | apply kres_next | intro _
    | dsimp only

theorem execHold_keeps {s0 s : State} (hk : Keeps s0 s) (port : BitVec 5) (lane : BitVec 6) :
    KRes s0 (execHold port lane s) := by
  unfold execHold
  repeat' first
    | with_reducible first | assumption | apply State.updPort_keeps | apply kres_next | intro _
    | dsimp only

theorem execCreditReset_keeps {s0 s : State} (hk : Keeps s0 s) (port : BitVec 5) (lane : BitVec 6)
    (free : BitVec 16) : KRes s0 (execCreditReset port lane free s) := by
  unfold execCreditReset
  repeat' first
    | with_reducible first | assumption | apply keeps_ite | apply State.updPort_keeps | apply kres_next | intro _
    | split | dsimp only

theorem execRetrainRequest_keeps {s0 s : State} (hk : Keeps s0 s) (port : BitVec 5) :
    KRes s0 (execRetrainRequest port s) := by
  unfold execRetrainRequest
  repeat' first
    | with_reducible first | assumption | apply State.startRetrain_keeps | apply kres_next | apply kres_fault
                             | intro _
    | dsimp only

theorem execRetrainStart_keeps {s0 s : State} (hk : Keeps s0 s) (port : BitVec 5) :
    KRes s0 (execRetrainStart port s) := by
  unfold execRetrainStart
  repeat' first
    | with_reducible first | assumption | apply kres_ite | apply keeps_ite | apply State.startRetrain_keeps
                             | apply kres_next | apply kres_fault | intro _
    | split | dsimp only

theorem execRetrainEnd_keeps {s0 s : State} (hk : Keeps s0 s) (port : BitVec 5) (wmask : BitVec 8)
    (resendFrom : BitVec 12) :
    KRes s0 (execRetrainEnd port wmask resendFrom s) := by
  unfold execRetrainEnd
  try dsimp only
  repeat' first
    | with_reducible first | assumption | apply kres_ite | apply keeps_ite | apply State.updPort_keeps
                             | apply State.retryWaiting_keeps | apply State.portDead_keeps | apply kres_next
                             | apply kres_fault | intro _
    | split | dsimp only | with_reducible apply keeps_mk

theorem execWavelengthDrop_keeps {s0 s : State} (hk : Keeps s0 s) (port : BitVec 5) (wave : BitVec 3)
    (corrected : BitVec 32) (uncorrectable : BitVec 32) :
    KRes s0 (execWavelengthDrop port wave corrected uncorrectable s) := by
  unfold execWavelengthDrop
  try dsimp only
  repeat' first
    | with_reducible first | assumption | apply kres_ite | apply keeps_ite | apply State.updPort_keeps
                             | apply State.startRetrain_keeps | apply kres_next | apply kres_fault | intro _
    | split | dsimp only | with_reducible apply keeps_mk

theorem execProbeTimer_keeps {s0 s : State} (hk : Keeps s0 s) (port : BitVec 5) (lane : BitVec 6) :
    KRes s0 (execProbeTimer port lane s) := by
  unfold execProbeTimer
  repeat' first
    | with_reducible first | assumption | apply State.updPort_keeps | apply kres_next | intro _
    | split | dsimp only

theorem execStallDeclare_keeps {s0 s : State} (hk : Keeps s0 s) (port : BitVec 5) (lane : BitVec 6) :
    KRes s0 (execStallDeclare port lane s) := by
  unfold execStallDeclare
  repeat' first
    | with_reducible first | assumption | apply kres_ite | apply keeps_ite | apply State.updPort_keeps
                             | apply State.startRetrain_keeps | apply kres_next | apply kres_fault | intro _
    | split | dsimp only

theorem execPartnerLightLoss_keeps {s0 s : State} (hk : Keeps s0 s) (port : BitVec 5) :
    KRes s0 (execPartnerLightLoss port s) := by
  unfold execPartnerLightLoss
  try dsimp only
  repeat' first
    | with_reducible first | assumption | apply keeps_ite | apply State.portGone_keeps | apply kres_next | intro _
    | split | dsimp only

theorem State.portEnable_keeps {s0 s : State} (hk : Keeps s0 s) (p : Nat) (en : Bool) :
    Keeps s0 (State.portEnable s p en) := by
  unfold State.portEnable
  try dsimp only
  repeat' first
    | with_reducible first | assumption | apply keeps_ite | apply State.updPort_keeps | apply State.portGone_keeps
                             | intro _
    | split | dsimp only

theorem execPortEnableWrite_keeps {s0 s : State} (hk : Keeps s0 s) (fn : BitVec 6) (port : BitVec 5) (en : Bool) :
    KRes s0 (execPortEnableWrite fn port en s) := by
  unfold execPortEnableWrite
  repeat' first
    | with_reducible first | assumption | apply keeps_ite | apply State.portEnable_keeps | apply kres_next | intro _
    | split | dsimp only

/-! Manage.lean. -/

theorem State.sendManagement_keeps {s0 s : State} (hk : Keeps s0 s) (dest : Nat) (hops : Nat) (path : Nat)
    (payload : List Byte) : Keeps s0 (State.sendManagement s dest hops path payload) := by
  unfold State.sendManagement
  try dsimp only
  repeat' first
    | with_reducible first | assumption | apply State.enqueue_keeps | intro _
    | dsimp only

theorem State.flood_keeps {s0 s : State} (hk : Keeps s0 s) (serial : Nat) (hops : List (Nat × Nat))
    (but : Option Nat) : Keeps s0 (State.flood s serial hops but) := by
  unfold State.flood
  repeat' first
    | with_reducible first | assumption | apply keeps_ite | apply State.sendManagement_keeps | apply keeps_foldl
                             | intro _
    | split | dsimp only

theorem State.discovered_keeps {s0 s : State} (hk : Keeps s0 s) (port : Nat) (serial : Nat)
    (hops : List (Nat × Nat)) : Keeps s0 (State.discovered s port serial hops) := by
  unfold State.discovered
  try dsimp only
  repeat' first
    | with_reducible first | assumption | apply keeps_ite | apply State.updFab_keeps | intro _
    | split | dsimp only

theorem execDiscoveryMessage_keeps {s0 s : State} (hk : Keeps s0 s) (port : BitVec 5) (serial : Word)
    (hops : List (BitVec 5 × BitVec 5)) : KRes s0 (execDiscoveryMessage port serial hops s) := by
  unfold execDiscoveryMessage
  repeat' first
    | with_reducible first | assumption | apply keeps_ite | apply State.discovered_keeps | apply kres_next | intro _
    | split | dsimp only

theorem execDiscoveryForward_keeps {s0 s : State} (hk : Keeps s0 s) (serial : Word) :
    KRes s0 (execDiscoveryForward serial s) := by
  unfold execDiscoveryForward
  repeat' first
    | with_reducible first | assumption | apply State.updFab_keeps | apply State.flood_keeps | apply kres_next
                             | intro _
    | split | dsimp only

theorem State.fmApply_keeps {s0 s : State} (h : Keeps s0 s) (r : FmReq) : Keeps s0 (s.fmApply r).2.2 := by
  unfold State.fmApply
  dsimp only
  split
  · split
    · exact h
    · exact State.updFab_keeps (State.updMod_keeps h _) _
  · split
    · exact h
    · exact keeps_foldl h fun t x ht => State.updFab_keeps ht _
  · split <;> exact h
  · exact h

theorem State.management_keeps {s0 s : State} (hk : Keeps s0 s) (port : Nat) (m : Delivered) :
    Keeps s0 (State.management s port m) := by
  unfold State.management
  try dsimp only
  repeat' first
    | with_reducible first | assumption | apply keeps_ite | apply State.updFab_keeps
                             | apply State.sendManagement_keeps | apply State.discovered_keeps
                             | apply State.fmApply_keeps | intro _
    | split | dsimp only

theorem State.fmWrite_keeps {s0 s : State} (hk : Keeps s0 s) (v : Word) : Keeps s0 (State.fmWrite s v) := by
  unfold State.fmWrite
  try dsimp only
  repeat' first
    | with_reducible first | assumption | apply keeps_ite | apply State.updFab_keeps
                             | apply State.sendManagement_keeps | apply State.fmApply_keeps | intro _
    | split | dsimp only | with_reducible apply keeps_mk

theorem State.fmStart_keeps {s0 s : State} (hk : Keeps s0 s) (fn : Nat) (op : Nat) (v : Word) :
    Keeps s0 (State.fmStart s fn op v) := by
  unfold State.fmStart
  repeat' first
    | with_reducible first | assumption | apply keeps_ite | apply State.fmWrite_keeps | intro _
    | dsimp only

theorem execFmAssign_keeps {s0 s : State} (hk : Keeps s0 s) (fn : BitVec 6) (v : Word) :
    KRes s0 (execFmAssign fn v s) := by
  unfold execFmAssign
  repeat' first
    | with_reducible first | assumption | apply State.fmStart_keeps | apply kres_next | intro _
    | dsimp only

theorem execFmWrite_keeps {s0 s : State} (hk : Keeps s0 s) (fn : BitVec 6) (v : Word) :
    KRes s0 (execFmWrite fn v s) := by
  unfold execFmWrite
  repeat' first
    | with_reducible first | assumption | apply State.fmStart_keeps | apply kres_next | intro _
    | dsimp only

theorem execFmRead_keeps {s0 s : State} (hk : Keeps s0 s) (fn : BitVec 6) (v : Word) :
    KRes s0 (execFmRead fn v s) := by
  unfold execFmRead
  repeat' first
    | with_reducible first | assumption | apply State.fmStart_keeps | apply kres_next | intro _
    | dsimp only

theorem execFmAnswer_keeps {s0 s : State} (hk : Keeps s0 s) : KRes s0 (execFmAnswer s) := by
  unfold execFmAnswer
  try dsimp only
  repeat' first
    | with_reducible first | assumption | refine State.takeMsg_keeps (by assumption) ?_ | apply keeps_ite
                             | apply State.updFab_keeps | apply kres_next | intro _
    | split | dsimp only

theorem execFmTimeout_keeps {s0 s : State} (hk : Keeps s0 s) : KRes s0 (execFmTimeout s) := by
  unfold execFmTimeout
  repeat' first
    | with_reducible first | assumption | apply keeps_ite | apply State.updFab_keeps | apply kres_next | intro _
    | split | dsimp only

/-! Fabric.lean. -/

theorem State.consume_keeps {s0 s : State} (hk : Keeps s0 s) (p : Nat) (lane : Nat) (m : RxMsg) (f : BitVec 2048) :
    Keeps s0 (State.consume s p lane m f) := by
  unfold State.consume
  try dsimp only
  repeat' first
    | with_reducible first | assumption | apply keeps_ite | apply State.updPort_keeps | apply State.violation_keeps
                             | apply State.management_keeps | intro _
    | split | dsimp only | with_reducible apply keeps_mk

theorem State.feedForward_keeps {s0 s : State} (hk : Keeps s0 s) (p : Nat) (lane : Nat) (m : RxMsg)
    (pl : BitVec 1920) : Keeps s0 (State.feedForward s p lane m pl) := by
  unfold State.feedForward
  repeat' first
    | with_reducible first | assumption | apply State.updPort_keeps | intro _
    | split | dsimp only

theorem State.badFlit_keeps {s0 s : State} (hk : Keeps s0 s) (p : Nat) (f : BitVec 2048) :
    Keeps s0 (State.badFlit s p f) := by
  unfold State.badFlit
  repeat' first
    | with_reducible first | assumption | apply State.updPort_keeps | apply State.violation_keeps | intro _
    | dsimp only

theorem State.overrun_keeps {s0 s : State} (hk : Keeps s0 s) (p : Nat) (f : BitVec 2048) :
    Keeps s0 (State.overrun s p f) := by
  unfold State.overrun
  try dsimp only
  repeat' first
    | with_reducible first | assumption | apply State.updPort_keeps | apply State.violation_keeps
                             | apply State.discardPartial_keeps | intro _
    | split | dsimp only

theorem State.firstFlit_keeps {s0 s : State} (hk : Keeps s0 s) (p : Nat) (f : BitVec 2048) :
    Keeps s0 (State.firstFlit s p f) := by
  unfold State.firstFlit
  try dsimp only
  repeat' first
    | with_reducible first | assumption | apply keeps_ite | apply State.updPort_keeps | apply State.sendNotice_keeps
                             | apply State.violation_keeps | apply State.consume_keeps | apply State.badFlit_keeps
                             | intro _
    | split | dsimp only | with_reducible apply keeps_mk

theorem State.nextFlit_keeps {s0 s : State} (hk : Keeps s0 s) (p : Nat) (f : BitVec 2048) :
    Keeps s0 (State.nextFlit s p f) := by
  unfold State.nextFlit
  try dsimp only
  repeat' first
    | with_reducible first | assumption | apply keeps_ite | apply State.updPort_keeps | apply State.consume_keeps
                             | apply State.feedForward_keeps | apply State.badFlit_keeps | intro _
    | split | dsimp only

theorem State.abortIn_keeps {s0 s : State} (hk : Keeps s0 s) (p : Nat) (lane : Nat) :
    Keeps s0 (State.abortIn s p lane) := by
  unfold State.abortIn
  repeat' first
    | with_reducible first | assumption | apply State.updPort_keeps | apply State.endPartial_keeps | intro _
    | dsimp only

theorem State.numberedFlit_keeps {s0 s : State} (hk : Keeps s0 s) (p : Nat) (f : BitVec 2048) :
    Keeps s0 (State.numberedFlit s p f) := by
  unfold State.numberedFlit
  try dsimp only
  repeat' first
    | with_reducible first | assumption | apply keeps_ite | apply State.updPort_keeps | apply State.violation_keeps
                             | apply State.overrun_keeps | apply State.firstFlit_keeps | apply State.nextFlit_keeps
                             | apply State.abortIn_keeps | intro _
    | split | dsimp only

theorem State.flitIn_keeps {s0 s : State} (hk : Keeps s0 s) (p : Nat) (f : BitVec 2048) :
    Keeps s0 (State.flitIn s p f) := by
  unfold State.flitIn
  try dsimp only
  repeat' first
    | with_reducible first | assumption | apply keeps_ite | apply State.updPort_keeps | apply State.badFlit_keeps
                             | apply State.numberedFlit_keeps | intro _
    | split | dsimp only

theorem execFlitReceive_keeps {s0 s : State} (hk : Keeps s0 s) (port : BitVec 5) (flit : BitVec 2048) :
    KRes s0 (execFlitReceive port flit s) := by
  unfold execFlitReceive
  repeat' first
    | with_reducible first | assumption | apply State.flitIn_keeps | apply kres_next | intro _
    | dsimp only

theorem execAbortFlit_keeps {s0 s : State} (hk : Keeps s0 s) (port : BitVec 5) (lane : BitVec 6) :
    KRes s0 (execAbortFlit port lane s) := by
  unfold execAbortFlit
  repeat' first
    | with_reducible first | assumption | apply keeps_ite | apply State.updPort_keeps | apply State.abortIn_keeps
                             | apply kres_next | intro _
    | split | dsimp only

theorem State.forward_keeps {s0 s : State} (hk : Keeps s0 s) (p : Nat) (lane : Nat) :
    Keeps s0 (State.forward s p lane) := by
  unfold State.forward
  try dsimp only
  repeat' first
    | with_reducible first | assumption | apply keeps_ite | apply State.updPort_keeps | apply State.enqueue_keeps
                             | apply State.tryReroute_keeps | apply State.discardItem_keeps | apply keeps_getD
                             | intro _
    | split | dsimp only

theorem execMessageForward_keeps {s0 s : State} (hk : Keeps s0 s) (port : BitVec 5) (lane : BitVec 6) :
    KRes s0 (execMessageForward port lane s) := by
  unfold execMessageForward
  repeat' first
    | with_reducible first | assumption | apply State.forward_keeps | apply kres_next | intro _
    | dsimp only

theorem State.deliverNext_keeps {s0 s : State} (hk : Keeps s0 s) (src : Nat) (queue : Nat) :
    Keeps s0 (State.deliverNext s src queue) := by
  unfold State.deliverNext
  try dsimp only
  repeat' first
    | with_reducible first | assumption | apply State.updFab_keeps | apply State.consume_keeps | intro _
    | split | dsimp only

theorem execMessageDeliver_keeps {s0 s : State} (hk : Keeps s0 s) (src : BitVec 10) (queue : BitVec 14) :
    KRes s0 (execMessageDeliver src queue s) := by
  unfold execMessageDeliver
  repeat' first
    | with_reducible first | assumption | apply State.deliverNext_keeps | apply kres_next | intro _
    | dsimp only

theorem State.windowWrite_keeps {s0 s : State} (hk : Keeps s0 s) (fn : Nat) (va : Nat) (bs : List Byte) :
    KOpt s0 (State.windowWrite s fn va bs) := by
  unfold State.windowWrite
  try dsimp only
  repeat' first
    | with_reducible first | assumption | apply State.putMem_keeps | apply State.putHost_keeps
                             | apply State.cacheWrite_keeps | apply State.walkTouch_keeps | apply kopt_foldl
                             | apply kopt_some | apply kopt_none | apply kopt_bind | refine kopt_eq (by assumption) ?_
                             | intro _
    | split | dsimp only

theorem execRemoteWrite_keeps {s0 s : State} (hk : Keeps s0 s) : KRes s0 (execRemoteWrite s) := by
  unfold execRemoteWrite
  try dsimp only
  repeat' first
    | with_reducible first | assumption | refine State.takeMsg_keeps (by assumption) ?_ | apply State.sendAck_keeps
                             | apply State.refuse_keeps | apply State.windowWrite_keeps | apply kres_next
                             | refine kopt_eq (by assumption) ?_ | intro _
    | split | dsimp only

theorem execReadRequest_keeps {s0 s : State} (hk : Keeps s0 s) : KRes s0 (execReadRequest s) := by
  unfold execReadRequest
  try dsimp only
  repeat' first
    | with_reducible first | assumption | apply State.sendPlain_keeps | apply SendResult.orElse_keeps
                             | apply State.sendAck_keeps | apply State.refuse_keeps | apply keeps_foldl
                             | apply kres_next | apply kres_fault
                             | refine State.takeDelivered_keeps (by assumption) ?_
                             | refine kpair_eq (by assumption) ?_ | apply State.readTrusted_keeps | intro _
    | split | dsimp only

theorem State.fillScoped_keeps {s0 s : State} (hk : Keeps s0 s) (die : Nat) (cmd : Option CmdRef) (l : Loc)
    (bs : List Byte) :
    Keeps s0 (State.fillScoped s die cmd l bs) := by
  unfold State.fillScoped
  try dsimp only
  repeat' first
    | with_reducible first | assumption | apply keeps_ite | apply State.updDie_keeps | apply keeps_foldl
                             | apply keeps_getD | intro _
    | split | dsimp only | with_reducible apply keeps_mk

theorem execReadResponse_keeps {s0 s : State} (hk : Keeps s0 s) : KRes s0 (execReadResponse s) := by
  unfold execReadResponse
  try dsimp only
  repeat' first
    | with_reducible first | assumption | refine State.takeMsg_keeps (by assumption) ?_ | apply State.updFab_keeps
                             | apply State.fillScoped_keeps | apply kres_next | intro _
    | split | dsimp only

theorem State.refusedCtx_keeps {s0 s : State} (hk : Keeps s0 s) (c : CtxRef) (cmd : Option CmdRef) (va : Nat)
    (revoked : Bool) :
    Keeps s0 (State.refusedCtx s c cmd va revoked) := by
  unfold State.refusedCtx
  try dsimp only
  repeat' first
    | with_reducible first | assumption | apply State.updDie_keeps | apply State.updCmd_keeps
                             | apply State.trapRecord_keeps | apply State.takeTrap_keeps
                             | apply State.revokedStop_keeps | apply State.commitAll_keeps | apply kopt_map
                             | apply keeps_getD | intro _
    | split | dsimp only

theorem State.refused_keeps {s0 s : State} (hk : Keeps s0 s) (u : Unacked) (code : Nat) :
    Keeps s0 (State.refused s u code) := by
  unfold State.refused
  try dsimp only
  repeat' first
    | with_reducible first | assumption | apply keeps_ite | apply State.updFab_keeps | apply State.ligEnd_keeps
                             | apply State.putXfer_keeps | apply State.refusedCtx_keeps | intro _
    | split | dsimp only | with_reducible apply keeps_mk

theorem State.sendAllOwed_keeps {s0 s : State} (hk : Keeps s0 s) : Keeps s0 (State.sendAllOwed s) := by
  unfold State.sendAllOwed
  repeat' first
    | with_reducible first | assumption | apply State.sendOwed_keeps | apply keeps_foldl | intro _
    | dsimp only

theorem execAcknowledgement_keeps {s0 s : State} (hk : Keeps s0 s) : KRes s0 (execAcknowledgement s) := by
  unfold execAcknowledgement
  try dsimp only
  repeat' first
    | with_reducible first | assumption | apply State.refused_keeps | apply State.sendAllOwed_keeps | apply kres_next
                             | apply kres_fault | refine State.takeMsg_keeps (by assumption) ?_
                             | refine State.takeUnacked_keeps (by assumption) ?_ | intro _
    | split | dsimp only

theorem State.noticed_keeps {s0 s : State} (hk : Keeps s0 s) (code : Nat) : Keeps s0 (State.noticed s code) := by
  unfold State.noticed
  try dsimp only
  repeat' first
    | with_reducible first | assumption | refine State.takeMsg_keeps (by assumption) ?_
                             | refine State.takeUnacked_keeps (by assumption) ?_ | apply State.lostMsg_keeps
                             | intro _
    | split | dsimp only

theorem execNoticeUnreachable_keeps {s0 s : State} (hk : Keeps s0 s) : KRes s0 (execNoticeUnreachable s) := by
  unfold execNoticeUnreachable
  repeat' first
    | with_reducible first | assumption | apply State.noticed_keeps | apply kres_next | intro _
    | dsimp only

theorem execNoticeRouteError_keeps {s0 s : State} (hk : Keeps s0 s) : KRes s0 (execNoticeRouteError s) := by
  unfold execNoticeRouteError
  repeat' first
    | with_reducible first | assumption | apply State.noticed_keeps | apply kres_next | intro _
    | dsimp only

theorem State.unqueue_keeps {s0 s : State} (hk : Keeps s0 s) (u : Unacked) : Keeps s0 (State.unqueue s u) := by
  unfold State.unqueue
  try dsimp only
  repeat' first
    | with_reducible first | assumption | apply keeps_ite | apply State.updFab_keeps | intro _
    | split | dsimp only

theorem execDeliveryTimeout_keeps {s0 s : State} (hk : Keeps s0 s) (queue : BitVec 14) (dest : BitVec 10)
    (mseq : BitVec 16) : KRes s0 (execDeliveryTimeout queue dest mseq s) := by
  unfold execDeliveryTimeout
  repeat' first
    | with_reducible first | assumption | refine State.takeUnacked_keeps (by assumption) ?_
                             | apply State.lostMsg_keeps | apply State.unqueue_keeps | apply kres_next | intro _
    | split | dsimp only

/-! Mmc.lean. -/

theorem State.mmcRequest_keeps {s0 s : State} (hk : Keeps s0 s) (p : MmcPath) (op : Nat) (record : Nat)
    (bytes : List Byte) : Keeps s0 (State.mmcRequest s p op record bytes) := by
  unfold State.mmcRequest
  try dsimp only
  repeat' first
    | with_reducible first | assumption | apply keeps_ite | apply State.updMod_keeps | intro _
    | split | dsimp only

theorem execIdReadRecord_keeps {s0 s : State} (hk : Keeps s0 s) (p : MmcPath) (record : BitVec 4) :
    KRes s0 (execIdReadRecord p record s) := by
  unfold execIdReadRecord
  repeat' first
    | with_reducible first | assumption | apply State.mmcRequest_keeps | apply kres_next | intro _
    | dsimp only

theorem execIdWriteRecord_keeps {s0 s : State} (hk : Keeps s0 s) (p : MmcPath) (record : BitVec 4)
    (bytes : List Byte) : KRes s0 (execIdWriteRecord p record bytes s) := by
  unfold execIdWriteRecord
  repeat' first
    | with_reducible first | assumption | apply State.mmcRequest_keeps | apply kres_next | intro _
    | dsimp only

theorem execIdReadSensors_keeps {s0 s : State} (hk : Keeps s0 s) (p : MmcPath) :
    KRes s0 (execIdReadSensors p s) := by
  unfold execIdReadSensors
  repeat' first
    | with_reducible first | assumption | apply State.mmcRequest_keeps | apply kres_next | intro _
    | dsimp only

theorem execIdReadMeasurement_keeps {s0 s : State} (hk : Keeps s0 s) (p : MmcPath) :
    KRes s0 (execIdReadMeasurement p s) := by
  unfold execIdReadMeasurement
  repeat' first
    | with_reducible first | assumption | apply State.mmcRequest_keeps | apply kres_next | intro _
    | dsimp only

theorem execIdRequestDone_keeps {s0 s : State} (hk : Keeps s0 s) : KRes s0 (execIdRequestDone s) := by
  unfold execIdRequestDone
  try dsimp only
  repeat' first
    | with_reducible first | assumption | apply keeps_ite | apply kres_next | intro _
    | split | dsimp only | with_reducible apply keeps_mk

theorem execIdMailboxTimeout_keeps {s0 s : State} (hk : Keeps s0 s) : KRes s0 (execIdMailboxTimeout s) := by
  unfold execIdMailboxTimeout
  repeat' first
    | with_reducible first | assumption | apply keeps_ite | apply State.updMod_keeps | apply kres_next | intro _
    | split | dsimp only

theorem execI3cSetdasa_keeps {s0 s : State} (hk : Keeps s0 s) (addr : BitVec 7) :
    KRes s0 (execI3cSetdasa addr s) := by
  unfold execI3cSetdasa
  repeat' first
    | with_reducible first | assumption | apply keeps_ite | apply State.updMod_keeps | apply kres_next | intro _
    | split | dsimp only

theorem execI3cPrivateRead_keeps {s0 s : State} (hk : Keeps s0 s) : KRes s0 (execI3cPrivateRead s) := by
  unfold execI3cPrivateRead
  repeat' first
    | with_reducible first | assumption | apply keeps_ite | apply State.updMod_keeps | apply kres_next | intro _
    | split | dsimp only

theorem execI3cReadBootHealth_keeps {s0 s : State} (hk : Keeps s0 s) : KRes s0 (execI3cReadBootHealth s) := by
  unfold execI3cReadBootHealth
  repeat' first
    | with_reducible first | assumption | apply keeps_ite | apply State.updMod_keeps | apply kres_next | intro _
    | split | dsimp only

theorem execI3cSetPowerLimit_keeps {s0 s : State} (hk : Keeps s0 s) (record : BitVec 8) (bytes : List Byte) :
    KRes s0 (execI3cSetPowerLimit record bytes s) := by
  unfold execI3cSetPowerLimit
  repeat' first
    | with_reducible first | assumption | apply State.mmcRequest_keeps | apply kres_next | intro _
    | dsimp only

theorem execMmcStop_keeps {s0 s : State} (hk : Keeps s0 s) : KRes s0 (execMmcStop s) := by
  unfold execMmcStop
  repeat' first
    | with_reducible first | assumption | apply keeps_ite | apply State.updMod_keeps | apply kres_next | intro _
    | split | dsimp only

theorem execVinEntersRange_keeps {s0 s : State} (hk : Keeps s0 s) : KRes s0 (execVinEntersRange s) := by
  unfold execVinEntersRange
  repeat' first
    | with_reducible first | assumption | apply State.updMod_keeps | apply kres_next | intro _
    | split | dsimp only

/-! Startup.lean. -/

theorem State.powerOnReset_keeps {s0 s : State} (hk : Keeps s0 s) : Keeps s0 (State.powerOnReset s) := by
  exact keeps_mem hk rfl fun _ => rfl

theorem execPowerOnReset_keeps {s0 s : State} (hk : Keeps s0 s) : KRes s0 (execPowerOnReset s) := by
  unfold execPowerOnReset
  repeat' first
    | with_reducible first | assumption | apply keeps_ite | apply State.powerOnReset_keeps | apply kres_next
                             | intro _
    | split | dsimp only

theorem execPgInFall_keeps {s0 s : State} (hk : Keeps s0 s) : KRes s0 (execPgInFall s) := by
  unfold execPgInFall
  repeat' first
    | with_reducible first | assumption | apply State.updMod_keeps | apply State.powerOff_keeps | apply kres_next
                             | intro _
    | dsimp only

theorem execVinLoss_keeps {s0 s : State} (hk : Keeps s0 s) : KRes s0 (execVinLoss s) := by
  unfold execVinLoss
  repeat' first
    | with_reducible first | assumption | apply State.updMod_keeps | apply State.powerOff_keeps | apply kres_next
                             | intro _
    | dsimp only

theorem execDieRelease_keeps {s0 s : State} (hk : Keeps s0 s) (portDie : Bool) (i : BitVec 5) :
    KRes s0 (execDieRelease portDie i s) := by
  unfold execDieRelease
  try dsimp only
  repeat' first
    | with_reducible first | assumption | apply kres_ite | apply keeps_ite | apply State.updDie_keeps
                             | apply State.updMod_keeps | apply kres_next | intro _
    | split | dsimp only

theorem execRailFault_keeps {s0 s : State} (hk : Keeps s0 s) : KRes s0 (execRailFault s) := by
  unfold execRailFault
  repeat' first
    | with_reducible first | assumption | apply keeps_ite | apply State.updMod_keeps | apply State.powerOff_keeps
                             | apply kres_next | intro _
    | split | dsimp only

theorem execFirmwareVerify_keeps {s0 s : State} (hk : Keeps s0 s) (a b : Option ImageSlot) :
    KRes s0 (execFirmwareVerify a b s) := by
  unfold execFirmwareVerify
  repeat' first
    | with_reducible first | assumption | apply kres_ite | apply keeps_ite | apply State.updMod_keeps
                             | apply State.powerOff_keeps | apply kres_next | apply kres_fault | intro _
    | split | dsimp only | with_reducible apply keeps_mk

theorem State.badCore_keeps {s0 s : State} (hk : Keeps s0 s) (die : Nat) (core : Nat) :
    Keeps s0 (State.badCore s die core) := by
  unfold State.badCore
  repeat' first
    | with_reducible first | assumption | apply keeps_ite | apply State.updDie_keeps | apply State.updMod_keeps
                             | apply State.failModule_keeps | intro _
    | split | dsimp only

theorem State.badFrame_keeps {s0 s : State} (hk : Keeps s0 s) (die : Nat) (frame : Nat) :
    Keeps s0 (State.badFrame s die frame) := by
  unfold State.badFrame
  try dsimp only
  repeat' first
    | with_reducible first | assumption | apply keeps_ite | apply State.updDie_keeps | apply State.failModule_keeps
                             | intro _
    | split | dsimp only

theorem execDieBringupDone_keeps {s0 s : State} (hk : Keeps s0 s) (badCores : List (Nat × Nat))
    (badFrames : List (Nat × Nat)) :
    KRes s0 (execDieBringupDone badCores badFrames s) := by
  unfold execDieBringupDone
  try dsimp only
  repeat' first
    | with_reducible first | assumption | apply kres_ite | apply keeps_ite | apply State.updDie_keeps
                             | apply State.updMod_keeps | apply State.portsDark_keeps | apply State.badCore_keeps
                             | apply State.badFrame_keeps | apply keeps_foldl | apply kres_next | apply kres_fault
                             | intro _
    | split | dsimp only | with_reducible apply keeps_mkNil

theorem execLinksStageEnd_keeps {s0 s : State} (hk : Keeps s0 s) : KRes s0 (execLinksStageEnd s) := by
  unfold execLinksStageEnd
  repeat' first
    | with_reducible first | assumption | apply keeps_ite | apply State.updMod_keeps | apply State.flood_keeps
                             | apply kres_next | intro _
    | split | dsimp only

theorem execDiscoveryEnd_keeps {s0 s : State} (hk : Keeps s0 s) : KRes s0 (execDiscoveryEnd s) := by
  unfold execDiscoveryEnd
  try dsimp only
  repeat' first
    | with_reducible first | assumption | apply keeps_ite | apply State.updDie_keeps | apply State.updMod_keeps
                             | apply keeps_foldl | apply kres_next | intro _
    | split | dsimp only

theorem State.moduleReset_keeps {s0 s : State} (hk : Keeps s0 s) : Keeps s0 (State.moduleReset s) := by
  unfold State.moduleReset
  try dsimp only
  repeat' first
    | with_reducible first | assumption | apply State.updDie_keeps | apply State.afterReset_keeps
                             | apply keeps_foldl | intro _
    | dsimp only

theorem execModuleReset_keeps {s0 s : State} (hk : Keeps s0 s) (cause : ResetCause) :
    KRes s0 (execModuleReset cause s) := by
  unfold execModuleReset
  try dsimp only
  repeat' first
    | with_reducible first | assumption | apply keeps_ite | apply State.moduleReset_keeps | apply kres_next
                             | intro _
    | split | dsimp only

/-! Hosts.lean. -/

theorem State.resetBegin_keeps {s0 s : State} (hk : Keeps s0 s) (n : Nat) : Keeps s0 (State.resetBegin s n) := by
  unfold State.resetBegin
  apply keeps_foldl
  · apply keeps_foldl (State.updFunc_keeps hk _ _)
    exact fun t q ht => State.updQueue_keeps ht _ _
  · exact fun t c ht => keeps_getD (State.cancelTarget_keeps ht _ _) ht

theorem State.resetDrop_keeps {s0 s : State} (hk : Keeps s0 s) (c : Cmd) : Keeps s0 (State.resetDrop s c) := by
  unfold State.resetDrop
  repeat' first
    | with_reducible first | assumption | apply keeps_ite | apply State.dropScoped_keeps | apply State.drainCmd_keeps
                             | refine kopt_eq (by assumption) ?_ | intro _
    | split | dsimp only | with_reducible apply keeps_mk

theorem State.resetEnd_keeps {s0 s : State} (hk : Keeps s0 s) (n : Nat) : Keeps s0 (State.resetEnd s n) := by
  unfold State.resetEnd
  try dsimp only
  repeat' first
    | with_reducible first | assumption | apply keeps_ite | apply State.updFunc_keeps | apply State.clearCore_keeps
                             | apply State.dropTlb_keeps | apply State.releaseFrame_keeps
                             | apply State.dropTable_keeps | apply keeps_foldl | intro _
    | split | dsimp only | with_reducible apply keeps_mk

theorem State.resetOn_keeps {s0 s : State} (hk : Keeps s0 s) (n : Nat) : Keeps s0 (State.resetOn s n) := by
  unfold State.resetOn
  try dsimp only
  repeat' first
    | with_reducible first | assumption | apply keeps_ite | apply State.resetDrop_keeps | apply State.resetEnd_keeps
                             | apply keeps_foldl | intro _
    | split | dsimp only

theorem State.resetsOn_keeps {s0 s : State} (hk : Keeps s0 s) : Keeps s0 (State.resetsOn s) := by
  unfold State.resetsOn
  repeat' first
    | with_reducible first | assumption | apply State.resetOn_keeps | apply keeps_foldl | intro _
    | dsimp only

theorem State.flr_keeps {s0 s : State} (hk : Keeps s0 s) (n : Nat) : Keeps s0 (State.flr s n) := by
  unfold State.flr
  try dsimp only
  repeat' first
    | with_reducible first | assumption | apply keeps_ite | apply State.updLink_keeps | apply State.resetBegin_keeps
                             | apply State.resetOn_keeps | apply keeps_foldl | intro _
    | split | dsimp only | with_reducible apply keeps_mk

theorem State.linkDown_keeps {s0 s : State} (hk : Keeps s0 s) (h : Nat) : Keeps s0 (State.linkDown s h) := by
  unfold State.linkDown
  try dsimp only
  repeat' first
    | with_reducible first | assumption | apply keeps_ite | apply State.updLink_keeps | apply State.flr_keeps
                             | intro _
    | split | dsimp only | with_reducible apply keeps_mk

theorem execPerstDeassertion_keeps {s0 s : State} (hk : Keeps s0 s) (link : BitVec 2) (bifur : Bool) :
    KRes s0 (execPerstDeassertion link bifur s) := by
  unfold execPerstDeassertion
  try dsimp only
  repeat' first
    | with_reducible first | assumption | apply kres_ite | apply keeps_ite | apply State.updLink_keeps
                             | apply kres_next | apply kres_fault | intro _
    | split | dsimp only | with_reducible apply keeps_mk

theorem execHostLinkUp_keeps {s0 s : State} (hk : Keeps s0 s) (up : LinkUp) :
    KRes s0 (execHostLinkUp up s) := by
  unfold execHostLinkUp
  try dsimp only
  repeat' first
    | with_reducible first | assumption | apply kres_ite | apply keeps_ite | apply State.updLink_keeps
                             | apply kres_next | apply kres_fault | intro _
    | split | dsimp only | with_reducible apply keeps_mk

theorem execHostLinkReset_keeps {s0 s : State} (hk : Keeps s0 s) (r : LinkReset) :
    KRes s0 (execHostLinkReset r s) := by
  unfold execHostLinkReset
  try dsimp only
  repeat' first
    | with_reducible first | assumption | apply kres_ite | apply keeps_ite | apply State.updLink_keeps
                             | apply State.linkDown_keeps | apply kres_next | apply kres_fault | intro _
    | split | dsimp only | with_reducible apply keeps_mk

theorem execFunctionLevelReset_keeps {s0 s : State} (hk : Keeps s0 s) (n : BitVec 6) :
    KRes s0 (execFunctionLevelReset n s) := by
  unfold execFunctionLevelReset
  repeat' first
    | with_reducible first | assumption | apply keeps_ite | apply State.flr_keeps | apply kres_next | intro _
    | split | dsimp only

theorem execNumvfsWrite_keeps {s0 s : State} (hk : Keeps s0 s) (fn : BitVec 6) (n : BitVec 16) :
    KRes s0 (execNumvfsWrite fn n s) := by
  unfold execNumvfsWrite
  repeat' first
    | with_reducible first | assumption | apply keeps_ite | apply State.updLink_keeps | apply kres_next | intro _
    | split | dsimp only

theorem State.flushMsix_keeps {s0 s : State} (hk : Keeps s0 s) (n : Nat) : Keeps s0 (State.flushMsix s n) := by
  unfold State.flushMsix
  repeat' first
    | with_reducible first | assumption | apply State.updFunc_keeps | apply State.sendMsix_keeps | apply keeps_foldl
                             | intro _
    | dsimp only

theorem execMsixUnmask_keeps {s0 s : State} (hk : Keeps s0 s) (n : BitVec 6) (vec : BitVec 11) :
    KRes s0 (execMsixUnmask n vec s) := by
  unfold execMsixUnmask
  repeat' first
    | with_reducible first | assumption | apply keeps_ite | apply State.updFunc_keeps | apply State.flushMsix_keeps
                             | apply kres_next | intro _
    | split | dsimp only

theorem State.dropReads_keeps {s0 s : State} (hk : Keeps s0 s) (r : HostReader) : Keeps s0 (State.dropReads s r) := by
  unfold State.dropReads
  repeat' first
    | with_reducible first | assumption | intro _
    | dsimp only | with_reducible apply keeps_mk

theorem State.hostReadFails_keeps {s0 s : State} (hk : Keeps s0 s) (r : HostReader) (code : Nat) :
    Keeps s0 (State.hostReadFails s r code) := by
  unfold State.hostReadFails
  try dsimp only
  repeat' first
    | with_reducible first | assumption | apply keeps_ite | apply State.updFunc_keeps | apply State.updQueue_keeps
                             | apply State.raiseVec_keeps | apply State.ligEnd_keeps | apply State.takeTrap_keeps
                             | apply State.putXfer_keeps | apply State.commitAll_keeps | apply State.complete_keeps
                             | apply State.dropReads_keeps | intro _
    | split | dsimp only | with_reducible apply keeps_mk

theorem State.hostData_keeps {s0 s : State} (hk : Keeps s0 s) (r : HostReader) (link : Nat) (addr : Nat)
    (bs : List Byte) :
    Keeps s0 (State.hostData s r link addr bs) := by
  unfold State.hostData
  try dsimp only
  repeat' first
    | with_reducible first | assumption | apply keeps_ite | apply State.updLink_keeps | apply State.putHost_keeps
                             | apply State.fillScoped_keeps | intro _
    | split | dsimp only | with_reducible apply keeps_mk

theorem execHostReadCompletion_keeps {s0 s : State} (hk : Keeps s0 s) (r : HostReader) (e : HostReadEnd) :
    KRes s0 (execHostReadCompletion r e s) := by
  unfold execHostReadCompletion
  repeat' first
    | with_reducible first | assumption | apply State.hostReadFails_keeps | apply State.hostData_keeps
                             | apply kres_next | intro _
    | split | dsimp only

theorem execHostReadTimeout_keeps {s0 s : State} (hk : Keeps s0 s) (r : HostReader) :
    KRes s0 (execHostReadTimeout r s) := by
  unfold execHostReadTimeout
  repeat' first
    | with_reducible first | assumption | apply State.hostReadFails_keeps | apply kres_next | intro _
    | dsimp only

theorem execBar4Read_keeps {s0 s : State} (hk : Keeps s0 s) (fn : BitVec 6) (offset : BitVec 39)
    (width : BitVec 7) :
    KRes s0 (execBar4Read fn offset width s) := by
  unfold execBar4Read
  try dsimp only
  repeat' first
    | with_reducible first | assumption | apply kres_ite | apply keeps_ite | apply State.aerLog_keeps
                             | apply State.cacheRead_keeps | apply kres_next | apply kres_fault | intro _
    | split | dsimp only | with_reducible apply keeps_mk

theorem execBar4Write_keeps {s0 s : State} (hk : Keeps s0 s) (fn : BitVec 6) (offset : BitVec 39)
    (bytes : List Byte) : KRes s0 (execBar4Write fn offset bytes s) := by
  unfold execBar4Write
  try dsimp only
  repeat' first
    | with_reducible first | assumption | apply keeps_ite | apply State.putMem_keeps | apply State.aerLog_keeps
                             | apply State.cacheWrite_keeps | apply kres_next | intro _
    | split | dsimp only

theorem State.coreOwn_keeps {s0 s : State} (hk : Keeps s0 s) (fn : Nat) (k : Nat) (v : Word32) :
    Keeps s0 (State.coreOwn s fn k v) := by
  unfold State.coreOwn
  try dsimp only
  repeat' first
    | with_reducible first | assumption | apply keeps_ite | apply State.updCore_keeps | apply State.clearCore_keeps
                             | intro _
    | split | dsimp only

theorem execCoreOwnWrite_keeps {s0 s : State} (hk : Keeps s0 s) (fn : BitVec 6) (k : CoreRef) (v : Word32) :
    KRes s0 (execCoreOwnWrite fn k v s) := by
  unfold execCoreOwnWrite
  repeat' first
    | with_reducible first | assumption | apply onCore_keeps | apply State.coreOwn_keeps | intro _
    | dsimp only

theorem execCoreClearDone_keeps {s0 s : State} (hk : Keeps s0 s) (k : CoreRef) :
    KRes s0 (execCoreClearDone k s) := by
  unfold execCoreClearDone
  repeat' first
    | with_reducible first | assumption | apply State.updCore_keeps | apply onCore_keeps | intro _
    | dsimp only

theorem State.frameDone_keeps {s0 s : State} (hk : Keeps s0 s) (n : Nat) (result : Nat) :
    Keeps s0 (State.frameDone s n result) := by
  unfold State.frameDone
  repeat' first
    | with_reducible first | assumption | apply State.updFunc_keeps | intro _
    | dsimp only

theorem State.allocFrame_keeps {s0 s : State} (hk : Keeps s0 s) (n : Nat) : Keeps s0 (State.allocFrame s n) := by
  unfold State.allocFrame
  try dsimp only
  repeat' first
    | with_reducible first | assumption | apply keeps_ite | apply State.updFunc_keeps | apply State.frameDone_keeps
                             | intro _
    | split | dsimp only | with_reducible apply keeps_mk

theorem State.freeFrame_keeps {s0 s : State} (hk : Keeps s0 s) (n : Nat) : Keeps s0 (State.freeFrame s n) := by
  unfold State.freeFrame
  try dsimp only
  repeat' first
    | with_reducible first | assumption | apply keeps_ite | apply State.releaseFrame_keeps
                             | apply State.frameDone_keeps | intro _
    | split | dsimp only

theorem execFrameAllocate_keeps {s0 s : State} (hk : Keeps s0 s) (fn : BitVec 6) (n : BitVec 6) :
    KRes s0 (execFrameAllocate fn n s) := by
  unfold execFrameAllocate
  repeat' first
    | with_reducible first | assumption | apply keeps_ite | apply State.allocFrame_keeps | apply kres_next | intro _
    | split | dsimp only

theorem execFrameRelease_keeps {s0 s : State} (hk : Keeps s0 s) (fn : BitVec 6) (n : BitVec 6) :
    KRes s0 (execFrameRelease fn n s) := by
  unfold execFrameRelease
  repeat' first
    | with_reducible first | assumption | apply keeps_ite | apply State.freeFrame_keeps | apply kres_next | intro _
    | split | dsimp only

theorem execFrameZeroDone_keeps {s0 s : State} (hk : Keeps s0 s) (die : BitVec 5) (frame : BitVec 9) :
    KRes s0 (execFrameZeroDone die frame s) := by
  unfold execFrameZeroDone
  try dsimp only
  repeat' first
    | with_reducible first | assumption | apply State.zeroMem_keeps | apply kres_next | intro _
    | split | dsimp only | with_reducible apply keeps_mk

theorem State.compat_keeps {s0 s : State} (hk : Keeps s0 s) (fn : Nat) (v : Word32) :
    Keeps s0 (State.compat s fn v) := by
  unfold State.compat
  repeat' first
    | with_reducible first | assumption | apply keeps_ite | apply State.updMod_keeps | intro _
    | dsimp only

theorem execCompatWrite_keeps {s0 s : State} (hk : Keeps s0 s) (fn : BitVec 6) (v : Word32) :
    KRes s0 (execCompatWrite fn v s) := by
  unfold execCompatWrite
  repeat' first
    | with_reducible first | assumption | apply State.compat_keeps | apply kres_next | intro _
    | dsimp only

/-! FaultEvents.lean. -/

theorem State.mapOut_keeps {s0 s : State} (hk : Keeps s0 s) (die : Nat) : Keeps s0 (State.mapOut s die) := by
  unfold State.mapOut
  try dsimp only
  repeat' first
    | with_reducible first | assumption | apply keeps_ite | apply State.updCore_keeps | apply State.updDie_keeps
                             | apply State.updMod_keeps | apply State.moduleEvent_keeps | apply State.trace_keeps
                             | intro _
    | split | dsimp only | with_reducible apply keeps_mk

theorem execMapOutDone_keeps {s0 s : State} (hk : Keeps s0 s) (die : BitVec 5) :
    KRes s0 (execMapOutDone die s) := by
  unfold execMapOutDone
  repeat' first
    | with_reducible first | assumption | apply keeps_ite | apply State.mapOut_keeps | apply kres_next | intro _
    | split | dsimp only

theorem execArmedExpire_keeps {s0 s : State} (hk : Keeps s0 s) (k : CoreRef) : KRes s0 (execArmedExpire k s) := by
  unfold execArmedExpire
  repeat' first
    | with_reducible first | assumption | apply keeps_ite | apply State.updCore_keeps | apply onCore_keeps | intro _
    | split | dsimp only

theorem execDieLinkFailure_keeps {s0 s : State} (hk : Keeps s0 s) (a : BitVec 5) (b : BitVec 5) (portRing : Bool) :
    KRes s0 (execDieLinkFailure a b portRing s) := by
  unfold execDieLinkFailure
  try dsimp only
  repeat' first
    | with_reducible first | assumption | apply kres_ite | apply keeps_ite | apply State.failModule_keeps
                             | apply kres_next | apply kres_fault | intro _
    | split | dsimp only

theorem execUncorrectableInternalError_keeps {s0 s : State} (hk : Keeps s0 s) (src : FailSource) :
    KRes s0 (execUncorrectableInternalError src s) := by
  unfold execUncorrectableInternalError
  try dsimp only
  repeat' first
    | with_reducible first | assumption | apply kres_ite | apply keeps_ite | apply State.aerLog_keeps
                             | apply State.failModule_keeps | apply State.linkDown_keeps | apply kres_next
                             | apply kres_fault | intro _
    | split | dsimp only

theorem State.tickFuncs_keeps {s0 s : State} (hk : Keeps s0 s) : Keeps s0 (State.tickFuncs s) := by
  unfold State.tickFuncs
  try dsimp only
  repeat' first
    | with_reducible first | assumption | apply State.countFunc_keeps | apply keeps_foldl | intro _
    | dsimp only

theorem State.upset_keeps {s0 s : State} (hk : Keeps s0 s) (u : Config.Upset) : Keeps s0 (State.upset s u) := by
  unfold State.upset
  try dsimp only
  repeat' first
    | with_reducible first | assumption | apply keeps_ite | apply State.updCore_keeps | apply State.updCtx_keeps
                             | apply State.aerLog_keeps | intro _
    | split | dsimp only | with_reducible apply keeps_mk

theorem State.upsets_keeps {s0 s : State} (hk : Keeps s0 s) : Keeps s0 (State.upsets s) := by
  unfold State.upsets
  try dsimp only
  repeat' first
    | with_reducible first | assumption | apply keeps_ite | apply State.upset_keeps | intro _
    | split | dsimp only | with_reducible apply keeps_mk

theorem State.tick_keeps {s0 s : State} (hk : Keeps s0 s) : Keeps s0 (State.tick s) := by
  unfold State.tick
  try dsimp only
  repeat' first
    | with_reducible first | assumption | apply keeps_ite | apply State.updMod_keeps | apply State.stampDone_keeps
                             | apply State.settleAll_keeps | apply State.resetsOn_keeps | apply State.tickFuncs_keeps
                             | apply State.upsets_keeps | intro _
    | split | dsimp only | with_reducible apply keeps_mk

/-! Regs.lean. -/

theorem State.ringWrite_keeps {s0 s : State} (hk : Keeps s0 s) (fn : Nat) (q : Nat) (w : Word) (reply : Bool) :
    Keeps s0 (State.ringWrite s fn q w reply) := by
  unfold State.ringWrite
  try dsimp only
  repeat' first
    | with_reducible first | assumption | apply keeps_ite | apply State.updQueue_keeps | intro _
    | split | dsimp only

theorem State.vfallocWrite_keeps {s0 s : State} (hk : Keeps s0 s) (h : Nat) (w : Word) :
    Keeps s0 (State.vfallocWrite s h w) := by
  unfold State.vfallocWrite
  try dsimp only
  repeat' first
    | with_reducible first | assumption | apply keeps_ite | apply State.updLink_keeps | intro _
    | split | dsimp only | with_reducible apply keeps_mk

theorem State.idmbWrite_keeps {s0 s : State} (hk : Keeps s0 s) (fn : BitVec 6) (w : Word) (go : Bool) :
    Keeps s0 (State.idmbWrite s fn w go) := by
  unfold State.idmbWrite
  try dsimp only
  repeat' first
    | with_reducible first | assumption | apply keeps_ite | apply State.updMod_keeps | apply State.mmcRequest_keeps
                             | intro _
    | split | dsimp only

theorem State.groupWord_keeps {s0 s : State} (hk : Keeps s0 s) (g : Nat) (word : Nat) (w : Word) :
    Keeps s0 (State.groupWord s g word w) := by
  unfold State.groupWord
  try dsimp only
  repeat' first
    | with_reducible first | assumption | apply keeps_ite | apply State.updGroup_keeps
                             | apply State.groupWrite_keeps | intro _
    | split | dsimp only

theorem State.plzWrite_keeps {s0 s : State} (hk : Keeps s0 s) (off : Nat) (w : Word) (o : Word) (mask : Word) :
    Keeps s0 (State.plzWrite s off w o mask) := by
  unfold State.plzWrite
  repeat' first
    | with_reducible first | assumption | apply keeps_ite | apply State.updFab_keeps | apply State.updPort_keeps
                             | apply State.portEnable_keeps | apply State.fmWrite_keeps | intro _
    | split | dsimp only

theorem State.frespWrite_keeps {s0 s : State} (hk : Keeps s0 s) (n : Nat) (w : Word) :
    Keeps s0 (State.frespWrite s n w) := by
  unfold State.frespWrite
  repeat' first
    | with_reducible first | assumption | apply State.answerFault_keeps | intro _
    | split | dsimp only

theorem State.fqcfgWrite_keeps {s0 s : State} (hk : Keeps s0 s) (n : Nat) (w : Word) :
    Keeps s0 (State.fqcfgWrite s n w) := by
  unfold State.fqcfgWrite
  try dsimp only
  repeat' first
    | with_reducible first | assumption | apply keeps_ite | apply State.updFunc_keeps | intro _
    | split | dsimp only | with_reducible apply keeps_mk

theorem State.regWrite_keeps {s0 s : State} (hk : Keeps s0 s) (fn : BitVec 6) (r : Reg) (v : Word) (mask : Word) :
    Keeps s0 (State.regWrite s fn r v mask) := by
  unfold State.regWrite
  try dsimp only
  repeat' first
    | with_reducible first | assumption | apply keeps_ite | apply State.updCore_keeps | apply State.updDie_keeps
                             | apply State.updFunc_keeps | apply State.updQueue_keeps | apply State.updMod_keeps
                             | apply State.tbaseWrite_keeps | apply State.l2poolWrite_keeps
                             | apply State.qctlWrite_keeps | apply State.moduleReset_keeps | apply State.coreOwn_keeps
                             | apply State.allocFrame_keeps | apply State.freeFrame_keeps | apply State.compat_keeps
                             | apply State.ringWrite_keeps | apply State.vfallocWrite_keeps
                             | apply State.idmbWrite_keeps | apply State.groupWord_keeps | apply State.plzWrite_keeps
                             | apply State.frespWrite_keeps | apply State.fqcfgWrite_keeps | intro _
    | split | dsimp only | with_reducible apply keeps_mk

theorem State.write4_keeps {s0 s : State} (hk : Keeps s0 s) (fn : BitVec 6) (off : Nat) (v : Nat) :
    Keeps s0 (State.write4 s fn off v) := by
  unfold State.write4
  try dsimp only
  repeat' first
    | with_reducible first | assumption | apply State.regWrite_keeps | intro _
    | split | dsimp only

theorem State.write8_keeps {s0 s : State} (hk : Keeps s0 s) (fn : BitVec 6) (off : Nat) (v : Nat) :
    Keeps s0 (State.write8 s fn off v) := by
  unfold State.write8
  repeat' first
    | with_reducible first | assumption | apply State.regWrite_keeps | apply State.write4_keeps | intro _
    | split | dsimp only

theorem State.bufferWrite_keeps {s0 s : State} (hk : Keeps s0 s) (fn : Nat) (b : Buffer) (off : Nat)
    (bs : List Byte) : Keeps s0 (State.bufferWrite s fn b off bs) := by
  unfold State.bufferWrite
  repeat' first
    | with_reducible first | assumption | apply keeps_ite | apply State.updFunc_keeps | apply State.updMod_keeps
                             | apply State.updFab_keeps | apply State.flushMsix_keeps | intro _
    | split | dsimp only

theorem State.barWrite_keeps {s0 s : State} (hk : Keeps s0 s) (fn : BitVec 6) (off : Nat) (width : Nat)
    (value : Nat) : Keeps s0 (State.barWrite s fn off width value) := by
  unfold State.barWrite
  try dsimp only
  repeat' first
    | with_reducible first | assumption | apply keeps_ite | apply State.aerLog_keeps | apply State.write4_keeps
                             | apply State.write8_keeps | apply State.bufferWrite_keeps | intro _
    | split | dsimp only

theorem execRegisterWrite_keeps {s0 s : State} (hk : Keeps s0 s) (fn : BitVec 6) (offset : BitVec 28)
    (width : BitVec 7) (value : BitVec 512) : KRes s0 (execRegisterWrite fn offset width value s) := by
  unfold execRegisterWrite
  repeat' first
    | with_reducible first | assumption | apply State.barWrite_keeps | apply kres_next | intro _
    | dsimp only

end Sys2Proof.Machine
end

