-- ==== Sys2Proof/WellFormed.lean ====
section
/-! DEFINITION. Which commands are well formed: a command whose operands name nothing that the spec does not have. A
command that is not well formed is no command of the table; the sender's side of the interface never gives it. -/

namespace Sys2Proof

/-- A core number is 0 to 19 (R20). -/
def CoreRef.wf (k : CoreRef) : Bool := decide (k.core.toNat < 20)

/-- The core of a context exists (R20). -/
def CtxRef.wf (c : CtxRef) : Bool := decide (c.core.toNat < 20)

/-- The context of a cp1 transfer exists. -/
def XferRef.wf (t : XferRef) : Bool :=
  match t with
  | .cmd _ => true
  | .cp1 c _ => c.wf

/-- KIND is 0 to 2 (R86), and at most 16 passes are in flight (R68). -/
def ChecksumFail.wf (f : ChecksumFail) : Bool := decide (f.pass < 16 ∧ f.kind.toNat < 3)

/-- The reader of host memory exists. -/
def HostReader.wf (r : HostReader) : Bool :=
  match r with
  | .feed t => t.wf
  | .instruction c _ => c.wf
  | .ligature _ _ | .scribe _ => true

/-- A completion with data carries some. -/
def HostReadEnd.wf (e : HostReadEnd) : Bool :=
  match e with
  | .data _ _ bytes => !bytes.isEmpty
  | .urOrCa | .poisoned => true

/-- The command is well formed. -/
def Instr.wf (i : Instr) : Bool :=
  match i with
  | .setk c _ | .addpc c _ | .gol c _ | .gor c _ | .jcond c _ | .load c _ | .store c _ | .ldf c _ | .stf c _
  | .aluImmediate c _ | .aluRegister c _ | .multiply c _ | .divide c _ | .fpArith c _ | .fpMinmax c _
  | .fpCompare c _ | .fpSign c _ | .dtoi c _ | .itod c _ | .fpMove c _ | .atomic c _ | .fenceCore c _ | .fenceDie c _
  | .fenceDev c _ | .fenceSys c _ | .fenceCode c _ | .srd c _ | .swr c _ | .smw c _ | .hret c _ | .pause c _
  | .done c _ | .bmov c _ | .bfill c _ | .bcmp c _ | .bscan c _ | .blockRepeatStep c _ | .interruptEntry c
  | .alarmExpire c | .contextWatchdog c | .coprocessorAbsent c _ | .mdset c _ | .mm c _ | .vfp c _ | .vint c _
  | .vcmp c _ | .vxf c _ | .vwake c _ | .vcvt c _ | .vmv c _ | .vbcx c _ | .vbcf c _ | .viota c _ | .vsldn c _
  | .vslup c _ | .vsumF c _ | .vmaxF c _ | .vminF c _ | .vsumI c _ | .vpopc c _ | .vfirst c _ | .vld c _ | .vst c _
  | .vgath c _ | .vscat c _ | .vrrd c _ | .vrst c _ | .vrraw c _ | .vrcomb c _ | .vrclr c _ | .vedset c _ | .vmsk c _
  | .vectorCommit c | .vectorStoreDrain c | .feedStart c _ | .feedWait c _ | .ligStart c _ | .ligWait c _ => c.wf
  | .mmAccept k | .cursiveGroupClose k | .mmPassComplete k _ | .unitPowerDown k _ | .unitWakeDone k _
  | .inkwellScrub k _ | .inkwellClearDone k | .coreClearDone k | .armedExpire k => k.wf
  | .feedCopy t | .feedFill t | .feedConvert t | .feedTileComplete t | .feedTransferComplete t => t.wf
  | .arrayChecksumFault k f => k.wf && f.wf
  | .coreOwnWrite _ k _ => k.wf
  | .walkComplete _ _ va _ req => decide (va.toNat < 2 ^ 48) && req.all CtxRef.wf
  | .stackScrub _ channel _ => decide (channel.toNat < 80)
  | .dcLineFill _ line _ => decide (line.toNat < 2 ^ 26)
  | .frameZeroDone _ frame => decide (frame.toNat < 384)
  | .dieRelease portDie i => !portDie || decide (i.toNat < 4)
  | .dieBringupDone cores frames => cores.all (fun p => decide (p.1 < 32 ∧ p.2 < 20)) && frames.all (fun p => decide (p.1 < 32 ∧ p.2 < 384))
  | .discoveryMessage _ _ hops => decide (1 ≤ hops.length ∧ hops.length ≤ 3)
  | .hostReadCompletion r e => r.wf && e.wf
  | .hostReadTimeout r => r.wf
  | .bar4Read _ _ width => decide (0 < width.toNat)
  | .bar4Write _ _ bytes => !bytes.isEmpty
  | .registerWrite _ _ width value => decide (0 < width.toNat ∧ width.toNat ≤ 64) && value >>> (8 * width.toNat) == 0
  | .creditReturn _ freed => decide (freed.map (fun p => p.1)).Nodup
  | .idWriteRecord p _ bytes => match p with
    | .i3c => true
    | .mailbox _ => decide (bytes.length ≤ 256)
  | .sensorSample r => decide (r.ports.length = 4)
  | .evictionWriteback _ _ | .ssdTrackerExpire _ _ _ | .stackTempMeasure _ _ | .dieTempMeasure _ _
  | .thermalClockStep | .governorStep _ _ | .faultRecordWrite _ _ _ | .faultRetry _ _ _ | .faultDecline _ _ _
  | .faultAnswerTimeout _ _ | .faultQueueHeadWrite _ _ _ | .mmuTbaseWrite _ _ _ | .tableInitDone _
  | .mmuL2poolWrite _ _ | .doorbell _ _ _ | .packetFetch _ | .commandStart _ | .replyWrite _ | .launch _
  | .semSignal _ | .semWait _ | .semWaitRetest _ | .semWaitTimeout _ | .collAllreduce _ | .collRedscat _
  | .collAllgather _ | .collBcast _ | .collAlltoall _ | .collBarrier _ | .mapPage _ | .mapInkwell _ | .unmapPage _
  | .unmapInkwell _ | .windowSet _ | .quotaSet _ | .reclaim _ | .reclaimDrainDone _ | .cancel _
  | .cancelGraceExpire _ | .fence _ | .hintMigrate _ | .traceSet _ | .ctrSnapshot _ | .scbQctlWrite _ _ _
  | .frameAllocate _ _ | .frameRelease _ _ | .compatWrite _ _ | .moduleReset _ | .powerOnReset | .pgInFall | .vinLoss
  | .railFault | .firmwareVerify _ _ | .linksStageEnd | .discoveryForward _ | .discoveryEnd | .hostLinkUp _
  | .hostLinkReset _ | .functionLevelReset _ | .msixUnmask _ _ | .groupLoad _ _ _ | .groupLoadDone _ | .groupEnd _ _
  | .collOpStart _ _ | .digestRoundEnd _ _ | .ligStepEnd _ _ | .groupTimeout _ _ | .deferNoticeTick
  | .timerPauseEnd _ | .fmAssign _ _ | .fmWrite _ _ | .fmRead _ _ | .fmAnswer | .fmTimeout | .portEnableWrite _ _ _
  | .linkTrained _ _ _ | .linkSlot _ | .flitReceive _ _ | .nak _ _ | .probe _ _ | .alive _ _ | .hold _ _
  | .creditReset _ _ _ | .retrainRequest _ | .abortFlit _ _ | .messageForward _ _ | .remoteWrite | .readRequest
  | .readResponse | .acknowledgement | .noticeUnreachable | .noticeRouteError | .ligatureData | .ligatureDigest
  | .ligatureAbort | .thermalDefer | .faultDefer | .messageDeliver _ _ | .deliveryTimeout _ _ _
  | .wavelengthDrop _ _ _ _ | .retrainStart _ | .retrainEnd _ _ _ | .probeTimer _ _ | .stallDeclare _ _
  | .replayRestart _ | .mapOutDone _ | .idReadRecord _ _ | .idReadSensors _ | .idReadMeasurement _ | .idRequestDone
  | .idMailboxTimeout | .i3cSetdasa _ | .i3cPrivateRead | .i3cReadBootHealth | .i3cSetPowerLimit _ _
  | .vinEntersRange | .perstDeassertion _ _ | .partnerLightLoss _ | .mmcStop | .dieLinkFailure _ _ _
  | .uncorrectableInternalError _ | .numvfsWrite _ _ => true

end Sys2Proof
end

