-- ==== Sys2Proof/Tests/Slice0.lean ====
section
/-! SUPPORT. The model's own tests: ill-formed commands are refused, words of the instruction set's encodings (R147 to R149)
name the rows that the spec gives them, and every statement's hypotheses are met by a concrete state and operands. -/

namespace Sys2Proof.Tests

open Sys2Proof Sys2Proof.Machine Sys2Proof.Claims

set_option Elab.async false

/-! Well-formed and ill-formed commands: one ill-formed term for each check. -/

/-- Context 0 of core 0 of die 0. -/
def c0 : CtxRef := { die := 0, core := 0, ctx := 0 }

/-- Core 0 of die 0. -/
def k0 : CoreRef := { die := 0, core := 0 }

/-- Core number 20 of die 0, which no die has. -/
def kBad : CoreRef := { die := 0, core := 20 }

/-- A context of core number 20. -/
def cBad : CtxRef := { die := 0, core := 20, ctx := 0 }

/-- Command 1 of queue 0. -/
def r0 : CmdRef := { queue := 0, seq := 1 }

/-- A checksum comparison with a reserved KIND. -/
def badSum : ChecksumFail :=
  { pass := 0, part := 0, block := 0, index := 0, kind := 3, step := 0, err := 0 }

theorem test_wf_commands : ([.setk c0 0, .mmAccept k0, .feedCopy (.cmd r0), .stackScrub 0 79 .clean, .packetFetch 0,
    .registerWrite 0 0x28 4 21, .discoveryMessage 0 1 [(0, 1)], .frameZeroDone 0 383] : List Instr).all Instr.wf = true := by
  decide +kernel

theorem test_ill_formed_commands : ([.setk cBad 0, .mmAccept kBad, .feedCopy (.cp1 cBad 0), .coreOwnWrite 0 kBad 0,
    .arrayChecksumFault k0 badSum, .walkComplete 0 0 0x1000000000000 .read none, .walkComplete 0 0 0 .read (some cBad),
    .stackScrub 0 80 .clean, .dcLineFill 0 0x4000000 .clean, .frameZeroDone 0 384, .dieRelease true 4,
    .dieBringupDone [(0, 20)] [], .dieBringupDone [] [(0, 384)], .discoveryMessage 0 1 [],
    .hostReadCompletion (.feed (.cmd r0)) (.data 0 0 []), .hostReadTimeout (.instruction cBad 0), .bar4Read 0 0 0,
    .bar4Write 0 0 [], .registerWrite 0 0x28 4 0x100000000, .creditReturn 0 [(0, 1), (0, 2)],
    .idWriteRecord (.mailbox 0) 8 (List.replicate 257 0)] : List Instr).any Instr.wf = false := by
  decide +kernel

/-! Words of the encodings. -/

/-- Format X (R147): MAJOR, RD, RS1, RS2, FUNCT3, FUNCT7. -/
def wordX (major rd rs1 rs2 f3 f7 : Nat) : Word32 :=
  BitVec.ofNat 32 (major + rd * 2 ^ 7 + rs1 * 2 ^ 12 + rs2 * 2 ^ 17 + f3 * 2 ^ 22 + f7 * 2 ^ 25)

/-- The vector format (R112): MAJOR, D, S1, S2, TYPE, MASK, FUNCT. -/
def wordV (major d s1 s2 type mask fn : Nat) : Word32 :=
  BitVec.ofNat 32 (major + d * 2 ^ 7 + s1 * 2 ^ 12 + s2 * 2 ^ 17 + type * 2 ^ 22 + mask * 2 ^ 25 + fn * 2 ^ 29)

/-- A word of each scalar row. -/
def scalarWords : List (Row × Word32) :=
  [(.setk, wordX 0x01 1 0 0 0 0), (.addpc, wordX 0x02 1 0 0 0 0), (.gol, wordX 0x03 1 0 0 0 0), (.gor, wordX 0x04 1 2 0 0 0),
   (.jcond, wordX 0x05 0 1 2 5 0), (.load, wordX 0x08 1 2 0 6 0), (.store, wordX 0x09 0 2 1 3 0), (.ldf, wordX 0x0A 1 2 0 0 0),
   (.stf, wordX 0x0B 0 2 1 0 0), (.aluImm, wordX 0x10 1 2 0 5 0), (.aluReg, wordX 0x11 1 2 3 1 2),
   (.multiply, wordX 0x11 1 2 3 2 1), (.divide, wordX 0x11 1 2 3 3 1), (.fpArith, wordX 0x18 1 2 3 0 3),
   (.fpMinmax, wordX 0x18 1 2 3 0 6), (.fpCompare, wordX 0x18 1 2 3 0 9), (.fpSign, wordX 0x18 1 2 3 0 12),
   (.dtoi, wordX 0x18 1 2 0 0 13), (.itod, wordX 0x18 1 2 0 0 14), (.fpMove, wordX 0x18 1 2 0 0 15),
   (.fpMove, wordX 0x18 1 2 0 0 16), (.atomic, wordX 0x20 1 2 3 6 0), (.fenceCore, wordX 0x28 0 0 0 0 0),
   (.fenceDie, wordX 0x28 0 0 0 1 0), (.fenceDev, wordX 0x28 0 0 0 2 0), (.fenceSys, wordX 0x28 0 0 0 3 0),
   (.fenceCode, wordX 0x28 0 0 0 4 0), (.srd, wordX 0x30 1 0 9 0 0), (.swr, wordX 0x30 8 1 0 1 0),
   (.smw, wordX 0x30 0x10 1 2 2 8), (.hret, wordX 0x30 0 0 0 3 0), (.pause, wordX 0x30 0 0 0 4 0),
   (.done, wordX 0x30 0 1 0 5 0), (.bmov, wordX 0x38 1 2 3 0 0), (.bfill, wordX 0x38 1 2 3 1 0),
   (.bcmp, wordX 0x38 1 2 3 2 0), (.bscan, wordX 0x38 1 2 3 3 0), (.cpAbsent, wordX 0x74 0 0 0 0 0),
   (.cpAbsent, wordX 0x7F 0 0 0 0 0)]

/-- A word of each vector and coprocessor row. -/
def vectorWords : List (Row × Word32) :=
  [(.vfp, wordV 0x50 1 2 3 3 0 0), (.vint, wordV 0x51 1 2 3 4 0 0), (.vcmp, wordV 0x52 1 2 3 1 0 0), (.vxf, wordV 0x53 1 2 0 1 0 1),
   (.vwake, wordV 0x53 0 1 0 0 0 7), (.vcvt, wordV 0x54 1 2 0 0 0 0), (.vmv, wordV 0x54 1 2 0 0 0 1),
   (.vbcx, wordV 0x54 1 2 0 4 0 2), (.vbcf, wordV 0x54 1 2 0 0 0 3), (.viota, wordV 0x54 1 0 0 4 0 4),
   (.vsldn, wordV 0x54 1 2 3 0 0 5), (.vslup, wordV 0x54 1 2 3 0 0 6), (.vsumF, wordV 0x55 1 2 0 1 0 0),
   (.vmaxF, wordV 0x55 1 2 0 0 0 1), (.vminF, wordV 0x55 1 2 0 0 0 2), (.vsumI, wordV 0x55 1 2 0 5 0 3),
   (.vpopc, wordV 0x55 1 2 0 0 0 4), (.vfirst, wordV 0x55 1 2 0 0 0 5), (.vld, wordV 0x56 1 2 3 0 0 0),
   (.vst, wordV 0x56 1 2 3 0 0 1), (.vgath, wordV 0x57 1 2 3 1 0 0), (.vscat, wordV 0x57 1 2 3 1 0 1),
   (.vrrd, wordV 0x58 1 2 3 0 0 0), (.vrst, wordV 0x58 1 2 3 0 0 1), (.vrraw, wordV 0x58 1 2 0 0 0 2),
   (.vrcomb, wordV 0x58 1 2 0 0 0 3), (.vrclr, wordV 0x58 0 2 0 0 0 4), (.vedset, wordV 0x58 1 2 3 0 0 5),
   (.vmsk, wordV 0x59 1 2 3 0 0 3), (.vmsk, wordV 0x59 1 0 0 0 0 6), (.mdset, wordX 0x70 4 0 0 0 0),
   (.mm, wordX 0x70 0 1 2 0 0), (.feedStart, wordX 0x71 1 2 0 0 0), (.feedWait, wordX 0x72 1 2 0 0 0),
   (.ligStart, wordX 0x73 1 2 0 0 0), (.ligWait, wordX 0x73 1 2 0 1 0)]

theorem test_words_name_their_rows :
    (scalarWords ++ vectorWords).all (fun p => rowOf p.2 == some p.1) = true := by decide

theorem test_reserved_words_name_no_row :
    ([wordX 0x00 0 0 0 0 0, wordX 0x04 0 0 0 1 0, wordX 0x05 0 0 0 6 0, wordX 0x08 0 0 0 7 0, wordX 0x11 0 0 0 0 3,
      wordX 0x20 0 0 0 7 0, wordX 0x28 1 0 0 0 0, wordX 0x30 0 0 4 0 0, wordX 0x71 0 0 1 0 0, wordX 0x73 0 0 0 2 0,
      wordV 0x54 0 0 0 0 0 7, wordV 0x59 8 0 0 0 0 0] : List Word32).all (fun w => rowOf w == none) = true := by decide

/-! States for the hypotheses of the statements. -/

/-- An owned core that may run, with a first context. -/
def coreOf (x : Ctx) : Core := { owned := true, inkClearing := false, ctxs := [(0, x)] }

/-- A running context. -/
def running : Ctx := { mode := .running }

/-- A module in service with core 0 of die 0 as given. A 1 GiB page at virtual address 0 of function 0 holds stack memory
from 1 GiB on, readable, writable and executable. -/
def withCore (k : Core) : State :=
  { State.reset with cores := [(0, k)], funcs := [(0, { tbValid := true })], mem := [⟨0, 27⟩, ⟨3, 0x40⟩]
                     mod := { State.reset.mod with stage := .ready } }

/-- A module in service whose context 0 of core 0 is as given. -/
def withCtx (x : Ctx) : State := withCore (coreOf x)

/-- A module in service whose context 0 of core 0 runs. -/
def s0 : State := withCtx running

/-- What `Issues` asks, as a Boolean. -/
def issuesNow (s : State) (row : Row) (w : Word32) : Bool :=
  s.ready c0 && (rowOf w == some row) && !((s.ctxOf c0).awaitsScalar w)

theorem issues_of (s : State) (row : Row) (w : Word32) (h : issuesNow s row w = true) : Issues s row c0 w := by
  simp only [issuesNow, Bool.and_eq_true, beq_iff_eq, Bool.not_eq_true'] at h
  exact ⟨by decide, h.1.1, h.1.2, h.2⟩

theorem test_every_row_issues : ((scalarWords ++ vectorWords).all (fun p => issuesNow s0 p.1 p.2)) = true := by decide

theorem row_issues (p : Row × Word32) (h : p ∈ scalarWords ++ vectorWords) : Issues s0 p.1 c0 p.2 :=
  issues_of _ _ _ (List.all_eq_true.1 test_every_row_issues p h)

/-! Statement by statement: states and operands that meet the hypotheses, named after the statement. -/

theorem hyp_StepRunsFrontCommand : ({ s0 with pending := [.deferNoticeTick] } : State).pending = .deferNoticeTick :: [] := rfl

theorem hyp_IdleStepIsATick : s0.pending = [] ∧ (∀ p ∈ s0.funcs, p.2.resetting = false) ∧
    (∀ m ∈ s0.cmds, m.grace = false ∨ m.isStarted = false) ∧ State.reset.diesRun = false := by decide

theorem hyp_EveryStepKeepsMemoryForm : Memory.wf s0.mem = true ∧ ∃ t, step s0 = .next t := ⟨by decide, _, rfl⟩

theorem hyp_QueueIsFirstInFirstOut : ∃ t, step { s0 with pending := [.timerPauseEnd 0] } = .next t := ⟨_, rfl⟩

theorem hyp_IntegerInstructionsComplete : Issues s0 .setk c0 (wordX 0x01 1 0 0 0 0) ∧
    Issues s0 .addpc c0 (wordX 0x02 1 0 0 0 0) ∧ Issues s0 .aluImm c0 (wordX 0x10 1 2 0 5 0) ∧
    Issues s0 .aluReg c0 (wordX 0x11 1 2 3 1 2) ∧ Issues s0 .multiply c0 (wordX 0x11 1 2 3 2 1) ∧
    Issues s0 .divide c0 (wordX 0x11 1 2 3 3 1) :=
  ⟨row_issues (_, _) (by decide), row_issues (_, _) (by decide), row_issues (_, _) (by decide), row_issues (_, _) (by decide),
   row_issues (_, _) (by decide), row_issues (_, _) (by decide)⟩

/-- x2 is the smallest INT64 and x3 is −1. -/
def sDiv : State := withCtx { running with x := [(2, 0x8000000000000000), (3, 0xFFFFFFFFFFFFFFFF)] }

theorem hyp_DivisionCorners : Issues sDiv .divide c0 (wordX 0x11 1 2 3 3 1) ∧ Issues sDiv .divide c0 (wordX 0x11 1 2 3 5 1) ∧
    Issues s0 .divide c0 (wordX 0x11 1 2 3 4 1) ∧ Issues s0 .divide c0 (wordX 0x11 1 2 3 6 1) ∧ (s0.ctxOf c0).rx 3 = 0 ∧
    (sDiv.ctxOf c0).rx 2 = 0x8000000000000000#64 ∧ (sDiv.ctxOf c0).rx 3 = BitVec.allOnes 64 :=
  ⟨issues_of _ _ _ (by decide), issues_of _ _ _ (by decide), issues_of _ _ _ (by decide), issues_of _ _ _ (by decide),
   by decide, by decide, by decide⟩

theorem hyp_JumpsComplete : Issues s0 .gol c0 (wordX 0x03 1 0 0 0 0) ∧ Issues s0 .jcond c0 (wordX 0x05 0 1 2 5 0) ∧
    Issues s0 .gor c0 (wordX 0x04 1 2 0 0 0) ∧ ((s0.ctxOf c0).rx 2).toNat % 4 = 0 :=
  ⟨row_issues (_, _) (by decide), row_issues (_, _) (by decide), row_issues (_, _) (by decide), by decide⟩

theorem hyp_ScalarFloatComplete : Issues s0 .fpArith c0 (wordX 0x18 1 2 3 0 3) ∧ Issues s0 .fpMinmax c0 (wordX 0x18 1 2 3 0 6) ∧
    Issues s0 .fpCompare c0 (wordX 0x18 1 2 3 0 9) ∧ Issues s0 .fpSign c0 (wordX 0x18 1 2 3 0 12) ∧
    Issues s0 .dtoi c0 (wordX 0x18 1 2 0 0 13) ∧ Issues s0 .itod c0 (wordX 0x18 1 2 0 0 14) ∧
    Issues s0 .fpMove c0 (wordX 0x18 1 2 0 0 15) ∧ Issues s0 .fpMove c0 (wordX 0x18 1 2 0 0 16) :=
  ⟨row_issues (_, _) (by decide), row_issues (_, _) (by decide), row_issues (_, _) (by decide), row_issues (_, _) (by decide),
   row_issues (_, _) (by decide), row_issues (_, _) (by decide), row_issues (_, _) (by decide), row_issues (_, _) (by decide)⟩

/-- A core whose row 0 is an INT8 operand's first row, and holds 0x80 in its first element. -/
def kInt8 : Core := { coreOf running with ink := [(0, 0x80)] }

/-- Matrix operand 0 as a plain INT8 operand. -/
def oInt8 : OpDesc := OpDesc.parse 3

/-- A format word that names INT8. -/
def wInt8 : FmtWord := FmtWord.reg .int8

theorem hyp_NarrowFormatValues : Fmt.int8.width = 8 ∧ wInt8.fmt = .int8 ∧ (0 : Nat) < 2 ^ 16 ∧
    kInt8.elemBits oInt8 wInt8.fmt 0 0 0 0 = 0x80 := by decide +kernel

/-- Traps are enabled, and x2 holds 2. -/
def sTrap : State := withCtx { running with hen := true, x := [(2, 2)] }

/-- A context that takes interrupts. -/
def irqCtx : Ctx := { running with gate := true, hen := true }

/-- What the statement asks of a state that takes an interrupt. -/
def mayTake (x : Ctx) : Bool :=
  let s := withCtx x
  (s.core c0.key).runs && ((s.ctxOf c0).mode == .running) && (s.ctxOf c0).gate && (s.ctxOf c0).hen && (s.ctxOf c0).vq.isEmpty

theorem hyp_HandlerEntryAndReturn : CanTrap sTrap c0 ∧ (sTrap.ready c0 = true ∧ rowOf 0 = none) ∧
    Issues sTrap .cpAbsent c0 (wordX 0x74 0 0 0 0 0) ∧ Issues sTrap .gor c0 (wordX 0x04 1 2 0 0 0) ∧
    ((sTrap.ctxOf c0).rx 2).toNat % 4 ≠ 0 ∧ Issues sTrap .hret c0 (wordX 0x30 0 0 0 3 0) ∧
    Issues (withCtx { running with inh := true }) .hret c0 (wordX 0x30 0 0 0 3 0) ∧
    mayTake { irqCtx with cpend := true, cen := true } = true ∧
    (mayTake { irqCtx with alarm := 0, aen := true } = true ∧ (0#64).toNat ≤ s0.mod.timeNs % 2 ^ 64) ∧
    mayTake { irqCtx with ppend := true, pen := true } = true :=
  ⟨⟨by decide, by decide, by decide⟩, ⟨by decide, by decide⟩, issues_of _ _ _ (by decide), issues_of _ _ _ (by decide), by decide,
   issues_of _ _ _ (by decide), issues_of _ _ _ (by decide), by decide, ⟨by decide, by decide⟩, by decide⟩

/-- PAUSE waits for an interrupt that a handler takes. -/
def sPausing (m : CtxMode) (pend : Bool) : State := withCtx { mode := m, cen := true, cpend := pend, gate := false }

theorem hyp_PauseAndDoneComplete : Issues s0 .pause c0 (wordX 0x30 0 0 0 4 0) ∧
    Issues (sPausing .running true) .pause c0 (wordX 0x30 0 0 0 4 0) ∧
    Issues (sPausing .running false) .pause c0 (wordX 0x30 0 0 0 4 0) ∧
    (((sPausing .pausing true).core c0.key).runs = true ∧ ((sPausing .pausing true).ctxOf c0).mode = .pausing) ∧
    (Issues s0 .done c0 (wordX 0x30 0 1 0 5 0) ∧ s0.allDone c0 = true ∧ (s0.core c0.key).sb = [] ∧ s0.ctxAcked c0 = true) :=
  ⟨issues_of _ _ _ (by decide), issues_of _ _ _ (by decide), issues_of _ _ _ (by decide), ⟨by decide, by decide⟩,
   ⟨issues_of _ _ _ (by decide), by decide, by decide, by decide⟩⟩

/-- s0 with the page of function 0 in the die TLB, and the first and last line of it held by its die cache. -/
def sLines : State :=
  { s0 with dies := [(0, { tlb := [{ fn := 0, page := 0, big := true, entry := 0x4000001B }]
                           lines := [{ line := 0x400000, way := 0, dirty := false, keep := false, tenant := 0 },
                             { line := 0x7FFFFF, way := 0, dirty := false, keep := false, tenant := 0 }] })] }

/-- What `StackAccess` asks, and that the die cache then holds the line, as a Boolean. -/
def accessNow (s : State) (a : Word) (n : Nat) (acc : Access) (spa : Nat) : Bool :=
  match s.locate (s.ctxAgent c0) a.toNat acc with
  | .ok l u => l == .stack spa && decide (a.toNat % n = 0 ∧ a.toNat < 2 ^ 48) && !((s.ctxOf c0).vecStoreMeets (.stack spa) n)
      && ((u.die (dieOf spa)).holds (lineOf spa)).isSome && !(u.poison.contains (spa / 256))
  | _ => false

theorem access_of (s : State) (a : Word) (n : Nat) (acc : Access) (spa : Nat) (h : accessNow s a n acc spa = true) :
    ∃ u, StackAccess s c0 a n acc spa u ∧ CacheHas u spa := by
  unfold accessNow at h
  split at h
  next l u hl =>
    simp only [Bool.and_eq_true, beq_iff_eq, decide_eq_true_eq, Bool.not_eq_true', Option.isSome_iff_ne_none] at h
    obtain ⟨⟨⟨⟨h1, h2⟩, h3⟩, h4⟩, h5⟩ := h
    exact ⟨u, ⟨h2.1, h2.2, by rw [hl, h1], h3⟩, h4, h5⟩
  next => exact absurd h (by decide)

theorem test_accesses : accessNow sLines 0 4 .read 0x40000000 = true ∧ accessNow sLines 0x3FFFFFF8 8 .read 0x7FFFFFF8 = true ∧
    accessNow sLines 0 8 .write 0x40000000 = true ∧ accessNow sLines 0x3FFFFFF8 8 .write 0x7FFFFFF8 = true := by decide +kernel

theorem hyp_LoadsComplete : (Issues sLines .load c0 (wordX 0x08 1 2 0 6 0) ∧ Issues sLines .ldf c0 (wordX 0x0A 1 2 0 0 0)) ∧
    (∃ u, StackAccess sLines c0 0 4 .read 0x40000000 u ∧ AtHand u c0 0x40000000) ∧
    (∃ u, StackAccess sLines c0 0x3FFFFFF8 8 .read 0x7FFFFFF8 u ∧ AtHand u c0 0x7FFFFFF8) := by
  obtain ⟨u, hu, h1⟩ := access_of _ _ _ _ _ test_accesses.1
  obtain ⟨v, hv, h2⟩ := access_of _ _ _ _ _ test_accesses.2.1
  exact ⟨⟨issues_of _ _ _ (by decide), issues_of _ _ _ (by decide)⟩, ⟨u, hu, .inr (.inl h1)⟩, ⟨v, hv, .inr (.inl h2)⟩⟩

theorem hyp_StoresComplete : (sLines.core c0.key).sb.length < 16 ∧ Issues sLines .store c0 (wordX 0x09 0 2 1 3 0) ∧
    Issues sLines .stf c0 (wordX 0x0B 0 2 1 0 0) ∧ (∃ u, StackAccess sLines c0 0 8 .write 0x40000000 u) ∧
    (∃ u, StackAccess sLines c0 0x3FFFFFF8 8 .write 0x7FFFFFF8 u) := by
  obtain ⟨u, hu, _⟩ := access_of _ _ _ _ _ test_accesses.2.2.1
  obtain ⟨v, hv, _⟩ := access_of _ _ _ _ _ test_accesses.2.2.2
  exact ⟨by decide, issues_of _ _ _ (by decide), issues_of _ _ _ (by decide), ⟨u, hu⟩, ⟨v, hv⟩⟩

theorem hyp_AtomicsAndFencesComplete : Memory.wf sLines.mem = true ∧ Issues sLines .atomic c0 (wordX 0x20 1 2 3 6 0) ∧
    (∃ u, StackAccess sLines c0 0 8 .write 0x40000000 u ∧ CacheHas u 0x40000000) ∧ (s0.core c0.key).sb = [] ∧
    (s0.ctxOf c0).vecStoresDone = true ∧
    Issues s0 .fenceCore c0 (wordX 0x28 0 0 0 0 0) ∧ Issues s0 .fenceDie c0 (wordX 0x28 0 0 0 1 0) ∧
    (Issues s0 .fenceDev c0 (wordX 0x28 0 0 0 2 0) ∧ (s0.ctxOf c0).cpDone = true) ∧
    (Issues s0 .fenceSys c0 (wordX 0x28 0 0 0 3 0) ∧ s0.sysDone c0 = true) ∧
    Issues s0 .fenceCode c0 (wordX 0x28 0 0 0 4 0) :=
  ⟨by decide, issues_of _ _ _ (by decide), access_of _ _ _ _ _ test_accesses.2.2.1, rfl, by decide, row_issues (_, _) (by decide),
   row_issues (_, _) (by decide), ⟨row_issues (_, _) (by decide), by decide⟩, ⟨row_issues (_, _) (by decide), by decide⟩,
   row_issues (_, _) (by decide)⟩

theorem hyp_StatusInstructionsComplete : (Issues s0 .srd c0 (wordX 0x30 1 0 9 0 0) ∧ s0.srWaits c0 9 = false) ∧
    (Issues s0 .swr c0 (wordX 0x30 5 1 0 1 1) ∧ wNumP (wordX 0x30 5 1 0 1 1) = 0x025 ∧ s0.srWaits c0 0x025 = false) ∧
    (Issues s0 .swr c0 (wordX 0x30 0x10 1 0 1 8) ∧ wNumP (wordX 0x30 0x10 1 0 1 8) = 0x110 ∧ s0.srWaits c0 0x110 = false) ∧
    (Issues s0 .swr c0 (wordX 0x30 1 1 0 1 8) ∧ wNumP (wordX 0x30 1 1 0 1 8) = 0x101 ∧ s0.srWaits c0 0x101 = false) ∧
    (Issues s0 .swr c0 (wordX 0x30 0 1 0 1 0) ∧ wNumP (wordX 0x30 0 1 0 1 0) = 0x000 ∧ s0.srWaits c0 0x000 = false) ∧
    (Issues s0 .smw c0 (wordX 0x30 11 1 2 2 0) ∧ wNumP (wordX 0x30 11 1 2 2 0) = 0x00B ∧ s0.srWaits c0 0x00B = false) ∧
    (CanTrap sTrap c0 ∧ sTrap.ready c0 = true) ∧
    (wMajor (wordX 0x30 1 0 4 0 0) = 0x30 ∧ wF3 (wordX 0x30 1 0 4 0 0) = 0 ∧ wNumK (wordX 0x30 1 0 4 0 0) = 4) ∧
    (wMajor (wordX 0x30 0 1 1 1 0) = 0x30 ∧ wF3 (wordX 0x30 0 1 1 1 0) = 1 ∧ wRs2 (wordX 0x30 0 1 1 1 0) ≠ 0) ∧
    (wMajor (wordX 0x30 4 1 0 2 0) = 0x30 ∧ wF3 (wordX 0x30 4 1 0 2 0) = 2 ∧ wNumP (wordX 0x30 4 1 0 2 0) = 4) :=
  ⟨⟨row_issues (_, _) (by decide), by decide⟩, ⟨issues_of _ _ _ (by decide), by decide, by decide⟩,
   ⟨issues_of _ _ _ (by decide), by decide, by decide⟩, ⟨issues_of _ _ _ (by decide), by decide, by decide⟩,
   ⟨issues_of _ _ _ (by decide), by decide, by decide⟩, ⟨issues_of _ _ _ (by decide), by decide, by decide⟩,
   ⟨⟨by decide, by decide, by decide⟩, by decide⟩, by decide, by decide, by decide⟩

/-- A core on which the LAUNCH of command 1 runs in context 0. -/
def sLaunched (armed : Bool) (d : Die) : State :=
  { withCore { coreOf { running with job := some r0 } with armed := armed } with
    dies := [(0, d)]
    cmds := [{ ref := r0, opcode := 1, irq := false, order := false, packet := 1, tenant := 0, ranges := [], eligible := true
               phase := .started, ctxs := [c0] }] }

theorem hyp_AlarmAndWatchdogComplete : c0.core.toNat < 20 ∧ (withCtx {}).ctxOf c0 = {} ∧ ({} : Ctx).mode ≠ .running ∧
    ((s0.ctxOf c0).mode = .running ∧ (s0.core c0.key).halted = false ∧ (s0.core c0.key).armed = false ∧
      (s0.core c0.key).jobs = []) ∧
    (((sLaunched false {}).core c0.key).jobs = [r0] ∧ ((sLaunched false {}).ctxOf c0).job = some r0 ∧
      ((sLaunched false {}).cmd r0).map (fun m => (m.phase, m.opcode, m.eligible, m.lost, m.attempts))
        = some (.started, 1, true, false, 0)) ∧
    (((sLaunched true {}).core c0.key).armed = true ∧ ((sLaunched true {}).die 0).spareUsed = false ∧
      ((sLaunched true {}).die 0).mapping = false) ∧
    (((sLaunched true { spareUsed := true }).die 0).spareUsed = true ∧ (sLaunched true {}).mod.failed = false) := by
  decide +kernel

/-- x1 and x2 are locators of rows 1 and 0 of handle 0, and x3 is 64. -/
def rowCtx : Ctx := { running with x := [(1, 0x8000000000000001), (2, 0x8000000000000000), (3, 64)] }

/-- The core has two rows under handle 0; `a` is in row 0, and `b` in row 1. -/
def sRows (a b : BitVec 4096) : State :=
  withCore { coreOf rowCtx with handles := [(0, { st := 1, count := 2 })], ink := [(0, a), (1, b)] }

theorem hyp_BlockRepeatCompletes : Issues (sRows 5 0) .bmov c0 (wordX 0x38 1 2 3 0 0) ∧ Issues (sRows 5 0) .bfill c0 (wordX 0x38 1 2 3 1 0) ∧
    Issues (sRows 5 5) .bcmp c0 (wordX 0x38 1 2 3 2 0) ∧ Issues (sRows 5 5) .bscan c0 (wordX 0x38 1 2 3 3 0) ∧
    ((sRows 5 0).core c0.key).checkRows 0 [1] true = .ok 0 ∧ ((sRows 5 0).core c0.key).checkRows 0 [0] false = .ok 0 ∧
    ((sRows 5 5).core c0.key).row 0 = ((sRows 5 5).core c0.key).row 1 ∧ (rowCtx.rx 3 = 64 ∧ rowCtx.vecStoresDone = true) ∧
    (isInk (rowCtx.rx 1) = true ∧ inkLocBad (rowCtx.rx 1) = false ∧ inkRow (rowCtx.rx 1) = 1) ∧
    (isInk (rowCtx.rx 2) = true ∧ inkLocBad (rowCtx.rx 2) = false ∧ inkRow (rowCtx.rx 2) = 0) ∧
    ((sRows 5 0).core c0.key).mmNeeds 1 = false ∧ (∀ i, i < 64 → fld (((sRows 5 5).core c0.key).row 1) (64 * i) 64 ≠ (rowCtx.rx 2).toNat) :=
  ⟨issues_of _ _ _ (by decide), issues_of _ _ _ (by decide), issues_of _ _ _ (by decide), issues_of _ _ _ (by decide),
   by decide, by decide, by decide +kernel, by decide, by decide, by decide, by decide, by decide +kernel⟩

/-- What `VecIssues` asks, as a Boolean, of a state in which no mask is owed and no register is bad. -/
def vecNow (s : State) (row : Row) (w : Word32) : Bool :=
  issuesNow s row w && typeOk row w && (s.ctxOf c0).vq.isEmpty && (s.ctxOf c0).vbad.isEmpty

theorem vec_of (s : State) (row : Row) (w : Word32) (masks regs : List Nat) (h : vecNow s row w = true) :
    VecIssues s row c0 w masks regs := by
  simp only [vecNow, Bool.and_eq_true, List.isEmpty_iff] at h
  obtain ⟨⟨⟨h1, h2⟩, h3⟩, h4⟩ := h
  refine ⟨issues_of s row w h1, h2, fun m _ => ?_, fun r _ => by rw [h4]; rfl⟩
  simp [Ctx.maskBusy, h3]

/-- Matrix descriptors of one FP16 element in row 0 of handle 0, and of one reservoir entry. -/
def mmCtx : Ctx :=
  { running with md := [(0, 0x4000), (1, 0x00000000000000000010000000000003), (2, 0x00000000000000000010000000000003)] }

/-- The core of the matrix witness. -/
def sMm : State := withCore { coreOf mmCtx with handles := [(0, { st := 1, count := 1 })] }

/-- MM.F in mode WS: destination descriptor 0, streamed 1, stationary 2. -/
def mmWord : Word32 := BitVec.ofNat 32 (0x70 + 2 * 2 ^ 12 + 1 * 2 ^ 16)

theorem hyp_MatrixIssueCompletes : (Issues s0 .mdset c0 (wordX 0x70 4 0 0 0 0) ∧ (s0.ctxOf c0).awaitsReg 0 = false) ∧
    Issues sMm .mm c0 mmWord ∧ (mmCtx.vecStoresDone = true ∧ (sMm.core c0.key).cwin = 0 ∧
      (sMm.core c0.key).mmPending c0.idx = false ∧ (sMm.core c0.key).passes.length < 16) ∧
    (∃ fa, FmtWord.parse (OpDesc.parse (SMap.get mmCtx.md (fld mmWord 16 4) 0)).fmtw = some fa ∧
      FmtWord.parse (OpDesc.parse (SMap.get mmCtx.md (fld mmWord 12 4) 0)).fmtw = some fa ∧
      mmBad (fld mmWord 7 3) (fld mmWord 10 2) (OpDesc.parse (SMap.get mmCtx.md (fld mmWord 16 4) 0))
        (OpDesc.parse (SMap.get mmCtx.md (fld mmWord 12 4) 0)) (DstDesc.parse (SMap.get mmCtx.md (fld mmWord 20 4) 0)) fa fa = false ∧
      (sMm.core c0.key).operandCheck (OpDesc.parse (SMap.get mmCtx.md (fld mmWord 16 4) 0)) fa = .inl (0, 0) ∧
      (sMm.core c0.key).operandCheck (OpDesc.parse (SMap.get mmCtx.md (fld mmWord 12 4) 0)) fa = .inl (0, 0)) :=
  ⟨⟨row_issues (_, _) (by decide), by decide⟩, issues_of _ _ _ (by decide), by decide,
   ⟨_, rfl, rfl, by decide +kernel, by decide +kernel, by decide +kernel⟩⟩

theorem hyp_VectorElementwiseCompletes : VecIssues s0 .vfp c0 (wordV 0x50 1 2 3 3 0 0) [] [2, 3] ∧
    VecIssues s0 .vint c0 (wordV 0x51 1 2 3 4 0 0) [] [2, 3] ∧ VecIssues s0 .vmv c0 (wordV 0x54 1 2 0 0 0 1) [] [2] ∧
    VecIssues s0 .vbcx c0 (wordV 0x54 1 2 0 4 0 2) [] [] ∧ VecIssues s0 .viota c0 (wordV 0x54 1 0 0 4 0 4) [] [] ∧
    VecIssues s0 .vsldn c0 (wordV 0x54 1 2 3 0 0 5) [] [2] ∧ VecIssues s0 .vslup c0 (wordV 0x54 1 2 3 0 0 6) [] [2, 1] :=
  ⟨vec_of _ _ _ _ _ (by decide), vec_of _ _ _ _ _ (by decide), vec_of _ _ _ _ _ (by decide), vec_of _ _ _ _ _ (by decide),
   vec_of _ _ _ _ _ (by decide), vec_of _ _ _ _ _ (by decide), vec_of _ _ _ _ _ (by decide)⟩

/-- The function unit VXU is on, and x3 names a copy of FP16 to FP16. -/
def sVxu : State := withCore { coreOf { running with x := [(3, 0x0000000300000003)] } with vxu := .on }

theorem hyp_VectorFunctionsComplete : VecIssues sVxu .vxf c0 (wordV 0x53 1 2 0 1 0 1) [] [2] ∧ (sVxu.core c0.key).vxu = .on ∧
    VecIssues s0 .vxf c0 (wordV 0x53 1 2 0 1 0 1) [] [2] ∧ (s0.core c0.key).vxu = .off ∧
    VecIssues s0 .vbcf c0 (wordV 0x54 1 2 0 0 0 3) [] [] ∧ VecIssues s0 .vcmp c0 (wordV 0x52 1 2 3 1 0 0) [1] [2, 3] ∧
    VecIssues sVxu .vcvt c0 (wordV 0x54 1 2 3 0 0 0) [] [2, 1] ∧
    (∃ f, vcvtPlan ((sVxu.ctxOf c0).rx 3) 0 = some (f, f) ∧ f.stoch = false) :=
  ⟨vec_of _ _ _ _ _ (by decide), by decide, vec_of _ _ _ _ _ (by decide), by decide, vec_of _ _ _ _ _ (by decide),
   vec_of _ _ _ _ _ (by decide), vec_of _ _ _ _ _ (by decide), ⟨_, rfl, rfl⟩⟩

theorem hyp_VectorReductionsComplete : VecIssues s0 .vmsk c0 (wordV 0x59 1 2 3 0 0 3) [2, 3] [] ∧
    VecIssues s0 .vsumF c0 (wordV 0x55 1 2 0 1 0 0) [] [2] ∧ VecIssues s0 .vsumI c0 (wordV 0x55 1 2 0 5 0 3) [] [2] ∧
    VecIssues s0 .vmaxF c0 (wordV 0x55 1 2 0 0 0 1) [] [2] ∧ VecIssues s0 .vminF c0 (wordV 0x55 1 2 0 0 0 2) [] [2] ∧
    VecIssues s0 .vpopc c0 (wordV 0x55 1 2 0 0 0 4) [2] [] ∧ VecIssues s0 .vfirst c0 (wordV 0x55 1 2 0 0 0 5) [2] [] ∧
    VecIssues s0 .vwake c0 (wordV 0x53 0 1 0 0 0 7) [] [] :=
  ⟨vec_of _ _ _ _ _ (by decide), vec_of _ _ _ _ _ (by decide), vec_of _ _ _ _ _ (by decide), vec_of _ _ _ _ _ (by decide),
   vec_of _ _ _ _ _ (by decide), vec_of _ _ _ _ _ (by decide), vec_of _ _ _ _ _ (by decide), vec_of _ _ _ _ _ (by decide)⟩

/-- x2 is a locator of row 0 of handle 0, which has 4 rows, and x3 a FORMAT of 8 bits; the gather unit is on. -/
def sVmem : State :=
  withCore { coreOf { running with x := [(2, 0x8000000000000000), (3, 4)] } with handles := [(0, { st := 1, count := 4 })], vgu := .on }

theorem hyp_VectorMemoryCompletes : VecIssues sVmem .vld c0 (wordV 0x56 1 2 3 6 0 0) [] [] ∧
    VecIssues sVmem .vst c0 (wordV 0x56 1 2 3 6 0 1) [] [1] ∧ VecIssues sVmem .vgath c0 (wordV 0x57 1 2 3 1 0 0) [] [3, 1] ∧
    VecIssues sVmem .vscat c0 (wordV 0x57 1 2 3 1 0 1) [] [3, 1] ∧ (sVmem.core c0.key).vgu = .on ∧
    (memWord (wordV 0x56 1 2 3 6 0 0) ((sVmem.ctxOf c0).rx 3)).isSome = true ∧
    vgsTrap (sVmem.ctxOf c0) (wordV 0x57 1 2 3 1 0 0) = none ∧
    (vgsActive (sVmem.ctxOf c0) (wordV 0x57 1 2 3 1 0 0)).all (fun i => vgsRow (sVmem.ctxOf c0) (wordV 0x57 1 2 3 1 0 0) i == 0) = true ∧
    vgsActive (sVmem.ctxOf c0) (wordV 0x57 1 2 3 1 0 0) ≠ [] ∧
    (isInk ((sVmem.ctxOf c0).rx 2) = true ∧ inkLocBad ((sVmem.ctxOf c0).rx 2) = false) ∧
    (∀ p, (sVmem.core c0.key).inkBad.contains p = false) ∧ (sVmem.ctxOf c0).drain = [] :=
  ⟨vec_of _ _ _ _ _ (by decide), vec_of _ _ _ _ _ (by decide), vec_of _ _ _ _ _ (by decide), vec_of _ _ _ _ _ (by decide),
   by decide, by decide, by decide +kernel, by decide +kernel, by decide +kernel, by decide, fun _ => rfl, by decide⟩

/-- A waiting request of one FP16 element. -/
def req : MmReq :=
  { ctx := 0, shape := 0, mode := 0, acc := false, dst := 0x4000, str := 0x10000000000003, sta := 0x10000000000003, strBase := 0
    strOff := 0, staBase := 0, staOff := 0 }

/-- A pass of context 0 that writes 7 in units of c = 0 to entry 0. -/
def onePass : Pass := { shape := 0, mode := 0, fmt := 3, rows := 1, parts := [{ ctx := 0, acc := true, outs := [(0, .fixed [7] 0 0)], sat := 0 }] }

/-- A pass of one INT8 row, 2 times 3, and a core that has it in flight. -/
def intPass : Pass :=
  { shape := 0, mode := 0, fmt := 6, rows := 1
    parts := [{ ctx := 0, acc := false, outs := [], sat := 0, str := [[[.fin false 2 0]]], sta := [[[.fin false 3 0]]] }] }
def kPass : Core := { coreOf running with passes := [intPass] }

/-- The comparison of its row 0, disturbed by an error of some units of c. -/
def disturbed (err : Int) : ChecksumFail :=
  { pass := 0, part := 0, block := 0, index := 0, kind := 0, step := 0, err := err }

theorem hyp_MatrixPassesComplete :
    (({ coreOf running with mmWait := [req] } : Core).nextReq = some req ∧
      ({ coreOf running with mmWait := [req] } : Core).badRow (passRows false [req]) = none) ∧
    (({ coreOf running with group := [req] } : Core).group.any ({ coreOf running with group := [req] } : Core).mmBlocked = false ∧
      ({ coreOf running with group := [req] } : Core).retains req = false) ∧
    ((s0.core k0.key).cwin = 0 ∧ (s0.core k0.key).passes.length < 16 ∧ (s0.die 0).traces = []) ∧
    (fitsInt 128 7 = true ∧ fitsInt 128 (7 + 7) = true ∧
      ({ coreOf running with passes := [onePass], res := [(0, { data := (RVal.fixed 7 0 0).lo, tag := (RVal.fixed 7 0 0).tag.bits })] } : Core).entryVal 0
        = .fixed 7 0 0) ∧
    (CoreExists k0 ∧ kPass.halted = false ∧ kPass.revokedReq = none) ∧
    ((s0.core k0.key).chkSums (disturbed 0) = none ∧ (kPass.chkSums (disturbed 0)).isSome = true ∧
      kPass.failedCheck (disturbed 0) = none ∧ (kPass.failedCheck (disturbed 5)).isSome = true ∧ kPass.jobs = [] ∧
      kPass.armed = false) := by
  unfold CoreExists; decide +kernel

/-- A VRES descriptor of 128 entries a row, OFMT FP64. -/
def edWord : BitVec 128 := 0x800000000000000000

/-- VRES descriptor 0 is set, x1 is a locator of row 0 of handle 0, and x3 is 0. -/
def sRes : State :=
  withCore { coreOf { running with ed := [(0, edWord)], x := [(1, 0x8000000000000000)] } with handles := [(0, { st := 1, count := 4 })] }

/-- The FP64 register format of OFMT 0. -/
def fp64Word : FmtWord := { fmt := .fp64, ovf := false, cs := 0, stoch := false, scale := 0 }

theorem res_of (row : Row) (w : Word32) (regs : List Nat) (raw : Bool) (h1 : vecNow sRes row w = true) (ht : vType w = 0)
    (h2 : (EdDesc.parse edWord).words (row == .vrrd) = some (fp64Word, none))
    (h3 : ((List.range (if raw then 32 else 256)).filter ((sRes.ctxOf c0).active w)).all (fun e =>
      decide ((EdDesc.parse edWord).entry ((sRes.ctxOf c0).rx (wRs1 w)).toNat e < 16384)) = true) :
    ResIssues sRes row c0 w regs raw fp64Word := by
  have hd : EdDesc.parse (SMap.get (sRes.ctxOf c0).ed (vType w) 0) = EdDesc.parse edWord := by rw [ht]; rfl
  have hb : ∀ es, (sRes.core c0.key).resBusy c0.idx es = false := fun _ => rfl
  refine ⟨vec_of _ _ _ _ _ h1, ?_, by decide, rfl, ?_, hb _⟩
  · rw [hd]; exact h2
  · intro e he
    rw [hd]
    exact of_decide_eq_true (List.all_eq_true.1 h3 e he)

theorem hyp_ReservoirReadsComplete : VecIssues s0 .vedset c0 (wordV 0x58 1 2 3 0 0 5) [] [] ∧
    ResIssues sRes .vrrd c0 (wordV 0x58 1 2 3 0 0 0) [] false fp64Word ∧
    ResIssues sRes .vrst c0 (wordV 0x58 1 2 3 0 0 1) [] false fp64Word ∧
    ResIssues sRes .vrraw c0 (wordV 0x58 1 2 0 0 0 2) [] true fp64Word ∧
    (isInk ((sRes.ctxOf c0).rx 1) = true ∧ inkLocBad ((sRes.ctxOf c0).rx 1) = false) :=
  ⟨vec_of _ _ _ _ _ (by decide), res_of _ _ _ _ (by decide) (by decide) (by decide) (by decide +kernel),
   res_of _ _ _ _ (by decide) (by decide) (by decide) (by decide +kernel),
   res_of _ _ _ _ (by decide) (by decide) (by decide) (by decide +kernel), by decide⟩

/-- Mask register 1 has bit 0 alone set. -/
def sOne : State :=
  withCore { coreOf { running with ed := [(0, edWord)], m := [(1, 1)] } with handles := [] }

theorem hyp_ReservoirWritesComplete : ResIssues sRes .vrclr c0 (wordV 0x58 0 2 0 0 0 4) [] false fp64Word ∧
    (((sRes.core c0.key).entryVal 0).tag.dom ≠ 3 ∧ (sRes.core c0.key).res = []) ∧
    (vecNow sOne .vrcomb (wordV 0x58 1 2 0 0 1 3) = true ∧
      (List.range 32).filter ((sOne.ctxOf c0).active (wordV 0x58 1 2 0 0 1 3)) = [0] ∧
      (RVal.ofRaw (((sOne.ctxOf c0).vreg 1).extractLsb' 0 512)).tag.dom ≠ 3) :=
  ⟨res_of _ _ _ _ (by decide) (by decide) (by decide) (by decide +kernel), by decide +kernel, by decide +kernel⟩

/-- An instruction in flight that has one store of its own. -/
def oneStore (t : VStore) : VecOp := { stores := [t] }

theorem hyp_VectorCommitAndDrainComplete : (({ running with vq := [{ destX := some (1, 5) }] } : Ctx).job = none) ∧
    (∀ t ∈ [VStore.ink 0 0 0 (BitVec.allOnes 4096) 5, .res 0 {}, .mem (.stack 0) 0 5],
      ((withCtx { running with drain := [oneStore t] }).ctxOf c0).drain = [oneStore t]) ∧
    ((s0.core c0.key).mmNeeds 0 = false ∧ (s0.core c0.key).sb = [] ∧ SMap.wf (s0.core c0.key).res = true) ∧
    CacheHas sLines 0x40000000 ∧
    ((sVxu.core k0.key).unit .vxu = .on ∧ (sVxu.core k0.key).keep .vxu = false ∧ (sVxu.core k0.key).unitBusy .vxu = false) ∧
    ((withCtx { running with vq := [{ unit := some .vgu }] }).core k0.key).unitBusy .vgu = true ∧
    ((withCore { coreOf running with vgu := .waking }).core k0.key).unit .vgu = .waking :=
  ⟨rfl, by intro t h; rfl, by decide, ⟨by decide, by decide⟩, by decide, by decide, by decide⟩

/-- A fill of row 0 of handle 0 with 64 FP64 elements (R247). -/
def fillRow : BitVec 896 := BitVec.ofNat 896 (2 ^ 63 * 2 ^ 64 + 2 ^ 44 * 2 ^ 320 + (64 + 2 ^ 32) * 2 ^ 384 + 2 ^ 704)

/-- A COLL_BARRIER packet of group 0 (R309). -/
def barrierImage : BitVec 1024 := 0x35

/-- Group 0 is ready, with die 0 of this module as its only member; x2 is a locator of the row `a`. -/
def sTag (a : BitVec 4096) (x : Ctx) : State :=
  { withCore { coreOf { x with mode := .running, x := [(2, 0x8000000000000000)] } with
      handles := [(0, { st := 1, count := 1 })], ink := [(0, a)] } with
    groups := [(0, { valid := true, trusted := true, setst := 2, members := 1, ranks := [(0, 0)] })]
    mod := { State.reset.mod with stage := .ready, placeValid := true } }

/-- x2 is an address. -/
def sAt (a : Word) : State := withCtx { running with x := [(2, a)] }

theorem readable_tag : ReadableRow ((sTag 0x35 {}).core c0.key) (((sTag 0x35 {}).ctxOf c0).rx 2) :=
  ⟨by decide, by decide, by decide, by decide, by decide⟩

theorem hyp_CoprocessorTagsComplete :
    (Issues (sTag (fillRow.setWidth 4096) {}) .feedStart c0 (wordX 0x71 1 2 0 0 0) ∧ (FeedDesc.parse fillRow).op = .fill ∧
      (FeedDesc.parse fillRow).drawCount .fill = 0 ∧ (sTag 0 {}).feedCheck 0 0 .fill (FeedDesc.parse fillRow) = none) ∧
    (freeTag (fun _ => false) = some 0 ∧ freeTag (fun _ => true) = none ∧
      (sTag 0 {}).feedCheck 0 0 (FeedDesc.parse 0).op (FeedDesc.parse 0) ≠ none) ∧
    (Issues (sAt 8) .feedStart c0 (wordX 0x71 1 2 0 0 0) ∧ Issues (sAt 8) .ligStart c0 (wordX 0x73 1 2 0 0 0) ∧
      isInk (8#64) = false ∧ (8#64).toNat % 64 ≠ 0) ∧
    (Issues (sAt 0x1000000000000) .feedStart c0 (wordX 0x71 1 2 0 0 0) ∧ Issues (sAt 0x1000000000000) .ligStart c0 (wordX 0x73 1 2 0 0 0) ∧
      isInk (0x1000000000000#64) = false ∧ (0x1000000000000#64).toNat % 64 = 0 ∧ 0x1000000000000 ≤ (0x1000000000000#64).toNat) ∧
    Issues (sTag 0 {}) .feedWait c0 (wordX 0x72 1 3 0 0 0) ∧ SMap.find ((sTag 0 {}).ctxOf c0).feedTags 0 = none ∧
    Issues (sTag 0 { feedTags := [(0, { op := .fill, desc := fillRow })] }) .feedWait c0 (wordX 0x72 1 3 0 0 0) ∧
    Issues (sTag 0 { feedTags := [(0, { op := .fill, desc := fillRow, phase := .complete 0 0 })] }) .feedWait c0 (wordX 0x72 1 3 0 0 0) ∧
    (Issues (sTag 0x35 {}) .ligStart c0 (wordX 0x73 1 2 0 0 0) ∧ isColl (Coll.parse barrierImage).op = true ∧
      (sTag 0x35 {}).collOk 0 (Coll.parse barrierImage) ((pkSlots barrierImage).map slotRange) = true ∧
      (Coll.parse barrierImage).queue / 512 = 0) ∧
    (((sTag 0x35 {}).mod.placeValid = true ∧ ((sTag 0x35 {}).group 0).aborted = [] ∧ (sTag 0x35 {}).ligOps = []) ∧
      (∃ a ∈ ({ ((sTag 0x35 {}).group 0) with aborted := [(0, 1, 0)] } : Group).aborted, a.1 = 0 ∧ a.2.1 = 1) ∧
      ({ (sTag 0x35 {}).mod with placeValid := false } : Module).placeValid = false) ∧
    (Issues (sTag 0x35 { kept := [{ group := 0, opseq := 1, image := barrierImage }] }) .ligStart c0 (wordX 0x73 1 2 0 0 0)) ∧
    (Issues (sTag 0x34 { kept := [{ group := 0, opseq := 1, image := barrierImage }] }) .ligStart c0 (wordX 0x73 1 2 0 0 0) ∧
      (0x34 : BitVec 1024) ≠ barrierImage ∧ (sTag 0 {}).collOk 0 (Coll.parse 0x37) [] = false) ∧
    Issues (sTag 0 { ligTags := [(0, { group := 0, opseq := 1, image := barrierImage })] }) .ligWait c0 (wordX 0x73 1 3 0 1 0) ∧
    Issues (sTag 0 { ligTags := [(0, { group := 0, opseq := 1, image := barrierImage, status := some 0 })] }) .ligWait c0
      (wordX 0x73 1 3 0 1 0) :=
  ⟨⟨issues_of _ _ _ (by decide +kernel), by decide +kernel, by decide +kernel, by decide +kernel⟩, by decide +kernel,
   ⟨issues_of _ _ _ (by decide), issues_of _ _ _ (by decide), by decide +kernel, by decide +kernel⟩,
   ⟨issues_of _ _ _ (by decide), issues_of _ _ _ (by decide), by decide +kernel, by decide +kernel, by decide +kernel⟩,
   issues_of _ _ _ (by decide +kernel), by decide +kernel, issues_of _ _ _ (by decide +kernel), issues_of _ _ _ (by decide +kernel),
   ⟨issues_of _ _ _ (by decide +kernel), by decide +kernel, by decide +kernel, by decide +kernel⟩, by decide +kernel,
   issues_of _ _ _ (by decide +kernel), ⟨issues_of _ _ _ (by decide +kernel), by decide +kernel, by decide +kernel⟩,
   issues_of _ _ _ (by decide +kernel), issues_of _ _ _ (by decide +kernel)⟩

/-- The bytes of a line stand in one line of stack memory. -/
theorem test_one_line : ∀ i, i < 112 → dieOf (0x40000000 + i) = 0 ∧ lineOf (0x40000000 + i) = 0x400000 ∧
    (0x40000000 + i) / 256 = 0x400000 := by decide +kernel

theorem hyp_CoprocessorTagsComplete_memory : isInk (0 : Word) = false ∧ (0 : Word).toNat % 2 ^ 25 + 112 ≤ 2 ^ 25 ∧
    (sLines.ctxOf c0).vecStoreMeets (.stack 0x40000000) 112 = false ∧
    ∃ u, StackAccess sLines c0 0 64 .read 0x40000000 u ∧ ∀ i, i < 112 → AtHand u c0 (0x40000000 + i) := by
  obtain ⟨u, hu, h1, h2⟩ := access_of sLines 0 64 .read 0x40000000 (by decide +kernel)
  refine ⟨by decide +kernel, by decide, by decide +kernel, u, hu, fun i hi => .inr (.inl ⟨?_, ?_⟩)⟩
  · rw [(test_one_line i hi).1, (test_one_line i hi).2.1]; exact h1
  · rw [(test_one_line i hi).2.2]; exact h2

/-- A line of stack memory that a die waits for, at the head of its channel's read queue. -/
def missLine (readers : List Engine) : Die :=
  { misses := [{ line := 5, merged := 0, dirty := false, keep := false, tenant := 0, readers := readers }]
    chans := [(chanOf 5, { reads := [{ line := 5, tenant := 0 }] })] }

/-- A line that a die holds. -/
def heldLine (dirty : Bool) : Die := { lines := [{ line := 5, way := 0, dirty := dirty, keep := false, tenant := 0 }] }

/-- A written line in the eviction buffer, not yet or already in the write queue of its channel, which drains. -/
def evicted (issued : Bool) : Die :=
  { evicts := [{ line := 5, tenant := 0, issued := issued }]
    chans := if issued then [(chanOf 5, { writes := [{ line := 5, tenant := 0, back := true }], drain := true })] else [] }

theorem hyp_DieCacheEventsComplete : (5#31).toNat < 2 ^ 26 ∧
    (∀ readers ∈ [[], [Engine.ctx c0]],
      (((missLine readers).chan (chanOf 5)).nextRead s0.farShare).map (fun p => p.1.line) = some 5 ∧
      ((missLine readers).misses.find? (fun x => x.line == 5)).map (fun m => m.readers) = some readers ∧
      (missLine readers).fetches = [] ∧ (missLine readers).holds 5 = none ∧
      (missLine readers).wayFor 0 (setKey (lineSpa 0 5)) = some 0 ∧ (missLine readers).setLines (setKey (lineSpa 0 5)) = []) ∧
    ((missLine []).stkUe = false ∧ s0.poison.contains (lineSpa 0 5 / 256) = false) ∧
    (∀ dirty : Bool, ((heldLine dirty).chan (chanOf 5)).nextRead s0.farShare = none ∧
      ((heldLine dirty).holds 5).map (fun h => h.dirty) = some dirty) ∧
    ((heldLine false).misses = [] ∧ (heldLine false).ways 0 (placeOf (lineSpa 0 5)).slice ≠ [] ∧
      ((heldLine false).chan (chanOf 5)).reads = []) ∧
    (chanOf 5 = 5 * (0#4).toNat + chanOf 5 % 5 ∧ chanOf 5 % 5 = 0) ∧
    ((∀ j, j < 5 → ((evicted false).chan (5 * (0#4).toNat + j)).drain = false) ∧
      (((evicted false).evictsOf (0#4).toNat).find? (fun e => !e.issued && decide (((evicted false).chan (chanOf e.line)).writes.length < 64))).isSome
        = true) ∧
    ((∀ k, k < 5 → (((evicted true).chan (5 * (0#4).toNat + k)).drain = true ↔ k = 0)) ∧
      (((evicted true).chan (5 * (0#4).toNat + 0)).nextWrite s0.farShare).map (fun p => p.1.back) = some true) := by
  decide +kernel

/-- Row 0 of the core, which the scrubber is at, holds a single-bit error. -/
def kSoft : Core := { coreOf running with inkSoft := [7, 0, 8] }

theorem hyp_ScrubbersComplete : CoreExists k0 ∧ (s0.core k0.key).inkClearing = false ∧
    ((s0.core k0.key).inkSoft.contains (s0.core k0.key).scrubRow = false ∧ kSoft.inkSoft = [7] ++ kSoft.scrubRow :: [8] ∧
      kSoft.scrubRow ∉ [7] ∧ kSoft.scrubRow ∉ [8]) ∧
    (s0.core k0.key).inkBad.contains (s0.core k0.key).scrubRow = false ∧
    ({ kSoft with inkBad := [0] } : Core).inkBad.contains kSoft.scrubRow = true ∧ (0#7).toNat < 80 ∧ (79#7).toNat < 80 ∧
    ((s0.die 0).scrubTarget 0 0).isSome = true ∧ ((s0.die 0).scrubTarget 79 655359).isSome = true ∧ (s0.die 0).lines = [] ∧
    (s0.die 0).stkUe = false := ⟨by unfold CoreExists; decide, by decide +kernel⟩

theorem hyp_ThermalEventsComplete : (95#8).toNat < 105 ∧ s0.mod.stage = .ready ∧ (s0.die 0).traces = [] ∧
    (1 ≤ (s0.die 0).stkHyst ∧ (s0.die 0).stkStep ≤ 3) ∧ (124#8).toNat < 125 ∧
    ([(0, { dieTemp := 100 })] : SMap Die).any (fun p => decide (100 ≤ p.2.dieTemp)) = true ∧
    ([(0, { dieTemp := 97 })] : SMap Die).any (fun p => decide (100 ≤ p.2.dieTemp)) = false ∧
    ([(0, { dieTemp := 97 })] : SMap Die).all (fun p => decide (p.2.dieTemp ≤ 97)) = true ∧
    ({ s0.mod with thermMhz := some 1000 } : Module).thermMhz = some 1000 ∧ s0.mod.mmcRun = true := by decide +kernel

/-- A command in flight: queue 0, SEQ 1, tenant 0. -/
def cmdOf (op : Nat) (packet : BitVec 1024) : Cmd :=
  { ref := r0, opcode := op, irq := false, order := false, packet := packet, tenant := 0, ranges := [], eligible := false
    phase := .started }

/-- An idle context, and a command in flight. -/
def withCmd (c : Cmd) : State := { withCtx {} with cmds := [c] }

/-- A stalled context with an outstanding fault record. -/
def faulted (tag : Option Nat) : State :=
  { withCtx { mode := .stalled, hen := true } with
    funcs := [(0, { tbValid := true, fqEn := true })], mgmt := some 0
    dies := [(0, { faults := [{ fn := 0, page := 32, va := 2 ^ 30, cause := 0, source := 0, queue := 0, seq := 0, count := 0,
                                tag := tag, engines := [(.ctx c0, 2 ^ 30)] }] })] }

/-- Function 0 has a fault queue, and a level-1 table, of which the die cache holds the first line, or no table. -/
def sFault (table : Bool) : State :=
  { withCtx running with
    funcs := [(0, { tbValid := table, fqEn := true })]
    dies := [(0, { lines := [{ line := 0, way := 0, dirty := false, keep := false, tenant := 0 }] })] }

/-- What the statement asks of a state in which an access faults, as a Boolean. -/
def pageNow (s : State) (va : Nat) (a : Access) : Bool :=
  match s.locate (s.ctxAgent c0) va a with
  | .page cause v wr u => cause == 0 && v == va && wr == (a == .write) && (u.func 0).fqEn && u.tenantOf c0.key == 0
      && (u.die 0).faults == [] && (u.die 0).traces == []
  | _ => false

theorem hyp_PageFaultsAreRecorded_locate :
    (c0.core.toNat < 20 ∧ c0.die = 0 ∧ (sFault true).tenantOf c0.key = 0 ∧ ((sFault true).ctxOf c0).mode = .running ∧
      ((sFault true).func 0).fqEn = true) ∧
    pageNow (sFault true) (2 ^ 30) .write = true ∧
    (((sFault false).func 0).tbValid = false ∧ ((sFault false).core c0.key).tlb ++ ((sFault false).die 0).tlb = [] ∧
      ((sFault false).die 0).walks.length < 32 ∧ ((sFault false).die 0).faults = [] ∧ ((sFault false).die 0).traces = []) := by
  decide +kernel

theorem hyp_PageFaultsAreRecorded :
    ((5#64).toNat < 2 ^ 48 ∧ s0.walk 0 5 = .entry true 0x4000001B) ∧
    (((faulted none).func 0).fqEn = true ∧ ((faulted none).func 0).fqFull = false ∧
      (((faulted none).die 0).faults.find? (fun f => f.fn == 0 && f.page == (32#23).toNat && f.tag.isNone)).isSome = true) := by
  decide +kernel

theorem hyp_FaultAnswersComplete :
    ((faulted (some 7)).faultAt 0 7).map (fun p => (p.1, p.2.engines)) = some (0, [(.ctx c0, 2 ^ 30)]) ∧
    ((faulted (some 7)).ctxOf c0).mode = .stalled ∧ ((faulted (some 7)).die 0).traces = [] ∧
    CanTrap (faulted (some 7)) c0 ∧ (faulted (some 7)).isMgmt 0 = true ∧ ((faulted (some 7)).func 0).tmo ≠ 0 := by
  unfold CanTrap; decide +kernel

/-- Function 0 is the managing function, and function 1 has a table that is not yet written. -/
def sMgmt : State := { s0 with mgmt := some 0, funcs := [(0, {}), (1, { tbValid := true, tbBase := 16 })] }

theorem hyp_PageTablesComplete :
    (sMgmt.isMgmt 0 = true ∧ sMgmt.funcBusy 2 = false ∧ (sMgmt.func 2).tbValid = false ∧
      (0x8000000000600000#64).getLsbD 63 = true ∧ fld 0x8000000000600000#64 21 18 / 16 % 512 < 384 ∧
      sMgmt.frameHeld (fld 0x8000000000600000#64 21 18 / 16) = false) ∧
    ((sMgmt.func 1).tbValid = true ∧ (sMgmt.func 1).tbInit = false ∧ Memory.wf sMgmt.mem = true) ∧
    ((∀ p ∈ ({ s0 with mgmt := some 0, funcs := [] } : State).funcs, p.2.tbValid = false) ∧ fld (0x10000001#64) 0 9 ≤ 32 ∧
      fld (0x10000001#64) 25 14 % 512 + fld (0x10000001#64) 0 9 ≤ 384 ∧
      ∀ i, i < fld (0x10000001#64) 0 9 → ({ s0 with mgmt := some 0, funcs := [] } : State).frameHeld (fld (0x10000001#64) 25 14 + i) = false) ∧
    sMgmt.isMgmt 1 = false := by decide +kernel

/-- Queue 0 of function 0: a ring in stack memory at virtual address 0 with one packet, whose first byte is `op`. -/
def withRing (op : BitVec 8) : State :=
  { s0 with mem := [⟨0, 27⟩, ⟨3, 0x40⟩, ⟨2 ^ 30, op⟩], queues := [(0, { ringLoc := true, en := true, tail := 1 })]
            funcs := [(0, { tbValid := true, tbInit := true })], links := [(0, { up := true })] }

/-- A LAUNCH of context 0 of core 0 at address 0. -/
def launchImage : BitVec 1024 := BitVec.ofNat 1024 (1 + (2 ^ 44 + 2 ^ 40) * 2 ^ 64)

/-- A command that has not started. -/
def waiting (c : Cmd) : Cmd := { c with phase := .waiting }

theorem hyp_QueueCommandsComplete :
    ((withRing 0x52).funcExists 0 = true ∧ (withRing 0x52).inService = true ∧ ((withRing 0x52).queue 0).owner = 0 ∧
      ((withRing 0x52).queue 0).en = true ∧ (5#16).toNat < ringEntries ((withRing 0x52).queue 0).ringSize ∧
      ¬ (64#16).toNat < ringEntries ((withRing 0x52).queue 0).ringSize ∧ ¬ ((2#4) = 4 ∨ (2#4) = 8)) ∧
    ((withRing 0x52).fetchQueue 0 = some 0 ∧ (withRing 0x52).fetchable 0 = some (0x52, 1) ∧
      (withRing 0x52).packetCheck 0 0x52 = none ∧ ((withRing 0x52).die (queueDie 0)).thold = false ∧
      ((withRing 0x52).die (queueDie 0)).traces = []) ∧
    ((withRing 0x99).fetchQueue 0 = some 0 ∧ (withRing 0x99).fetchable 0 = some (0x99, 1) ∧
      (withRing 0x99).packetCheck 0 0x99 = some 1) ∧
    ((withCmd (waiting (cmdOf 0x53 0x53))).startReady (waiting (cmdOf 0x53 0x53)) = true ∧
      (withCmd (waiting (cmdOf 0x53 0x53))).outranked (waiting (cmdOf 0x53 0x53)) = false ∧
      (withCmd (waiting (cmdOf 0x53 0x53))).mod.failed = false) ∧
    ((withCmd (waiting (cmdOf 1 launchImage))).startReady (waiting (cmdOf 1 launchImage)) = true ∧
      (withCmd (waiting (cmdOf 1 launchImage))).outranked (waiting (cmdOf 1 launchImage)) = false ∧
      (waiting (cmdOf 1 launchImage)).launchCtxs = [c0] ∧ (withCmd (waiting (cmdOf 1 launchImage))).ownsCore 0 0 0 = true) ∧
    ((withCmd ((cmdOf 0x53 0x53).finish 0 0)).cmd r0 = some ((cmdOf 0x53 0x53).finish 0 0) ∧
      ((cmdOf 0x53 0x53).finish 0 0).isComplete = true ∧
      (withCmd ((cmdOf 0x53 0x53).finish 0 0)).writesDone ((cmdOf 0x53 0x53).finish 0 0) = true ∧
      ((withCmd ((cmdOf 0x53 0x53).finish 0 0)).queue 0).repLoc = false ∧
      (withCmd ((cmdOf 0x53 0x53).finish 0 0)).repliesAfter ((cmdOf 0x53 0x53).finish 0 0) = false ∧
      ((withCmd ((cmdOf 0x53 0x53).finish 0 0)).func 0).resetting = false) ∧
    (let late : Cmd := { (cmdOf 0x53 0x53).finish 0 0 with done := some 5 }
     let early : Cmd := { (cmdOf 0x53 0x53).finish 0 0 with ref := { queue := 0, seq := 2 }, done := some 4 }
     ({ withCmd late with cmds := [late, early] } : State).repliesAfter late = true) := by decide +kernel

theorem hyp_LaunchRunsItsContexts :
    let s : State := { withCtx { job := some r0 } with cmds := [{ cmdOf 1 launchImage with ctxs := [c0] }] }
    s.cmd r0 = some { cmdOf 1 launchImage with ctxs := [c0] } ∧ (s.ctxOf c0).mode = .idle ∧ (s.ctxOf c0).code = none ∧
    (s.ctxOf c0).job = some r0 ∧ (s.die 0).traces = [] := by decide +kernel

/-- A packet's OPCODE, ARG and P0 to P2. -/
def pkt (op arg p0 p1 p2 : Nat) : BitVec 1024 :=
  BitVec.ofNat 1024 (op + arg * 2 ^ 64 + p0 * 2 ^ 128 + p1 * 2 ^ 192 + p2 * 2 ^ 256)

/-- A started command with its packet. -/
def sent (op arg p0 p1 p2 : Nat) : Cmd := cmdOf op (pkt op arg p0 p1 p2)

/-- Row 1 of handle 0 copied, or converted from format word `sfmt`, to row 0 as 64 FP64 elements. -/
def moveRow (sfmt : Nat) : BitVec 896 := BitVec.ofNat 896 (2 ^ 63 + 1 + sfmt * 2 ^ 128 + 2 ^ 40 * 2 ^ 320) ||| fillRow

/-- A transfer that holds feed 0. -/
def feedXfer (op : FeedOp) (d : BitVec 896) : Xfer := { op := op, desc := d, feeds := [0], lanes := [{ tile := 0 }] }

/-- A FEED_* command of the transfer, on core 0 with handle 0 of four rows. -/
def sFeed (op : Nat) (x : Xfer) : State :=
  { withCore { coreOf {} with handles := [(0, { st := 1, count := 4 })] } with cmds := [{ sent op 0 0 0 0 with xfer := some x }] }

/-- What `MovesOneRow` asks, as a Boolean. -/
def movesNow (op : Nat) (x : Xfer) : Bool :=
  let s := sFeed op x
  let f := FeedDesc.parse x.desc
  s.xfer (.cmd r0) == some x && x.phase == .running && x.feeds.length == 1 && x.lanes == [{ tile := 0 }] && f.rows == 1 &&
    f.tiles == 1 && f.dkind == 1 && f.elems * f.dstSide.width == 4096 && f.dstSide.word.scale != 2 &&
    !f.dstSide.word.stoch && decide (x.op = .fill ∨ (f.skind = 1 ∧ f.srcSide.word.scale ≠ 2)) &&
    ((f.inkAccesses x.op 0 [(0, 0, f.elems)]).findSome? (fun a => s.inkBar r0.die a.1 a.2.1 a.2.2.1 a.2.2.2)).isNone

theorem moves_of (op : Nat) (x : Xfer) (h : movesNow op x = true) : MovesOneRow (sFeed op x) r0 x (FeedDesc.parse x.desc) := by
  simp only [movesNow, Bool.and_eq_true, beq_iff_eq, bne_iff_ne, Bool.not_eq_true', decide_eq_true_eq, Option.isNone_iff_eq_none] at h
  obtain ⟨⟨⟨⟨⟨⟨⟨⟨⟨⟨⟨h1, h2⟩, h3⟩, h4⟩, h6⟩, h7⟩, h8⟩, h9⟩, h10⟩, h11⟩, h12⟩, h13⟩ := h
  exact ⟨h1, rfl, h2, h3, h4, h6, h7, h8, h9, h10, h11, h12, h13⟩

theorem hyp_FeedTransfersComplete :
    MovesOneRow (sFeed 0x10 (feedXfer .copy (moveRow 0))) r0 (feedXfer .copy (moveRow 0)) (FeedDesc.parse (moveRow 0)) ∧
    MovesOneRow (sFeed 0x11 (feedXfer .fill fillRow)) r0 (feedXfer .fill fillRow) (FeedDesc.parse fillRow) ∧
    MovesOneRow (sFeed 0x12 (feedXfer .convert (moveRow 1))) r0 (feedXfer .convert (moveRow 1)) (FeedDesc.parse (moveRow 1)) ∧
    ((FeedDesc.parse (moveRow 0)).sfmt = (FeedDesc.parse (moveRow 0)).dfmt ∧
      (FeedDesc.parse (moveRow 1)).sfmt ≠ (FeedDesc.parse (moveRow 1)).dfmt) ∧
    ((feedXfer .fill fillRow).next = some (0, { tile := 0 }) ∧
      ({ feedXfer .fill fillRow with lanes := [{ tile := 0, elem := 64 }] } : Xfer).next = some (0, { tile := 0, elem := 64 }) ∧
      (FeedDesc.parse fillRow).tiles = 0 + 1 ∧ (FeedDesc.parse fillRow).rows * (FeedDesc.parse fillRow).elems ≤ 64 ∧
      (FeedDesc.parse fillRow).tiles ≤ 1 ∧ ({ feedXfer .fill fillRow with phase := .stopping 6 1 } : Xfer).phase = .stopping 6 1 ∧
      ((sFeed 0x11 (feedXfer .fill fillRow)).die 0).traces = [] ∧
      (sFeed 0x11 (feedXfer .fill fillRow)).fab.unacked = []) :=
  ⟨moves_of _ _ (by decide +kernel), moves_of _ _ (by decide +kernel), moves_of _ _ (by decide +kernel), by decide +kernel,
   by decide +kernel⟩

theorem hyp_SemaphoresComplete :
    ((withCmd (sent 0x20 1 8 5 0)).running r0 0x20 = some (sent 0x20 1 8 5 0) ∧
      (withCmd (sent 0x20 1 8 5 0)).semAt (sent 0x20 1 8 5 0) .write = some (2 ^ 30 + 8) ∧ Memory.wf s0.mem = true) ∧
    ((withCmd (sent 0x21 0 8 0 3)).running r0 0x21 = some (sent 0x21 0 8 0 3) ∧
      (withCmd (sent 0x21 0 8 0 3)).semAt (sent 0x21 0 8 0 3) .read = some (2 ^ 30 + 8) ∧
      (sent 0x21 0 8 0 3).param 1 ≤ Memory.readLe s0.mem (2 ^ 30 + 8) 8 ∧ (sent 0x21 0 8 0 3).param 2 ≠ 0) ∧
    ((withCmd (sent 0x21 0 8 5 0)).semAt (sent 0x21 0 8 5 0) .read = some (2 ^ 30 + 8) ∧
      Memory.readLe s0.mem (2 ^ 30 + 8) 8 < (sent 0x21 0 8 5 0).param 1) := by decide +kernel

/-- A waiting collective, in a module that has a number or not. -/
def sColl (op : Nat) (placed : Bool) : State :=
  { withCmd (waiting (sent op 0 0 0 0)) with
    groups := [(0, { valid := true, trusted := true, setst := 2, members := 1, ranks := [(0, 0)] })]
    mod := { s0.mod with placeValid := placed } }

theorem hyp_CollectivesLaunch :
    (∀ op ∈ [0x30, 0x31, 0x32, 0x33, 0x34, 0x35], ∀ b : Bool, (sColl op b).cmd r0 = some (waiting (sent op 0 0 0 0)) ∧
      (waiting (sent op 0 0 0 0)).opcode = op ∧ (waiting (sent op 0 0 0 0)).isComplete = false ∧
      (waiting (sent op 0 0 0 0)).lig = none ∧ (sColl op b).mod.placeValid = b ∧
      (((sColl op b).earlier r0).all (fun e => e.lig.isSome)) = true ∧
      ((sColl op b).group (Coll.parse (waiting (sent op 0 0 0 0)).packet).group).aborted = []) := by decide +kernel

/-- Function 0 holds frame 5; its page of 32 MiB at virtual address 0 has entry `e`. -/
def sPage (e : BitVec 8) (c : Cmd) : State :=
  { State.reset with
    mem := [⟨0, 1⟩, ⟨1, 1⟩] ++ (if e = 0 then [] else [⟨256, e⟩]), frames := [(5, .held 0)], l2used := [1], l2frames := 1
    funcs := [(0, { tbValid := true, tbInit := true })], cmds := [c], mod := s0.mod }

/-- MAP and UNMAP of that page, and of handle 1 of core 0 with rows 16 to 19. -/
def mapCmd : Cmd := sent 0x40 0 0 (5 * 2 ^ 25 + 0x0B) 1
def unmapCmd : Cmd := sent 0x41 0 0 0 1
def mapInkCmd : Cmd := sent 0x40 (2 ^ 62) (2 ^ 20) (16 + 4 * 2 ^ 16) 0
def unmapInkCmd : Cmd := sent 0x41 (2 ^ 62) 0 0 0

theorem hyp_MappingCommandsComplete :
    ((sPage 0 mapCmd).running r0 0x40 = some mapCmd ∧ mapCmd.pageForm = true ∧ mapCmd.pages.count = 1 ∧
      (sPage 0 mapCmd).pagesOk 0 mapCmd.pages = true ∧ (sPage 0 mapCmd).otherSize 0 mapCmd.pages.va mapCmd.pages.big = false ∧
      (sPage 0 mapCmd).entryAddr 0 mapCmd.pages.va mapCmd.pages.big = some 256 ∧ Memory.wf (sPage 0 mapCmd).mem = true ∧
      mapCmd.param 1 % 2 = 1 ∧ (sPage 0 mapCmd).entryOk 0 (mapCmd.param 1) mapCmd.pages.big = true ∧
      (sPage 0 mapCmd).pte 256 % 2 = 0 ∧ (sPage 0 mapCmd).l2used.length ≤ (sPage 0 mapCmd).l2frames * 131072) ∧
    ((sPage 0x4B unmapCmd).running r0 0x41 = some unmapCmd ∧ unmapCmd.pageForm = true ∧ unmapCmd.pages.count = 1 ∧
      (sPage 0x4B unmapCmd).pagesOk 0 unmapCmd.pages = true ∧
      (sPage 0x4B unmapCmd).otherSize 0 unmapCmd.pages.va unmapCmd.pages.big = false ∧
      (sPage 0x4B unmapCmd).entryAddr 0 unmapCmd.pages.va unmapCmd.pages.big = some 256 ∧
      (sPage 0x4B unmapCmd).windowed 0 unmapCmd.pages.va unmapCmd.pages.bytes = false ∧
      (sPage 0x4B unmapCmd).coresOf 0 = []) ∧
    ((withCmd mapInkCmd).running r0 0x40 = some mapInkCmd ∧ mapInkCmd.pageForm = false ∧
      ((withCmd mapInkCmd).core mapInkCmd.inkCore).owned = true ∧
      (((withCmd mapInkCmd).core mapInkCmd.inkCore).handle mapInkCmd.inkHandle).st ≠ 1 ∧
      mapInkCmd.param 1 / 2 ^ 16 % 2 ^ 15 ≠ 0 ∧ mapInkCmd.param 1 % 2 ^ 14 + mapInkCmd.param 1 / 2 ^ 16 % 2 ^ 15 ≤ 16384 ∧
      ((withCmd mapInkCmd).core mapInkCmd.inkCore).handles = [] ∧
      (withCmd mapInkCmd).fits 0 1 (((withCmd mapInkCmd).inkUse 0).1 + 1) = true ∧
      (withCmd mapInkCmd).fits 0 2 (((withCmd mapInkCmd).inkUse 0).2 + 4) = true) ∧
    ((sFeed 0x41 (feedXfer .fill fillRow)).core unmapInkCmd.inkCore).owned = true ∧ unmapInkCmd.pageForm = false ∧
    (((sFeed 0x41 (feedXfer .fill fillRow)).core unmapInkCmd.inkCore).handle unmapInkCmd.inkHandle).st ≠ 0 := by decide +kernel

/-- WINDOW_SET of entry 3: one unit at virtual address 0 of function 0, valid and readable. -/
def windowCmd : Cmd := sent 0x42 0 3 (2 ^ 31 + 2 ^ 48 + 1) 0

theorem hyp_ManagingCommandsComplete :
    ((withCmd windowCmd).running r0 0x42 = some windowCmd ∧
      (Window.parse (BitVec.ofNat 128 (windowCmd.param 1 + windowCmd.param 2 * 2 ^ 64))).size ≠ 0 ∧
      (withCmd windowCmd).windowPages 0 0 256 = true ∧ SMap.find ((withCmd windowCmd).func 0).quotas 4 = none) ∧
    (withCmd (sent 0x50 0 0x300 7 0)).running r0 0x50 = some (sent 0x50 0 0x300 7 0) ∧
    (withCmd (sent 0x53 0 0 0 0)).running r0 0x53 = some (sent 0x53 0 0 0 0) ∧
    ((withCmd (sent 0x70 0 0 0 0)).running r0 0x70 = some (sent 0x70 0 0 0 0) ∧ (sent 0x70 0 0 0 0).arg % 2 = 0) ∧
    ((withCmd (sent 0x70 1 0 0 0)).running r0 0x70 = some (sent 0x70 1 0 0 0) ∧ (sent 0x70 1 0 0 0).arg % 2 = 1 ∧
      (withCmd (sent 0x70 1 0 0 0)).plainPages 0 ((sent 0x70 1 0 0 0).param 0) (64 + 32 * 2 ^ 8) = true ∧
      ((withCmd (sent 0x70 1 0 0 0)).die 0).traces = []) ∧
    ((withCmd (sent 0x71 1 4096 1 0)).running r0 0x71 = some (sent 0x71 1 4096 1 0) ∧
      (withCmd (sent 0x71 1 4096 1 0)).plainPages 0 4096 ((withCmd (sent 0x71 1 4096 1 0)).snapshotBytes (sent 0x71 1 4096 1 0) 0).length
        = true ∧
      ((withCmd (sent 0x71 1 4096 1 0)).writeTrusted 0 4096
        ((withCmd (sent 0x71 1 4096 1 0)).snapshotBytes (sent 0x71 1 4096 1 0) 0)).isSome = true) := by decide +kernel

/-- HINT_MIGRATE of the host page at virtual address 0 to frame 5. -/
def migrateCmd (moved : Nat) : Cmd := { sent 0x60 0 0 (5 * 2 ^ 25) 0 with moved := moved }

/-- The page is host memory at address 0, its entry is in the die TLB, and the die holds its first line, of zeros. -/
def sMigrate (moved : Nat) : State :=
  { sPage 0x4B (migrateCmd moved) with
    dies := [(0, { tlb := [{ fn := 0, page := 0, big := false, entry := 0x4B }]
                   cached := [{ cmd := some r0, line := .host 0 0, data := (List.range 256).map (fun i => (i, 0)), way := some 0 }] })] }

/-- What the statement asks once the page's entry is at hand, as a Boolean. -/
def migrates (k : Nat) : Bool :=
  let s := sMigrate k
  let ag := s.migrateAgent r0 (migrateCmd k)
  match s.dieEntry ag 0 with
  | .ok (big, e) u =>
    !big && e == 0x4B && u.entryOk 0 (5 * 2 ^ 25 + 0x0B) false && !((leafFrames false (5 * 2 ^ 25 + 0x0B)).any u.frameMapped)
      && u.coresOf 0 == [] && !(u.rangeBusy 0 0 (2 ^ 25)) && u.entryAddr 0 0 false == some 256 &&
      (match u.readLoc ag 0 ((pteLoc 0x4B false 0 (u.funcLink 0)).add 0) 256 with
      | .ok bs s1 => bs == List.replicate 256 0 && (s1.stackWrite (5 * 2 ^ 25) 256 0 0).isSome
      | _ => false)
  | _ => false

theorem hyp_MigrationCompletes :
    (∀ k ∈ [0, 131072], (sMigrate k).running r0 0x60 = some (migrateCmd k) ∧ migrates k = true ∧
      (migrateCmd k).param 1 = 5 * 2 ^ 25 ∧ Memory.wf (sMigrate k).mem = true) ∧ pteKind 0x4B = 1 := by
  decide +kernel

/-- Command 2 of queue 1 cancels command 1 of queue 0. -/
def cancelCmd : Cmd := { sent 0x52 0 0 1 0 with ref := { queue := 1, seq := 2 } }

/-- A started LAUNCH of context 0. -/
def launched : Cmd := { cmdOf 1 launchImage with ctxs := [c0] }

/-- The two in flight. -/
def sCancel (c : Cmd) (x : Ctx) : State := { withCtx { x with mode := .running } with cmds := [c, cancelCmd] }

theorem hyp_ReclaimAndCancelComplete :
    ((withCmd (sent 0x51 0x700 1 1 0)).running r0 0x51 = some (sent 0x51 0x700 1 1 0) ∧
      (∀ e ∈ (withCmd (sent 0x51 0x700 1 1 0)).cmds, e.ref = r0) ∧ (sent 0x51 0x700 1 1 0).moved = 0 ∧
      { sent 0x51 0x700 1 1 0 with moved := 1 }.moved ≠ 0 ∧
      Nat.testBit (sent 0x51 0x700 1 1 0).arg 8 = true ∧ Nat.testBit (sent 0x51 0x700 1 1 0).arg 10 = true) ∧
    ((sCancel (waiting (sent 0x53 0 0 0 0)) {}).running cancelCmd.ref 0x52 = some cancelCmd ∧
      (withCmd cancelCmd).cmd r0 = none ∧ (sCancel (waiting (sent 0x53 0 0 0 0)) {}).cmd r0 = some (waiting (sent 0x53 0 0 0 0)) ∧
      (sCancel (waiting (sent 0x53 0 0 0 0)) {}).ligOf r0 [] = [] ∧ r0 ≠ cancelCmd.ref) ∧
    ((sCancel launched {}).cmd r0 = some launched ∧ launched.phase = .started ∧ ((sCancel launched {}).ctxOf c0).mode = .running ∧
      ((sCancel launched {}).die 0).cgrace ≠ 0) ∧
    ((sCancel { launched with grace := true } { vq := [{}] }).running r0 1 = some { launched with grace := true } ∧
      ((sCancel { launched with grace := true } { vq := [{}] }).ctxOf c0).vq ≠ []) := by decide +kernel

/-- Function 0 exists, on link 0 that is up. -/
def sHost (mgmt : Option Nat) : State := { s0 with links := [(0, { up := true })], mgmt := mgmt }

theorem hyp_ManagingRegistersComplete :
    CoreExists k0 ∧ ((sHost none).funcExists 0 = true ∧ ((sHost none).queue 5).owner = 0 ∧ ((sHost none).queue 5).en = false ∧
      (sHost none).isMgmt 0 = false ∧ (0x8000000000000000#64).getLsbD 63 = true ∧ SMap.find ((sHost none).func 0).quotas 0 = none) ∧
    ((sHost none).queue 5).owner ≠ 1 ∧
    (({ State.reset with mgmt := some 0 } : State).coreBusy k0.key = false ∧
      (({ State.reset with mgmt := some 0 } : State).core k0.key).owned = false ∧ (0x80#32).getLsbD 7 = true) ∧
    (sHost (some 0)).isMgmt 0 = true ∧ (sHost (some 0)).mod.locked = false ∧
    ({ s0.mod with locked := true } : Module).locked = true := by
  unfold CoreExists; decide +kernel

/-- Function 1 asks for frame 5 of die 0, which is in the given use. -/
def sFrame (use : SMap FrameUse) : State := { State.reset with funcs := [(1, { frFrame := 5 })], frames := use }

theorem hyp_FrameCommandsComplete :
    ((sFrame []).isMgmt 1 = false ∧ ((sFrame []).func 1).frAny = false ∧ ((sFrame []).func 1).frFrame < 384 ∧
      (sFrame []).frameFree (frameKey ((sFrame []).func 1).frDie 5) = true ∧ SMap.find ((sFrame []).func 1).quotas 3 = none) ∧
    (sFrame [(5, .zeroing)]).frameFree (frameKey 0 5) = false ∧
    (SMap.find (sFrame [(5, .held 1)]).frames (frameKey 0 5) = some (.held 1) ∧
      (sFrame [(5, .held 1)]).frameMapped (frameKey 0 5) = false ∧ ∀ p ∈ (sFrame [(5, .held 1)]).queues, p.2.en = false) ∧
    SMap.find (sFrame [(5, .zeroing)]).frames (frameKey 0 5) = some .zeroing ∧ Memory.wf (sFrame [(5, .zeroing)]).mem = true := by
  decide +kernel

theorem hyp_ResetCommandsComplete :
    (({ s0.mod with pgIn := false } : Module).vinOk = true ∧ ({ s0.mod with pgIn := false } : Module).pgIn = false) ∧
    (sHost (some 0)).isMgmt 0 = true ∧ (sHost (some 0)).diesRun = true ∧ (sHost none).isMgmt 0 = false ∧
    (s0.mod.full = false ∧ ({ s0.mod with full := true } : Module).full = true) ∧
    (State.reset.mod.stage = .power ∧ State.reset.mod.powerOn = true) := by decide +kernel

/-- Every die is released but die 31. -/
def sReleased : State :=
  { State.reset with
    dies := (List.range 31).map (fun i => (i, { released := true }))
    mod := { State.reset.mod with portDies := [(0, true), (1, true), (2, true), (3, true)] } }

/-- A firmware slot with firmware of one byte each, signed with the private key 0x1234567 (computed outside the model, by the
formulas of FIPS 180 and FIPS 186). -/
def signedSlot : ImageSlot :=
  { keyX := 0x7AE9E1DB1160794C70C1EF071BE5191F6C66240F4608FBE8A44ECD36C3ED5DB97500F2E4D84E3FB45850FD6F4303302B
    keyY := 0xD8AC21444CD80D241538D8034B399A0DEE3636EB5CB00B9499D061A571DB0F14BB47ED79453948ED63F3A6CCBBF6E74F
    sigR := 0xCE818753960C6C09910AB6F007EC1B79176CBA552F407CFA943772F9D3C30F86BB8A76AED636F3DA58E11DEE1AE1E61
    sigS := 0xBEA3FB00842E0E3A1AD7E01483A3BD6B17813DD2B9B1FEAEE33F2A43F200D871DE64CFB26B1E16187068FC9A167AD154
    digest := 0x86229DC6D2FFBEAC7380744154AA700291C064352A0DBDC77B9ED3F2C8E1DAC4DC325867D39DDFF1D2629B7A393D47F6
    version := 1, mmc := [1], computeDie := [2], portDie := [3] }

/-- The fuses that name that key, and a minimum version. -/
def fused (minVersion : Nat) : Module :=
  { s0.mod with
    fuseKey := 0x4938B309EFCA0E50CAB9F949AB849D045C5A676AC0163690AB822A7A4E19D90650792C29353C5BF4461F331495630270
    fuseVersion := minVersion, slotA := signedSlot, slotB := signedSlot }

theorem test_slot_is_accepted : (fused 1).slotAccepted signedSlot = true := by decide +kernel

theorem hyp_StartupStagesComplete :
    (fused 1).slotAccepted signedSlot = true ∧ (fused 2).slotAccepted signedSlot = false ∧
    (fused 1).slotAccepted { signedSlot with digest := 0 } = false ∧ sReleased.mod.stage = .power ∧
    sReleased.mod.powerOn = true ∧
    (sReleased.updDie 30 (fun d => { d with released := true })).allReleased = false ∧
    (sReleased.updDie 31 (fun d => { d with released := true })).allReleased = true ∧
    (∀ g ∈ [Stage.firmware, .die, .links, .discovery], ({ s0.mod with stage := g } : Module).stage = g) ∧
    s0.mod.failed = false ∧ ({ s0.mod with failed := true } : Module).failed = true ∧
    (∀ p, p < 32 → (s0.port p).state ≠ .up) :=
  ⟨test_slot_is_accepted, by decide +kernel, by decide +kernel, by decide, by decide, by decide +kernel, by decide +kernel,
   by decide, by decide, by decide, by decide⟩

/-- The fabric's state of a module with a number, in service; port 0 is UP. -/
def sFab (f : Fabric) : State :=
  { s0 with mgmt := some 0, fab := f, mod := { s0.mod with placeValid := true } }

/-- A message of another module that has been delivered. -/
def arrived (h : MsgHdr) (bs : List Byte) : List Delivered := [{ cls := 0, flits := msgFlits { h with paylen := bs.length } bs }]

theorem hyp_FabricMapCompletes_discovery (n : Word) (hn : n ≠ Config.serial) :
    (((sFab { ports := [(0, { state := .up })] }).port 0).state = .up ∧ (sFab {}).mod.failed = false ∧ n ≠ Config.serial ∧
      (sFab {}).fab.discs = []) :=
  ⟨by decide, by decide, hn, by decide⟩

theorem another_serial : ∃ n : Word, n ≠ Config.serial :=
  ⟨Config.serial + 1, fun h => by have := congrArg BitVec.toNat h; simp at this; omega⟩

/-- One discovery message to be forwarded. -/
def oneFwd : DiscFwd := { serial := 7, port := 0, hops := [(0, 1)] }

theorem hyp_FabricMapCompletes :
    ((sFab { ports := [(0, { state := .up })], discFwd := [oneFwd] }).fab.discFwd = [oneFwd] ∧ oneFwd.serial = (7#64).toNat ∧
      ∀ p, p < 32 → ((sFab { ports := [(0, { state := .up })], discFwd := [oneFwd] }).port p).state = .up → p = 0) ∧
    ((sFab {}).isMgmt 0 = true ∧ (sFab {}).fab.fmBusy = false) ∧
    (∀ op, op < 3 → (BitVec.ofNat 64 (1 + op * 2 ^ 57)).getLsbD 0 = true ∧ fld (BitVec.ofNat 64 (1 + op * 2 ^ 57)) 57 2 = op ∧
      fld (BitVec.ofNat 64 (1 + op * 2 ^ 57)) 55 2 = 0 ∧ fld (BitVec.ofNat 64 (1 + op * 2 ^ 57)) 5 10 = 0 ∧
      fld (BitVec.ofNat 64 (33 + op * 2 ^ 57)) 5 10 = 1 ∧ fld (BitVec.ofNat 64 (1 + op * 2 ^ 57 + 2 ^ 55)) 55 2 ≠ 0) ∧
    ((sFab {}).mod.placeValid = true ∧ (sFab {}).mod.place = (sFab { fmArg := 0 }).fab.fmArg % 1024 ∧
      (sFab {}).mod.place ≠ (sFab { fmArg := 3 }).fab.fmArg % 1024) ∧
    ((sFab { fmArg := 0x10000 }).fab.fmArg % 8 = 0 ∧ 0x10000 ≤ (sFab { fmArg := 0x10000 }).fab.fmArg ∧
      (sFab { fmArg := 0x11FF8 }).fab.fmArg < 0x12000 ∧ (sFab { fmArg := 0x3FFF8 }).fab.fmArg + 8 * 1 ≤ 0x40000) ∧
    ((sFab { fmBusy := true, inbox := arrived { kind := 6 } (List.replicate 16 0) }).fab.fmBusy = true ∧
      ((sFab { fmBusy := true, inbox := arrived { kind := 6 } (List.replicate 16 0) }).takeMsg (fun h => h.kind == 6)).isSome = true) := by
  decide +kernel

/-- Link 0 as given. -/
def sLink (l : HostLink) : State := { State.reset with links := [(0, l)], mod := { State.reset.mod with stage := .links } }

theorem hyp_HostLinksComplete :
    (((sLink {}).link 0).perst = true ∧ ((sLink { perst := false }).link 0).perst = false ∧
      ((sLink {}).link 0).up = false) ∧
    ((sLink { training := true }).linksOpen = true ∧ ({ training := true } : HostLink).training = true ∧
      ({ training := true } : HostLink).up = false ∧ modeLegal {} false = true ∧
      modeLegal { rate := 128, width := 8, flit := true, maxPayload := 512, maxRead := 4096 } true = true) ∧
    ((sLink { up := true }).link 0 = { up := true } ∧ State.reset.cmds = [] ∧
      State.reset.frames = [] ∧ (State.reset.func 0).tbValid = false) ∧
    ({ State.reset with links := [(0, { up := true, numVfs := 1, vfFirst := 4 })] } : State).funcExists 4 = true ∧
    (sHost none).funcExists 0 = true := by decide +kernel

/-- Link 0 with a read of queue 0's scribe outstanding. -/
def sRead : State :=
  { withRing 0x52 with links := [(0, { up := true, reads := [{ reader := .scribe 0, cmd := none, addr := 0, bytes := 64 }] })] }

theorem hyp_HostAccessesComplete : (List.replicate 64 (0 : Byte)).length = 64 ∧
    ((sRead.link 0).reads = [{ reader := .scribe 0, cmd := none, addr := (0#64).toNat, bytes := 64 }] ∧
      ((withRing 0x52).link 0).reads = []) ∧
    (((withRing 0x52).queue 0).en = true ∧ ((withRing 0x52).func ((withRing 0x52).queue 0).owner).ferr = false) ∧
    ((sHost (some 0)).bar4Served 0 0 4 = true ∧ (sHost (some 0)).poisonedIn 0 4 = none ∧
      (sHost (some 0)).bar4Served 0 (383 * 2 ^ 25 + 2 ^ 25 - 4) 4 = true) ∧
    ((sHost none).bar4Served 0 0 4 = false ∧ (sHost (some 0)).bar4Served 0 (384 * 2 ^ 25) 4 = false) ∧ Memory.wf s0.mem = true ∧
    (({ sHost (some 0) with poison := [0] } : State).poisonedIn 0 4).isSome = true ∧
    (({ sHost none with funcs := [(0, { msixPend := [3] })] } : State).funcExists 0 = true ∧
      (({ sHost none with funcs := [(0, { msixPend := [3] })] } : State).func 0).msixPend = [(3#11).toNat]) := by
  decide +kernel

/-- An operation of a group at rank 0, on die 0, of command 1 of queue 0. -/
def opOf (phase : LigPhase) : LigOp :=
  { group := 0, die := 0, opseq := 1, rank := 0, owner := .cmd r0, tenant := 0, image := barrierImage, sendCore := 0, recvCore := 0
    phase := phase }

/-- Its command. -/
def barrierCmd : Cmd := sent 0x35 0 0 0 0

/-- Group 0 of two ranks, this module's die 0 and module 1's die 0, with an operation and delivered messages. Window 0 opens
the first 4 KiB of function 0 to every module. -/
def sGroup (g : Group) (ops : List LigOp) (box : List Delivered) : State :=
  { withCmd barrierCmd with
    groups := [(0, { g with valid := true, setst := 2, nm1 := 1, members := 1, ranks := [(0, 0), (1, 0)], gid := 9 })]
    ligOps := ops, mgmt := some 0, mod := { s0.mod with placeValid := true }
    windows := [(0, { valid := true, size := 16, srcGrp := 255, rd := true, wr := true, red := true })]
    fab := { inbox := box, routes := [(1, { pv := true, phops := 1, pport := 0 })] } }

/-- A group that is being loaded for a tenant: one rank. -/
def sLoading (tenant : Nat) : State := { s0 with groups := [(0, { valid := true, setst := 1, tenant := tenant })] }

/-- What `OnlyOp` asks, for group 0 and die 0. -/
theorem onlyOp_of (g : Group) (o : LigOp) (h : o.group = 0 ∧ o.die = 0 ∧ o.owner = .cmd r0) :
    OnlyOp (sGroup g [o] []) 0 0 o r0 barrierCmd := ⟨rfl, h.1, h.2.1, h.2.2, by rfl, by decide, by rfl⟩

/-- Group 0 owes no control message, and neither does any other. -/
theorem noneOwed_of (ops : List LigOp) (k : Nat) : ((sGroup {} ops []).group k).owed = [] := by
  by_cases hk : 0 = k
  · subst hk; rfl
  · have : (sGroup {} ops []).group k = {} := by simp [sGroup, State.group, SMap.get, SMap.find, hk]
    rw [this]

theorem hyp_GroupCommandsComplete :
    ((sGroup {} [] []).isMgmt 0 = true ∧ (∀ x ∈ (sGroup {} [] []).ligOps, x.group ≠ 0) ∧ (1#256 <<< 255).getLsbD 255 = true ∧
      (sGroup {} [] []).isMgmt 1 = false) ∧
    (((sLoading 0).group 0).setst = 1 ∧ ((sLoading 0).rankTable ((sLoading 0).group 0)).map (fun p => p.1) = some [0, 0] ∧
      (∀ e ∈ elemsFrom 2 1 [0, 0], e < 2 ^ 15) ∧ (elemsFrom 2 1 [0, 0]).Nodup ∧ ¬ (elemsFrom 2 2 [0, 0, 0, 0]).Nodup ∧
      (∀ p ∈ (sLoading 0).groups, p.1 ≠ 0 → p.2.setst = 2 → p.2.gid ≠ 0)) ∧
    (sLoading 1).rankTable ((sLoading 1).group 0) = none ∧
    (OnlyOp (sGroup {} [{ opOf .data with stalled := true }] []) 0 0 { opOf .data with stalled := true } r0 barrierCmd ∧
      { opOf .data with stalled := true }.phase ≠ .queued) ∧
    ((sGroup {} [opOf .data] []).throttled = false ∧ (∀ x ∈ (sGroup {} [opOf .data] []).ligOps, x.stalled = false) ∧
      ∀ k, ((sGroup {} [opOf .data] []).group k).owed = []) ∧
    (OnlyOp (sGroup {} [opOf .data] []) 0 0 (opOf .data) r0 barrierCmd ∧ (opOf .data).phase ≠ .queued ∧
      ((sGroup {} [opOf .data] []).group 0).paused = false ∧ ((sGroup {} [opOf .data] []).group 0).tmo ≠ 0) ∧
    ((sGroup { paused := true } [] []).group 0).paused = true :=
  ⟨by decide +kernel, by decide +kernel, by decide +kernel, ⟨onlyOp_of _ _ (by decide), by decide⟩,
   ⟨by decide +kernel, by decide +kernel, noneOwed_of _⟩,
   ⟨onlyOp_of _ _ (by decide), by decide, by decide, by decide⟩, by decide⟩

/-- A ligature message of the group's other rank. -/
def ligBox (ltype : Nat) (bs : List Byte) : List Delivered :=
  arrived { src := 1, kind := 3, kspec := 9 + ltype * 2 ^ 16 + 2 ^ 32 } bs

/-- The operation, one step on, with a summary of digests. -/
def digested (k : DigestSum) : LigOp := { opOf .digest with step := 1, known := k }

/-- Group 0 of four ranks, all on this module, with an operation and a held summary of rank 1. -/
def sHere (o : LigOp) : State :=
  { sGroup {} [o] [] with
    groups := [(0, { valid := true, setst := 2, nm1 := 3, members := 15, ranks := [(0, 0), (0, 1), (0, 2), (0, 3)], gid := 9 })]
    ligMsgs := [{ group := 0, die := 0, opseq := 1, step := 0, digest := true, src := 1, pos := 0, rel := true, dig := none
                  data := (DigestSum.one 5).bytes }] }

theorem onlyHere_of (o : LigOp) (h : o.group = 0 ∧ o.die = 0 ∧ o.owner = .cmd r0) : OnlyOp (sHere o) 0 0 o r0 barrierCmd :=
  ⟨rfl, h.1, h.2.1, h.2.2, by rfl, by decide, by rfl⟩

/-- Two blocks, whose digests are all 5, or 5 and 6. -/
theorem hyp_CollectiveStepsComplete_join : (DigestSum.one 5).count = 0 ∧ (DigestSum.one 6).count = 0 ∧
    (DigestSum.one 6).ref ≠ (DigestSum.one 5).ref := by decide

theorem hyp_CollectiveStepsComplete :
    (OnlyOp (sHere (opOf .queued)) 0 0 (opOf .queued) r0 barrierCmd ∧ barrierCmd.isStarted = true ∧
      ((sHere (opOf .queued)).group 0).trusted = false ∧ (waiting barrierCmd).isStarted = false ∧
      (∀ k, k < 4 → (((sHere (opOf .queued)).group 0).ranks.getD k (0, 0)).1 = (sHere (opOf .queued)).moduleNo) ∧
      ((sHere (opOf .queued)).group 0).owed = [] ∧ doubling 4 0 0 1 ≠ none) ∧
    (OnlyOp (sHere (opOf .digest)) 0 0 (opOf .digest) r0 barrierCmd ∧ (sHere (opOf .digest)).ligSources (opOf .digest) = [1] ∧
      (sHere (opOf .digest)).ligFrom (opOf .digest) 1 ≠ [] ∧ (opOf .digest).step + 1 < ceilLog2 4) ∧
    (OnlyOp (sHere (digested { ref := 5 })) 0 0 (digested { ref := 5 }) r0 barrierCmd ∧
      ceilLog2 4 ≤ ({ digested { ref := 5 } with step := 2 } : LigOp).step ∧ (digested { ref := 5 }).coll.op = 0x35 ∧
      (digested { ref := 5 }).coll.count = 0 ∧ isInk (digested { ref := 5 }).coll.recv = false ∧ (digested { ref := 5 }).out = []) ∧
    (OnlyOp (sGroup {} [digested { ref := 5, low := 1, digx := 6, count := 1 }] []) 0 0
        (digested { ref := 5, low := 1, digx := 6, count := 1 }) r0 barrierCmd ∧
      ceilLog2 2 ≤ (digested { ref := 5, low := 1, digx := 6, count := 1 }).step) ∧
    (OnlyOp (sGroup {} [{ opOf .data with step := 1, loaded := true, written := 1 }] []) 0 0 { opOf .data with step := 1, loaded := true, written := 1 } r0
      barrierCmd ∧ (sGroup {} [{ opOf .data with step := 1, loaded := true, written := 1 }] []).fab.unacked = [] ∧
      ({ opOf .data with step := 1, written := 1 } : LigOp).segsDone 2 ≤ 1 ∧
      ({ opOf .data with step := 1, written := 1 } : LigOp).coll.allSteps 2 ≤ 1) ∧
    (((sGroup {} [] (ligBox 0 [1, 2, 3, 4])).takeLig 0).isSome = true ∧
      (((sGroup {} [] (ligBox 0 [1, 2, 3, 4])).takeLig 0).map (fun p => p.2.1)) = some 0 ∧
      (((sGroup {} [] (ligBox 0 [1, 2, 3, 4])).takeLig 0).map (fun p => ((sGroup {} [] []).group 0).rankFrom (msgHdr p.1))) = some (some 1) ∧
      (sGroup {} [] []).localRanks ((sGroup {} [] []).group 0) = [(0, 0)] ∧
      (((sGroup {} [] []).group 0).futureOp 0 1).isSome = true ∧
      ({ ((sGroup {} [] []).group 0) with launched := [(0, 1)] } : Group).futureOp 0 1 = none ∧
      ((sGroup {} [] []).window 0).check 0 0 4 true true false = none ∧
      ((sGroup {} [] []).window 1).check 0 0 4 true true false = some 0) ∧
    ((((sGroup {} [] (ligBox 1 [])).takeLig 1).map (fun p => p.2.1)) = some 0 ∧ doubling 2 0 1 0 = some (1, 1) ∧
      (sGroup {} [] []).ligMsgs = []) ∧
    ((((sGroup {} [] (ligBox 2 [])).takeLig 2).map (fun p => (p.2.1, (msgHdr p.1).lig.opseq))) = some (0, 1) ∧
      (opOf .data).opseq % 65536 = 1) ∧
    (((sGroup {} [] (ligBox 3 [])).takeLig 3).map (fun p => p.2.1)) = some 0 ∧
    (((sGroup {} [] (ligBox 4 [])).takeLig 4).map (fun p => p.2.1)) = some 0 :=
  ⟨⟨onlyHere_of _ (by decide), by decide, by decide, by decide, by decide, by decide, by decide⟩,
   ⟨onlyHere_of _ (by decide), by decide +kernel, by decide +kernel, by decide⟩,
   ⟨onlyHere_of _ (by decide), by decide, by decide +kernel, by decide +kernel, by decide +kernel, rfl⟩,
   ⟨onlyOp_of _ _ (by decide), by decide⟩, ⟨onlyOp_of _ _ (by decide), by decide, by decide +kernel, by decide +kernel⟩, by decide +kernel, by decide +kernel,
   by decide +kernel, by decide +kernel, by decide +kernel⟩

/-- Port 0 is as given. -/
def sPort (x : Port) : State := sFab { ports := [(0, x)] }

/-- No port queues a message, if port 0 does not. -/
theorem noQueues_of (x : Port) (h : x.txq = []) : ∀ q, ((sPort x).port q).txq = [] := by
  intro q
  by_cases hq : 0 = q
  · subst hq; exact h
  · have : (sPort x).port q = {} := by simp [sPort, sFab, State.port, SMap.get, SMap.find, hq]
    rw [this]

theorem hyp_PortStatesComplete :
    ((sPort {}).isMgmt 0 = true ∧ (sPort {}).isMgmt 1 = false ∧ ((sPort { state := .up }).port 0).state ≠ .disabled ∧
      ((sPort { en := false, state := .disabled }).port 0).en = false ∧ (sPort {}).mod.failed = false) ∧
    ((sPort {}).portsLit = true ∧ ((sPort {}).port 0).en = true ∧ ((sPort {}).port 0).state = .dark ∧ 6 ≤ waves (0x3F#8).toNat ∧
      waves (0x1F#8).toNat < 6 ∧ ((sPort { state := .training }).port 0).state = .training ∧
      ((sPort { en := false }).port 0).en = false ∧ ({ sPort {} with mod := State.reset.mod } : State).portsLit = false) ∧
    (∀ q, ((sPort {}).port q).txq = []) ∧ (∀ q, ((sPort { state := .retrain }).port q).txq = []) ∧
    (((sPort { state := .up, wantRetrain := true }).port 0).state = .up ∧ ((sPort { state := .up, wantRetrain := true }).port 0).wantRetrain = true) ∧
    (((sPort { state := .retrain, fails := 1 }).port 0).fails < 2 ∧ 2 ≤ ((sPort { state := .retrain, fails := 2 }).port 0).fails ∧
      ({ sPort { state := .retrain, fails := 2 } with mgmt := none } : State).mgmt = none) ∧
    (Nat.testBit ((sPort { state := .up, wmask := 0xFF }).port 0).wmask 7 = true ∧
      ¬ (max 1 (sPort {}).fab.corTh * 1024 ≤ (65535#32).toNat ∨ max 1 (sPort {}).fab.uncTh ≤ (15#32).toNat) ∧
      max 1 (sPort {}).fab.corTh * 1024 ≤ (65536#32).toNat ∧ max 1 (sPort {}).fab.uncTh ≤ (16#32).toNat ∧
      6 < waves ((sPort { state := .up, wmask := 0x7F }).port 0).wmask ∧ waves ((sPort { state := .up, wmask := 0x3F }).port 0).wmask ≤ 6) ∧
    ((((sPort { state := .up, rx := [(5, [{ first := 0, flits := [0] }])] }).port 0).partialOf 5).isSome = true ∧
      ((sPort {}).port 0).partialOf 5 = none) :=
  ⟨by decide, by decide, noQueues_of _ rfl, noQueues_of _ rfl, by decide, by decide, by decide, by decide⟩

theorem hyp_LinkControlComplete : ((sPort { state := .up }).port 0).state = .up ∧ ((sPort {}).port 0).state ≠ .up ∧
    (((sPort { state := .up, rx := [(5, [{ first := 0, flits := [0] }])] }).port 0).partialOf 5).isSome = true ∧
    ((sPort {}).port 0).partialOf 5 = none := by decide

/-! A flit whose CRC holds, and one whose CRC does not (R281). -/

theorem leBytes_congr (n : Nat) : ∀ v w : Nat, v % 256 ^ n = w % 256 ^ n → leBytes n v = leBytes n w := by
  induction n with
  | zero => intros; rfl
  | succ n ih =>
    intro v w h
    rw [Nat.pow_succ, Nat.mul_comm, Nat.mod_mul, Nat.mod_mul] at h
    have h1 : v % 256 = w % 256 := by omega
    have h2 : v / 256 % 256 ^ n = w / 256 % 256 ^ n := by omega
    rw [leBytes, leBytes, ih _ _ h2]
    congr 1
    apply BitVec.eq_of_toNat_eq
    simpa [BitVec.toNat_ofNat] using h1

theorem ins_below {n : Nat} (v : BitVec n) (lo len val i : Nat) (h : i < lo) :
    (ins v lo len val).getLsbD i = v.getLsbD i := by
  by_cases hn : i < n
  · simp only [ins, BitVec.getLsbD_or, BitVec.getLsbD_and, BitVec.getLsbD_not, BitVec.getLsbD_shiftLeft, hn, h, decide_true,
      Bool.not_true, Bool.and_false, Bool.false_and, Bool.not_false, Bool.and_true, Bool.or_false]
  · rw [BitVec.getLsbD_of_ge _ _ (by omega), BitVec.getLsbD_of_ge _ _ (by omega)]

theorem ins_within {n : Nat} (v : BitVec n) (lo len val i : Nat) (h : lo + len ≤ n) (hi : i < len) :
    (ins v lo len val).getLsbD (lo + i) = val.testBit i := by
  have h1 : lo + i < n := by omega
  have h2 : i < n := by omega
  have h3 : ¬ (lo + i < lo) := by omega
  simp only [ins, BitVec.getLsbD_or, BitVec.getLsbD_and, BitVec.getLsbD_not, BitVec.getLsbD_shiftLeft, h1, h3, decide_true,
    decide_false, Bool.not_false, Bool.true_and, Nat.add_sub_cancel_left, BitVec.getLsbD_ofNat, h2, Nat.testBit_two_pow_sub_one,
    Nat.testBit_mod_two_pow, hi, Bool.not_true, Bool.and_false, Bool.false_or]

theorem flitCrc_ins (f : BitVec 2048) (n : Nat) : flitCrc (ins f 1984 64 n) = flitCrc f := by
  unfold flitCrc
  congr 1
  apply leBytes_congr
  have h : (ins f 1984 64 n).setWidth 1984 = f.setWidth 1984 := by
    apply BitVec.eq_of_getLsbD_eq
    intro i hi
    rw [BitVec.getLsbD_setWidth, BitVec.getLsbD_setWidth, ins_below _ _ _ _ _ hi]
  have h2 := congrArg BitVec.toNat h
  rw [BitVec.toNat_setWidth, BitVec.toNat_setWidth] at h2
  have e : 256 ^ 248 = 2 ^ 1984 := by decide +kernel
  rw [e]
  exact h2

theorem flitCrcOk_ins (f : BitVec 2048) (n : Nat) : flitCrcOk (ins f 1984 64 n) = (BitVec.ofNat 64 n == flitCrc f) := by
  have h : (ins f 1984 64 n).extractLsb' 1984 64 = BitVec.ofNat 64 n := by
    apply BitVec.eq_of_getLsbD_eq
    intro i hi
    rw [BitVec.getLsbD_extractLsb', ins_within _ _ _ _ _ (by decide) hi, BitVec.getLsbD_ofNat]
  rw [flitCrcOk, flitCrc_ins, h]

theorem seal_crc (p : Port) (f : BitVec 2048) : flitCrcOk (p.seal f) = true := by
  unfold Port.seal
  rw [flitCrcOk_ins]
  simp

theorem wrong_crc (f : BitVec 2048) : flitCrcOk (ins f 1984 64 ((flitCrc f).toNat + 1)) = false := by
  rw [flitCrcOk_ins]
  simp [BitVec.ofNat_add]

theorem fld_ins {n : Nat} (v : BitVec n) (lo len val a b : Nat) (h : a + b ≤ lo) : fld (ins v lo len val) a b = fld v a b := by
  apply Nat.eq_of_testBit_eq
  intro i
  rw [fld, fld, Nat.testBit_mod_two_pow, Nat.testBit_mod_two_pow, Nat.testBit_shiftRight, Nat.testBit_shiftRight]
  by_cases hi : i < b
  · have h1 := ins_below v lo len val (a + i) (by omega)
    simp only [BitVec.getLsbD] at h1
    rw [h1]
  · simp [hi]

/-- An acknowledgement from module 1 to this module, at its last hop, and the flit that carries it in class 7. -/
def oneMsg : List (BitVec 1920) := msgFlits { src := 1, kind := 4, hops := 1, hopptr := 1 } []
def bareOne : BitVec 2048 := bareFlit 4 60 0 (oneMsg.headD 0)
def oneFlit : BitVec 2048 := ins bareOne 1984 64 (flitCrc bareOne).toNat

theorem oneFlit_parts : flitCrcOk oneFlit = true ∧ flitType oneFlit = 4 ∧ fld oneFlit 34 30 = 0 ∧ flitFseq oneFlit = 0 ∧
    flitLane oneFlit = 60 ∧ flitPayload oneFlit = oneMsg.headD 0 ∧ headerOk oneFlit = true := by
  have hp : flitPayload oneFlit = flitPayload bareOne := by
    apply BitVec.eq_of_getLsbD_eq
    intro i hi
    rw [flitPayload, flitPayload, BitVec.getLsbD_extractLsb', BitVec.getLsbD_extractLsb']
    simp only [hi, decide_true, Bool.true_and]
    exact ins_below _ _ _ _ _ (by omega)
  refine ⟨by rw [oneFlit, flitCrcOk_ins]; simp, ?_, ?_, ?_, ?_, hp.trans (by decide +kernel), ?_⟩
  · rw [flitType, oneFlit, fld_ins _ _ _ _ _ _ (by decide)]; decide +kernel
  · rw [oneFlit, fld_ins _ _ _ _ _ _ (by decide)]; decide +kernel
  · rw [flitFseq, oneFlit, fld_ins _ _ _ _ _ _ (by decide)]; decide +kernel
  · rw [flitLane, oneFlit, fld_ins _ _ _ _ _ _ (by decide), fld_ins _ _ _ _ _ _ (by decide), ins_below _ _ _ _ _ (by decide)]
    decide +kernel
  · simp only [headerOk, hp]
    rw [oneFlit, fld_ins _ _ _ _ _ _ (by decide), fld_ins _ _ _ _ _ _ (by decide), ins_below _ _ _ _ _ (by decide)]
    decide +kernel

/-- A message on its way from port 0 to port 1. -/
def onward : RxMsg := { first := 0, flits := msgFlits { dest := 2, src := 1, kind := 4, hops := 2, hopptr := 1, ports := 32 } [], whole := true }

/-- A message of this module that waits in a port's queue. -/
def queued : TxItem := { flits := oneMsg, total := 1, lane := 0, committed := true, source := none }

theorem hyp_LinkFlitsComplete :
    (∀ f, Ctl.hold 3 ≠ Ctl.credit f) ∧
    ((sPort { state := .up }).port 0).retry.length < 2048 ∧ oneMsg.length = 1 ∧ queued.flits = oneMsg ∧
    ((sPort { state := .up, txq := [queued] }).port 0).creditOk queued.lane 1 = true ∧
    ((sPort { state := .up, resend := [(3, 0)] }).port 0).resend = [(3, 0)] ∧
    (((sPort { state := .up }).port 0).rxRoom 60 = true ∧
      (msgHdr [oneMsg.headD 0]).len = 0 ∧ (sPort {}).routeBad (oneMsg.headD 0) = false ∧
      (msgHdr [oneMsg.headD 0]).lastHop = true ∧ (msgHdr [oneMsg.headD 0]).kind = 4) ∧
    ((msgHdr onward.flits).lastHop = false ∧ portOfHop (msgHdr onward.flits).ports (msgHdr onward.flits).hopptr = 1 ∧
      ((sFab { ports := [(0, { state := .up, rx := [(0, [onward])] }), (1, { state := .up })] }).port 1).state = .up) ∧
    (((sFab { early := [{ cls := 0, flits := oneMsg }] }).fab.early.find? (fun k => (msgHdr k.flits).src == (1#10).toNat &&
        (msgHdr k.flits).queue == 0 && (msgHdr k.flits).mseq == (sFab {}).fab.expected 1 0)).isSome = true ∧
      (sFab { early := [{ cls := 0, flits := oneMsg }] }).waitingOf 1 0 = none) := by
  refine ⟨fun f h => Ctl.noConfusion h, ?_⟩
  decide +kernel

theorem hyp_LinkFlitsComplete_crc (f : BitVec 2048) : (∃ x : BitVec 2048, flitCrcOk x = false) ∧
    (flitCrcOk oneFlit = true ∧ flitType oneFlit = 4 ∧ fld oneFlit 34 30 = 0 ∧ flitFseq oneFlit = 0 ∧ flitLane oneFlit = 60 ∧
      flitPayload oneFlit = oneMsg.headD 0 ∧ headerOk oneFlit = true) := ⟨⟨_, wrong_crc f⟩, oneFlit_parts⟩

/-- A transfer of command 1 that waits for other modules, and its message that is not acknowledged. -/
def remoteXfer : Xfer := { op := .copy, desc := fillRow, feeds := [0] }
def sentCmd : Cmd := { sent 0x10 0 0 0 0 with xfer := some remoteXfer }
def awaited : Unacked := { queue := 0, dest := 1, mseq := 0, committed := true, cmd := some r0, engine := some (.feed (.cmd r0)), rank := none }

/-- Module 0 with window 0 open and a message of module 1 that has arrived. -/
def sMsg (h : MsgHdr) (bs : List Byte) : State :=
  { sGroup {} [] (arrived { h with src := 1 } bs) with
    cmds := [sentCmd]
    fab := { inbox := arrived { h with src := 1 } bs, routes := [(1, { pv := true, phops := 1, pport := 0 })], unacked := [awaited]
             reads := [{ tag := 5, engine := .feed (.cmd r0), cmd := some r0, die := 0, line := .remote 1 0 0, bytes := 4 }] } }

theorem hyp_MessagesComplete :
    (((sMsg {} [1, 2, 3, 4]).takeMsg (fun h => h.kind == 0)).isSome = true ∧
      (((sMsg {} [1, 2, 3, 4]).takeMsg (fun h => h.kind == 0)).map (fun p => msgPayload p.1)) = some [1, 2, 3, 4] ∧
      ((sMsg {} []).window 0).check 0 0 4 false true false = none ∧ ((sMsg {} []).window 1).check 0 0 4 false true false = some 0 ∧
      Memory.wf (sMsg {} []).mem = true) ∧
    (((sMsg { kind := 1 } (List.replicate 4 0)).takeDelivered (fun h => h.kind == 1)).isSome = true ∧
      ((sMsg {} []).window 0).check 0 0 4 true false false = none ∧ ((sMsg {} []).readTrusted 0 0 4).map (fun p => p.1) = some [0, 0, 0, 0] ∧
      ((sMsg {} []).routeTo 1 0).isSome = true) ∧
    (((sMsg { kind := 2, kspec := 5 } [1, 2, 3, 4]).takeMsg (fun h => h.kind == 2)).map (fun p =>
      ((msgHdr p.1).kspec % 65536, (msgHdr p.1).offset, msgPayload p.1)) = some (5, 0, [1, 2, 3, 4]) ∧
      ((sMsg {} []).fab.reads.find? (fun y => y.tag == 5)).isSome = true ∧ (sMsg {} []).fab.reads.find? (fun y => y.tag == 6) = none ∧
      ((sMsg {} []).cmd r0).isSome = true ∧ ((sMsg {} []).die 0).scopedLine (some r0) (.remote 1 0 0) = none) ∧
    (∀ bs ∈ [[], [(3 : Byte)], [BitVec.ofNat 8 refusalRevoked]], ((sMsg { kind := 4 } bs).takeMsg (fun h => h.kind == 4)).map (fun p =>
      ((p.2.takeUnacked (fun y => y.queue == 0 && y.dest == 1 && y.mseq == 0 && y.committed)).isSome, msgPayload p.1)) = some (true, bs)) ∧
    (∀ g ∈ (sMsg {} []).groups, g.2.owed = []) ∧
    (awaited.engine = some (.feed (.cmd r0)) ∧ (sMsg {} []).cmd r0 = some sentCmd ∧ (sMsg {} []).xfer (.cmd r0) = some remoteXfer ∧
      remoteXfer.isComplete = false) ∧
    (∀ n ∈ [1, 2], ((sMsg { kind := 5, kspec := n } []).takeMsg (fun h => h.kind == 5 && h.kspec % 256 == n)).map (fun p =>
      (p.2.takeUnacked (fun y => y.queue == 0 && y.mseq == 0 && y.committed)).isSome) = some true) ∧
    ((sMsg {} []).takeUnacked (fun y => y.queue == 0 && y.dest == 1 && y.mseq == 0)).isSome = true ∧
    (sMsg {} []).takeUnacked (fun y => y.queue == 0 && y.dest == 2 && y.mseq == 0) = none := by decide +kernel

theorem hyp_MessagesComplete_page : ∃ e big, (sMsg {} []).translate 0 0 .read = .at (.stack (2 ^ 30)) e big := ⟨_, _, by rfl⟩

/-- A command that is being replayed, without or with a map-out. -/
def replaying (w : Bool) : Cmd := { sent 0x60 0 0 0 0 with phase := .replay w }

theorem hyp_ReplayAndFailureComplete :
    (∀ w : Bool, (withCmd (replaying w)).cmd r0 = some (replaying w) ∧ (withCmd (replaying w)).settled (replaying w) w = true ∧
      (replaying w).opcode ≠ 1) ∧
    ({ withCmd (replaying true) with dies := [(0, { mapping := true })] } : State).settled (replaying true) true = false ∧
    (({ s0 with dies := [(0, { mapping := true, spareCore := 3 })] } : State).die 0).mapping = true ∧ (s0.die 0).mapping = false ∧
    (meshLink 0 8 = true ∧ meshLink 7 8 = false ∧ ringLink 3 0 = true ∧ ringLink 0 2 = false) ∧
    ((sHost none).link 0).up = true ∧ (s0.link 0).up = false ∧
    CoreExists k0 ∧ s0.mod.fwin ≠ 0 ∧ ({ s0.mod with fwin := 0 } : Module).fwin = 0 ∧ s0.diesRun = true ∧ s0.mod.failed = false ∧
    State.reset.diesRun = false ∧ ({ withCmd barrierCmd with cmds := [barrierCmd] } : State).cmd r0 = some barrierCmd := by
  unfold CoreExists; decide +kernel

/-- A request that the MMC works on. -/
def asked (op record : Nat) (bs : List Byte) : MmcReq := { path := .i3c, op := op, record := record, bytes := bs }

theorem hyp_ManagementControllerCompletes :
    (s0.mod.serves = true ∧ s0.mod.stage = .ready ∧ s0.mod.mmcStandby = true ∧ ({ s0.mod with mmcRun := false } : Module).serves = false ∧
      ({ s0.mod with mmcStandby := false } : Module).mmcStandby = false) ∧
    ((sHost (some 0)).isMgmt 0 = true ∧ (sHost (some 0)).mod.mbBusy = false ∧ (sHost none).isMgmt 0 = false) ∧
    ({ s0.mod with mmcQueue := [asked 1 8 (List.replicate 256 0)] } : Module).mmcQueue = [asked 1 8 (List.replicate 256 0)] ∧
    ((asked 0 3 []).path = .i3c ∧ (asked 0 3 []).op = 0 ∧ 8 ≤ (asked 1 8 (List.replicate 256 0)).record ∧
      (asked 1 8 (List.replicate 256 0)).bytes.length = 256 ∧ (asked 1 7 []).record < 8 ∧ (asked 2 0 []).op = 2 ∧
      (asked 5 0 [0, 16, 0, 8]).bytes.length = 4 ∧ (asked 5 0 [0, 16, 0, 8]).record = 0) ∧
    ({ s0.mod with mbBusy := true } : Module).mbBusy = true := by decide +kernel

theorem hyp_RegisterWritesComplete :
    ((sHost none).funcExists 0 = true ∧ (sHost none).funcExists 1 = false ∧ (sHost none).isMgmt 0 = false ∧
      (sHost (some 0)).isMgmt 0 = true) ∧
    ((4#7).toNat = 4 ∧ (8#7).toNat = 8 ∧ (2#7).toNat ≤ 8 ∧ (2#7).toNat ≠ 4 ∧ (2#28).toNat % 4 ≠ 0 ∧ (4#28).toNat % 8 ≠ 0) ∧
    ((0x28#28).toNat = 0x28 ∧ (0x2030FC#28).toNat = 0x203000 + 4 * (63#6).toNat ∧ (0x300000#28).toNat = 0x300000 ∧
      (0x041F1004#28).toNat = 0x04001004 + 0x10000 * (31#5).toNat ∧
      (0x08000400#28).toNat = 0x08000400 + 0x20000 * (k0.key / 20) + 0x1000 * (k0.key % 20) ∧
      (0x18FFF8#28).toNat = 0x110018 + 32 * (16383#14).toNat) ∧
    CoreExists k0 ∧ (sHost none).windowClosed (.cwin k0.key) = false ∧ (sHost none).ownsKey 0 k0.key = true ∧
    (sHost none).ownsKey 1 k0.key = false ∧ ((sHost none).queue 16383).owner = 0 := by
  unfold CoreExists; decide +kernel

end Sys2Proof.Tests
end

section
/-! SUPPORT. The state after a power-on reset: nothing is listed in any sparse map, so that each core, die, function, queue,
group and port is the one whose fields all hold their reset values. -/

namespace Sys2Proof.Machine

@[simp] theorem State.reset_read (a : Nat) : Memory.read State.reset.mem a = 0 := SMap.get_nil ..

@[simp] theorem State.reset_core (k : Nat) : State.reset.core k = {} := SMap.get_nil ..

@[simp] theorem State.reset_ctx (k j : Nat) : State.reset.ctx k j = {} := by
  rw [State.ctx, State.reset_core]
  exact SMap.get_nil ..

@[simp] theorem State.reset_die (d : Nat) : State.reset.die d = {} := SMap.get_nil ..

@[simp] theorem State.reset_func (n : Nat) : State.reset.func n = {} := SMap.get_nil ..

@[simp] theorem State.reset_queue (q : Nat) : State.reset.queue q = {} := SMap.get_nil ..

@[simp] theorem State.reset_group (g : Nat) : State.reset.group g = {} := SMap.get_nil ..

@[simp] theorem State.reset_port (p : Nat) : State.reset.port p = {} := SMap.get_nil ..

end Sys2Proof.Machine

namespace Sys2Proof.Claims

open Sys2Proof.Machine

/-- Settles O4: memory is in canonical form by `State.reset_mem_wf`, each indexed part of the state is the default one by
the lemmas above, and what remains are single fields of the reset state. -/
theorem resetState : Obligations.ResetState := by
  unfold Obligations.ResetState
  dsimp only
  refine ⟨State.reset_mem_wf, rfl, State.reset_read, rfl, rfl, rfl, rfl, rfl, rfl, rfl, rfl, rfl, rfl, rfl,
    fun k j => ?cores, fun d => ?dies, fun n => ?funcs, fun q => ?queues, fun g => ?groups, fun p => ?ports,
    rfl, rfl, rfl, rfl, rfl⟩
  case cores =>
    rw [State.reset_ctx, State.reset_core]
    exact ⟨rfl, rfl, rfl, rfl, rfl, rfl, rfl⟩
  case dies =>
    rw [State.reset_die]
    exact ⟨rfl, rfl, rfl, rfl, rfl⟩
  case funcs =>
    rw [State.reset_func]
    exact ⟨rfl, rfl, rfl, rfl⟩
  case queues => rw [State.reset_queue]
  case groups =>
    rw [State.reset_group]
    exact ⟨rfl, rfl⟩
  case ports =>
    rw [State.reset_port]
    exact ⟨rfl, rfl⟩

end Sys2Proof.Claims
end

section
/-! SUPPORT. The command in flight that a name finds, after one command or all of them have changed (R244). -/

namespace Sys2Proof.Machine

/-- The first element that `p` picks, after a change that keeps what `p` says of it. -/
theorem find?_updFirst_same {α : Type} {p : α → Bool} {f : α → α} (hf : ∀ x, p (f x) = p x) (l : List α) :
    (updFirst p f l).find? p = (l.find? p).map f := by
  induction l with
  | nil => rfl
  | cons x xs ih => by_cases hx : p x = true <;> simp [updFirst, List.find?, hx, hf, ih]

/-- A change of an element that `q` does not pick, before or after it, hides no element from `q`. -/
theorem find?_updFirst_other {α : Type} {p q : α → Bool} {f : α → α} (hf : ∀ x, p x = true → q x = false ∧ q (f x) = false)
    (l : List α) : (updFirst p f l).find? q = l.find? q := by
  induction l with
  | nil => rfl
  | cons x xs ih =>
    by_cases hx : p x = true
    · obtain ⟨h1, h2⟩ := hf x hx
      simp [updFirst, List.find?, hx, h1, h2]
    · simp [updFirst, List.find?, hx, ih]

theorem State.cmd_updCmd_same (s : State) (r : CmdRef) {f : Cmd → Cmd} (hf : ∀ m, (f m).ref = m.ref) :
    (s.updCmd r f).cmd r = (s.cmd r).map f :=
  find?_updFirst_same (fun m => by rw [hf]) s.cmds

theorem State.cmd_updCmd_ne (s : State) {r q : CmdRef} (h : q ≠ r) {f : Cmd → Cmd} (hf : ∀ m, (f m).ref = m.ref) :
    (s.updCmd r f).cmd q = s.cmd q := by
  refine find?_updFirst_other (fun m hm => ?_) s.cmds
  have hq : (m.ref == q) = false := by
    rw [beq_iff_eq] at hm
    simpa [hm] using h.symm
  exact ⟨hq, by rw [hf, hq]⟩

/-- A change of every command that keeps their names changes the command that a name finds. -/
theorem State.cmd_mapped {s t : State} (r : CmdRef) {f : Cmd → Cmd} (hf : ∀ m, (f m).ref = m.ref) (ht : t.cmds = s.cmds.map f) :
    t.cmd r = (s.cmd r).map f := by
  simp only [State.cmd, ht, List.find?_map, Function.comp_def, hf]

@[simp] theorem Cmd.outcome_ref (m : Cmd) (status detail : Nat) : (m.outcome status detail).ref = m.ref := by
  unfold Cmd.outcome; split <;> rfl

@[simp] theorem Cmd.finish_ref (m : Cmd) (status detail : Nat) : (m.finish status detail).ref = m.ref :=
  Cmd.outcome_ref m status detail

end Sys2Proof.Machine
end

section
/-! SUPPORT. What the launch of a collective by a COLL_* command does (R22, R313). -/

namespace Sys2Proof.Machine

open Sys2Proof.Claims

/-- A COLL_* row of the command table launches with the opcode of its row (R234). -/
theorem exec_coll {i : Instr} {op : Nat} {r : CmdRef} (s : State)
    (h : (i, op) ∈ [(Instr.collAllreduce r, 0x30), (.collRedscat r, 0x31), (.collAllgather r, 0x32), (.collBcast r, 0x33),
      (.collAlltoall r, 0x34), (.collBarrier r, 0x35)]) : exec i s = .next (s.collLaunch op r) := by
  simp only [List.mem_cons, Prod.mk.injEq, List.not_mem_nil, or_false] at h
  rcases h with ⟨rfl, rfl⟩ | ⟨rfl, rfl⟩ | ⟨rfl, rfl⟩ | ⟨rfl, rfl⟩ | ⟨rfl, rfl⟩ | ⟨rfl, rfl⟩ <;> rfl

/-- A fetched command whose turn has come launches, or has no module number to launch with. -/
theorem State.collLaunch_eq {s : State} {r : CmdRef} {c : Cmd} (hc : s.cmd r = some c) (hd : c.isComplete = false)
    (hl : c.lig = none) (he : (s.earlier r).all (fun e => e.lig.isSome) = true) :
    s.collLaunch c.opcode r =
      if s.mod.placeValid then
        (s.ligLaunch (.cmd r) c.tenant r.die c.packet c.ranges).1.updCmd r (fun m =>
          { m with lig := some (s.ligLaunch (.cmd r) c.tenant r.die c.packet c.ranges).2 })
      else s.updCmd r (fun m => m.finish 10 (3 * 2 ^ 16)) := by
  have he : (s.earlier r).any (fun e => e.lig.isNone) = false := by
    rw [List.all_eq_true] at he
    rw [List.any_eq_false]
    intro e hm
    simpa [Option.isSome_iff_ne_none] using he e hm
  simp only [State.collLaunch, hc, hd, hl, he]
  cases s.mod.placeValid <;> simp

/-- While no operation of the group has been aborted before its launch, a launch only takes the next OPSEQ and joins the
operations that wait (R313). -/
theorem State.ligLaunch_frame {s : State} (owner : LigOwner) (fn die : Nat) (img : BitVec 1024) (rs : List Rng)
    (ha : (s.group (Coll.parse img).group).aborted = []) :
    let x := s.ligLaunch owner fn die img rs
    Launched s x.1 owner die img x.2 ∧ x.1 = { s with groups := x.1.groups, ligOps := x.1.ligOps } := by
  dsimp only [State.ligLaunch]
  rw [ha]
  refine ⟨⟨rfl, ?_, _, rfl, rfl, rfl, rfl, rfl, rfl, rfl⟩, rfl⟩
  simp [State.group, State.updGroup]

end Sys2Proof.Machine

namespace Sys2Proof.Claims

open Sys2Proof.Machine

/-- Settles O40: with a module number the launch has the effect of `State.ligLaunch_frame` and the command keeps its OPSEQ;
without one the command alone changes. -/
theorem collectivesLaunch : Obligations.CollectivesLaunch := by
  unfold Obligations.CollectivesLaunch
  intro s r c i hi hc hd hl he
  have hx := (exec_coll s hi).trans (congrArg _ (State.collLaunch_eq hc hd hl he))
  refine ⟨fun hp ha => ?launches, fun hp => ?noModule⟩
  case launches =>
    obtain ⟨hlaunch, hframe⟩ := State.ligLaunch_frame (.cmd r) c.tenant r.die c.packet c.ranges ha
    rw [hp, if_pos rfl] at hx
    generalize s.ligLaunch (.cmd r) c.tenant r.die c.packet c.ranges = x at hx hlaunch hframe
    have hcmd (q : CmdRef) : x.1.cmd q = s.cmd q := by rw [hframe]; rfl
    refine ⟨_, hx, x.2, hlaunch, ?_, fun q hq => ?_, ?_, fun a => ?_⟩
    · simp [State.cmd_updCmd_same, hcmd, hc]
    · simp [State.cmd_updCmd_ne, hq, hcmd]
    · rw [State.updCmd_cores, hframe]
    · rw [State.updCmd_mem, hframe]
  case noModule =>
    rw [hp, if_neg (by decide)] at hx
    refine ⟨_, hx, ?_, rfl⟩
    simp [State.cmd_updCmd_same, hc]

end Sys2Proof.Claims
end

section
/-! SUPPORT. What the management controller does with a request: how it enters the queue, what it is answered (R367 to R370,
R392). -/

namespace Sys2Proof.Machine

/-- The mailbox takes a request of a function: it is the managing function, and BUSY is 0 (R369). -/
def State.mailboxOpen (s : State) (fn : BitVec 6) : Prop := s.isMgmt fn.toNat = true ∧ s.mod.mbBusy = false

theorem State.mmcRequest_i3c {s : State} (h : s.mod.serves = true) (op record : Nat) (bytes : List Byte) :
    s.mmcRequest .i3c op record bytes = { s with mod := { s.mod with
      mmcQueue := s.mod.mmcQueue ++ [{ path := .i3c, op := op, record := record, bytes := bytes }], i3cStatus := 255
      i3cData := [] } } := by
  simp [State.mmcRequest, h, State.updMod]

/-- A mailbox request that brings no data enters with what MOD_IDDATA holds. -/
theorem State.mmcRequest_mailbox {s : State} {fn : BitVec 6} (h : s.mailboxOpen fn) {op : Nat} (ho : op ≠ 1) (record : Nat)
    (bytes : List Byte) :
    s.mmcRequest (.mailbox fn) op record bytes = { s with mod := { s.mod with
      mbBusy := true, mbOp := op, mbRecord := record
      mmcQueue := s.mod.mmcQueue ++
        [{ path := .mailbox fn, op := op, record := record, bytes := Memory.readBytes s.mod.mbData 0 256 }] } } := by
  obtain ⟨hm, hb⟩ := h
  simp [State.mmcRequest, hm, hb, ho, State.updMod]

/-- A mailbox write puts its data into MOD_IDDATA first. -/
theorem State.mmcRequest_mailbox_write {s : State} {fn : BitVec 6} (h : s.mailboxOpen fn) (record : Nat)
    (bytes : List Byte) :
    s.mmcRequest (.mailbox fn) 1 record bytes = s.updMod (fun m =>
      { m.fillMailbox bytes with
        mbBusy := true, mbOp := 1, mbRecord := record
        mmcQueue := m.mmcQueue ++
          [{ path := .mailbox fn, op := 1, record := record, bytes := Memory.readBytes (m.fillMailbox bytes).mbData 0 256 }] }) := by
  obtain ⟨hm, hb⟩ := h
  simp [State.mmcRequest, hm, hb, Module.fillMailbox]

theorem State.mmcRequest_mailbox_shut {s : State} {fn : BitVec 6} (h : ¬ s.mailboxOpen fn) (op record : Nat)
    (bytes : List Byte) : s.mmcRequest (.mailbox fn) op record bytes = s := by
  have hb : (!(s.isMgmt fn.toNat) || s.mod.mbBusy) = true := by
    cases hm : s.isMgmt fn.toNat <;> simp_all [State.mailboxOpen]
  simp [State.mmcRequest, hb]

/-! What `Module.serve` answers, by the request's OP. -/

theorem Module.serve_readRecord (m : Module) {r : MmcReq} (ho : r.op = 0) :
    m.serve r = (0, bytes256 (m.record r.record), m) := by simp [Module.serve, ho]

theorem Module.serve_writeRecord (m : Module) {r : MmcReq} (ho : r.op = 1) (hr : 8 ≤ r.record) (hb : r.bytes.length = 256) :
    m.serve r = (0, [], { m with records := SMap.set m.records r.record (BitVec.ofNat 2048 (leNat r.bytes)) }) := by
  simp [Module.serve, ho, hr, hb]

theorem Module.serve_writeRecord_refused (m : Module) {r : MmcReq} (ho : r.op = 1) (hr : r.record < 8) :
    m.serve r = (11, [], m) := by
  have : ¬ 8 ≤ r.record := by omega
  simp [Module.serve, ho, this]

theorem Module.serve_readSensors (m : Module) {r : MmcReq} (ho : r.op = 2) : m.serve r = (0, bytes256 m.sensors, m) := by
  simp [Module.serve, ho]

theorem Module.serve_setPower (m : Module) {r : MmcReq} (ho : r.op = 5) (hp : r.path = .i3c) (hr : r.record = 0)
    (hb : r.bytes.length = 4) :
    m.serve r = (0, [], m.setPower (leNat (r.bytes.take 2)) (leNat (r.bytes.drop 2))) := by
  simp [Module.serve, ho, hp, hr, hb]

theorem Module.nextRequest_single {m : Module} {r : MmcReq} (hq : m.mmcQueue = [r]) : m.nextRequest = some r := by
  unfold Module.nextRequest
  rw [hq]
  by_cases ho : r.op = 1 <;> simp [ho]

/-- The only request, of I3C, is answered there: once served it has left the queue. -/
theorem exec_idRequestDone_i3c {s : State} {r : MmcReq} (hs : s.mod.serves = true) (hq : s.mod.mmcQueue = [r])
    (hp : r.path = .i3c) {result : Nat} {data : List Byte} {m : Module}
    (hr : ({ s.mod with mmcQueue := [] } : Module).serve r = (result, data, m)) (hm : m.mmcQueue = []) :
    exec .idRequestDone s = .next { s with mod := { m with i3cStatus := result, i3cData := data } } := by
  have hd : delFirst (fun x => x == r) [r] = [] := by simp [delFirst]
  simp [execIdRequestDone, hs, Module.nextRequest_single hq, hq, hd, hr, Module.answer, hp, hm]

/-- Without a serving controller nothing is answered over I3C (R19). -/
theorem exec_unserved {s : State} (hs : s.mod.serves = false) (addr : BitVec 7) :
    exec .idRequestDone s = .next s ∧ exec (.i3cSetdasa addr) s = .next s ∧ exec .i3cReadBootHealth s = .next s ∧
      exec .i3cPrivateRead s = .next s := by
  simp [execIdRequestDone, execI3cSetdasa, execI3cReadBootHealth, execI3cPrivateRead, hs]

end Sys2Proof.Machine

namespace Sys2Proof.Claims

open Sys2Proof.Machine

/-- Settles O59: requests enter by the lemmas about `State.mmcRequest`, answers come from those about `Module.serve`, and each
other command is one branch of its definition. -/
theorem managementControllerCompletes : Obligations.ManagementControllerCompletes := by
  unfold Obligations.ManagementControllerCompletes
  intro s fn n bytes addr rec r
  dsimp only
  have hi3c (op record : Nat) (bs : List Byte) (h : s.mod.serves = true) := State.mmcRequest_i3c h op record bs
  have hmail {op : Nat} (ho : op ≠ 1) (record : Nat) (h : s.isMgmt fn.toNat = true ∧ s.mod.mbBusy = false) :=
    State.mmcRequest_mailbox h ho record []
  refine ⟨fun h => ⟨_, rfl, hi3c _ _ _ h⟩, fun h => ⟨_, rfl, hmail (by decide) _ h⟩,
    fun h => ⟨_, rfl, hi3c _ _ _ h⟩, fun h => ?mailWrite,
    fun h => ⟨_, rfl, hi3c _ _ _ h⟩, fun h => ⟨_, rfl, hmail (by decide) _ h⟩,
    fun h => ⟨_, rfl, hi3c _ _ _ h⟩, fun h => ⟨_, rfl, hmail (by decide) _ h⟩,
    fun h => ⟨_, rfl, hi3c _ _ _ h⟩, fun h => ?mailShut, fun ⟨hs, hq⟩ hp => ?answers, fun hb => ?timeout, fun hs => ?served,
    fun hs => ?unserved, fun hr => ?stop, fun hv => ?vinOn, fun hv => ?vinOff⟩
  case mailWrite =>
    exact ⟨_, congrArg Host.Outcome.next (State.mmcRequest_mailbox_write h _ _), rfl, rfl, rfl, rfl⟩
  case mailShut =>
    exact ⟨⟨_, rfl, State.mmcRequest_mailbox_shut h _ _ _⟩, ⟨_, rfl, State.mmcRequest_mailbox_shut h _ _ _⟩⟩
  case answers =>
    refine ⟨fun ho => ?_, fun ho h8 hb => ?_, fun ho h8 => ?_, fun ho => ?_, fun ho hr hb => ?_⟩
    · exact ⟨_, exec_idRequestDone_i3c hs hq hp (Module.serve_readRecord _ ho) rfl, rfl⟩
    · exact ⟨_, exec_idRequestDone_i3c hs hq hp (Module.serve_writeRecord _ ho h8 hb) rfl, rfl⟩
    · exact ⟨_, exec_idRequestDone_i3c hs hq hp (Module.serve_writeRecord_refused _ ho h8) rfl, rfl⟩
    · exact ⟨_, exec_idRequestDone_i3c hs hq hp (Module.serve_readSensors _ ho) rfl, rfl⟩
    · exact ⟨_, exec_idRequestDone_i3c hs hq hp (Module.serve_setPower _ ho hp hr hb) rfl, rfl, rfl, rfl⟩
  case timeout => simp [Runs, execIdMailboxTimeout, hb, State.updMod]
  case served =>
    refine ⟨?_, ?_, ?_⟩
    · simp [Runs, execI3cSetdasa, hs, State.updMod]
    · simp [Runs, execI3cReadBootHealth, hs, State.updMod]
    · simp [Runs, execI3cPrivateRead, hs, State.updMod]
  case unserved =>
    obtain ⟨hdone, hdasa, hboot, hread⟩ := exec_unserved hs addr
    exact ⟨⟨_, hdone, rfl⟩, ⟨_, hdasa, rfl⟩, ⟨_, hboot, rfl⟩, ⟨_, hread, rfl⟩⟩
  case stop => simp [Runs, execMmcStop, hr, State.updMod]
  case vinOn => simp [Runs, execVinEntersRange, hv, State.updMod]
  case vinOff => simp [Runs, execVinEntersRange, hv, State.updMod, Module.serves]

end Sys2Proof.Claims
end

section
/-! SUPPORT. Sparse maps that are changed everywhere or listed in full. -/

namespace Sys2Proof.Machine

theorem SMap.find_mapVals {α : Type} (m : SMap α) (f : Nat → α → α) (k : Nat) :
    SMap.find (SMap.mapVals m f) k = (SMap.find m k).map (f k) := by
  induction m with
  | nil => rfl
  | cons p m ih =>
    obtain ⟨i, v⟩ := p
    simp only [SMap.mapVals, List.map, SMap.find] at ih ⊢
    by_cases hi : i = k
    · simp [hi]
    · by_cases hk : k < i <;> simp [hi, hk, ih]

/-- A change that keeps the default is one of every value, listed or not. -/
theorem SMap.get_mapVals {α : Type} (m : SMap α) {f : Nat → α → α} {k : Nat} {d : α} (h : f k d = d) :
    SMap.get (SMap.mapVals m f) k d = f k (SMap.get m k d) := by
  rw [SMap.get, SMap.find_mapVals, SMap.get]
  cases SMap.find m k with
  | none => exact h.symm
  | some v => rfl

theorem SMap.find_range'_map {α : Type} (f : Nat → α) (n : Nat) {a k : Nat} (ha : a ≤ k) (hk : k < a + n) :
    SMap.find ((List.range' a n).map (fun p => (p, f p))) k = some (f k) := by
  induction n generalizing a with
  | zero => omega
  | succ n ih =>
    simp only [List.range'_succ, List.map, SMap.find]
    by_cases h : a = k
    · simp [h]
    · have hlt : ¬ k < a := by omega
      simp only [h, hlt, if_false]
      exact ih (by omega) (by omega)

theorem SMap.get_range_map {α : Type} (f : Nat → α) (d : α) {n k : Nat} (hk : k < n) :
    SMap.get ((List.range n).map (fun p => (p, f p))) k d = f k := by
  rw [SMap.get, List.range_eq_range', SMap.find_range'_map f n (by omega) (by omega), Option.getD_some]

end Sys2Proof.Machine
end

section
/-! SUPPORT. What a record to a host changes (R213, R215, R261): host memory, the functions and the messages sent. -/

namespace Sys2Proof.Machine

/-- The state without what a record to a host changes. -/
def State.sansHost (s : State) : State := { s with host := [], funcs := [], hostMsgs := [] }

@[simp] theorem State.raiseVec_sansHost (s : State) (n v : Nat) : (s.raiseVec n v).sansHost = s.sansHost := by
  unfold State.raiseVec; split <;> rfl

@[simp] theorem State.putRecord_sansHost (s : State) (n : Nat) (bs : List Byte) : (s.putRecord n bs).sansHost = s.sansHost :=
  (State.raiseVec_sansHost _ _ _).trans rfl

@[simp] theorem State.record_sansHost (s : State) (n : Nat) (bs : List Byte) : (s.record n bs).sansHost = s.sansHost := by
  unfold State.record
  dsimp only
  split
  · exact State.putRecord_sansHost s n bs
  · rfl

theorem State.moduleEvent_sansHost (s : State) (event addr : Nat) : (s.moduleEvent event addr).sansHost = s.sansHost := by
  unfold State.moduleEvent
  split
  · rfl
  · exact State.record_sansHost s _ _

section
variable (s : State) (event addr : Nat)

@[simp] theorem State.moduleEvent_mem : (s.moduleEvent event addr).mem = s.mem :=
  (congrArg State.mem (s.moduleEvent_sansHost event addr) :)
@[simp] theorem State.moduleEvent_cores : (s.moduleEvent event addr).cores = s.cores :=
  (congrArg State.cores (s.moduleEvent_sansHost event addr) :)
@[simp] theorem State.moduleEvent_dies : (s.moduleEvent event addr).dies = s.dies :=
  (congrArg State.dies (s.moduleEvent_sansHost event addr) :)
@[simp] theorem State.moduleEvent_cmds : (s.moduleEvent event addr).cmds = s.cmds :=
  (congrArg State.cmds (s.moduleEvent_sansHost event addr) :)
@[simp] theorem State.moduleEvent_links : (s.moduleEvent event addr).links = s.links :=
  (congrArg State.links (s.moduleEvent_sansHost event addr) :)
@[simp] theorem State.moduleEvent_fab : (s.moduleEvent event addr).fab = s.fab :=
  (congrArg State.fab (s.moduleEvent_sansHost event addr) :)
@[simp] theorem State.moduleEvent_mod : (s.moduleEvent event addr).mod = s.mod :=
  (congrArg State.mod (s.moduleEvent_sansHost event addr) :)
@[simp] theorem State.moduleEvent_aer : (s.moduleEvent event addr).aer = s.aer :=
  (congrArg State.aer (s.moduleEvent_sansHost event addr) :)

end

end Sys2Proof.Machine
end

section
/-! SUPPORT. The failure of the module (R347, R348): what it records, stops and leaves. -/

namespace Sys2Proof.Machine

open Sys2Proof.Claims

/-- A command in flight when the module fails: complete with FAULT_UNRECOVERED of KIND 7, unless it has completed (R348, R349). -/
def Cmd.moduleFailed (m : Cmd) (die : Nat) : Cmd :=
  if m.isComplete then m
  else { m.finish 7 (faultDetail 7 5 31 die) with result := if m.opcode = 1 then launchResult m.codes else m.result }

@[simp] theorem Cmd.moduleFailed_ref (m : Cmd) (die : Nat) : (m.moduleFailed die).ref = m.ref := by
  unfold Cmd.moduleFailed
  split
  · rfl
  · exact m.finish_ref _ _

/-- A context when the module fails: idle, with no command and no transfers. -/
def Ctx.moduleFailed (x : Ctx) : Ctx := { x with mode := .idle, job := none, feedTags := [] }

/-- A core when the module fails. -/
def Core.moduleFailed (k : Core) : Core := { k with ctxs := SMap.mapVals k.ctxs (fun _ x => x.moduleFailed) }

/-- The module once it has failed, before that is recorded anywhere (R348). -/
def State.stopped (s : State) (cause dieA dieB portDie : Nat) : State :=
  let s2 := (s.updMod (fun m => { m with failed := true, fcause := cause, dieA := dieA, dieB := dieB, portDie := portDie })).portsDark
  { s2 with
    cores := SMap.mapVals s2.cores (fun _ k => k.moduleFailed), ligOps := []
    cmds := s2.cmds.map (fun m => m.moduleFailed dieA) }

/-- The failure recorded: in identity record 2 while the MMC runs, and for the managing function as EVENT 3 (R334, R348). -/
def State.recordFailure (s : State) : State :=
  let s1 := if s.mod.mmcRun then s.updMod (fun m => { m with records := SMap.set m.records 2 (BitVec.ofNat 2048 m.health) })
    else s
  s1.moduleEvent 3 s1.mod.health

theorem State.failModule_eq {s : State} (h : s.mod.failed = false) (cause dieA dieB portDie : Nat) :
    s.failModule cause dieA dieB portDie = (s.stopped cause dieA dieB portDie).recordFailure := by
  unfold State.failModule
  rw [h]
  rfl

/-- The records leave the failure and its cause as they are. -/
theorem State.recordFailure_mod (s : State) :
    s.recordFailure.mod.failed = s.mod.failed ∧ s.recordFailure.mod.fcause = s.mod.fcause := by
  simp only [State.recordFailure, State.moduleEvent_mod]
  split <;> exact ⟨rfl, rfl⟩

@[simp] theorem State.recordFailure_mem (s : State) : s.recordFailure.mem = s.mem := by
  simp only [State.recordFailure, State.moduleEvent_mem]; split <;> rfl
@[simp] theorem State.recordFailure_cores (s : State) : s.recordFailure.cores = s.cores := by
  simp only [State.recordFailure, State.moduleEvent_cores]; split <;> rfl
@[simp] theorem State.recordFailure_cmds (s : State) : s.recordFailure.cmds = s.cmds := by
  simp only [State.recordFailure, State.moduleEvent_cmds]; split <;> rfl
@[simp] theorem State.recordFailure_links (s : State) : s.recordFailure.links = s.links := by
  simp only [State.recordFailure, State.moduleEvent_links]; split <;> rfl
@[simp] theorem State.recordFailure_fab (s : State) : s.recordFailure.fab = s.fab := by
  simp only [State.recordFailure, State.moduleEvent_fab]; split <;> rfl
@[simp] theorem State.recordFailure_aer (s : State) : s.recordFailure.aer = s.aer := by
  simp only [State.recordFailure, State.moduleEvent_aer]; split <;> rfl

/-- Every context is idle, every port DISABLED, and the cause recorded (R348). -/
def ModuleDown (t : State) (cause : Nat) : Prop :=
  t.mod.failed = true ∧ t.mod.fcause = cause ∧ (∀ p, p < 32 → (t.port p).state = .disabled) ∧
  ∀ key j, (t.ctx key j).mode = .idle

theorem Core.moduleFailed_ctx (k : Core) (j : Nat) : k.moduleFailed.ctx j = (k.ctx j).moduleFailed :=
  SMap.get_mapVals (f := fun _ x => x.moduleFailed) (k := j) (d := {}) k.ctxs rfl

theorem State.stopped_core (s : State) (cause dieA dieB portDie key : Nat) :
    (s.stopped cause dieA dieB portDie).core key = (s.core key).moduleFailed :=
  SMap.get_mapVals (f := fun _ k => k.moduleFailed) (k := key) (d := {}) s.cores rfl

theorem State.stopped_port (s : State) (cause dieA dieB portDie : Nat) {p : Nat} (hp : p < 32) :
    ((s.stopped cause dieA dieB portDie).port p).state = .disabled := by
  simp only [State.port, State.stopped, State.portsDark, State.updFab]
  rw [SMap.get_range_map _ _ hp]

theorem State.failModule_down {s : State} (h : s.mod.failed = false) (cause dieA dieB portDie : Nat) :
    ModuleDown (s.failModule cause dieA dieB portDie) cause := by
  rw [State.failModule_eq h]
  have hmod := State.recordFailure_mod (s.stopped cause dieA dieB portDie)
  refine ⟨hmod.1, hmod.2, fun p hp => ?ports, fun key j => ?contexts⟩
  case ports =>
    rw [State.port, State.recordFailure_fab]
    exact State.stopped_port s cause dieA dieB portDie hp
  case contexts =>
    rw [State.ctx, State.core, State.recordFailure_cores, ← State.core, State.stopped_core, Core.moduleFailed_ctx]
    rfl

/-- The failure changes no byte of stack memory, no host link and no error report. -/
theorem State.failModule_frame {s : State} (h : s.mod.failed = false) (cause dieA dieB portDie : Nat) :
    let t := s.failModule cause dieA dieB portDie
    t.mem = s.mem ∧ t.links = s.links ∧ t.aer = s.aer := by
  rw [State.failModule_eq h]
  exact ⟨State.recordFailure_mem _, State.recordFailure_links _, State.recordFailure_aer _⟩

theorem State.failModule_cmd {s : State} (h : s.mod.failed = false) (cause dieA dieB portDie : Nat) (q : CmdRef) :
    (s.failModule cause dieA dieB portDie).cmd q = (s.cmd q).map (fun m => m.moduleFailed dieA) := by
  rw [State.failModule_eq h]
  exact State.cmd_mapped q (fun m => m.moduleFailed_ref dieA) (State.recordFailure_cmds _)

/-- A module that has failed does not fail again. -/
theorem State.failModule_of_failed {s : State} (h : s.mod.failed = true) (cause dieA dieB portDie : Nat) :
    s.failModule cause dieA dieB portDie = s := by
  unfold State.failModule
  rw [h, if_pos rfl]

end Sys2Proof.Machine
end

section
/-! SUPPORT. The restart of a struck command (R340), and the end of a map-out (R346). -/

namespace Sys2Proof.Machine

/-- A die without trace rings records no event (R376). -/
theorem State.trace_of_no_rings {s : State} {die : Nat} (h : (s.die die).traces = []) (fn code : Nat) (core : Option Nat)
    (ctx queue seq data : Nat) : s.trace die fn code core ctx queue seq data = s := by
  simp [State.trace, h]

theorem Core.row_putRow (k : Core) (p i : Nat) (v : BitVec 4096) :
    (k.putRow p v).row i = if p = i then v else k.row i := by
  have hink : (k.putRow p v).ink = SMap.set k.ink p v := by
    unfold Core.putRow Core.discardRow
    split
    · split <;> rfl
    · rfl
  rw [Core.row, hink, SMap.get_set]
  rfl

/-- The rows to repair hold zeros; every other row is as before. -/
theorem State.repairRows_row (s : State) (l : List (Nat × Nat)) (key i : Nat) :
    ((s.repairRows l).core key).row i = if (key, i) ∈ l then 0 else (s.core key).row i := by
  induction l generalizing s with
  | nil => rfl
  | cons p l ih =>
    refine (ih _).trans ?_
    obtain ⟨k, r⟩ := p
    by_cases hk : k = key
    · subst hk
      rw [State.core_updCore_same, Core.row_putRow]
      by_cases hr : r = i
      · simp only [hr, List.mem_cons, if_true, true_or, ite_self]
      · simp only [hr, Ne.symm hr, List.mem_cons, Prod.mk.injEq, if_false, true_and, false_or]
    · simp only [State.core_updCore_ne _ _ _ _ hk, Ne.symm hk, List.mem_cons, Prod.mk.injEq, false_and, false_or]

/-- The repair of rows changes nothing outside the cores. -/
theorem State.repairRows_eq (s : State) (l : List (Nat × Nat)) :
    s.repairRows l = { s with cores := (s.repairRows l).cores } := by
  induction l generalizing s with
  | nil => rfl
  | cons p l ih => exact (ih _).trans rfl

@[simp] theorem State.dropScoped_die (s : State) (r : CmdRef) (d : Nat) :
    (s.dropScoped r).die d = { s.die d with cached := (s.die d).cached.filter (fun l => l.cmd != some r) } :=
  SMap.get_mapVals (f := fun _ d => { d with cached := d.cached.filter (fun l => l.cmd != some r) }) (k := d) (d := {}) s.dies rfl

/-- A struck command as it starts again: one more attempt, and clean counts and outcome. -/
def Cmd.restarted (m : Cmd) (attempts : Nat) : Cmd :=
  { m with phase := .started, attempts := attempts, sat := 0, flush := 0, status := if m.cancelled then 2 else 0, detail := 0
           codes := [], repair := [] }

@[simp] theorem State.updCmd_die (s : State) (r : CmdRef) (f : Cmd → Cmd) (d : Nat) : (s.updCmd r f).die d = s.die d := rfl

@[simp] theorem State.updDie_core (s : State) (d : Nat) (f : Die → Die) (key : Nat) : (s.updDie d f).core key = s.core key := rfl

/-- The restart of a command with no contexts and no transfer, on a die without trace rings. -/
theorem State.restart_eq {s : State} {r : CmdRef} {c : Cmd} (hctx : c.ctxs = []) (hx : c.xfer = none) (ho : c.opcode ≠ 1)
    (ht : (s.die r.die).traces = []) :
    s.restart r c =
      (((s.dropScoped r).repairRows c.repair).updCmd r (fun m => m.restarted (c.attempts + 1))).countDie r.die 8 1 := by
  simp only [State.restart, hctx, hx, ho, if_false, List.foldl_nil]
  refine State.trace_of_no_rings ?_ _ _ _ _ _ _ _
  have hd : (((s.dropScoped r).repairRows c.repair).die r.die).traces = [] := by
    rw [State.repairRows_eq]
    exact (congrArg Die.traces (s.dropScoped_die r r.die)).trans ht
  simpa only [State.countDie, State.die_updDie_same, State.updCmd_die] using hd

/-- The spare in its place (R346): the core's number names it, and no map-out of the die is running. -/
def State.spareIn (s : State) (die : Nat) : State :=
  let k := coreKey die (s.die die).spareCore
  (s.updCore k (fun c => c.spare k s.free s.mod.idleCyc)).updDie die (fun d => { d with spareUsed := true, mapping := false })

/-- The records of a map-out's end change no core, no die and no byte of stack memory. -/
theorem State.mapOut_frame {s : State} {die : Nat} (ht : (s.die die).traces = []) :
    (s.mapOut die).mem = s.mem ∧ (s.mapOut die).cores = (s.spareIn die).cores ∧
      (s.mapOut die).dies = (s.spareIn die).dies := by
  unfold State.mapOut
  dsimp only
  rw [State.trace_of_no_rings]
  case h =>
    have hdies (u : State) (h : u.dies = (s.spareIn die).dies) : (u.die die).traces = [] := by
      rw [State.die, h]
      exact (congrArg Die.traces (State.die_updDie_same _ _ _)).trans ht
    apply hdies
    rw [State.moduleEvent_dies]
    split <;> rfl
  simp only [State.moduleEvent_mem, State.moduleEvent_cores, State.moduleEvent_dies]
  split <;> exact ⟨rfl, rfl, rfl⟩

theorem State.mapOut_core {s : State} {die : Nat} (ht : (s.die die).traces = []) (key : Nat) :
    (s.mapOut die).core key = if coreKey die (s.die die).spareCore = key then
      (s.core key).spare key s.free s.mod.idleCyc else s.core key := by
  obtain ⟨-, hcores, -⟩ := State.mapOut_frame ht
  rw [State.core, hcores, ← State.core, State.spareIn, State.updDie_core, State.core_updCore]
  split
  · next h => rw [h]
  · rfl

theorem State.mapOut_die {s : State} {die : Nat} (ht : (s.die die).traces = []) :
    (s.mapOut die).die die = { s.die die with spareUsed := true, mapping := false } := by
  obtain ⟨-, -, hdies⟩ := State.mapOut_frame ht
  rw [State.die, hdies]
  exact State.die_updDie_same _ _ _

/-- Each of the four contexts of the spare is reset, but for what the blotter and the ligature engine hold of it (R335, R341). -/
theorem Core.spare_ctx (k : Core) (src n idle : Nat) {j : Nat} (hj : j < 4) :
    (k.spare src n idle).ctx j = (k.ctx j).onSpare src (n + j) :=
  SMap.get_range_map (fun j => (k.ctx j).onSpare src (n + j)) {} hj

end Sys2Proof.Machine
end

section
/-! SUPPORT. The loss of a host link leaves the module's own registers and the counts of reported errors (R258, R263): each
operation that it is made of does, from the caches up. -/

namespace Sys2Proof.Machine

/-- The module's own registers and the counts of reported errors are unchanged. -/
@[simp] abbrev SameRegs (s t : State) : Prop := t.mod = s.mod ∧ t.aer = s.aer

theorem SameRegs.trans {s t u : State} (h : SameRegs s t) (g : SameRegs t u) : SameRegs s u :=
  ⟨g.1.trans h.1, g.2.trans h.2⟩

/-- A state that may be answered has them unchanged. -/
def OptSameRegs (s : State) (o : Option State) : Prop := ∀ t, o = some t → SameRegs s t

/-- What a message leaves has them unchanged. -/
def SendSameRegs (s : State) (r : SendResult) : Prop := ∀ t, r = .sent t → SameRegs s t

/-- The state that an access leaves. -/
def Acc.left {α : Type} : Acc α → State
  | .ok _ s => s
  | .wait s => s
  | .trap _ _ s => s
  | .page _ _ _ s => s
  | .poison _ s => s
  | .lost _ s => s

theorem sameRegs_foldl {α : Type} {f : State → α → State} (hf : ∀ t x, SameRegs t (f t x)) (l : List α) (s : State) :
    SameRegs s (l.foldl f s) := by
  induction l generalizing s with
  | nil => exact ⟨rfl, rfl⟩
  | cons x l ih => exact (hf s x).trans (ih _)

@[simp] theorem foldl_mod {α : Type} {f : State → α → State} (hf : ∀ t x, SameRegs t (f t x)) (l : List α) (s : State) :
    (l.foldl f s).mod = s.mod := (sameRegs_foldl hf l s).1

@[simp] theorem foldl_aer {α : Type} {f : State → α → State} (hf : ∀ t x, SameRegs t (f t x)) (l : List α) (s : State) :
    (l.foldl f s).aer = s.aer := (sameRegs_foldl hf l s).2

theorem optSameRegs_none (s : State) : OptSameRegs s none := fun _ ht => nomatch ht

theorem optSameRegs_some {s t : State} (h : SameRegs s t) : OptSameRegs s (some t) := fun _ ht => Option.some.inj ht ▸ h

theorem optSameRegs_foldl {α : Type} {f : State → α → Option State} (hf : ∀ t x, OptSameRegs t (f t x)) (l : List α) (s : State) :
    OptSameRegs s (l.foldl (fun o x => o.bind (fun t => f t x)) (some s)) := by
  suffices h : ∀ o, OptSameRegs s o → OptSameRegs s (l.foldl (fun o x => o.bind (fun t => f t x)) o) from
    h _ (optSameRegs_some ⟨rfl, rfl⟩)
  induction l with
  | nil => exact fun o ho => ho
  | cons x l ih =>
    refine fun o ho => ih _ (fun u hu => ?_)
    obtain ⟨t, ht, hu⟩ := Option.bind_eq_some_iff.mp hu
    exact (ho t ht).trans (hf t x u hu)

theorem sameRegs_getD {s : State} {o : Option State} (h : OptSameRegs s o) : SameRegs s (o.getD s) := by
  cases o with
  | none => exact ⟨rfl, rfl⟩
  | some t => exact h t rfl

theorem sameRegs_bind {α β : Type} {s : State} {x : Acc α} {f : α → State → Acc β} (hx : SameRegs s x.left)
    (hf : ∀ a t, SameRegs t (f a t).left) : SameRegs s (x.bind f).left := by
  cases x with
  | ok a t => exact SameRegs.trans hx (hf a t)
  | wait t => exact hx
  | trap c a t => exact hx
  | page c v w t => exact hx
  | poison a t => exact hx
  | lost r t => exact hx

theorem sameRegs_accEach {β : Type} {f : β → State → Acc Unit} (hf : ∀ x t, SameRegs t (f x t).left) (l : List β) (s : State) :
    SameRegs s (accEach f l s).left := by
  induction l generalizing s with
  | nil => exact ⟨rfl, rfl⟩
  | cons x l ih => exact sameRegs_bind (hf x s) (fun _ t => ih t)

/-! Records, counters, cores and messages. -/

@[simp] theorem State.record_regs (s : State) (n : Nat) (bs : List Byte) : SameRegs s (s.record n bs) :=
  ⟨(congrArg State.mod (s.record_sansHost n bs) :), (congrArg State.aer (s.record_sansHost n bs) :)⟩

@[simp] theorem State.countFunc_regs (s : State) (f off n : Nat) : SameRegs s (s.countFunc f off n) := ⟨rfl, rfl⟩

@[simp] theorem State.updCoreTimed_regs (s : State) (k : Nat) (f : Core → Core) : SameRegs s (s.updCoreTimed k f) := ⟨rfl, rfl⟩

@[simp] theorem State.updCtxOf_regs (s : State) (c : CtxRef) (f : Ctx → Ctx) : SameRegs s (s.updCtxOf c f) := ⟨rfl, rfl⟩

theorem State.sendPlain_regs (s : State) (sd : Sender) (h : MsgHdr) (bs : List Byte) : SendSameRegs s (s.sendPlain sd h bs) := by
  unfold State.sendPlain
  split
  · exact fun t ht => nomatch ht
  · rintro t ⟨rfl⟩
    exact ⟨rfl, rfl⟩

theorem State.sendMsg_regs (s : State) (sd : Sender) (h : MsgHdr) (bs : List Byte) : SendSameRegs s (s.sendMsg sd h bs) := by
  unfold State.sendMsg
  dsimp only
  split
  · exact fun t ht => nomatch ht
  · split
    · next s1 hs =>
      rintro t ⟨rfl⟩
      exact State.sendPlain_regs s _ _ _ s1 hs
    · next hn => exact fun t ht => absurd ht (hn t)

@[simp] theorem State.withdrawIf_regs (s : State) (p : Option CmdRef → Option Engine → Bool) : SameRegs s (s.withdrawIf p) :=
  ⟨rfl, rfl⟩

@[simp] theorem State.withdraw_regs (s : State) (r : CmdRef) : SameRegs s (s.withdraw r) := ⟨rfl, rfl⟩

/-! Die caches and access counters. -/

@[simp] theorem State.updCache_regs (s : State) (spa fn : Nat) (f : Die → Die) : SameRegs s (s.updCache spa fn f) := by
  simp [State.updCache]

@[simp] theorem State.forgetReads_regs (s : State) (gone : Engine → Bool) : SameRegs s (s.forgetReads gone) := ⟨rfl, rfl⟩

@[simp] theorem State.wroteLine_regs (s : State) (spa n : Nat) : SameRegs s (s.wroteLine spa n) := by
  unfold State.wroteLine; split <;> exact ⟨rfl, rfl⟩

@[simp] theorem State.cacheRead_regs (s : State) (spa n fn hint : Nat) : SameRegs s (s.cacheRead spa n fn hint) := by
  refine sameRegs_foldl (fun t p => ?_) _ s
  split
  · exact t.updCache_regs _ _ _
  · exact ⟨rfl, rfl⟩
  · exact ⟨rfl, rfl⟩

@[simp] theorem State.cacheWrite_regs (s : State) (spa n fn hint : Nat) : SameRegs s (s.cacheWrite spa n fn hint) := by
  simp [State.cacheWrite]

theorem State.stackWrite_regs (s : State) (spa n fn hint : Nat) : OptSameRegs s (s.stackWrite spa n fn hint) := by
  refine optSameRegs_foldl (fun t p u hu => ?_) _ s
  obtain ⟨d, -, rfl⟩ := Option.map_eq_some_iff.mp hu
  simp

@[simp] theorem State.walkTouch_regs (s : State) (fn va : Nat) : SameRegs s (s.walkTouch fn va) := by
  unfold State.walkTouch
  dsimp only
  split
  · exact ⟨rfl, rfl⟩
  · split <;> simp

@[simp] theorem State.countHostLine_regs (s : State) (ag : Agent) (wr : Bool) (va : Nat) :
    SameRegs s (s.countHostLine ag wr va) := by
  unfold State.countHostLine
  dsimp only
  split
  · exact (State.record_regs _ _ _ :)
  · exact ⟨rfl, rfl⟩

/-! Writes of the store buffers and of the trace rings. -/

theorem State.writeLoc_regs (s : State) (ag : Agent) (va : Nat) (l : Loc) (bs : List Byte) :
    SameRegs s (s.writeLoc ag va l bs).left := by
  unfold State.writeLoc
  split
  · split
    · next s1 hs => exact s.stackWrite_regs _ _ _ _ s1 hs
    · exact ⟨rfl, rfl⟩
  · simp [Acc.left]
  · split
    · exact ⟨rfl, rfl⟩
    · split
      · next s1 hs => exact s.sendMsg_regs _ _ _ s1 hs
      · exact ⟨rfl, rfl⟩
      · exact ⟨rfl, rfl⟩

theorem State.drainEntry_regs (s : State) (ag : Agent) (k : Nat) (e : SbEntry) : SameRegs s (s.drainEntry ag k e).left :=
  sameRegs_accEach (fun _ t => sameRegs_bind (t.writeLoc_regs _ _ _ _) (fun _ _ => ⟨rfl, rfl⟩)) _ s

theorem State.writeTrusted_regs (s : State) (fn va : Nat) (bs : List Byte) : OptSameRegs s (s.writeTrusted fn va bs) := by
  refine optSameRegs_foldl (fun t p => ?_) _ s
  dsimp only
  split
  · exact optSameRegs_some (by simp)
  · exact optSameRegs_some (by simp)
  · exact optSameRegs_none t

theorem State.traceHead_regs {s : State} {r : TraceRing} {h : Nat} {t : State} (ht : s.traceHead r = some (h, t)) :
    SameRegs s t := by
  unfold State.traceHead at ht
  dsimp only at ht
  split at ht
  · cases ht
    simp
  · obtain ⟨bs, -, hb⟩ := Option.map_eq_some_iff.mp ht
    cases hb
    simp
  · exact nomatch ht

@[simp] theorem State.setRing_regs (s : State) (die : Nat) (r : TraceRing) : SameRegs s (s.setRing die r) := ⟨rfl, rfl⟩

@[simp] theorem State.dropRecord_regs (s : State) (die : Nat) (r : TraceRing) : SameRegs s (s.dropRecord die r) := by
  unfold State.dropRecord
  exact (sameRegs_getD (s.writeTrusted_regs _ _ _)).trans (State.setRing_regs _ _ _)

@[simp] theorem State.traceTo_regs (s : State) (die : Nat) (r : TraceRing) (record : List Byte) :
    SameRegs s (s.traceTo die r record) := by
  unfold State.traceTo
  dsimp only
  split
  · exact s.dropRecord_regs die r
  · next h t ht =>
    refine (State.traceHead_regs ht).trans ?_
    split
    · exact t.dropRecord_regs die r
    · split
      · exact t.dropRecord_regs die r
      · next t1 h1 =>
        split
        · exact t.dropRecord_regs die r
        · next t2 h2 =>
          exact ((t.writeTrusted_regs _ _ _ t1 h1).trans (t1.writeTrusted_regs _ _ _ t2 h2)).trans (t2.setRing_regs _ _)

@[simp] theorem State.trace_regs (s : State) (die fn code : Nat) (core : Option Nat) (ctx queue seq data : Nat) :
    SameRegs s (s.trace die fn code core ctx queue seq data) := by
  simp [State.trace]

/-! Ligature operations that end (R302, R327). -/

@[simp] theorem State.sendOwed_regs (s : State) (gi : Nat) : SameRegs s (s.sendOwed gi) := by
  unfold State.sendOwed
  refine (sameRegs_foldl (fun t m => ?_) _ _ :)
  split
  · next t1 h1 => exact t.sendMsg_regs _ _ _ t1 h1
  · exact ⟨rfl, rfl⟩
  · exact ⟨rfl, rfl⟩

@[simp] theorem State.ligControl_regs (s : State) (o : LigOp) (ltype : Nat) : SameRegs s (s.ligControl o ltype) := by
  simp [State.ligControl]

@[simp] theorem State.ligClose_regs (s : State) (o : LigOp) (status detail : Nat) :
    SameRegs s (s.ligClose o status detail) := by
  unfold State.ligClose
  dsimp only
  split
  · simp
  · split <;> simp

@[simp] theorem State.ligLost_regs (s : State) (o : LigOp) (rank : Nat) : SameRegs s (s.ligLost o rank) := by
  simp [State.ligLost]

@[simp] theorem State.ligAborted_regs (s : State) (gi opseq rank : Nat) : SameRegs s (s.ligAborted gi opseq rank) := by
  simp [State.ligAborted]

@[simp] theorem State.ligEnd_regs (s : State) (o : LigOp) (status detail : Nat) : SameRegs s (s.ligEnd o status detail) := by
  have hstart : SameRegs s (if status = 2 ∨ status = 7 then
      s.withdrawIf (fun _ e => e == some (.ligature o.group o.die)) else s) := by
    split <;> exact ⟨rfl, rfl⟩
  unfold State.ligEnd
  dsimp only
  split
  · simp
  · generalize (if status = 2 ∨ status = 7 then _ else s) = s0 at hstart ⊢
    refine hstart.trans ?_
    split <;> simp

/-! Contexts, transfers and commands that stop (R245). -/

@[simp] theorem State.launchEnd_regs (s : State) (r : CmdRef) : SameRegs s (s.launchEnd r) := by
  unfold State.launchEnd
  dsimp only
  split
  · exact ⟨rfl, rfl⟩
  · split <;> simp

@[simp] theorem State.goIdle_regs (s : State) (c : CtxRef) (code : BitVec 16) (reported : Bool) :
    SameRegs s (s.goIdle c code reported) := by
  unfold State.goIdle
  dsimp only
  split <;> simp

@[simp] theorem State.stopCtx_regs (s : State) (c : CtxRef) : SameRegs s (s.stopCtx c) := ⟨rfl, rfl⟩

@[simp] theorem State.stopXfers_regs (s : State) (r : CmdRef) (ctxs : List CtxRef) : SameRegs s (s.stopXfers r ctxs) := by
  simp [State.stopXfers]

@[simp] theorem State.endCommand_regs (s : State) (r : CmdRef) (status detail : Nat) :
    SameRegs s (s.endCommand r status detail) := by
  unfold State.endCommand
  dsimp only
  split
  · exact ⟨rfl, rfl⟩
  · split <;> simp

@[simp] theorem State.peerLost_regs (s : State) (r : Option CmdRef) (reason : Nat) : SameRegs s (s.peerLost r reason) := by
  unfold State.peerLost; split <;> exact ⟨rfl, rfl⟩

@[simp] theorem State.haltCtx_regs (s : State) (x : CtxRef) : SameRegs s (s.haltCtx x) := by
  unfold State.haltCtx; split <;> exact ⟨rfl, rfl⟩

@[simp] theorem State.settleCtx_regs (s : State) (x : CtxRef) : SameRegs s (s.settleCtx x) := by
  unfold State.settleCtx
  dsimp only
  split <;> simp

@[simp] theorem State.graceOver_regs (s : State) (c : Cmd) : SameRegs s (s.graceOver c) := by
  simp [State.graceOver]

/-! Cancelled commands (R244, R245). -/

/-- The contexts of a cancelled LAUNCH get CPEND, but for those that are idle. -/
@[simp] theorem State.pendCtxs_regs (s : State) (l : List CtxRef) :
    SameRegs s (l.foldl (fun s x => if (s.ctxOf x).mode = .idle then s else s.updCtxOf x (fun y => { y with cpend := true })) s) :=
  sameRegs_foldl (fun u x => by split <;> exact ⟨rfl, rfl⟩) l s

@[simp] theorem State.cancelLaunch_regs (s : State) (c : Cmd) (grace : Bool) : SameRegs s (s.cancelLaunch c grace) := by
  unfold State.cancelLaunch
  dsimp only
  split
  · simp
  · split <;> simp

theorem State.cancelFeed_regs (s : State) (c : Cmd) : OptSameRegs s (s.cancelFeed c) := by
  unfold State.cancelFeed
  dsimp only
  split
  · exact optSameRegs_none s
  · split
    · exact optSameRegs_none s
    · exact optSameRegs_some ⟨rfl, rfl⟩

theorem State.cancelColl_regs (s : State) (c : Cmd) : OptSameRegs s (s.cancelColl c) := by
  unfold State.cancelColl
  split
  · exact optSameRegs_none s
  · split
    · exact optSameRegs_none s
    · exact optSameRegs_some (s.ligEnd_regs _ _ _)

theorem State.cancelTarget_regs (s : State) (c : Cmd) (grace : Bool) : OptSameRegs s (s.cancelTarget c grace) := by
  unfold State.cancelTarget
  split
  · split
    · next s1 h1 => exact optSameRegs_some (s.cancelColl_regs c s1 h1)
    · exact optSameRegs_some ⟨rfl, rfl⟩
  · split
    · exact optSameRegs_some (s.endCommand_regs _ _ _)
    · split
      · exact optSameRegs_some (s.cancelLaunch_regs _ _)
      · split
        · exact s.cancelFeed_regs c
        · split
          · exact s.cancelColl_regs c
          · exact optSameRegs_none s

/-! Resets of functions (R264). -/

theorem State.drainLeft_regs (r : CmdRef) (x : CtxRef) (n : Nat) (s : State) : OptSameRegs s (State.drainLeft r x n s) := by
  induction n generalizing s with
  | zero => exact optSameRegs_some ⟨rfl, rfl⟩
  | succ n ih =>
    unfold State.drainLeft
    dsimp only
    split
    · exact optSameRegs_some ⟨rfl, rfl⟩
    · next e he =>
      have hd := s.drainEntry_regs { s.ctxAgent x with cmd := some r } x.key e
      split
      · next u h1 =>
        rw [h1] at hd
        exact fun t ht => SameRegs.trans (t := u) hd (by simpa using ih _ t ht)
      · next reason u h1 =>
        rw [h1] at hd
        exact fun t ht => SameRegs.trans (t := u) hd (by simpa using ih _ t ht)
      · exact optSameRegs_none s

theorem State.drainCmd_regs (s : State) (c : Cmd) : OptSameRegs s (s.drainCmd c) :=
  optSameRegs_foldl (fun t _ => State.drainLeft_regs _ _ _ t) _ s

@[simp] theorem State.resetBegin_regs (s : State) (n : Nat) : SameRegs s (s.resetBegin n) := by
  have hcancel (t : State) (c : Cmd) := sameRegs_getD (t.cancelTarget_regs c false)
  simp [State.resetBegin, hcancel]

@[simp] theorem State.resetDrop_regs (s : State) (c : Cmd) : SameRegs s (s.resetDrop c) := by
  unfold State.resetDrop
  split
  · exact ⟨rfl, rfl⟩
  · split
    · exact ⟨rfl, rfl⟩
    · next s1 h1 => split <;> exact s.drainCmd_regs c s1 h1

@[simp] theorem State.clearCore_regs (s : State) (k : Nat) : SameRegs s (s.clearCore k) := ⟨rfl, rfl⟩

@[simp] theorem State.releaseFrame_regs (s : State) (key : Nat) : SameRegs s (s.releaseFrame key) := ⟨rfl, rfl⟩

@[simp] theorem State.dropTable_regs (s : State) (n : Nat) (new : Option Nat) : SameRegs s (s.dropTable n new) := by
  unfold State.dropTable
  dsimp only
  split <;> exact ⟨rfl, rfl⟩

@[simp] theorem State.dropTlb_regs (s : State) (n : Nat) : SameRegs s (s.dropTlb n) := ⟨rfl, rfl⟩

@[simp] theorem State.resetEnd_regs (s : State) (n : Nat) : SameRegs s (s.resetEnd n) := by
  unfold State.resetEnd
  dsimp only
  split <;> simp

@[simp] theorem State.resetOn_regs (s : State) (n : Nat) : SameRegs s (s.resetOn n) := by
  unfold State.resetOn
  dsimp only
  split <;> simp

@[simp] theorem State.flr_regs (s : State) (n : Nat) : SameRegs s (s.flr n) := by
  unfold State.flr
  dsimp only
  split <;> simp

theorem State.linkDown_regs (s : State) (h : Nat) : SameRegs s (s.linkDown h) := by
  unfold State.linkDown
  dsimp only
  split <;> simp

/-- A host link that is lost is down (R258). -/
theorem State.linkDown_link (s : State) (h : Nat) : ((s.linkDown h).link h).up = false := by
  have hup : (((s.flr h).updLink h (fun l => { l with up := false, training := false, reads := [] })).link h).up = false := by
    rw [State.link_updLink_same]
  unfold State.linkDown
  dsimp only
  split
  · exact hup
  · exact hup

end Sys2Proof.Machine
end

section
/-! SUPPORT. The commands of replay, map-out and module failure (R340, R345 to R348). -/

namespace Sys2Proof.Machine

open Sys2Proof.Claims

/-- What every command sees of a failure of the module that starts from `u`, where `u` has the memory and commands of `s`. -/
theorem State.failModule_seen {s u : State} (hf : u.mod.failed = false) (hmem : u.mem = s.mem) (hcmds : u.cmds = s.cmds)
    (cause dieA dieB portDie : Nat) (q : CmdRef) (m : Cmd) :
    let t := u.failModule cause dieA dieB portDie
    ModuleDown t cause ∧ SameMem s t ∧ (s.cmd q = some m → t.cmd q = some (m.moduleFailed dieA)) := by
  obtain ⟨hkept, -, -⟩ := State.failModule_frame hf cause dieA dieB portDie
  refine ⟨State.failModule_down hf cause dieA dieB portDie, fun a => by rw [hkept, hmem], fun hq => ?_⟩
  rw [State.failModule_cmd hf, State.cmd, hcmds, ← State.cmd, hq, Option.map_some]

/-- ARMED clears, but stays with FWIN = 0 (R345). -/
theorem armedExpire_next (s : State) {k : CoreRef} (hk : CoreExists k) :
    exec (.armedExpire k) s =
      .next (if s.mod.fwin = 0 then s else s.updCore k.key (fun c => { c with armed := false })) := by
  rw [exec_armedExpire, execArmedExpire, onCore_next _ hk]

/-- A failed link between two neighbours fails the module (R18, R347). -/
theorem exec_dieLinkFailure_linked {s : State} {a b : BitVec 5} {ring : Bool} (hd : s.diesRun = true)
    (hl : if ring then ringLink a.toNat b.toNat = true else meshLink a.toNat b.toNat = true) :
    exec (.dieLinkFailure a b ring) s = .next (s.failModule 2 (if ring then min a.toNat b.toNat else a.toNat)
      (if ring then max a.toNat b.toNat else b.toNat) 0) := by
  cases ring with
  | true => simp_all [execDieLinkFailure]
  | false => simp_all [execDieLinkFailure]

theorem exec_dieLinkFailure_idle {s : State} {a b : BitVec 5} {ring : Bool} (h : s.diesRun = false ∨ s.mod.failed = true ∨
    ¬ (if ring then ringLink a.toNat b.toNat = true else meshLink a.toNat b.toNat = true)) :
    exec (.dieLinkFailure a b ring) s = .next s := by
  have hf (h : s.mod.failed = true) := State.failModule_of_failed h
  rcases h with h | h | h
  · simp [execDieLinkFailure, h]
  · simp [execDieLinkFailure, hf h]
  · cases ring <;> simp_all [execDieLinkFailure]

/-- A failed port die fails the module (R347). -/
theorem exec_uncorrectableInternalError_portDie {s : State} (hd : s.diesRun = true) (p : BitVec 2) :
    exec (.uncorrectableInternalError (.portDie p)) s = .next (s.failModule 3 0 0 p.toNat) := by
  simp [execUncorrectableInternalError, hd]

/-- A failed scribe fails the module (R347). -/
theorem exec_uncorrectableInternalError_scribe {s : State} (hd : s.diesRun = true) (i : BitVec 5) :
    exec (.uncorrectableInternalError (.scribe i)) s = .next (s.failModule 5 i.toNat 0 0) := by
  simp [execUncorrectableInternalError, hd]

/-- A host link that fails and was down reports ERR_FATAL and fails the module (R263, R347). -/
theorem exec_uncorrectableInternalError_linkDown {s : State} {l : BitVec 2} (hd : s.diesRun = true)
    (hup : (s.link l.toNat).up = false) :
    exec (.uncorrectableInternalError (.hostLink l)) s = .next ((s.aerLog l.toNat 3).failModule 4 0 0 (l.toNat / 2)) := by
  simp [execUncorrectableInternalError, hd, hup]

/-- A host link that fails and was up is lost too (R263, R347). -/
theorem exec_uncorrectableInternalError_linkUp {s : State} {l : BitVec 2} (hd : s.diesRun = true)
    (hup : (s.link l.toNat).up = true) :
    exec (.uncorrectableInternalError (.hostLink l)) s =
      .next (((s.aerLog l.toNat 3).linkDown l.toNat).failModule 4 0 0 (l.toNat / 2)) := by
  simp [execUncorrectableInternalError, hd, hup]

theorem exec_uncorrectableInternalError_idle {s : State} {src : FailSource} (hd : s.diesRun = false) :
    exec (.uncorrectableInternalError src) s = .next s := by
  simp [execUncorrectableInternalError, hd]

/-- A command whose writes have not settled waits (R340). -/
theorem exec_replayRestart_unsettled {s : State} {r : CmdRef} {c : Cmd} {w : Bool} (hc : s.cmd r = some c)
    (hp : c.phase = .replay w) (hs : s.settled c w = false) : exec (.replayRestart r) s = .next s := by
  simp [execReplayRestart, hc, hp, hs]

theorem exec_replayRestart_settled {s : State} {r : CmdRef} {c : Cmd} {w : Bool} (hc : s.cmd r = some c)
    (hp : c.phase = .replay w) (hs : s.settled c w = true) (hctx : c.ctxs = []) :
    exec (.replayRestart r) s = .next (s.restart r c) := by
  simp [execReplayRestart, hc, hp, hs, hctx, accEach]

end Sys2Proof.Machine

namespace Sys2Proof.Claims

open Sys2Proof.Machine

/-- Settles O58: the restart is `State.restart_eq`, the map-out `State.mapOut_core` and `State.mapOut_die`; each failure is
`State.failModule_seen`, after the loss of a host link by `State.linkDown_regs`, which leaves the module's registers. -/
theorem replayAndFailureComplete : Obligations.ReplayAndFailureComplete := by
  unfold Obligations.ReplayAndFailureComplete
  intro s r c die a b ring core src q m
  dsimp only
  refine ⟨fun w hc hp hs hctx hx ho ht => ?restarts, fun w hc hp hs => ⟨_, exec_replayRestart_unsettled hc hp hs, rfl⟩,
    fun hmap ht => ?mapOut, fun hmap => ⟨_, congrArg Host.Outcome.next (if_neg (by simp [hmap])), rfl⟩,
    fun hk hw => ?armed, fun hk hw => ?armedKept, fun hd hf hl => ?dieLink, fun hd hf hup => ?internal,
    fun l hd hf hsrc hup => ?hostLink, fun h => ⟨_, exec_dieLinkFailure_idle h, rfl⟩, fun hd => ?notRunning⟩
  case restarts =>
    refine ⟨_, (exec_replayRestart_settled hc hp hs hctx).trans (congrArg _ (State.restart_eq hctx hx ho ht)), ?_⟩
    have hrows := (s.dropScoped r).repairRows_row c.repair
    have hframe := (s.dropScoped r).repairRows_eq c.repair
    generalize (s.dropScoped r).repairRows c.repair = u at hrows hframe ⊢
    have hcmd (i : CmdRef) : u.cmd i = s.cmd i := by rw [hframe]; rfl
    have href (x : Cmd) : (x.restarted (c.attempts + 1)).ref = x.ref := rfl
    refine ⟨?_, fun p hp => (hrows p.1 p.2).trans (if_pos hp), fun i => ?_, fun i hi => ?_⟩
    · exact (State.cmd_updCmd_same u r href).trans (by rw [hcmd, hc]; rfl)
    · rw [State.countDie, State.updDie_mem, State.updCmd_mem, hframe]
      rfl
    · exact (State.cmd_updCmd_ne u hi href).trans (hcmd i)
  case mapOut =>
    obtain ⟨hmem, -, -⟩ := State.mapOut_frame ht
    have hcore := (State.mapOut_core ht (coreKey die.toNat (s.die die.toNat).spareCore)).trans (if_pos rfl)
    refine ⟨_, congrArg Host.Outcome.next (if_pos hmap), fun i => by rw [hmem], State.mapOut_die ht, ?_⟩
    simp only [State.ctx, hcore]
    refine ⟨rfl, rfl, rfl, rfl, rfl, rfl, rfl, fun j hj => ?_, fun i hi => ?_⟩
    · rw [Core.spare_ctx _ _ _ _ hj]
      exact ⟨rfl, rfl, rfl⟩
    · rw [State.mapOut_core ht, if_neg hi.symm]
  case armed =>
    refine ⟨_, (armedExpire_next s hk).trans (congrArg _ (if_neg hw)), ⟨rfl, fun _ => rfl, fun i hi => ?_, fun j => ?_⟩, ?_⟩
    · exact State.core_updCore_ne _ _ _ _ hi.symm
    · simp only [State.ctx, State.core_updCore_same]
      rfl
    · exact State.core_updCore_same _ _ _
  case armedKept => exact ⟨_, (armedExpire_next s hk).trans (congrArg _ (if_pos hw)), rfl⟩
  case dieLink =>
    exact ⟨_, exec_dieLinkFailure_linked hd hl, State.failModule_seen hf rfl rfl _ _ _ _ q m⟩
  case internal =>
    cases src with
    | portDie p =>
      exact ⟨_, exec_uncorrectableInternalError_portDie hd p, State.failModule_seen hf rfl rfl _ _ _ _ q m⟩
    | hostLink l =>
      exact ⟨_, exec_uncorrectableInternalError_linkDown hd (hup l rfl),
        State.failModule_seen (s := s) (u := s.aerLog l.toNat 3) hf rfl rfl _ _ _ _ q m⟩
    | scribe i =>
      exact ⟨_, exec_uncorrectableInternalError_scribe hd i, State.failModule_seen hf rfl rfl _ _ _ _ q m⟩
  case hostLink =>
    subst hsrc
    obtain ⟨hmod, haer⟩ := State.linkDown_regs (s.aerLog l.toNat 3) l.toNat
    have hf' : ((s.aerLog l.toNat 3).linkDown l.toNat).mod.failed = false := by rw [hmod]; exact hf
    obtain ⟨-, hlinks, haer'⟩ := State.failModule_frame hf' 4 0 0 (l.toNat / 2)
    refine ⟨_, exec_uncorrectableInternalError_linkUp hd hup, State.failModule_down hf' _ _ _ _, ?_, ?_⟩
    · rw [State.link, hlinks]
      exact State.linkDown_link (s.aerLog l.toNat 3) l.toNat
    · rw [haer', haer]
      exact SMap.get_set_same _ _ _ _
  case notRunning => exact ⟨_, exec_uncorrectableInternalError_idle hd, rfl⟩

end Sys2Proof.Claims
end

section
/-! SUPPORT. The values of the narrow formats (R31, R32, R55) and the codes that conversions into INT8 give (R41, R43). -/

namespace Sys2Proof.Machine

/-- The significand of an FP4 code without its sign: the fraction, with the leading 1 of a normal number (R31). -/
def fp4Mag (n : Nat) : Nat := if n < 2 then n else 2 + n % 2

/-- The exponent of that significand: codes 0 to 3 count halves (R31). -/
def fp4Exp (n : Nat) : Int := ((n / 2 - 1 : Nat) : Int) - 1

/-- An FP4 code and its negative have the same significand and exponent. -/
theorem Fmt.fp4_decode {n : Nat} (h : n < 8) : Fmt.fp4.decode n = .fin false (fp4Mag n) (fp4Exp n) ∧
    Fmt.fp4.decode (n + 8) = .fin true (fp4Mag n) (fp4Exp n) := by
  revert n; decide

/-- The eight magnitudes of FP4, in halves. -/
theorem fp4_magnitudes {n : Nat} (h : n < 8) :
    [0, 1, 2, 3, 4, 6, 8, 12][n]? = some (fp4Mag n * 2 ^ (fp4Exp n + 1).toNat) := by
  revert n; decide

/-- A two's-complement code of `w` bits as a value. -/
theorem FVal.ofInt_toInt {w n : Nat} (hw : 0 < w) (h : n < 2 ^ w) : FVal.ofInt (BitVec.ofNat w n).toInt =
    if n < 2 ^ (w - 1) then .fin false n 0 else .fin true (2 ^ w - n) 0 := by
  have hpow : 2 ^ w = 2 * 2 ^ (w - 1) := by rw [← Nat.pow_succ', Nat.succ_eq_add_one, Nat.sub_add_cancel hw]
  rw [BitVec.toInt_eq_toNat_cond, BitVec.toNat_ofNat, Nat.mod_eq_of_lt h]
  by_cases hn : n < 2 ^ (w - 1)
  · rw [if_pos (by omega), if_pos hn]
    simp [FVal.ofInt]
  · rw [if_neg (by omega), if_neg hn]
    have hneg : (n : Int) - ((2 ^ w : Nat) : Int) < 0 := by omega
    have habs : ((n : Int) - ((2 ^ w : Nat) : Int)).natAbs = 2 ^ w - n := by omega
    rw [FVal.ofInt, habs, decide_eq_true hneg]

/-- An integer format reads its codes in two's complement. -/
theorem Fmt.decode_int {f : Fmt} (hf : f.isInt = true) (n : Nat) : f.decode n = FVal.ofInt (BitVec.ofNat f.width n).toInt := by
  rw [Fmt.decode, if_pos hf]

/-- A code of INT8 that conversions give: of a magnitude of at most 127, or of its negative. -/
def Int8Code (bits : Nat) : Prop := ∃ n ≤ 127, bits = n ∨ bits = (256 - n) % 256

theorem int8Code_signed {neg : Bool} {n : Nat} (h : n ≤ 127) : Int8Code (if neg then (256 - n) % 256 else n) := by
  refine ⟨n, h, ?_⟩
  cases neg
  · exact .inl rfl
  · exact .inr rfl

/-- Conversions into INT8 saturate at 127 and −127 (R41). -/
theorem convInt_int8 (mode : RMode) (neg : Bool) (m : Nat) (e : Int) : Int8Code (convInt .int8 mode neg m e).bits := by
  have hlim : (if neg && Fmt.int8 != .int8 then Fmt.int8.maxCode + 1 else Fmt.int8.maxCode) = 127 := by
    rw [bne_self_eq_false, Bool.and_false]; rfl
  simp only [convInt, hlim]
  split
  · exact int8Code_signed (Nat.le_refl _)
  · exact int8Code_signed (by omega)

theorem convert_int8 (ovf : Bool) (mode : RMode) (v : FVal) : Int8Code (convert .int8 ovf mode v).bits := by
  cases v with
  | nan neg quiet => exact ⟨0, by decide, .inl rfl⟩
  | inf neg =>
    cases neg
    · exact ⟨127, Nat.le_refl _, .inl rfl⟩
    · exact ⟨127, Nat.le_refl _, .inr rfl⟩
  | fin neg m e => exact convInt_int8 mode neg m e

/-- The code 0x80 is none of them, and all of them are bytes. -/
theorem Int8Code.ne_min {bits : Nat} (h : Int8Code bits) : bits ≠ 0x80 ∧ bits < 2 ^ 8 := by
  obtain ⟨n, hn, hb⟩ := h
  omega

/-- The cells read an INT8 element 0x80 as −127 (R55). -/
theorem Core.cellVal_int8_min {k : Core} {o : OpDesc} {w : FmtWord} {base blk r i : Nat} (hw : w.fmt = .int8)
    (hb : k.elemBits o w.fmt base blk r i = 0x80) (obase : Nat) : k.cellVal o w base obase blk r i = .fin true 127 0 := by
  rw [hw] at hb
  simp only [Core.cellVal, hw, hb, beq_self_eq_true, Bool.and_self, if_true]
  rfl

end Sys2Proof.Machine

namespace Sys2Proof.Claims

open Sys2Proof.Machine

/-- Settles O11: FP4 by its two sets of eight codes, the integer formats by two's complement at their width, and the codes of
INT8 by what its conversions can give. -/
theorem narrowFormatValues : Obligations.NarrowFormatValues := by
  unfold Obligations.NarrowFormatValues
  refine ⟨fun n hn => ?fp4, fun f hf n hn => ?integers, fun w fine draw v hw _ => ?conversion,
    fun k o w base obase blk r i hw hb => Core.cellVal_int8_min hw hb obase⟩
  case fp4 =>
    obtain ⟨hpos, hneg⟩ := Fmt.fp4_decode hn
    exact ⟨_, _, hpos, hneg, by unfold fp4Exp; omega, fp4_magnitudes hn⟩
  case integers =>
    have hints : ∀ g ∈ [Fmt.int8, .int32, .int64], g.isInt = true ∧ 0 < g.width := by decide
    obtain ⟨hint, hpos⟩ := hints f hf
    rw [Fmt.decode_int hint, FVal.ofInt_toInt hpos hn]
  case conversion =>
    rw [FmtWord.store, hw]
    exact (convert_int8 _ _ _).ne_min

end Sys2Proof.Claims
end

section
/-! SUPPORT. Elements among the bytes and rows that hold them (R33): the bits of a little-endian number, the fields of packed
elements, and the inkwell row that whole bytes replace (R165). -/

namespace Sys2Proof.Machine

theorem testBit_leNat (bs : List Byte) (j : Nat) : (leNat bs).testBit j = (bs.getD (j / 8) 0).getLsbD (j % 8) := by
  induction bs generalizing j with
  | nil => simp [leNat]
  | cons b bs ih =>
    have hsplit : leNat (b :: bs) = 2 ^ 8 * leNat bs + b.toNat := Nat.add_comm _ _
    rw [hsplit, Nat.testBit_two_pow_mul_add _ b.isLt]
    split
    · rw [Nat.div_eq_of_lt ‹_›, Nat.mod_eq_of_lt ‹_›]
      rfl
    · obtain ⟨m, rfl⟩ : ∃ m, j = m + 8 := ⟨j - 8, by omega⟩
      rw [Nat.add_sub_cancel, ih, Nat.add_mod_right, Nat.add_div_right _ (by decide)]
      rfl

/-- An element of a width that divides a row lies within one row. -/
theorem dvd_mod_add_le {w p n : Nat} (hw : w ∣ n) (hp : w ∣ p) (hn : 0 < n) : p % n + w ≤ n := by
  have hlt := Nat.mod_lt p hn
  have hle : w ≤ n - p % n := Nat.le_of_dvd (by omega) (Nat.dvd_sub hw ((Nat.dvd_mod_iff hw).mpr hp))
  omega

/-- An element of a width that divides a row, read from the bytes of consecutive rows, is the field of its row. -/
theorem leNat_rows_field (row : Nat → BitVec 4096) {w i n : Nat} (hw : w ∣ 4096) (hi : w * i + w ≤ 8 * n) :
    leNat ((List.range n).map (fun j => (row (j / 512)).extractLsb' (8 * (j % 512)) 8)) / 2 ^ (w * i) % 2 ^ w =
      fld (row (w * i / 4096)) (w * i % 4096) w := by
  have hrow := dvd_mod_add_le hw (Nat.dvd_mul_right w i) (by decide)
  refine Nat.eq_of_testBit_eq fun b => ?_
  rw [fld, Nat.testBit_mod_two_pow, Nat.testBit_mod_two_pow, Nat.testBit_div_two_pow, Nat.testBit_shiftRight, testBit_leNat,
    BitVec.testBit_toNat]
  by_cases hb : b < w
  · have hbyte : (b + w * i) / 8 < n := by omega
    have hq : (b + w * i) / 8 / 512 = w * i / 4096 := by omega
    have hbit : 8 * ((b + w * i) / 8 % 512) + (b + w * i) % 8 = w * i % 4096 + b := by omega
    have hlt : (b + w * i) % 8 < 8 := by omega
    simp [List.getD_eq_getElem?_getD, hbyte, hq, hbit, hlt]
  · simp [hb]

theorem getD_range_map (g : Nat → Nat) {n i : Nat} (h : i < n) : ((List.range n).map g).getD i 0 = g i := by
  simp [List.getD_eq_getElem?_getD, h]

theorem packNat_cons (w e : Nat) (l : List Nat) : packNat w (e :: l) = packNat w l * 2 ^ w + e % 2 ^ w := rfl

theorem packNat_lt (w : Nat) (l : List Nat) : packNat w l < 2 ^ (w * l.length) := by
  induction l with
  | nil => simp [packNat]
  | cons e l ih =>
    have he : e % 2 ^ w < 2 ^ w := Nat.mod_lt _ (Nat.two_pow_pos w)
    rw [packNat_cons, List.length_cons, Nat.mul_succ, Nat.pow_add]
    calc packNat w l * 2 ^ w + e % 2 ^ w < (packNat w l + 1) * 2 ^ w := by rw [Nat.succ_mul]; omega
      _ ≤ 2 ^ (w * l.length) * 2 ^ w := Nat.mul_le_mul_right _ ih

/-- Element i of packed elements. -/
theorem packNat_field (w : Nat) (l : List Nat) (i : Nat) : packNat w l >>> (w * i) % 2 ^ w = l.getD i 0 % 2 ^ w := by
  induction l generalizing i with
  | nil => simp [packNat]
  | cons e l ih =>
    have he : e % 2 ^ w < 2 ^ w := Nat.mod_lt _ (Nat.two_pow_pos w)
    rw [packNat_cons]
    cases i with
    | zero => simp
    | succ i =>
      have hrest : (packNat w l * 2 ^ w + e % 2 ^ w) / 2 ^ w = packNat w l := by
        rw [Nat.mul_comm, Nat.mul_add_div (Nat.two_pow_pos w), Nat.div_eq_of_lt he, Nat.add_zero]
      rw [Nat.mul_succ, Nat.add_comm (w * i), Nat.shiftRight_add, Nat.shiftRight_eq_div_pow _ w, hrest, ih]
      rfl

/-- Packed elements that fill whole bytes are what those bytes hold. -/
theorem leNat_leBytes_packNat {w n : Nat} {l : List Nat} (h : w * l.length = 8 * n) :
    leNat (leBytes n (packNat w l)) = packNat w l := by
  have hlt := packNat_lt w l
  rw [h, Nat.pow_mul] at hlt
  rw [leNat_leBytes]
  exact Nat.mod_eq_of_lt hlt

/-- A vector of packed elements that fill it holds each of them. -/
theorem fld_packed {w n : Nat} {l : List Nat} (h : w * l.length = n) (i : Nat) :
    fld (BitVec.ofNat n (packNat w l)) (w * i) w = l.getD i 0 % 2 ^ w := by
  have hlt := packNat_lt w l
  rw [h] at hlt
  rw [fld, BitVec.toNat_ofNat, Nat.mod_eq_of_lt hlt, packNat_field]

/-- The elements of an inkwell row are its fields. -/
theorem elem_setWidth (v : BitVec 4096) (w i : Nat) : Claims.elem (v.setWidth 16384) w i = fld v (w * i) w := by
  rw [Claims.elem, fld, fld, BitVec.toNat_setWidth_of_le (by decide)]

theorem ofNat_two_pow_sub_one {m w : Nat} (h : m = w) : BitVec.ofNat w (2 ^ m - 1) = BitVec.allOnes w := by
  subst h
  refine BitVec.eq_of_toNat_eq ?_
  rw [BitVec.toNat_ofNat, BitVec.toNat_allOnes]
  exact Nat.mod_eq_of_lt (Nat.sub_lt (Nat.two_pow_pos m) Nat.one_pos)

/-- The mask of the first bytes of a row. -/
theorem bytesMask_zero (n : Nat) : bytesMask 0 n = BitVec.ofNat 4096 (2 ^ (8 * n) - 1) := by
  rw [bytesMask, Nat.mul_zero, Nat.pow_zero, Nat.mul_one]

/-- The mask of all the bytes of a row. -/
theorem bytesMask_row {n : Nat} (h : 8 * n = 4096) : bytesMask 0 n = BitVec.allOnes 4096 :=
  (bytesMask_zero n).trans (ofNat_two_pow_sub_one h)

/-- The bytes of a whole row replace it. -/
theorem Core.putInkBytes_row (k : Core) (base : Nat) {bs : List Byte} (h : bs.length = 512) :
    k.putInkBytes base 0 bs = k.putRow base (BitVec.ofNat 4096 (leNat bs)) := by
  have hrows : spanList (0 / 512) ((0 + 512 - 1) / 512) = [0] := rfl
  have htake : bs.take 512 = bs := List.take_of_length_le (Nat.le_of_eq h)
  simp only [Core.putInkBytes, h, hrows, List.foldl_cons, List.foldl_nil]
  simp [Core.mergeInRow, bytesMask_row (n := 512) rfl, htake]

end Sys2Proof.Machine
end

section
/-! SUPPORT. A transfer of a command as the state holds it, and what its steps keep of the inkwell rows (R172, R235, R249). -/

namespace Sys2Proof.Machine

theorem State.xfer_cmd_of_cmds {s t : State} (h : t.cmds = s.cmds) (r : CmdRef) : t.xfer (.cmd r) = s.xfer (.cmd r) := by
  simp only [State.xfer, State.cmd, h]

/-- A transfer that a command has is the one put in its place. -/
theorem State.xfer_putXfer {s : State} {r : CmdRef} {x : Xfer} (h : s.xfer (.cmd r) = some x) (y : Xfer) :
    (s.putXfer (.cmd r) y).xfer (.cmd r) = some y := by
  obtain ⟨c, hc, hx⟩ := Option.bind_eq_some_iff.mp h
  have hst : c.isStarted = true := by
    cases hc' : c.isStarted with
    | true => rfl
    | false => rw [hc', if_neg (by decide)] at hx; exact nomatch hx
  have hcmd : (s.putXfer (.cmd r) y).cmd r = some { c with xfer := some y } := by
    refine (State.cmd_updCmd_same s r (f := fun c => { c with xfer := some y }) fun _ => rfl).trans ?_
    rw [hc]
    rfl
  rw [State.xfer, hcmd]
  exact if_pos hst

/-- The rows after one of them is replaced. -/
theorem State.row_updCore_putRow (s : State) (k p i q : Nat) (v : BitVec 4096) :
    ((s.updCore k (fun c => c.putRow p v)).core i).row q = if k = i ∧ p = q then v else (s.core i).row q := by
  rw [State.core_updCore]
  by_cases hk : k = i
  · subst hk
    simp [Core.row_putRow]
  · simp [hk]

/-- Only the cores differ, and they hold the same rows behind the same handles. -/
def SameInk (s t : State) : Prop :=
  t = { s with cores := t.cores } ∧ ∀ k, (t.core k).ink = (s.core k).ink ∧ (t.core k).handles = (s.core k).handles

theorem SameInk.refl (s : State) : SameInk s s := ⟨rfl, fun _ => ⟨rfl, rfl⟩⟩

theorem SameInk.trans {s t u : State} (h : SameInk s t) (g : SameInk t u) : SameInk s u := by
  obtain ⟨hst, hink⟩ := h
  obtain ⟨htu, hink'⟩ := g
  refine ⟨by rw [htu, hst], fun k => ?_⟩
  exact ⟨(hink' k).1.trans (hink k).1, (hink' k).2.trans (hink k).2⟩

theorem SameInk.row {s t : State} (h : SameInk s t) (k p : Nat) : (t.core k).row p = (s.core k).row p := by
  rw [Core.row, Core.row, (h.2 k).1]

theorem SameInk.handle {s t : State} (h : SameInk s t) (k i : Nat) : (t.core k).handle i = (s.core k).handle i := by
  rw [Core.handle, Core.handle, (h.2 k).2]

/-- The correction of single-bit errors changes no row's data: the rows hold the data that the code protects (R172). -/
theorem State.correctRows_ink (s : State) (k : Nat) (rows : List Nat) : SameInk s (s.correctRows k rows) := by
  unfold State.correctRows
  split
  · refine ⟨rfl, fun i => ?_⟩
    rw [State.core_updCore]
    by_cases hi : k = i
    · subst hi
      rw [if_pos rfl]
      unfold Core.correctRows
      dsimp only
      split <;> exact ⟨rfl, rfl⟩
    · rw [if_neg hi]
      exact ⟨rfl, rfl⟩
  · exact .refl s

theorem State.inkFix_ink (s : State) (die : Nat) (l : List (Side × Nat × Nat × Nat)) : SameInk s (s.inkFix die l) := by
  induction l generalizing s with
  | nil => exact .refl s
  | cons a l ih =>
    refine SameInk.trans ?_ (ih _)
    dsimp only
    split
    · exact .refl s
    · exact State.correctRows_ink s _ _

end Sys2Proof.Machine
end

section
/-! SUPPORT. A transfer that moves one row of an inkwell as one line (R38, R39, R244, R249): its elements, what it reads, what
it makes of them, and what it writes. -/

namespace Sys2Proof.Machine

open Sys2Proof.Claims

theorem Fmt.width_cases (f : Fmt) : f.width = 4 ∨ f.width = 8 ∨ f.width = 16 ∨ f.width = 32 ∨ f.width = 64 := by
  cases f <;> decide

theorem Fmt.width_pos (f : Fmt) : 0 < f.width := by cases f <;> decide

theorem Fmt.width_dvd_row (f : Fmt) : f.width ∣ 4096 := by cases f <;> decide

/-- A descriptor of one tile of one row, whose elements fill one inkwell row and have no fine offsets (R247, R248). -/
structure OneRow (f : FeedDesc) : Prop where
  rows : f.rows = 1
  tiles : f.tiles = 1
  kind : f.dkind = 1
  full : f.elems * f.dstSide.width = 4096
  plain : f.dstSide.word.scale ≠ 2

section
variable {f : FeedDesc} (h : OneRow f)
include h

theorem OneRow.elems_pos : 0 < f.elems := by
  refine Nat.pos_of_ne_zero fun h0 => ?_
  have hfull := h.full
  simp [h0] at hfull

theorem OneRow.elems_even : f.elems % 2 = 0 := by
  have hfull := h.full
  rcases f.dstSide.word.fmt.width_cases with hw | hw | hw | hw | hw <;> simp only [Side.width, hw] at hfull <;> omega

theorem OneRow.width_elems : f.dstSide.width * f.elems = 8 * 512 := by rw [Nat.mul_comm, h.full]

/-- The line that starts at its first element is the whole row. -/
theorem OneRow.lineEnd (s : State) (fn : Nat) (op : FeedOp) : s.lineEnd fn f op 0 0 = f.elems := by
  have hkind : f.dstSide.kind = 1 := h.kind
  have hremote (off : Nat) : s.sideRemote fn f.dstSide off = false := by simp [State.sideRemote, hkind]
  have hstop : (4095 + f.dstSide.width) / f.dstSide.width = f.elems := by
    have hfull := h.full
    have hpos : 0 < f.dstSide.width := f.dstSide.word.fmt.width_pos
    exact Nat.div_eq_of_lt_le (by omega) (by rw [Nat.succ_mul]; omega)
  have hround : (f.elems + 1) / 2 * 2 = f.elems := by
    have heven := h.elems_even
    omega
  simp [State.lineEnd, h.kind, hkind, hremote, h.plain, FeedDesc.offsetOf, hstop, hround]

theorem OneRow.rowSpans : rowSpans f.elems (f.elems + 1) 0 f.elems = [(0, 0, f.elems)] := by
  have hpos := h.elems_pos
  cases he : f.elems with
  | zero => omega
  | succ n => simp [Machine.rowSpans]

end

/-- A row of a source in the inkwell is read as its elements, and has no offsets. -/
theorem State.readSpan_ink {s : State} {f : FeedDesc} (ag : Agent) (hk : f.skind = 1) (hs : f.srcSide.word.scale ≠ 2)
    (hpos : 0 < f.elems) :
    s.readSpan ag f 0 (0, 0, f.elems) = .ok [((List.range f.elems).map (sourceElem s ag.die f), [])] s := by
  have hkind : f.srcSide.kind = 1 := hk
  have hbytes : ¬ (f.elems * f.srcSide.width + 7) / 8 = 0 := by
    have hbits : 0 < f.elems * f.srcSide.width := Nat.mul_pos hpos f.srcSide.word.fmt.width_pos
    omega
  simp only [State.readSpan, State.sideRead, hkind, FeedDesc.offsetOf, spanBytes, Nat.zero_mul, Nat.zero_div, Nat.sub_zero,
    Nat.zero_add, hbytes, if_false, Acc.bind]
  simp only [hs, ne_eq, not_false_eq_true, decide_true, Bool.true_or, if_true, Nat.zero_mod, Nat.zero_add]
  refine congrArg (fun codes => Acc.ok [(codes, [])] s) (List.map_congr_left fun i hi => ?_)
  have hfit : f.srcSide.width * i + f.srcSide.width ≤ 8 * ((f.elems * f.srcSide.width + 7) / 8) := by
    have hle : f.srcSide.width * (i + 1) ≤ f.srcSide.width * f.elems := Nat.mul_le_mul_left _ (List.mem_range.mp hi)
    rw [Nat.mul_succ, Nat.mul_comm _ f.elems] at hle
    omega
  exact leNat_rows_field (fun q => (s.core (coreKey ag.die f.score)).row (sideRow s ag.die f.score f.src + q))
    f.srcSide.word.fmt.width_dvd_row hfit

/-- What a transfer reads of its only row: nothing for a fill, and else the elements without offsets. -/
def rowSource (s : State) (die : Nat) (op : FeedOp) (f : FeedDesc) : List Nat × List Nat :=
  if op = .fill then ([], []) else ((List.range f.elems).map (sourceElem s die f), [])

theorem State.readRow {s : State} {f : FeedDesc} {op : FeedOp} (ag : Agent) (hpos : 0 < f.elems)
    (hsrc : op = .fill ∨ (f.skind = 1 ∧ f.srcSide.word.scale ≠ 2)) :
    (if op = .fill then .ok ([(0, 0, f.elems)].map (fun _ => ([], []))) s
      else accCollect (fun sp s => s.readSpan ag f 0 sp) [(0, 0, f.elems)] s) = .ok [rowSource s ag.die op f] s := by
  by_cases hop : op = .fill
  · simp [hop, rowSource]
  · obtain ⟨hk, hs⟩ := hsrc.resolve_left hop
    simp [hop, rowSource, accCollect, State.readSpan_ink ag hk hs hpos, Acc.bind]

theorem foldl_eachElem (f : Nat → Nat × Fx) (l : List Nat) (a : List Nat × Fx) :
    (l.foldl (fun a k => ((f k).1 :: a.1, a.2.join (f k).2)) a).1 = (l.map (fun k => (f k).1)).reverse ++ a.1 := by
  induction l generalizing a with
  | nil => rfl
  | cons k l ih => simp [ih]

/-- With every position active each element is the computed one. -/
theorem eachElem_all (n : Nat) (mz : Bool) (old : Nat → Nat) (f : Nat → Nat × Fx) :
    (eachElem n (fun _ => true) mz old f).1 = (List.range n).map (fun k => (f k).1) := by
  simp [eachElem, foldl_eachElem]

/-- Without fine offsets and draws each value is rounded to nearest by itself (R39). -/
theorem encodeAll_plain {w : FmtWord} (hs : w.scale ≠ 2) (n : Nat) (val : Nat → FVal) (flags : Conv → FVal → BitVec 5) :
    ∃ fx, encodeAll w n (fun _ => true) val [] flags = ((List.range n).map (fun k => (w.store 0 0 (val k)).bits), [], fx) := by
  refine ⟨(encodeAll w n (fun _ => true) val [] flags).2.2, ?_⟩
  refine Prod.ext (?_ : (encodeAll w n (fun _ => true) val [] flags).1 = _) (Prod.ext ?_ rfl)
  · simp [encodeAll, eachElem_all, hs]
  · simp [encodeAll, hs]

/-- A copy keeps codes and offsets (R38). -/
theorem FeedDesc.encode_copy {f : FeedDesc} (hf : f.sfmt = f.dfmt) (gen : BitVec 32) (tile : Nat) (sp : Nat × Nat × Nat)
    (src : List Nat × List Nat) : f.encode .copy gen tile sp src = (src.1, src.2, {}) := by
  simp [FeedDesc.encode, hf]

theorem FeedDesc.drawCount_nearest {f : FeedDesc} (hs : f.dstSide.word.stoch = false) (op : FeedOp) : f.drawCount op = 0 := by
  simp [FeedDesc.drawCount, FmtWord.takesDraws, hs]

/-- A fill rounds PATTERN into each element (R38). -/
theorem FeedDesc.encode_fill {f : FeedDesc} (hd : f.dstSide.word.stoch = false) (hs : f.dstSide.word.scale ≠ 2)
    (gen : BitVec 32) (n : Nat) (src : List Nat × List Nat) : ∃ fx, f.encode .fill gen 0 (0, 0, n) src =
      ((List.range n).map (fun _ => (f.dstSide.word.store 0 0 (Fmt.fp64.decode f.pattern)).bits), [], fx) := by
  simpa [FeedDesc.encode, FeedDesc.drawCount_nearest hd] using encodeAll_plain hs n (fun _ => Fmt.fp64.decode f.pattern) _

/-- A conversion rounds the value of each element (R39). -/
theorem FeedDesc.encode_convert {f : FeedDesc} (hf : f.sfmt ≠ f.dfmt) (hd : f.dstSide.word.stoch = false)
    (hs : f.dstSide.word.scale ≠ 2) (hss : f.srcSide.word.scale ≠ 2) (gen : BitVec 32) (n : Nat) (g : Nat → Nat)
    (offs : List Nat) : ∃ fx, f.encode .convert gen 0 (0, 0, n) ((List.range n).map g, offs) =
      ((List.range n).map (fun i => (f.dstSide.word.store 0 0 (f.srcSide.word.value (g i) 0)).bits), [], fx) := by
  obtain ⟨fx, hall⟩ := encodeAll_plain hs n (fun i => f.srcSide.word.value (((List.range n).map g).getD i 0) 0) (fun _ _ => 0)
  have hcodes := List.map_congr_left (l := List.range n) fun i hi =>
    congrArg (fun c => (f.dstSide.word.store 0 0 (f.srcSide.word.value c 0)).bits) (getD_range_map g (List.mem_range.mp hi))
  refine ⟨fx, ?_⟩
  rw [← hcodes, ← hall]
  simp [FeedDesc.encode, FeedDesc.drawCount_nearest hd, hf, hss]

/-- No offsets leave no bytes to write and the halves that wait as they are. -/
theorem joinHalves_nil (pend : SMap (Bool × Nat)) (i0 : Nat) : joinHalves pend i0 [] = ((i0 + 0 - 1) / 2, [], pend) := rfl

theorem State.discardCovered_nil (s : State) (x : Xfer) : s.discardCovered x [] = (s, x) := rfl

theorem State.sideLocate_ink {sd : Side} (hk : sd.kind = 1) (s : State) (ag : Agent) (pos off n : Nat) :
    s.sideLocate ag sd pos off n = .ok () s := by
  simp [State.sideLocate, hk]

theorem State.sideWrite_nil (s : State) (ag : Agent) (sd : Side) (pos off : Nat) : s.sideWrite ag sd pos off [] = .ok () s := rfl

/-- A write of 512 bytes from the row that a locator names replaces that row. -/
theorem State.sideWrite_row {sd : Side} (hk : sd.kind = 1) (s : State) (ag : Agent) {bs : List Byte} (h : bs.length = 512) :
    s.sideWrite ag sd sd.pos 0 bs = .ok () (s.updCore (coreKey ag.die sd.core) (fun k =>
      k.putRow (sideRow s ag.die sd.core sd.pos) (BitVec.ofNat 4096 (leNat bs)))) := by
  have hne : bs.isEmpty = false := by
    cases bs with
    | nil => exact absurd h (by decide)
    | cons b bs => rfl
  simp [State.sideWrite, hne, hk, State.updCore, Core.putInkBytes_row _ _ h, sideRow]

/-- The line of a whole row replaces its destination row by the packed codes. -/
theorem State.moveLine_row {s : State} {t : XferRef} {x : Xfer} {f : FeedDesc} (h : OneRow f)
    (hsrc : x.op = .fill ∨ (f.skind = 1 ∧ f.srcSide.word.scale ≠ 2)) {codes : List Nat} {fx : Fx}
    (henc : f.encode x.op x.gen.value 0 (0, 0, f.elems) (rowSource s (xferDie t) x.op f) = (codes, [], fx))
    (hlen : codes.length = f.elems) :
    ∃ sat flush, s.moveLine t x f 0 { tile := 0 } f.elems =
      .ok ({ x with sat := sat, flush := flush }.setLane 0 { tile := 0, elem := f.elems })
        (s.updCore (coreKey (xferDie t) f.dcore) (fun k => k.putRow (sideRow s (xferDie t) f.dcore f.dst)
          (BitVec.ofNat 4096 (packNat f.dstSide.width codes)))) := by
  have hdk : f.dkind ≠ 3 := by rw [h.kind]; decide
  have hkind : f.dstSide.kind = 1 := h.kind
  have hcov : (x.op != .fill && f.srcSide.kind == 0 && f.srcSide.hint == 3) = false := by
    rcases hsrc with hop | ⟨hk, -⟩
    · simp [hop]
    · have : f.srcSide.kind = 1 := hk
      simp [this]
  have hbits : codes.length * f.dstSide.width = 8 * 512 := by rw [hlen, h.full]
  have hwhole : (8 * 512 % 8 != 0) = false := rfl
  have hsize : (8 * 512 + 7) / 8 = 512 := rfl
  have hplain : (f.dstSide.word.scale == 2) = false := by simp [h.plain]
  have hoff : f.offsetOf f.dstSide 0 (0 / f.elems) (0 % f.elems) = 0 := by simp [FeedDesc.offsetOf]
  have hwrite (ag : Agent) := State.sideWrite_row hkind s ag (leBytes_length 512 (packNat f.dstSide.width codes))
  rw [leNat_leBytes_packNat (by rw [Nat.mul_comm, hbits])] at hwrite
  have hdie (hint feed : Nat) : (s.feedAgent t hint feed).die = xferDie t := rfl
  refine ⟨x.sat + (({} : Fx).join fx).sat, x.flush + (({} : Fx).join fx).flush, ?_⟩
  simp only [State.moveLine, Nat.sub_zero, h.rowSpans]
  rw [State.readRow _ h.elems_pos hsrc]
  simp only [Acc.bind, hcov, hdk, if_false, List.zip_cons_cons, List.zip_nil_left, List.map_cons, List.map_nil, hdie, henc,
    List.flatMap_cons, List.flatMap_nil, List.append_nil, hbits, hplain, joinHalves_nil, hwhole, hsize, hoff, Bool.false_and,
    Bool.false_eq_true, State.sideLocate_ink hkind, State.discardCovered_nil, hwrite, State.sideWrite_nil, List.foldl_cons,
    List.foldl_nil]
  rfl

end Sys2Proof.Machine
end

section
/-! SUPPORT. The step that moves the only row of a transfer, the step that ends its tile, and its completion (R235, R249,
R252). -/

namespace Sys2Proof.Machine

open Sys2Proof.Claims

theorem Xfer.next_single {x : Xfer} {l : FeedLane} (hl : x.lanes = [l]) (hs : l.stalled = none)
    (ht : l.tile < (FeedDesc.parse x.desc).tiles) : x.next = some (0, l) := by
  simp [Xfer.next, hl, hs, ht]

theorem SameInk.sideRow {s t : State} (h : SameInk s t) (die core pos : Nat) : sideRow t die core pos = sideRow s die core pos := by
  rw [Claims.sideRow, Claims.sideRow, h.handle]

theorem SameInk.rowSource {s t : State} (h : SameInk s t) (die : Nat) (op : FeedOp) (f : FeedDesc) :
    rowSource t die op f = rowSource s die op f := by
  have helem : sourceElem t die f = sourceElem s die f := by
    funext i
    rw [sourceElem, sourceElem, h.row, h.sideRow]
  rw [Machine.rowSource, Machine.rowSource, helem]

/-- A feed that has finished its last tile stands beyond the tiles, and starts no prefetch walk. -/
theorem State.tileComplete_last {s : State} {r : CmdRef} {x : Xfer} {i : Nat} {l : FeedLane} (hx : s.xfer (.cmd r) = some x)
    (hphase : x.phase = .running) (hfeeds : x.feeds ≠ []) (hnext : x.next = some (i, l))
    (hend : (FeedDesc.parse x.desc).rows * (FeedDesc.parse x.desc).elems ≤ l.elem)
    (hlast : (FeedDesc.parse x.desc).tiles ≤ l.tile + x.feeds.length) (ht : (s.die r.die).traces = []) :
    s.tileComplete (.cmd r) = s.putXfer (.cmd r) (x.setLane i { tile := l.tile + x.feeds.length }) := by
  have htrace := State.trace_of_no_rings (die := xferDie (.cmd r)) ht
  simp [State.tileComplete, hx, hphase, hfeeds, hnext, Nat.not_lt.mpr hend, Nat.not_lt.mpr hlast, htrace]

/-- A transfer whose tiles are all moved ends with OK, and one that is to stop with its status. -/
theorem Xfer.ending_eq {x : Xfer} {code detail : Nat}
    (h : (x.phase = .running ∧ x.feeds ≠ [] ∧ (∀ l ∈ x.lanes, (FeedDesc.parse x.desc).tiles ≤ l.tile) ∧ code = 0 ∧ detail = 0) ∨
      x.phase = .stopping code detail) : x.ending = some (code, detail) := by
  rcases h with ⟨hphase, hfeeds, hdone, rfl, rfl⟩ | hphase
  · have hall : x.tilesDone = true := List.all_eq_true.mpr fun l hl => decide_eq_true (hdone l hl)
    simp [Xfer.ending, hphase, hfeeds, hall]
  · simp [Xfer.ending, hphase]

/-- A command whose transfer has ended: complete, with the transfer's counts (R53, R235). -/
def Cmd.afterXfer (c : Cmd) (x : Xfer) (code detail : Nat) : Cmd :=
  { c with sat := satAdd 16 c.sat x.sat, flush := satAdd 16 c.flush x.flush }.finish code detail

theorem Cmd.afterXfer_ref (c : Cmd) (x : Xfer) (code detail : Nat) : (c.afterXfer x code detail).ref = c.ref :=
  Cmd.finish_ref _ _ _

/-- A transfer that ends with no message unacknowledged completes its command. -/
theorem State.transferComplete_cmd {s : State} {r : CmdRef} {x : Xfer} {code detail : Nat} (hx : s.xfer (.cmd r) = some x)
    (he : x.ending = some (code, detail)) (hu : ∀ u ∈ s.fab.unacked, u.engine ≠ some (.feed (.cmd r))) :
    s.transferComplete (.cmd r) = (s.endXfer (.cmd r)).updCmd r (fun c => c.afterXfer x code detail) := by
  have hacked : s.fab.unacked.any (fun u => u.engine == some (.feed (.cmd r))) = false := by simpa using hu
  simp [State.transferComplete, hx, he, hacked, Cmd.afterXfer]

end Sys2Proof.Machine

namespace Sys2Proof.Claims

open Sys2Proof.Machine

section
variable {s : State} {r : CmdRef} {x : Xfer} {f : FeedDesc} (h : MovesOneRow s r x f)
include h

theorem MovesOneRow.oneRow : OneRow f := by
  obtain ⟨-, -, -, -, -, hrows, htiles, hkind, hfull, hplain, -⟩ := h
  exact ⟨hrows, htiles, hkind, hfull, hplain⟩

theorem MovesOneRow.nearest : f.dstSide.word.stoch = false := by
  obtain ⟨-, -, -, -, -, -, -, -, -, -, hnearest, -⟩ := h
  exact hnearest

theorem MovesOneRow.source : x.op = .fill ∨ (f.skind = 1 ∧ f.srcSide.word.scale ≠ 2) := by
  obtain ⟨-, -, -, -, -, -, -, -, -, -, -, hsrc, -⟩ := h
  exact hsrc

/-- The step moves the whole row: of the inkwells it changes only the destination row, and then the transfer. -/
theorem MovesOneRow.feedMove_eq {codes : List Nat} {fx : Fx}
    (henc : f.encode x.op x.gen.value 0 (0, 0, f.elems) (rowSource s r.die x.op f) = (codes, [], fx))
    (hlen : codes.length = f.elems) : ∃ u sat flush, SameInk s u ∧ s.feedMove (.cmd r) x.op =
      ((u.updCore (coreKey r.die f.dcore) (fun k => k.putRow (sideRow s r.die f.dcore f.dst)
        (BitVec.ofNat 4096 (packNat f.dstSide.width codes)))).accessDone (.feed (.cmd r)) (some r)).putXfer (.cmd r)
        ({ x with sat := sat, flush := flush }.setLane 0 { tile := 0, elem := f.elems }) := by
  have hrow := h.oneRow
  have hsrc := h.source
  obtain ⟨hx, hf, hphase, hfeeds, hlanes, -, -, -, -, -, -, -, hbar⟩ := h
  have hink := s.inkFix_ink r.die (f.inkAccesses x.op 0 [(0, 0, f.elems)])
  have hnext : x.next = some (0, { tile := 0 }) :=
    Xfer.next_single hlanes rfl (by rw [← hf, hrow.tiles]; exact Nat.one_pos)
  have hempty : x.feeds.isEmpty = false := by
    cases hl : x.feeds with
    | nil => simp [hl] at hfeeds
    | cons a l => rfl
  have hpos : ¬ f.rows * f.elems ≤ 0 := by
    have := hrow.elems_pos
    rw [hrow.rows]
    omega
  rw [← hink.rowSource] at henc
  obtain ⟨sat, flush, hmove⟩ := State.moveLine_row (t := .cmd r) hrow hsrc henc hlen
  refine ⟨_, sat, flush, hink, ?_⟩
  have hdie : xferDie (.cmd r) = r.die := rfl
  rw [hdie, hink.sideRow] at hmove
  simp only [State.feedMove, hx, bne_self_eq_false, hphase, Bool.or_false, Bool.false_eq_true, if_false, hempty, hnext, ← hf,
    hpos, hrow.lineEnd, Nat.sub_zero, hrow.rowSpans, hdie, hbar, hmove]
  rfl

/-- The destination row then holds the codes that the transfer makes of its row. -/
theorem MovesOneRow.movedRow {g : Nat → Nat} {fx : Fx}
    (henc : f.encode x.op x.gen.value 0 (0, 0, f.elems) (rowSource s r.die x.op f) = ((List.range f.elems).map g, [], fx)) :
    MovedRow s (s.feedMove (.cmd r) x.op) r f g := by
  have hlen : f.dstSide.width * ((List.range f.elems).map g).length = 4096 := by
    rw [List.length_map, List.length_range, h.oneRow.width_elems]
  obtain ⟨u, sat, flush, hink, heq⟩ := h.feedMove_eq henc (by simp)
  obtain ⟨hx, -, hphase, -, hlanes, -⟩ := h
  rw [heq]
  generalize hv : BitVec.ofNat 4096 (packNat f.dstSide.width ((List.range f.elems).map g)) = v
  generalize hp : sideRow s r.die f.dcore f.dst = p
  generalize hu : (u.updCore (coreKey r.die f.dcore) (fun k => k.putRow p v)).accessDone (.feed (.cmd r)) (some r) = u'
  have hrow (y : Xfer) (k q : Nat) : ((u'.putXfer (.cmd r) y).core k).row q =
      if coreKey r.die f.dcore = k ∧ p = q then v else (s.core k).row q := by
    have hcore : (u'.putXfer (.cmd r) y).core k = u'.core k := rfl
    rw [hcore, ← hu, State.accessDone_core, State.row_updCore_putRow, hink.row]
  obtain ⟨hmem, hcmds⟩ : u'.mem = s.mem ∧ u'.cmds = s.cmds := by
    rw [← hu, State.accessDone_eq, hink.1]
    exact ⟨rfl, rfl⟩
  have hxu : u'.xfer (.cmd r) = some x := (State.xfer_cmd_of_cmds hcmds r).trans hx
  refine ⟨fun i hi => ?destination, fun k q hkq => ?others, fun a => congrArg (Memory.read · a) hmem, _,
    State.xfer_putXfer hxu _, ?lane, hphase⟩
  case destination =>
    rw [hrow, hp, if_pos ⟨rfl, rfl⟩, elem_setWidth, ← hv, fld_packed hlen, getD_range_map g hi]
  case others =>
    rw [hrow, if_neg]
    rintro ⟨hk, hq⟩
    exact hkq.elim (fun hne => hne hk.symm) (fun hne => hne (hq.symm.trans hp.symm))
  case lane => simp [Xfer.setLane, hlanes]

/-- A feed command whose step moves the row. -/
theorem MovesOneRow.runs {i : Instr} (hi : exec i s = .next (s.feedMove (.cmd r) x.op)) {g : Nat → Nat} {fx : Fx}
    (henc : f.encode x.op x.gen.value 0 (0, 0, f.elems) (rowSource s r.die x.op f) = ((List.range f.elems).map g, [], fx)) :
    Runs i s (fun t => MovedRow s t r f g) := ⟨_, hi, h.movedRow henc⟩

end

/-- Settles O38: each of the three moves is `MovesOneRow.runs` with the codes that `FeedDesc.encode` makes of the row; the end
of a tile then changes the command alone, and the end of the transfer also what its die still holds for it. -/
theorem feedTransfersComplete : Obligations.FeedTransfersComplete := by
  unfold Obligations.FeedTransfersComplete
  intro s r x m
  dsimp only
  refine ⟨fun h hop hf => ?copy, fun h hop => ?fill, fun h hop hf => ?convert,
    fun i l hx hphase hfeeds hnext hend hlast ht => ?tile, fun code detail hm hx hend hacked => ?complete⟩
  case copy =>
    refine h.runs (by rw [hop]; rfl) (fx := {}) ?_
    rw [hop, FeedDesc.encode_copy hf]
    rfl
  case fill =>
    obtain ⟨fx, henc⟩ := FeedDesc.encode_fill h.nearest h.oneRow.plain x.gen.value (FeedDesc.parse x.desc).elems
      (rowSource s r.die .fill (FeedDesc.parse x.desc))
    exact h.runs (by rw [hop]; rfl) (by rw [hop, henc])
  case convert =>
    obtain ⟨-, hplain⟩ := h.source.resolve_left (by rw [hop]; decide)
    obtain ⟨fx, henc⟩ := FeedDesc.encode_convert hf h.nearest h.oneRow.plain hplain x.gen.value (FeedDesc.parse x.desc).elems
      (sourceElem s r.die (FeedDesc.parse x.desc)) []
    refine h.runs (by rw [hop]; rfl) (fx := fx) ?_
    rw [hop]
    exact henc
  case tile =>
    refine ⟨_, congrArg Host.Outcome.next (State.tileComplete_last hx hphase hfeeds hnext hend hlast ht), rfl, ?_⟩
    exact State.xfer_putXfer hx _
  case complete =>
    refine ⟨_, congrArg Host.Outcome.next (State.transferComplete_cmd hx (Xfer.ending_eq hend) hacked), rfl, fun q hq => ?_, ?_⟩
    · exact State.cmd_updCmd_ne _ hq fun c => c.afterXfer_ref x code detail
    · have hcmd : (s.endXfer (.cmd r)).cmd r = some m := hm
      rw [State.cmd_updCmd_same _ r fun c => c.afterXfer_ref x code detail, hcmd]
      rfl

end Sys2Proof.Claims
end

section
/-! SUPPORT. What MDSET and MM leave (R62, R66, R68): the commit of an instruction, and the request of an MM that has passed
its checks. -/

namespace Sys2Proof.Machine

open Sys2Proof.Claims

/-- A commit changes its context alone, and the programmable counters of its core. -/
theorem State.commit_onlyCtx (s : State) (c : CtxRef) (f : Ctx → Ctx) : OnlyCtx s (s.commit c f) c :=
  ⟨s.commit_eq c f, fun _ => rfl, s.commit_core_ne c f, s.commit_core c f, s.commit_ctx_ne c f⟩

/-- With WINDOW 0 a request only joins the end of the waiting ones (R68). -/
theorem Core.mmArrive_noWindow {k : Core} (h : k.cwin = 0) (q : MmReq) : k.mmArrive q = { k with mmWait := k.mmWait ++ [q] } :=
  if_pos h

theorem execMdset_issued {s : State} {c : CtxRef} {w : Word32} (h : Issues s .mdset c w) :
    execMdset c w s = .next (s.commit c (fun x => { x with
      md := SMap.set x.md (fld w 12 4) (x.rx (fld w 21 5) ++ x.rx (fld w 16 5)) })) := by
  obtain ⟨hcore, hready, hrow, hscalar⟩ := h
  exact State.issue_next _ hcore hready hrow hscalar

/-- The request that an MM makes of its descriptors and of the first physical rows that its operands' handles gave (R63, R66). -/
def mmRequest (x : Ctx) (c : CtxRef) (w : Word32) (strRows staRows : Nat × Nat) : MmReq :=
  { ctx := c.idx, shape := fld w 7 3, mode := fld w 10 2, acc := w.getLsbD 24, dst := SMap.get x.md (fld w 20 4) 0
    str := SMap.get x.md (fld w 16 4) 0, sta := SMap.get x.md (fld w 12 4) 0, strBase := strRows.1, strOff := strRows.2
    staBase := staRows.1, staOff := staRows.2 }

/-- The descriptors of a request are legal (R66), and the core's handles give its operands the rows that it names (R171). -/
structure MmReq.Passes (q : MmReq) (k : Core) (fa fb : FmtWord) : Prop where
  strFmt : FmtWord.parse (OpDesc.parse q.str).fmtw = some fa
  staFmt : FmtWord.parse (OpDesc.parse q.sta).fmtw = some fb
  legal : mmBad q.shape q.mode (OpDesc.parse q.str) (OpDesc.parse q.sta) (DstDesc.parse q.dst) fa fb = false
  strRows : k.operandCheck (OpDesc.parse q.str) fa = .inl (q.strBase, q.strOff)
  staRows : k.operandCheck (OpDesc.parse q.sta) fb = .inl (q.staBase, q.staOff)

/-- An MM that passes its checks, with room among the passes in flight and no earlier request of its context that still waits,
sends its request to the matrix unit and commits. -/
theorem execMm_issued {s : State} {c : CtxRef} {w : Word32} {fa fb : FmtWord} {strRows staRows : Nat × Nat}
    (h : Issues s .mm c w) (hdrained : (s.ctxOf c).vecStoresDone = true) (hfirst : (s.core c.key).mmPending c.idx = false)
    (hroom : (s.core c.key).passes.length < 16)
    (hq : (mmRequest (s.ctxOf c) c w strRows staRows).Passes (s.core c.key) fa fb) :
    execMm c w s =
      .next ((s.updCore c.key (fun k => k.mmArrive (mmRequest (s.ctxOf c) c w strRows staRows))).commit c id) := by
  obtain ⟨hcore, hready, hrow, hscalar⟩ := h
  obtain ⟨hfa, hfb, hlegal, hstr, hsta⟩ := hq
  simp only [mmRequest] at hfa hfb hlegal hstr hsta
  have hroom' : ¬ 16 ≤ (s.core c.key).passes.length := by omega
  rw [execMm, State.issue_next _ hcore hready hrow hscalar]
  simp only [hfa, hfb, hlegal, hdrained, hfirst, hroom', hstr, hsta, mmRequest, decide_false, Bool.not_true, Bool.or_self,
    Bool.false_eq_true, if_false]

end Sys2Proof.Machine

namespace Sys2Proof.Claims

open Sys2Proof.Machine

/-- Settles O20: both instructions end in a commit, which changes their context alone; before it the request of an MM has joined
the waiting ones. -/
theorem matrixIssueCompletes : Obligations.MatrixIssueCompletes := by
  unfold Obligations.MatrixIssueCompletes
  intro s c w
  dsimp only
  refine ⟨fun h _ _ => ?mdset, fun fa fb sb so tb ob h hdrained hfirst hroom hwin hfa hfb hlegal hstr hsta => ?mm⟩
  case mdset => exact ⟨_, execMdset_issued h, State.commit_onlyCtx .., State.commit_ctxOf ..⟩
  case mm =>
    have hq : (mmRequest (s.ctxOf c) c w (sb, so) (tb, ob)).Passes (s.core c.key) fa fb := ⟨hfa, hfb, hlegal, hstr, hsta⟩
    refine ⟨_, execMm_issued h hdrained hfirst hroom hq, ?_⟩
    dsimp only
    rw [State.commit_core, State.commit_ctxOf, State.ctxOf_updCore, State.core_updCore_same, Core.mmArrive_noWindow hwin]
    exact ⟨rfl, rfl, rfl, rfl, fun _ => rfl⟩

end Sys2Proof.Claims
end

section
/-! SUPPORT. Changes of one core alone, and the acceptance of requests as one pass (R68, R76, R82, R83). -/

namespace Sys2Proof.Machine

open Sys2Proof.Claims

/-- The die of a core, by the core's number (R271). -/
theorem coreRef_key_div {r : CoreRef} (hr : CoreExists r) : r.key / 20 = r.die.toNat := by
  have hcore : r.core.toNat < 20 := hr
  rw [CoreRef.key]
  omega

/-- A change of one core that keeps its contexts. -/
theorem State.updCore_onlyCore (s : State) (key : Nat) {f : Core → Core} (h : (f (s.core key)).ctxs = (s.core key).ctxs) :
    OnlyCore s (s.updCore key f) key := by
  refine ⟨rfl, fun _ => rfl, fun i hi => s.core_updCore_ne key i f hi.symm, fun j => ?_⟩
  rw [State.ctx, State.core_updCore_same, Core.ctx, h]
  rfl

theorem onlyCore_trans {s t u : State} {key : Nat} (h : OnlyCore s t key) (g : OnlyCore t u key) : OnlyCore s u key := by
  obtain ⟨hst, hmem, hcores, hctxs⟩ := h
  obtain ⟨htu, hmem', hcores', hctxs'⟩ := g
  exact ⟨by rw [htu, hst], fun a => (hmem' a).trans (hmem a), fun i hi => (hcores' i hi).trans (hcores i hi),
    fun j => (hctxs' j).trans (hctxs j)⟩

/-- The correction of single-bit errors changes only what a core keeps of them (R172). -/
theorem Core.correctRows_eq (k : Core) (rows : List Nat) : k.correctRows rows =
    { k with inkSoft := (k.correctRows rows).inkSoft, eccCorr := (k.correctRows rows).eccCorr } := by
  unfold Core.correctRows
  dsimp only
  split <;> rfl

/-- The pass that some requests make, the first of which is `q` (R68, R83). -/
def Core.passOf (k : Core) (q : MmReq) (qs : List MmReq) : Pass :=
  { shape := q.shape, mode := q.mode, fmt := q.fmtCode, rows := ((q :: qs).map MmReq.rows).foldl (· + ·) 0
    parts := k.partsOf (k.retains q) (q :: qs) }

/-- The pass that one request makes. -/
theorem Core.passOf_single (k : Core) (q : MmReq) : k.passOf q [] =
    { shape := q.shape, mode := q.mode, fmt := q.fmtCode, rows := q.rows, parts := [k.partOf q (!(k.retains q))] } := by
  simp [Core.passOf, Core.partsOf]

/-- The core `k'` is the core `k` with a pass more in flight, which a request of context `j` began: what its contexts, its
reservoir, its inkwell and the requests that still wait hold is unchanged. -/
structure AcceptsPass (k k' : Core) (p : Pass) (j : Nat) : Prop where
  ctxs : k'.ctxs = k.ctxs
  res : k'.res = k.res
  ink : k'.ink = k.ink
  mmWait : k'.mmWait = k.mmWait
  group : k'.group = k.group
  groupClosed : k'.groupClosed = k.groupClosed
  passes : k'.passes = k.passes ++ [p]
  lastCtx : k'.lastCtx = j

theorem AcceptsPass.countEvent {k k' : Core} {p : Pass} {j : Nat} (h : AcceptsPass k k' p j) (e : Nat) (c : Option Nat)
    (n : Nat) : AcceptsPass k (k'.countEvent e c n) p j := by
  obtain ⟨hctxs, hres, hink, hwait, hgroup, hclosed, hpasses, hlast⟩ := h
  constructor <;> simp [*]

theorem AcceptsPass.countMembers {k k' : Core} {p : Pass} {j : Nat} (h : AcceptsPass k k' p j) (qs : List MmReq) :
    AcceptsPass k (qs.foldl (fun k q => k.countEvent 7 (some q.ctx) 1) k') p j := by
  induction qs generalizing k' with
  | nil => exact h
  | cons q qs ih => exact ih (h.countEvent 7 (some q.ctx) 1)

theorem AcceptsPass.begin (k : Core) (rows : List Nat) (p : Pass) (j : Nat) (r : Option Retained) :
    AcceptsPass k { k.correctRows rows with passes := (k.correctRows rows).passes ++ [p], lastCtx := j, retained := r } p j := by
  rw [Core.correctRows_eq]
  exact ⟨rfl, rfl, rfl, rfl, rfl, rfl, rfl, rfl⟩

theorem AcceptsPass.updCore {s : State} {key : Nat} {f : Core → Core} {p : Pass} {j : Nat}
    (h : AcceptsPass (s.core key) (f (s.core key)) p j) :
    OnlyCore s (s.updCore key f) key ∧ AcceptsPass (s.core key) ((s.updCore key f).core key) p j :=
  ⟨s.updCore_onlyCore key h.ctxs, by rwa [State.core_updCore_same]⟩

/-- Requests whose rows hold no uncorrectable error become one pass; a die without trace rings records nothing of it. -/
theorem State.acceptPass_accepts {s : State} {key : Nat} {q : MmReq} {qs : List MmReq} {grouped : Bool}
    (hrows : (s.core key).badRow (passRows ((s.core key).retains q) (q :: qs)) = none)
    (ht : grouped = true → (s.die (key / 20)).traces = []) :
    OnlyCore s (s.acceptPass key (q :: qs) grouped) key ∧
      AcceptsPass (s.core key) ((s.acceptPass key (q :: qs) grouped).core key) ((s.core key).passOf q qs) q.ctx := by
  simp only [State.acceptPass, hrows]
  cases grouped with
  | false => exact AcceptsPass.updCore ((AcceptsPass.begin _ _ _ _ _).countEvent 4 (some q.ctx) 1)
  | true =>
    simp only [if_true, State.trace_of_no_rings (ht rfl)]
    exact AcceptsPass.updCore
      ((((AcceptsPass.begin _ _ _ _ _).countEvent 4 (some q.ctx) 1).countEvent 6 none 1).countMembers (q :: qs))

/-- With no window and no open group, the matrix unit accepts the request whose turn it is (R68). -/
theorem State.mmAccept_next {s : State} {key : Nat} {q : MmReq} (hrun : (s.core key).halted = false)
    (hwin : (s.core key).cwin = 0) (hgroup : (s.core key).group = []) (hroom : (s.core key).passes.length < 16)
    (hrevoked : (s.core key).revokedReq = none) (hnext : (s.core key).nextReq = some q)
    (hrows : (s.core key).badRow (passRows ((s.core key).retains q) [q]) = none) :
    OnlyCore s (s.mmAccept key) key ∧
      AcceptsPass ((s.core key).dropReq q) ((s.mmAccept key).core key) ((s.core key).passOf q []) q.ctx := by
  have hroom' : ¬ 16 ≤ (s.core key).passes.length := by omega
  have haccept : s.mmAccept key = (s.updCore key (fun k => k.dropReq q)).acceptPass key [q] false := by
    simp [State.mmAccept, hrun, hroom', hrevoked, hgroup, hwin, hnext]
  have hcore : (s.updCore key (fun k => k.dropReq q)).core key = (s.core key).dropReq q := s.core_updCore_same ..
  obtain ⟨honly, haccepts⟩ := State.acceptPass_accepts (s := s.updCore key (fun k => k.dropReq q)) (key := key) (q := q)
    (qs := []) (grouped := false) (by rw [hcore]; exact hrows) (fun h => nomatch h)
  rw [← haccept] at honly haccepts
  rw [hcore] at haccepts
  exact ⟨onlyCore_trans (s.updCore_onlyCore key rfl) honly, haccepts⟩

/-- With no request waiting, no group opens. -/
theorem Core.groupOpen_noneWaiting {k : Core} (h : k.mmWait = []) : k.groupOpen = k := by
  unfold Core.groupOpen
  rw [h]
  split
  · rename_i hw; exact nomatch hw
  · rfl

/-- A closed group that nothing blocks is accepted as one pass, and with no request waiting no other group opens (R82). -/
theorem State.mmAccept_group {s : State} {key : Nat} {q : MmReq} {qs : List MmReq} (hrun : (s.core key).halted = false)
    (hgroup : (s.core key).group = q :: qs) (hclosed : (s.core key).groupClosed = true)
    (hroom : (s.core key).passes.length < 16) (hrevoked : (s.core key).revokedReq = none) (hwait : (s.core key).mmWait = [])
    (hfree : (s.core key).group.any (s.core key).mmBlocked = false)
    (hrows : (s.core key).badRow (passRows ((s.core key).retains q) (q :: qs)) = none)
    (ht : (s.die (key / 20)).traces = []) :
    OnlyCore s (s.mmAccept key) key ∧ AcceptsPass { s.core key with group := [], groupClosed := false }
      ((s.mmAccept key).core key) ((s.core key).passOf q qs) q.ctx := by
  have hroom' : ¬ 16 ≤ (s.core key).passes.length := by omega
  rw [hgroup] at hfree
  let u := s.updCore key (fun k => { k with group := [], groupClosed := false })
  have hu : u.core key = { s.core key with group := [], groupClosed := false } := s.core_updCore_same key _
  have haccept : s.mmAccept key = (u.acceptPass key (q :: qs) true).updCore key Core.groupOpen := by
    simp [State.mmAccept, hrun, hroom', hrevoked, hgroup, hclosed, hfree, u]
  obtain ⟨honly, haccepts⟩ := State.acceptPass_accepts (s := u) (key := key) (q := q) (qs := qs) (grouped := true)
    (by rw [hu]; exact hrows) (fun _ => ht)
  rw [hu] at haccepts
  have hopen : ((u.acceptPass key (q :: qs) true).core key).groupOpen = (u.acceptPass key (q :: qs) true).core key :=
    Core.groupOpen_noneWaiting (haccepts.mmWait.trans hwait)
  rw [haccept, State.core_updCore_same, hopen]
  exact ⟨onlyCore_trans (s.updCore_onlyCore key rfl) (onlyCore_trans honly (State.updCore_onlyCore _ key (by rw [hopen]))),
    haccepts⟩

end Sys2Proof.Machine
end

section
/-! SUPPORT. FIXED values in the reservoir (R87, R89, R90, R92): a tag and its bits, an entry that is read after it was written,
and the sum of two values that fit. -/

namespace Sys2Proof.Machine

/-- The fields of a tag fit the bits that R87 gives them. -/
structure Tag.Fits (t : Tag) : Prop where
  scl : t.scl < 2 ^ 16
  leaves : t.leaves < 32
  dom : t.dom < 8

theorem b2n_lt_two (b : Bool) : b2n b < 2 := by cases b <;> decide

theorem decide_b2n_eq_one (b : Bool) : decide (b2n b = 1) = b := by cases b <;> rfl

theorem Tag.toNat_bits (t : Tag) : t.bits.toNat = t.scl % 2 ^ 16 * 2 ^ 13 + t.leaves % 32 * 2 ^ 8 + b2n t.loss * 2 ^ 7
    + b2n t.sat * 2 ^ 6 + b2n t.ninf * 2 ^ 5 + b2n t.pinf * 2 ^ 4 + b2n t.nan * 2 ^ 3 + t.dom % 8 := by
  have := b2n_lt_two t.loss
  have := b2n_lt_two t.sat
  have := b2n_lt_two t.ninf
  have := b2n_lt_two t.pinf
  have := b2n_lt_two t.nan
  rw [Tag.bits, BitVec.toNat_ofNat]
  omega

/-- A tag is what its bits read as. -/
theorem Tag.Fits.ofBits_bits {t : Tag} (h : t.Fits) : Tag.ofBits t.bits = t := by
  have hbits := t.toNat_bits
  obtain ⟨hscl, hleaves, hdom⟩ := h
  have hloss := b2n_lt_two t.loss
  have hsat := b2n_lt_two t.sat
  have hninf := b2n_lt_two t.ninf
  have hpinf := b2n_lt_two t.pinf
  have hnan := b2n_lt_two t.nan
  have hflag (i : Nat) (b : Bool) (hb : t.bits.toNat / 2 ^ i % 2 = b2n b) : t.bits.getLsbD i = b := by
    rw [BitVec.getLsbD, Nat.testBit_eq_decide_div_mod_eq, hb, decide_b2n_eq_one]
  have hscl' : fld t.bits 13 16 = t.scl := by rw [fld, Nat.shiftRight_eq_div_pow, hbits]; omega
  have hleaves' : fld t.bits 8 5 = t.leaves := by rw [fld, Nat.shiftRight_eq_div_pow, hbits]; omega
  have hdom' : fld t.bits 0 3 = t.dom := by rw [fld, Nat.shiftRight_eq_div_pow, hbits]; omega
  rw [Tag.ofBits, hscl', hleaves', hdom', hflag 7 t.loss (by omega), hflag 6 t.sat (by omega), hflag 5 t.ninf (by omega),
    hflag 4 t.pinf (by omega), hflag 3 t.nan (by omega)]

section
variable {v : RVal} (hdom : v.tag.dom = 1)
include hdom

/-- A FIXED value replaces one entry: its tag is not 0, so that the entry is listed. -/
theorem Core.putVal_res (k : Core) (n : Nat) :
    (k.putVal n v).res = SMap.set k.res n { data := v.lo, tag := v.tag.bits } := by
  have hne : ({ data := v.lo, tag := v.tag.bits } : ResEntry) ≠ {} := by
    intro h
    have htag : v.tag.bits.toNat = 0 := congrArg (fun e => e.tag.toNat) h
    rw [Tag.toNat_bits, hdom] at htag
    omega
  have hentries : v.entries n = [(n, { data := v.lo, tag := v.tag.bits })] := by
    rw [RVal.entries, hdom, if_neg (by decide)]
  rw [Core.putVal, hentries]
  exact if_neg hne

theorem Core.res_putVal_ne (k : Core) {n i : Nat} (h : i ≠ n) :
    SMap.get (k.putVal n v).res i {} = SMap.get k.res i {} := by
  rw [Core.putVal_res hdom, SMap.get_set_ne _ _ _ _ _ h.symm]

/-- An entry reads as the FIXED value written to it, whose upper half is a sign extension. -/
theorem Core.entryVal_putVal (hfits : v.tag.Fits) (hhi : v.hi = if v.lo.msb then BitVec.allOnes 128 else 0) (k : Core)
    (n : Nat) : (k.putVal n v).entryVal n = v := by
  simp only [Core.entryVal, Core.putVal_res hdom, SMap.get_set_same, hfits.ofBits_bits, hdom]
  rw [if_neg (by decide), if_pos trivial, ← hhi]

/-- A FIXED value combines with any entry into a FIXED value (R89). -/
theorem combine_dom (e : RVal) : (combine e v).val.tag.dom = 1 := by
  have htwo : (v.tag.dom == 2) = false := by rw [hdom]; rfl
  have hthree : (v.tag.dom == 3) = false := by rw [hdom]; rfl
  simp only [combine, htwo, hthree, Bool.and_false, Bool.false_and, Bool.false_eq_true, if_false]
  split
  · rfl
  · split
    · exact hdom
    · split
      · next hsame =>
        simp only [Bool.and_eq_true, beq_iff_eq] at hsame
        obtain ⟨⟨hfixed, -⟩, -⟩ := hsame
        exact of_decide_eq_true hfixed
      · exact hdom

end

/-- An entry's value depends on the reservoir alone. -/
theorem Core.entryVal_of_res {k k' : Core} (h : k.res = k'.res) (n : Nat) : k.entryVal n = k'.entryVal n := by
  simp only [Core.entryVal, h]

/-- The tag of a FIXED value without flags. -/
def fixedTag (c : Int) : Tag := { dom := 1, scl := sclOfC c }

theorem Tag.withFlags_zero {t : Tag} (hn : t.nan = false) (hp : t.pinf = false) (hm : t.ninf = false) : t.withFlags 0 = t := by
  cases t
  simp_all [Tag.withFlags]

theorem RVal.fixed_tag (n c : Int) : (RVal.fixed n c 0).tag = fixedTag c := Tag.withFlags_zero rfl rfl rfl

theorem fixedTag_fits (c : Int) : (fixedTag c).Fits :=
  ⟨Nat.lt_trans (BitVec.isLt _) (by decide), (by decide : 0 < 32), (by decide : 1 < 8)⟩

theorem fitsInt_iff {n : Nat} {v : Int} : fitsInt n v = true ↔ -(2 ^ (n - 1) : Int) ≤ v ∧ v < 2 ^ (n - 1) :=
  decide_eq_true_iff

theorem RVal.fixed_lo (n c : Int) : (RVal.fixed n c 0).lo = BitVec.ofInt 128 n := by
  apply BitVec.eq_of_toNat_eq
  simp [RVal.fixed]
  omega

/-- The number of a FIXED value that fits in 128 bits. -/
theorem RVal.fixed_q {n : Int} (h : fitsInt 128 n = true) (c : Int) : (RVal.fixed n c 0).q = n := by
  obtain ⟨hlo, hhi⟩ := fitsInt_iff.mp h
  rw [RVal.q, RVal.fixed_lo, BitVec.toInt_ofInt, Int.bmod_eq_of_le (by simpa using hlo) (by simpa using hhi)]

/-- The upper half of a FIXED value that fits in 128 bits is its sign. -/
theorem RVal.fixed_hi {n : Int} (h : fitsInt 128 n = true) (c : Int) :
    (RVal.fixed n c 0).hi = if (RVal.fixed n c 0).lo.msb then BitVec.allOnes 128 else 0 := by
  obtain ⟨hlo, hhi⟩ := fitsInt_iff.mp h
  have hmsb : (BitVec.ofInt 128 n).msb = decide (n < 0) := by
    rw [BitVec.msb_eq_decide, BitVec.toNat_ofInt]
    refine decide_eq_decide.mpr ?_
    omega
  rw [RVal.fixed_lo, hmsb]
  apply BitVec.eq_of_toNat_eq
  by_cases hneg : n < 0 <;> simp [RVal.fixed, hneg, Nat.shiftRight_eq_div_pow] <;> omega

/-- An entry reads as the FIXED sum written to it. -/
theorem Core.entryVal_putVal_fixed {n : Int} (h : fitsInt 128 n = true) (k : Core) (e : Nat) (c : Int) :
    (k.putVal e (RVal.fixed n c 0)).entryVal e = RVal.fixed n c 0 :=
  Core.entryVal_putVal rfl (by rw [RVal.fixed_tag]; exact fixedTag_fits c) (RVal.fixed_hi h c) k e

/-- Two FIXED values of one scale whose sum fits combine into the sum (R89, R92). -/
theorem combine_fixed {o n : Int} (ho : fitsInt 128 o = true) (hn : fitsInt 128 n = true) (hsum : fitsInt 128 (o + n) = true)
    (c : Int) : (combine (RVal.fixed o c 0) (RVal.fixed n c 0)).val = RVal.fixed (o + n) c 0 := by
  have hdom (m : Int) : (RVal.fixed m c 0).tag.dom = 1 := rfl
  have hflags (m : Int) : (RVal.fixed m c 0).tag.flags = 0 := by rw [RVal.fixed_tag]; rfl
  have hformed : (RVal.fixed n c 0).wellFormed = true := rfl
  have hscale : ((RVal.fixed o c 0).tag.c == (RVal.fixed n c 0).tag.c) = true := by
    rw [RVal.fixed_tag, RVal.fixed_tag, beq_self_eq_true]
  have hadd : satInt 128 ((RVal.fixed o c 0).q + (RVal.fixed n c 0).q) = (o + n, false) := by
    rw [RVal.fixed_q ho, RVal.fixed_q hn, satInt, if_pos hsum]
  simp only [combine, hformed, hdom, hflags, hscale, hadd, Bool.not_true, Bool.false_eq_true, if_false, Nat.one_ne_zero,
    decide_true, beq_self_eq_true, Bool.and_self, if_true, Nat.or_self]
  rfl

end Sys2Proof.Machine
end

section
/-! SUPPORT. The completion of a pass (R52, R68, R89, R109): what the last write of a part leaves. -/

namespace Sys2Proof.Machine

open Sys2Proof.Claims

/-- From `s` to `t` the memory, the other cores, and the other contexts of core `key` than `j` are unchanged, and the passes,
the inkwell and the reservoir of that core are those of `k`. -/
structure WritesCore (s t : State) (key j : Nat) (k : Core) : Prop where
  mem : t.mem = s.mem
  cores : ∀ i, i ≠ key → t.core i = s.core i
  ctxs : ∀ i, i ≠ j → t.ctx key i = s.ctx key i
  passes : (t.core key).passes = k.passes
  ink : (t.core key).ink = k.ink
  res : (t.core key).res = k.res

theorem WritesCore.refl (s : State) (key j : Nat) : WritesCore s s key j (s.core key) :=
  ⟨rfl, fun _ _ => rfl, fun _ _ => rfl, rfl, rfl, rfl⟩

section
variable {s t : State} {key j : Nat} {k : Core} (h : WritesCore s t key j k)
include h

/-- A change of the core that keeps its other contexts. -/
theorem WritesCore.updCore {f : Core → Core} (hf : ∀ i, i ≠ j → (f (t.core key)).ctx i = (t.core key).ctx i) :
    WritesCore s (t.updCore key f) key j (f (t.core key)) where
  mem := h.mem
  cores i hi := (t.core_updCore_ne key i f hi.symm).trans (h.cores i hi)
  ctxs i hi := by
    rw [State.ctx, State.core_updCore_same, hf i hi]
    exact h.ctxs i hi
  passes := by rw [State.core_updCore_same]
  ink := by rw [State.core_updCore_same]
  res := by rw [State.core_updCore_same]

/-- A change of the core that keeps its other contexts, its passes, its inkwell and its reservoir. -/
theorem WritesCore.updCore_same {f : Core → Core} (hf : ∀ i, i ≠ j → (f (t.core key)).ctx i = (t.core key).ctx i)
    (hpasses : (f (t.core key)).passes = (t.core key).passes) (hink : (f (t.core key)).ink = (t.core key).ink)
    (hres : (f (t.core key)).res = (t.core key).res) : WritesCore s (t.updCore key f) key j k := by
  obtain ⟨hmem, hcores, hctxs, hpasses', hink', hres'⟩ := h.updCore hf
  exact ⟨hmem, hcores, hctxs, (hpasses'.trans hpasses).trans h.passes, (hink'.trans hink).trans h.ink,
    (hres'.trans hres).trans h.res⟩

theorem WritesCore.updCtx (f : Ctx → Ctx) : WritesCore s (t.updCtx key j f) key j k :=
  h.updCore_same (fun i hi => Core.ctx_updCtx_ne _ j i f hi.symm) rfl rfl rfl

theorem WritesCore.updCmd (r : CmdRef) (f : Cmd → Cmd) : WritesCore s (t.updCmd r f) key j k :=
  ⟨h.mem, h.cores, h.ctxs, h.passes, h.ink, h.res⟩

/-- The counts of a context's events change that context, the core's counters, and the totals of its command (R52, R53). -/
theorem WritesCore.addCounts (sat flush : Nat) : WritesCore s (t.addCounts key j sat flush) key j k := by
  have hcounted := h.updCore_same (f := fun k =>
    ((k.updCtx j (fun x => x.addCounts sat flush)).countEvent 16 (some j) sat).countEvent 17 (some j) flush)
    (fun i hi => by simp [hi.symm]) (by simp) (by simp) (by simp)
  unfold State.addCounts
  dsimp only
  split
  · exact hcounted.updCmd _ _
  · exact hcounted

/-- A part that completes writes its outputs into its core, which keeps its contexts, and counts its events (R68, R109). -/
theorem WritesCore.completePart {part : PassPart} (hj : j = part.ctx)
    (hctxs : ((t.core key).writePart part).1.ctxs = (t.core key).ctxs) :
    WritesCore s (t.completePart key part) key j ((t.core key).writePart part).1 := by
  subst hj
  have hwrite := h.updCore (f := fun _ => ((t.core key).writePart part).1) fun i _ => by rw [Core.ctx, hctxs]; rfl
  exact (hwrite.updCtx _).addCounts _ _

end

/-- A part whose one output is one FIXED sum writes it, or its combination with the entry (R68, R89). -/
theorem Core.writePart_fixed {part : PassPart} {e : Nat} {n c : Int} (h : part.outs = [(e, .fixed [n] c 0)]) (k : Core) :
    (k.writePart part).1 = k.putVal e
      (if part.acc then (combine (k.entryVal e) (RVal.fixed n c 0)).val else RVal.fixed n c 0) := by
  rw [Core.writePart, h]
  cases hacc : part.acc <;> rfl

/-- Nothing holds the oldest pass: it leaves flight and its parts complete (R68). -/
theorem State.passComplete_oldest {s : State} {key : Nat} {p : Pass} {rest : List Pass} {part : PassPart}
    (hp : (s.core key).passes = p :: rest) (hparts : p.parts = [part]) :
    s.passComplete key 0 = (s.updCore key (fun k => { k with passes := k.passes.tail })).completePart key part := by
  simp [State.passComplete, Core.passHeld, hp, hparts]

/-- The completion of the oldest pass, whose one part has one FIXED output. -/
theorem State.passComplete_fixed {s : State} {key : Nat} {p : Pass} {rest : List Pass} {part : PassPart} {e : Nat} {n c : Int}
    (hp : (s.core key).passes = p :: rest) (hparts : p.parts = [part]) (houts : part.outs = [(e, .fixed [n] c 0)]) :
    WritesCore s (s.passComplete key 0) key part.ctx (Core.putVal { s.core key with passes := rest } e
      (if part.acc then (combine ((s.core key).entryVal e) (RVal.fixed n c 0)).val else RVal.fixed n c 0)) := by
  have hleave := (WritesCore.refl s key part.ctx).updCore (f := fun k => { k with passes := k.passes.tail }) fun _ _ => rfl
  have hcomplete := hleave.completePart rfl (by rw [Core.writePart_fixed houts]; rfl)
  rw [Core.writePart_fixed houts, State.core_updCore_same, hp] at hcomplete
  rw [State.passComplete_oldest hp hparts]
  exact hcomplete

end Sys2Proof.Machine
end

section
/-! SUPPORT. Checksum comparisons (R84 to R86), and the fault that a failed one raises on a core that runs no command (R333,
R345). -/

namespace Sys2Proof.Machine

open Sys2Proof.Claims

/-- The difference of a comparison is within 2^-S of the magnitude sum, and 2^-136 (R85). -/
def WithinTol (v : ChkSums) (err : Int) (tol : Nat) : Prop :=
  (v.expected - (v.row + err)).natAbs * 2 ^ tol ≤ v.magnitude + 2 ^ tol * 2 ^ 164

theorem checksumOk_iff (fmt : Fmt) (v : ChkSums) (err : Int) (s16 sb : Nat) : checksumOk fmt v err s16 sb = true ↔
    (match fmt with
     | .bf16 => WithinTol v err sb
     | .fp16 => WithinTol v err s16
     | _ => (v.expected - (v.row + err)).natAbs = 0) := by
  cases fmt <;> exact decide_eq_true_iff

/-- A comparison that the pass does not make does not fail. -/
theorem Core.failedCheck_of_none {k : Core} {f : ChecksumFail} (h : k.chkSums f = none) : k.failedCheck f = none := by
  rw [Core.failedCheck, h]
  rfl

theorem Core.failedCheck_eq_none_iff {k : Core} {f : ChecksumFail} {p : Pass} {q : PassPart} {fmt : Fmt} {v : ChkSums}
    (h : k.chkSums f = some (p, q, fmt, v)) :
    k.failedCheck f = none ↔ checksumOk fmt v f.err k.ctolFp16 k.ctolBf16 = true := by
  simp [Core.failedCheck, h]

theorem State.checksum_holds {s : State} {key : Nat} {f : ChecksumFail} (h : (s.core key).failedCheck f = none) :
    s.checksum key f = s := by
  rw [State.checksum, h]

/-- A value that a map gives is one that it lists. -/
theorem SMap.mem_of_find {α : Type} {m : SMap α} {i : Nat} {v : α} (h : SMap.find m i = some v) : (i, v) ∈ m := by
  induction m with
  | nil => exact nomatch h
  | cons p m ih =>
    obtain ⟨j, w⟩ := p
    simp only [SMap.find] at h
    split at h
    · next hi =>
      rw [hi, Option.some.inj h]
      exact List.mem_cons_self
    · split at h
      · exact nomatch h
      · exact List.mem_cons_of_mem _ (ih h)

/-- A context of a core with no command at work runs none. -/
theorem Core.ctx_job_of_no_jobs {k : Core} (h : k.jobs = []) (j : Nat) : (k.ctx j).job = none := by
  have hjobs : k.ctxs.filterMap (fun p => p.2.job) = [] := by
    unfold Core.jobs at h
    cases hl : k.ctxs.filterMap (fun p => p.2.job) with
    | nil => rfl
    | cons r rs => simp [hl, List.eraseDups_cons] at h
  have hnone : ∀ p ∈ k.ctxs, p.2.job = none := List.filterMap_eq_nil_iff.mp hjobs
  unfold Core.ctx SMap.get
  cases hfind : SMap.find k.ctxs j with
  | none => rfl
  | some x => exact hnone (j, x) (SMap.mem_of_find hfind)

@[simp] theorem State.faultRecord_core (s : State) (fn : Nat) (k : Strike) (addr ctx : Nat) (r : Option CmdRef) (key : Nat) :
    (s.faultRecord fn k addr ctx r).core key = s.core key := by
  have hcores : (s.faultRecord fn k addr ctx r).cores = s.cores := 
    (congrArg State.cores (State.record_sansHost s _ _) :)
  rw [State.core, hcores]
  rfl

/-- The first fault, of a kind other than 3, of a core that runs no command halts the core and is counted there (R330, R345). -/
theorem State.coreFault_idle {s : State} {key kind : Nat} (hkind : kind ≠ 3) (harmed : (s.core key).armed = false)
    (hjobs : (s.core key).jobs = []) (j addr handle row : Nat) :
    (s.coreFault key j kind addr handle row).core key =
      { s.core key with halted := true, faults := min ((s.core key).faults + 1) 255, armed := true, lastKind := kind } := by
  have hown : (s.ctx key j).job = none := Core.ctx_job_of_no_jobs hjobs j
  simp [State.coreFault, State.countFault, hkind, harmed, hjobs, hown, State.strikeAll, satAdd]

/-- A failed comparison on such a core is captured, and halts it (R86). -/
theorem State.checksum_fails {s : State} {key : Nat} {f : ChecksumFail} {p : Pass} {q : PassPart}
    (h : (s.core key).failedCheck f = some (p, q)) (hjobs : (s.core key).jobs = []) (harmed : (s.core key).armed = false) :
    (s.checksum key f).core key = { s.core key with
      fstat := (s.core key).fstat.capture p q f, halted := true, faults := min ((s.core key).faults + 1) 255, armed := true
      lastKind := 1 } := by
  have hcore : (s.updCore key (fun k => { k with fstat := k.fstat.capture p q f })).core key =
      { s.core key with fstat := (s.core key).fstat.capture p q f } := s.core_updCore_same key _
  rw [State.checksum, h]
  dsimp only
  rw [State.coreFault_idle (by decide) (by rw [hcore]; exact harmed) (by rw [hcore]; exact hjobs), hcore]

theorem exec_mmAccept_next (s : State) {r : CoreRef} (hr : CoreExists r) :
    exec (.mmAccept r) s = .next (s.mmAccept r.key) := by
  rw [exec_mmAccept, execMmAccept, onCore_next _ hr]

/-- A group that is open closes, and the matrix unit accepts what it can (R82). -/
theorem exec_cursiveGroupClose_open {s : State} {r : CoreRef} (hr : CoreExists r) (h : (s.core r.key).group ≠ []) :
    exec (.cursiveGroupClose r) s = .next ((s.updCore r.key (fun k => { k with groupClosed := true })).mmAccept r.key) := by
  rw [exec_cursiveGroupClose, execCursiveGroupClose, onCore_next _ hr]
  simp [h]

theorem exec_mmPassComplete_next (s : State) {r : CoreRef} (hr : CoreExists r) (i : Nat) :
    exec (.mmPassComplete r i) s = .next (s.passComplete r.key i) := by
  rw [exec_mmPassComplete, execMmPassComplete, onCore_next _ hr]

theorem exec_arrayChecksumFault_next (s : State) {r : CoreRef} (hr : CoreExists r) (f : ChecksumFail) :
    exec (.arrayChecksumFault r f) s = .next (s.checksum r.key f) := by
  rw [exec_arrayChecksumFault, execArrayChecksumFault, onCore_next _ hr]

end Sys2Proof.Machine

namespace Sys2Proof.Claims

open Sys2Proof.Machine

/-- Settles O25: acceptance by `State.mmAccept_next` and `State.mmAccept_group`, the completion of the oldest pass by
`State.passComplete_fixed` with the laws of FIXED entries, and the comparisons by `checksumOk_iff` and `State.checksum_fails`. -/
theorem matrixPassesComplete : Obligations.MatrixPassesComplete := by
  unfold Obligations.MatrixPassesComplete
  intro s r hr
  dsimp only
  refine ⟨fun q hrun hwin hgroup hroom hrevoked hnext hrows => ?accept,
    fun q qs hrun hgroup hroom hrevoked hwait hfree hrows ht => ?close,
    fun p rest part e n c hp hparts houts hn => ?complete, fun f => Core.failedCheck_of_none,
    fun f p q fmt v h => (Core.failedCheck_eq_none_iff h).trans (checksumOk_iff ..),
    fun f h => ⟨_, exec_arrayChecksumFault_next s hr f, State.checksum_holds h⟩,
    fun f p q h hjobs harmed => ⟨_, exec_arrayChecksumFault_next s hr f, State.checksum_fails h hjobs harmed⟩⟩
  case accept =>
    obtain ⟨honly, haccepts⟩ := State.mmAccept_next hrun hwin hgroup hroom hrevoked hnext hrows
    rw [Core.passOf_single] at haccepts
    exact ⟨_, exec_mmAccept_next s hr, honly, haccepts.mmWait, haccepts.res, haccepts.ink, haccepts.lastCtx,
      haccepts.passes⟩
  case close =>
    let u := s.updCore r.key (fun k => { k with groupClosed := true })
    have hu : u.core r.key = { s.core r.key with groupClosed := true } := s.core_updCore_same r.key _
    have hgroups := State.mmAccept_group (s := u) (key := r.key) (q := q) (qs := qs)
    rw [hu] at hgroups
    obtain ⟨honly, haccepts⟩ := hgroups hrun hgroup rfl hroom hrevoked hwait hfree hrows (by rw [coreRef_key_div hr]; exact ht)
    exact ⟨_, exec_cursiveGroupClose_open hr (by rw [hgroup]; exact List.cons_ne_nil q qs),
      onlyCore_trans (s.updCore_onlyCore r.key rfl) honly, haccepts.group, haccepts.groupClosed, haccepts.res, haccepts.ink,
      _, haccepts.passes, rfl, rfl, rfl⟩
  case complete =>
    have hwrites := State.passComplete_fixed hp hparts houts
    refine ⟨_, exec_mmPassComplete_next s hr 0, hwrites.passes, hwrites.ink, fun a => congrArg (Memory.read · a) hwrites.mem,
      fun hacc => ?replaces, fun o hacc ho hfits hsum => ?adds, fun i hi => ?entries, hwrites.ctxs, hwrites.cores⟩
    case replaces =>
      rw [hacc] at hwrites
      exact (Core.entryVal_of_res hwrites.res e).trans (Core.entryVal_putVal_fixed hn _ e c)
    case adds =>
      rw [hacc, if_pos rfl, ho, combine_fixed hfits hn hsum] at hwrites
      exact (Core.entryVal_of_res hwrites.res e).trans (Core.entryVal_putVal_fixed hsum _ e c)
    case entries =>
      rw [hwrites.res]
      refine Core.res_putVal_ne ?_ _ hi
      split
      · exact combine_dom rfl _
      · rfl

end Sys2Proof.Claims
end

section
/-! SUPPORT. The issue of vector instructions (R113, R119, R120, R136): what one that passes its checks leaves, and the wake of a
gated unit (R134, R135). -/

namespace Sys2Proof.Machine

open Sys2Proof.Claims

/-- No register that is read has a parity error (R136). -/
theorem State.parity_good {s : State} {c : CtxRef} {regs : List Nat} (h : ∀ r ∈ regs, (s.ctxOf c).vbad.contains r = false)
    (f : State) : s.parity c regs f = f := by
  have hgood : regs.find? (fun r => (s.ctxOf c).vbad.contains r && (s.ctxOf c).vsettled r) = none :=
    List.find?_eq_none.mpr fun r hr => by rw [h r hr]; exact Bool.false_ne_true
  simp only [State.parity, hgood]

/-- A vector instruction that can issue has its row's effect. -/
theorem State.issueVec_next {s : State} {row : Row} {c : CtxRef} {w : Word32} {masks regs : List Nat}
    (h : VecIssues s row c w masks regs) (f : State → State) : s.issueVec row c w masks regs f = .next (f s) := by
  obtain ⟨⟨hcore, hready, hrow, hscalar⟩, htype, hmasks, hregs⟩ := h
  have hfree : (if vMask w = 0 then masks else vMask w :: masks).any (s.ctxOf c).maskBusy = false :=
    List.any_eq_false.mpr fun m hm => by rw [hmasks m hm]; exact Bool.false_ne_true
  rw [State.issueVec, State.issue_next _ hcore hready hrow hscalar, State.parity_good hregs]
  simp only [htype, hfree, Bool.not_true, Bool.false_eq_true, if_false]

/-- A change of a context leaves all else of its core as it was. -/
theorem State.core_updCtxOf (s : State) (c : CtxRef) (f : Ctx → Ctx) :
    (s.updCtxOf c f).core c.key = (s.core c.key).updCtx c.idx f := s.core_updCore_same ..

/-- A change of a context changes that context alone. -/
theorem State.updCtxOf_onlyCtx (s : State) (c : CtxRef) (f : Ctx → Ctx) : OnlyCtx s (s.updCtxOf c f) c := by
  refine ⟨rfl, fun _ => rfl, fun k hk => s.core_updCore_ne _ _ _ hk.symm, ?_, fun j hj => ?_⟩
  · rw [State.core_updCtxOf]
    rfl
  · rw [State.ctx, State.core_updCtxOf, Core.ctx_updCtx_ne _ _ _ _ hj.symm]
    rfl

theorem onlyCtx_trans {s t u : State} {c : CtxRef} (h : OnlyCtx s t c) (g : OnlyCtx t u c) : OnlyCtx s u c := by
  obtain ⟨hst, hmem, hcores, hcore, hctxs⟩ := h
  obtain ⟨htu, hmem', hcores', hcore', hctxs'⟩ := g
  exact ⟨by rw [htu, hst], fun a => (hmem' a).trans (hmem a), fun k hk => (hcores' k hk).trans (hcores k hk),
    by rw [hcore', hcore], fun j hj => (hctxs' j hj).trans (hctxs j hj)⟩

/-- An instruction that enters its unit is in flight with its result. -/
theorem State.pushVec_inFlight (s : State) (c : CtxRef) (o : VecOp) : InFlight s (s.pushVec c o) c o := by
  refine ⟨s.updCtxOf_onlyCtx c _, ?_, s.ctxOf_updCtxOf c _⟩
  rw [State.pushVec, State.core_updCtxOf]
  rfl

theorem Core.unit_setUnit (k : Core) (u v : GUnit) (p : UnitPower) :
    (k.setUnit u p).unit v = if v = u then p else k.unit v := by
  cases u <;> cases v <;> rfl

/-- A unit that is powered down wakes; every other unit, and one that is not, stays as it is. -/
theorem Core.unit_wake (k : Core) (u v : GUnit) :
    (k.wake u).unit v = if v = u ∧ k.unit u = .off then .waking else k.unit v := by
  unfold Core.wake
  by_cases hoff : k.unit u = .off <;> simp [hoff, Core.unit_setUnit]

theorem Core.wake_ctxs (k : Core) (u : GUnit) : (k.wake u).ctxs = k.ctxs := by
  unfold Core.wake Core.setUnit
  split
  · cases u <;> rfl
  · rfl

/-- The core after VWAKE has named units by its operand: bit 0 the VXU, bit 1 the VGU (R135). -/
def Core.wakeNamed (k : Core) (w : Word32) : Core :=
  let k1 := if wRs1 w % 2 = 1 then k.wake .vxu else k
  if wRs1 w / 2 % 2 = 1 then k1.wake .vgu else k1

theorem Core.wakeNamed_ctxs (k : Core) (w : Word32) : (k.wakeNamed w).ctxs = k.ctxs := by
  simp only [Core.wakeNamed, apply_ite Core.ctxs, Core.wake_ctxs, ite_self]

theorem Core.wakeNamed_vxu {k : Core} {w : Word32} (hnamed : wRs1 w % 2 = 1) (hoff : k.unit .vxu = .off) :
    (k.wakeNamed w).unit .vxu = .waking := by
  simp [Core.wakeNamed, apply_ite (Core.unit · .vxu), Core.unit_wake, hnamed, hoff]

theorem Core.wakeNamed_vgu {k : Core} {w : Word32} (hnamed : wRs1 w / 2 % 2 = 1) (hoff : k.unit .vgu = .off) :
    (k.wakeNamed w).unit .vgu = .waking := by
  simp [Core.wakeNamed, apply_ite (Core.unit · .vgu), Core.unit_wake, hnamed, hoff]

/-- VWAKE starts the wakes, and enters the instructions in flight without a result. -/
theorem execVwake_next {s : State} {c : CtxRef} {w : Word32} (h : VecIssues s .vwake c w [] []) :
    execVwake c w s = .next ((s.updCore c.key (Core.wakeNamed · w)).pushVec c {}) := State.issueVec_next h _

end Sys2Proof.Machine

namespace Sys2Proof.Claims

open Sys2Proof.Machine

/-- Settles O23: each instruction enters its unit with its result, as `State.pushVec_inFlight` says; before it VWAKE has started
the wake of the units that it names. -/
theorem vectorReductionsComplete : Obligations.VectorReductionsComplete := by
  unfold Obligations.VectorReductionsComplete
  intro s c w
  dsimp only
  have hresult (o : VecOp) : InFlight s (s.pushVec c o) c o := s.pushVec_inFlight c o
  refine ⟨fun h => ⟨_, (exec_vmsk ..).trans (State.issueVec_next h _), hresult _⟩,
    fun h => ⟨_, (exec_vsumF ..).trans (State.issueVec_next h _), hresult _⟩,
    fun h => ⟨_, (exec_vsumI ..).trans (State.issueVec_next h _), hresult _⟩,
    fun h => ⟨_, (exec_vmaxF ..).trans (State.issueVec_next h _), hresult _⟩,
    fun h => ⟨_, (exec_vminF ..).trans (State.issueVec_next h _), hresult _⟩,
    fun h => ⟨_, (exec_vpopc ..).trans (State.issueVec_next h _), hresult _⟩,
    fun h => ⟨_, (exec_vfirst ..).trans (State.issueVec_next h _), hresult _⟩, fun h => ?vwake⟩
  case vwake =>
    obtain ⟨-, -, -, hctxs⟩ := s.updCore_onlyCore c.key (f := (Core.wakeNamed · w)) (Core.wakeNamed_ctxs _ w)
    refine ⟨_, (exec_vwake ..).trans (execVwake_next h), fun _ => rfl, fun hnamed hoff => ?vxu, fun hnamed hoff => ?vgu, ?pc⟩
    case vxu =>
      rw [State.pushVec, State.core_updCtxOf, State.core_updCore_same]
      exact Core.wakeNamed_vxu hnamed hoff
    case vgu =>
      rw [State.pushVec, State.core_updCtxOf, State.core_updCore_same]
      exact Core.wakeNamed_vgu hnamed hoff
    case pc =>
      rw [State.pushVec, State.ctxOf_updCtxOf, State.ctxOf, hctxs]
      rfl

end Sys2Proof.Claims
end

section
/-! SUPPORT. Register images of elements (R33, R111, R122), and what an encoding without fine offsets and draws makes of the
active positions (R39). -/

namespace Sys2Proof.Machine

open Sys2Proof.Claims

theorem Fmt.width_mul_count (f : Fmt) : f.width * f.count = 16384 := by cases f <;> decide

theorem elem_lt (v : BitVec 16384) (w k : Nat) : elem v w k < 2 ^ w := Nat.mod_lt _ (Nat.two_pow_pos w)

/-- A register packed from n elements of w bits, which fill it, holds each of them. -/
theorem elem_packV {w n : Nat} (h : w * n = 16384) (g : Nat → Nat) {k : Nat} (hk : k < n) :
    elem (packV w ((List.range n).map g)) w k = g k % 2 ^ w := by
  rw [elem, packV, fld_packed (by rw [List.length_map, List.length_range, h]), getD_range_map g hk]

theorem Fx.join_empty (a : Fx) : a.join {} = a := by simp [Fx.join]

/-- The computed element at an active position; at an inactive one 0, or the old element (R122). -/
theorem eachElem_codes (n : Nat) (act : Nat → Bool) (mz : Bool) (old : Nat → Nat) (f : Nat → Nat × Fx) :
    (eachElem n act mz old f).1 =
      (List.range n).map (fun k => if act k then (f k).1 else if mz then 0 else old k) := by
  have hstep (a : List Nat × Fx) (k : Nat) :
      (if act k then ((f k).1 :: a.1, a.2.join (f k).2) else ((if mz then 0 else old k) :: a.1, a.2)) =
        ((if act k then f k else (if mz then 0 else old k, {})).1 :: a.1,
          a.2.join (if act k then f k else (if mz then 0 else old k, {})).2) := by
    split
    · rfl
    · rw [Fx.join_empty]
  simp only [eachElem, hstep]
  rw [foldl_eachElem, List.append_nil, List.reverse_reverse]
  exact List.map_congr_left fun k _ => by split <;> rfl

/-- Without fine offsets and draws the value of each active position is rounded to nearest by itself (R39). -/
theorem encodeAll_codes {w : FmtWord} (hs : w.scale ≠ 2) (n : Nat) (act : Nat → Bool) (val : Nat → FVal)
    (flags : Conv → FVal → BitVec 5) : (encodeAll w n act val [] flags).1 =
      (List.range n).map (fun k => if act k then (w.store 0 0 (val k)).bits else 0) := by
  simp [encodeAll, eachElem_codes, hs]

/-- A destination that is rounded to nearest takes no draws (R43). -/
theorem FmtWord.draws_nearest {w : FmtWord} (h : w.stoch = false) (src : Option FmtWord) (n : Nat) (g : BitVec 32) :
    w.draws src n g = [] := by
  simp [FmtWord.draws, FmtWord.takesDraws, h]

theorem FmtWord.genAfter_nearest {w : FmtWord} (h : w.stoch = false) (src : Option FmtWord) (n : Nat) (g : BitVec 32) :
    w.genAfter src n g = none := by
  simp [FmtWord.genAfter, FmtWord.takesDraws, h]

end Sys2Proof.Machine
end

section
/-! SUPPORT. Stores of a whole register image to four inkwell rows (R124, R136, R165, R171). -/

namespace Sys2Proof.Machine

open Sys2Proof.Claims

/-- A locator of the inkwell with no reserved bit set raises no trap (R166). -/
theorem State.locOk_ink {l : Word} (hink : isInk l = true) (hgood : inkLocBad l = false) (s : State) (c : CtxRef) (f : State) :
    s.locOk c l f = f := by
  simp [State.locOk, locTrap, hink, hgood]

/-- A valid handle without write protection passes the checks of rows that it has (R171). -/
theorem Core.checkRows_ok {k : Core} {h : Nat} {rows : List Nat} (hst : (k.handle h).st = 1) (hwp : (k.handle h).wp = false)
    (hrows : ∀ r ∈ rows, r < (k.handle h).count) (write : Bool) : k.checkRows h rows write = .ok (k.handle h).base := by
  have hbeyond : rows.filter (fun r => decide ((k.handle h).count ≤ r)) = [] :=
    List.filter_eq_nil_iff.mpr fun r hr => by simpa using hrows r hr
  simp [Core.checkRows, hst, hwp, hbeyond]

/-- Elements of which each has all its bits set have all their bits set. -/
theorem activeBits_all {act : Nat → Bool} (hact : ∀ k, act k = true) (w n : Nat) : activeBits w n act = 2 ^ (w * n) - 1 := by
  have hones (l : List Nat) : packNat w (l.map (fun _ => 2 ^ w - 1)) = 2 ^ (w * l.length) - 1 := by
    induction l with
    | nil => rfl
    | cons a l ih =>
      have hw := Nat.two_pow_pos w
      have hl := Nat.two_pow_pos (w * l.length)
      rw [List.map_cons, packNat_cons, ih, Nat.mod_eq_of_lt (by omega), List.length_cons, Nat.mul_succ, Nat.pow_add,
        Nat.sub_mul, Nat.one_mul]
      have hle : 2 ^ w ≤ 2 ^ (w * l.length) * 2 ^ w := Nat.le_mul_of_pos_left _ hl
      omega
  simp only [activeBits, hact, if_true]
  rw [hones, List.length_range]

/-- The bits of a number, all below bit 16384 set, that row i of four holds. -/
theorem ones_row {i : Nat} (hi : i < 4) : BitVec.ofNat 4096 ((2 ^ 16384 - 1) / 2 ^ (4096 * i)) = BitVec.allOnes 4096 := by
  refine BitVec.eq_of_getLsbD_eq fun j hj => ?_
  rw [BitVec.getLsbD_ofNat, Nat.testBit_div_two_pow, Nat.testBit_two_pow_sub_one, BitVec.getLsbD_allOnes]
  simp only [hj, decide_true, Bool.true_and, decide_eq_true_eq]
  omega

/-- A field that begins among the set bits is not 0. -/
theorem fld_ones_ne_zero {n m lo len : Nat} (hn : lo < n) (hm : lo < m) (hlen : 0 < len) :
    fld (BitVec.ofNat n (2 ^ m - 1)) lo len ≠ 0 := by
  have hbit : (fld (BitVec.ofNat n (2 ^ m - 1)) lo len).testBit 0 = true := by
    rw [fld, Nat.testBit_mod_two_pow, Nat.testBit_shiftRight, BitVec.toNat_ofNat, Nat.testBit_mod_two_pow,
      Nat.testBit_two_pow_sub_one]
    simp [hn, hm, hlen]
  intro hzero
  rw [hzero, Nat.zero_testBit] at hbit
  exact Bool.false_ne_true hbit

/-- A mask that covers a register covers four rows. -/
theorem imageRows_register : imageRows (2 ^ 16384 - 1) 2048 = List.range 4 := by
  refine List.filter_eq_self.mpr fun i hi => ?_
  have hlt : i < 4 := List.mem_range.mp hi
  exact bne_iff_ne.mpr (fld_ones_ne_zero (by omega) (by omega) (by omega))

/-- Row i of packed elements is that of the register that they make. -/
theorem packNat_row (w : Nat) (l : List Nat) {i : Nat} (hi : i < 4) :
    BitVec.ofNat 4096 (packNat w l / 2 ^ (4096 * i)) = (packV w l).extractLsb' (4096 * i) 4096 := by
  refine BitVec.eq_of_getLsbD_eq fun j hj => ?_
  have hlt : 4096 * i + j < 16384 := by omega
  rw [BitVec.getLsbD_ofNat, Nat.testBit_div_two_pow, BitVec.getLsbD_extractLsb', packV, BitVec.getLsbD_ofNat, Nat.add_comm j]
  simp [hj, hlt]

/-- The stores of a register image to the four rows from the one that a locator names, its handle beginning at row `base`. -/
def registerStores (l : Word) (base : Nat) (v : BitVec 16384) : List VStore :=
  (List.range 4).map (fun i => VStore.ink (base + inkRow l + i) (inkHandle l) (inkRow l + i) (BitVec.allOnes 4096)
    (v.extractLsb' (4096 * i) 4096))

section
variable {s : State} {c : CtxRef} {l : Word} {w n : Nat} {act : Nat → Bool} (hfull : w * n = 16384) (hact : ∀ k, act k = true)
include hfull hact

/-- A whole register image passes the checks of its inkwell locator when the handle has its four rows (R171). -/
theorem State.planOut_register (hink : isInk l = true) (hst : ((s.core c.key).handle (inkHandle l)).st = 1)
    (hwp : ((s.core c.key).handle (inkHandle l)).wp = false)
    (hrows : ∀ i, i < 4 → inkRow l + i < ((s.core c.key).handle (inkHandle l)).count) (ol : Word)
    (f : LocPlan → LocPlan → State → State) : s.planOut c l ol false w n act f =
      f (.rows ((s.core c.key).handle (inkHandle l)).base) (.rows ((s.core c.key).handle (inkHandle l)).base) s := by
  have hcheck : ∀ r ∈ (List.range 4).map (fun i => inkRow l + i), r < ((s.core c.key).handle (inkHandle l)).count := by
    intro r hr
    obtain ⟨i, hi, rfl⟩ := List.mem_map.mp hr
    exact hrows i (List.mem_range.mp hi)
  have hbytes : imageBytes w n = 2048 := by rw [imageBytes, hfull]
  simp only [State.planOut, State.locPlan, hink, if_true, activeBits_all hact, hfull, hbytes, imageRows_register,
    Core.checkRows_ok hst hwp hcheck, State.inkChecked, Bool.false_eq_true, if_false]

/-- The stores of the elements of a whole register image are those of its four rows. -/
theorem State.storeOut_register (ol : Word) (base : Nat) (q : LocPlan) (codes offs : List Nat)
    (f : List VStore → State → State) : s.storeOut c l ol false w n act (.rows base) q codes offs f =
      f (registerStores l base (packV w codes)) s := by
  have hbytes : imageBytes w n = 2048 := by rw [imageBytes, hfull]
  simp only [State.storeOut, State.planWrite, activeBits_all hact, hfull, hbytes, imageRows_register, Bool.false_eq_true,
    if_false, registerStores]
  refine congrArg (f · s) (List.map_congr_left fun i hi => ?_)
  rw [ones_row (List.mem_range.mp hi), packNat_row w codes (List.mem_range.mp hi)]

end

end Sys2Proof.Machine
end

section
/-! SUPPORT. The issue of reservoir instructions (R78, R131, R132), and what a reservoir read with OP 0 gives (R98, R99). -/

namespace Sys2Proof.Machine

open Sys2Proof.Claims

/-- The epilogue descriptor that a reservoir instruction names (R130, R131). -/
def Ctx.edDesc (x : Ctx) (w : Word32) : EdDesc := EdDesc.parse (SMap.get x.ed (vType w) 0)

/-- The offset of a reservoir instruction's first entry (R131). -/
def Ctx.resOffset (x : Ctx) (w : Word32) : Nat := (x.rx (wRs1 w)).toNat

/-- A reservoir instruction that can issue has its row's effect, on the positions of its elements that are active. -/
theorem State.issueRes_next {s : State} {row : Row} {c : CtxRef} {w : Word32} {regs : List Nat} {raw : Bool} {o : FmtWord}
    (h : ResIssues s row c w regs raw o) (f : EdDesc → FmtWord → Option FmtWord → Nat → List Nat → State → State) :
    s.issueRes row c w regs raw f = .next (f ((s.ctxOf c).edDesc w) o none ((s.ctxOf c).resOffset w)
      ((List.range (if raw then 32 else o.fmt.count)).filter ((s.ctxOf c).active w)) s) := by
  obtain ⟨hvec, hwords, -, -, hrange, hfree⟩ := h
  have hin : ((List.range (if raw then 32 else o.fmt.count)).filter ((s.ctxOf c).active w)).any (fun e =>
      decide (16384 ≤ (EdDesc.parse (SMap.get (s.ctxOf c).ed (vType w) 0)).entry ((s.ctxOf c).rx (wRs1 w)).toNat e)) = false :=
    List.any_eq_false.mpr fun e he => by simpa using hrange e he
  rw [State.issueRes, State.issueVec_next hvec]
  simp only [hwords, hin, hfree, Bool.false_eq_true, if_false]
  rfl

/-- A descriptor that takes no second operand has OP 0 (R130). -/
theorem EdDesc.op_of_words {d : EdDesc} {vrrd : Bool} {o : FmtWord} (h : d.words vrrd = some (o, none)) : d.op = 0 := by
  refine Decidable.byContradiction fun hop => ?_
  simp only [EdDesc.words, hop, if_false] at h
  repeat' split at h
  all_goals exact nomatch h

/-- The codes, offsets and effects of a reservoir read that has no second operand. -/
def State.resRead (s : State) (c : CtxRef) (w : Word32) (o : FmtWord) : List Nat × List Nat × Fx :=
  s.readOut c w ((s.ctxOf c).edDesc w) o ((s.ctxOf c).resOffset w) (fun _ => .fin false 0 0)

section
variable {s : State} {row : Row} {c : CtxRef} {w : Word32} {regs : List Nat} {raw : Bool} {o : FmtWord}
  (h : ResIssues s row c w regs raw o)
include h

/-- With OP 0 each active position gives its entry's value times μ, rounded once to nearest (R98, R99). -/
theorem State.resRead_codes : (s.resRead c w o).1 = (List.range o.fmt.count).map (fun e =>
    if (s.ctxOf c).active w e then (o.store 0 0 (mulF ((s.core c.key).entryVal (resEntry (s.ctxOf c) w e)).value
      (((s.ctxOf c).edDesc w).mu (s.ctxOf c) w)).1).bits else 0) := by
  obtain ⟨-, hwords, hscale, hstoch, -, -⟩ := h
  have hop : ((s.ctxOf c).edDesc w).op = 0 := EdDesc.op_of_words hwords
  simp only [State.resRead, State.readOut, FmtWord.draws_nearest hstoch, encodeAll_codes hscale]
  refine List.map_congr_left fun e he => ?_
  split
  · next hact =>
    have hlt : e < o.fmt.count := List.mem_range.mp he
    simp only [List.getD_eq_getElem?_getD, List.getElem?_map, List.getElem?_range hlt, Option.map_some, Option.getD_some, hact,
      if_true, hop, epilogue]
    rfl
  · rfl

/-- The code of an active position, in the bits of its element. -/
theorem State.resRead_code {e : Nat} (he : e < o.fmt.count) (hact : (s.ctxOf c).active w e = true) :
    (s.resRead c w o).1.getD e 0 % 2 ^ o.fmt.width = resCode s c w o e := by
  rw [State.resRead_codes h, getD_range_map _ he, if_pos hact]
  rfl

end

/-- The elements that VRRD gives: the codes of the active positions; the others are 0 or as they were (R122). -/
def State.vrrdElem (s : State) (c : CtxRef) (w : Word32) (o : FmtWord) (e : Nat) : Nat :=
  if (s.ctxOf c).active w e then (s.resRead c w o).1.getD e 0
  else if vMz w then 0 else elem ((s.ctxOf c).vreg (wRd w)) o.fmt.width e

/-- VRRD enters its unit with its elements (R131). -/
theorem execVrrd_next {s : State} {c : CtxRef} {w : Word32} {o : FmtWord} (h : ResIssues s .vrrd c w (keepsOld w) false o) :
    execVrrd c w s = .next (s.pushVec c (VecOp.ofV (wRd w)
      (packV o.fmt.width ((List.range o.fmt.count).map (s.vrrdElem c w o))) (s.resRead c w o).2.2)) := by
  have ⟨_, _, _, hstoch, _⟩ := h
  rw [execVrrd, State.issueRes_next h]
  simp only [State.checkT, State.readT, FmtWord.genAfter_nearest hstoch]
  rfl

/-- The elements that VRRAW gives: the raw records of the active positions; the others are 0 or as they were (R108, R122). -/
def State.vrrawElem (s : State) (c : CtxRef) (w : Word32) (e : Nat) : Nat :=
  if (s.ctxOf c).active w e then ((s.core c.key).entryVal (resEntry (s.ctxOf c) w e)).rawBits.toNat
  else if vMz w then 0 else elem ((s.ctxOf c).vreg (wRd w)) 512 e

/-- VRRAW enters its unit with its elements (R131). -/
theorem execVrraw_next {s : State} {c : CtxRef} {w : Word32} {o : FmtWord} (h : ResIssues s .vrraw c w (keepsOld w) true o) :
    execVrraw c w s = .next (s.pushVec c
      { destV := some (wRd w, packV 512 ((List.range 32).map (s.vrrawElem c w))) }) := State.issueRes_next h _

theorem State.vrrawElem_mod (s : State) (c : CtxRef) (w : Word32) (e : Nat) :
    s.vrrawElem c w e % 2 ^ 512 = s.vrrawElem c w e := by
  unfold State.vrrawElem
  split
  · rw [BitVec.toNat_mod_cancel]
  · split
    · exact Nat.zero_mod _
    · exact Nat.mod_eq_of_lt (elem_lt ..)

/-- The handle lets the context write the four rows from the one that an inkwell locator names (R166, R171). -/
structure WritableRegister (k : Core) (l : Word) : Prop where
  ink : isInk l = true
  good : inkLocBad l = false
  valid : (k.handle (inkHandle l)).st = 1
  writable : (k.handle (inkHandle l)).wp = false
  rows : ∀ i, i < 4 → inkRow l + i < (k.handle (inkHandle l)).count

/-- VRST with every position active enters its unit with the stores of its codes to four inkwell rows (R131). -/
theorem execVrst_next {s : State} {c : CtxRef} {w : Word32} {o : FmtWord} (h : ResIssues s .vrst c w [] false o)
    (hact : ∀ e, (s.ctxOf c).active w e = true) (hl : WritableRegister (s.core c.key) ((s.ctxOf c).rx (wRd w))) :
    execVrst c w s = .next (s.pushMem c {
      flags := (s.resRead c w o).2.2.fl, sat := (s.resRead c w o).2.2.sat, flush := (s.resRead c w o).2.2.flush
      stores := registerStores ((s.ctxOf c).rx (wRd w)) ((s.core c.key).handle (inkHandle ((s.ctxOf c).rx (wRd w)))).base
        (packV o.fmt.width (s.resRead c w o).1) }) := by
  have ⟨_, _, hscale, hstoch, _⟩ := h
  have hplain : (o.scale == 2) = false := beq_false_of_ne hscale
  rw [execVrst, State.issueRes_next h]
  simp only [hplain, Bool.false_and, Bool.false_eq_true, if_false, State.locOk_ink hl.ink hl.good, State.checkT, State.readT,
    State.planOut_register o.fmt.width_mul_count hact hl.ink hl.valid hl.writable hl.rows,
    State.storeOut_register o.fmt.width_mul_count hact, FmtWord.genAfter_nearest hstoch]
  rfl

end Sys2Proof.Machine

namespace Sys2Proof.Claims

open Sys2Proof.Machine

/-- Settles O26: VEDSET writes its descriptor and enters its unit; the reads enter it with the images of `execVrrd_next`,
`execVrst_next` and `execVrraw_next`, whose elements are those that were packed (`elem_packV`). -/
theorem reservoirReadsComplete : Obligations.ReservoirReadsComplete := by
  unfold Obligations.ReservoirReadsComplete
  intro s c w
  dsimp only
  refine ⟨fun h => ?vedset, fun o h => ?vrrd, fun o h hmask hink hgood hst hwp hrows => ?vrst, fun o h => ?vrraw⟩
  case vedset =>
    refine ⟨_, (exec_vedset ..).trans (State.issueVec_next h _), onlyCtx_trans (State.updCtxOf_onlyCtx ..)
      (State.updCtxOf_onlyCtx ..), ?_⟩
    rw [State.pushVec, State.ctxOf_updCtxOf, State.ctxOf_updCtxOf]
  case vrrd =>
    refine ⟨_, (exec_vrrd ..).trans (execVrrd_next h), _, _, fun e he => ?_, State.pushVec_inFlight ..⟩
    rw [elem_packV o.fmt.width_mul_count _ he, State.vrrdElem]
    split
    · exact State.resRead_code h he ‹_›
    · split
      · exact Nat.zero_mod _
      · exact Nat.mod_eq_of_lt (elem_lt ..)
  case vrst =>
    have hact (e : Nat) : (s.ctxOf c).active w e = true := by simp [Ctx.active, hmask]
    refine ⟨_, (exec_vrst ..).trans (execVrst_next h hact ⟨hink, hgood, hst, hwp, hrows⟩), _, _, fun e he => ?_,
      State.pushVec_inFlight ..⟩
    rw [State.resRead_codes h, elem_packV o.fmt.width_mul_count _ he, if_pos (hact e)]
    rfl
  case vrraw =>
    refine ⟨_, (exec_vrraw ..).trans (execVrraw_next h), _, fun e he => ?_, State.pushVec_inFlight ..⟩
    rw [elem_packV (by decide) _ he, State.vrrawElem_mod]
    rfl

end Sys2Proof.Claims
end

section
/-! SUPPORT. One value combined into an entry of the reservoir (R89, R108), and the stores that carry it there (R121). -/

namespace Sys2Proof.Machine

open Sys2Proof.Claims

/-- A key that was removed is not listed. -/
theorem SMap.get_del_same {α : Type} (m : SMap α) (k : Nat) (d : α) : SMap.get (SMap.del m k) k d = d := by
  have hfind : SMap.find (SMap.del m k) k = none := by
    induction m with
    | nil => rfl
    | cons p m ih =>
      obtain ⟨j, v⟩ := p
      unfold SMap.del at ih ⊢
      by_cases hj : j = k
      · simp [hj, ih]
      · simp only [List.filter_cons, bne_iff_ne, ne_eq, hj, not_false_eq_true, if_true, SMap.find, if_false, ih, ite_self]
  rw [SMap.get, hfind, Option.getD_none]

/-- An entry reads as what was put there, an EMPTY one too. -/
theorem get_putEntry_same (m : SMap ResEntry) (n : Nat) (e : ResEntry) : SMap.get (putEntry m n e) n {} = e := by
  unfold putEntry
  split
  · next hempty => rw [SMap.get_del_same, hempty]
  · exact SMap.get_set_same ..

/-- A value that is not HATCHED combines with any entry into a value that is not (R89). -/
theorem combine_not_hatched (e : RVal) {v : RVal} (h : v.tag.dom ≠ 3) : (combine e v).val.tag.dom ≠ 3 := by
  have hthree : (v.tag.dom == 3) = false := beq_false_of_ne h
  simp only [combine, hthree, Bool.and_false, Bool.false_eq_true, if_false]
  split
  · decide
  · split
    · exact h
    · split
      · next hfixed =>
        simp only [Bool.and_eq_true, decide_eq_true_eq] at hfixed
        obtain ⟨⟨hdom, -⟩, -⟩ := hfixed
        exact fun hd => absurd (hdom.symm.trans hd) (by decide)
      · split
        · next hfp32 =>
          simp only [Bool.and_eq_true, decide_eq_true_eq] at hfp32
          obtain ⟨⟨hdom, -⟩, -⟩ := hfp32
          exact fun hd => absurd (hdom.symm.trans hd) (by decide)
        · exact h

/-- A value that is not HATCHED is stored in its entry alone (R105). -/
theorem Core.res_putVal_same (k : Core) (n : Nat) {v : RVal} (h : v.tag.dom ≠ 3) :
    SMap.get (k.putVal n v).res n {} = { data := v.lo, tag := v.tag.bits } := by
  rw [Core.putVal, RVal.entries, if_neg h]
  exact get_putEntry_same ..

/-- The stores of one entry. -/
theorem resStores_single (k : Core) (n : Nat) : resStores k [n] = [VStore.res n (SMap.get k.res n {})] := rfl

/-- A value that is not HATCHED combines with the entry that it names, and no other. -/
theorem Core.combineAt_not_hatched (k : Core) (n : Nat) {v : RVal} (h : v.tag.dom ≠ 3) (cnt : ResCounts) :
    k.combineAt n v cnt = (k.putVal n (combine (k.entryVal n) v).val,
      { mismatch := cnt.mismatch + b2n (combine (k.entryVal n) v).mismatch
        ovf := cnt.ovf + b2n (combine (k.entryVal n) v).ovf }) := by
  rw [Core.combineAt, if_neg h]

/-- The raw record of a position of a register (R108). -/
def rawRecord (v : BitVec 16384) (e : Nat) : RVal := RVal.ofRaw (v.extractLsb' (512 * e) 512)

/-- VRCOMB with one active position, whose record is not HATCHED, enters its unit with the store of the combined entry. -/
theorem execVrcomb_next {s : State} {c : CtxRef} {w : Word32} {o : FmtWord} (h : ResIssues s .vrcomb c w [wRd w] true o)
    {e : Nat} (he : (List.range 32).filter ((s.ctxOf c).active w) = [e]) {v : RVal}
    (hv : rawRecord ((s.ctxOf c).vreg (wRd w)) e = v) (hdom : v.tag.dom ≠ 3) {r : Combined}
    (hr : combine ((s.core c.key).entryVal (resEntry (s.ctxOf c) w e)) v = r) :
    execVrcomb c w s = .next (s.pushVec c {
      stores := [VStore.res (resEntry (s.ctxOf c) w e) { data := r.val.lo, tag := r.val.tag.bits }]
      mismatch := b2n r.mismatch, resOvf := b2n r.ovf }) := by
  have hval : r.val.tag.dom ≠ 3 := hr ▸ combine_not_hatched _ hdom
  have hentry : ((s.ctxOf c).edDesc w).number (((s.ctxOf c).edDesc w).entry ((s.ctxOf c).resOffset w) e) =
    resEntry (s.ctxOf c) w e := rfl
  rw [execVrcomb, State.issueRes_next h]
  rw [rawRecord] at hv
  simp only [if_true, he, List.foldl_cons, List.foldl_nil, List.flatMap_cons, List.flatMap_nil, List.append_nil, hentry, hv,
    hdom, if_false, Core.combineAt_not_hatched _ _ hdom, hr, resStores_single, Core.res_putVal_same _ _ hval, Nat.zero_add]

/-- VRCLR of entries that are not HATCHED enters its unit with a store of EMPTY for each of them. -/
theorem execVrclr_next {s : State} {c : CtxRef} {w : Word32} {o : FmtWord} (h : ResIssues s .vrclr c w [] false o)
    (hdom : ∀ e, e < o.fmt.count → (s.ctxOf c).active w e = true →
      ((s.core c.key).entryVal (resEntry (s.ctxOf c) w e)).tag.dom ≠ 3) :
    execVrclr c w s = .next (s.pushVec c { stores := (((List.range o.fmt.count).filter ((s.ctxOf c).active w)).map
      (resEntry (s.ctxOf c) w)).eraseDups.map (fun e => VStore.res e {}) }) := by
  have hentries : ((List.range o.fmt.count).filter ((s.ctxOf c).active w)).flatMap (fun e =>
      if ((s.core c.key).entryVal (resEntry (s.ctxOf c) w e)).tag.dom = 3 then
        [resEntry (s.ctxOf c) w e % 16384, resEntry (s.ctxOf c) w e % 16384 + 16384] else [resEntry (s.ctxOf c) w e]) =
      ((List.range o.fmt.count).filter ((s.ctxOf c).active w)).map (resEntry (s.ctxOf c) w) := by
    rw [List.map_eq_flatMap, List.flatMap_def, List.flatMap_def]
    refine congrArg List.flatten (List.map_congr_left fun e he => ?_)
    obtain ⟨hlt, hact⟩ := List.mem_filter.mp he
    exact if_neg (hdom e (List.mem_range.mp hlt) hact)
  rw [← hentries]
  exact State.issueRes_next h _

end Sys2Proof.Machine

namespace Sys2Proof.Claims

open Sys2Proof.Machine

/-- Settles O27: both instructions enter their unit with the stores of `execVrclr_next` and `execVrcomb_next`. -/
theorem reservoirWritesComplete : Obligations.ReservoirWritesComplete := by
  unfold Obligations.ReservoirWritesComplete
  intro s c w o
  dsimp only
  refine ⟨fun h hdom => ?vrclr, fun e h he hdom => ?vrcomb⟩
  case vrclr =>
    refine ⟨_, (exec_vrclr ..).trans (execVrclr_next h hdom), _, State.pushVec_inFlight .., fun n => ?_⟩
    simp only [List.mem_eraseDups, List.mem_map, List.mem_filter, List.mem_range, and_assoc, eq_comm (a := n)]
  case vrcomb =>
    exact ⟨_, (exec_vrcomb ..).trans (execVrcomb_next h he rfl hdom rfl), State.pushVec_inFlight ..⟩

end Sys2Proof.Claims
end

section
/-! SUPPORT. Instructions that compute vd element by element (R115, R122): what the elements and the flags of their result are,
and the instruction in flight that holds it. -/

namespace Sys2Proof.Machine

open Sys2Proof.Claims

theorem Fx.join_fl (a b : Fx) : (a.join b).fl = a.fl ||| b.fl := rfl

/-- What the effects of some elements add up to, flag by flag. -/
theorem foldl_join_flag (g : Nat → Fx) (l : List Nat) (a : Fx) (i : Nat) :
    (l.foldl (fun a k => a.join (g k)) a).fl.getLsbD i = (a.fl.getLsbD i || l.any (fun k => (g k).fl.getLsbD i)) := by
  induction l generalizing a with
  | nil => simp
  | cons k l ih => simp [ih, Fx.join_fl, Bool.or_assoc]

/-- The effects of the active positions add up (R51, R139). -/
theorem eachElem_effects (n : Nat) (act : Nat → Bool) (mz : Bool) (old : Nat → Nat) (f : Nat → Nat × Fx) :
    (eachElem n act mz old f).2 = ((List.range n).filter act).foldl (fun a k => a.join (f k).2) {} := by
  have hfold (l : List Nat) (a : List Nat × Fx) : (l.foldl (fun (a : List Nat × Fx) k =>
      if act k then ((f k).1 :: a.1, a.2.join (f k).2) else ((if mz then 0 else old k) :: a.1, a.2)) a).2 =
      (l.filter act).foldl (fun a k => a.join (f k).2) a.2 := by
    induction l generalizing a with
    | nil => rfl
    | cons k l ih => cases hk : act k <;> simp [hk, ih]
  exact hfold _ _

/-- Elements without effects add up to none. -/
theorem eachElem_noEffects (n : Nat) (act : Nat → Bool) (mz : Bool) (old : Nat → Nat) {f : Nat → Nat × Fx}
    (hf : ∀ k, (f k).2 = {}) : (eachElem n act mz old f).2 = {} := by
  rw [eachElem_effects]
  simp only [hf, Fx.join_empty]
  exact List.foldl_fixed _

/-- The result of an instruction that computes the elements of vd over its TYPE: the image, and what its elements add up to. -/
def Ctx.elemwise (x : Ctx) (w : Word32) (f : Nat → Nat × Fx) : BitVec 16384 × Fx :=
  let r := eachElem (vn w) (x.active w) (vMz w) (x.vel w (wRd w)) f
  (packV (vw w) r.1, r.2)

section
variable (x : Ctx) (w : Word32) {f : Nat → Nat × Fx}

/-- An element of the result is the computed one at an active position, and else 0 or the old one (R122). -/
theorem Ctx.elemwise_elements {g : Nat → Nat} (hf : ∀ k, (f k).1 % 2 ^ vw w = g k % 2 ^ vw w) :
    Elements x w g (x.elemwise w f).1 := by
  intro k hk
  have hold : x.vel w (wRd w) k % 2 ^ vw w = x.vel w (wRd w) k := Nat.mod_eq_of_lt (elem_lt ..)
  rw [Ctx.elemwise, eachElem_codes]
  refine (elem_packV (typeFmt (vType w)).width_mul_count _ hk).trans ?_
  split
  · exact hf k
  · split
    · exact Nat.zero_mod _
    · exact hold

/-- The flags of the result are those that an active position raises. -/
theorem Ctx.elemwise_flags : FlagsOf x w (fun k => (f k).2.fl) (x.elemwise w f).2.fl := by
  intro i _
  have hnone : ({} : Fx).fl.getLsbD i = false := BitVec.getLsbD_zero
  rw [Ctx.elemwise, eachElem_effects, foldl_join_flag, List.any_filter, hnone, Bool.false_or]
  rfl

theorem Ctx.elemwise_noEffects (hf : ∀ k, (f k).2 = {}) : (x.elemwise w f).2 = {} := eachElem_noEffects _ _ _ _ hf

end

section
variable {i : Instr} {s : State} {row : Row} {c : CtxRef} {w : Word32} {regs : List Nat} {f : Ctx → Nat → Nat × Fx}
  (hi : exec i s = s.vecElems row c w regs f) (h : VecIssues s row c w [] (regs ++ keepsOld w))
include hi h

/-- An elementwise instruction enters its unit with the result of its elements. -/
theorem exec_vecElems_next : exec i s = .next (s.pushVec c (VecOp.ofV (wRd w)
    ((s.ctxOf c).elemwise w (f (s.ctxOf c))).1 ((s.ctxOf c).elemwise w (f (s.ctxOf c))).2)) :=
  hi.trans (State.issueVec_next h _)

/-- An elementwise instruction whose elements have flags is in flight with its elements and their flags. -/
theorem runs_vecElems : Runs i s (fun u => ∃ v fx, Elements (s.ctxOf c) w (fun k => (f (s.ctxOf c) k).1) v ∧
    FlagsOf (s.ctxOf c) w (fun k => (f (s.ctxOf c) k).2.fl) fx.fl ∧ InFlight s u c (VecOp.ofV (wRd w) v fx)) :=
  ⟨_, exec_vecElems_next hi h, _, _, Ctx.elemwise_elements _ _ (fun _ => rfl), Ctx.elemwise_flags _ _,
    State.pushVec_inFlight ..⟩

/-- An elementwise instruction without effects is in flight with its elements alone. -/
theorem runs_vecElems_plain {g : Nat → Nat} (hcode : ∀ k, (f (s.ctxOf c) k).1 % 2 ^ vw w = g k % 2 ^ vw w)
    (hfx : ∀ k, (f (s.ctxOf c) k).2 = {}) : Runs i s (fun u => ∃ v, Elements (s.ctxOf c) w g v ∧
      InFlight s u c { destV := some (wRd w, v) }) := by
  have hnext := exec_vecElems_next hi h
  rw [Ctx.elemwise_noEffects _ _ hfx] at hnext
  exact ⟨_, hnext, _, Ctx.elemwise_elements _ _ hcode, State.pushVec_inFlight ..⟩

end

end Sys2Proof.Machine

namespace Sys2Proof.Claims

open Sys2Proof.Machine

/-- Settles O21: VADD to VABS keep the flags of their elements (`runs_vecElems`); the elements of the others have no effects
(`runs_vecElems_plain`), and VBCX drops the bits of x[s1] that an element has no room for. -/
theorem vectorElementwiseCompletes : Obligations.VectorElementwiseCompletes := by
  unfold Obligations.VectorElementwiseCompletes
  intro s c w
  dsimp only
  have hcode (g : Nat → Nat) (k : Nat) : g k % 2 ^ vw w = g k % 2 ^ vw w := rfl
  have hfx (k : Nat) : ({} : Fx) = {} := rfl
  refine ⟨fun h => ?vfp, fun h => ?vint, fun h => ?vmv, fun h => ?vbcx, fun h => ?viota, fun h => ?vsldn, fun h => ?vslup⟩
  case vfp => exact runs_vecElems (exec_vfp ..) h
  case vint => exact runs_vecElems_plain (exec_vint ..) h (hcode _) hfx
  case vmv => exact runs_vecElems_plain (exec_vmv ..) h (hcode _) hfx
  case vbcx => exact runs_vecElems_plain (exec_vbcx ..) h (fun _ => Nat.mod_mod _ _) hfx
  case viota => exact runs_vecElems_plain (exec_viota ..) h (hcode _) hfx
  case vsldn => exact runs_vecElems_plain (exec_vsldn ..) h (hcode _) hfx
  case vslup => exact runs_vecElems_plain (exec_vslup ..) h (hcode _) hfx

end Sys2Proof.Claims
end

section
/-! SUPPORT. The results of conversions and comparisons (R112, R122, R126), and the instructions of a gated unit (R134). -/

namespace Sys2Proof.Machine

open Sys2Proof.Claims

/-- A mask holds the bits that it was made of, and 0 from bit n on (R112). -/
theorem maskOf_getLsbD (n : Nat) (g : Nat → Bool) {k : Nat} (hk : k < 4096) :
    (maskOf n g).getLsbD k = (decide (k < n) && g k) := by
  have hfield := packNat_field 1 ((List.range n).map (fun k => b2n (g k))) k
  rw [Nat.one_mul, Nat.shiftRight_eq_div_pow] at hfield
  rw [maskOf, BitVec.getLsbD_ofNat, Nat.testBit_eq_decide_div_mod_eq, decide_eq_true hk, Bool.true_and]
  by_cases hn : k < n
  · rw [getD_range_map _ hn] at hfield
    cases hg : g k <;> simp_all [b2n]
  · simp_all

/-- Computed bits, with inactive ones 0 or old, make the mask of those bits. -/
theorem eachElem_mask (n : Nat) (act : Nat → Bool) (mz : Bool) (old bit : Nat → Bool) {f : Nat → Nat × Fx}
    (hf : ∀ k, (f k).1 = b2n (bit k)) :
    BitVec.ofNat 4096 (packNat 1 (eachElem n act mz (fun k => b2n (old k)) f).1) =
      maskOf n (fun k => if act k then bit k else !mz && old k) := by
  rw [eachElem_codes, maskOf]
  refine congrArg (fun l => BitVec.ofNat 4096 (packNat 1 l)) (List.map_congr_left fun k _ => ?_)
  rw [hf]
  cases act k <;> cases mz <;> rfl

/-- The bit that a comparison computes for a position (R115). -/
def Ctx.compareBit (x : Ctx) (w : Word32) (k : Nat) : Bool :=
  if vFunct w = 6 then decide (k < (x.rx (wRs1 w)).toNat)
  else if vFunct w = 7 then decide ((x.rx (wRs1 w)).toNat ≤ k)
  else (vcmpOp (vType w) (vFunct w) (x.vel w (wRs1 w) k) (x.vel w (wRs2 w) k)).1

/-- The bit that a comparison leaves at a position: the computed one at an active position, and else 0 or the old one (R122). -/
def Ctx.comparedBit (x : Ctx) (w : Word32) (k : Nat) : Bool :=
  if x.active w k then x.compareBit w k else !(vMz w) && (x.mreg (wRd w)).getLsbD k

/-- A comparison enters its unit with the mask of its bits. -/
theorem execVcmp_next {s : State} {c : CtxRef} {w : Word32} (h : VecIssues s .vcmp c w ((keepsOld w).map (fun r => r % 8))
    (if 6 ≤ vFunct w then [] else [wRs1 w, wRs2 w])) : ∃ fl, execVcmp c w s =
      .next (s.pushVec c { destM := some (wRd w, maskOf (vn w) ((s.ctxOf c).comparedBit w)), flags := fl }) := by
  rw [execVcmp]
  simp only [decide_eq_true_eq]
  rw [State.issueVec_next h, eachElem_mask (bit := (s.ctxOf c).compareBit w)]
  · exact ⟨_, rfl⟩
  · intro k
    unfold Ctx.compareBit
    split
    · rfl
    · split <;> rfl

/-- An instruction that reads fewer registers can issue too. -/
theorem vecIssues_mono {s : State} {row : Row} {c : CtxRef} {w : Word32} {masks regs regs' : List Nat}
    (h : VecIssues s row c w masks regs) (hsub : regs' ⊆ regs) : VecIssues s row c w masks regs' := by
  obtain ⟨hissues, htype, hmasks, hregs⟩ := h
  exact ⟨hissues, htype, hmasks, fun r hr => hregs r (hsub hr)⟩

/-- The element that a conversion to nearest gives for a position, where source and destination have equal counts (R126). -/
def Ctx.converted (x : Ctx) (w : Word32) (dw sw : FmtWord) (k : Nat) : Nat × Fx :=
  (dw.store 0 0 (sw.value (elem (x.vreg (wRs1 w)) sw.fmt.width k) 0)).pair

/-- With equal counts and every position active a conversion to nearest enters its unit with its elements. -/
theorem execVcvt_next {s : State} {c : CtxRef} {w : Word32} {dw sw : FmtWord}
    (h : VecIssues s .vcvt c w [] [wRs1 w, wRd w]) (hplan : vcvtPlan ((s.ctxOf c).rx (wRs2 w)) (vType w) = some (dw, sw))
    (hmask : vMask w = 0) (hcount : dw.fmt.count = sw.fmt.count) (hstoch : dw.stoch = false) :
    ∃ fx, execVcvt c w s = .next (s.pushVec c (VecOp.ofV (wRd w)
      (packV dw.fmt.width ((List.range dw.fmt.count).map (fun k => ((s.ctxOf c).converted w dw sw k).1))) fx)) := by
  have hissue := vecIssues_mono h (regs' := [wRs1 w]) (by simp)
  have hreads : keepsOld w = [] := by simp [keepsOld, hmask]
  have hparity (f : State) : s.parity c [] f = f := State.parity_good (regs := []) (by simp) f
  rw [execVcvt, State.issueVec_next hissue]
  simp only [hplan, hreads, ← hcount, gt_iff_lt, Nat.lt_irrefl, if_false, hparity, Nat.min_self, Nat.not_lt_zero, Nat.zero_add,
    FmtWord.draws_nearest hstoch, FmtWord.genAfter_nearest hstoch, false_or, List.getD_nil, Nat.sub_zero]
  rw [eachElem_codes, List.map_congr_left (g := fun k => ((s.ctxOf c).converted w dw sw k).1)]
  · exact ⟨_, rfl⟩
  · intro k hk
    have hact : (s.ctxOf c).active w k = true := by simp [Ctx.active, hmask]
    rw [hact, Bool.or_true, if_pos rfl, if_neg (Nat.not_le.mpr (List.mem_range.mp hk))]
    rfl

/-- An instruction of a gated unit that is powered up has its effect. -/
theorem State.needUnit_on {s : State} {c : CtxRef} {u : GUnit} (h : (s.core c.key).unit u = .on) (f : State → State) :
    s.needUnit c u f = f s := if_pos h

/-- An instruction of a gated unit that is powered down starts its wake, and does nothing else. -/
theorem State.needUnit_off {s : State} {c : CtxRef} {u : GUnit} (h : (s.core c.key).unit u = .off) (f : State → State) :
    s.needUnit c u f = s.updCore c.key (·.wake u) := if_neg (by rw [h]; decide)

/-- The functions that the VXU computes, by position (R115). -/
def Ctx.vxfElem (x : Ctx) (w : Word32) (k : Nat) : Nat × Fx :=
  (vxfOp (typeFmt (vType w)) (vType w) (vFunct w) (x.vel w (wRs1 w) k) (x.vel w (wRs2 w) k)).pair

section
variable {s : State} {c : CtxRef} {w : Word32}
  (h : VecIssues s .vxf c w [] ((if vFunct w = 0 then [wRs1 w, wRs2 w] else [wRs1 w]) ++ keepsOld w))
include h

/-- A function enters the VXU with the result of its elements. -/
theorem execVxf_on (hon : (s.core c.key).unit .vxu = .on) : execVxf c w s = .next (s.pushVec c
    { VecOp.ofV (wRd w) ((s.ctxOf c).elemwise w ((s.ctxOf c).vxfElem w)).1 ((s.ctxOf c).elemwise w ((s.ctxOf c).vxfElem w)).2 with
      unit := some .vxu }) :=
  (State.issueVec_next h _).trans (congrArg _ (State.needUnit_on hon _))

/-- A function starts the wake of the VXU while that is powered down. -/
theorem execVxf_off (hoff : (s.core c.key).unit .vxu = .off) : execVxf c w s = .next (s.updCore c.key (·.wake .vxu)) :=
  (State.issueVec_next h _).trans (congrArg _ (State.needUnit_off hoff _))

end

end Sys2Proof.Machine

namespace Sys2Proof.Claims

open Sys2Proof.Machine

/-- Settles O22: functions and broadcasts have the elements of `Ctx.elemwise`, conversions those of `execVcvt_next`, and
comparisons the mask of `execVcmp_next`; an instruction of the VXU issues only when the unit is on. -/
theorem vectorFunctionsComplete : Obligations.VectorFunctionsComplete := by
  unfold Obligations.VectorFunctionsComplete
  intro s c w
  dsimp only
  refine ⟨fun h hon => ?vxf, fun h hoff => ?vxfWakes, fun h => ?vbcf, fun dw sw h hplan hmask hcount hstoch => ?vcvt,
    fun h => ?vcmp⟩
  case vxf =>
    have hflags := (s.ctxOf c).elemwise_flags w (f := (s.ctxOf c).vxfElem w)
    exact ⟨_, (exec_vxf ..).trans (execVxf_on h hon), _, _, Ctx.elemwise_elements _ _ (fun _ => rfl), hflags,
      State.pushVec_inFlight ..⟩
  case vxfWakes =>
    refine ⟨_, (exec_vxf ..).trans (execVxf_off h hoff), s.updCore_onlyCore c.key (Core.wake_ctxs _ _), ?_⟩
    rw [State.core_updCore_same]
    exact (Core.unit_wake _ .vxu .vxu).trans (if_pos ⟨rfl, hoff⟩)
  case vbcf =>
    obtain ⟨u, hnext, v, fx, helems, -, hflight⟩ := runs_vecElems (exec_vbcf ..) h
    exact ⟨u, hnext, v, fx, helems, hflight⟩
  case vcvt =>
    obtain ⟨fx, hnext⟩ := execVcvt_next h hplan hmask hcount hstoch
    exact ⟨_, (exec_vcvt ..).trans hnext, _, fx, fun k hk => elem_packV dw.fmt.width_mul_count _ hk,
      State.pushVec_inFlight ..⟩
  case vcmp =>
    obtain ⟨fl, hnext⟩ := execVcmp_next h
    exact ⟨_, (exec_vcmp ..).trans hnext, _, fl, fun k hk => maskOf_getLsbD _ _ hk, State.pushVec_inFlight ..⟩

end Sys2Proof.Claims
end

section
/-! SUPPORT. Register images in inkwell rows (R33, R111, R165), and repeated rows of a list of rows (R172). -/

namespace Sys2Proof.Machine

open Sys2Proof.Claims

/-- A bit of packed elements is a bit of its element. -/
theorem testBit_packNat (w : Nat) (l : List Nat) (j : Nat) (hw : 0 < w) :
    (packNat w l).testBit j = (l.getD (j / w) 0).testBit (j % w) := by
  have hlt : j % w < w := Nat.mod_lt j hw
  have hfield := congrArg (Nat.testBit · (j % w)) (packNat_field w l (j / w))
  simpa only [Nat.testBit_mod_two_pow, Nat.testBit_shiftRight, Nat.div_add_mod, hlt, decide_true, Bool.true_and] using hfield

/-- One more element is packed above the others. -/
theorem packNat_concat (w : Nat) (l : List Nat) (e : Nat) :
    packNat w (l ++ [e]) = packNat w l + e % 2 ^ w * 2 ^ (w * l.length) := by
  induction l with
  | nil => simp [packNat]
  | cons a l ih =>
    rw [List.cons_append, packNat_cons, packNat_cons, ih, List.length_cons, Nat.mul_succ, Nat.pow_add]
    ring

/-- Rows added up at their places are the packed rows. -/
theorem foldl_rows_packNat {w : Nat} (row : Nat → BitVec w) (n : Nat) :
    (List.range n).foldl (fun a i => a + (row i).toNat * 2 ^ (w * i)) 0 =
      packNat w ((List.range n).map (fun i => (row i).toNat)) := by
  induction n with
  | zero => rfl
  | succ n ih =>
    rw [List.range_succ, List.foldl_append, ih, List.map_append, List.map_cons, List.map_nil, packNat_concat,
      BitVec.toNat_mod_cancel, List.length_map, List.length_range]
    rfl

/-- An element of a width that divides a row, read from packed rows, is the field of its row. -/
theorem packNat_rows_field (row : Nat → BitVec 4096) {w i n : Nat} (hw : w ∣ 4096) (hi : w * i / 4096 < n) :
    packNat 4096 ((List.range n).map (fun q => (row q).toNat)) / 2 ^ (w * i) % 2 ^ w =
      fld (row (w * i / 4096)) (w * i % 4096) w := by
  have hrow := dvd_mod_add_le hw (Nat.dvd_mul_right w i) (by decide)
  refine Nat.eq_of_testBit_eq fun b => ?_
  rw [fld, Nat.testBit_mod_two_pow, Nat.testBit_mod_two_pow, Nat.testBit_div_two_pow, Nat.testBit_shiftRight,
    testBit_packNat _ _ _ (by decide)]
  by_cases hb : b < w
  · have hq : (b + w * i) / 4096 = w * i / 4096 := by omega
    have hbit : (b + w * i) % 4096 = w * i % 4096 + b := by omega
    rw [hq, hbit, getD_range_map _ hi]
  · simp [hb]

/-- A register is what its elements make. -/
theorem packV_elements {w n : Nat} (h : w * n = 16384) (v : BitVec 16384) : packV w ((List.range n).map (elem v w)) = v := by
  have hw : 0 < w := Nat.pos_of_ne_zero fun hzero => by simp [hzero] at h
  refine BitVec.eq_of_getLsbD_eq fun j hj => ?_
  have hq : j / w < n := Nat.div_lt_of_lt_mul (by omega)
  have hlt : j % w < w := Nat.mod_lt j hw
  rw [packV, BitVec.getLsbD_ofNat, testBit_packNat _ _ _ hw, getD_range_map _ hq, elem, fld, Nat.testBit_mod_two_pow,
    Nat.testBit_shiftRight, Nat.div_add_mod, BitVec.testBit_toNat]
  simp [hj, hlt]

/-- A list without its repetitions has the same members. -/
theorem mem_eraseReps {a : Nat} {l : List Nat} : a ∈ l.eraseReps ↔ a ∈ l := by
  have hloop (x : Nat) (as acc : List Nat) :
      a ∈ List.eraseRepsBy.loop (· == ·) x as acc ↔ a = x ∨ a ∈ as ∨ a ∈ acc := by
    induction as generalizing x acc with
    | nil => simp [List.eraseRepsBy.loop, or_comm]
    | cons y as ih =>
      rw [List.eraseRepsBy.loop]
      split
      · next hxy =>
        rw [ih, beq_iff_eq.mp hxy, List.mem_cons]
        tauto
      · rw [ih]
        simp only [List.mem_cons]
        tauto
  cases l with
  | nil => rfl
  | cons x as => simp [List.eraseReps, List.eraseRepsBy, hloop]

/-- Which rows are corrected depends only on which rows are read (R172). -/
theorem State.correctRows_congr {rows rows' : List Nat} (h : ∀ r, r ∈ rows ↔ r ∈ rows') (s : State) (key : Nat) :
    s.correctRows key rows = s.correctRows key rows' := by
  have hcontains (r : Nat) : rows.contains r = rows'.contains r := by simp only [List.contains_eq_mem, h]
  have hany : rows.any (s.core key).inkSoft.contains = rows'.any (s.core key).inkSoft.contains := by
    rw [Bool.eq_iff_iff, List.any_eq_true, List.any_eq_true]
    simp only [h]
  simp only [State.correctRows, Core.correctRows, hany, hcontains, funext hcontains]

end Sys2Proof.Machine
end

section
/-! SUPPORT. Vector loads, stores, gathers and scatters of inkwell rows that pass every check (R124, R125, R127 to R129, R136,
R171, R172). -/

namespace Sys2Proof.Machine

open Sys2Proof.Claims

/-- A context reaches rows through an inkwell locator, and at once: the handle has them, no row holds an uncorrectable error,
and no store of the context is on its way (R166, R171, R172). -/
structure ReachableRows (k : Core) (x : Ctx) (l : Word) (rows : List Nat) : Prop where
  ink : isInk l = true
  good : inkLocBad l = false
  valid : (k.handle (inkHandle l)).st = 1
  inside : ∀ r ∈ rows, r < (k.handle (inkHandle l)).count
  noneInFlight : x.vq = []
  noneDraining : x.drain = []
  intact : ∀ p, k.inkBad.contains p = false

/-- Some rows are reached when each of them is. -/
theorem reachableRows_of_each {k : Core} {x : Ctx} {l : Word} {rows : List Nat} (hne : rows ≠ [])
    (h : ∀ r ∈ rows, isInk l = true ∧ inkLocBad l = false ∧ (k.handle (inkHandle l)).st = 1 ∧
      r < (k.handle (inkHandle l)).count ∧ x.vq = [] ∧ x.drain = [] ∧ ∀ p, k.inkBad.contains p = false) :
    ReachableRows k x l rows := by
  obtain ⟨r, hr⟩ := List.exists_mem_of_ne_nil rows hne
  obtain ⟨hink, hgood, hst, -, hvq, hdrain, hintact⟩ := h r hr
  refine ⟨hink, hgood, hst, fun q hq => ?_, hvq, hdrain, hintact⟩
  obtain ⟨-, -, -, hlt, -⟩ := h q hq
  exact hlt

/-- A read of rows that a valid handle has passes its checks, whether they are write-protected or not (R171). -/
theorem Core.checkRows_read {k : Core} {h : Nat} {rows : List Nat} (hst : (k.handle h).st = 1)
    (hrows : ∀ r ∈ rows, r < (k.handle h).count) : k.checkRows h rows false = .ok (k.handle h).base := by
  have hbeyond : rows.filter (fun r => decide ((k.handle h).count ≤ r)) = [] :=
    List.filter_eq_nil_iff.mpr fun r hr => by simpa using hrows r hr
  simp [Core.checkRows, hst, hbeyond]

/-- Without vector stores on their way none meets a row. -/
theorem Ctx.inkStoreMeets_none {x : Ctx} (hvq : x.vq = []) (hdrain : x.drain = []) (base : Nat) (rows : List Nat) :
    x.inkStoreMeets base rows = false := by
  rw [Ctx.inkStoreMeets, hvq, hdrain]
  rfl

/-- A read of rows without uncorrectable errors corrects their single-bit errors and goes on (R172). -/
theorem State.inkReadable_intact {s : State} {c : CtxRef} (hintact : ∀ p, (s.core c.key).inkBad.contains p = false)
    (h base : Nat) (rows : List Nat) (f : State → State) :
    s.inkReadable c h base rows f = f (s.correctRows c.key (rows.map (fun r => base + r))) := by
  have hnone : rows.find? (fun r => (s.core c.key).inkBad.contains (base + r)) = none :=
    List.find?_eq_none.mpr fun r _ => by rw [hintact]; exact Bool.false_ne_true
  simp only [State.inkReadable, hnone]

/-- The rows that a register image at a locator takes, relative to its handle (R111, R165). -/
def registerRows (l : Word) : List Nat := (List.range 4).map (fun i => inkRow l + i)

/-- The image of a register that four rows hold. -/
def Core.registerImage (k : Core) (first : Nat) : Nat := packNat 4096 ((List.range 4).map (fun i => (k.row (first + i)).toNat))

section
variable {s : State} {c : CtxRef} {l : Word} {w n : Nat} {act : Nat → Bool} (hfull : w * n = 16384) (hact : ∀ k, act k = true)
  (hl : ReachableRows (s.core c.key) (s.ctxOf c) l (registerRows l))
include hfull hact hl

/-- The read of a whole register image passes the checks of its inkwell locator (R171). -/
theorem State.locPlan_register (f : LocPlan → State → State) :
    s.locPlan c l (activeBits w n act) (imageBytes w n) .read f = f (.rows ((s.core c.key).handle (inkHandle l)).base) s := by
  have hbytes : imageBytes w n = 2048 := by rw [imageBytes, hfull]
  have hcheck : (s.core c.key).checkRows (inkHandle l) ((List.range 4).map (fun i => inkRow l + i)) (Access.read == .write) =
      .ok ((s.core c.key).handle (inkHandle l)).base := Core.checkRows_read hl.valid hl.inside
  simp only [State.locPlan, hl.ink, if_true, activeBits_all hact, hfull, hbytes, imageRows_register, hcheck, State.inkChecked]

/-- The read of a whole register image gives its four rows, and corrects their single-bit errors. -/
theorem State.planRead_register (base : Nat) (f : Nat → State → State) :
    s.planRead c l (activeBits w n act) (imageBytes w n) (.rows base) f =
      f ((s.core c.key).registerImage (base + inkRow l))
        (s.correctRows c.key ((List.range 4).map (fun i => base + (inkRow l + i)))) := by
  have hbytes : imageBytes w n = 2048 := by rw [imageBytes, hfull]
  have himage : (registerRows l).foldl
      (fun a r => a + ((s.core c.key).row (base + r)).toNat * 2 ^ (4096 * (r - inkRow l))) 0 =
      (s.core c.key).registerImage (base + inkRow l) := by
    simp only [registerRows, List.foldl_map, Nat.add_sub_cancel_left, ← Nat.add_assoc]
    exact foldl_rows_packNat (fun i => (s.core c.key).row (base + inkRow l + i)) 4
  rw [← himage]
  simp only [State.planRead, activeBits_all hact, hfull, hbytes, imageRows_register,
    Ctx.inkStoreMeets_none hl.noneInFlight hl.noneDraining, Bool.false_eq_true, if_false, State.inkReadable_intact hl.intact,
    registerRows, List.map_map, Function.comp_def]

end

/-- The memory format of a raw TYPE has the width of its elements (R125). -/
theorem memWord_raw_width {w : Word32} {a : Word} {f : FmtWord} (hraw : vType w = 6 ∨ vType w = 7) (h : memWord w a = some f) :
    f.fmt.width = vw w := by
  have hsix : vType w = 6 → vw w = 8 := fun ht => by rw [vw, ht]; rfl
  have hseven : vType w = 7 → vw w = 4 := fun ht => by rw [vw, ht]; rfl
  unfold memWord at h
  grind [Fmt.width]

/-- The elements that a raw load takes from the image of its register (R125). -/
def Ctx.rawLoaded (x : Ctx) (w : Word32) (image : Nat) : BitVec 16384 × Fx :=
  x.elemwise w (fun k => (image / 2 ^ (vw w * k) % 2 ^ vw w, {}))

/-- An element of a raw load is the field of its row. -/
theorem Ctx.rawLoaded_elem {x : Ctx} {w : Word32} (hact : ∀ k, x.active w k = true) (k : Core) (first : Nat) {i : Nat}
    (hi : i < vn w) : elem (x.rawLoaded w (k.registerImage first)).1 (vw w) i =
      fld (k.row (first + vw w * i / 4096)) (vw w * i % 4096) (vw w) := by
  have hdvd : vw w ∣ 4096 := (typeFmt (vType w)).width_dvd_row
  have hlt : vw w * i < vw w * vn w := Nat.mul_lt_mul_of_pos_left hi (typeFmt (vType w)).width_pos
  have hfull : vw w * vn w = 16384 := (typeFmt (vType w)).width_mul_count
  have helem := x.elemwise_elements w (f := fun j => (k.registerImage first / 2 ^ (vw w * j) % 2 ^ vw w, {})) (fun _ => rfl) i hi
  rw [if_pos (hact i)] at helem
  refine helem.trans ((Nat.mod_mod _ _).trans ?_)
  exact packNat_rows_field (fun q => k.row (first + q)) hdvd (by omega)

/-- A raw VLD of a whole register enters its unit with the image of its four rows. -/
theorem execVld_next {s : State} {c : CtxRef} {w : Word32} {f : FmtWord} (h : VecIssues s .vld c w [] (keepsOld w))
    (hmask : vMask w = 0) (hraw : vType w = 6 ∨ vType w = 7) (hword : memWord w ((s.ctxOf c).rx (wRs2 w)) = some f)
    {l : Word} (hloc : (s.ctxOf c).rx (wRs1 w) = l) (hl : ReachableRows (s.core c.key) (s.ctxOf c) l (registerRows l))
    {base : Nat} (hbase : ((s.core c.key).handle (inkHandle l)).base = base) :
    execVld c w s = .next ((s.correctRows c.key ((List.range 4).map (fun i => base + (inkRow l + i)))).pushMem c
      { destV := some (wRd w, ((s.ctxOf c).rawLoaded w ((s.core c.key).registerImage (base + inkRow l))).1) }) := by
  have hact (k : Nat) : (s.ctxOf c).active w k = true := by simp [Ctx.active, hmask]
  have hwidth := memWord_raw_width hraw hword
  have hfull : vw w * vn w = 16384 := (typeFmt (vType w)).width_mul_count
  have hsix : 6 ≤ vType w := by omega
  have hplain : usesOffsets w f = false := by simp [usesOffsets, hsix]
  rw [execVld, State.issueVec_next h]
  simp only [hword, hplain, hwidth, hloc, Bool.false_and, Bool.false_eq_true, if_false, State.locOk_ink hl.ink hl.good,
    State.locPlan_register hfull hact hl, State.planRead_register hfull hact hl, hsix, if_true, hbase,
    eachElem_noEffects, implies_true]
  rfl

/-- The handle of a store of a register to four inkwell rows lets the context write them. -/
theorem ReachableRows.writable {k : Core} {x : Ctx} {l : Word} (h : ReachableRows k x l (registerRows l))
    (hwp : (k.handle (inkHandle l)).wp = false) : WritableRegister k l where
  ink := h.ink
  good := h.good
  valid := h.valid
  writable := hwp
  rows i hi := h.inside _ (List.mem_map.mpr ⟨i, List.mem_range.mpr hi, rfl⟩)

/-- A raw VST of a whole register enters its unit with the stores of its four rows (R125). -/
theorem execVst_next {s : State} {c : CtxRef} {w : Word32} {f : FmtWord} (h : VecIssues s .vst c w [] [wRd w])
    (hmask : vMask w = 0) (hraw : vType w = 6 ∨ vType w = 7) (hword : memWord w ((s.ctxOf c).rx (wRs2 w)) = some f)
    {l : Word} (hloc : (s.ctxOf c).rx (wRs1 w) = l) (hl : WritableRegister (s.core c.key) l) {base : Nat}
    (hbase : ((s.core c.key).handle (inkHandle l)).base = base) :
    execVst c w s = .next (s.pushMem c { stores := registerStores l base ((s.ctxOf c).vreg (wRd w)) }) := by
  have hact (k : Nat) : (s.ctxOf c).active w k = true := by simp [Ctx.active, hmask]
  have hwidth := memWord_raw_width hraw hword
  have hfull : vw w * vn w = 16384 := (typeFmt (vType w)).width_mul_count
  have hsix : 6 ≤ vType w := by omega
  have hplain : usesOffsets w f = false := by simp [usesOffsets, hsix]
  have hpack : packV (vw w) ((List.range (vn w)).map ((s.ctxOf c).vel w (wRd w))) = (s.ctxOf c).vreg (wRd w) :=
    packV_elements hfull _
  rw [execVst, State.issueVec_next h]
  simp only [hword, hplain, hwidth, hloc, Bool.false_and, Bool.false_eq_true, if_false, State.locOk_ink hl.ink hl.good,
    State.planOut_register hfull hact hl.ink hl.valid hl.writable hl.rows, State.storeOut_register hfull hact, hsix, if_true,
    decide_true, hpack, hbase]

/-- The rows of the active elements of a gather or scatter (R127). -/
def vgsRows (x : Ctx) (w : Word32) : List Nat := (vgsActive x w).map (vgsRow x w)

/-- The element that a gather reads from its row (R127). -/
def Core.gathered (k : Core) (x : Ctx) (w : Word32) (base i : Nat) : Nat :=
  fld (k.row (base + vgsRow x w i)) (8 * (vgsInk x w i % 512).toNat) (vw w)

/-- The register that a gather makes: positions from 256 on are inactive (R128). -/
def Core.gatheredImage (k : Core) (x : Ctx) (w : Word32) (base : Nat) : BitVec 16384 :=
  packV (vw w) (eachElem (vn w) (fun i => decide (i < 256) && x.active w i) (vMz w) (x.vel w (wRd w))
    (fun i => (k.gathered x w base i, {}))).1

theorem Core.gatheredImage_elem (k : Core) (x : Ctx) (w : Word32) (base : Nat) {i : Nat} (hi : i ∈ vgsActive x w)
    (hn : i < vn w) : elem (k.gatheredImage x w base) (vw w) i = k.gathered x w base i := by
  obtain ⟨hlt, hact⟩ := List.mem_filter.mp hi
  have hpos : (decide (i < 256) && x.active w i) = true := by rw [hact, decide_eq_true (List.mem_range.mp hlt)]; rfl
  rw [Core.gatheredImage, eachElem_codes]
  refine (elem_packV (typeFmt (vType w)).width_mul_count _ hn).trans ?_
  rw [if_pos hpos]
  exact Nat.mod_mod _ _

/-- A gather from rows that it reaches enters the VGU with the register that it makes; repeated rows are corrected once. -/
theorem execVgath_next {s : State} {c : CtxRef} {w : Word32} (h : VecIssues s .vgath c w [] [wRs2 w, wRd w])
    (hon : (s.core c.key).unit .vgu = .on) (htrap : vgsTrap (s.ctxOf c) w = none) {l : Word} (hloc : (s.ctxOf c).rx (wRs1 w) = l)
    (hl : ReachableRows (s.core c.key) (s.ctxOf c) l (vgsRows (s.ctxOf c) w)) {base : Nat}
    (hbase : ((s.core c.key).handle (inkHandle l)).base = base) :
    execVgath c w s = .next ((s.correctRows c.key ((vgsRows (s.ctxOf c) w).map (fun r => base + r))).pushMem c
      { destV := some (wRd w, (s.core c.key).gatheredImage (s.ctxOf c) w base), unit := some .vgu }) := by
  have hreads : (if vn w > 256 && !(vMz w) then [wRd w] else keepsOld w) ⊆ [wRd w] := by
    unfold keepsOld
    split
    · exact List.Subset.refl _
    · split <;> simp
  have hissue := vecIssues_mono h (List.cons_subset_cons (wRs2 w) hreads)
  have hcheck : (s.core c.key).checkRows (inkHandle l) (vgsRows (s.ctxOf c) w).eraseReps false = .ok base :=
    hbase ▸ Core.checkRows_read hl.valid fun r hr => hl.inside r (mem_eraseReps.mp hr)
  have hcorrect : s.correctRows c.key ((vgsRows (s.ctxOf c) w).eraseReps.map (fun r => base + r)) =
      s.correctRows c.key ((vgsRows (s.ctxOf c) w).map (fun r => base + r)) :=
    State.correctRows_congr (fun r => by simp only [List.mem_map, mem_eraseReps]) s c.key
  rw [execVgath, State.issueVec_next hissue, State.needUnit_on hon]
  rw [vgsRows] at hcheck hcorrect
  simp only [htrap, hloc, hl.ink, if_true, hcheck, State.inkChecked, Ctx.inkStoreMeets_none hl.noneInFlight hl.noneDraining,
    Bool.false_eq_true, if_false, State.inkReadable_intact hl.intact, hcorrect, eachElem_noEffects, implies_true]
  rfl

/-- The store of an element of a scatter to its row (R129). -/
def vgsStore (x : Ctx) (w : Word32) (base i : Nat) : VStore :=
  VStore.ink (base + vgsRow x w i) (inkHandle (x.rx (wRs1 w))) (vgsRow x w i)
    (BitVec.ofNat 4096 ((2 ^ vw w - 1) * 2 ^ (8 * (vgsInk x w i % 512).toNat)))
    (BitVec.ofNat 4096 (x.vel w (wRd w) i * 2 ^ (8 * (vgsInk x w i % 512).toNat)))

/-- A scatter to rows that it reaches and may write enters the VGU with a store for each active element. -/
theorem execVscat_next {s : State} {c : CtxRef} {w : Word32} (h : VecIssues s .vscat c w [] [wRs2 w, wRd w])
    (hon : (s.core c.key).unit .vgu = .on) (htrap : vgsTrap (s.ctxOf c) w = none) {l : Word} (hloc : (s.ctxOf c).rx (wRs1 w) = l)
    (hl : ReachableRows (s.core c.key) (s.ctxOf c) l (vgsRows (s.ctxOf c) w))
    (hwp : ((s.core c.key).handle (inkHandle l)).wp = false) {base : Nat}
    (hbase : ((s.core c.key).handle (inkHandle l)).base = base) :
    execVscat c w s = .next (s.pushVec c
      { unit := some .vgu, stores := (vgsActive (s.ctxOf c) w).map (vgsStore (s.ctxOf c) w base) }) := by
  have hcheck : (s.core c.key).checkRows (inkHandle l)
      ((vgsActive (s.ctxOf c) w).map (vgsRow (s.ctxOf c) w)).eraseReps true = .ok base :=
    hbase ▸ Core.checkRows_ok hl.valid hwp (fun r hr => hl.inside r (mem_eraseReps.mp hr)) true
  rw [execVscat, State.issueVec_next h, State.needUnit_on hon]
  simp only [htrap, hloc, hl.ink, if_true, hcheck, State.inkChecked]
  rw [← hloc]
  rfl

end Sys2Proof.Machine

namespace Sys2Proof.Claims

open Sys2Proof.Machine

/-- Settles O24: a raw load and a raw store move the four rows of a register image (`execVld_next`, `execVst_next`), a gather and
a scatter the rows of their active elements (`execVgath_next`, `execVscat_next`). -/
theorem vectorMemoryCompletes : Obligations.VectorMemoryCompletes := by
  unfold Obligations.VectorMemoryCompletes
  intro s c w
  dsimp only
  have hregister {l : Word} (h : ∀ i, i < 4 → isInk l = true ∧ inkLocBad l = false ∧
      ((s.core c.key).handle (inkHandle l)).st = 1 ∧ inkRow l + i < ((s.core c.key).handle (inkHandle l)).count ∧
      (s.ctxOf c).vq = [] ∧ (s.ctxOf c).drain = [] ∧ ∀ p, (s.core c.key).inkBad.contains p = false) :
      ReachableRows (s.core c.key) (s.ctxOf c) l (registerRows l) := by
    refine reachableRows_of_each (by simp [registerRows]) fun r hr => ?_
    obtain ⟨i, hi, rfl⟩ := List.mem_map.mp hr
    exact h i (List.mem_range.mp hi)
  refine ⟨fun f h hmask hraw hword hrows => ?vld, fun f h hmask hraw hword hrows hwp => ?vst,
    fun h hon htrap hrows hne => ?vgath, fun h hon htrap hrows hwp hne => ?vscat⟩
  case vld =>
    exact ⟨_, (exec_vld ..).trans (execVld_next h hmask hraw hword rfl (hregister hrows) rfl), _, State.pushVec_inFlight ..,
      fun i hi => Ctx.rawLoaded_elem (fun k => by simp [Ctx.active, hmask]) _ _ hi⟩
  case vst =>
    have hl := (hregister hrows).writable hwp
    exact ⟨_, (exec_vst ..).trans (execVst_next h hmask hraw hword rfl hl rfl), _, State.pushVec_inFlight .., rfl⟩
  case vgath =>
    have hl := reachableRows_of_each hne hrows
    exact ⟨_, (exec_vgath ..).trans (execVgath_next h hon htrap rfl hl rfl), _, State.pushVec_inFlight ..,
      fun i hi hn => Core.gatheredImage_elem _ _ _ _ hi hn⟩
  case vscat =>
    have hl := reachableRows_of_each hne hrows
    exact ⟨_, (exec_vscat ..).trans (execVscat_next h hon htrap rfl hl hwp rfl), State.pushVec_inFlight ..⟩

end Sys2Proof.Claims
end

section
/-! SUPPORT. The commit of the oldest vector instruction in flight (R51, R52, R120). -/

namespace Sys2Proof.Machine

open Sys2Proof.Claims

/-- A change of one core that keeps all of it but a context and its programmable counters. -/
theorem State.updCore_onlyCtx (s : State) (c : CtxRef) {f : Core → Core} {k : Core} (hk : f (s.core c.key) = k)
    (hcore : k = { s.core c.key with ctxs := k.ctxs, ctrPc := k.ctrPc })
    (hctx : ∀ j, j ≠ c.idx → k.ctx j = (s.core c.key).ctx j) : OnlyCtx s (s.updCore c.key f) c := by
  refine ⟨rfl, fun _ => rfl, fun i hi => s.core_updCore_ne _ _ _ hi.symm, ?_, fun j hj => ?_⟩
  · rw [State.core_updCore_same, hk]
    exact hcore
  · rw [State.ctx, State.core_updCore_same, hk]
    exact hctx j hj

/-- A count of events changes only the programmable counters. -/
theorem Core.countEvent_eq (k : Core) (e : Nat) (j : Option Nat) (n : Nat) :
    k.countEvent e j n = { k with ctrPc := (k.countEvent e j n).ctrPc } := by
  unfold Core.countEvent
  split <;> rfl

/-- No events are no count. -/
theorem Core.countEvent_zero (k : Core) (e : Nat) (j : Option Nat) : k.countEvent e j 0 = k := if_pos rfl

theorem satAddBv_zero {w : Nat} (v : BitVec w) : satAddBv v 0 = v := by
  have hle : v.toNat ≤ 2 ^ w - 1 := Nat.le_sub_one_of_lt v.isLt
  rw [satAddBv, satAdd, Nat.add_zero, Nat.min_eq_left hle, BitVec.ofNat_toNat, BitVec.setWidth_eq]

theorem Ctx.addCounts_zero (x : Ctx) : x.addCounts 0 0 = x := by
  rw [Ctx.addCounts, satAddBv_zero, satAddBv_zero]

/-- A commit without saturated and flushed elements counts none, for a context that runs no LAUNCH (R52, R53). -/
theorem State.addCounts_zero {s : State} {c : CtxRef} (hjob : (s.ctxOf c).job = none) :
    s.addCounts c.key c.idx 0 0 = s.updCtxOf c (fun x => x) := by
  have hnone : (s.ctx c.key c.idx).job = none := hjob
  simp only [State.addCounts, hnone, Core.countEvent_zero, Ctx.addCounts_zero]
  rfl

/-- A write of a general register changes only the general registers. -/
theorem Ctx.wx_eq (y : Ctx) (r : Nat) (v : Word) : y.wx r v = { y with x := if r = 0 then y.x else SMap.set y.x r v } := by
  unfold Ctx.wx
  split <;> rfl

/-- The fields of a context that a vector instruction writes when it commits (R120). -/
theorem Ctx.commitOp_eq (x : Ctx) (o : VecOp) : x.commitOp o = { x with
    v := o.destV.elim x.v (fun p => SMap.set x.v p.1 p.2)
    vbad := o.destV.elim x.vbad (fun p => x.vbad.filter (fun b => b != p.1))
    m := o.destM.elim x.m (fun p => SMap.set x.m p.1 p.2)
    x := o.destX.elim x.x (fun p => if p.1 = 0 then x.x else SMap.set x.x p.1 p.2)
    f := o.destF.elim x.f (fun p => SMap.set x.f p.1 p.2)
    gen := o.gen.elim x.gen .val
    vxflg := x.vxflg ||| o.flags
    mismatch := satAddBv x.mismatch o.mismatch
    resOvf := satAddBv x.resOvf o.resOvf } := by
  unfold Ctx.commitOp
  extract_lets x1 x2 x3 x4 x5
  have h1 : x1 = { x with v := o.destV.elim x.v (fun p => SMap.set x.v p.1 p.2)
                          vbad := o.destV.elim x.vbad (fun p => x.vbad.filter (fun b => b != p.1)) } := by
    simp only [x1]
    cases o.destV <;> rfl
  have h2 : x2 = { x1 with m := o.destM.elim x1.m (fun p => SMap.set x1.m p.1 p.2) } := by
    simp only [x2]
    cases o.destM <;> rfl
  have h3 : x3 = { x2 with x := o.destX.elim x2.x (fun p => if p.1 = 0 then x2.x else SMap.set x2.x p.1 p.2) } := by
    simp only [x3]
    cases o.destX
    · rfl
    · exact Ctx.wx_eq ..
  have h4 : x4 = { x3 with f := o.destF.elim x3.f (fun p => SMap.set x3.f p.1 p.2) } := by
    simp only [x4]
    cases o.destF <;> rfl
  have h5 : x5 = { x4 with gen := o.gen.elim x4.gen .val } := by
    simp only [x5]
    cases o.gen <;> rfl
  clear_value x5 x4 x3 x2 x1
  rw [h5, h4, h3, h2, h1]

/-- The context after the commit of an instruction, before it counts in ISA_RETIRED. -/
def Ctx.committed (x : Ctx) (o : VecOp) (rest : List VecOp) : Ctx :=
  { x.commitOp o with vq := rest, drain := if o.stores.isEmpty then (x.commitOp o).drain else (x.commitOp o).drain ++ [o] }

section
variable (x : Ctx) (o : VecOp) (rest : List VecOp) (r : Nat)

/-- A vector register after a commit is the result for it, or as it was. -/
theorem Ctx.committed_v : SMap.get (x.committed o rest).v r 0 =
    o.destV.elim (SMap.get x.v r 0) (fun p => if r = p.1 then p.2 else SMap.get x.v r 0) := by
  rw [Ctx.committed, Ctx.commitOp_eq]
  cases o.destV
  · rfl
  · exact (SMap.get_set ..).trans (if_congr eq_comm rfl rfl)

/-- A mask after a commit is the result for it, or as it was. -/
theorem Ctx.committed_mreg : (x.committed o rest).mreg r =
    o.destM.elim (x.mreg r) (fun p => if r = p.1 then p.2 else x.mreg r) := by
  rw [Ctx.committed, Ctx.commitOp_eq]
  cases o.destM
  · rfl
  · exact (SMap.get_set ..).trans (if_congr eq_comm rfl rfl)

/-- A general register after a commit is the result for it, or as it was; x0 keeps its zero (R140). -/
theorem Ctx.committed_rx : (x.committed o rest).rx r =
    o.destX.elim (x.rx r) (fun p => if r = p.1 ∧ r ≠ 0 then p.2 else x.rx r) := by
  have hx : (x.committed o rest).rx r = (o.destX.elim x (fun p => x.wx p.1 p.2)).rx r := by
    rw [Ctx.committed, Ctx.commitOp_eq]
    cases o.destX
    · rfl
    · rw [Option.elim_some, Option.elim_some, Ctx.wx_eq]
      rfl
  rw [hx]
  cases o.destX with
  | none => rfl
  | some p =>
    exact (Ctx.rx_wx ..).trans (if_congr (and_congr_right fun hr => by rw [hr]) rfl rfl)

/-- A floating-point register after a commit is the result for it, or as it was. -/
theorem Ctx.committed_rf : (x.committed o rest).rf r =
    o.destF.elim (x.rf r) (fun p => if r = p.1 then p.2 else x.rf r) := by
  rw [Ctx.committed, Ctx.commitOp_eq]
  cases o.destF
  · rfl
  · exact (SMap.get_set ..).trans (if_congr eq_comm rfl rfl)

/-- The stores of a commit wait to be written (R121). -/
theorem Ctx.committed_drain : (x.committed o rest).drain = if o.stores = [] then x.drain else x.drain ++ [o] := by
  rw [Ctx.committed, Ctx.commitOp_eq]
  simp only [List.isEmpty_iff]

/-- The flags of a commit are added to those of the context (R139). -/
theorem Ctx.committed_vxflg : (x.committed o rest).vxflg = x.vxflg ||| o.flags := by
  rw [Ctx.committed, Ctx.commitOp_eq]

theorem Ctx.committed_pc : (x.committed o rest).pc = x.pc := by
  rw [Ctx.committed, Ctx.commitOp_eq]

end

/-- A core after a context's oldest instruction has written its results and is counted (R120, R145, R377). -/
def Core.committed (k : Core) (j : Nat) (o : VecOp) (rest : List VecOp) : Core :=
  ((k.updCtx j (·.committed o rest)).retire j).countEvent 3 (some j) 1

theorem Core.committed_eq (k : Core) (j : Nat) (o : VecOp) (rest : List VecOp) : k.committed j o rest =
    { k with ctxs := (k.committed j o rest).ctxs, ctrPc := (k.committed j o rest).ctrPc } := by
  rw [Core.committed, Core.retire, Core.countEvent_eq _ 3, Core.countEvent_eq _ 2]
  rfl

theorem Core.ctx_committed (k : Core) (j : Nat) (o : VecOp) (rest : List VecOp) (i : Nat) : (k.committed j o rest).ctx i =
    if j = i then { (k.ctx j).committed o rest with retired := (k.ctx j).retired + 1 } else k.ctx i := by
  rw [Core.committed, Core.ctx_countEvent, Core.ctx_retire, Core.ctx_updCtx_same, Core.ctx_updCtx]
  split
  · rw [Ctx.committed, Ctx.commitOp_eq]
  · rfl

/-- The oldest instruction in flight commits, and its saturated and flushed elements are counted. -/
theorem State.vecCommit_oldest {s : State} {c : CtxRef} {o : VecOp} {rest : List VecOp} (hvq : (s.ctxOf c).vq = o :: rest) :
    s.vecCommit c = (s.updCore c.key (·.committed c.idx o rest)).addCounts c.key c.idx o.sat o.flush := by
  rw [State.vecCommit, hvq]
  rfl

/-- A commit without saturated and flushed elements, of a context that runs no LAUNCH, changes that context alone. -/
theorem State.vecCommit_uncounted {s : State} {c : CtxRef} {o : VecOp} {rest : List VecOp} (hvq : (s.ctxOf c).vq = o :: rest)
    (hsat : o.sat = 0) (hflush : o.flush = 0) (hjob : (s.ctxOf c).job = none) : OnlyCtx s (s.vecCommit c) c ∧
      (s.vecCommit c).ctxOf c = { (s.ctxOf c).committed o rest with retired := (s.ctxOf c).retired + 1 } := by
  have hctx : (s.updCore c.key (·.committed c.idx o rest)).ctxOf c =
      { (s.ctxOf c).committed o rest with retired := (s.ctxOf c).retired + 1 } := by
    rw [State.ctxOf_updCore, Core.ctx_committed, if_pos rfl]
    rfl
  have hnone : ((s.updCore c.key (·.committed c.idx o rest)).ctxOf c).job = none := by
    rw [hctx, Ctx.committed, Ctx.commitOp_eq]
    exact hjob
  have hcommit : s.vecCommit c = (s.updCore c.key (·.committed c.idx o rest)).updCtxOf c (fun x => x) := by
    rw [State.vecCommit_oldest hvq, hsat, hflush, State.addCounts_zero hnone]
  rw [hcommit, State.ctxOf_updCtxOf]
  refine ⟨onlyCtx_trans (s.updCore_onlyCtx c rfl (Core.committed_eq ..) fun j hj => ?_) (State.updCtxOf_onlyCtx ..), hctx⟩
  rw [Core.ctx_committed, if_neg hj.symm]

end Sys2Proof.Machine
end

section
/-! SUPPORT. The drain of a committed store to an inkwell row, to a reservoir entry, or to a byte of a line that a die cache
holds (R121, R165, R186), and the power of the gated units (R134). -/

namespace Sys2Proof.Machine

open Sys2Proof.Claims

/-- Only the cores are listed anew, and each is as it was. -/
def SameCores (s t : State) : Prop := t = { s with cores := t.cores } ∧ ∀ k, t.core k = s.core k

/-- A context without buffered scalar stores has none to write before its vector store (R158). -/
theorem State.drainCtx_none {s : State} {k j : Nat} (h : ∀ e ∈ (s.core k).sb, e.ctx ≠ j) (ag : Agent) :
    ∃ t, SameCores s t ∧ s.drainCtx ag k j = .ok () t := by
  have hown : (s.core k).sb.filter (fun e => e.ctx == j) = [] :=
    List.filter_eq_nil_iff.mpr fun e he => by simpa using h e he
  have hothers : (s.core k).sb.filter (fun e => e.ctx != j) = (s.core k).sb :=
    List.filter_eq_self.mpr fun e he => by simpa using h e he
  refine ⟨s.updCore k (fun c => { c with sb := c.sb.filter (fun e => e.ctx != j) }), ⟨rfl, fun i => ?_⟩, ?_⟩
  · rw [State.core_updCore]
    split
    · next hi => rw [hothers, ← hi]
    · rfl
  · rw [State.drainCtx, hown]
    rfl

theorem Core.putRow_ctxs (k : Core) (p : Nat) (v : BitVec 4096) : (k.putRow p v).ctxs = k.ctxs := by
  unfold Core.putRow Core.discardRow
  split
  · split <;> rfl
  · rfl

theorem Core.putRow_res (k : Core) (p : Nat) (v : BitVec 4096) : (k.putRow p v).res = k.res := by
  unfold Core.putRow Core.discardRow
  split
  · split <;> rfl
  · rfl

theorem Core.mergeInRow_ctxs (k : Core) (p : Nat) (mask v : BitVec 4096) : (k.mergeInRow p mask v).ctxs = k.ctxs := by
  unfold Core.mergeInRow
  split
  · exact k.putRow_ctxs p v
  · split
    · rfl
    · rw [Core.putRow_ctxs, Core.correctRows_eq]

/-- The rows and entries that a store writes leave the contexts as they are. -/
theorem Core.drainRows_ctxs (k : Core) (keep : Nat → Bool) (o : VecOp) : (k.drainRows keep o).ctxs = k.ctxs := by
  unfold Core.drainRows
  induction o.stores generalizing k with
  | nil => rfl
  | cons st l ih =>
    rw [List.foldl_cons, ih]
    cases st with
    | mem => rfl
    | res => rfl
    | ink p h r m d =>
      dsimp only
      split
      · exact k.mergeInRow_ctxs p m d
      · rfl

/-- What a drain leaves: memory as it has been written, the core with the rows and entries of the store, and the context
without it. -/
structure Drained (s t : State) (c : CtxRef) (rest : List VecOp) (m : Memory) (k : Core) : Prop where
  mem : t.mem = m
  ink : (t.core c.key).ink = k.ink
  res : (t.core c.key).res = k.res
  ctx : t.ctxOf c = { s.ctxOf c with drain := rest }

/-- A store whose rows no waiting matrix request reads, and that writes no bad row in part, is written once its bytes of
memory are (R79, R121, R172). -/
theorem State.vecDrain_drained {s s1 : State} {c : CtxRef} {o : VecOp} {rest : List VecOp}
    (hdrain : (s.ctxOf c).drain = o :: rest) (hfree : o.rows.any (s.core c.key).mmNeeds = false)
    (hgood : (s.core c.key).badStore o = none)
    (hwritten : (s.drainCtx (s.vecAgent c) c.key c.idx).bind (fun _ t => t.drainMem (s.vecAgent c) c.key o) = .ok () s1)
    (hctxs : (s1.core c.key).ctxs = (s.core c.key).ctxs) :
    Drained s (s.vecDrain c) c rest s1.mem ((s1.core c.key).drainRows (fun _ => true) o) := by
  have hstep : s.vecDrain c =
      (s1.updCore c.key (·.drainRows (fun _ => true) o)).updCtxOf c (fun x => { x with drain := rest }) := by
    simp only [State.vecDrain, hdrain, hfree, hgood, hwritten, Bool.false_eq_true, if_false]
  have hctx : ((s1.core c.key).drainRows (fun _ => true) o).ctx c.idx = s.ctxOf c := by
    rw [Core.ctx, Core.drainRows_ctxs, hctxs]
    rfl
  rw [hstep]
  refine ⟨rfl, ?_, ?_, ?_⟩
  · rw [State.core_updCtxOf, State.core_updCore_same]
    rfl
  · rw [State.core_updCtxOf, State.core_updCore_same]
    rfl
  · rw [State.ctxOf_updCtxOf, State.ctxOf_updCore, hctx]

/-- A change of the caches by an access changes neither cores nor memory. -/
theorem State.updCache_cores_mem (s : State) (spa fn : Nat) (f : Die → Die) :
    (s.updCache spa fn f).cores = s.cores ∧ (s.updCache spa fn f).mem = s.mem := by
  have hfold (l : List DcLine) (t : State) : (l.foldl (fun t l => t.countFunc l.tenant 0x20 1) t).cores = t.cores ∧
      (l.foldl (fun t l => t.countFunc l.tenant 0x20 1) t).mem = t.mem := by
    induction l generalizing t with
    | nil => exact ⟨rfl, rfl⟩
    | cons x l ih => exact ih _
  exact hfold _ _

/-- A byte lies in one line. -/
theorem pieces_byte (a : Nat) : pieces a 1 = [(a, 1)] := by
  have hmin : min 1 (256 - a % 256) = 1 := by omega
  simp [pieces, linePieces, hmin]

/-- A byte of a line that its die cache holds is written there without waiting (R186). -/
theorem State.stackWrite_byte_held {s : State} {a : Nat} (h : (s.die (dieOf a)).holds (lineOf a) ≠ none) (fn hint : Nat) :
    ∃ t, s.stackWrite a 1 fn hint = some t ∧ t.cores = s.cores ∧ t.mem = s.mem := by
  obtain ⟨l, hl⟩ := Option.ne_none_iff_exists'.mp h
  obtain ⟨d, hd⟩ : ∃ d, (s.die (dieOf a)).writeLine s.mod.evict a 1 fn hint = some d := by
    simp [Die.writeLine, hl]
  refine ⟨(s.updCache a fn (fun _ => d)).wroteLine a 1, ?_, s.updCache_cores_mem a fn _⟩
  simp [State.stackWrite, pieces_byte, hd]

/-- An entry after another is put, possibly as EMPTY, is as it was. -/
theorem get_putEntry {m : SMap ResEntry} (hwf : SMap.wf m = true) (n i : Nat) (e : ResEntry) :
    SMap.get (putEntry m n e) i {} = if i = n then e else SMap.get m i {} := by
  by_cases hi : i = n
  · rw [if_pos hi, hi, get_putEntry_same]
  · rw [if_neg hi, putEntry]
    split
    · rw [SMap.get, SMap.del, SMap.find_filter (fun j => j != n) i hwf, if_pos (bne_iff_ne.mpr hi)]
      rfl
    · rw [SMap.get_set_ne _ _ _ _ _ (Ne.symm hi)]

section
variable {s : State} {c : CtxRef} {o : VecOp} {rest : List VecOp} (hdrain : (s.ctxOf c).drain = o :: rest)
  (hsb : ∀ e ∈ (s.core c.key).sb, e.ctx ≠ c.idx)
include hdrain hsb

/-- A store to rows and entries alone, of a context without scalar stores before it, leaves memory as it is. -/
theorem State.vecDrain_core (hfree : o.rows.any (s.core c.key).mmNeeds = false) (hgood : (s.core c.key).badStore o = none)
    (hruns : storeRuns o.stores = []) :
    Drained s (s.vecDrain c) c rest s.mem ((s.core c.key).drainRows (fun _ => true) o) := by
  obtain ⟨u, ⟨hu, hcores⟩, hscalar⟩ := State.drainCtx_none hsb (s.vecAgent c)
  have hwritten : (s.drainCtx (s.vecAgent c) c.key c.idx).bind (fun _ t => t.drainMem (s.vecAgent c) c.key o) = .ok () u := by
    rw [hscalar, Acc.bind, State.drainMem, hruns]
    rfl
  have hmem : u.mem = s.mem := by rw [hu]
  have hdrained := State.vecDrain_drained hdrain hfree hgood hwritten (by rw [hcores])
  rwa [hcores, hmem] at hdrained

/-- A store of a byte of a line that its die cache holds writes that byte. -/
theorem State.vecDrain_byte {a va : Nat} {b : Byte} (ho : o.stores = [.mem (.stack a) va b])
    (hheld : (s.die (dieOf a)).holds (lineOf a) ≠ none) :
    ∃ k, k.ink = (s.core c.key).ink ∧ k.res = (s.core c.key).res ∧
      Drained s (s.vecDrain c) c rest (Memory.write s.mem a b) k := by
  obtain ⟨u, ⟨hu, hcores⟩, hscalar⟩ := State.drainCtx_none hsb (s.vecAgent c)
  have hheld' : (u.die (dieOf a)).holds (lineOf a) ≠ none := by rwa [hu]
  obtain ⟨u', hline, hcores', hmem'⟩ := State.stackWrite_byte_held hheld' (s.vecAgent c).fn (s.vecAgent c).hint
  have hcore' : u'.core c.key = s.core c.key := by rw [State.core, hcores', ← State.core, hcores]
  have hruns : storeRuns o.stores = [(.stack a, va, [b])] := by rw [ho]; rfl
  have hwritten : (s.drainCtx (s.vecAgent c) c.key c.idx).bind (fun _ t => t.drainMem (s.vecAgent c) c.key o) =
      .ok () ((u'.putMem a [b]).updCore c.key (·.l1Write (.stack a) [b])) := by
    rw [hscalar, Acc.bind, State.drainMem, hruns]
    simp only [accEach, State.writeLoc, List.length_singleton, hline, Acc.bind]
  have hrows : o.rows = [] := by rw [VecOp.rows, ho]; rfl
  have hgood : (s.core c.key).badStore o = none := by rw [Core.badStore, ho]; rfl
  have hdrained := State.vecDrain_drained hdrain (by rw [hrows]; rfl) hgood hwritten (by
    rw [State.core_updCore_same]
    exact (congrArg Core.ctxs hcore' :))
  have hkept (k : Core) : k.drainRows (fun _ => true) o = k := by rw [Core.drainRows, ho]; rfl
  have hmem : ((u'.putMem a [b]).updCore c.key (·.l1Write (.stack a) [b])).mem = Memory.write s.mem a b := by
    have hbyte : (u'.putMem a [b]).mem = Memory.write u'.mem a b := rfl
    rw [State.updCore_mem, hbyte, hmem', hu]
  rw [hkept, hmem, State.core_updCore_same] at hdrained
  exact ⟨(u'.core c.key).l1Write (.stack a) [b], (congrArg Core.ink hcore' :), (congrArg Core.res hcore' :), hdrained⟩

end

/-- A unit that is powered up, need not be kept and has no instruction in flight powers down; any other stays (R134). -/
theorem exec_unitPowerDown_eq {s : State} {r : CoreRef} (hr : CoreExists r) (u : GUnit) : exec (.unitPowerDown r u) s =
    .next (s.updCore r.key (fun c => if c.unit u = .on && !(c.keep u) && !(c.unitBusy u) then c.setUnit u .off else c)) :=
  (exec_unitPowerDown ..).trans (onCore_next _ hr)

theorem exec_unitWakeDone_eq {s : State} {r : CoreRef} (hr : CoreExists r) (u : GUnit) : exec (.unitWakeDone r u) s =
    .next (s.updCore r.key (fun c => if c.unit u = .waking then c.setUnit u .on else c)) :=
  (exec_unitWakeDone ..).trans (onCore_next _ hr)

theorem Core.setUnit_ctxs (k : Core) (u : GUnit) (p : UnitPower) : (k.setUnit u p).ctxs = k.ctxs := by
  cases u <;> rfl

end Sys2Proof.Machine

namespace Sys2Proof.Claims

open Sys2Proof.Machine

/-- Settles O28: the commit is `State.vecCommit_uncounted`, each drain is `State.vecDrain_core` or `State.vecDrain_byte`, and the
power of a unit is one change of its core. -/
theorem vectorCommitAndDrainComplete : Obligations.VectorCommitAndDrainComplete := by
  unfold Obligations.VectorCommitAndDrainComplete
  intro s c hc
  dsimp only
  have hcommits : exec (.vectorCommit c) s = .next (s.vecCommit c) := (exec_vectorCommit ..).trans (onCtx_next _ hc)
  have hdrains : exec (.vectorStoreDrain c) s = .next (s.vecDrain c) := (exec_vectorStoreDrain ..).trans (onCtx_next _ hc)
  have hpower {r : CoreRef} {k : Core} {f : Core → Core} (hk : f (s.core r.key) = k) (hctxs : k.ctxs = (s.core r.key).ctxs) :
      OnlyCore s (s.updCore r.key f) r.key ∧ (s.updCore r.key f).core r.key = k := by
    rw [State.core_updCore_same, hk]
    exact ⟨s.updCore_onlyCore r.key (hk ▸ hctxs), rfl⟩
  refine ⟨fun o rest hvq hsat hflush hjob => ?commit, fun o rest p h i d hdrain ho hfree hsb => ?row,
    fun o rest e v hdrain ho hsb hwf => ?entry, fun o rest a va b hdrain ho hsb hcache => ?byte,
    fun r u hr hon hkeep hbusy => ?down, fun r u hr hkept => ?stays, fun r u hr hwaking => ?wakes⟩
  case commit =>
    obtain ⟨hframe, hctx⟩ := State.vecCommit_uncounted hvq hsat hflush hjob
    refine ⟨_, hcommits, hframe, ?_⟩
    rw [hctx]
    refine ⟨rfl, rfl, Ctx.committed_pc _ o rest, Ctx.committed_vxflg _ o rest, Ctx.committed_drain _ o rest, fun r => ?_,
      fun r => ?_, fun r => ?_, fun r => ?_⟩
    · refine (Ctx.committed_v _ o rest r).trans ?_
      cases o.destV <;> rfl
    · refine (Ctx.committed_mreg _ o rest r).trans ?_
      cases o.destM <;> rfl
    · refine (Ctx.committed_rx _ o rest r).trans ?_
      cases o.destX <;> rfl
    · refine (Ctx.committed_rf _ o rest r).trans ?_
      cases o.destF <;> rfl
  case row =>
    have hrows : o.rows = [p] := by rw [VecOp.rows, ho]; rfl
    have hgood : (s.core c.key).badStore o = none := by simp [Core.badStore, ho]
    have hput : (s.core c.key).drainRows (fun _ => true) o = (s.core c.key).putRow p d := by
      simp [Core.drainRows, ho, Core.mergeInRow]
    have hdrained := State.vecDrain_core hdrain hsb (by simp [hrows, hfree]) hgood (by rw [ho]; rfl)
    rw [hput] at hdrained
    have hrow (q : Nat) : ((s.vecDrain c).core c.key).row q = if p = q then d else (s.core c.key).row q := by
      rw [← Core.row_putRow, Core.row, Core.row, hdrained.ink]
    exact ⟨_, hdrains, (hrow p).trans (if_pos rfl), fun q hq => (hrow q).trans (if_neg hq.symm),
      hdrained.res.trans (Core.putRow_res ..), hdrained.ctx, fun a => by rw [hdrained.mem]⟩
  case entry =>
    have hrows : o.rows = [] := by rw [VecOp.rows, ho]; rfl
    have hgood : (s.core c.key).badStore o = none := by rw [Core.badStore, ho]; rfl
    have hput : (s.core c.key).drainRows (fun _ => true) o =
        { s.core c.key with res := putEntry (s.core c.key).res e v } := by rw [Core.drainRows, ho]; rfl
    have hdrained := State.vecDrain_core hdrain hsb (by rw [hrows]; rfl) hgood (by rw [ho]; rfl)
    rw [hput] at hdrained
    exact ⟨_, hdrains, fun i => by rw [hdrained.res, get_putEntry hwf], hdrained.ink, hdrained.ctx,
      fun a => by rw [hdrained.mem]⟩
  case byte =>
    obtain ⟨hheld, -⟩ := hcache
    obtain ⟨k, hink, hres, hdrained⟩ := State.vecDrain_byte hdrain hsb ho hheld
    exact ⟨_, hdrains, fun i hwf => by rw [hdrained.mem, Memory.read_write _ _ _ hwf], hdrained.ink.trans hink,
      hdrained.res.trans hres, hdrained.ctx⟩
  case down =>
    exact ⟨_, exec_unitPowerDown_eq hr u, hpower (by simp [hon, hkeep, hbusy]) (Core.setUnit_ctxs ..)⟩
  case stays =>
    refine ⟨_, exec_unitPowerDown_eq hr u, hpower ?_ rfl⟩
    obtain hkept | hkept := hkept <;> simp [hkept]
  case wakes =>
    exact ⟨_, exec_unitWakeDone_eq hr u, hpower (if_pos hwaking) (Core.setUnit_ctxs ..)⟩

end Sys2Proof.Claims
end

section
/-! SUPPORT. What an instruction that only reads and writes registers leaves (R140, R142, R145). -/

namespace Sys2Proof.Machine

/-- A write of x[rd] as a read of x[i] sees it: x0 stays 0 (R140). -/
theorem Ctx.rx_wx_read (x : Ctx) (rd : Nat) (v : Word) (i : Nat) :
    (x.wx rd v).rx i = if i = rd ∧ i ≠ 0 then v else x.rx i :=
  (x.rx_wx rd i v).trans (if_congr (and_congr_right fun h => by rw [h]) rfl rfl)

/-- Without a flag nothing is raised. -/
theorem Ctx.raise_zero (x : Ctx) : x.raise 0 = x := by
  simp [Ctx.raise]

end Sys2Proof.Machine

namespace Sys2Proof.Claims

open Sys2Proof.Machine

theorem boolWord_eq (b : Bool) : boolWord b = if b then 1 else 0 := by cases b <;> rfl

/-- A word of its row that its context can issue has the row's effect. -/
theorem Issues.issue_next {s : State} {row : Row} {c : CtxRef} {w : Word32} (h : Issues s row c w) (f : State → State) :
    s.issue row c w f = .next (f s) := by
  obtain ⟨hcore, hready, hrow, hscalar⟩ := h
  exact State.issue_next f hcore hready hrow hscalar

/-- A context at the address of its next instruction, as an instruction's effect on registers sees it. -/
def atNext (s : State) (c : CtxRef) : Ctx := { s.ctxOf c with pc := nextPc s c }

theorem atNext_pc_sub (s : State) (c : CtxRef) : (atNext s c).pc - 4 = (s.ctxOf c).pc := BitVec.add_sub_cancel _ _

theorem commit_ctxOf_of {s : State} {c : CtxRef} {f : Ctx → Ctx} {y : Ctx} (hf : f (atNext s c) = y) :
    (s.commit c f).ctxOf c = { y with retired := y.retired + 1 } :=
  (State.commit_ctxOf s c f).trans (congrArg (fun y : Ctx => { y with retired := y.retired + 1 }) hf)

/-- An instruction of registers that can issue commits. -/
theorem Issues.runs_reg {i : Instr} {s : State} {row : Row} {c : CtxRef} {w : Word32} {f : Ctx → Ctx} {P : State → Prop}
    (h : Issues s row c w) (hi : exec i s = s.issueReg row c w f) (hP : P (s.commit c f)) : Runs i s P :=
  ⟨_, hi.trans (h.issue_next _), hP⟩

section
variable {s : State} {c : CtxRef} {f : Ctx → Ctx} {rd : Nat} {v pc : Word} {fl : BitVec 5}

/-- A commit that writes x[rd] and goes to `pc`. -/
theorem commit_writesX (hf : f (atNext s c) = { (atNext s c).wx rd v with pc := pc }) : WritesX s (s.commit c f) c rd v pc := by
  refine ⟨State.commit_onlyCtx s c f, ?_, fun r => ?_⟩
  · rw [commit_ctxOf_of hf, Ctx.wx_eq]
    rfl
  · rw [commit_ctxOf_of hf]
    exact (atNext s c).rx_wx_read rd v r

/-- A commit that writes x[rd] and raises flags of ISA_XFLG. -/
theorem commit_writesXFlags (hf : f (atNext s c) = ((atNext s c).wx rd v).raise fl) :
    WritesXFlags s (s.commit c f) c rd v fl := by
  refine ⟨State.commit_onlyCtx s c f, ?_, fun r => ?_⟩
  · rw [commit_ctxOf_of hf, Ctx.wx_eq]
    rfl
  · rw [commit_ctxOf_of hf]
    exact (atNext s c).rx_wx_read rd v r

/-- A commit that writes f[rd] and raises flags of ISA_XFLG. -/
theorem commit_writesF (hf : f (atNext s c) = ((atNext s c).wf rd v).raise fl) : WritesF s (s.commit c f) c rd v fl := by
  refine ⟨State.commit_onlyCtx s c f, ?_, fun r => ?_⟩
  · rw [commit_ctxOf_of hf]
    rfl
  · rw [commit_ctxOf_of hf]
    exact (Ctx.rf_wf (atNext s c) rd r v).trans (if_congr eq_comm rfl rfl)

/-- A write of x[rd] goes on to the next instruction. -/
theorem commit_writesX_next (hf : f (atNext s c) = (atNext s c).wx rd v) : WritesX s (s.commit c f) c rd v (nextPc s c) :=
  commit_writesX (hf.trans (by rw [Ctx.wx_eq]; rfl))

end

/-- Settles O7: each instruction commits with one write of xd; ADDPC adds to the instruction's own address. -/
theorem integerInstructionsComplete : Obligations.IntegerInstructionsComplete := by
  unfold Obligations.IntegerInstructionsComplete
  intro s c w
  dsimp only
  refine ⟨fun h => ?setk, fun h => ?addpc, fun h => ?aluImm, fun h => ?aluReg, fun h => ?multiply, fun h => ?divide⟩
  case setk => exact h.runs_reg (exec_setk c w s) (commit_writesX_next rfl)
  case addpc =>
    refine h.runs_reg (exec_addpc c w s) (commit_writesX_next ?_)
    rw [atNext_pc_sub]
    rfl
  case aluImm => exact h.runs_reg (exec_aluImmediate c w s) (commit_writesX_next rfl)
  case aluReg => exact h.runs_reg (exec_aluRegister c w s) (commit_writesX_next rfl)
  case multiply => exact h.runs_reg (exec_multiply c w s) (commit_writesX_next rfl)
  case divide => exact h.runs_reg (exec_divide c w s) (commit_writesX_next rfl)

/-- The divide row's result in xd. -/
theorem Issues.runs_divide {s : State} {c : CtxRef} {w : Word32} (h : Issues s .divide c w) {v : Word}
    (hv : divOp (wF3 w) ((s.ctxOf c).rx (wRs1 w)) ((s.ctxOf c).rx (wRs2 w)) = v) :
    Runs (.divide c w) s (fun t => WritesX s t c (wRd w) v (nextPc s c)) :=
  h.runs_reg (exec_divide c w s) (commit_writesX_next (by rw [← hv]; rfl))

/-- Settles O8: each corner is a value of `divOp`. -/
theorem divisionCorners : Obligations.DivisionCorners := by
  unfold Obligations.DivisionCorners
  intro s c w h
  dsimp only
  refine ⟨fun hb hf => h.runs_divide ?quotient, fun hb hf => h.runs_divide ?remainder,
    fun ha hb hf => h.runs_divide ?smallest, fun ha hb hf => h.runs_divide ?noRemainder⟩
  case quotient => rcases hf with hf | hf <;> rw [hb, hf] <;> rfl
  case remainder => rcases hf with hf | hf <;> rw [hb, hf] <;> rfl
  case smallest =>
    rw [ha, hb, hf]
    decide
  case noRemainder =>
    rw [ha, hb, hf]
    decide

/-- Settles O9: the pc of a jump is its target in place of the next instruction. -/
theorem jumpsComplete : Obligations.JumpsComplete := by
  unfold Obligations.JumpsComplete
  intro s c w
  dsimp only
  refine ⟨fun h => ?gol, fun h ht => ?gor, fun h => ?jcond⟩
  case gol =>
    refine h.runs_reg (exec_gol c w s) (commit_writesX ?_)
    rw [atNext_pc_sub]
    rfl
  case gor =>
    have hgoes : exec (.gor c w) s =
        .next (s.commit c (fun x => { x.wx (wRd w) x.pc with pc := gorTarget (s.ctxOf c) w })) :=
      (exec_gor c w s).trans ((h.issue_next _).trans (congrArg _ (if_neg (not_not.mpr ht))))
    exact ⟨_, hgoes, commit_writesX rfl⟩
  case jcond =>
    refine h.runs_reg (exec_jcond c w s) (commit_writesX ?_)
    rw [atNext_pc_sub]
    by_cases htaken : jumpTaken (wF3 w) ((s.ctxOf c).rx (wRs1 w)) ((s.ctxOf c).rx (wRs2 w)) = true
    · rw [if_pos htaken]
      exact if_pos htaken
    · rw [if_neg htaken]
      exact if_neg htaken

/-- Settles O10: each instruction commits with one write of fd or xd and its flags. -/
theorem scalarFloatComplete : Obligations.ScalarFloatComplete := by
  unfold Obligations.ScalarFloatComplete
  intro s c w
  dsimp only
  refine ⟨fun h => ?arith, fun h => ?minmax, fun h => ?compare, fun h => ?sign, fun h => ?dtoi, fun h => ?itod,
    fun h hf => ?dtox, fun h hf => ?xtod⟩
  case arith => exact h.runs_reg (exec_fpArith c w s) (commit_writesF rfl)
  case minmax => exact h.runs_reg (exec_fpMinmax c w s) (commit_writesF rfl)
  case compare => exact h.runs_reg (exec_fpCompare c w s) (commit_writesXFlags (by rw [← boolWord_eq]; rfl))
  case sign => exact h.runs_reg (exec_fpSign c w s) (commit_writesF (Ctx.raise_zero _).symm)
  case dtoi => exact h.runs_reg (exec_dtoi c w s) (commit_writesXFlags rfl)
  case itod => exact h.runs_reg (exec_itod c w s) (commit_writesF rfl)
  case dtox => exact h.runs_reg (exec_fpMove c w s) (commit_writesX_next (if_pos hf))
  case xtod =>
    have hmove : ¬ wF7 w = 15 := by omega
    exact h.runs_reg (exec_fpMove c w s) (commit_writesF ((if_neg hmove).trans (Ctx.raise_zero _).symm))

end Sys2Proof.Claims
end

section
/-! SUPPORT. What a nanosecond without a command leaves alone (R145, R172, R336, R379, R391): each of its stages, and a storage
error that arises in it. -/

namespace Sys2Proof.Machine

/-- A part of the state that every step of a fold leaves alone. -/
theorem foldl_view {α β σ : Type} {f : σ → α → σ} {view : σ → β} (hf : ∀ t x, view (f t x) = view t)
    (l : List α) (s : σ) :
    view (l.foldl f s) = view s := by
  induction l generalizing s with
  | nil => rfl
  | cons x l ih => exact (ih _).trans (hf s x)

/-- What a nanosecond leaves: no byte, queue, frame, window or message has changed, the rows and entries of each core are as
they were, a context may have lost vector registers, and a command may have got its completion time or lost its record. -/
structure Ticked (s t : State) : Prop where
  rest : t = { s with cores := t.cores, dies := t.dies, cmds := t.cmds, funcs := t.funcs, aer := t.aer, free := t.free }
  units : ∀ k, (t.core k).ink = (s.core k).ink ∧ (t.core k).res = (s.core k).res
  ctx : ∀ k j, t.ctx k j = { s.ctx k j with vbad := (t.ctx k j).vbad }
  cmd : ∀ r m, s.cmd r = some m → ∃ n, t.cmd r = some n ∧ n = { m with done := n.done, lost := n.lost }

theorem Ticked.trans {s t u : State} (h : Ticked s t) (g : Ticked t u) : Ticked s u where
  rest := by rw [g.rest, h.rest]
  units k := ⟨(g.units k).1.trans (h.units k).1, (g.units k).2.trans (h.units k).2⟩
  ctx k j := by rw [g.ctx k j, h.ctx k j]
  cmd r m hm := by
    obtain ⟨n, hn, hnm⟩ := h.cmd r m hm
    obtain ⟨n', hn', hnm'⟩ := g.cmd r n hn
    exact ⟨n', hn', by rw [hnm', hnm]⟩

/-- A stage that changes neither cores nor commands. -/
theorem Ticked.of_same {s t : State} (h : t = { s with dies := t.dies, funcs := t.funcs, aer := t.aer, free := t.free }) :
    Ticked s t := by
  have hcores : t.cores = s.cores := by rw [h]
  have hcmds : t.cmds = s.cmds := by rw [h]
  have hcore (k : Nat) : t.core k = s.core k := by rw [State.core, hcores]; rfl
  refine ⟨?_, fun k => by rw [hcore]; exact ⟨rfl, rfl⟩, fun k j => by rw [State.ctx, hcore]; rfl, fun r m hm => ⟨m, ?_, rfl⟩⟩
  · rw [h]
  · rwa [State.cmd, hcmds]

theorem Ticked.refl (s : State) : Ticked s s := .of_same rfl

/-- A stage that changes only cores, and of each keeps contexts, rows and entries. -/
theorem Ticked.of_cores {s t : State} (hrest : t = { s with cores := t.cores, dies := t.dies })
    (hcore : ∀ k, (t.core k).ctxs = (s.core k).ctxs ∧ (t.core k).ink = (s.core k).ink ∧ (t.core k).res = (s.core k).res) :
    Ticked s t := by
  refine ⟨by rw [hrest], fun k => (hcore k).2, fun k j => ?_, fun r m hm => ⟨m, ?_, rfl⟩⟩
  · rw [State.ctx, Core.ctx, (hcore k).1]
    rfl
  · rw [State.cmd, hrest]
    exact hm

/-- A core without its programmable counters. -/
def Core.uncounted (k : Core) : Core := { k with ctrPc := [] }

theorem Core.countEvent_uncounted (k : Core) (e : Nat) (j : Option Nat) (n : Nat) :
    (k.countEvent e j n).uncounted = k.uncounted := by
  rw [Core.countEvent_eq]
  rfl

/-- A nanosecond of a core changes its programmable counters alone. -/
theorem Core.tick_uncounted (k : Core) (cycles : Nat) (lowered : Bool) : (k.tick cycles lowered).uncounted = k.uncounted := by
  unfold Core.tick
  refine (foldl_view (fun c j => c.countEvent_uncounted _ _ _) _ _).trans ?_
  simp only [Core.countEvent_uncounted]

/-- The cores and dies as a nanosecond leaves them. -/
def State.tickUnits (s : State) (cycles : Nat) (lowered : Bool) (now : Nat) : State :=
  { s with cores := SMap.mapVals s.cores (fun _ k => k.tick cycles lowered), dies := SMap.mapVals s.dies (fun _ d => d.tick now) }

/-- The clocks and ALERT# after a nanosecond. -/
def State.tickClock (s : State) : State :=
  s.updMod (fun m => { m with
    alert := if m.serves then s.alertNow else m.alert, timeNs := m.timeNs + 1, bootNs := m.bootNs + 1, idleCyc := m.idleCyc + 800
    coreCyc := m.coreCyc + m.coreMhz })

/-- Of each core a nanosecond changes the programmable counters alone. -/
theorem State.tickUnits_core (s : State) (cycles : Nat) (lowered : Bool) (now k : Nat) :
    ((s.tickUnits cycles lowered now).core k).uncounted = (s.core k).uncounted := by
  rw [State.core, SMap.get, State.tickUnits, SMap.find_mapVals, State.core, SMap.get]
  cases SMap.find s.cores k with
  | none => rfl
  | some c => exact c.tick_uncounted cycles lowered

theorem State.tickUnits_ctx (s : State) (cycles : Nat) (lowered : Bool) (now k j : Nat) :
    (s.tickUnits cycles lowered now).ctx k j = s.ctx k j :=
  (congrArg (fun c : Core => c.ctx j) (s.tickUnits_core cycles lowered now k) :)

theorem State.tickUnits_ticked (s : State) (cycles : Nat) (lowered : Bool) (now : Nat) :
    Ticked s (s.tickUnits cycles lowered now) := by
  refine .of_cores rfl fun k => ?_
  have hcore := s.tickUnits_core cycles lowered now k
  exact ⟨(congrArg Core.ctxs hcore :), (congrArg Core.ink hcore :), (congrArg Core.res hcore :)⟩

/-- The state without its functions. -/
def State.sansFuncs (s : State) : State := { s with funcs := [] }

/-- The counters of functions change nothing else. -/
theorem State.tickFuncs_eq (s : State) : s.tickFuncs = { s with funcs := s.tickFuncs.funcs } := by
  have hcount (t : State) (f off n : Nat) : (t.countFunc f off n).sansFuncs = t.sansFuncs := rfl
  have hview : s.tickFuncs.sansFuncs = s.sansFuncs := by
    unfold State.tickFuncs
    exact foldl_view (fun t n => by simp only [hcount]) _ _
  exact (congrArg (fun t : State => { t with funcs := s.tickFuncs.funcs }) hview :)

theorem State.tickFuncs_ticked (s : State) : Ticked s s.tickFuncs := .of_same (by rw [State.tickFuncs_eq])

/-- The times of completion are noted in the commands alone. -/
theorem State.stampDone_ticked (s : State) : Ticked s s.stampDone where
  rest := rfl
  units _ := ⟨rfl, rfl⟩
  ctx _ _ := rfl
  cmd r m hm := by
    have href (c : Cmd) : (if c.done.isNone && s.cmdDone c then { c with done := some s.mod.timeNs } else c).ref = c.ref := by
      split <;> rfl
    refine ⟨_, (State.cmd_mapped r href rfl).trans (by rw [hm]; rfl), ?_⟩
    dsimp only
    split <;> rfl

theorem find?_modify {α : Type} {p : α → Bool} {f : α → α} (hf : ∀ x, p (f x) = p x) {l : List α} {x : α}
    (h : l.find? p = some x) (i : Nat) : (l.modify i f).find? p = some x ∨ (l.modify i f).find? p = some (f x) := by
  induction l generalizing i with
  | nil => exact nomatch h
  | cons y l ih =>
    cases i with
    | zero =>
      by_cases hy : p y
      · have hx : y = x := by simpa [hy] using h
        subst hx
        right
        simp [hf, hy]
      · left
        simpa [hf, hy] using h
    | succ i =>
      by_cases hy : p y
      · left
        simpa [hy] using h
      · have hl : l.find? p = some x := by simpa [hy] using h
        simpa [hy] using ih hl i

/-- A storage error strikes one row, one vector register, one record or one count of a link. -/
theorem State.upset_ticked (s : State) (u : Config.Upset) : Ticked s (s.upset u) := by
  cases u with
  | inkwell core row hard =>
    refine .of_cores rfl fun k => ?_
    rw [State.upset, State.core_updCore]
    split
    · next h =>
      subst h
      dsimp only
      split
      · exact ⟨rfl, rfl, rfl⟩
      · split <;> exact ⟨rfl, rfl, rfl⟩
    · exact ⟨rfl, rfl, rfl⟩
  | vector core ctx reg =>
    refine ⟨rfl, fun k => ?_, fun k j => ?_, fun r m hm => ⟨m, hm, rfl⟩⟩
    · rw [State.upset, State.updCtx, State.core_updCore]
      split
      · next h =>
        subst h
        exact ⟨rfl, rfl⟩
      · exact ⟨rfl, rfl⟩
    · rw [State.upset, State.updCtx, State.ctx, State.core_updCore]
      split
      · next h =>
        subst h
        rw [Core.ctx_updCtx]
        split
        · next h =>
          subst h
          rfl
        · rfl
      · rfl
  | blotter i =>
    refine ⟨rfl, fun _ => ⟨rfl, rfl⟩, fun _ _ => rfl, fun r m hm => ?_⟩
    obtain h | h := find?_modify (f := fun c : Cmd => { c with lost := true }) (fun _ => rfl) hm i
    · exact ⟨m, h, rfl⟩
    · exact ⟨_, h, rfl⟩
  | link l =>
    rw [State.upset]
    split
    · exact .of_same rfl
    · exact .refl s

theorem State.upsets_ticked (s : State) : Ticked s s.upsets := by
  unfold State.upsets
  split
  · exact .refl s
  · cases Config.upset s.free with
    | none => exact .of_same rfl
    | some u => exact (s.upset_ticked u).trans (.of_same rfl)

/-- Without a storage error no context changes. -/
theorem State.upsets_ctx {s : State} (h : s.diesRun = true → Config.upset s.free = none) (k j : Nat) :
    s.upsets.ctx k j = s.ctx k j := by
  unfold State.upsets
  cases hd : s.diesRun with
  | false => rfl
  | true =>
    rw [h hd]
    rfl

/-- With no function being reset and no cancelled LAUNCH in its grace nothing settles. -/
theorem State.settles_none {s : State} (hfuncs : ∀ p ∈ s.funcs, p.2.resetting = false)
    (hcmds : ∀ m ∈ s.cmds, m.grace = false ∨ m.isStarted = false) : s.stampDone.settleAll.resetsOn = s.stampDone := by
  have hgrace : s.stampDone.cmds.filter (fun c => c.grace && c.isStarted) = [] := by
    refine List.filter_eq_nil_iff.mpr fun c hc => ?_
    obtain ⟨m, hm, rfl⟩ := List.mem_map.mp hc
    have hsettled : (m.grace && m.isStarted) = false := by
      obtain h | h := hcmds m hm <;> simp [h]
    split <;> exact ne_true_of_eq_false hsettled
  have hresets : s.stampDone.funcs.filter (fun p => p.2.resetting) = [] :=
    List.filter_eq_nil_iff.mpr fun p hp => by simp [hfuncs p hp]
  have hsettle : s.stampDone.settleAll = s.stampDone := by
    rw [State.settleAll, hgrace]
    rfl
  rw [hsettle, State.resetsOn, hresets]
  rfl

/-- What a nanosecond does once all that settles in it has settled, but for the clocks. -/
def State.tickRest (s : State) (m : Module) : State :=
  (s.tickFuncs.tickUnits ((m.coreCyc + m.coreMhz) / 1000 - m.coreCyc / 1000) m.thermMhz.isSome m.timeNs).upsets

theorem State.tick_stages (s : State) : s.tick = (s.stampDone.settleAll.resetsOn.tickRest s.mod).tickClock := rfl

theorem State.tickRest_ticked (s : State) (m : Module) : Ticked s (s.tickRest m) :=
  (s.tickFuncs_ticked.trans (State.tickUnits_ticked _ _ _ _)).trans (State.upsets_ticked _)

theorem State.tickRest_ctx {s : State} (h : s.diesRun = true → Config.upset s.free = none) (m : Module) (k j : Nat) :
    (s.tickRest m).ctx k j = s.ctx k j := by
  have hsame : s.tickFuncs.diesRun = s.diesRun ∧ s.tickFuncs.free = s.free := by
    rw [State.tickFuncs_eq]
    exact ⟨rfl, rfl⟩
  have hcore : s.tickFuncs.core k = s.core k := by rw [State.tickFuncs_eq]; rfl
  rw [State.tickRest, State.upsets_ctx]
  · rw [State.tickUnits_ctx, State.ctx, hcore]
    rfl
  · intro hruns
    exact (congrArg Config.upset hsame.2).trans (h (hsame.1 ▸ hruns))

/-- What settles leaves the module's own registers. -/
theorem State.settles_mod (s : State) : s.stampDone.settleAll.resetsOn.mod = s.mod := by
  have hall (t : State) : t.settleAll.mod = t.mod := by simp [State.settleAll]
  have hon (t : State) : t.resetsOn.mod = t.mod := by simp [State.resetsOn]
  rw [hon, hall]
  rfl

theorem State.tick_timeNs (s : State) : s.tick.mod.timeNs = s.mod.timeNs + 1 := by
  have hmod : (s.stampDone.settleAll.resetsOn.tickRest s.mod).mod = s.mod := by
    rw [(State.tickRest_ticked _ _).rest]
    exact s.settles_mod
  rw [State.tick_stages, State.tickClock, State.updMod_mod, hmod]

end Sys2Proof.Machine

namespace Sys2Proof.Claims

open Sys2Proof.Machine

/-- Settles O2: with nothing to settle a tick is `State.tickRest` of the noted completion times, and then the clocks. -/
theorem idleStepIsATick : Obligations.IdleStepIsATick := by
  unfold Obligations.IdleStepIsATick
  intro s hidle
  have hstep : step s = .next s.tick := by rw [step, hidle]
  have hpending : s.tick.pending = [] := by
    obtain ⟨hkept, -⟩ := State.tick_keeps (Keeps.rfl' s)
    exact hkept.trans hidle
  refine ⟨_, hstep, s.tick_timeNs, hpending, fun hfuncs hcmds => ?_⟩
  have htick : s.tick = (s.stampDone.tickRest s.mod).tickClock := by rw [State.tick_stages, State.settles_none hfuncs hcmds]
  have hticked : Ticked s (s.stampDone.tickRest s.mod) := s.stampDone_ticked.trans (State.tickRest_ticked _ _)
  generalize hu : s.stampDone.tickRest s.mod = u at htick hticked
  rw [htick]
  have hrest := hticked.rest
  refine ⟨?_, ?_, ?_, ?_, ?_, ?_, hticked.units, hticked.ctx, hticked.cmd, fun hnone k j => ?contexts⟩
  case contexts =>
    rw [← hu]
    exact State.tickRest_ctx (s := s.stampDone) hnone s.mod k j
  all_goals
    rw [hrest]
    rfl

end Sys2Proof.Claims
end

section
/-! SUPPORT. What a die's cache leaves alone (R184 to R193): the spare of the die (R346), which has its own registers. -/

namespace Sys2Proof.Machine

/-- Where the spare of a die stands (R346). -/
def Die.spare (d : Die) : Bool × Bool × Nat := (d.spareUsed, d.mapping, d.spareCore)

/-- A die that may be answered has its spare unchanged. -/
def Die.SparesOpt (d : Die) (o : Option Die) : Prop := ∀ d', o = some d' → d'.spare = d.spare

theorem Die.sparesOpt_none (d : Die) : d.SparesOpt none := fun _ h => nomatch h

theorem Die.sparesOpt_some {d d' : Die} (h : d'.spare = d.spare) : d.SparesOpt (some d') := fun _ hd => Option.some.inj hd ▸ h

theorem Die.SparesOpt.map {d : Die} {o : Option Die} (h : d.SparesOpt o) {f : Die → Die} (hf : ∀ x, (f x).spare = x.spare) :
    d.SparesOpt (o.map f) := by
  rintro d' hd
  obtain ⟨x, hx, rfl⟩ := Option.map_eq_some_iff.mp hd
  exact (hf x).trans (h x hx)

theorem Die.SparesOpt.of_spare {d e : Die} {o : Option Die} (h : e.SparesOpt o) (he : e.spare = d.spare) : d.SparesOpt o :=
  fun d' hd => (h d' hd).trans he

theorem Die.SparesOpt.getD {d : Die} {o : Option Die} (h : d.SparesOpt o) : (o.getD d).spare = d.spare := by
  cases o with
  | none => rfl
  | some d' => exact h d' rfl

theorem Die.queueWrite_spare (d : Die) (line fn : Nat) (back : Bool) : d.SparesOpt (d.queueWrite line fn back) := by
  unfold Die.queueWrite
  dsimp only
  split
  · exact d.sparesOpt_none
  · exact d.sparesOpt_some rfl

theorem Die.queueRead_spare (d : Die) (line fn : Nat) : d.SparesOpt (d.queueRead line fn) := by
  unfold Die.queueRead
  dsimp only
  split
  · exact d.sparesOpt_some rfl
  · split
    · exact d.sparesOpt_none
    · exact d.sparesOpt_some rfl

theorem Die.miss_spare (d : Die) (spa fn : Nat) (wr whole keep : Bool) (who : List Engine) :
    d.SparesOpt (d.miss spa fn wr whole keep who) := by
  unfold Die.miss
  dsimp only
  split
  · split
    · exact d.sparesOpt_some rfl
    · split
      · exact d.sparesOpt_none
      · exact d.sparesOpt_some rfl
  · split
    · exact d.sparesOpt_none
    · exact (d.queueRead_spare _ _).map fun _ => rfl

theorem Die.fetch_spare (d : Die) (spa fn : Nat) (who : List Engine) : d.SparesOpt (d.fetch spa fn who) := by
  unfold Die.fetch
  dsimp only
  split
  · exact d.sparesOpt_some rfl
  · exact (d.queueRead_spare _ _).map fun _ => rfl

theorem Die.ask_spare (d : Die) (spa fn hint : Nat) (who : List Engine) : (d.ask spa fn hint who).spare = d.spare := by
  unfold Die.ask
  split
  · exact (d.fetch_spare _ _ _).getD
  · exact (d.miss_spare _ _ _ _ _ _).getD

theorem Die.track_spare (d : Die) (spa len : Nat) : (d.track spa len).1.spare = d.spare := by
  unfold Die.track
  dsimp only
  split <;> rfl

theorem Die.evictLine_spare (d : Die) (offer : Bool) (fn : Nat) (l : DcLine) : d.SparesOpt (d.evictLine offer fn l) := by
  unfold Die.evictLine
  dsimp only
  split
  · split
    · exact (Die.queueWrite_spare _ _ _ _).of_spare rfl
    · exact d.sparesOpt_some rfl
  · split
    · exact d.sparesOpt_some rfl
    · split
      · exact d.sparesOpt_none
      · exact d.sparesOpt_some rfl

theorem Die.clearWay_spare (d : Die) (offer : Bool) (fn key w : Nat) : d.SparesOpt (d.clearWay offer fn key w) := by
  unfold Die.clearWay
  dsimp only
  split
  · exact (Die.evictLine_spare _ _ _ _).of_spare rfl
  · exact d.sparesOpt_some rfl

theorem Die.place_spare (d : Die) (offer : Bool) (spa fn : Nat) (dirty keep : Bool) :
    d.SparesOpt (d.place offer spa fn dirty keep) := by
  intro d' h
  obtain ⟨w, -, h⟩ := Option.bind_eq_some_iff.mp h
  obtain ⟨e, he, rfl⟩ := Option.map_eq_some_iff.mp h
  exact (d.clearWay_spare _ _ _ _ e he :)

theorem Die.lookup_spare {d d' : Die} {offer : Bool} {spa fn hint : Nat} (h : d.lookup offer spa fn hint = .here d') :
    d'.spare = d.spare := by
  unfold Die.lookup at h
  dsimp only at h
  split at h
  · cases h
    split
    · rfl
    · split <;> rfl
  · split at h
    · exact nomatch h
    · split at h
      · cases h
        rfl
      · split at h
        · next hp =>
          cases h
          exact (Die.place_spare _ _ _ _ _ _ d' hp :)
        · exact nomatch h

theorem Die.writeLine_spare (d : Die) (offer : Bool) (spa len fn hint : Nat) :
    d.SparesOpt (d.writeLine offer spa len fn hint) := by
  have htrack : ((if 64 ≤ len && spa % 64 == 0 then d.track spa len else (d, false)).1).spare = d.spare := by
    split
    · exact d.track_spare spa len
    · rfl
  unfold Die.writeLine
  dsimp only
  generalize (if 64 ≤ len && spa % 64 == 0 then d.track spa len else (d, false)) = r at htrack
  split
  · split
    · exact (Die.queueWrite_spare _ _ _ _).of_spare rfl
    · refine d.sparesOpt_some ?_
      split <;> rfl
  · split
    · exact (Die.miss_spare _ _ _ _ _ _ _).of_spare htrack
    · split
      · refine (Die.queueWrite_spare _ _ _ _).of_spare ?_
        split <;> exact htrack
      · split
        · exact (Die.queueWrite_spare _ _ _ _).of_spare htrack
        · split
          · exact (Die.queueWrite_spare _ _ _ _).of_spare htrack
          · split
            · exact (Die.place_spare _ _ _ _ _ _).of_spare htrack
            · split
              · exact (Die.place_spare _ _ _ _ _ _).of_spare htrack
              · exact (Die.miss_spare _ _ _ _ _ _ _).of_spare htrack

end Sys2Proof.Machine
end

section
/-! SUPPORT. What trace records, records to a host and the module's own accesses leave alone (R211, R213, R261, R374, R376): the
cores, commands, queues, groups and registers, and the spare of each die. -/

namespace Sys2Proof.Machine

/-- The state without memory, host memory, caches, functions and messages to a host. -/
def State.sansStores (s : State) : State := { s with mem := [], poison := [], host := [], dies := [], funcs := [], hostMsgs := [] }

/-- Only memory, host memory, caches, functions and messages to a host differ, and of the dies no spare. -/
structure Quiet (s t : State) : Prop where
  rest : t.sansStores = s.sansStores
  spare : ∀ d, (t.die d).spare = (s.die d).spare

theorem Quiet.refl (s : State) : Quiet s s := ⟨rfl, fun _ => rfl⟩

theorem Quiet.trans {s t u : State} (h : Quiet s t) (g : Quiet t u) : Quiet s u :=
  ⟨g.rest.trans h.rest, fun d => (g.spare d).trans (h.spare d)⟩

theorem Quiet.of_dies {s t : State} (h : t.sansStores = s.sansStores) (hd : t.dies = s.dies) : Quiet s t :=
  ⟨h, fun d => by rw [State.die, hd]; rfl⟩

section
variable {s t : State} (h : Quiet s t)
include h

theorem Quiet.cores : t.cores = s.cores := (congrArg State.cores h.rest :)
theorem Quiet.cmds : t.cmds = s.cmds := (congrArg State.cmds h.rest :)
theorem Quiet.mod : t.mod = s.mod := (congrArg State.mod h.rest :)
theorem Quiet.core (k : Nat) : t.core k = s.core k := by rw [State.core, h.cores]; rfl
theorem Quiet.ctx (k j : Nat) : t.ctx k j = s.ctx k j := by rw [State.ctx, h.core]; rfl
theorem Quiet.ctxOf (c : CtxRef) : t.ctxOf c = s.ctxOf c := h.ctx _ _

end

theorem quiet_foldl {α : Type} {f : State → α → State} (hf : ∀ t x, Quiet t (f t x)) (l : List α) (s : State) :
    Quiet s (l.foldl f s) := by
  induction l generalizing s with
  | nil => exact .refl s
  | cons x l ih => exact (hf s x).trans (ih _)

/-- A state that may be answered differs no more. -/
def QuietOpt (s : State) (o : Option State) : Prop := ∀ t, o = some t → Quiet s t

theorem quietOpt_none (s : State) : QuietOpt s none := fun _ ht => nomatch ht

theorem quietOpt_some {s t : State} (h : Quiet s t) : QuietOpt s (some t) := fun _ ht => Option.some.inj ht ▸ h

theorem quietOpt_foldl {α : Type} {f : State → α → Option State} (hf : ∀ t x, QuietOpt t (f t x)) (l : List α) (s : State) :
    QuietOpt s (l.foldl (fun o x => o.bind (fun t => f t x)) (some s)) := by
  suffices h : ∀ o, QuietOpt s o → QuietOpt s (l.foldl (fun o x => o.bind (fun t => f t x)) o) from
    h _ (quietOpt_some (.refl s))
  induction l with
  | nil => exact fun o ho => ho
  | cons x l ih =>
    refine fun o ho => ih _ (fun u hu => ?_)
    obtain ⟨t, ht, hu⟩ := Option.bind_eq_some_iff.mp hu
    exact (ho t ht).trans (hf t x u hu)

theorem State.updDie_quiet {s : State} {d : Nat} {f : Die → Die} (hf : (f (s.die d)).spare = (s.die d).spare) :
    Quiet s (s.updDie d f) := by
  refine ⟨rfl, fun i => ?_⟩
  rw [State.die_updDie]
  split
  · next h => rw [hf, h]
  · rfl

theorem State.updFunc_quiet (s : State) (n : Nat) (f : Func → Func) : Quiet s (s.updFunc n f) := .of_dies rfl rfl

theorem State.mapDies_quiet (s : State) {f : Nat → Die → Die} (hf : ∀ i d, (f i d).spare = d.spare) :
    Quiet s { s with dies := SMap.mapVals s.dies f } := by
  refine ⟨rfl, fun i => ?_⟩
  rw [State.die, SMap.get, SMap.find_mapVals, State.die, SMap.get]
  cases SMap.find s.dies i with
  | none => rfl
  | some d => exact hf i d

theorem State.forgetReads_quiet (s : State) (gone : Engine → Bool) : Quiet s (s.forgetReads gone) :=
  s.mapDies_quiet fun _ _ => rfl

theorem State.record_quiet (s : State) (n : Nat) (bs : List Byte) : Quiet s (s.record n bs) :=
  .of_dies (congrArg State.sansStores (s.record_sansHost n bs) :) (congrArg State.dies (s.record_sansHost n bs) :)

theorem State.updCache_quiet {s : State} {spa : Nat} {f : Die → Die} (hf : (f (s.die (dieOf spa))).spare = (s.die (dieOf spa)).spare)
    (fn : Nat) : Quiet s (s.updCache spa fn f) :=
  (State.updDie_quiet hf).trans (quiet_foldl (fun t _ => t.updFunc_quiet _ _) _ _)

theorem State.wroteLine_quiet (s : State) (spa n : Nat) : Quiet s (s.wroteLine spa n) := by
  unfold State.wroteLine
  split
  · exact .of_dies rfl rfl
  · exact .refl s

theorem State.cacheRead_quiet (s : State) (spa n fn hint : Nat) : Quiet s (s.cacheRead spa n fn hint) := by
  refine quiet_foldl (fun t p => ?_) _ s
  split
  · next d1 hd => exact State.updCache_quiet (Die.lookup_spare hd) _
  · exact .refl t
  · exact State.updDie_quiet (Die.ask_spare _ _ _ _ _)

theorem State.cacheWrite_quiet (s : State) (spa n fn hint : Nat) : Quiet s (s.cacheWrite spa n fn hint) :=
  quiet_foldl (fun _ _ => (State.updCache_quiet (Die.writeLine_spare _ _ _ _ _ _).getD _).trans (State.wroteLine_quiet _ _ _)) _ s

theorem State.walkTouch_quiet (s : State) (fn va : Nat) : Quiet s (s.walkTouch fn va) := by
  unfold State.walkTouch
  dsimp only
  split
  · exact .refl s
  · split
    · exact s.cacheRead_quiet _ _ _ _
    · exact (s.cacheRead_quiet _ _ _ _).trans (State.cacheRead_quiet _ _ _ _ _)

theorem State.putMem_quiet (s : State) (a : Nat) (bs : List Byte) : Quiet s (s.putMem a bs) := .of_dies rfl rfl

theorem State.putHost_quiet (s : State) (link a : Nat) (bs : List Byte) : Quiet s (s.putHost link a bs) := .of_dies rfl rfl

theorem State.writeTrusted_quiet (s : State) (fn va : Nat) (bs : List Byte) : QuietOpt s (s.writeTrusted fn va bs) := by
  refine quietOpt_foldl (fun t p => ?_) _ s
  dsimp only
  split
  · exact quietOpt_some (((t.walkTouch_quiet _ _).trans (State.cacheWrite_quiet _ _ _ _ _)).trans (State.putMem_quiet _ _ _))
  · exact quietOpt_some ((t.walkTouch_quiet _ _).trans (State.putHost_quiet _ _ _ _))
  · exact quietOpt_none t

theorem State.traceHead_quiet {s : State} {r : TraceRing} {h : Nat} {t : State} (ht : s.traceHead r = some (h, t)) : Quiet s t := by
  unfold State.traceHead at ht
  dsimp only at ht
  split at ht
  · cases ht
    exact (s.walkTouch_quiet _ _).trans (State.cacheRead_quiet _ _ _ _ _)
  · obtain ⟨bs, -, hb⟩ := Option.map_eq_some_iff.mp ht
    cases hb
    exact s.walkTouch_quiet _ _
  · exact nomatch ht

theorem State.setRing_quiet (s : State) (die : Nat) (r : TraceRing) : Quiet s (s.setRing die r) := State.updDie_quiet rfl

theorem State.dropRecord_quiet (s : State) (die : Nat) (r : TraceRing) : Quiet s (s.dropRecord die r) := by
  unfold State.dropRecord
  cases hw : s.writeTrusted r.fn (r.va + 8) (leBytes 8 (satAdd 64 r.drop 1)) with
  | none => exact s.setRing_quiet _ _
  | some t => exact (s.writeTrusted_quiet _ _ _ t hw).trans (t.setRing_quiet _ _)

theorem State.traceTo_quiet (s : State) (die : Nat) (r : TraceRing) (record : List Byte) : Quiet s (s.traceTo die r record) := by
  unfold State.traceTo
  dsimp only
  split
  · exact s.dropRecord_quiet die r
  · next h t ht =>
    refine (State.traceHead_quiet ht).trans ?_
    split
    · exact t.dropRecord_quiet die r
    · split
      · exact t.dropRecord_quiet die r
      · next t1 h1 =>
        split
        · exact t.dropRecord_quiet die r
        · next t2 h2 =>
          exact ((t.writeTrusted_quiet _ _ _ t1 h1).trans (t1.writeTrusted_quiet _ _ _ t2 h2)).trans (t2.setRing_quiet _ _)

theorem State.trace_quiet (s : State) (die fn code : Nat) (core : Option Nat) (ctx queue seq data : Nat) :
    Quiet s (s.trace die fn code core ctx queue seq data) :=
  quiet_foldl (fun t _ => t.traceTo_quiet _ _ _) _ s

end Sys2Proof.Machine
end

section
/-! SUPPORT. The entry of the handler by a trap or an interrupt (R150 to R153). -/

namespace Sys2Proof.Machine

open Sys2Proof.Claims

theorem State.ctx_updCtxOf_ne (s : State) (c : CtxRef) (f : Ctx → Ctx) {k j : Nat} (h : k ≠ c.key ∨ j ≠ c.idx) :
    (s.updCtxOf c f).ctx k j = s.ctx k j := by
  obtain ⟨-, -, hcores, -, hctxs⟩ := s.updCtxOf_onlyCtx c f
  by_cases hk : k = c.key
  · subst hk
    exact hctxs j (h.resolve_left (fun hne => hne rfl))
  · rw [State.ctx, hcores k hk]
    rfl

/-- What engines no longer ask for leaves the trace rings of a die. -/
theorem State.forgetReads_traces (s : State) (gone : Engine → Bool) (d : Nat) :
    ((s.forgetReads gone).die d).traces = (s.die d).traces := by
  rw [State.die, SMap.get, State.forgetReads, SMap.find_mapVals, State.die, SMap.get]
  cases SMap.find s.dies d <;> rfl

/-- A context in its handler, with its reads forgotten and the event traced (R151, R376). -/
theorem State.enterHandler_enters (s : State) (c : CtxRef) (cause : Nat) (arg : Word) (fn code : Nat) (core : Option Nat)
    (j q n data : Nat) : EntersHandler s (((s.updCtxOf c (fun x => x.enterHandler cause arg)).forgetReads (fun e => e == .ctx c)).trace
      c.die.toNat fn code core j q n data) c cause arg := by
  have hquiet : Quiet (s.updCtxOf c (fun x => x.enterHandler cause arg)) _ :=
    (State.forgetReads_quiet _ (fun e => e == .ctx c)).trans (State.trace_quiet _ c.die.toNat fn code core j q n data)
  refine ⟨?_, fun k i hki => ?_, hquiet.cmds, fun htraces a => ?_⟩
  · rw [hquiet.ctxOf, State.ctxOf_updCtxOf]
    rfl
  · rw [hquiet.ctx, State.ctx_updCtxOf_ne _ _ _ hki]
  · rw [State.trace_of_no_rings]
    · rfl
    · rw [State.forgetReads_traces]
      exact htraces

/-- A trap that can be taken enters the handler (R151, R152). -/
theorem State.takeTrap_enters {s : State} {c : CtxRef} (h : CanTrap s c) (cause : Nat) (arg : Word) :
    EntersHandler s (s.takeTrap c cause arg) c cause arg := by
  obtain ⟨hvq, hhen, hinh⟩ := h
  have htaken : ((s.ctxOf c).inh || !(s.ctxOf c).hen) = false := by rw [hinh, hhen]; rfl
  simp only [State.takeTrap, hvq, htaken, List.isEmpty_nil, Bool.not_true, Bool.false_eq_true, if_false]
  exact State.enterHandler_enters ..

/-- A word of no row is an illegal instruction (R148, R150). -/
theorem State.issue_noRow {s : State} {row : Row} {c : CtxRef} {w : Word32} (f : State → State) (hcore : c.core.toNat < 20)
    (hready : s.ready c = true) (hrow : rowOf w = none) : s.issue row c w f = .next (s.trapIllegal c w) := by
  have hexists : ¬ 20 ≤ c.core.toNat := by omega
  simp [State.issue, hexists, hready, hrow]

/-- An interrupt of a running context with no vector instruction in flight enters the handler (R153). -/
theorem State.takeInterrupt_enters {s : State} {c : CtxRef} (hruns : (s.core c.key).runs = true) (hmode : (s.ctxOf c).mode = .running)
    (htaken : s.irqTaken (s.ctxOf c) = true) (hvq : (s.ctxOf c).vq = []) :
    EntersHandler s (s.takeInterrupt c) c (s.irqCause (s.ctxOf c)).1 (s.irqCause (s.ctxOf c)).2 := by
  have hnow : ((s.core c.key).runs && ((s.ctxOf c).mode == .running || (s.ctxOf c).mode == .pausing) &&
      s.irqTaken (s.ctxOf c) && (s.ctxOf c).vq.isEmpty) = true := by
    rw [hruns, hmode, htaken, hvq]
    rfl
  have hpause : ¬ (s.ctxOf c).mode = .pausing := by rw [hmode]; decide
  simp only [State.takeInterrupt, hnow, hpause, Bool.not_true, Bool.false_eq_true, if_false]
  exact State.enterHandler_enters ..

end Sys2Proof.Machine

namespace Sys2Proof.Claims

open Sys2Proof.Machine

/-- A command whose effect is a trap that can be taken. -/
theorem runs_trap {i : Instr} {s : State} {c : CtxRef} {cause : Nat} {arg : Word} (h : CanTrap s c)
    (hi : exec i s = .next (s.takeTrap c cause arg)) : Runs i s (fun t => EntersHandler s t c cause arg) :=
  ⟨_, hi, State.takeTrap_enters h cause arg⟩

/-- An interrupt that is taken, with the cause that goes first (R153). -/
theorem runs_interrupt {s : State} {c : CtxRef} {cause : Nat} {arg : Word} (hc : c.core.toNat < 20)
    (h : (s.core c.key).runs = true ∧ (s.ctxOf c).mode = .running ∧ (s.ctxOf c).gate = true ∧ (s.ctxOf c).hen = true ∧
      (s.ctxOf c).vq = [])
    (hpend : s.irqPending (s.ctxOf c) = true) (hcause : s.irqCause (s.ctxOf c) = (cause, arg)) :
    Runs (.interruptEntry c) s (fun t => EntersHandler s t c cause arg) := by
  obtain ⟨hruns, hmode, hgate, hhen, hvq⟩ := h
  have htaken : s.irqTaken (s.ctxOf c) = true := by rw [State.irqTaken, hgate, hhen, hpend]; rfl
  have henters := State.takeInterrupt_enters hruns hmode htaken hvq
  rw [hcause] at henters
  exact ⟨_, (exec_interruptEntry c s).trans (onCtx_next _ hc), henters⟩

/-- Settles O12: every trap is `State.takeTrap_enters`, every interrupt `State.takeInterrupt_enters`, and HRET one commit. -/
theorem handlerEntryAndReturn : Obligations.HandlerEntryAndReturn := by
  unfold Obligations.HandlerEntryAndReturn
  refine ⟨fun s c cause arg h => State.takeTrap_enters h cause arg, fun s c w h => ?traps, fun s c w h hinh => ?hret,
    fun s c hc => ?interrupts⟩
  case traps =>
    refine ⟨fun hcore hready hrow => ?noRow, fun hi => ?absent, fun hi htarget => ?misaligned, fun hi => ?hretOutside⟩
    case noRow => exact runs_trap h ((exec_aluRegister c w s).trans (State.issue_noRow (fun u => u.commit c _) hcore hready hrow))
    case absent => exact runs_trap h ((exec_coprocessorAbsent c w s).trans (hi.issue_next _))
    case misaligned =>
      exact runs_trap h ((exec_gor c w s).trans ((hi.issue_next _).trans (congrArg _ (if_pos htarget))))
    case hretOutside =>
      have hinh : (s.ctxOf c).inh = false := h.2.2
      exact runs_trap h ((exec_hret c w s).trans ((hi.issue_next _).trans (congrArg _ (if_neg (ne_true_of_eq_false hinh)))))
  case hret =>
    have hreturns : exec (.hret c w) s = .next (s.commit c (fun x => { x with pc := x.hpc, gate := x.gsave, inh := false })) :=
      (exec_hret c w s).trans ((h.issue_next _).trans (congrArg _ (if_pos hinh)))
    exact ⟨_, hreturns, State.commit_onlyCtx s c _, commit_ctxOf_of rfl⟩
  case interrupts =>
    dsimp only
    refine ⟨fun h hpend hen => ?command, fun h hfirst hpend hen => ?alarm, fun h hfirst hsecond hpend hen => ?poke⟩
    case command => exact runs_interrupt hc h (by simp [State.irqPending, hpend, hen]) (by simp [State.irqCause, hpend, hen])
    case alarm =>
      have hapend : s.apend (s.ctxOf c) = true := hpend
      exact runs_interrupt hc h (by simp [State.irqPending, hapend, hen]) (by simp [State.irqCause, hfirst, hapend, hen])
    case poke =>
      have hapend : (s.apend (s.ctxOf c) && (s.ctxOf c).aen) = false := hsecond
      exact runs_interrupt hc h (by simp [State.irqPending, hpend, hen]) (by simp [State.irqCause, hfirst, hapend])

end Sys2Proof.Claims
end

section
/-! SUPPORT. What the end of operations and commands leaves alone (R141, R327, R340, R341): the registers and flags of a context,
which at most becomes idle, the faults that each core counts (R345), the module's registers and the spare of each die (R346). -/

namespace Sys2Proof.Machine

/-- A context that work of its command has left: its registers and code are the same, and it goes on or is idle. -/
def Ctx.LeftAs (x y : Ctx) : Prop := y.x = x.x ∧ y.f = x.f ∧ y.code = x.code ∧ (y.mode = x.mode ∨ y.mode = .idle)

theorem Ctx.LeftAs.refl (x : Ctx) : x.LeftAs x := ⟨rfl, rfl, rfl, .inl rfl⟩

theorem Ctx.LeftAs.trans {x y z : Ctx} (h : x.LeftAs y) (g : y.LeftAs z) : x.LeftAs z := by
  obtain ⟨hx, hf, hcode, hmode⟩ := h
  obtain ⟨gx, gf, gcode, gmode⟩ := g
  refine ⟨gx.trans hx, gf.trans hf, gcode.trans hcode, ?_⟩
  obtain gmode | gmode := gmode
  · rw [gmode]
    exact hmode
  · exact .inr gmode

/-- What a core has counted of its faults (R345). -/
def Core.counted (k : Core) : Bool × Nat × Bool × Nat := (k.halted, k.faults, k.armed, k.lastKind)

/-- Work has ended between two states. -/
structure Settled (s t : State) : Prop where
  mod : t.mod = s.mod
  spare : ∀ d, (t.die d).spare = (s.die d).spare
  counted : ∀ k, (t.core k).counted = (s.core k).counted
  ctx : ∀ k j, (s.ctx k j).LeftAs (t.ctx k j)

theorem Settled.refl (s : State) : Settled s s := ⟨rfl, fun _ => rfl, fun _ => rfl, fun _ _ => .refl _⟩

theorem Settled.trans {s t u : State} (h : Settled s t) (g : Settled t u) : Settled s u :=
  ⟨g.mod.trans h.mod, fun d => (g.spare d).trans (h.spare d), fun k => (g.counted k).trans (h.counted k),
    fun k j => (h.ctx k j).trans (g.ctx k j)⟩

/-- A change outside registers, dies and cores. -/
theorem Settled.of_fields {s t : State} (hm : t.mod = s.mod) (hd : t.dies = s.dies) (hc : t.cores = s.cores) : Settled s t := by
  have hcore (k : Nat) : t.core k = s.core k := by rw [State.core, hc]; rfl
  refine ⟨hm, fun d => ?_, fun k => ?_, fun k j => ?_⟩
  · rw [State.die, hd]
    rfl
  · rw [hcore]
  · show ((s.core k).ctx j).LeftAs ((t.core k).ctx j)
    rw [hcore]
    exact .refl _

theorem Quiet.settled {s t : State} (h : Quiet s t) : Settled s t :=
  ⟨h.mod, h.spare, fun k => congrArg Core.counted (h.core k), fun k j => (h.ctx k j).symm ▸ .refl _⟩

theorem settled_foldl {α : Type} {f : State → α → State} (hf : ∀ t x, Settled t (f t x)) (l : List α) (s : State) :
    Settled s (l.foldl f s) := by
  induction l generalizing s with
  | nil => exact .refl s
  | cons x l ih => exact (hf s x).trans (ih _)

theorem State.updCore_settled {s : State} {k : Nat} {f : Core → Core} (hcounted : (f (s.core k)).counted = (s.core k).counted)
    (hctx : ∀ j, ((s.core k).ctx j).LeftAs ((f (s.core k)).ctx j)) : Settled s (s.updCore k f) := by
  refine ⟨rfl, fun _ => rfl, fun i => ?_, fun i j => ?_⟩
  · rw [State.core_updCore]
    split
    · next hi => rw [hcounted, hi]
    · rfl
  · show ((s.core i).ctx j).LeftAs (((s.updCore k f).core i).ctx j)
    rw [State.core_updCore]
    split
    · next hi =>
      rw [← hi]
      exact hctx j
    · exact .refl _

theorem State.updCoreTimed_settled {s : State} {k : Nat} {f : Core → Core}
    (hcounted : (f (s.core k)).counted = (s.core k).counted) (hctx : ∀ j, ((s.core k).ctx j).LeftAs ((f (s.core k)).ctx j)) :
    Settled s (s.updCoreTimed k f) := by
  unfold State.updCoreTimed
  exact State.updCore_settled hcounted hctx

theorem Core.updCtx_leftAs {k : Core} {i : Nat} {f : Ctx → Ctx} (hf : (k.ctx i).LeftAs (f (k.ctx i))) (j : Nat) :
    (k.ctx j).LeftAs ((k.updCtx i f).ctx j) := by
  rw [Core.ctx_updCtx]
  split
  · next h =>
    rw [← h]
    exact hf
  · exact .refl _

theorem State.updCtxOf_settled {s : State} {c : CtxRef} {f : Ctx → Ctx} (hf : ∀ x, Ctx.LeftAs x (f x)) :
    Settled s (s.updCtxOf c f) :=
  State.updCore_settled (f := fun k => k.updCtx c.idx f) rfl (Core.updCtx_leftAs (hf _))

theorem State.updDie_settled {s : State} {d : Nat} {f : Die → Die} (hf : (f (s.die d)).spare = (s.die d).spare) :
    Settled s (s.updDie d f) :=
  (State.updDie_quiet hf).settled

theorem State.forgetReads_settled (s : State) (gone : Engine → Bool) : Settled s (s.forgetReads gone) :=
  (s.forgetReads_quiet gone).settled

theorem State.updCmd_settled (s : State) (r : CmdRef) (f : Cmd → Cmd) : Settled s (s.updCmd r f) := .of_fields rfl rfl rfl

theorem State.updGroup_settled (s : State) (g : Nat) (f : Group → Group) : Settled s (s.updGroup g f) := .of_fields rfl rfl rfl

theorem State.withdrawIf_settled (s : State) (p : Option CmdRef → Option Engine → Bool) : Settled s (s.withdrawIf p) :=
  .of_fields rfl rfl rfl

theorem State.trace_settled (s : State) (die fn code : Nat) (core : Option Nat) (ctx queue seq data : Nat) :
    Settled s (s.trace die fn code core ctx queue seq data) :=
  (s.trace_quiet ..).settled

theorem State.sendPlain_settled {s t : State} {sd : Sender} {h : MsgHdr} {bs : List Byte} (ht : s.sendPlain sd h bs = .sent t) :
    Settled s t := by
  unfold State.sendPlain at ht
  split at ht
  · exact nomatch ht
  · cases ht
    exact .of_fields rfl rfl rfl

theorem State.sendMsg_settled {s t : State} {sd : Sender} {h : MsgHdr} {bs : List Byte} (ht : s.sendMsg sd h bs = .sent t) :
    Settled s t := by
  unfold State.sendMsg at ht
  dsimp only at ht
  split at ht
  · exact nomatch ht
  · split at ht
    · next s1 hs =>
      cases ht
      exact (State.sendPlain_settled hs).trans (.of_fields rfl rfl rfl)
    · next hn => exact absurd ht (hn t)

theorem State.sendOwed_settled (s : State) (gi : Nat) : Settled s (s.sendOwed gi) := by
  refine (s.updGroup_settled gi _).trans (settled_foldl (fun t m => ?_) _ _)
  split
  · next h1 => exact State.sendMsg_settled h1
  · exact t.updGroup_settled _ _
  · exact .refl t

theorem State.ligControl_settled (s : State) (o : LigOp) (ltype : Nat) : Settled s (s.ligControl o ltype) :=
  (s.updGroup_settled _ _).trans (State.sendOwed_settled _ _)

/-- The tags of an operation that has ended with a status (R314). -/
def LigOp.mark (o : LigOp) (status : Nat) (t : LigTag) : LigTag :=
  if t.group == o.group && t.opseq == o.opseq && t.status.isNone then { t with status := some status } else t

theorem State.ligClose_settled (s : State) (o : LigOp) (status detail : Nat) : Settled s (s.ligClose o status detail) := by
  unfold State.ligClose
  dsimp only
  have hgone (u : State) (h : Settled s u) (l : List LigOp) (ms : List LigMsg) : Settled s
      (({ u with ligOps := l, ligMsgs := ms : State }.forgetReads (fun e : Engine => e == .ligature o.group o.die)).updDie o.die
        (fun d => d.dropEngine (.ligature o.group o.die))) := by
    refine Settled.trans ?_ (State.updDie_settled rfl)
    refine Settled.trans ?_ (State.forgetReads_settled _ _)
    exact h.trans (.of_fields rfl rfl rfl)
  have hmark (x : Ctx) : x.LeftAs { x with
      ligTags := SMap.mapVals x.ligTags (fun _ t => o.mark status t), kept := x.kept.map (o.mark status) } :=
    ⟨rfl, rfl, rfl, .inl rfl⟩
  split
  · exact Settled.trans (hgone _ (s.trace_settled ..) _ _) (State.updCmd_settled _ _ _)
  · split
    · exact Settled.trans (hgone _ (s.trace_settled ..) _ _) (State.updCtxOf_settled hmark)
    · refine Settled.trans ?_ (State.updCmd_settled _ _ _)
      exact Settled.trans (hgone _ (s.trace_settled ..) _ _) (State.updCtxOf_settled hmark)

theorem State.ligLost_settled (s : State) (o : LigOp) (rank : Nat) : Settled s (s.ligLost o rank) :=
  (s.ligClose_settled _ _ _).trans (State.ligControl_settled _ _ _)

theorem State.ligAborted_settled (s : State) (gi opseq rank : Nat) : Settled s (s.ligAborted gi opseq rank) :=
  (s.updGroup_settled _ _).trans (settled_foldl (fun t o => t.ligLost_settled o rank) _ _)

theorem State.ligEnd_settled (s : State) (o : LigOp) (status detail : Nat) : Settled s (s.ligEnd o status detail) := by
  have hstart : Settled s (if status = 2 ∨ status = 7 then
      s.withdrawIf (fun _ e => e == some (.ligature o.group o.die)) else s) := by
    split
    · exact s.withdrawIf_settled _
    · exact .refl s
  unfold State.ligEnd
  dsimp only
  split
  · exact s.ligClose_settled _ _ _
  · generalize (if status = 2 ∨ status = 7 then _ else s) = s0 at hstart ⊢
    refine hstart.trans ?_
    split
    · exact (State.ligClose_settled ..).trans (State.ligControl_settled ..)
    · exact ((State.ligClose_settled ..).trans (State.ligControl_settled ..)).trans (State.ligAborted_settled ..)

/-- The contexts of a command no longer run it. -/
theorem State.dropJobs_settled (s : State) (l : List CtxRef) :
    Settled s (l.foldl (fun s x => s.updCtxOf x (fun y => { y with job := none })) s) :=
  settled_foldl (fun _ _ => State.updCtxOf_settled (f := fun y => { y with job := none }) fun _ => ⟨rfl, rfl, rfl, .inl rfl⟩) l s

theorem State.launchEnd_settled (s : State) (r : CmdRef) : Settled s (s.launchEnd r) := by
  unfold State.launchEnd
  dsimp only
  split
  · exact .refl s
  · split
    · exact ((settled_foldl (fun t o => t.ligEnd_settled _ _ _) _ s).trans (State.dropJobs_settled _ _)).trans
        (State.updCmd_settled _ _ _)
    · exact .refl s

theorem State.stopCtx_settled (s : State) (c : CtxRef) : Settled s (s.stopCtx c) := by
  have hidle : Settled s (s.updCoreTimed c.key (fun k => k.updCtx c.idx (fun y => { y with mode := .idle }))) :=
    State.updCoreTimed_settled rfl (Core.updCtx_leftAs (f := fun y => { y with mode := .idle }) ⟨rfl, rfl, rfl, .inr rfl⟩)
  unfold State.stopCtx
  exact (hidle.trans (State.forgetReads_settled _ _)).trans (State.updDie_settled rfl)

theorem State.stopXfers_settled (s : State) (r : CmdRef) (l : List CtxRef) : Settled s (s.stopXfers r l) := by
  have htags : Settled s (l.foldl (fun s x => s.updCtxOf x (fun y => { y with feedTags := [] })) s) :=
    settled_foldl (fun _ _ => State.updCtxOf_settled (f := fun y => { y with feedTags := [] })
      fun _ => ⟨rfl, rfl, rfl, .inl rfl⟩) l s
  unfold State.stopXfers State.withdraw
  exact ((htags.trans (State.updDie_settled rfl)).trans (State.forgetReads_settled _ _)).trans (State.withdrawIf_settled _ _)

theorem State.strikeCmd_settled (s : State) (k : Strike) (r : CmdRef) (own : Bool) : Settled s (s.strikeCmd k r own) := by
  unfold State.strikeCmd
  split
  · exact .refl s
  · next m _ =>
    have hstop : Settled s ((m.ctxs.foldl (fun s x => s.stopCtx x) s).stopXfers r m.ctxs) :=
      (settled_foldl (fun t x => t.stopCtx_settled x) _ s).trans (State.stopXfers_settled _ _ _)
    split
    · exact .refl s
    · dsimp only
      split
      · exact hstop.trans (State.updCmd_settled _ _ _)
      · exact ((hstop.trans (settled_foldl (fun t o => t.ligEnd_settled _ _ _) _ _)).trans (State.dropJobs_settled _ _)).trans
          (State.updCmd_settled _ _ _)

theorem State.strikeAll_settled (s : State) (k : Strike) (own : Option CmdRef) (others : List CmdRef) :
    Settled s (s.strikeAll k own others) :=
  settled_foldl (fun t r => t.strikeCmd_settled k r _) _ s

theorem State.faultRecord_settled (s : State) (fn : Nat) (k : Strike) (addr ctx : Nat) (r : Option CmdRef) :
    Settled s (s.faultRecord fn k addr ctx r) :=
  (s.record_quiet _ _).settled

end Sys2Proof.Machine
end

section
/-! SUPPORT. A context that becomes idle (R141), and one that can issue. -/

namespace Sys2Proof.Machine

/-- A change that keeps the cycle count is the change itself to the contexts (R145). -/
theorem State.ctx_updCoreTimed (s : State) (k : Nat) (f : Core → Core) (j : Nat) :
    (s.updCoreTimed k f).ctx k j = (f (s.core k)).ctx j := by
  rw [State.ctx, State.updCoreTimed, State.core_updCore_same]
  rfl

/-- The context is idle with the code, and its registers are the same. -/
theorem State.goIdle_ctxOf (s : State) (c : CtxRef) (code : BitVec 16) (reported : Bool) :
    let y := (s.goIdle c code reported).ctxOf c
    y.mode = .idle ∧ y.code = some code ∧ y.x = (s.ctxOf c).x ∧ y.f = (s.ctxOf c).f := by
  have hidle : (s.updCoreTimed c.key (fun k => k.updCtx c.idx (fun y => { y with mode := .idle, code := some code }))).ctxOf c =
      { s.ctxOf c with mode := .idle, code := some code } := by
    rw [State.ctxOf, State.ctx_updCoreTimed, Core.ctx_updCtx_same]
    rfl
  suffices h : Settled (s.updCoreTimed c.key (fun k => k.updCtx c.idx (fun y => { y with mode := .idle, code := some code })))
      (s.goIdle c code reported) by
    have hleft := h.ctx c.key c.idx
    rw [show State.ctx _ c.key c.idx = _ from hidle] at hleft
    obtain ⟨hx, hf, hcode, hmode⟩ := hleft
    exact ⟨hmode.elim id id, hcode, hx, hf⟩
  unfold State.goIdle
  dsimp only
  split
  · exact (State.forgetReads_settled _ _).trans (State.trace_settled ..)
  · refine Settled.trans ?_ (State.launchEnd_settled _ _)
    refine Settled.trans ?_ (State.updCmd_settled _ _ _)
    exact (State.forgetReads_settled _ _).trans (State.trace_settled ..)

end Sys2Proof.Machine

namespace Sys2Proof.Claims

open Sys2Proof.Machine

/-- A context that can issue is not pausing. -/
theorem Issues.not_pausing {s : State} {row : Row} {c : CtxRef} {w : Word32} (h : Issues s row c w) : (s.ctxOf c).mode ≠ .pausing := by
  obtain ⟨-, hready, -, -⟩ := h
  intro hmode
  simp [State.ready, hmode] at hready

/-- Settles O13: PAUSE is one commit or waits; DONE finds nothing to drain, and `State.goIdle_ctxOf` says what it leaves. -/
theorem pauseAndDoneComplete : Obligations.PauseAndDoneComplete := by
  unfold Obligations.PauseAndDoneComplete
  intro s c w x ends
  refine ⟨fun h hends => ?pause, fun h hends => ?wait, fun hcore hruns hmode hrow hends => ?resume,
    fun h hall hsb hacked => ?done⟩
  case pause =>
    have hexec : exec (.pause c w) s = .next (s.commit c id) :=
      (exec_pause c w s).trans ((if_neg h.not_pausing).trans ((h.issue_next _).trans (congrArg _ (if_pos hends))))
    exact ⟨_, hexec, State.commit_onlyCtx s c _, commit_ctxOf_of rfl⟩
  case wait =>
    have hexec : exec (.pause c w) s = .next (s.updCtxOf c (fun x => { x with mode := .pausing })) :=
      (exec_pause c w s).trans ((if_neg h.not_pausing).trans ((h.issue_next _).trans (congrArg _
        (if_neg (ne_true_of_eq_false hends)))))
    exact ⟨_, hexec, State.updCtxOf_onlyCtx s c _, State.ctxOf_updCtxOf ..⟩
  case resume =>
    have hgo : (rowOf w = some .pause && (s.core c.key).runs && s.pauseEnds (s.ctxOf c)) = true := by
      rw [hrow, hruns, show s.pauseEnds (s.ctxOf c) = true from hends]
      rfl
    have hexec : exec (.pause c w) s = .next (s.commit c (fun x => { x with mode := .running })) :=
      (exec_pause c w s).trans ((if_pos hmode).trans ((if_neg (by omega)).trans (if_pos hgo)))
    exact ⟨_, hexec, State.commit_onlyCtx s c _, commit_ctxOf_of rfl⟩
  case done =>
    obtain ⟨u, ⟨hu, hcores⟩, hdrain⟩ := State.drainCtx_none hsb (s.ctxAgent c)
    have hctx : u.ctxOf c = s.ctxOf c := congrArg (fun k => k.ctx c.idx) (hcores c.key)
    have hsys : u.sysDone c = true := by
      have hcp : (s.ctxOf c).cpDone = true := (Bool.and_eq_true_iff.mp hall).2
      have hack : u.ctxAcked c = true := by rw [hu]; exact hacked
      rw [State.sysDone, hctx, hcp, hack]
      rfl
    have hexec : exec (.done c w) s =
        .next (((u.updCore c.key Core.l1Clear).commit c id).goIdle c (((u.ctxOf c).rx (wRs1 w)).setWidth 16) true) := by
      refine (exec_done c w s).trans ((h.issue_next _).trans (congrArg _ ?_))
      rw [hall, hdrain]
      simp only [State.accEnd, hsys, Bool.not_true, Bool.false_eq_true, if_false]
    have hafter : ((u.updCore c.key Core.l1Clear).commit c id).ctxOf c =
        { s.ctxOf c with pc := (s.ctxOf c).pc + 4, retired := (s.ctxOf c).retired + 1 } := by
      rw [State.commit_ctxOf, State.ctxOf_updCore, ← hctx]
      rfl
    rw [hctx] at hexec
    obtain ⟨hmode, hcode, hx, hf⟩ := State.goIdle_ctxOf ((u.updCore c.key Core.l1Clear).commit c id) c
      ((x.rx (wRs1 w)).setWidth 16) true
    rw [hafter] at hx hf
    exact ⟨_, hexec, hmode, hcode, hx, hf⟩

end Sys2Proof.Claims
end

section
/-! SUPPORT. A context that a LAUNCH starts (R140, R232). -/

namespace Sys2Proof.Machine

/-- What a LAUNCH leaves in x[i]: its parameters in x10 to x13 and the index in x14 (R232). -/
theorem Ctx.launched_x (x : Ctx) (r : CmdRef) (entry index i : Nat) (p : Nat → Nat) :
    SMap.get (x.launched r entry ((List.range 4).map p) index).x i 0 =
      if 14 = i then BitVec.ofNat 64 index else if 13 = i then BitVec.ofNat 64 (p 3) else if 12 = i then BitVec.ofNat 64 (p 2)
      else if 11 = i then BitVec.ofNat 64 (p 1) else if 10 = i then BitVec.ofNat 64 (p 0) else 0 := by
  simp only [Ctx.launched, List.range_succ, List.range_zero, List.nil_append, List.cons_append, List.map_cons, List.map_nil,
    List.zipIdx_cons, List.zipIdx_nil, List.foldl_cons, List.foldl_nil, Nat.reduceAdd, SMap.get_set, SMap.get_nil]

theorem Ctx.launched_rx_param (x : Ctx) (r : CmdRef) (entry index : Nat) (p : Nat → Nat) {i : Nat} (h : i < 4) :
    (x.launched r entry ((List.range 4).map p) index).rx (10 + i) = BitVec.ofNat 64 (p i) := by
  rw [Ctx.rx, if_neg (by omega), Ctx.launched_x]
  interval_cases i <;> rfl

theorem Ctx.launched_rx_index (x : Ctx) (r : CmdRef) (entry index : Nat) (p : Nat → Nat) :
    (x.launched r entry ((List.range 4).map p) index).rx 14 = BitVec.ofNat 64 index := by
  rw [Ctx.rx, if_neg (by decide), Ctx.launched_x, if_pos rfl]

theorem Ctx.launched_rx_other (x : Ctx) (r : CmdRef) (entry index : Nat) (p : Nat → Nat) {i : Nat} (h : i < 10 ∨ 14 < i) :
    (x.launched r entry ((List.range 4).map p) index).rx i = 0 := by
  rw [Ctx.rx, Ctx.launched_x]
  split
  · rfl
  · rw [if_neg (by omega), if_neg (by omega), if_neg (by omega), if_neg (by omega), if_neg (by omega)]

/-- The core that starts a context runs it and is not halted (R140). -/
def Core.launches (c : CtxRef) (y : Ctx) (k : Core) : Core := { k.updCtx c.idx (fun _ => y) with halted := false }

theorem Core.launches_ctx (c : CtxRef) (y : Ctx) (k : Core) (j : Nat) :
    (k.launches c y).ctx j = if c.idx = j then y else k.ctx j := Core.ctx_updCtx k c.idx j (fun _ => y)

/-- A LAUNCH of one context without trace rings changes its core alone. -/
theorem State.runCtxs_single {s : State} {m : Cmd} {c : CtxRef} (r : CmdRef) (hctxs : m.ctxs = [c])
    (htraces : (s.die c.die.toNat).traces = []) :
    s.runCtxs r m = s.updCoreTimed c.key (Core.launches c
      ((s.ctxOf c).launched r (m.arg % 2 ^ 40 * 256) ((List.range 4).map m.param) 0)) := by
  rw [State.runCtxs, hctxs]
  exact State.trace_of_no_rings (s := s.updCoreTimed c.key _) htraces ..

end Sys2Proof.Machine

namespace Sys2Proof.Claims

open Sys2Proof.Machine

/-- Settles O37: the command's only context is started as `Ctx.launched` says, with nothing traced. -/
theorem launchRunsItsContexts : Obligations.LaunchRunsItsContexts := by
  unfold Obligations.LaunchRunsItsContexts
  intro s r m c x hcmd hphase hop hctxs hmode hcode hjob htraces
  have hrunning : s.running r 1 = some m := by simp [State.running, hcmd, Cmd.isStarted, hphase, hop]
  have hready : (!m.ctxs.isEmpty && m.ctxs.all (fun x =>
      let y := s.ctxOf x
      y.mode == .idle && y.code.isNone && y.job == some r)) = true := by
    simp [hctxs, show (s.ctxOf c).mode = .idle from hmode, show (s.ctxOf c).code = none from hcode,
      show (s.ctxOf c).job = some r from hjob]
  have hexec : exec (.launch r) s = .next (s.updCoreTimed c.key (Core.launches c
      (x.launched r (m.arg % 2 ^ 40 * 256) ((List.range 4).map m.param) 0))) := by
    rw [exec_launch, execLaunch, hrunning]
    exact congrArg _ ((if_pos hready).trans (State.runCtxs_single r hctxs htraces))
  refine ⟨_, hexec, ?_⟩
  generalize hy : x.launched r (m.arg % 2 ^ 40 * 256) ((List.range 4).map m.param) 0 = y
  have hctx (j : Nat) : (s.updCoreTimed c.key (Core.launches c y)).ctx c.key j = if c.idx = j then y else s.ctx c.key j := by
    rw [State.ctx_updCoreTimed, Core.launches_ctx]
    rfl
  dsimp only
  rw [State.ctxOf, hctx, if_pos rfl, ← hy]
  refine ⟨rfl, rfl, fun i hi => Ctx.launched_rx_param x r _ _ _ hi, Ctx.launched_rx_index x r _ _ _,
    fun i hi => Ctx.launched_rx_other x r _ _ _ hi, fun i => rfl, rfl, rfl, rfl, rfl, rfl, rfl, rfl, rfl, rfl, rfl, rfl, rfl,
    ?halted, fun j hj => ?others, fun k hk => ?cores, fun a => rfl, rfl⟩
  case halted =>
    rw [State.updCoreTimed, State.core_updCore_same]
    rfl
  case others => rw [hy, hctx, if_neg (fun he => hj he.symm)]
  case cores => exact State.core_updCore_ne _ _ _ _ hk.symm

end Sys2Proof.Claims
end

section
/-! SUPPORT. A fault that a core raises (R330, R337, R345): what is counted against the core, and the commands that it stops. -/

namespace Sys2Proof.Machine

/-- The failure of the module leaves what a core has counted (R348). -/
theorem State.failModule_counted (s : State) (cause dieA dieB portDie key : Nat) :
    ((s.failModule cause dieA dieB portDie).core key).counted = (s.core key).counted := by
  cases hfailed : s.mod.failed with
  | true => rw [State.failModule_of_failed hfailed]
  | false =>
    rw [State.failModule_eq hfailed, State.core, State.recordFailure_cores, ← State.core, State.stopped_core]
    rfl

theorem State.failModule_dieA {s : State} (h : s.mod.failed = false) (cause dieA dieB portDie : Nat) :
    (s.failModule cause dieA dieB portDie).mod.dieA = dieA := by
  rw [State.failModule_eq h]
  simp only [State.recordFailure, State.moduleEvent_mod]
  split <;> rfl

/-- A core that halts for a fault. -/
def State.haltCore (s : State) (key : Nat) : State := s.updCore key (fun k => { k with halted := true })

/-- The fault is counted whatever follows (R345). -/
theorem State.countFault_counted (s : State) (key kind : Nat) :
    (((s.haltCore key).countFault key kind).1.core key).counted = (true, min ((s.core key).faults + 1) 255, true, kind) := by
  have hcount : (((s.haltCore key).updCore key (fun k =>
      { k with faults := satAdd 8 k.faults 1, armed := true, lastKind := kind })).core key).counted =
      (true, min ((s.core key).faults + 1) 255, true, kind) := by
    rw [State.core_updCore_same, State.haltCore, State.core_updCore_same]
    rfl
  unfold State.countFault
  dsimp only
  split
  · exact hcount
  · split
    · exact hcount
    · rw [State.failModule_counted]
      exact hcount

/-- The second fault within the window maps the core out while the die's spare is free (R345, R346). -/
theorem State.countFault_mapOut {s : State} {key : Nat} (harmed : (s.core key).armed = true)
    (hspare : (s.die (key / 20)).spareUsed = false ∧ (s.die (key / 20)).mapping = false) (kind : Nat) :
    (((s.haltCore key).countFault key kind).1.die (key / 20)).spare = (false, true, key % 20) := by
  obtain ⟨hused, hmapping⟩ := hspare
  have harmed : ((s.haltCore key).core key).armed = true := by rw [State.haltCore, State.core_updCore_same]; exact harmed
  have hfree : (!((s.haltCore key).die (key / 20)).spareUsed && !((s.haltCore key).die (key / 20)).mapping) = true := by
    show (!(s.die (key / 20)).spareUsed && !(s.die (key / 20)).mapping) = true
    rw [hused, hmapping]
    rfl
  simp only [State.countFault, harmed, hfree, Bool.not_true, Bool.false_eq_true, if_false, if_true, State.die_updDie_same]
  show ((s.die (key / 20)).spareUsed, true, key % 20) = _
  rw [hused]

/-- Without a spare the second fault fails the module (R345, R347). -/
theorem State.countFault_fails {s : State} {key : Nat} (harmed : (s.core key).armed = true)
    (hspare : ¬ ((s.die (key / 20)).spareUsed = false ∧ (s.die (key / 20)).mapping = false)) (hfailed : s.mod.failed = false)
    (kind : Nat) :
    let m := ((s.haltCore key).countFault key kind).1.mod
    m.failed = true ∧ m.fcause = 1 ∧ m.dieA = key / 20 := by
  have harmed : ((s.haltCore key).core key).armed = true := by rw [State.haltCore, State.core_updCore_same]; exact harmed
  have htaken : ¬ (!((s.haltCore key).die (key / 20)).spareUsed && !((s.haltCore key).die (key / 20)).mapping) = true := by
    show ¬ (!(s.die (key / 20)).spareUsed && !(s.die (key / 20)).mapping) = true
    simpa using hspare
  simp only [State.countFault, harmed, htaken, Bool.not_true, Bool.false_eq_true, if_false]
  have hbefore : ((s.haltCore key).updCore key (fun k =>
      { k with faults := satAdd 8 k.faults 1, armed := true, lastKind := kind })).mod.failed = false := hfailed
  obtain ⟨hdown, hcause, -, -⟩ := State.failModule_down hbefore 1 (key / 20) 0 0
  exact ⟨hdown, hcause, State.failModule_dieA hbefore 1 (key / 20) 0 0⟩

/-- After the count a fault only records and ends work (R333, R337). -/
theorem State.coreFault_settled (s : State) {kind : Nat} (hkind : kind ≠ 3) (key j addr handle row : Nat) :
    Settled ((s.haltCore key).countFault key kind).1 (s.coreFault key j kind addr handle row) := by
  unfold State.coreFault
  dsimp only
  rw [if_neg hkind]
  exact Settled.trans (State.faultRecord_settled _ _ _ _ _ _) (State.strikeAll_settled _ _ _ _)

/-- What the first fault of a core strikes with: no map-out. -/
def firstStrike (key kind handle row : Nat) : Strike :=
  { kind := kind, die := key / 20, core := key % 20, mapOut := false, handle := handle, row := row }

/-- The first fault of a core, counted and recorded, before its commands are struck (R333, R345). -/
def State.firstFault (s : State) (key j addr : Nat) (k : Strike) : State :=
  ((s.haltCore key).updCore key (fun c => { c with faults := satAdd 8 c.faults 1, armed := true, lastKind := k.kind })).faultRecord
    (s.tenantOf key) k addr j (s.ctx key j).job

/-- The first fault of a core is recorded, and the core's commands are struck (R337, R345). -/
theorem State.coreFault_first {s : State} {key kind : Nat} (hkind : kind ≠ 3) (harmed : (s.core key).armed = false)
    (j addr handle row : Nat) :
    s.coreFault key j kind addr handle row =
      (s.firstFault key j addr (firstStrike key kind handle row)).strikeAll (firstStrike key kind handle row) (s.ctx key j).job
        (s.core key).jobs := by
  have harmed : ((s.haltCore key).core key).armed = false := by rw [State.haltCore, State.core_updCore_same]; exact harmed
  have hcount : (s.haltCore key).countFault key kind = ((s.haltCore key).updCore key (fun k =>
      { k with faults := satAdd 8 k.faults 1, armed := true, lastKind := kind }), false) := by
    simp only [State.countFault, harmed, Bool.not_false, if_true]
  unfold State.coreFault
  dsimp only
  rw [if_neg hkind, show s.updCore key (fun c => { c with halted := true }) = s.haltCore key from rfl, hcount]
  rfl

/-- The record changes only the host's memory, the host's messages and the functions. -/
theorem State.firstFault_mem (s : State) (key j addr : Nat) (k : Strike) : (s.firstFault key j addr k).mem = s.mem :=
  (congrArg State.mem (State.record_sansHost _ _ _) :)

theorem State.firstFault_cmds (s : State) (key j addr : Nat) (k : Strike) : (s.firstFault key j addr k).cmds = s.cmds :=
  (State.record_quiet _ _ _).cmds

theorem State.firstFault_core_ne (s : State) {key i : Nat} (h : key ≠ i) (j addr : Nat) (k : Strike) :
    (s.firstFault key j addr k).core i = s.core i := by
  refine (State.faultRecord_core ..).trans ?_
  rw [State.core_updCore_ne _ _ _ _ h, State.haltCore, State.core_updCore_ne _ _ _ _ h]

/-- Every context that is stopped is idle (R245). -/
theorem State.stopCtxs_idle (l : List CtxRef) {y : CtxRef} (hy : y ∈ l) (s : State) :
    ((l.foldl (fun s x => s.stopCtx x) s).ctxOf y).mode = .idle := by
  induction l generalizing s with
  | nil => exact nomatch hy
  | cons x l ih =>
    obtain rfl | hy := List.mem_cons.mp hy
    · have hidle : ((s.stopCtx y).ctxOf y).mode = .idle := by
        show ((s.updCoreTimed y.key (fun k => k.updCtx y.idx (fun x => { x with mode := .idle }))).ctx y.key y.idx).mode = .idle
        rw [State.ctx_updCoreTimed, Core.ctx_updCtx_same]
      obtain ⟨-, -, -, hmode⟩ := (settled_foldl (fun t x => t.stopCtx_settled x) l (s.stopCtx y)).ctx y.key y.idx
      exact hmode.elim (fun h => h.trans hidle) id
    · exact ih hy _

theorem foldl_cmds {α : Type} {f : State → α → State} (hf : ∀ t x, (f t x).cmds = t.cmds) (l : List α) (s : State) :
    (l.foldl f s).cmds = s.cmds := by
  induction l generalizing s with
  | nil => rfl
  | cons x l ih => exact (ih _).trans (hf s x)

/-- A struck command that can be replayed enters its replay, and its contexts are idle (R337, R340). -/
theorem State.strikeCmd_replay {s : State} {k : Strike} {r : CmdRef} {m : Cmd} {own : Bool} (hcmd : s.cmd r = some m)
    (hphase : m.phase = .started) (hkind : k.kind ≠ 2) (hreplay : m.noReplay k own = none) :
    (s.strikeCmd k r own).cmd r = some { m with phase := .replay k.mapOut, kind := k.kind, fcore := k.raiser, fdie := k.die } ∧
    ∀ y ∈ m.ctxs, ((s.strikeCmd k r own).ctxOf y).mode = .idle := by
  have hopen : m.isComplete = false := by rw [Cmd.isComplete, hphase]; rfl
  unfold State.strikeCmd
  rw [hcmd]
  simp only [hopen, hreplay, hphase, Bool.false_eq_true, if_false]
  have hcmds : ((m.ctxs.foldl (fun s x => s.stopCtx x) s).stopXfers r m.ctxs).cmds = s.cmds := by
    have hstop : (m.ctxs.foldl (fun s x => s.stopCtx x) s).cmds = s.cmds := foldl_cmds (f := fun s x => s.stopCtx x) (fun _ _ => rfl) _ s
    exact (foldl_cmds (f := fun s x => s.updCtxOf x (fun y => { y with feedTags := [] })) (fun _ _ => rfl) m.ctxs _).trans hstop
  constructor
  · have hstill : ((m.ctxs.foldl (fun s x => s.stopCtx x) s).stopXfers r m.ctxs).cmd r = some m := by
      rw [State.cmd, hcmds]
      exact hcmd
    rw [State.cmd_updCmd_same]
    · simp [hstill, hkind]
    · exact fun _ => rfl
  · intro y hy
    obtain ⟨-, -, -, hmode⟩ := (State.stopXfers_settled (m.ctxs.foldl (fun s x => s.stopCtx x) s) r m.ctxs).ctx y.key y.idx
    exact hmode.elim (fun h => h.trans (State.stopCtxs_idle _ hy s)) id

/-- The number of a core gives its die and its place there (R271). -/
theorem CtxRef.key_div {c : CtxRef} (h : c.core.toNat < 20) : c.key / 20 = c.die.toNat := by rw [CtxRef.key]; omega

theorem CtxRef.key_mod {c : CtxRef} (h : c.core.toNat < 20) : c.key % 20 = c.core.toNat := by rw [CtxRef.key]; omega

end Sys2Proof.Machine

namespace Sys2Proof.Claims

open Sys2Proof.Machine

/-- Settles O18: after the count of the fault (`State.countFault_counted`) only work ends (`State.coreFault_settled`); the first
fault stops the core's own command (`State.strikeCmd_replay`), the second maps the core out or fails the module. -/
theorem alarmAndWatchdogComplete : Obligations.AlarmAndWatchdogComplete := by
  unfold Obligations.AlarmAndWatchdogComplete
  intro s c hcore x k d spare counted
  have hdiv := CtxRef.key_div hcore
  have hmod := CtxRef.key_mod hcore
  have halarm : exec (.alarmExpire c) s = .next _ := (exec_alarmExpire c s).trans (onCtx_next _ hcore)
  have hexec : exec (.contextWatchdog c) s = .next _ := (exec_contextWatchdog c s).trans (onCtx_next _ hcore)
  refine ⟨⟨_, halarm, rfl⟩, fun hquiet => ⟨_, hexec, if_neg ?quiet⟩, fun hrun hgo => ?fires⟩
  case quiet =>
    intro hruns
    obtain ⟨hmode, hhalted⟩ := Bool.and_eq_true_iff.mp hruns
    obtain hstop | hstop := hquiet
    · exact hstop (beq_iff_eq.mp hmode)
    · rw [hstop] at hhalted
      exact nomatch hhalted
  case fires =>
    have hruns : s.watchdogRuns c = true := by
      rw [State.watchdogRuns, show (s.ctxOf c).mode = .running from hrun, show (s.core c.key).halted = false from hgo]
      rfl
    rw [if_pos hruns] at hexec
    have hsettled := State.coreFault_settled s (show 5 ≠ 3 by decide) c.key c.idx x.pc.toNat 0 0
    refine ⟨⟨_, hexec, ?counted⟩, fun harmed hjobs => ⟨_, hexec, ?alone⟩,
      fun r m harmed hjobs hjob hcmd hphase hop heligible hlost hattempts => ⟨_, hexec, ?replay⟩,
      fun harmed hspare => ⟨_, hexec, ?mapOut⟩, fun harmed hspare hfailed => ⟨_, hexec, ?fails⟩⟩
    case counted =>
      have hcounted := (hsettled.counted c.key).trans (State.countFault_counted s c.key 5)
      simpa only [Core.counted, Prod.mk.injEq] using hcounted
    case alone =>
      have hown : (s.ctx c.key c.idx).job = none := Core.ctx_job_of_no_jobs hjobs c.idx
      have honly := State.coreFault_first (show 5 ≠ 3 by decide) harmed c.idx x.pc.toNat 0 0
      rw [hown, show (s.core c.key).jobs = [] from hjobs] at honly
      refine ⟨fun a => ?_, ?_, State.coreFault_idle (by decide) harmed hjobs .., fun i hi => ?_⟩ <;> rw [honly]
      · exact congrArg (fun m => Memory.read m a) (State.firstFault_mem ..)
      · exact State.firstFault_cmds ..
      · exact State.firstFault_core_ne s hi.symm ..
    case replay =>
      have hstrike := State.coreFault_first (show 5 ≠ 3 by decide) harmed c.idx x.pc.toNat 0 0
      rw [show (s.ctx c.key c.idx).job = some r from hjob, show (s.core c.key).jobs = [r] from hjobs] at hstrike
      have hstill : (s.firstFault c.key c.idx x.pc.toNat (firstStrike c.key 5 0 0)).cmd r = some m := by
        rw [State.cmd, State.firstFault_cmds]
        exact hcmd
      have hnoReplay : m.noReplay (firstStrike c.key 5 0 0) true = none := by
        simp [Cmd.noReplay, firstStrike, hop, heligible, hlost, hattempts]
      have hreplay := State.strikeCmd_replay hstill hphase (show 5 ≠ 2 by decide) hnoReplay
      have hthis : (State.coreFault s c.key c.idx 5 x.pc.toNat 0 0) =
          (s.firstFault c.key c.idx x.pc.toNat (firstStrike c.key 5 0 0)).strikeCmd (firstStrike c.key 5 0 0) r true := by
        rw [hstrike]
        simp [State.strikeAll, List.eraseDups_cons]
      rw [hthis, ← hdiv, ← hmod]
      exact hreplay
    case mapOut =>
      rw [← hdiv, ← hmod]
      have hspare := (hsettled.spare (c.key / 20)).trans (State.countFault_mapOut harmed (hdiv ▸ hspare) 5)
      simp only [Die.spare, Prod.mk.injEq] at hspare
      exact ⟨hspare.2.1, hspare.2.2⟩
    case fails =>
      have hfails := State.countFault_fails harmed (hdiv ▸ hspare) hfailed 5
      rw [← hsettled.mod, hdiv] at hfails
      exact hfails

end Sys2Proof.Claims
end

section
/-! SUPPORT. What a masked write of a status register leaves in its bits (R10, R144, R145). -/

namespace Sys2Proof.Machine

/-- The value of a register after a masked write, by its RW and W1C bits (R10, R144). -/
def srWritten (old v m rw wc : Word) : Word := ((old &&& ~~~(m &&& rw)) ||| (v &&& m &&& rw)) &&& ~~~(v &&& m &&& wc)

theorem srWritten_bit {i : Nat} (h : i < 64) (old v m rw wc : Word) :
    (srWritten old v m rw wc).getLsbD i =
      ((if rw.getLsbD i then maskedBit (old.getLsbD i) v m i else old.getLsbD i) && !(v.getLsbD i && m.getLsbD i && wc.getLsbD i)) := by
  simp only [srWritten, maskedBit, BitVec.getLsbD_and, BitVec.getLsbD_or, BitVec.getLsbD_not, h, decide_true, Bool.true_and]
  cases old.getLsbD i <;> cases m.getLsbD i <;> cases rw.getLsbD i <;> simp

/-- Without W1C bits. -/
theorem srWritten_rw_bit {i : Nat} (h : i < 64) (old v m rw : Word) :
    (srWritten old v m rw 0).getLsbD i = if rw.getLsbD i then maskedBit (old.getLsbD i) v m i else old.getLsbD i := by
  rw [srWritten_bit h, show (0 : Word).getLsbD i = false from BitVec.getLsbD_zero, Bool.and_false, Bool.not_false, Bool.and_true]

theorem masked_bit {i : Nat} (h : i < 64) (old v m : Word) : (masked old v m).getLsbD i = maskedBit (old.getLsbD i) v m i := by
  simp only [masked, maskedBit, BitVec.getLsbD_and, BitVec.getLsbD_or, BitVec.getLsbD_not, h, decide_true, Bool.true_and]
  cases old.getLsbD i <;> cases m.getLsbD i <;> simp

/-- A register whose bits are all RW. -/
theorem masked_eq_written (old v m : Word) : masked old v m = srWritten old v m (BitVec.allOnes 64) 0 := by
  refine BitVec.eq_of_getLsbD_eq fun i hi => ?_
  rw [masked_bit hi, srWritten_rw_bit hi, BitVec.getLsbD_allOnes, decide_eq_true hi, if_pos rfl]

/-- A bit of a number of two fields. -/
theorem testBit_fields {b k : Nat} (hb : b < 2 ^ k) (a i : Nat) :
    (a * 2 ^ k + b).testBit i = if i < k then b.testBit i else a.testBit (i - k) := by
  rw [Nat.mul_comm]
  exact Nat.testBit_two_pow_mul_add a hb i

/-- The bits of a mask of k ones from bit l on. -/
theorem onesFrom_bit {i : Nat} (h : i < 64) (k l : Nat) :
    (BitVec.ofNat 64 ((2 ^ k - 1) * 2 ^ l + 0)).getLsbD i = decide (l ≤ i ∧ i < l + k) := by
  rw [BitVec.getLsbD_ofNat, testBit_fields (Nat.two_pow_pos l), decide_eq_true h, Bool.true_and]
  split
  · next hl => simp [show ¬ l ≤ i by omega]
  · next hl =>
    rw [Nat.testBit_two_pow_sub_one]
    exact decide_eq_decide.mpr (by omega)

/-- A register of k RW bits. -/
theorem masked_setWidth_eq_written {k : Nat} (f : BitVec k) (v m : Word) :
    ((masked (f.setWidth 64) v m).setWidth k).setWidth 64 =
      srWritten (f.setWidth 64) v m (BitVec.ofNat 64 ((2 ^ k - 1) * 2 ^ 0 + 0)) 0 := by
  refine BitVec.eq_of_getLsbD_eq fun i hi => ?_
  rw [srWritten_rw_bit hi, onesFrom_bit hi]
  simp only [BitVec.getLsbD_setWidth, hi, decide_true, Bool.true_and, masked_bit hi, Nat.zero_le, true_and, Nat.zero_add,
    decide_eq_true_eq]
  by_cases hk : i < k
  · simp only [hk, decide_true, Bool.true_and, if_true]
  · rw [if_neg hk, decide_eq_false hk, Bool.false_and, BitVec.getLsbD_of_ge f i (by omega)]

/-- A register of two fields. -/
theorem fields_bit {i : Nat} (h : i < 64) {k l : Nat} (a : BitVec l) (b : BitVec k) :
    (BitVec.ofNat 64 (a.toNat * 2 ^ k + b.toNat)).getLsbD i = if i < k then b.getLsbD i else a.getLsbD (i - k) := by
  rw [BitVec.getLsbD_ofNat, testBit_fields b.isLt, decide_eq_true h, Bool.true_and]
  rfl

/-- A register of two RW fields of k and l bits. -/
theorem fields_written {k l : Nat} (a : BitVec l) (b : BitVec k) (v m : Word) :
    let r := masked (BitVec.ofNat 64 (a.toNat * 2 ^ k + b.toNat)) v m
    BitVec.ofNat 64 ((r.extractLsb' k l).toNat * 2 ^ k + (r.extractLsb' 0 k).toNat) =
      srWritten (BitVec.ofNat 64 (a.toNat * 2 ^ k + b.toNat)) v m (BitVec.ofNat 64 ((2 ^ (k + l) - 1) * 2 ^ 0 + 0)) 0 := by
  refine BitVec.eq_of_getLsbD_eq fun i hi => ?_
  rw [fields_bit hi, srWritten_rw_bit hi, onesFrom_bit hi, BitVec.getLsbD_extractLsb', BitVec.getLsbD_extractLsb', fields_bit hi,
    Nat.zero_add, masked_bit hi, fields_bit hi]
  by_cases hlow : i < k
  · simp only [hlow, show i < k + l by omega, Nat.zero_le, true_and, Nat.zero_add, decide_true, Bool.true_and, if_true]
  · rw [show k + (i - k) = i by omega, masked_bit hi, fields_bit hi]
    by_cases hhigh : i < k + l
    · simp only [hlow, hhigh, show i - k < l by omega, Nat.zero_le, true_and, Nat.zero_add, decide_true, Bool.true_and,
        if_true, if_false]
    · simp only [hlow, hhigh, show ¬ i - k < l by omega, and_false, Nat.zero_add, decide_false, Bool.false_and, if_false,
        Bool.false_eq_true, BitVec.getLsbD_of_ge a (i - k) (by omega)]

/-- ISA_HBASE: the RW bits lie above 8 bits that are 0 (R145). -/
theorem base_written {l : Nat} (a : BitVec l) (v m : Word) :
    BitVec.ofNat 64 (((masked (BitVec.ofNat 64 (a.toNat * 2 ^ 8 + (0#8).toNat)) v m).extractLsb' 8 l).toNat * 2 ^ 8 + (0#8).toNat) =
      srWritten (BitVec.ofNat 64 (a.toNat * 2 ^ 8 + (0#8).toNat)) v m (BitVec.ofNat 64 ((2 ^ l - 1) * 2 ^ 8 + 0)) 0 := by
  refine BitVec.eq_of_getLsbD_eq fun i hi => ?_
  rw [fields_bit hi, srWritten_rw_bit hi, onesFrom_bit hi, BitVec.getLsbD_extractLsb', fields_bit hi]
  by_cases hlow : i < 8
  · simp only [hlow, show ¬ 8 ≤ i by omega, false_and, decide_false, Bool.false_eq_true, if_true, if_false]
  · rw [show 8 + (i - 8) = i by omega, masked_bit hi, fields_bit hi]
    by_cases hhigh : i < 8 + l
    · simp only [hlow, hhigh, show 8 ≤ i by omega, show i - 8 < l by omega, true_and, decide_true, Bool.true_and, if_true, if_false]
    · simp only [hlow, hhigh, show ¬ i - 8 < l by omega, and_false, decide_false, Bool.false_and, if_false, Bool.false_eq_true,
        BitVec.getLsbD_of_ge a (i - 8) (by omega)]

/-- The bits of a number that is packed of bits. -/
theorem testBit_packBits (l : List Bool) (i : Nat) : (packNat 1 (l.map b2n)).testBit i = l.getD i false := by
  have hfield := packNat_field 1 (l.map b2n) i
  rw [Nat.one_mul, Nat.shiftRight_eq_div_pow, Nat.pow_one] at hfield
  rw [Nat.testBit_eq_decide_div_mod_eq, hfield, List.getD_eq_getElem?_getD, List.getD_eq_getElem?_getD, List.getElem?_map]
  cases l[i]? with
  | none => rfl
  | some b => cases b <;> rfl

/-- The bits of ISA_EVT (R150). -/
def State.evtBits (s : State) (x : Ctx) : List Bool :=
  [x.gate, x.gsave, x.inh, x.pen, x.aen, x.cen, false, x.hen, x.ppend, s.apend x, x.cpend]

theorem State.evt_bit (s : State) (x : Ctx) {i : Nat} (h : i < 64) :
    (BitVec.ofNat 64 (s.evt x)).getLsbD i = (s.evtBits x).getD i false := by
  have hmod (b : Bool) : b2n b % 2 = b2n b := by cases b <;> rfl
  have hpacked : s.evt x = packNat 1 ((s.evtBits x).map b2n) := by
    simp only [State.evtBits, List.map_cons, List.map_nil, packNat, List.foldr_cons, List.foldr_nil, Nat.pow_one, hmod, State.evt]
    rw [show b2n false = 0 from rfl]
    omega
  rw [BitVec.getLsbD_ofNat, decide_eq_true h, Bool.true_and, hpacked, testBit_packBits]

/-- ISA_EVT: HEN, CEN, AEN, PEN, GSAVE and GATE are RW, CPEND and PPEND W1C (R150). -/
theorem evt_written {s t : State} {x : Ctx} (htime : t.mod = s.mod) (v m : Word) :
    BitVec.ofNat 64 (t.evt (x.srWrite 0x024 v m)) = srWritten (BitVec.ofNat 64 (s.evt x)) v m 0xBB 0x500 := by
  refine BitVec.eq_of_getLsbD_eq fun i hi => ?_
  rw [State.evt_bit t _ hi, srWritten_bit hi, State.evt_bit s _ hi]
  have happend : t.apend (x.srWrite 0x024 v m) = s.apend x := by rw [State.apend, htime]; rfl
  have hw1c (b : Bool) (i : Nat) : w1c b v m i = (b && !(v.getLsbD i && m.getLsbD i)) := by rw [w1c, Bool.and_comm (m.getLsbD i)]
  by_cases hlow : i < 11
  · rw [State.evtBits, State.evtBits, happend]
    interval_cases i <;> simp [Ctx.srWrite, hw1c, -BitVec.getLsbD_eq_getElem]
  · have hout (l : List Bool) (hl : l.length = 11) : l.getD i false = false := List.getD_eq_default _ _ (by omega)
    have hrw : (0xBB : Word).getLsbD i = false :=
      Nat.testBit_lt_two_pow (lt_of_lt_of_le (show 0xBB < 2 ^ 11 by decide) (Nat.pow_le_pow_right (by decide) (by omega)))
    rw [hout _ rfl, hout _ rfl, hrw]
    rfl

end Sys2Proof.Machine
end

section
/-! SUPPORT. A write of a status register that completes (R144). -/

namespace Sys2Proof.Machine

/-- A masked write of a status register changes neither the pc nor ISA_RETIRED. -/
theorem Ctx.srWrite_counts (x : Ctx) (n : Nat) (v m : Word) :
    (x.srWrite n v m).pc = x.pc ∧ (x.srWrite n v m).retired = x.retired := by
  unfold Ctx.srWrite
  split
  case h_8 => split <;> exact ⟨rfl, rfl⟩
  all_goals exact ⟨rfl, rfl⟩

/-- But for ISA_POKE and MXU_CWIN the registers that a program writes are the context's own (R145, R146). -/
theorem Core.srWrite_ctx {n : Nat} (hpoke : n ≠ 0x025) (hcwin : n ≠ 0x110) (k : Core) (j : Nat) (v m : Word) :
    k.srWrite j n v m = k.updCtx j (fun x => x.srWrite n v m) := by
  unfold Core.srWrite
  split
  · exact absurd rfl hpoke
  · exact absurd rfl hcwin
  · rfl

/-- ISA_POKE sets PPEND of the contexts that it names (R145). -/
theorem Core.poke_ppend (k : Core) (bits : Nat) {j : Nat} (h : j < 4) :
    ((k.poke bits).ctx j).ppend = ((k.ctx j).ppend || bits.testBit j) := by
  suffices hfold : ∀ (l : List Nat) (k : Core), ((l.foldl (fun k i =>
      if bits.testBit i then k.updCtx i (fun x => { x with ppend := true }) else k) k).ctx j).ppend =
      ((k.ctx j).ppend || (decide (j ∈ l) && bits.testBit j)) by
    rw [Core.poke, hfold, decide_eq_true (List.mem_range.mpr h), Bool.true_and]
  intro l
  induction l with
  | nil => simp
  | cons i l ih =>
    intro k
    rw [List.foldl_cons, ih]
    by_cases hij : i = j
    · subst hij
      cases hbit : bits.testBit i <;> simp
    · split
      · simp [Ne.symm hij, hij]
      · simp [Ne.symm hij]

/-- A status register write that completes: the masked write, then the commit. -/
def State.srDone (s : State) (c : CtxRef) (n : Nat) (v m : Word) : State :=
  (s.updCore c.key (fun k => k.srWrite c.idx n v m)).commit c id

/-- A commit without effect leaves PPEND of every context. -/
theorem State.commit_id_ppend (s : State) (c : CtxRef) (j : Nat) :
    ((s.commit c id).ctx c.key j).ppend = (s.ctx c.key j).ppend := by
  by_cases hj : j = c.idx
  · rw [hj]
    exact (congrArg Ctx.ppend (State.commit_ctxOf s c id) :)
  · rw [State.commit_ctx_ne s c id j hj]

end Sys2Proof.Machine

namespace Sys2Proof.Claims

open Sys2Proof.Machine

section
variable {n : Nat} (hpoke : n ≠ 0x025) (hcwin : n ≠ 0x110) (s : State) (c : CtxRef) (v m : Word)
include hpoke hcwin

/-- A write of a context's own register changes that context alone. -/
theorem srDone_onlyCtx : OnlyCtx s (s.srDone c n v m) c := by
  have hown : s.updCore c.key (fun k => k.srWrite c.idx n v m) = s.updCtxOf c (fun x => x.srWrite n v m) := by
    simp only [Core.srWrite_ctx hpoke hcwin]
    rfl
  rw [State.srDone, hown]
  exact onlyCtx_trans (s.updCtxOf_onlyCtx c _) (State.commit_onlyCtx _ c id)

theorem srDone_ctxOf : (s.srDone c n v m).ctxOf c =
    { (s.ctxOf c).srWrite n v m with pc := (s.ctxOf c).pc + 4, retired := (s.ctxOf c).retired + 1 } := by
  obtain ⟨hpc, hretired⟩ := Ctx.srWrite_counts (s.ctxOf c) n v m
  rw [State.srDone, State.commit_ctxOf, State.ctxOf_updCore, Core.srWrite_ctx hpoke hcwin, Core.ctx_updCtx_same]
  show ({ (s.ctxOf c).srWrite n v m with
    pc := ((s.ctxOf c).srWrite n v m).pc + 4, retired := ((s.ctxOf c).srWrite n v m).retired + 1 } : Ctx) = _
  rw [hpc, hretired]

end

/-- `base_written` for the 40 bits of ISA_HBASE. -/
theorem hbase_written (b : BitVec 40) (v m : Word) :
    BitVec.ofNat 64 (((masked (BitVec.ofNat 64 (b.toNat * 256)) v m).extractLsb' 8 40).toNat * 256) =
      srWritten (BitVec.ofNat 64 (b.toNat * 256)) v m 0x0000FFFFFFFFFF00 0 := by
  have hmul (a : BitVec 40) : a.toNat * 256 = a.toNat * 2 ^ 8 + (0#8).toNat := by simp
  rw [hmul, hmul]
  exact base_written b v m

theorem srWritable_own : ∀ p ∈ srWritable, p.1 ≠ 0x025 ∧ p.1 ≠ 0x110 := by decide

theorem srReadOnly_own : ∀ n ∈ srReadOnly, n ≠ 0x025 ∧ n ≠ 0x110 := by decide

/-- Each register that reads back holds the written bits (R10, R144, R145). -/
theorem srDone_reads (s : State) (c : CtxRef) (v m : Word) {p : Nat × Word × Word} (hp : p ∈ srWritable) :
    (s.srDone c p.1 v m).srRead c p.1 = srWritten (s.srRead c p.1) v m p.2.1 p.2.2 := by
  obtain ⟨hpoke, hcwin⟩ := srWritable_own p hp
  have hctx := srDone_ctxOf hpoke hcwin s c v m
  unfold State.srRead
  rw [hctx]
  clear hctx hpoke hcwin
  simp only [srWritable, List.mem_cons, List.not_mem_nil, or_false] at hp
  rcases hp with rfl | rfl | rfl | rfl | rfl | rfl | rfl | rfl | rfl | rfl
  · exact masked_eq_written _ v m
  · exact masked_setWidth_eq_written _ v m
  · exact hbase_written _ v m
  · exact masked_eq_written _ v m
  · exact evt_written rfl v m
  · exact masked_eq_written _ v m
  · exact masked_setWidth_eq_written _ v m
  · exact masked_setWidth_eq_written _ v m
  · exact masked_setWidth_eq_written _ v m
  · exact fields_written _ _ v m

/-- A register that a program cannot change keeps every register of the context (R10). -/
theorem srWrite_readOnly {n : Nat} (hn : n ∈ srReadOnly) (x : Ctx) (v m : Word) : x.srWrite n v m = x := by
  simp only [srReadOnly, List.mem_cons, List.not_mem_nil, or_false] at hn
  rcases hn with rfl | rfl | rfl | rfl | rfl | rfl | rfl | rfl | rfl | rfl | rfl <;> rfl

/-- The low bits of a masked value come from the low bits of the old one. -/
theorem masked_setWidth_congr {a b : Word} {k : Nat} (h : a.setWidth k = b.setWidth k) (v m : Word) :
    (masked a v m).setWidth k = (masked b v m).setWidth k := by
  simp only [masked, BitVec.setWidth_or, BitVec.setWidth_and, h]

/-- VEC_SRSTATE takes the masked value, and 1 for 0 (R47). -/
theorem srDone_seeds (s : State) (c : CtxRef) (v : Word) {m : Word} (hm : fld m 0 32 ≠ 0) :
    let gen := (masked (s.srRead c 0x101) v m).setWidth 32
    ((s.srDone c 0x101 v m).srRead c 0x101).setWidth 32 = if gen = 0 then 1 else gen := by
  have hlow (b : Nat) (g : BitVec 32) : (BitVec.ofNat 64 (b * 2 ^ 32 + g.toNat)).setWidth 32 = g := by
    refine BitVec.eq_of_toNat_eq ?_
    simpa using g.isLt
  have hgen : (masked (s.srRead c 0x101) v m).setWidth 32 = (masked ((s.ctxOf c).gen.value.setWidth 64) v m).setWidth 32 := by
    refine masked_setWidth_congr ?_ v m
    rw [BitVec.setWidth_setWidth_of_le _ (by decide), BitVec.setWidth_eq]
    exact hlow ..
  have hctx := srDone_ctxOf (show 0x101 ≠ 0x025 by decide) (show 0x101 ≠ 0x110 by decide) s c v m
  have hwritten : (s.ctxOf c).srWrite 0x101 v m = _ := if_neg hm
  dsimp only
  rw [hgen]
  unfold State.srRead
  rw [hctx, hwritten]
  exact hlow ..

/-- A completed write of a status register, by register. -/
theorem srDone_wrote (s : State) (c : CtxRef) (n : Nat) (v m : Word) : WroteSr s (s.srDone c n v m) c n v m := by
  refine ⟨rfl, fun k hk => ?cores, fun p hp hn => ?reads, fun hn => ?readOnly, fun hn hm => ?seeds, fun hn j hj => ?poke,
    fun hn => ?cwin, fun hpoke hcwin => ⟨srDone_onlyCtx hpoke hcwin s c v m, srDone_ctxOf hpoke hcwin s c v m⟩⟩
  case cores => rw [State.srDone, State.commit_core_ne _ _ _ _ hk, State.core_updCore_ne _ _ _ _ hk.symm]
  case reads =>
    subst hn
    exact srDone_reads s c v m hp
  case readOnly =>
    obtain ⟨hpoke, hcwin⟩ := srReadOnly_own n hn
    have hctx := srDone_ctxOf hpoke hcwin s c v m
    rw [srWrite_readOnly hn] at hctx
    refine ⟨srDone_onlyCtx hpoke hcwin s c v m, ?_, fun r => ?_⟩
    · rw [hctx]
      rfl
    · rw [hctx, if_neg (by omega)]
      rfl
  case seeds =>
    subst hn
    exact srDone_seeds s c v hm
  case poke =>
    subst hn
    rw [State.srDone, State.commit_id_ppend, State.ctx, State.core_updCore_same]
    exact Core.poke_ppend _ _ hj
  case cwin =>
    subst hn
    rw [State.srDone, State.commit_core, State.core_updCore_same]
    rfl

theorem srListed_iff (n : Nat) : srListed n = true ↔
    n ∈ srReadOnly ∨ n ∈ srWritable.map (fun p => p.1) ∨ n = 0x025 ∨ n = 0x101 ∨ n = 0x110 := by
  simp [srListed, srReadOnly, srWritable]
  omega

/-- An instruction of a status register that does not wait. -/
theorem srStore_of_ready {s : State} {c : CtxRef} {n : Nat} (h : s.srWaits c n = false) (v m : Word) :
    s.srStore c n v m = s.srDone c n v m := if_neg (ne_true_of_eq_false h)

/-- Settles O17: a read is a commit, a write is `srDone_wrote`, and a word that `rowOf` does not list is a trap. -/
theorem statusInstructionsComplete : Obligations.StatusInstructionsComplete := by
  unfold Obligations.StatusInstructionsComplete
  intro s c w x listed trapped
  have hnone {n : Nat} (h : ¬ listed n) : srListed n = false := Bool.eq_false_iff.mpr fun ht => h ((srListed_iff n).mp ht)
  have hscalar (hmajor : wMajor w = 0x30) : rowOf w = rowScalar w := by rw [rowOf, hmajor]; rfl
  refine ⟨fun h hready => ?srd, fun h hready => ?swr, fun h hready => ?smw, fun hf hn htrap hcore hready hmajor => ?srdTraps,
    fun hf hn htrap hcore hready hmajor => ?swrTraps, fun hf hn htrap hcore hready hmajor => ?smwTraps⟩
  case srd =>
    have hexec : exec (.srd c w) s = .next (s.commit c (fun x => x.wx (wRd w) (s.srRead c (wNumK w)))) :=
      (exec_srd c w s).trans ((h.issue_next _).trans (congrArg _ (if_neg (ne_true_of_eq_false hready))))
    exact ⟨_, hexec, commit_writesX_next rfl⟩
  case swr =>
    have hexec : exec (.swr c w) s = .next (s.srDone c (wNumP w) (x.rx (wRs1 w)) (BitVec.allOnes 64)) :=
      (exec_swr c w s).trans ((h.issue_next _).trans (congrArg _ (srStore_of_ready hready _ _)))
    exact ⟨_, hexec, srDone_wrote s c _ _ _⟩
  case smw =>
    have hexec : exec (.smw c w) s = .next (s.srDone c (wNumP w) (x.rx (wRs1 w)) (x.rx (wRs2 w))) :=
      (exec_smw c w s).trans ((h.issue_next _).trans (congrArg _ (srStore_of_ready hready _ _)))
    exact ⟨_, hexec, srDone_wrote s c _ _ _⟩
  case srdTraps =>
    have hrow : rowOf w = none := by simp [hscalar hmajor, rowScalar, hmajor, hf, hnone hn, rowIf]
    exact runs_trap htrap ((exec_srd c w s).trans (State.issue_noRow _ hcore hready hrow))
  case swrTraps =>
    have hrow : rowOf w = none := by
      obtain hrs2 | hn := hn
      · simp [hscalar hmajor, rowScalar, hmajor, hf, hrs2, rowIf]
      · simp [hscalar hmajor, rowScalar, hmajor, hf, hnone hn, rowIf]
    exact runs_trap htrap ((exec_swr c w s).trans (State.issue_noRow _ hcore hready hrow))
  case smwTraps =>
    have hrow : rowOf w = none := by simp [hscalar hmajor, rowScalar, hmajor, hf, hnone hn, rowIf]
    exact runs_trap htrap ((exec_smw c w s).trans (State.issue_noRow _ hcore hready hrow))

end Sys2Proof.Claims
end

section
/-! SUPPORT. The words of the rows that access memory (R148, R155): the FUNCT3 that they allow. -/

namespace Sys2Proof.Machine

/-- What holds of every row that a check lets pass. -/
theorem forall_rowIf {ok : Bool} {q : Row} {P : Row → Prop} : (∀ r, rowIf ok q = some r → P r) ↔ (ok = true → P q) := by
  cases ok <;> simp [rowIf]

/-- The FUNCT3 of the words of a row that accesses memory (R148, R155); any of another row. -/
def Row.allowsF3 : Row → Nat → Prop
  | .load, f => f ≤ 6
  | .store, f => f ≤ 3
  | .bmov, f => f = 0
  | .bfill, f => f = 1
  | .bcmp, f => f = 2
  | .bscan, f => f = 3
  | _, _ => True

theorem rowVector_allowsF3 (w : Word32) (f : Nat) : ∀ r ∈ rowVector w, r.allowsF3 f := by
  unfold rowVector
  dsimp only
  split <;> (repeat' split) <;> simp [forall_rowIf, Row.allowsF3]

theorem rowCoprocessor_allowsF3 (w : Word32) (f : Nat) : ∀ r ∈ rowCoprocessor w, r.allowsF3 f := by
  unfold rowCoprocessor
  dsimp only
  split <;> (repeat' split) <;> simp [forall_rowIf, Row.allowsF3]

theorem rowScalar_allowsF3 (w : Word32) : ∀ r ∈ rowScalar w, r.allowsF3 (wF3 w) := by
  unfold rowScalar
  dsimp only
  split <;> (repeat' split) <;> simp [forall_rowIf, Row.allowsF3, *]

/-- A word of a row has a FUNCT3 of the row. -/
theorem rowOf_allowsF3 {w : Word32} {r : Row} (h : rowOf w = some r) : r.allowsF3 (wF3 w) := by
  unfold rowOf at h
  dsimp only at h
  split at h
  · exact rowScalar_allowsF3 w r h
  · split at h
    · exact rowVector_allowsF3 w _ r h
    · exact rowCoprocessor_allowsF3 w _ r h

end Sys2Proof.Machine
end

section
/-! SUPPORT. Rows as bytes and as 64-bit words (R6, R155, R165). -/

namespace Sys2Proof.Machine

theorem leBytes_take {m n : Nat} (h : m ≤ n) (v : Nat) : (leBytes n v).take m = leBytes m v := by
  induction m generalizing n v with
  | zero => rfl
  | succ m ih =>
    obtain ⟨n, rfl⟩ := Nat.exists_eq_succ_of_ne_zero (show n ≠ 0 by omega)
    rw [leBytes, leBytes, List.take_succ_cons, ih (by omega)]

theorem leBytes_drop (m n v : Nat) : (leBytes (m + n) v).drop m = leBytes n (v / 256 ^ m) := by
  induction m generalizing v with
  | zero => simp
  | succ m ih =>
    rw [Nat.add_right_comm, leBytes, List.drop_succ_cons, ih, Nat.div_div_eq_div_mul, Nat.pow_succ']

/-- The words of a number's bytes are its fields of 64 bits. -/
theorem wordsOf_leBytes (n v : Nat) : wordsOf n (leBytes (8 * n) v) = (List.range n).map (fun i => v >>> (64 * i) % 2 ^ 64) := by
  induction n generalizing v with
  | zero => rfl
  | succ n ih =>
    rw [wordsOf, leBytes_take (by omega), leNat_leBytes, Nat.mul_succ, Nat.add_comm (8 * n), leBytes_drop, ih,
      List.range_succ_eq_map, List.map_cons, List.map_map]
    congr 1
    refine List.map_congr_left fun i _ => ?_
    rw [Function.comp_apply, Nat.shiftRight_eq_div_pow, Nat.shiftRight_eq_div_pow, Nat.div_div_eq_div_mul, Nat.mul_succ,
      Nat.add_comm (64 * i), Nat.pow_add]
    rfl

theorem wordsOf_rowBytes (v : BitVec 4096) : wordsOf 64 (rowBytes v) = (List.range 64).map (fun i => fld v (64 * i) 64) :=
  wordsOf_leBytes 64 v.toNat

/-- A number that fits its bytes. -/
theorem leNat_leBytes_of_lt {n v : Nat} (h : v < 2 ^ (8 * n)) : leNat (leBytes n v) = v := by
  rw [leNat_leBytes, Nat.mod_eq_of_lt]
  rwa [show 256 = 2 ^ 8 from rfl, ← Nat.pow_mul]

theorem bytesRow_rowBytes (v : BitVec 4096) : bytesRow (rowBytes v) = v := by
  rw [bytesRow, rowBytes, leNat_leBytes_of_lt (n := 512) v.isLt, BitVec.ofNat_toNat, BitVec.setWidth_eq]

theorem leNat_append (as bs : List Byte) : leNat (as ++ bs) = leNat bs * 256 ^ as.length + leNat as := by
  induction as with
  | nil => simp [leNat]
  | cons a as ih =>
    rw [List.cons_append, leNat, leNat, ih, List.length_cons, Nat.pow_succ']
    ring

/-- The bytes of 64-bit words, one after the other, are the words packed. -/
theorem leNat_words (l : List Nat) : leNat ((l.map (leBytes 8)).flatten) = packNat 64 l := by
  induction l with
  | nil => rfl
  | cons e l ih =>
    rw [List.map_cons, List.flatten_cons, leNat_append, ih, packNat_cons, leBytes_length, leNat_leBytes,
      show 256 ^ 8 = 2 ^ 64 from rfl]

/-- A row of one word has that word in each field. -/
theorem fld_fillRow (a : Word) {i : Nat} (h : i < 64) :
    fld (bytesRow ((List.range 64).map (fun _ => leBytes 8 a.toNat)).flatten) (64 * i) 64 = a.toNat := by
  have hwords : (List.range 64).map (fun _ => leBytes 8 a.toNat) = ((List.range 64).map (fun _ => a.toNat)).map (leBytes 8) := by
    rw [List.map_map]
    rfl
  rw [bytesRow, hwords, leNat_words, fld_packed (by rw [List.length_map, List.length_range]),
    getD_range_map (fun _ => a.toNat) h, Nat.mod_eq_of_lt a.isLt]

/-- A comparison that goes on at every word goes on to the end. -/
theorem leadCount_self {p : Nat → Nat → Bool} {l : List Nat} (h : ∀ a ∈ l, p a a = true) : leadCount p l l = l.length := by
  induction l with
  | nil => rfl
  | cons a l ih =>
    rw [leadCount, h a List.mem_cons_self, if_pos rfl, ih fun b hb => h b (List.mem_cons_of_mem _ hb), List.length_cons]

end Sys2Proof.Machine
end

section
/-! SUPPORT. A block-repeat instruction whose one step covers one inkwell row (R155, R156, R165). -/

namespace Sys2Proof.Machine

/-- An inkwell locator names a physical row that its handle allows (R124, R171). -/
def Core.rowAt (k : Core) (l : Word) (write : Bool) (p : Nat) : Prop :=
  isInk l = true ∧ inkLocBad l = false ∧ ∃ base, k.checkRows (inkHandle l) [inkRow l] write = .ok base ∧ p = base + inkRow l

/-- Only single-bit errors of the core's rows have been corrected (R172). -/
def Corrected (s u : State) (key : Nat) : Prop :=
  u = { s with cores := u.cores } ∧ ∃ soft corr, u.core key = { s.core key with inkSoft := soft, eccCorr := corr }

theorem Corrected.refl (s : State) (key : Nat) : Corrected s s key := ⟨rfl, _, _, rfl⟩

theorem Corrected.trans {s u t : State} {key : Nat} (h : Corrected s u key) (g : Corrected u t key) : Corrected s t key := by
  obtain ⟨hu, soft, corr, hcore⟩ := h
  obtain ⟨ht, soft', corr', hcore'⟩ := g
  exact ⟨by rw [ht, hu], soft', corr', by rw [hcore', hcore]⟩

theorem State.correctRows_corrected (s : State) (key : Nat) (rows : List Nat) : Corrected s (s.correctRows key rows) key := by
  unfold State.correctRows
  split
  · exact ⟨rfl, _, _, (s.core_updCore_same key _).trans (Core.correctRows_eq _ _)⟩
  · exact .refl s key

section
variable {s u : State} {c : CtxRef} (h : Corrected s u c.key)
include h

theorem Corrected.ctxOf : u.ctxOf c = s.ctxOf c := by
  obtain ⟨-, soft, corr, hcore⟩ := h
  rw [State.ctxOf, State.ctx, hcore]
  rfl

theorem Corrected.ink : (u.core c.key).ink = (s.core c.key).ink := by
  obtain ⟨-, soft, corr, hcore⟩ := h
  rw [hcore]

theorem Corrected.mem : u.mem = s.mem := by
  obtain ⟨hu, -⟩ := h
  rw [hu]

theorem Corrected.inkBad : (u.core c.key).inkBad = (s.core c.key).inkBad := by
  obtain ⟨-, soft, corr, hcore⟩ := h
  rw [hcore]

theorem Corrected.mmNeeds (p : Nat) : (u.core c.key).mmNeeds p = (s.core c.key).mmNeeds p := by
  obtain ⟨-, soft, corr, hcore⟩ := h
  rw [hcore]
  rfl

theorem Corrected.rowAt {l : Word} {write : Bool} {p : Nat} (hrow : (s.core c.key).rowAt l write p) :
    (u.core c.key).rowAt l write p := by
  obtain ⟨-, soft, corr, hcore⟩ := h
  rw [hcore]
  exact hrow

end

/-- A row that reads gives its bytes, with single-bit errors corrected. -/
theorem State.brRead_row {s : State} {c : CtxRef} {l : Word} {p : Nat} (hrow : (s.core c.key).rowAt l false p)
    (hintact : (s.core c.key).inkBad.contains p = false) (n : Nat) (f : List Byte → State → BrStep) :
    ∃ u, Corrected s u c.key ∧ s.brRead c l n f = f (rowBytes ((s.core c.key).row p)) u := by
  obtain ⟨hink, -, base, hcheck, rfl⟩ := hrow
  refine ⟨_, s.correctRows_corrected c.key [base + inkRow l], ?_⟩
  simp only [State.brRead, hink, hcheck, hintact, if_true, Bool.false_eq_true, if_false]

/-- A row that no matrix request still needs is written. -/
theorem State.brWrite_row {s : State} {c : CtxRef} {l : Word} {p : Nat} (hrow : (s.core c.key).rowAt l true p)
    (hfree : (s.core c.key).mmNeeds p = false) (bs : List Byte) (f : State → BrStep) :
    s.brWrite c l bs f = f (s.updCore c.key (fun k => k.putRow p (bytesRow bs))) := by
  obtain ⟨hink, -, base, hcheck, rfl⟩ := hrow
  simp only [State.brWrite, hink, hcheck, hfree, if_true, Bool.false_eq_true, if_false]

/-- The registers of a block-repeat word are three, none of them x0 (R155). -/
def BrDistinct (w : Word32) : Prop :=
  wRd w ≠ 0 ∧ wRs1 w ≠ 0 ∧ wRs2 w ≠ 0 ∧ wRd w ≠ wRs1 w ∧ wRd w ≠ wRs2 w ∧ wRs1 w ≠ wRs2 w

/-- An inkwell locator goes on by one row for 64 words. -/
theorem brAdvance_row {l : Word} (h : isInk l = true) : brAdvance l 64 = l + 1 := by
  rw [brAdvance, if_pos h]
  rfl

/-- The locators one row on, and the count reduced by 64 (R155). -/
theorem Ctx.brRegs_rx {x : Ctx} {w : Word32} (h : BrDistinct w) (both : Bool) (hd : isInk (x.rx (wRd w)) = true)
    (ha : both = true → isInk (x.rx (wRs1 w)) = true) :
    (x.brRegs w both 64).rx (wRd w) = x.rx (wRd w) + 1 ∧
    (x.brRegs w both 64).rx (wRs1 w) = (if both then x.rx (wRs1 w) + 1 else x.rx (wRs1 w)) ∧
    (x.brRegs w both 64).rx (wRs2 w) = x.rx (wRs2 w) - 64 := by
  obtain ⟨h0, h1, h2, h01, h02, h12⟩ := h
  cases both with
  | true => simp [Ctx.brRegs, Ctx.rx_wx_read, h0, h1, h2, h01, h02, h12, brAdvance_row hd, brAdvance_row (ha rfl)]
  | false => simp [Ctx.brRegs, Ctx.rx_wx_read, h0, h1, h2, h01.symm, h02, h12, brAdvance_row hd]

/-- The instruction is over after one row. -/
def State.blockEnd (s : State) (c : CtxRef) (w : Word32) (both : Bool) : State :=
  ((s.updCtxOf c (fun x => x.brRegs w both 64)).ctxDone c).commit c id

theorem State.blockEnd_ink (s : State) (c : CtxRef) (w : Word32) (both : Bool) :
    ((s.blockEnd c w both).core c.key).ink = (s.core c.key).ink := by
  rw [State.blockEnd, State.commit_core, State.ctxDone_core, State.core_updCtxOf]
  rfl

/-- The end of the instruction keeps the row that it wrote. -/
theorem State.blockEnd_row (u : State) (c : CtxRef) (w : Word32) (both : Bool) (p : Nat) (v : BitVec 4096) :
    (((u.updCore c.key (fun k => k.putRow p v)).blockEnd c w both).core c.key).row p = v := by
  rw [Core.row, State.blockEnd_ink, ← Core.row, State.row_updCore_putRow, if_pos ⟨rfl, rfl⟩]

theorem State.blockEnd_mem (s : State) (c : CtxRef) (w : Word32) (both : Bool) : (s.blockEnd c w both).mem = s.mem := by
  rw [State.blockEnd, State.commit_eq, State.ctxDone_eq]
  rfl

theorem State.blockEnd_ctxOf (s : State) (c : CtxRef) (w : Word32) (both : Bool) :
    ((s.blockEnd c w both).ctxOf c).x = ((s.ctxOf c).brRegs w both 64).x ∧
    ((s.blockEnd c w both).ctxOf c).pc = ((s.ctxOf c).brRegs w both 64).pc + 4 := by
  have hctx : ((s.updCtxOf c (fun x => x.brRegs w both 64)).ctxDone c).ctxOf c = (s.ctxOf c).brRegs w both 64 := by
    rw [State.ctxOf, State.ctx, State.ctxDone_core]
    exact State.ctxOf_updCtxOf ..
  rw [State.blockEnd, State.commit_ctxOf, hctx]
  exact ⟨rfl, rfl⟩

theorem Ctx.brRegs_pc (x : Ctx) (w : Word32) (both : Bool) (n : Nat) : (x.brRegs w both n).pc = x.pc := by
  cases both <;> simp [Ctx.brRegs, Ctx.wx_eq]

/-- A step of a whole row that leaves no count ends the instruction. -/
theorem State.brDone_ends {u : State} {c : CtxRef} {w : Word32} (both : Bool) (h : BrDistinct w) (hn : (u.ctxOf c).rx (wRs2 w) = 64) :
    u.brDone c w both 64 64 = .ended (u.blockEnd c w both) := by
  have hzero : ((u.updCtxOf c (fun x => x.brRegs w both 64)).ctxOf c).rx (wRs2 w) = 0 := by
    rw [State.ctxOf_updCtxOf]
    obtain ⟨-, -, hrs2, -⟩ := h
    rw [Ctx.brRegs, Ctx.rx_wx_read, if_pos ⟨rfl, hrs2⟩, hn]
    rfl
  simp only [State.brDone, hzero, decide_true, Bool.or_true, if_true]
  rfl

/-- A row written leaves every context. -/
theorem State.ctxOf_putRow (s : State) (c : CtxRef) (p : Nat) (v : BitVec 4096) :
    (s.updCore c.key (fun k => k.putRow p v)).ctxOf c = s.ctxOf c := by
  rw [State.ctxOf_updCore, Core.ctx, Core.putRow_ctxs]
  rfl

/-- What the block-repeat instructions over one inkwell row have in common: their registers, a count of 64 words, and no
vector store of the context under way. -/
structure BrReady (s : State) (c : CtxRef) (w : Word32) : Prop where
  distinct : BrDistinct w
  count : (s.ctxOf c).rx (wRs2 w) = 64
  stores : (s.ctxOf c).vecStoresDone = true

section
variable {s : State} {c : CtxRef} {w : Word32} (h : BrReady s c w)
include h

/-- A row written leaves the context. -/
theorem BrReady.count_putRow {u : State} (hu : Corrected s u c.key) (p : Nat) (v : BitVec 4096) :
    ((u.updCore c.key (fun k => k.putRow p v)).ctxOf c).rx (wRs2 w) = 64 := by
  rw [State.ctxOf_putRow, hu.ctxOf, h.count]

/-- BMOV of one row (R155). -/
theorem BrReady.bmov (hf : wF3 w = 0) {p q : Nat} (hd : (s.core c.key).rowAt ((s.ctxOf c).rx (wRd w)) true p)
    (ha : (s.core c.key).rowAt ((s.ctxOf c).rx (wRs1 w)) false q) (hintact : (s.core c.key).inkBad.contains q = false)
    (hfree : (s.core c.key).mmNeeds p = false) :
    ∃ u, Corrected s u c.key ∧ s.blockStep c w =
      .ended ((u.updCore c.key (fun k => k.putRow p ((s.core c.key).row q))).blockEnd c w true) := by
  obtain ⟨u, hu, hread⟩ := State.brRead_row ha hintact 512 (fun bs s' =>
    s'.brWrite c ((s.ctxOf c).rx (wRd w)) bs (fun s' => s'.brDone c w true 64 64))
  refine ⟨u, hu, ?_⟩
  have hwrite := State.brWrite_row (hu.rowAt hd) ((hu.mmNeeds p).trans hfree) (rowBytes ((s.core c.key).row q))
    (fun s' => s'.brDone c w true 64 64)
  rw [bytesRow_rowBytes] at hwrite
  rw [← State.brDone_ends true h.distinct (h.count_putRow hu p _), ← hwrite, ← hread]
  obtain ⟨⟨h0, h1, h2, h01, h02, h12⟩, hcount, hstores⟩ := h
  obtain ⟨hdink, hdok, -⟩ := hd
  obtain ⟨haink, haok, -⟩ := ha
  simp [State.blockStep, hf, hcount, hstores, h0, h1, h2, h01, h02, h12, brLocTrap, hdink, hdok, haink, haok]

/-- BFILL of one row (R155). -/
theorem BrReady.bfill (hf : wF3 w = 1) {p : Nat} (hd : (s.core c.key).rowAt ((s.ctxOf c).rx (wRd w)) true p)
    (hfree : (s.core c.key).mmNeeds p = false) :
    s.blockStep c w = .ended ((s.updCore c.key (fun k => k.putRow p (bytesRow
      ((List.range 64).map (fun _ => leBytes 8 ((s.ctxOf c).rx (wRs1 w)).toNat)).flatten))).blockEnd c w false) := by
  rw [← State.brDone_ends false h.distinct (h.count_putRow (.refl s _) p _),
    ← State.brWrite_row hd hfree _ (fun s' => s'.brDone c w false 64 64)]
  obtain ⟨⟨h0, h1, h2, h01, h02, h12⟩, hcount, hstores⟩ := h
  obtain ⟨hdink, hdok, -⟩ := hd
  simp [State.blockStep, hf, hcount, hstores, h0, h1, h2, h01, h02, h12, brLocTrap, hdink, hdok]

/-- BCMP of two equal rows (R155). -/
theorem BrReady.bcmp (hf : wF3 w = 2) {p q : Nat} (hd : (s.core c.key).rowAt ((s.ctxOf c).rx (wRd w)) false p)
    (ha : (s.core c.key).rowAt ((s.ctxOf c).rx (wRs1 w)) false q) (hp : (s.core c.key).inkBad.contains p = false)
    (hq : (s.core c.key).inkBad.contains q = false) (hrows : (s.core c.key).row p = (s.core c.key).row q) :
    ∃ u, Corrected s u c.key ∧ s.blockStep c w = .ended (u.blockEnd c w true) := by
  obtain ⟨u, hu, hread⟩ := State.brRead_row hd hp 512 (fun bs s' => s'.brRead c ((s.ctxOf c).rx (wRs1 w)) 512 (fun bs' s' =>
    s'.brDone c w true (leadCount (fun u v => u == v) (wordsOf 64 bs) (wordsOf 64 bs')) 64))
  obtain ⟨t, ht, hread'⟩ := State.brRead_row (hu.rowAt ha) (hu.inkBad ▸ hq) 512 (fun bs' s' =>
    s'.brDone c w true (leadCount (fun u v => u == v) (wordsOf 64 (rowBytes ((s.core c.key).row p))) (wordsOf 64 bs')) 64)
  have hsame : leadCount (fun u v => u == v) (wordsOf 64 (rowBytes ((s.core c.key).row p)))
      (wordsOf 64 (rowBytes ((u.core c.key).row q))) = 64 := by
    rw [Core.row, Core.row, hu.ink, ← Core.row, ← Core.row, hrows, leadCount_self fun a _ => beq_self_eq_true a, wordsOf_rowBytes,
      List.length_map, List.length_range]
  rw [hsame] at hread'
  refine ⟨t, hu.trans ht, ?_⟩
  rw [← State.brDone_ends true h.distinct (by rw [(hu.trans ht).ctxOf, h.count]), ← hread', ← hread]
  obtain ⟨⟨h0, h1, h2, h01, h02, h12⟩, hcount, hstores⟩ := h
  obtain ⟨hdink, hdok, -⟩ := hd
  obtain ⟨haink, haok, -⟩ := ha
  simp [State.blockStep, hf, hcount, hstores, h0, h1, h2, h01, h02, h12, brLocTrap, hdink, hdok, haink, haok]

/-- BSCAN of a row without the word (R155). -/
theorem BrReady.bscan (hf : wF3 w = 3) {p : Nat} (hd : (s.core c.key).rowAt ((s.ctxOf c).rx (wRd w)) false p)
    (hp : (s.core c.key).inkBad.contains p = false)
    (hother : ∀ i, i < 64 → fld ((s.core c.key).row p) (64 * i) 64 ≠ ((s.ctxOf c).rx (wRs1 w)).toNat) :
    ∃ u, Corrected s u c.key ∧ s.blockStep c w = .ended (u.blockEnd c w false) := by
  obtain ⟨u, hu, hread⟩ := State.brRead_row hd hp 512 (fun bs s' => s'.brDone c w false
    (leadCount (fun u _ => u != ((s.ctxOf c).rx (wRs1 w)).toNat) (wordsOf 64 bs) (wordsOf 64 bs)) 64)
  have hnone : leadCount (fun u _ => u != ((s.ctxOf c).rx (wRs1 w)).toNat) (wordsOf 64 (rowBytes ((s.core c.key).row p)))
      (wordsOf 64 (rowBytes ((s.core c.key).row p))) = 64 := by
    rw [wordsOf_rowBytes, leadCount_self, List.length_map, List.length_range]
    intro a ha
    obtain ⟨i, hi, rfl⟩ := List.mem_map.mp ha
    exact bne_iff_ne.mpr (hother i (List.mem_range.mp hi))
  rw [hnone] at hread
  refine ⟨u, hu, ?_⟩
  rw [← State.brDone_ends false h.distinct (by rw [hu.ctxOf, h.count]), ← hread]
  obtain ⟨⟨h0, h1, h2, h01, h02, h12⟩, hcount, hstores⟩ := h
  obtain ⟨hdink, hdok, -⟩ := hd
  simp [State.blockStep, hf, hcount, hstores, h0, h1, h2, h01, h02, h12, brLocTrap, hdink, hdok]

/-- The instruction is its one step. -/
theorem BrReady.instr {t : State} (ht : s.blockStep c w = .ended t) : s.blockInstr c w = t := by
  rw [State.blockInstr, h.count]
  simp only [State.blockRun, ht]

/-- What the end of the instruction leaves of the context and of memory (R155). -/
theorem BrReady.ended {u : State} (both : Bool) (hctx : u.ctxOf c = s.ctxOf c) (hmem : u.mem = s.mem)
    (hd : isInk ((s.ctxOf c).rx (wRd w)) = true) (ha : both = true → isInk ((s.ctxOf c).rx (wRs1 w)) = true) :
    let t := u.blockEnd c w both
    (t.ctxOf c).rx (wRd w) = (s.ctxOf c).rx (wRd w) + 1 ∧
    (t.ctxOf c).rx (wRs1 w) = (if both then (s.ctxOf c).rx (wRs1 w) + 1 else (s.ctxOf c).rx (wRs1 w)) ∧
    (t.ctxOf c).rx (wRs2 w) = 0 ∧ (t.ctxOf c).pc = (s.ctxOf c).pc + 4 ∧ Claims.SameMem s t := by
  obtain ⟨hx, hpc⟩ := u.blockEnd_ctxOf c w both
  rw [hctx] at hx hpc
  have hrx (r : Nat) : ((u.blockEnd c w both).ctxOf c).rx r = ((s.ctxOf c).brRegs w both 64).rx r := by rw [Ctx.rx, hx]; rfl
  obtain ⟨hrd, hrs1, hrs2⟩ := Ctx.brRegs_rx h.distinct both hd ha
  refine ⟨(hrx _).trans hrd, (hrx _).trans hrs1, (hrx _).trans (hrs2.trans ?_), hpc.trans (by rw [Ctx.brRegs_pc]), fun a => ?_⟩
  · rw [h.count]
    rfl
  · rw [State.blockEnd_mem, hmem]

end

end Sys2Proof.Machine

namespace Sys2Proof.Claims

open Sys2Proof.Machine

/-- A word that can issue has a FUNCT3 of its row. -/
theorem Issues.f3 {s : State} {row : Row} {c : CtxRef} {w : Word32} (h : Issues s row c w) : row.allowsF3 (wF3 w) := by
  obtain ⟨-, -, hrow, -⟩ := h
  exact rowOf_allowsF3 hrow

/-- Settles O19: each instruction is one step, which moves, fills, compares or searches the row and ends (`BrReady.ended`). -/
theorem blockRepeatCompletes : Obligations.BlockRepeatCompletes := by
  unfold Obligations.BlockRepeatCompletes
  intro s c w x k d a distinct row advanced hdistinct hcount hstores
  have h : BrReady s c w := ⟨hdistinct, hcount, hstores⟩
  refine ⟨fun p q hi hd ha hintact hfree => ?bmov, fun p hi hd hfree => ?bfill,
    fun p q hi hd ha hp hq hrows => ?bcmp, fun p hi hd hp hother => ?bscan⟩
  case bmov =>
    have hf : wF3 w = 0 := Issues.f3 hi
    obtain ⟨u, hu, hstep⟩ := h.bmov hf hd ha hintact hfree
    have hended : advanced true ((u.updCore c.key (fun k => k.putRow p ((s.core c.key).row q))).blockEnd c w true) :=
      h.ended true ((u.ctxOf_putRow c p _).trans hu.ctxOf) hu.mem hd.1 fun _ => ha.1
    have hexec : exec (.bmov c w) s = .next _ :=
      (exec_bmov c w s).trans ((hi.issue_next _).trans (congrArg _ (h.instr hstep)))
    have hrow : blockRow w = .bmov := by simp only [blockRow, hf]
    have hone : exec (.blockRepeatStep c w) s = .next (s.blockStep c w).state := by
      rw [exec_blockRepeatStep, execBlockRepeatStep, hrow, hi.issue_next]
    rw [hstep] at hone
    exact ⟨⟨_, hexec, u.blockEnd_row c w true p _, hended⟩, ⟨_, hone, u.blockEnd_row c w true p _, hended⟩⟩
  case bfill =>
    have hstep := h.bfill (Issues.f3 hi) hd hfree
    have hexec : exec (.bfill c w) s = .next _ :=
      (exec_bfill c w s).trans ((hi.issue_next _).trans (congrArg _ (h.instr hstep)))
    refine ⟨_, hexec, fun i hi => ?_, h.ended false (s.ctxOf_putRow c p _) rfl hd.1 (fun hb => nomatch hb)⟩
    rw [State.blockEnd_row]
    exact fld_fillRow a hi
  case bcmp =>
    obtain ⟨u, hu, hstep⟩ := h.bcmp (Issues.f3 hi) hd ha hp hq hrows
    have hexec : exec (.bcmp c w) s = .next (u.blockEnd c w true) :=
      (exec_bcmp c w s).trans ((hi.issue_next _).trans (congrArg _ (h.instr hstep)))
    exact ⟨_, hexec, (u.blockEnd_ink c w true).trans hu.ink, h.ended true hu.ctxOf hu.mem hd.1 fun _ => ha.1⟩
  case bscan =>
    obtain ⟨u, hu, hstep⟩ := h.bscan (Issues.f3 hi) hd hp hother
    have hexec : exec (.bscan c w) s = .next (u.blockEnd c w false) :=
      (exec_bscan c w s).trans ((hi.issue_next _).trans (congrArg _ (h.instr hstep)))
    exact ⟨_, hexec, (u.blockEnd_ink c w false).trans hu.ink, h.ended false hu.ctxOf hu.mem hd.1 (fun hb => nomatch hb)⟩

end Sys2Proof.Claims
end

section
/-! SUPPORT. What a translation and a read of stack memory leave alone (R186, R189, R210, R211): all but caches, TLBs and counters. -/

namespace Sys2Proof.Machine

/-- The state without cores, dies, functions and the count of free choices. -/
def State.sansCaches (s : State) : State := { s with cores := [], dies := [], funcs := [], free := 0 }

/-- A core without its TLB and counters. -/
def Core.sansTlb (k : Core) : Core := { k with tlb := [], ctrPc := [] }

/-- A core without its TLB, its counters, its L1 data cache and its instruction cache. -/
def Core.sansL1 (k : Core) : Core := { k with tlb := [], ctrPc := [], l1 := [], icache := [] }

/-- A core also without its store buffer. -/
def Core.sansSb (k : Core) : Core := { k with tlb := [], ctrPc := [], l1 := [], icache := [], sb := [] }

/-- Only dies, functions and free choices differ, and of the cores what the view leaves out. -/
structure SameBut (view : Core → Core) (s t : State) : Prop where
  rest : t.sansCaches = s.sansCaches
  core : ∀ k, view (t.core k) = view (s.core k)

section
variable {view : Core → Core} {s t u : State}

theorem SameBut.refl (s : State) : SameBut view s s := ⟨rfl, fun _ => rfl⟩

theorem SameBut.trans (h : SameBut view s t) (g : SameBut view t u) : SameBut view s u :=
  ⟨g.rest.trans h.rest, fun k => (g.core k).trans (h.core k)⟩

theorem SameBut.of_cores (h : t.sansCaches = s.sansCaches) (hc : t.cores = s.cores) : SameBut view s t :=
  ⟨h, fun k => by rw [State.core, hc]; rfl⟩

theorem State.updCore_sameBut {k : Nat} {f : Core → Core} (hf : view (f (s.core k)) = view (s.core k)) :
    SameBut view s (s.updCore k f) := by
  refine ⟨rfl, fun i => ?_⟩
  rw [State.core_updCore]
  split
  · next h => rw [hf, h]
  · rfl

theorem State.updCoreFree_sameBut {k : Nat} {f : Core → Core} (hf : view (f (s.core k)) = view (s.core k)) (n : Nat) :
    SameBut view s { s.updCore k f with free := n } :=
  (State.updCore_sameBut hf).trans (t := s.updCore k f) (.of_cores rfl rfl)

theorem sameBut_foldl {α : Type} {f : State → α → State} (hf : ∀ t x, SameBut view t (f t x)) (l : List α) (s : State) :
    SameBut view s (l.foldl f s) := by
  induction l generalizing s with
  | nil => exact .refl s
  | cons x l ih => exact (hf s x).trans (ih _)

theorem sameBut_bind {α β : Type} {x : Acc α} {f : α → State → Acc β} (hx : SameBut view s x.left)
    (hf : ∀ a t, SameBut view t (f a t).left) : SameBut view s (x.bind f).left := by
  cases x with
  | ok a t => exact SameBut.trans hx (hf a t)
  | wait t => exact hx
  | trap c a t => exact hx
  | page c v w t => exact hx
  | poison a t => exact hx
  | lost r t => exact hx

end

/-- Only caches, TLBs and counters differ, and no L1 data cache. -/
abbrev Looked (s t : State) : Prop := SameBut Core.sansTlb s t

theorem Looked.sansL1 {s t : State} (h : Looked s t) : SameBut Core.sansL1 s t :=
  ⟨h.rest, fun k => congrArg (fun c : Core => { c with l1 := [], icache := [] }) (h.core k)⟩

theorem SameBut.sansSb {s t : State} (h : SameBut Core.sansL1 s t) : SameBut Core.sansSb s t :=
  ⟨h.rest, fun k => congrArg (fun c : Core => { c with sb := [] }) (h.core k)⟩

section
variable {view : Core → Core} {s t : State} (h : SameBut view s t)
include h

theorem SameBut.mem : t.mem = s.mem := (congrArg State.mem h.rest :)
theorem SameBut.cmds : t.cmds = s.cmds := (congrArg State.cmds h.rest :)
theorem SameBut.queues : t.queues = s.queues := (congrArg State.queues h.rest :)
theorem SameBut.poison : t.poison = s.poison := (congrArg State.poison h.rest :)

end

theorem SameBut.sb {s t : State} (h : SameBut Core.sansL1 s t) (k : Nat) : (t.core k).sb = (s.core k).sb :=
  (congrArg Core.sb (h.core k) :)

theorem SameBut.ctx {s t : State} (h : SameBut Core.sansSb s t) (k j : Nat) : t.ctx k j = s.ctx k j := by
  have hctxs : (t.core k).ctxs = (s.core k).ctxs := (congrArg Core.ctxs (h.core k) :)
  rw [State.ctx, Core.ctx, hctxs]
  rfl

theorem SameBut.ctxOf {s t : State} (h : SameBut Core.sansSb s t) (c : CtxRef) : t.ctxOf c = s.ctxOf c := h.ctx _ _

theorem Looked.l1 {s t : State} (h : Looked s t) (k : Nat) : (t.core k).l1 = (s.core k).l1 := (congrArg Core.l1 (h.core k) :)

/-- A change of a die. -/
theorem State.updDie_looked (s : State) (d : Nat) (f : Die → Die) : Looked s (s.updDie d f) := .of_cores rfl rfl

theorem State.countFunc_looked (s : State) (f off n : Nat) : Looked s (s.countFunc f off n) := .of_cores rfl rfl

theorem State.updCache_looked (s : State) (spa fn : Nat) (f : Die → Die) : Looked s (s.updCache spa fn f) :=
  (s.updDie_looked _ _).trans (sameBut_foldl (fun t _ => t.countFunc_looked _ _ _) _ _)

theorem State.countLine_looked (s : State) (e : Engine) (spa event : Nat) : Looked s (s.countLine e spa event) := by
  cases e with
  | ctx c =>
    unfold State.countLine
    refine State.updCore_sameBut ?_
    rw [Core.countEvent_eq, Core.countEvent_eq]
    rfl
  | feed t => exact .refl s
  | ligature g d => exact .refl s

theorem State.askLine_looked (s : State) (e : Engine) (fn hint spa : Nat) : Looked s (s.askLine e fn hint spa).2 := by
  unfold State.askLine
  split
  · exact .refl s
  · split
    · exact (s.updCache_looked _ _ _).trans (State.countLine_looked _ _ _ _)
    · exact .refl s
    · dsimp only
      split
      · exact s.updDie_looked _ _
      · exact (s.updDie_looked _ _).trans (State.countLine_looked _ _ _ _)

theorem State.stackRead_looked (s : State) (e : Engine) (fn hint spa n : Nat) : Looked s (s.stackRead e fn hint spa n).2 := by
  unfold State.stackRead
  dsimp only
  split <;> exact sameBut_foldl (fun t p => t.askLine_looked _ _ _ _) _ s

theorem State.tableRead_looked (s : State) (ag : Agent) (a : Nat) : Looked s (s.tableRead ag a).left := by
  unfold State.tableRead
  dsimp only
  split
  · exact s.stackRead_looked _ _ _ _ _
  · split <;> exact s.stackRead_looked _ _ _ _ _

theorem State.fillWalkCache_looked (s : State) (die fn va e1 : Nat) : Looked s (s.fillWalkCache die fn va e1) := .of_cores rfl rfl

theorem State.walkReads_looked (s : State) (ag : Agent) (va : Nat) (wr : Bool) : Looked s (s.walkReads ag va wr).left := by
  unfold State.walkReads
  dsimp only
  split
  · exact .refl s
  · refine sameBut_bind ?_ fun e1 t => ?_
    · split
      · exact .refl s
      · exact s.tableRead_looked _ _
    · split
      · exact .refl t
      · split
        · exact t.fillWalkCache_looked _ _ _ _
        · refine (t.fillWalkCache_looked _ _ _ _).trans (sameBut_bind (State.tableRead_looked _ _ _) fun e2 u => ?_)
          split <;> exact .refl u

theorem State.walkFor_looked (s : State) (ag : Agent) (va : Nat) (wr : Bool) : Looked s (s.walkFor ag va wr).left := by
  have hreads := s.walkReads_looked ag va wr
  unfold State.walkFor
  dsimp only
  split
  · exact .refl s
  · generalize s.walkReads ag va wr = r at hreads
    cases r with
    | ok p t => exact SameBut.trans hreads (.of_cores rfl rfl)
    | wait t => exact SameBut.trans hreads (.of_cores rfl rfl)
    | trap c v t => exact hreads
    | page c v w t => exact SameBut.trans hreads (.of_cores rfl rfl)
    | poison a t => exact SameBut.trans hreads (.of_cores rfl rfl)
    | lost r t => exact hreads

theorem State.grant_left (s : State) (ag : Agent) (t : TlbEntry) (va : Nat) (a : Access) : (s.grant ag t va a).left = s := by
  unfold State.grant
  split <;> rfl

theorem State.fillCoreTlb_looked (s : State) (ag : Agent) (t : TlbEntry) : Looked s (s.fillCoreTlb ag t) := by
  unfold State.fillCoreTlb
  split
  · exact State.updCoreFree_sameBut rfl _
  · exact .refl s

theorem State.fillDieTlb_looked (s : State) (die : Nat) (t : TlbEntry) : Looked s (s.fillDieTlb die t) := .of_cores rfl rfl

/-- A translation changes caches, TLBs and counters alone (R210, R211). -/
theorem State.locate_looked (s : State) (ag : Agent) (va : Nat) (a : Access) : Looked s (s.locate ag va a).left := by
  have hgrant (u : State) (t : TlbEntry) : Looked u (u.grant ag t va a).left := (u.grant_left ag t va a).symm ▸ .refl u
  unfold State.locate
  split
  · exact hgrant s _
  · split
    · exact sameBut_bind (hgrant s _) fun l t => t.fillCoreTlb_looked _ _
    · refine sameBut_bind (s.walkFor_looked _ _ _) fun p t => ?_
      exact sameBut_bind (hgrant t _) fun l u => (u.fillDieTlb_looked _ _).trans (State.fillCoreTlb_looked _ _ _)

/-- A location of stack memory keeps the address's place in its page (R203). -/
theorem pteLoc_stack {e : Word} {big : Bool} {va link spa : Nat} (h : pteLoc e big va link = .stack spa) :
    spa % 2 ^ 25 = va % 2 ^ 25 := by
  unfold pteLoc at h
  dsimp only at h
  split at h
  · obtain rfl := Loc.stack.inj h
    cases big <;> simp only [pageBytes, if_true, Bool.false_eq_true, if_false] <;> omega
  · exact nomatch h
  · exact nomatch h

theorem State.grant_stack {s u : State} {ag : Agent} {t : TlbEntry} {va spa : Nat} {a : Access}
    (h : s.grant ag t va a = .ok (.stack spa) u) : spa % 2 ^ 25 = va % 2 ^ 25 := by
  unfold State.grant at h
  split at h
  · exact nomatch h
  · injection h with hl
    exact pteLoc_stack hl

/-- An access that gave a value, and then another. -/
theorem Acc.bind_eq_ok {α β : Type} {x : Acc α} {f : α → State → Acc β} {b : β} {u : State} (h : x.bind f = .ok b u) :
    ∃ a t, x = .ok a t ∧ f a t = .ok b u := by
  cases x with
  | ok a t => exact ⟨a, t, rfl, h⟩
  | wait t => exact nomatch h
  | trap c a t => exact nomatch h
  | page c v w t => exact nomatch h
  | poison a t => exact nomatch h
  | lost r t => exact nomatch h

theorem State.locate_stack {s u : State} {ag : Agent} {va spa : Nat} {a : Access} (h : s.locate ag va a = .ok (.stack spa) u) :
    spa % 2 ^ 25 = va % 2 ^ 25 := by
  unfold State.locate at h
  split at h
  · exact State.grant_stack h
  · split at h
    · obtain ⟨l, t, hg, h⟩ := Acc.bind_eq_ok h
      injection h with hl
      exact State.grant_stack (hl ▸ hg)
    · obtain ⟨p, t, -, h⟩ := Acc.bind_eq_ok h
      obtain ⟨l, v, hg, h⟩ := Acc.bind_eq_ok h
      injection h with hl
      exact State.grant_stack (hl ▸ hg)

end Sys2Proof.Machine
end

section
/-! SUPPORT. Reads of bytes of one line of stack memory that is at hand (R157, R159, R186, R189). -/

namespace Sys2Proof.Machine

/-- The die cache of the line holds it (R186). -/
def State.holdsLine (s : State) (a : Nat) : Prop := (s.die (dieOf a)).holds (lineOf a) ≠ none

/-- Bytes of one line have one place. -/
theorem place_congr {a b : Nat} (h : a / 256 = b / 256) : dieOf a = dieOf b ∧ lineOf a = lineOf b := by
  simp only [dieOf, lineOf, Nat.shiftRight_eq_div_pow]
  omega

theorem State.holdsLine_congr {s : State} {a b : Nat} (h : a / 256 = b / 256) : s.holdsLine a ↔ s.holdsLine b := by
  obtain ⟨hdie, hline⟩ := place_congr h
  rw [State.holdsLine, State.holdsLine, hdie, hline]

/-- Bytes inside one line are one piece. -/
theorem pieces_single {a n : Nat} (hn : 0 < n) (hfit : a % 256 + n ≤ 256) : pieces a n = [(a, n)] := by
  have hmin : min n (256 - a % 256) = n := by omega
  have hrest (m : Nat) : linePieces (m + 1) (a + n) (n - n) = [] := by rw [linePieces, if_pos (Nat.sub_self n)]
  show linePieces (n / 256 + 1 + 1) a n = _
  rw [linePieces, if_neg (by omega), hmin]
  exact congrArg ((a, n) :: ·) (hrest _)

theorem lineParts64_single {a n : Nat} (hn : 0 < n) (hfit : a % 64 + n ≤ 64) : lineParts64 (n / 64 + 2) a n = [(a, n)] := by
  have hmin : min n (64 - a % 64) = n := by omega
  have hrest (m : Nat) : lineParts64 (m + 1) (a + n) (n - n) = [] := by rw [lineParts64, if_pos (Nat.sub_self n)]
  show lineParts64 (n / 64 + 1 + 1) a n = _
  rw [lineParts64, if_neg (by omega), hmin]
  exact congrArg ((a, n) :: ·) (hrest _)

theorem Die.updLine_holds (d : Die) (line : Nat) {f : DcLine → DcLine} (hf : ∀ x, (f x).line = x.line) :
    (d.updLine line f).holds line = (d.holds line).map f :=
  find?_updFirst_same (fun x => by rw [hf]) d.lines

/-- A held line is found, and stays held (R186). -/
theorem Die.lookup_held {d : Die} {a : Nat} (h : d.holds (lineOf a) ≠ none) (offer : Bool) (fn hint : Nat) :
    ∃ d1, d.lookup offer a fn hint = .here d1 ∧ d1.holds (lineOf a) ≠ none := by
  obtain ⟨l, hl⟩ := Option.ne_none_iff_exists'.mp h
  refine ⟨_, by rw [Die.lookup, hl], ?_⟩
  split
  · exact h
  · split
    · rw [Die.updLine_holds]
      · exact fun hnone => h (Option.map_eq_none_iff.mp hnone)
      · exact fun _ => rfl
    · exact h

theorem State.updCache_die (s : State) (a fn : Nat) (f : Die → Die) : (s.updCache a fn f).die (dieOf a) = f (s.die (dieOf a)) := by
  have hcount (l : List DcLine) (t : State) : (l.foldl (fun s x => s.countFunc x.tenant 0x20 1) t).dies = t.dies := by
    induction l generalizing t with
    | nil => rfl
    | cons x l ih => exact ih _
  rw [State.updCache, State.die, hcount]
  exact State.die_updDie_same ..

theorem State.countLine_die (s : State) (e : Engine) (spa event d : Nat) : (s.countLine e spa event).die d = s.die d := by
  cases e <;> rfl

/-- The line of an address has come for an engine's access, or its die cache holds it (R186, R189). -/
def State.lineHere (s : State) (e : Engine) (a : Nat) : Prop := s.hasArrived e (.stack (a / 256 * 256)) = true ∨ s.holdsLine a

theorem State.askLine_here {s : State} {e : Engine} {a : Nat} (h : s.lineHere e a) (fn hint : Nat) :
    (s.askLine e fn hint a).1 = true ∧ (s.holdsLine a → (s.askLine e fn hint a).2.holdsLine a) := by
  unfold State.askLine
  split
  · exact ⟨rfl, id⟩
  · next harrived =>
    obtain ⟨d1, hd, hheld⟩ := Die.lookup_held (h.resolve_left harrived) s.mod.evict fn hint
    rw [hd]
    refine ⟨rfl, fun _ => ?_⟩
    rw [State.holdsLine, State.countLine_die, State.updCache_die]
    exact hheld

/-- A read inside one line that is here does not wait, and gives the bytes of memory. -/
theorem State.readLoc_stack {s : State} {ag : Agent} {a n : Nat} (hn : 0 < n) (hfit : a % 256 + n ≤ 256)
    (hhere : s.lineHere ag.engine a) (hpoison : s.poison.contains (a / 256) = false) (va : Nat) :
    ∃ t, Looked s t ∧ (s.holdsLine a → t.holdsLine a) ∧
      s.readLoc ag va (.stack a) n = .ok (Memory.readBytes s.mem a n) t := by
  obtain ⟨hasked, hheld⟩ := s.askLine_here hhere ag.fn ag.hint
  have hlooked := s.askLine_looked ag.engine ag.fn ag.hint a
  have hread : s.stackRead ag.engine ag.fn ag.hint a n = (true, (s.askLine ag.engine ag.fn ag.hint a).2) := by
    simp [State.stackRead, pieces_single hn hfit, hasked]
  have hclean : (s.askLine ag.engine ag.fn ag.hint a).2.poisonedIn a n = none := by
    rw [State.poisonedIn, pieces_single hn hfit, hlooked.poison]
    simpa using hpoison
  refine ⟨_, hlooked, hheld, ?_⟩
  simp only [State.readLoc, hread, hclean, Bool.not_true, Bool.false_eq_true, if_false, hlooked.mem]

theorem Memory.readBytes_eq_range (m : Memory) (a n : Nat) :
    Memory.readBytes m a n = (List.range n).map (fun i => Memory.read m (a + i)) := by
  induction n generalizing a with
  | zero => rfl
  | succ n ih =>
    rw [Memory.readBytes, ih, List.range_succ_eq_map, List.map_cons, List.map_map]
    congr 1
    refine List.map_congr_left fun i _ => ?_
    rw [Function.comp_apply, Nat.add_right_comm, Nat.add_assoc]

theorem Memory.readBytes_drop (m : Memory) (a i n : Nat) : (Memory.readBytes m a (i + n)).drop i = Memory.readBytes m (a + i) n := by
  induction i generalizing a with
  | zero => simp
  | succ i ih => rw [Nat.add_right_comm, Memory.readBytes, List.drop_succ_cons, ih, Nat.add_assoc, Nat.add_comm 1]

theorem Memory.readBytes_take {i n : Nat} (h : i ≤ n) (m : Memory) (a : Nat) :
    (Memory.readBytes m a n).take i = Memory.readBytes m a i := by
  induction i generalizing a n with
  | zero => rfl
  | succ i ih =>
    obtain ⟨n, rfl⟩ := Nat.exists_eq_succ_of_ne_zero (show n ≠ 0 by omega)
    rw [Memory.readBytes, Memory.readBytes, List.take_succ_cons, ih (by omega)]

/-- A part of the bytes that were read. -/
theorem Memory.readBytes_part {i n l : Nat} (h : i + n ≤ l) (m : Memory) (a : Nat) :
    ((Memory.readBytes m a l).drop i).take n = Memory.readBytes m (a + i) n := by
  obtain ⟨k, rfl⟩ := Nat.exists_eq_add_of_le (show i ≤ l by omega)
  rw [Memory.readBytes_drop, Memory.readBytes_take (by omega)]

/-- The byte of an L1 line, else of memory: what a core sees of stack memory without its store buffer (R159). -/
def State.l1Byte (s : State) (key a : Nat) : Byte :=
  match (s.core key).l1.find? (fun x => x.line == .stack (a / 64 * 64)) with
  | some x => x.data.extractLsb' (8 * (a % 64)) 8
  | none => Memory.read s.mem a

/-- A line that a read has brought into the L1 (R159, R377). -/
def State.l1Filled (s : State) (key : Nat) (x : L1Line) (j : Nat) : State :=
  { s.updCore key (fun c => (c.l1Fill s.free x).countEvent 8 (some j) 1) with free := s.free + 1 }

theorem State.l1Filled_sameBut (s : State) (key : Nat) (x : L1Line) (j : Nat) : SameBut Core.sansL1 s (s.l1Filled key x j) := by
  have hview (k : Core) : ((k.l1Fill s.free x).countEvent 8 (some j) 1).sansL1 = k.sansL1 := by
    rw [Core.countEvent_eq]
    rfl
  exact State.updCoreFree_sameBut (f := fun c => (c.l1Fill s.free x).countEvent 8 (some j) 1) (hview _) _

/-- A read through the L1 of bytes of one line that is at hand (R159). -/
theorem State.l1Read_line {s : State} {ag : Agent} {a n : Nat} (hfit : a % 64 + n ≤ 64) (key : Nat)
    (hhand : (∃ x ∈ (s.core key).l1, x.line = .stack (a / 64 * 64)) ∨
      (s.lineHere ag.engine a ∧ s.poison.contains (a / 256) = false)) :
    ∃ t, SameBut Core.sansL1 s t ∧ s.l1Read ag key a n = .ok ((List.range n).map (fun i => s.l1Byte key (a + i))) t := by
  have hplace {i : Nat} (hi : i < n) : (a + i) / 64 = a / 64 ∧ (a + i) % 64 = a % 64 + i := by omega
  cases hfind : (s.core key).l1.find? (fun x => x.line == .stack (a / 64 * 64)) with
  | some x =>
    refine ⟨s, .refl s, ?_⟩
    simp only [State.l1Read, hfind]
    refine congrArg (fun l => Acc.ok l s) (List.map_congr_left fun i hi => ?_)
    obtain ⟨hline, hoff⟩ := hplace (List.mem_range.mp hi)
    rw [State.l1Byte, hline, hfind, hoff]
  | none =>
    obtain ⟨hhere, hpoison⟩ := hhand.resolve_left fun ⟨x, hx, hline⟩ => by simpa [hline] using List.find?_eq_none.mp hfind x hx
    have hsame : a / 64 * 64 / 256 = a / 256 := by omega
    have hhere' : s.lineHere ag.engine (a / 64 * 64) := by
      rw [State.lineHere, hsame, State.holdsLine_congr hsame]
      exact hhere
    obtain ⟨t, ht, -, hread⟩ := State.readLoc_stack (n := 64) (by decide) (by omega) hhere' (hsame.symm ▸ hpoison) 0
    have hfill : s.l1Read ag key a n = .ok (((Memory.readBytes s.mem (a / 64 * 64) 64).drop (a % 64)).take n)
        (t.l1Filled key ⟨.stack (a / 64 * 64), BitVec.ofNat 512 (leNat (Memory.readBytes s.mem (a / 64 * 64) 64))⟩
          ((ag.who.map (fun w => w.2)).getD 0)) := by
      simp only [State.l1Read, hfind, hread, Acc.bind]
      rfl
    refine ⟨_, ht.sansL1.trans (t.l1Filled_sameBut _ _ _), hfill.trans (congrArg (fun l => Acc.ok l _) ?_)⟩
    have hbytes : ((Memory.readBytes s.mem (a / 64 * 64) 64).drop (a % 64)).take n = Memory.readBytes s.mem a n := by
      rw [Memory.readBytes_part hfit, Nat.div_add_mod']
    rw [hbytes, Memory.readBytes_eq_range]
    refine List.map_congr_left fun i hi => ?_
    obtain ⟨hline, -⟩ := hplace (List.mem_range.mp hi)
    rw [State.l1Byte, hline, hfind]

end Sys2Proof.Machine
end

section
/-! SUPPORT. What a context sees of stack memory (R157, R159), and the end of a scalar access. -/

namespace Sys2Proof.Machine

open Sys2Proof.Claims

/-- A buffered store of context j that covers a byte. -/
def SbEntry.covers (j a : Nat) (e : SbEntry) : Bool := e.ctx == j && e.line == .stack (a / 64 * 64) && e.mask.getLsbD (a % 64)

/-- The byte of a buffered store. -/
def SbEntry.byteAt (e : SbEntry) (a : Nat) : Byte := e.data.extractLsb' (8 * (a % 64)) 8

/-- A byte below the buffered stores of context j. -/
def sbByte (sb : List SbEntry) (j a : Nat) (b : Byte) : Byte := ((sb.find? (SbEntry.covers j a)).map (fun e => e.byteAt a)).getD b

theorem seenByte_eq (s : State) (c : CtxRef) (a : Nat) :
    SeenByte s c a = sbByte (s.core c.key).sb c.idx a (s.l1Byte c.key a) := by
  rw [SeenByte, sbByte, show SbEntry.covers c.idx a = fun e : SbEntry => e.ctx == c.idx && e.line == .stack (a / 64 * 64) &&
    e.mask.getLsbD (a % 64) from rfl]
  cases (s.core c.key).sb.find? (fun e => e.ctx == c.idx && e.line == .stack (a / 64 * 64) && e.mask.getLsbD (a % 64)) <;> rfl

theorem overlaySb_range (sb : List SbEntry) (j a n : Nat) (g : Nat → Byte) :
    overlaySb sb j (.stack a) ((List.range n).map g) = (List.range n).map (fun i => sbByte sb j (a + i) (g i)) := by
  refine List.ext_getElem (by simp [overlaySb]) fun i _ hi => ?_
  simp only [overlaySb, List.getElem_map, List.getElem_zipIdx, List.getElem_range, Nat.zero_add]
  rw [sbByte, show SbEntry.covers j (a + i) = fun e : SbEntry => e.ctx == j && e.line == ((Loc.stack a).add i).line64 &&
    e.mask.getLsbD (((Loc.stack a).add i).addr % 64) from rfl]
  cases sb.find? (fun e => e.ctx == j && e.line == ((Loc.stack a).add i).line64 &&
    e.mask.getLsbD (((Loc.stack a).add i).addr % 64)) <;> rfl

/-- A read of bytes of one line that is at hand gives what the context sees (R157, R159). -/
theorem State.coreRead_line {s : State} {c : CtxRef} {ag : Agent} (hag : ag.engine = .ctx c) {a n : Nat} (hn : 0 < n)
    (hfit : a % 64 + n ≤ 64) (hhand : AtHand s c a) (va : Nat) :
    ∃ t, SameBut Core.sansL1 s t ∧
      s.coreRead ag c.key c.idx va (.stack a) n = .ok ((List.range n).map (fun i => SeenByte s c (a + i))) t := by
  have hhere : (∃ x ∈ (s.core c.key).l1, x.line = .stack (a / 64 * 64)) ∨
      (s.lineHere ag.engine a ∧ s.poison.contains (a / 256) = false) := by
    rw [hag]
    obtain hl1 | ⟨hheld, hclean⟩ | ⟨harrived, hclean⟩ := hhand
    · exact .inl hl1
    · exact .inr ⟨.inr hheld, hclean⟩
    · exact .inr ⟨.inl harrived, hclean⟩
  obtain ⟨t, ht, hread⟩ := State.l1Read_line hfit c.key hhere
  refine ⟨t, ht, ?_⟩
  simp only [State.coreRead, lineParts64_single hn hfit, accCollect, hread, Acc.bind, List.append_nil, ht.sb, overlaySb_range,
    seenByte_eq]

/-- A translation leaves what the context sees. -/
theorem Looked.seenByte {s t : State} (h : Looked s t) (c : CtxRef) (a : Nat) : SeenByte t c a = SeenByte s c a := by
  rw [seenByte_eq, seenByte_eq, State.l1Byte, State.l1Byte, h.sansL1.sb, h.l1, h.mem]

end Sys2Proof.Machine

namespace Sys2Proof.Claims

open Sys2Proof.Machine

/-- An access that no check stops goes to the located bytes (R148, R157). -/
theorem StackAccess.ordered {s u : State} {c : CtxRef} {a : Word} {n : Nat} {acc : Access} {spa : Nat}
    (h : StackAccess s c a n acc spa u) :
    scalarAddr a n = none ∧ s.locateOrdered (s.ctxAgent c) (s.ctxOf c) a.toNat n acc = .ok (.stack spa) u ∧ Looked s u := by
  obtain ⟨haligned, hlow, hlocate, hfree⟩ := h
  refine ⟨?_, ?_, ?_⟩
  · have hgood : vaBad a = false := decide_eq_false (by omega)
    simp [scalarAddr, haligned, hgood]
  · simp [State.locateOrdered, hlocate, Acc.bind, hfree]
  · have hlooked := s.locate_looked (s.ctxAgent c) a.toNat acc
    rwa [hlocate] at hlooked

/-- An aligned access of at most 8 bytes lies in one line of 64. -/
theorem StackAccess.fits {s u : State} {c : CtxRef} {a : Word} {n : Nat} {acc : Access} {spa : Nat}
    (h : StackAccess s c a n acc spa u) (hn : n = 1 ∨ n = 2 ∨ n = 4 ∨ n = 8) : spa % 64 + n ≤ 64 := by
  obtain ⟨haligned, -, hlocate, -⟩ := h
  have hplace := State.locate_stack hlocate
  rcases hn with rfl | rfl | rfl | rfl <;> omega

/-- A commit of registers, after an access that changed only caches. -/
theorem commit_onlyRegs {s t : State} {c : CtxRef} (h : SameBut Core.sansSb s t) {f : Ctx → Ctx}
    (hf : f (atNext s c) = { atNext s c with x := (f (atNext s c)).x, f := (f (atNext s c)).f }) :
    OnlyRegs s (t.commit c f) c ∧ (t.commit c f).ctxOf c = { f (atNext s c) with retired := (s.ctxOf c).retired + 1 } := by
  have hnext : atNext t c = atNext s c := by rw [atNext, nextPc, h.ctxOf]; rfl
  have hretired : (f (atNext s c)).retired = (s.ctxOf c).retired := by rw [hf]; rfl
  have hctx : (t.commit c f).ctxOf c = { f (atNext s c) with retired := (s.ctxOf c).retired + 1 } := by
    rw [commit_ctxOf_of (by rw [hnext]), hretired]
  obtain ⟨-, hmem, hcores, -, hctxs⟩ := State.commit_onlyCtx t c f
  refine ⟨⟨?_, fun k j hkj => ?_, fun a => ?_, ?_, ?_⟩, hctx⟩
  · rw [hctx, hf]
    rfl
  · by_cases hk : k = c.key
    · subst hk
      exact (hctxs j (hkj.resolve_left fun hne => hne rfl)).trans (h.ctx _ _)
    · rw [State.ctx, hcores k hk]
      exact h.ctx k j
  · rw [hmem, h.mem]
  · rw [State.commit_eq]
    exact h.cmds
  · rw [State.commit_eq]
    exact h.queues

/-- The end of an access forgets only what the die keeps for it. -/
theorem ctxDone_sameBut {view : Core → Core} (s : State) (c : CtxRef) : SameBut view s (s.ctxDone c) := by
  rw [State.ctxDone_eq]
  exact .of_cores rfl rfl

/-- The FUNCT3 of a load gives 1, 2, 4 or 8 bytes (R148). -/
theorem loadBytes_cases (f3 : Nat) : loadBytes f3 = 1 ∨ loadBytes f3 = 2 ∨ loadBytes f3 = 4 ∨ loadBytes f3 = 8 := by
  unfold loadBytes
  split <;> decide

/-- A load of bytes of a line at hand commits with the value that the context sees (R148, R157). -/
theorem loadInstr_line {s u : State} {c : CtxRef} {a : Word} {n spa : Nat} (h : StackAccess s c a n .read spa u)
    (hn : n = 1 ∨ n = 2 ∨ n = 4 ∨ n = 8) (hhand : AtHand u c spa) (f : Nat → Ctx → Ctx) :
    ∃ t, SameBut Core.sansL1 s t ∧
      s.loadInstr c a n f = t.commit c (f (leNat ((List.range n).map (fun i => SeenByte s c (spa + i))))) := by
  obtain ⟨haddr, hordered, hlooked⟩ := h.ordered
  obtain ⟨t, ht, hread⟩ := State.coreRead_line (ag := s.ctxAgent c) rfl (by omega) (h.fits hn) hhand a.toNat
  refine ⟨t.ctxDone c, (hlooked.sansL1.trans ht).trans (ctxDone_sameBut t c), ?_⟩
  simp only [State.loadInstr, haddr, State.scalarRead, hordered, Acc.bind, hread, State.accEnd, hlooked.seenByte]

/-- Settles O14: the line at hand gives what the context sees (`loadInstr_line`), and the commit writes one register. -/
theorem loadsComplete : Obligations.LoadsComplete := by
  unfold Obligations.LoadsComplete
  intro s u c w spa hhand a value
  refine ⟨fun hi h => ?load, fun hi h => ?ldf⟩
  case load =>
    obtain ⟨t, ht, hload⟩ := loadInstr_line h (loadBytes_cases _) hhand (fun v x => x.wx (wRd w) (loadExt (wF3 w) v))
    have hexec : exec (.load c w) s = .next _ := (exec_load c w s).trans ((hi.issue_next _).trans (congrArg _ hload))
    obtain ⟨honly, hctx⟩ := commit_onlyRegs (f := fun x => x.wx (wRd w) (loadExt (wF3 w) (value (loadBytes (wF3 w))))) ht.sansSb
      (by rw [Ctx.wx_eq])
    refine ⟨_, hexec, honly, ?_, fun r => ?_⟩
    · rw [hctx, Ctx.wx_eq]
      rfl
    · rw [hctx]
      exact (atNext s c).rx_wx_read _ _ r
  case ldf =>
    obtain ⟨t, ht, hload⟩ := loadInstr_line h (by decide) hhand (fun v x => x.wf (wRd w) (BitVec.ofNat 64 v))
    have hexec : exec (.ldf c w) s = .next _ := (exec_ldf c w s).trans ((hi.issue_next _).trans (congrArg _ hload))
    obtain ⟨honly, hctx⟩ := commit_onlyRegs (f := fun x => x.wf (wRd w) (BitVec.ofNat 64 (value 8))) ht.sansSb rfl
    refine ⟨_, hexec, honly, ?_, fun r => ?_⟩
    · rw [hctx]
      rfl
    · rw [hctx]
      exact (Ctx.rf_wf (atNext s c) _ r _).trans (if_congr eq_comm rfl rfl)

end Sys2Proof.Claims
end

section
/-! SUPPORT. The bytes of a line of the store buffer (R159). -/

namespace Sys2Proof.Machine

/-- The bits of a vector after a field is replaced. -/
theorem ins_bit {n lo len : Nat} (h : lo + len ≤ n) (v : BitVec n) (val i : Nat) :
    (ins v lo len val).getLsbD i = if lo ≤ i ∧ i < lo + len then val.testBit (i - lo) else v.getLsbD i := by
  by_cases hn : i < n
  · have hsub : i - lo < n := by omega
    simp only [ins, BitVec.getLsbD_or, BitVec.getLsbD_and, BitVec.getLsbD_not, BitVec.getLsbD_shiftLeft, BitVec.getLsbD_ofNat,
      Nat.testBit_two_pow_sub_one, Nat.testBit_mod_two_pow, hn, hsub, decide_true, Bool.true_and]
    by_cases hlo : i < lo
    · simp [hlo]
    · by_cases hlen : i < lo + len
      · simp [hlo, hlen, show lo ≤ i by omega, show i - lo < len by omega]
      · simp [hlo, hlen, show ¬ i - lo < len by omega]
  · rw [if_neg (by omega), BitVec.getLsbD_of_ge _ _ (by omega), BitVec.getLsbD_of_ge _ _ (by omega)]

/-- A byte of a vector after one of its bytes is replaced. -/
theorem byte_ins {n : Nat} (v : BitVec n) {j : Nat} (hj : 8 * j + 8 ≤ n) (val k : Nat) :
    (ins v (8 * j) 8 val).extractLsb' (8 * k) 8 = if k = j then BitVec.ofNat 8 val else v.extractLsb' (8 * k) 8 := by
  refine BitVec.eq_of_getLsbD_eq fun i hi => ?_
  rw [BitVec.getLsbD_extractLsb', decide_eq_true hi, Bool.true_and, ins_bit hj]
  split
  · next hin => rw [if_pos (by omega), BitVec.getLsbD_ofNat, decide_eq_true hi, Bool.true_and, show 8 * k + i - 8 * j = i by omega]
  · next hout => rw [if_neg (by omega), BitVec.getLsbD_extractLsb', decide_eq_true hi, Bool.true_and]

/-- A line of 64 bytes after some of them are replaced. -/
theorem putLineBytes_byte {d : BitVec 512} {off : Nat} {bs : List Byte} (h : off + bs.length ≤ 64) (k : Nat) :
    (putLineBytes d off bs).extractLsb' (8 * k) 8 =
      if off ≤ k ∧ k < off + bs.length then bs.getD (k - off) 0 else d.extractLsb' (8 * k) 8 := by
  suffices hfold : ∀ (bs : List Byte) (i : Nat) (d : BitVec 512), off + i + bs.length ≤ 64 →
      ((bs.zipIdx i).foldl (fun d p => ins d (8 * (off + p.2)) 8 p.1.toNat) d).extractLsb' (8 * k) 8 =
        if off + i ≤ k ∧ k < off + i + bs.length then bs.getD (k - (off + i)) 0 else d.extractLsb' (8 * k) 8 from
    hfold bs 0 d h
  intro bs
  induction bs with
  | nil =>
    intro i d _
    rw [if_neg (by simp only [List.length_nil]; omega)]
    rfl
  | cons b bs ih =>
    intro i d hfit
    rw [List.length_cons] at hfit ⊢
    rw [List.zipIdx_cons, List.foldl_cons, ih (i + 1) _ (by omega), byte_ins d (by omega)]
    obtain hk | hk | hk : k < off + i ∨ k = off + i ∨ off + i < k := by omega
    · rw [if_neg (by omega), if_neg (by omega), if_neg (by omega)]
    · subst hk
      rw [if_neg (by omega), if_pos rfl, if_pos (by omega), Nat.sub_self]
      simp
    · by_cases hend : k < off + i + (bs.length + 1)
      · rw [if_pos (by omega), if_pos (by omega), show k - (off + i) = k - (off + (i + 1)) + 1 by omega, List.getD_cons_succ]
      · rw [if_neg (by omega), if_neg (by omega), if_neg (by omega)]

/-- What is found after the first element that `p` picks has changed, when the change hides and alters nothing for `q`. -/
theorem find?_updFirst_map {α β : Type} {p q : α → Bool} {f : α → α} {g : α → β}
    (h : ∀ x, p x = true → q (f x) = q x ∧ (q x = true → g (f x) = g x)) (l : List α) :
    ((updFirst p f l).find? q).map g = (l.find? q).map g := by
  induction l with
  | nil => rfl
  | cons x l ih =>
    by_cases hp : p x = true
    · obtain ⟨hq, hg⟩ := h x hp
      rw [updFirst, if_pos hp, List.find?_cons, List.find?_cons, hq]
      cases hx : q x with
      | true => exact congrArg some (hg hx)
      | false => rfl
    · rw [updFirst, if_neg hp, List.find?_cons, List.find?_cons]
      cases q x with
      | true => rfl
      | false => exact ih

/-- The changed element is what is found, when `q` picks it and nothing that `p` does not. -/
theorem find?_updFirst_some {α : Type} {p q : α → Bool} {f : α → α} (hf : ∀ x, p x = true → q (f x) = true)
    (hq : ∀ x, q x = true → p x = true) {l : List α} (hany : l.any p = true) : ∃ x, (updFirst p f l).find? q = some (f x) := by
  induction l with
  | nil => exact nomatch hany
  | cons x l ih =>
    by_cases hp : p x = true
    · exact ⟨x, by rw [updFirst, if_pos hp, List.find?_cons, hf x hp]⟩
    · have hrest : l.any p = true := by simpa [hp] using hany
      have hnone : q x = false := by
        cases hx : q x with
        | true => exact absurd (hq x hx) hp
        | false => rfl
      obtain ⟨y, hy⟩ := ih hrest
      exact ⟨y, by rw [updFirst, if_neg hp, List.find?_cons, hnone]; exact hy⟩

end Sys2Proof.Machine
end

section
/-! SUPPORT. A store into the store buffer (R159). -/

namespace Sys2Proof.Machine

open Sys2Proof.Claims

/-- An entry of context j for the line of an address. -/
def SbEntry.ofLine (j a : Nat) (e : SbEntry) : Bool := e.ctx == j && e.line == .stack (a / 64 * 64)

/-- The mask of n bytes from an address on. -/
def sbMask (a n : Nat) : BitVec 64 := BitVec.ofNat 64 ((2 ^ n - 1) * 2 ^ (a % 64))

/-- An entry that takes more bytes. -/
def SbEntry.merge (e : SbEntry) (a : Nat) (bs : List Byte) : SbEntry :=
  { e with mask := e.mask ||| sbMask a bs.length, data := putLineBytes e.data (a % 64) bs }

/-- A new entry of context j with some bytes. -/
def sbNew (j va a : Nat) (bs : List Byte) : SbEntry :=
  { ctx := j, line := .stack (a / 64 * 64), va := va / 64 * 64, mask := sbMask a bs.length, data := putLineBytes 0 (a % 64) bs }

theorem sbNew_ofLine (j va a : Nat) (bs : List Byte) : SbEntry.ofLine j a (sbNew j va a bs) = true := by
  simp [SbEntry.ofLine, sbNew]

/-- A store buffer after a store: merged into the context's entry of the line, else a new entry (R159). -/
def sbPut (sb : List SbEntry) (j va a : Nat) (bs : List Byte) : List SbEntry :=
  if sb.any (SbEntry.ofLine j a) then updFirst (SbEntry.ofLine j a) (fun e => e.merge a bs) sb
  else sb ++ [sbNew j va a bs]

/-- With room in the buffer a store only goes into it. -/
theorem State.bufferStore_room {s : State} {key : Nat} (h : (s.core key).sb.length < 16) (j va a : Nat) (bs : List Byte) :
    s.bufferStore key j va (.stack a) bs = .ok () (s.updCore key (fun k => { k with sb := sbPut (s.core key).sb j va a bs })) := by
  by_cases hany : (s.core key).sb.any (SbEntry.ofLine j a) = true
  · rw [sbPut, if_pos hany]
    unfold State.bufferStore
    exact if_pos hany
  · rw [sbPut, if_neg hany]
    unfold State.bufferStore
    refine (if_neg hany).trans ?_
    dsimp only
    split
    · rw [if_pos h]
      rfl
    · next hsb =>
      rw [hsb]
      rfl

theorem sbMask_bit {a n i : Nat} (h : i < 64) : (sbMask a n).getLsbD i = decide (a % 64 ≤ i ∧ i < a % 64 + n) :=
  onesFrom_bit h n (a % 64)

/-- What context j sees of a store buffer after a store of its own. -/
theorem sbPut_byte {a : Nat} {bs : List Byte} (hfit : a % 64 + bs.length ≤ 64) (sb : List SbEntry) (j va b : Nat) (g : Byte) :
    sbByte (sbPut sb j va a bs) j b g = if a ≤ b ∧ b < a + bs.length then bs.getD (b - a) 0 else sbByte sb j b g := by
  have hcovers (e : SbEntry) (hline : b / 64 = a / 64) : SbEntry.covers j b e = (SbEntry.ofLine j a e && e.mask.getLsbD (b % 64)) := by
    rw [SbEntry.covers, SbEntry.ofLine, hline]
  have hother (e : SbEntry) (hline : b / 64 ≠ a / 64) (he : SbEntry.ofLine j a e = true) : SbEntry.covers j b e = false := by
    obtain ⟨-, hl⟩ := Bool.and_eq_true_iff.mp he
    have hne : (e.line == .stack (b / 64 * 64)) = false := by
      rw [eq_of_beq hl]
      exact beq_eq_false_iff_ne.mpr fun heq => hline (by have := Loc.stack.inj heq; omega)
    rw [SbEntry.covers, hne, Bool.and_false, Bool.false_and]
  have hmask (n : Nat) : (sbMask a n).getLsbD (b % 64) = decide (a % 64 ≤ b % 64 ∧ b % 64 < a % 64 + n) :=
    sbMask_bit (Nat.mod_lt _ (by decide))
  by_cases hin : a ≤ b ∧ b < a + bs.length
  · have hline : b / 64 = a / 64 := by omega
    have hstored (d : BitVec 512) : (putLineBytes d (a % 64) bs).extractLsb' (8 * (b % 64)) 8 = bs.getD (b - a) 0 := by
      rw [putLineBytes_byte hfit, if_pos (by omega), show b % 64 - a % 64 = b - a by omega]
    have hbit : (sbMask a bs.length).getLsbD (b % 64) = true := (hmask _).trans (decide_eq_true (by omega))
    have hq (e : SbEntry) (he : SbEntry.covers j b e = true) : SbEntry.ofLine j a e = true := by
      rw [hcovers e hline] at he
      exact (Bool.and_eq_true_iff.mp he).1
    rw [if_pos hin, sbByte, sbPut]
    split
    · next hany =>
      have hf (e : SbEntry) (he : SbEntry.ofLine j a e = true) : SbEntry.covers j b (e.merge a bs) = true := by
        rw [hcovers _ hline, show SbEntry.ofLine j a (e.merge a bs) = true from he, SbEntry.merge, BitVec.getLsbD_or, hbit,
          Bool.or_true, Bool.and_true]
      obtain ⟨e, he⟩ := find?_updFirst_some hf hq hany
      rw [he]
      exact hstored _
    · next hany =>
      have hnone : sb.find? (SbEntry.covers j b) = none := List.find?_eq_none.mpr fun e he hce =>
        hany (List.any_eq_true.mpr ⟨e, he, hq e hce⟩)
      have hnew : SbEntry.covers j b (sbNew j va a bs) = true := by
        rw [hcovers _ hline, sbNew_ofLine, Bool.true_and]
        exact hbit
      rw [List.find?_append, hnone, Option.none_or, List.find?_cons, hnew]
      exact hstored _
  · have hmerge (e : SbEntry) (he : SbEntry.ofLine j a e = true) : SbEntry.covers j b (e.merge a bs) = SbEntry.covers j b e ∧
        (SbEntry.covers j b e = true → (e.merge a bs).byteAt b = e.byteAt b) := by
      by_cases hline : b / 64 = a / 64
      · have hbit : (sbMask a bs.length).getLsbD (b % 64) = false := (hmask _).trans (decide_eq_false (by omega))
        refine ⟨?_, fun _ => ?_⟩
        · rw [hcovers _ hline, hcovers _ hline, SbEntry.merge, BitVec.getLsbD_or, hbit, Bool.or_false]
          rfl
        · rw [SbEntry.byteAt, SbEntry.merge, putLineBytes_byte hfit, if_neg (by omega)]
          rfl
      · rw [hother e hline he, hother (e.merge a bs) hline he]
        exact ⟨rfl, fun h => nomatch h⟩
    have hnew : SbEntry.covers j b (sbNew j va a bs) = false := by
      by_cases hline : b / 64 = a / 64
      · rw [hcovers _ hline, sbNew, hmask, decide_eq_false (by omega), Bool.and_false]
      · exact hother _ hline (sbNew_ofLine ..)
    rw [if_neg hin, sbByte, sbByte, sbPut]
    split
    · rw [find?_updFirst_map hmerge]
    · rw [List.find?_append, List.find?_cons, hnew, List.find?_nil, Option.or_none]

end Sys2Proof.Machine
end

section
/-! SUPPORT. Stores of a context (R148, R159). -/

namespace Sys2Proof.Machine

/-- Byte i of a number's bytes. -/
theorem leBytes_getD {i n : Nat} (h : i < n) (v : Nat) : (leBytes n v).getD i 0 = BitVec.ofNat 8 (v / 2 ^ (8 * i)) := by
  induction i generalizing n v with
  | zero =>
    obtain ⟨n, rfl⟩ := Nat.exists_eq_succ_of_ne_zero (show n ≠ 0 by omega)
    simp [leBytes]
  | succ i ih =>
    obtain ⟨n, rfl⟩ := Nat.exists_eq_succ_of_ne_zero (show n ≠ 0 by omega)
    rw [leBytes, List.getD_cons_succ, ih (by omega), Nat.div_div_eq_div_mul, Nat.mul_succ, Nat.add_comm, Nat.pow_add]

/-- A core with another store buffer. -/
def State.withSb (s : State) (key : Nat) (sb : List SbEntry) : State := s.updCore key (fun k => { k with sb := sb })

theorem State.withSb_sameBut (s : State) (key : Nat) (sb : List SbEntry) : SameBut Core.sansSb s (s.withSb key sb) :=
  State.updCore_sameBut rfl

end Sys2Proof.Machine

namespace Sys2Proof.Claims

open Sys2Proof.Machine

/-- A store with room in the buffer goes into the buffer and commits (R148, R159). -/
theorem storeInstr_line {s u : State} {c : CtxRef} {a : Word} {n spa : Nat} (h : StackAccess s c a n .write spa u)
    (hroom : (s.core c.key).sb.length < 16) (v : Word) :
    s.storeInstr c a v n = ((u.withSb c.key (sbPut (s.core c.key).sb c.idx a.toNat spa (leBytes n v.toNat))).ctxDone c).commit c id := by
  obtain ⟨haddr, hordered, hlooked⟩ := h.ordered
  rw [← hlooked.sansL1.sb] at hroom ⊢
  simp only [State.storeInstr, haddr, State.scalarWrite, leBytes_length, hordered, Acc.bind, State.bufferStore_room hroom, State.accEnd]
  rfl

/-- What a context sees after its store has committed. -/
theorem seenByte_withSb (u : State) (c : CtxRef) (sb : List SbEntry) (b : Nat) :
    SeenByte (((u.withSb c.key sb).ctxDone c).commit c id) c b = sbByte sb c.idx b (u.l1Byte c.key b) := by
  rw [seenByte_eq, State.l1Byte, State.commit_core, State.ctxDone_core, State.withSb, State.core_updCore_same, State.commit_eq,
    State.ctxDone_eq]
  rfl

/-- A store of the low bytes of a value (R148, R159). -/
theorem runs_store {i : Instr} {s u : State} {c : CtxRef} {a v : Word} {n spa : Nat} (h : StackAccess s c a n .write spa u)
    (hn : n = 1 ∨ n = 2 ∨ n = 4 ∨ n = 8) (hroom : (s.core c.key).sb.length < 16) (hi : exec i s = .next (s.storeInstr c a v n)) :
    Runs i s (fun t => OnlyRegs s t c ∧ (t.ctxOf c).x = (s.ctxOf c).x ∧ (t.ctxOf c).f = (s.ctxOf c).f ∧
      ∀ b, SeenByte t c b = if spa ≤ b ∧ b < spa + n then BitVec.ofNat 8 (v.toNat / 2 ^ (8 * (b - spa))) else SeenByte s c b) := by
  have hfit : spa % 64 + (leBytes n v.toNat).length ≤ 64 := by rw [leBytes_length]; exact h.fits hn
  obtain ⟨-, -, hlooked⟩ := h.ordered
  obtain ⟨honly, hctx⟩ := commit_onlyRegs (f := id) ((hlooked.sansL1.sansSb.trans (u.withSb_sameBut c.key
    (sbPut (s.core c.key).sb c.idx a.toNat spa (leBytes n v.toNat)))).trans (ctxDone_sameBut _ c)) rfl
  rw [storeInstr_line h hroom] at hi
  refine ⟨_, hi, honly, by rw [hctx]; rfl, by rw [hctx]; rfl, fun b => ?_⟩
  rw [seenByte_withSb, sbPut_byte hfit, leBytes_length]
  split
  · next hin => exact leBytes_getD (by omega) _
  · rw [← hlooked.seenByte, seenByte_eq, hlooked.sansL1.sb]

/-- Settles O15: a store goes into the buffer (`storeInstr_line`), and `sbPut_byte` says what the context sees of it. -/
theorem storesComplete : Obligations.StoresComplete := by
  unfold Obligations.StoresComplete
  intro s u c w spa a stored hroom
  refine ⟨fun hi h => ?store, fun hi h => ?stf⟩
  case store =>
    have hf3 : wF3 w ≤ 3 := Issues.f3 hi
    have hn : 2 ^ wF3 w = 1 ∨ 2 ^ wF3 w = 2 ∨ 2 ^ wF3 w = 4 ∨ 2 ^ wF3 w = 8 := by
      interval_cases wF3 w <;> decide
    exact runs_store h hn hroom ((exec_store c w s).trans (hi.issue_next _))
  case stf => exact runs_store h (by decide) hroom ((exec_stf c w s).trans (hi.issue_next _))

end Sys2Proof.Claims
end

section
/-! SUPPORT. Fences (R158), and writes at the die cache (R160, R186). -/

namespace Sys2Proof.Machine

theorem SameCores.sameBut {view : Core → Core} {s t : State} (h : SameCores s t) : SameBut view s t := by
  obtain ⟨ht, hcores⟩ := h
  refine ⟨?_, fun k => by rw [hcores]⟩
  rw [ht]
  rfl

/-- A part of a line that its die cache holds is written there without waiting (R186). -/
theorem State.stackWrite_held {s : State} {a n : Nat} (hn : 0 < n) (hpart : n < 256) (hfit : a % 256 + n ≤ 256) (h : s.holdsLine a)
    (fn hint : Nat) : ∃ t, s.stackWrite a n fn hint = some t ∧ Looked s t := by
  obtain ⟨l, hl⟩ := Option.ne_none_iff_exists'.mp h
  obtain ⟨d, hd⟩ : ∃ d, (s.die (dieOf a)).writeLine s.mod.evict a n fn hint = some d := by
    simp [Die.writeLine, hl, show ¬ 256 ≤ n by omega]
  have hlooked : Looked s ((s.updCache a fn (fun _ => d)).wroteLine a n) := by
    rw [State.wroteLine, if_neg (by omega)]
    exact s.updCache_looked _ _ _
  exact ⟨_, by simp [State.stackWrite, pieces_single hn hfit, hd], hlooked⟩

/-- A core after its store at the die cache, and the memory that the store leaves. -/
def State.atomicDone (s : State) (key a : Nat) (v : Word) : State :=
  (s.putMem a (leBytes 8 v.toNat)).updCore key (fun k => k.l1Drop (.stack (a / 64 * 64)))

theorem State.atomicDone_ctx (s : State) (key a : Nat) (v : Word) (k j : Nat) : (s.atomicDone key a v).ctx k j = s.ctx k j := by
  rw [State.ctx, State.atomicDone, State.core_updCore]
  split
  · next hk =>
    subst hk
    rfl
  · rfl

/-- An atomic on a word of a held line (R160). -/
theorem State.atomicAt_held {s : State} {a : Nat} (hfit : a % 256 + 8 ≤ 256) (hheld : s.holdsLine a)
    (hclean : s.poison.contains (a / 256) = false) (ag : Agent) (key va : Nat) (f : Word → Word) :
    let old := BitVec.ofNat 64 (Memory.readLe s.mem a 8)
    ∃ t, Looked s t ∧ s.atomicAt ag key va (.stack a) f = .ok old (t.atomicDone key a (f old)) := by
  obtain ⟨t, ht, hstill, hread⟩ := State.readLoc_stack (ag := ag) (n := 8) (by decide) hfit (.inr hheld) hclean va
  obtain ⟨u, hwrite, hu⟩ := State.stackWrite_held (n := 8) (by decide) (by decide) hfit (hstill hheld) ag.fn ag.hint
  refine ⟨u, ht.trans hu, ?_⟩
  simp only [State.atomicAt, hread, Acc.bind, State.writeLoc, leBytes_length, hwrite]
  rfl

end Sys2Proof.Machine

namespace Sys2Proof.Claims

open Sys2Proof.Machine

/-- The end of a fence: the core's caches as the fence leaves them, and the commit. -/
theorem fence_ends {s u : State} {c : CtxRef} (h : SameCores s u) {act : Core → Core} (hact : ∀ k, (act k).sansSb = k.sansSb) :
    let t := (u.updCore c.key act).commit c id
    (OnlyRegs s t c ∧ (t.ctxOf c).x = (s.ctxOf c).x ∧ (t.ctxOf c).f = (s.ctxOf c).f) ∧
    (t.core c.key).l1 = (act (s.core c.key)).l1 ∧ (t.core c.key).icache = (act (s.core c.key)).icache := by
  obtain ⟨honly, hctx⟩ := commit_onlyRegs (c := c) (f := id) (h.sameBut.trans (State.updCore_sameBut (hact (u.core c.key)))) rfl
  refine ⟨⟨honly, by rw [hctx]; rfl, by rw [hctx]; rfl⟩, ?_⟩
  rw [State.commit_core, State.core_updCore_same, h.2]
  exact ⟨rfl, rfl⟩

/-- What a fence needs of the context's own accesses: they are complete (R158). -/
structure FenceReady (s : State) (c : CtxRef) : Prop where
  vec : (s.ctxOf c).vecStoresDone = true
  stores : ∀ e ∈ (s.core c.key).sb, e.ctx ≠ c.idx

/-- A fence with every earlier access of the context complete (R158). -/
theorem FenceReady.runs {i : Instr} {s : State} {row : Row} {c : CtxRef} {w : Word32} {scope : State → Bool} {act : Core → Core}
    (h : FenceReady s c) (hissues : Issues s row c w) (hi : exec i s = s.issue row c w (fun s => s.fence c scope act))
    (hscope : scope s = true) (hact : ∀ k, (act k).sansSb = k.sansSb) :
    Runs i s (fun t => (OnlyRegs s t c ∧ (t.ctxOf c).x = (s.ctxOf c).x ∧ (t.ctxOf c).f = (s.ctxOf c).f) ∧
      (t.core c.key).l1 = (act (s.core c.key)).l1 ∧ (t.core c.key).icache = (act (s.core c.key)).icache) := by
  obtain ⟨u, hu, hdrain⟩ := State.drainCtx_none h.stores (s.ctxAgent c)
  have hfence : s.fence c scope act = (u.updCore c.key act).commit c id := by
    simp only [State.fence, h.vec, hscope, hdrain, State.accEnd, Bool.and_self, Bool.not_true, Bool.false_eq_true, if_false]
  exact ⟨_, hi.trans ((hissues.issue_next _).trans (congrArg _ hfence)), fence_ends hu hact⟩

/-- fence.sys waits for its messages after its stores have gone out (R158). -/
theorem FenceReady.runs_sys {s : State} {c : CtxRef} {w : Word32} (h : FenceReady s c) (hissues : Issues s .fenceSys c w)
    (hsys : s.sysDone c = true) :
    Runs (.fenceSys c w) s (fun t => (OnlyRegs s t c ∧ (t.ctxOf c).x = (s.ctxOf c).x ∧ (t.ctxOf c).f = (s.ctxOf c).f) ∧
      (t.core c.key).l1 = []) := by
  obtain ⟨u, hu, hdrain⟩ := State.drainCtx_none h.stores (s.ctxAgent c)
  have hdone : u.sysDone c = true := by
    obtain ⟨hrest, hcores⟩ := hu
    rw [← hsys, State.sysDone, State.sysDone, show u.ctxOf c = s.ctxOf c from congrArg (fun k => k.ctx c.idx) (hcores c.key), hrest]
    rfl
  have hexec : exec (.fenceSys c w) s = .next ((u.updCore c.key Core.l1Clear).commit c id) := by
    refine (exec_fenceSys c w s).trans ((hissues.issue_next _).trans (congrArg _ ?_))
    simp only [h.vec, hdrain, State.accEnd, hdone, Bool.not_true, Bool.false_eq_true, if_false, if_true]
  obtain ⟨hregs, hl1, -⟩ := fence_ends (c := c) (act := Core.l1Clear) hu (fun _ => rfl)
  exact ⟨_, hexec, hregs, hl1⟩

/-- A property that follows from what a command leaves. -/
theorem Runs.mono {i : Instr} {s : State} {P Q : State → Prop} (h : Runs i s P) (hPQ : ∀ t, P t → Q t) : Runs i s Q := by
  obtain ⟨t, hexec, hP⟩ := h
  exact ⟨t, hexec, hPQ t hP⟩

/-- An atomic on a line that its die cache holds, with no store of the context buffered (R160). -/
theorem Issues.atomic_next {s u : State} {c : CtxRef} {w : Word32} {spa : Nat} (hi : Issues s .atomic c w)
    (h : StackAccess s c ((s.ctxOf c).rx (wRs1 w)) 8 .write spa u) (hheld : CacheHas u spa)
    (hsb : ∀ e ∈ (s.core c.key).sb, e.ctx ≠ c.idx) :
    let old := BitVec.ofNat 64 (Memory.readLe s.mem spa 8)
    let new := atomicOp (wF3 w) old ((s.ctxOf c).rx (wRs2 w)) ((s.ctxOf c).rx (wRd w))
    ∃ t, Looked s t ∧ exec (.atomic c w) s =
      .next (((t.atomicDone c.key spa new).ctxDone c).commit c (fun x => x.wx (wRd w) old)) := by
  intro old new
  have hfit := h.fits (by decide)
  obtain ⟨haddr, hordered, hlooked⟩ := h.ordered
  obtain ⟨hheld, hclean⟩ := hheld
  obtain ⟨v, hv, hdrain⟩ := State.drainCtx_none (s := u) (k := c.key) (j := c.idx) (hlooked.sansL1.sb c.key ▸ hsb) (s.ctxAgent c)
  have hheld' : v.holdsLine spa := by rw [hv.1]; exact hheld
  obtain ⟨t, ht, hatomic⟩ := State.atomicAt_held (by omega) hheld' (by rw [hv.1]; exact hclean) (s.ctxAgent c) c.key
    ((s.ctxOf c).rx (wRs1 w)).toNat (fun old => atomicOp (wF3 w) old ((s.ctxOf c).rx (wRs2 w)) ((s.ctxOf c).rx (wRd w)))
  have hmem : v.mem = s.mem := (hv.sameBut (view := Core.sansTlb)).mem.trans hlooked.mem
  rw [hmem] at hatomic
  refine ⟨t, hlooked.trans (hv.sameBut.trans ht), (exec_atomic c w s).trans ((hi.issue_next _).trans (congrArg _ ?_))⟩
  simp only [haddr, hordered, Acc.bind, hdrain, hatomic, State.accEnd]
  rfl

/-- Settles O16: an atomic is one read and one write of the held line (`State.atomicAt_held`); a fence finds nothing to drain. -/
theorem atomicsAndFencesComplete : Obligations.AtomicsAndFencesComplete := by
  unfold Obligations.AtomicsAndFencesComplete
  refine ⟨fun s u c w spa => ?atomic, fun s c w => ?fences⟩
  case atomic =>
    intro x old new hwf hi h hheld hsb
    obtain ⟨t, htotal, hexec⟩ := hi.atomic_next h hheld hsb
    have hctx (k j : Nat) : ((t.atomicDone c.key spa new).ctxDone c).ctx k j = s.ctx k j := by
      rw [State.ctx, State.ctxDone_core]
      exact (State.atomicDone_ctx t c.key spa new k j).trans (htotal.sansL1.sansSb.ctx k j)
    have hmem : (((t.atomicDone c.key spa new).ctxDone c).commit c (fun x => x.wx (wRd w) old)).mem =
        Memory.writeLe s.mem spa 8 new.toNat := by
      rw [State.commit_eq, State.ctxDone_eq, ← htotal.mem]
      rfl
    have hregs : (((t.atomicDone c.key spa new).ctxDone c).commit c (fun x => x.wx (wRd w) old)).ctxOf c =
        { (atNext s c).wx (wRd w) old with retired := ((atNext s c).wx (wRd w) old).retired + 1 } := by
      refine commit_ctxOf_of ?_
      rw [atNext, nextPc, State.ctxOf, hctx]
      rfl
    refine ⟨_, hexec, fun r => ?rd, ?freg, ?pc, fun j hj => ?others, ?word, fun b hb => ?bytes⟩
    case rd =>
      rw [hregs]
      exact (atNext s c).rx_wx_read _ _ r
    case freg =>
      rw [hregs, Ctx.wx_eq]
      rfl
    case pc =>
      rw [hregs, Ctx.wx_eq]
      rfl
    case others => rw [State.commit_ctx_ne _ _ _ _ hj, hctx]
    case word =>
      rw [hmem, Memory.readLe_writeLe spa 8 new.toNat hwf]
      exact Nat.mod_eq_of_lt new.isLt
    case bytes => rw [hmem, Memory.writeLe, Memory.read_writeBytes_ne _ _ _ hwf (by rwa [leBytes_length])]
  case fences =>
    intro quiet done hquiet
    have hready : FenceReady s c := ⟨hquiet.1, hquiet.2⟩
    refine ⟨fun h => ?core, fun h => ?die, fun h hcp => ?dev, fun h hsys => hready.runs_sys h hsys, fun h => ?code⟩
    case core =>
      exact (hready.runs h (exec_fenceCore c w s) rfl fun _ => rfl).mono fun t ⟨hdone, hl1, _⟩ => ⟨hdone, hl1⟩
    case die =>
      exact (hready.runs h (exec_fenceDie c w s) rfl fun _ => rfl).mono fun t ⟨hdone, hl1, _⟩ => ⟨hdone, hl1⟩
    case dev =>
      exact (hready.runs h (exec_fenceDev c w s) hcp fun _ => rfl).mono fun t ⟨hdone, hl1, _⟩ => ⟨hdone, hl1⟩
    case code =>
      exact (hready.runs h (exec_fenceCode c w s) rfl fun _ => rfl).mono fun t ⟨hdone, hl1, hicache⟩ => ⟨hdone, hl1, hicache⟩

end Sys2Proof.Claims
end

section
/-! SUPPORT. The patrol scrubbers of an inkwell and of a stack channel (R172, R195, R197). -/

namespace Sys2Proof.Machine

open Sys2Proof.Claims

theorem Core.correctRows_sound {k : Core} {p : Nat} (h : k.inkSoft.contains p = false) : k.correctRows [p] = k := by
  have hnone : k.inkSoft.filter [p].contains = [] := by
    refine List.filter_eq_nil_iff.mpr fun r hr hp => ?_
    obtain rfl : r = p := by simpa using hp
    simp [hr] at h
  simp only [Core.correctRows, hnone, List.length_nil, if_true]

/-- A row listed once is corrected once (R172). -/
theorem Core.correctRows_once {k : Core} {p : Nat} {a b : List Nat} (h : k.inkSoft = a ++ p :: b) (ha : p ∉ a) (hb : p ∉ b) :
    k.correctRows [p] = { k with inkSoft := a ++ b, eccCorr := min (k.eccCorr + 1) 65535 } := by
  have hpick {l : List Nat} (hl : p ∉ l) : l.filter [p].contains = [] :=
    List.filter_eq_nil_iff.mpr fun r hr hp => hl (List.mem_singleton.mp (List.contains_iff_mem.mp hp) ▸ hr)
  have hleave {l : List Nat} (hl : p ∉ l) : l.filter (fun r => !([p].contains r)) = l :=
    List.filter_eq_self.mpr fun r hr => by simpa using fun hp : r = p => hl (hp ▸ hr)
  have hone : (k.inkSoft.filter [p].contains).length = 1 := by simp [h, hpick ha, hpick hb]
  have hrest : k.inkSoft.filter (fun r => !([p].contains r)) = a ++ b := by
    rw [h, List.filter_append, List.filter_cons_of_neg (by simp), hleave ha, hleave hb]
  simp only [Core.correctRows, hone, hrest]
  rfl

theorem Core.eccRecord_ctxs (k : Core) (row : Nat) (scrub : Bool) : (k.eccRecord row scrub).ctxs = k.ctxs := by
  unfold Core.eccRecord
  split <;> rfl

theorem Core.correctRows_ctxs (k : Core) (rows : List Nat) : (k.correctRows rows).ctxs = k.ctxs := by rw [Core.correctRows_eq]

theorem Core.correctRows_inkBad (k : Core) (rows : List Nat) : (k.correctRows rows).inkBad = k.inkBad := by
  rw [Core.correctRows_eq]

/-- Every outcome of a scrub leaves the contexts alone. -/
theorem Core.scrub_ctxs (k : Core) (found : Ecc) : (k.scrub found).ctxs = k.ctxs := by
  unfold Core.scrub
  dsimp only
  split
  · rfl
  · split
    · rw [Core.eccRecord_ctxs, Core.correctRows_ctxs]
    · cases found with
      | clean => exact k.correctRows_ctxs _
      | corrected => exact k.correctRows_ctxs _
      | uncorrectable => rw [Core.eccRecord_ctxs, Core.correctRows_ctxs]

/-- A core whose scrubber has corrected the single-bit errors of its row, and has moved on (R172). -/
def Core.scrubbed (k : Core) : Core := { k.correctRows [k.scrubRow] with scrubRow := (k.scrubRow + 1) % 16384 }

section
variable {k : Core} (hready : k.inkClearing = false)
include hready

theorem Core.scrub_known (hbad : k.inkBad.contains k.scrubRow = true) (found : Ecc) :
    k.scrub found = k.scrubbed.eccRecord k.scrubRow true := by
  simp only [Core.scrub, hready, hbad, Bool.false_eq_true, if_false, if_true]
  rfl

variable (hgood : k.inkBad.contains k.scrubRow = false)
include hgood

theorem Core.scrub_clean : k.scrub .clean = k.scrubbed := by
  simp only [Core.scrub, hready, hgood, Bool.false_eq_true, if_false]
  rfl

theorem Core.scrub_corrected : k.scrub .corrected = { k.scrubbed with eccCorr := min (k.scrubbed.eccCorr + 1) 65535 } := by
  simp only [Core.scrub, hready, hgood, Bool.false_eq_true, if_false]
  rfl

theorem Core.scrub_uncorrectable : k.scrub .uncorrectable =
    { k.scrubbed with inkBad := k.scrubRow :: k.inkBad }.eccRecord k.scrubRow true := by
  rw [← k.correctRows_inkBad [k.scrubRow]]
  simp only [Core.scrub, hready, hgood, Bool.false_eq_true, if_false]
  rfl

end

/-- A change of one core that an event names, and that keeps its contexts. -/
theorem runs_updCore {i : Instr} {s : State} {r : CoreRef} {f : Core → Core} (hi : exec i s = onCore r (fun n => s.updCore n f))
    (hr : CoreExists r) (hctxs : (f (s.core r.key)).ctxs = (s.core r.key).ctxs) :
    Runs i s (fun t => OnlyCore s t r.key ∧ t.core r.key = f (s.core r.key)) :=
  ⟨_, hi.trans (onCore_next _ hr), s.updCore_onlyCore r.key hctxs, s.core_updCore_same r.key f⟩

theorem State.updDie_onlyDie (s : State) (d : Nat) (f : Die → Die) : OnlyDie s (s.updDie d f) d :=
  ⟨rfl, fun _ he => (s.die_updDie d _ f).trans (if_neg (Ne.symm he))⟩

theorem onlyDie_trans {s t u : State} {d : Nat} (h : OnlyDie s t d) (g : OnlyDie t u d) : OnlyDie s u d := by
  obtain ⟨hst, hdies⟩ := h
  obtain ⟨htu, hdies'⟩ := g
  exact ⟨by rw [htu, hst], fun e he => (hdies' e he).trans (hdies e he)⟩

theorem State.poisonLine_poison (s : State) (spa : Nat) : (s.poisonLine spa).poison.contains (spa / 256) = true := by
  unfold State.poisonLine
  dsimp only
  split
  · assumption
  · simp

/-- The die after the scrubber of a channel has gone to its next line (R197). -/
def Die.scrubbed (d : Die) (ch : Nat) : Die :=
  { d with scrubLine := SMap.set d.scrubLine ch ((SMap.get d.scrubLine ch 0 + 1) % 655360) }

section
variable {s : State} {die : BitVec 5} {ch : BitVec 7} (hch : ch.toNat < 80)
include hch

theorem exec_stackScrub_clean : exec (.stackScrub die ch .clean) s = .next (s.updDie die.toNat (·.scrubbed ch.toNat)) := by
  refine (exec_stackScrub ..).trans ((if_neg (Nat.not_le.mpr hch)).trans (congrArg _ ?_))
  split <;> rfl

variable {line : Nat} (hline : (s.die die.toNat).scrubTarget ch.toNat (SMap.get (s.die die.toNat).scrubLine ch.toNat 0) = some line)
include hline

theorem exec_stackScrub_corrected : exec (.stackScrub die ch .corrected) s =
    .next ((s.updDie die.toNat (·.scrubbed ch.toNat)).updDie die.toNat Die.stkCorrected) := by
  refine (exec_stackScrub ..).trans ((if_neg (Nat.not_le.mpr hch)).trans (congrArg _ ?_))
  rw [hline]
  rfl

theorem exec_stackScrub_uncorrectable (hheld : (s.die die.toNat).holds line = none) :
    exec (.stackScrub die ch .uncorrectable) s =
      .next (((s.updDie die.toNat (·.scrubbed ch.toNat)).updDie die.toNat (fun d => d.stkRecord line true)).poisonLine
        (lineSpa die.toNat line)) := by
  refine (exec_stackScrub ..).trans ((if_neg (Nat.not_le.mpr hch)).trans (congrArg _ ?_))
  rw [hline]
  simp only [hheld]
  rfl

end

end Sys2Proof.Machine

namespace Sys2Proof.Claims

open Sys2Proof.Machine

/-- Settles O31: each event of the inkwell is one change of its core, whose branches `Core.scrub` gives, and each step of a
channel's scrubber moves it on and then records what it found. -/
theorem scrubbersComplete : Obligations.ScrubbersComplete := by
  unfold Obligations.ScrubbersComplete
  refine ⟨fun s r hr => ?inkwell, fun s die ch line hch => ?stack⟩
  case inkwell =>
    intro k p k1 recorded
    have hscrubs (found : Ecc) {k' : Core} (h : k.scrub found = k') :
        Runs (.inkwellScrub r found) s (fun t => OnlyCore s t r.key ∧ t.core r.key = k') :=
      h ▸ runs_updCore (exec_inkwellScrub ..) hr (k.scrub_ctxs found)
    refine ⟨fun h => ?sound, fun a b h ha hb => ?once, fun hready hgood => ?scrubs, fun hready hbad found => ?known, ?cleared⟩
    case sound => simp only [k1, Core.correctRows_sound h]
    case once => simp only [k1, Core.correctRows_once h ha hb]
    case scrubs =>
      exact ⟨hscrubs .clean (Core.scrub_clean hready hgood), hscrubs .corrected (Core.scrub_corrected hready hgood),
        hscrubs .uncorrectable (Core.scrub_uncorrectable hready hgood)⟩
    case known => exact hscrubs found (Core.scrub_known hready hbad found)
    case cleared => exact runs_updCore (exec_inkwellClearDone ..) hr rfl
  case stack =>
    intro n d i moved
    have hmoves : OnlyDie s (s.updDie n (·.scrubbed ch.toNat)) n ∧ (s.updDie n (·.scrubbed ch.toNat)).die n = moved :=
      ⟨s.updDie_onlyDie _ _, s.die_updDie_same _ _⟩
    refine ⟨⟨_, exec_stackScrub_clean hch, hmoves⟩, fun hline => ⟨?counted, fun hheld hue => ?poisoned⟩⟩
    case counted =>
      refine ⟨_, exec_stackScrub_corrected hch hline, onlyDie_trans hmoves.1 (State.updDie_onlyDie _ _ _), ?_⟩
      rw [State.die_updDie_same, hmoves.2]
      rfl
    case poisoned =>
      refine ⟨_, exec_stackScrub_uncorrectable hch hline hheld, ?_, State.poisonLine_poison _ _, fun _ => rfl⟩
      have hnone : moved.stkUe = false := hue
      refine (State.die_updDie_same (s.updDie n (·.scrubbed ch.toNat)) n (·.stkRecord line true)).trans ?_
      simp only [hmoves.2, Die.stkRecord, hnone, Bool.false_eq_true, if_false]

end Sys2Proof.Claims
end

section
/-! SUPPORT. A command that has started, and its completion (R235, R239). -/

namespace Sys2Proof.Machine

open Sys2Proof.Claims

theorem State.running_some {s : State} {r : CmdRef} {op : Nat} {m : Cmd} (h : s.running r op = some m) :
    s.cmd r = some m ∧ m.phase = .started ∧ m.opcode = op := by
  obtain ⟨c, hc, h⟩ := Option.bind_eq_some_iff.mp h
  split at h
  · next hrun =>
    obtain rfl := Option.some.inj h
    simp only [Cmd.isStarted, Bool.and_eq_true, beq_iff_eq] at hrun
    exact ⟨hc, hrun⟩
  · exact nomatch h

/-- A completion with an outcome, after changes that leave the commands alone. -/
theorem State.complete_completes {s t : State} {r : CmdRef} {m : Cmd} (ht : t.cmds = s.cmds) (hm : s.cmd r = some m)
    (status detail result : Nat) : Completes s (t.complete r status detail result) r m status detail result := by
  have hcmd (q : CmdRef) : t.cmd q = s.cmd q := by rw [State.cmd, ht]; rfl
  have href (c : Cmd) : ({ c.finish status detail with result := result } : Cmd).ref = c.ref := c.finish_ref status detail
  refine ⟨?_, fun q hq => ?_⟩
  · rw [State.complete, State.cmd_updCmd_same _ _ href, hcmd, hm]
    rfl
  · rw [State.complete, State.cmd_updCmd_ne _ hq href, hcmd]

/-- The command that a name finds has that name. -/
theorem State.cmd_ref {s : State} {r : CmdRef} {m : Cmd} (h : s.cmd r = some m) : m.ref = r := by
  simpa using List.find?_some h

end Sys2Proof.Machine
end

section
/-! SUPPORT. What RECLAIM revokes and disables (R168, R254), and what CANCEL does with its target (R244, R245). -/

namespace Sys2Proof.Machine

open Sys2Proof.Claims

/-- A handle that is revoked stays so. -/
theorem Core.revoke_revoke (k : Core) : k.revoke.revoke = k.revoke := by
  have hhandle (h : Handle) : (fun h : Handle => if h.st = 1 then { h with st := 2, count := 0, base := 0 } else h)
      (if h.st = 1 then { h with st := 2, count := 0, base := 0 } else h) =
      if h.st = 1 then { h with st := 2, count := 0, base := 0 } else h := by
    by_cases h1 : h.st = 1 <;> simp [h1]
  simp only [Core.revoke, SMap.mapVals, List.map_map]
  congr 1
  exact List.map_congr_left fun p _ => congrArg (Prod.mk p.1) (hhandle p.2)

/-- The handles of some cores are revoked. -/
def State.revokeCores (s : State) (l : List Nat) : State := l.foldl (fun s k => s.updCore k Core.revoke) s

theorem State.revokeCores_eq (s : State) (l : List Nat) : s.revokeCores l = { s with cores := (s.revokeCores l).cores } := by
  induction l generalizing s with
  | nil => rfl
  | cons k l ih => exact (ih _).trans rfl

theorem State.revokeCores_core (s : State) (l : List Nat) (i : Nat) :
    (s.revokeCores l).core i = if i ∈ l then (s.core i).revoke else s.core i := by
  induction l generalizing s with
  | nil => rfl
  | cons k l ih =>
    refine (ih _).trans ?_
    by_cases hk : k = i
    · simp only [hk, State.core_updCore_same, Core.revoke_revoke, ite_self, List.mem_cons, true_or, if_true]
    · simp only [State.core_updCore_ne _ _ _ _ hk, List.mem_cons, Ne.symm hk, false_or]

/-- A VALID window of a tenant loses VALID and is marked as revoked (R254). -/
def Window.revoke (tenant : Nat) (w : Window) : Window :=
  if w.valid && w.tenant == tenant then { w with valid := false, revoked := true } else w

/-- The windows of a tenant are revoked when `on` says so. -/
def State.revokeWindows (s : State) (on : Bool) (tenant : Nat) : State :=
  { s with windows := if on then SMap.mapVals s.windows (fun _ => Window.revoke tenant) else s.windows }

theorem State.revokeWindows_window (s : State) (on : Bool) (tenant w : Nat) :
    (s.revokeWindows on tenant).window w = if on then (s.window w).revoke tenant else s.window w := by
  cases on with
  | true => exact SMap.get_mapVals (f := fun _ => Window.revoke tenant) (d := {}) s.windows rfl
  | false => rfl

/-- A RECLAIM with no waiting command in its queues revokes what its ARG says, and notes that it has. -/
theorem State.reclaim_noneWaiting {s : State} {r : CmdRef} {m : Cmd}
    (h : ∀ e ∈ s.cmds, e.isWaiting = true → e.ref = r ∨ e.ref.queue.toNat ∉ s.reclaimQueues m) :
    s.reclaim r m = ((s.revokeCores (if Nat.testBit m.arg 8 then s.reclaimCores m else [])).revokeWindows
      (Nat.testBit m.arg 9) m.tenant).updCmd r (fun c => { c with moved := 1 }) := by
  have hnone : s.cmds.filter (fun e => e.ref != r && e.isWaiting && (s.reclaimQueues m).contains e.ref.queue.toNat) = [] := by
    refine List.filter_eq_nil_iff.mpr fun e he hpick => ?_
    simp only [Bool.and_eq_true, bne_iff_ne, List.contains_iff_mem] at hpick
    obtain ⟨⟨hne, hwaits⟩, hmem⟩ := hpick
    exact (h e he hwaits).elim hne (· hmem)
  simp only [State.reclaim, hnone, List.foldl_nil]
  cases Nat.testBit m.arg 8 <;> cases Nat.testBit m.arg 9 <;> rfl

/-- Some queues are disabled. -/
def State.disableQueues (s : State) (l : List Nat) : State := l.foldl (fun s q => s.updQueue q (fun x => { x with en := false })) s

theorem State.disableQueues_eq (s : State) (l : List Nat) : s.disableQueues l = { s with queues := (s.disableQueues l).queues } := by
  induction l generalizing s with
  | nil => rfl
  | cons q l ih => exact (ih _).trans rfl

theorem State.disableQueues_en (s : State) (l : List Nat) (i : Nat) :
    ((s.disableQueues l).queue i).en = ((s.queue i).en && !(l.contains i)) := by
  induction l generalizing s with
  | nil => simp [State.disableQueues]
  | cons q l ih =>
    refine (ih _).trans ?_
    rw [State.queue_updQueue]
    by_cases hq : q = i
    · simp [hq]
    · simp [hq, Ne.symm hq]

/-- A RECLAIM that has revoked what its ARG says, and whose queues hold no other command, completes (R254). -/
theorem exec_reclaimDrainDone_next {s : State} {r : CmdRef} {m : Cmd} (h : s.running r 0x51 = some m) (hmoved : m.moved ≠ 0)
    (hdrained : ∀ e ∈ s.cmds, e.ref = r ∨ e.ref.queue.toNat ∉ s.reclaimQueues m) :
    exec (.reclaimDrainDone r) s = .next ((s.disableQueues (if Nat.testBit m.arg 10 then s.reclaimQueues m else [])).complete r 0 0
      m.revokedCount) := by
  have hnone : s.cmds.any (fun e => e.ref != r && (s.reclaimQueues m).contains e.ref.queue.toNat) = false := by
    refine List.any_eq_false.mpr fun e he hpick => ?_
    simp only [Bool.and_eq_true, bne_iff_ne, List.contains_iff_mem] at hpick
    exact (hdrained e he).elim hpick.1 (· hpick.2)
  rw [exec_reclaimDrainDone]
  simp only [execReclaimDrainDone, h, hmoved, hnone, decide_false, Bool.or_self, Bool.false_eq_true, if_false]
  cases Nat.testBit m.arg 10 <;> rfl

/-- The command that a CANCEL names (R244). -/
def Cmd.cancels (m : Cmd) : CmdRef := { queue := BitVec.ofNat 14 (m.param 0), seq := BitVec.ofNat 32 (m.param 1) }

section
variable {s : State} {r : CmdRef} {m : Cmd} (h : s.running r 0x52 = some m)
include h

theorem exec_cancel_absent (hg : s.cmd m.cancels = none ∨ ∃ c, s.cmd m.cancels = some c ∧ c.isComplete = true) :
    exec (.cancel r) s = .next (s.complete r 3 1 0) := by
  have hnone : (s.cmd m.cancels).filter (fun t => !t.isComplete) = none := by
    obtain hg | ⟨c, hg, hcomplete⟩ := hg
    · rw [hg]
      rfl
    · simp [hg, hcomplete, Option.filter]
  rw [Cmd.cancels] at hnone
  simp only [exec_cancel, execCancel, h, hnone]

/-- A target that can still be cancelled. -/
theorem exec_cancel_target {c : Cmd} {t : State} (hg : s.cmd m.cancels = some c) (hc : c.isComplete = false)
    (ht : s.cancelTarget c true = some t) : exec (.cancel r) s = .next (t.complete r 0 0 0) := by
  have hsome : (s.cmd m.cancels).filter (fun t => !t.isComplete) = some c := by simp [hg, hc, Option.filter]
  rw [Cmd.cancels] at hsome
  simp only [exec_cancel, execCancel, h, hsome, ht]

end

theorem State.cancelTarget_waiting {s : State} {c : Cmd} (hphase : c.phase = .waiting) (hlig : s.ligOf c.ref [] = []) (grace : Bool) :
    s.cancelTarget c grace = some (s.updCmd c.ref (fun m => m.finish 2 0)) := by
  simp only [State.cancelTarget, Cmd.isWaiting, hphase, State.cancelColl, hlig, beq_self_eq_true, if_true]

/-- A started LAUNCH with one running context gets CPEND in it, and its grace (R245). -/
theorem State.cancelTarget_launch {s : State} {c : Cmd} {x : CtxRef} (hphase : c.phase = .started) (hop : c.opcode = 1)
    (hctxs : c.ctxs = [x]) (hmode : (s.ctxOf x).mode = .running) (hgrace : (s.die c.ref.die).cgrace ≠ 0) :
    s.cancelTarget c true = some ((s.updCmd c.ref (fun m => { m.outcome 2 0 with cancelled := true, grace := true })).updCtxOf x
      (fun y => { y with cpend := true })) := by
  have hmode' (f : Cmd → Cmd) : ((s.updCmd c.ref f).ctxOf x).mode ≠ .idle := by
    show (s.ctxOf x).mode ≠ .idle
    rw [hmode]
    decide
  have hgrace' : ((s.die c.ref.die).cgrace != 0) = true := bne_iff_ne.mpr hgrace
  simp [State.cancelTarget, Cmd.isWaiting, Cmd.inReplay, hphase, hop, State.cancelLaunch, hctxs, hmode, hgrace', hmode']

/-- When the grace is over, a context with instructions in flight issues nothing more, and is not idle yet (R138, R245). -/
theorem State.graceOver_single {s : State} {c : Cmd} {x : CtxRef} (hctxs : c.ctxs = [x]) (hmode : (s.ctxOf x).mode = .running)
    (hvq : (s.ctxOf x).vq ≠ []) :
    s.graceOver c = (s.updCtxOf x (fun y => { y with mode := .stopping })).updDie x.die.toNat (fun d => d.dropEngine (.ctx x)) := by
  have hrun : (s.ctxOf x).mode ≠ .idle := by rw [hmode]; decide
  have hstop : ((s.updCtxOf x (fun y => { y with mode := .stopping })).updDie x.die.toNat (fun d => d.dropEngine (.ctx x))).ctxOf x =
      { s.ctxOf x with mode := .stopping } := s.ctxOf_updCtxOf x _
  have hbusy : (s.ctxOf x).vq.isEmpty = false := by simpa using hvq
  simp only [State.graceOver, hctxs, List.foldl_cons, List.foldl_nil, State.haltCtx, hrun, if_false, State.settleCtx, hstop, hbusy,
    Bool.and_false, Bool.false_and, Bool.false_eq_true]

end Sys2Proof.Machine

namespace Sys2Proof.Claims

open Sys2Proof.Machine

/-- Settles O44: a RECLAIM is `State.reclaim_noneWaiting`, then `exec_reclaimDrainDone_next`; a CANCEL completes after what
`State.cancelTarget` does to its target, and the end of the grace is `State.graceOver_single`. -/
theorem reclaimAndCancelComplete : Obligations.ReclaimAndCancelComplete := by
  unfold Obligations.ReclaimAndCancelComplete
  refine ⟨fun s r m hrun => ?reclaim, fun s r m hrun => ?cancel⟩
  case reclaim =>
    obtain ⟨hm, -, -⟩ := State.running_some hrun
    refine ⟨fun hmoved hnone => ?revokes, fun hmoved hdrained => ?completes⟩
    case revokes =>
      have hframe := s.revokeCores_eq (if Nat.testBit m.arg 8 then s.reclaimCores m else [])
      have hexec : exec (.reclaim r) s = .next (s.reclaim r m) := by simp only [exec_reclaim, execReclaim, hrun, hmoved, if_true]
      rw [State.reclaim_noneWaiting hnone] at hexec
      generalize hrevoked : s.revokeCores (if Nat.testBit m.arg 8 then s.reclaimCores m else []) = t at hexec hframe
      have href (c : Cmd) : ({ c with moved := 1 } : Cmd).ref = c.ref := rfl
      have hcmd (q : CmdRef) : (t.revokeWindows (Nat.testBit m.arg 9) m.tenant).cmd q = s.cmd q := by rw [hframe]; rfl
      refine ⟨_, hexec, ?_, fun q hq => ?_, fun a => ?_, fun k => ?_, fun w => ?_⟩
      · rw [State.cmd_updCmd_same _ _ href, hcmd, hm]
        rfl
      · rw [State.cmd_updCmd_ne _ hq href, hcmd]
      · rw [hframe]
        rfl
      · show t.core k = _
        rw [← hrevoked, State.revokeCores_core]
        cases Nat.testBit m.arg 8 <;> simp
      · refine (t.revokeWindows_window _ _ w).trans ?_
        rw [show t.window w = s.window w by rw [hframe]; rfl, Window.revoke]
        cases Nat.testBit m.arg 9 <;> simp
    case completes =>
      have hframe := s.disableQueues_eq (if Nat.testBit m.arg 10 then s.reclaimQueues m else [])
      refine ⟨_, exec_reclaimDrainDone_next hrun hmoved hdrained, State.complete_completes (congrArg State.cmds hframe) hm _ _ _,
        ?_, fun q => ?_⟩
      · rw [State.complete, State.updCmd, hframe]
      · refine (s.disableQueues_en _ q).trans ?_
        cases Nat.testBit m.arg 10 <;> simp
  case cancel =>
    obtain ⟨hm, -, -⟩ := State.running_some hrun
    intro g
    have hothers {c : Cmd} (hg : s.cmd g = some c) (hne : g ≠ r) {f : Cmd → Cmd} (hf : ∀ e, (f e).ref = e.ref) (t : State)
        (ht : t.cmds = (s.updCmd g f).cmds) : (t.complete r 0 0 0).cmd g = some (f c) ∧
          (t.complete r 0 0 0).cmd r = some { m.finish 0 0 with result := 0 } ∧
          ∀ q, q ≠ r → q ≠ g → (t.complete r 0 0 0).cmd q = s.cmd q := by
      have hr : (s.updCmd g f).cmd r = some m := (s.cmd_updCmd_ne hne.symm hf).trans hm
      obtain ⟨hdone, hrest⟩ := State.complete_completes ht hr 0 0 0
      refine ⟨?_, hdone, fun q hqr hqg => (hrest q hqr).trans (s.cmd_updCmd_ne hqg hf)⟩
      rw [hrest g hne, State.cmd_updCmd_same _ _ hf, hg]
      rfl
    refine ⟨fun hg => ?absent, fun c hg hphase _ hlig hne => ?waiting, fun c x hg hphase hop hctxs hmode hne hgrace => ?launch,
      fun c x hc hgrace hctxs hmode hvq => ?expires⟩
    case absent => exact ⟨_, exec_cancel_absent hrun hg, State.complete_completes rfl hm _ _ _, rfl⟩
    case waiting =>
      have href := State.cmd_ref hg
      have htarget := State.cancelTarget_waiting hphase (href.symm ▸ hlig) true
      rw [href] at htarget
      obtain ⟨hcg, hcr, hrest⟩ := hothers hg hne (fun e => e.finish_ref 2 0) _ rfl
      exact ⟨_, exec_cancel_target hrun hg (by rw [Cmd.isComplete, hphase]; rfl) htarget, hcg, hcr, hrest, rfl⟩
    case launch =>
      have href := State.cmd_ref hg
      have htarget := State.cancelTarget_launch hphase hop hctxs hmode (href.symm ▸ hgrace)
      rw [href] at htarget
      obtain ⟨hcg, hcr, -⟩ := hothers hg hne (f := fun e => { e.outcome 2 0 with cancelled := true, grace := true })
        (fun e => e.outcome_ref 2 0) ((s.updCmd g _).updCtxOf x (fun y => { y with cpend := true })) rfl
      exact ⟨_, exec_cancel_target hrun hg (by rw [Cmd.isComplete, hphase]; rfl) htarget,
        State.ctxOf_updCtxOf (s.updCmd g _) x _, hcg, hcr, fun _ => rfl⟩
    case expires =>
      have hexec : exec (.cancelGraceExpire g) s = .next (s.graceOver c) := by
        simp only [exec_cancelGraceExpire, execCancelGraceExpire, hc, hgrace, if_true]
      rw [State.graceOver_single hctxs hmode hvq] at hexec
      exact ⟨_, hexec, s.ctxOf_updCtxOf x _, fun _ => rfl, rfl⟩

end Sys2Proof.Claims
end

section
/-! SUPPORT. What the writes of page-table entries change (R205, R208, R209): the entry, and the level-1 entry of a table that is
empty then. -/

namespace Sys2Proof.Machine

open Sys2Proof.Claims

theorem State.cacheRead_looked (s : State) (spa n fn hint : Nat) : Looked s (s.cacheRead spa n fn hint) := by
  refine sameBut_foldl (fun t p => ?_) _ s
  split
  · exact t.updCache_looked _ _ _
  · exact .refl t
  · exact t.updDie_looked _ _

theorem State.walkTouch_looked (s : State) (fn va : Nat) : Looked s (s.walkTouch fn va) := by
  unfold State.walkTouch
  dsimp only
  split
  · exact .refl s
  · split
    · exact s.cacheRead_looked _ _ _ _
    · exact (s.cacheRead_looked _ _ _ _).trans (State.cacheRead_looked _ _ _ _ _)

theorem State.readEntries_looked (s : State) (fn : Nat) (vas : List Nat) : Looked s (s.readEntries fn vas) :=
  sameBut_foldl (fun t va => t.walkTouch_looked fn va) vas s

/-- MMU_TBASEn.BASE of a function. -/
def State.tableBase (s : State) (n : Nat) : Nat := (s.func n).tbBase

theorem State.countFunc_tableBase (s : State) (f off k n : Nat) : (s.countFunc f off k).tableBase n = s.tableBase n := by
  rw [State.tableBase, State.countFunc, State.func_updFunc]
  split
  · next h => rw [← h]; rfl
  · rfl

theorem State.updCache_tableBase (s : State) (spa fn : Nat) (f : Die → Die) (n : Nat) :
    (s.updCache spa fn f).tableBase n = s.tableBase n :=
  foldl_view (view := (·.tableBase n)) (fun t _ => t.countFunc_tableBase _ _ _ n) _ (s.updDie _ f)

theorem State.cacheRead_tableBase (s : State) (spa k fn hint n : Nat) : (s.cacheRead spa k fn hint).tableBase n = s.tableBase n := by
  refine foldl_view (view := (·.tableBase n)) (fun t p => ?_) _ s
  split
  · exact t.updCache_tableBase _ _ _ n
  · rfl
  · rfl

theorem State.walkTouch_tableBase (s : State) (fn va n : Nat) : (s.walkTouch fn va).tableBase n = s.tableBase n := by
  unfold State.walkTouch
  dsimp only
  split
  · rfl
  · split
    · exact s.cacheRead_tableBase _ _ _ _ n
    · exact (State.cacheRead_tableBase _ _ _ _ _ n).trans (s.cacheRead_tableBase _ _ _ _ n)

theorem State.readEntries_tableBase (s : State) (fn : Nat) (vas : List Nat) (n : Nat) :
    (s.readEntries fn vas).tableBase n = s.tableBase n :=
  foldl_view (view := (·.tableBase n)) (fun t va => t.walkTouch_tableBase fn va n) vas s

theorem l1EntryAddr_congr {f g : Func} (h : f.tbBase = g.tbBase) (va : Nat) : l1EntryAddr f va = l1EntryAddr g va := by
  rw [l1EntryAddr, l1EntryAddr, h]

/-- The place of a page's entry depends on memory and on the base of the function's table alone (R205). -/
theorem State.entryAddr_congr {s t : State} {fn : Nat} (hmem : t.mem = s.mem) (hbase : t.tableBase fn = s.tableBase fn)
    (va : Nat) (big : Bool) : t.entryAddr fn va big = s.entryAddr fn va big := by
  have htop : l1EntryAddr (t.func fn) va = l1EntryAddr (s.func fn) va := l1EntryAddr_congr hbase va
  have hpte (x : Nat) : t.pte x = s.pte x := congrArg (Memory.readLe · x 8) hmem
  simp only [State.entryAddr, htop, hpte]

theorem State.cacheWrite_mem (s : State) (spa n fn hint : Nat) : (s.cacheWrite spa n fn hint).mem = s.mem := by
  refine foldl_view (view := State.mem) (fun t p => ?_) _ s
  unfold State.wroteLine
  split <;> exact (t.updCache_looked _ _ _).mem

theorem State.putPte_mem (s : State) (fn a e : Nat) : (s.putPte fn a e).mem = Memory.writeLe s.mem a 8 e :=
  congrArg (Memory.writeLe · a 8 e) (s.cacheWrite_mem a 8 fn 0)

theorem State.putPte_cmds (s : State) (fn a e : Nat) : (s.putPte fn a e).cmds = s.cmds := (s.cacheWrite_quiet a 8 fn 0).cmds

theorem State.putPte_pte {s : State} (hwf : Memory.wf s.mem = true) (fn a e : Nat) : (s.putPte fn a e).pte a = e % 2 ^ 64 := by
  exact (congrArg (Memory.readLe · a 8) (s.putPte_mem fn a e)).trans (Memory.readLe_writeLe a 8 e hwf)

/-- A page's entry is the level-1 entry of a large page, or lies in the level-2 table behind a present level-1 entry (R205). -/
theorem State.entryAddr_some {s : State} {fn va a : Nat} {big : Bool} (h : s.entryAddr fn va big = some a) :
    (big = true ∧ a = l1EntryAddr (s.func fn) va) ∨ (big = false ∧ s.pte (l1EntryAddr (s.func fn) va) % 2 = 1 ∧
      a = a / 256 * 256 + 8 * (va / 2 ^ 25 % 32)) := by
  cases big with
  | true => exact .inl ⟨rfl, (Option.some.inj h).symm⟩
  | false =>
    simp only [State.entryAddr, Bool.false_eq_true, if_false] at h
    split at h
    · next hptr =>
      simp only [Bool.and_eq_true, decide_eq_true_eq] at hptr
      refine .inr ⟨rfl, hptr.1, ?_⟩
      have ha := Option.some.inj h
      rw [l2EntryAddr] at ha
      omega
    · exact nomatch h

/-- Other level-2 tables of the pool in use (R208). -/
def State.withL2used (s : State) (l : List Nat) : State := { s with l2used := l }

theorem State.withL2used_mem (s : State) (l : List Nat) : (s.withL2used l).mem = s.mem := rfl
theorem State.withL2used_cmds (s : State) (l : List Nat) : (s.withL2used l).cmds = s.cmds := rfl

/-- A level-2 table that holds no present entry leaves the level-1 entry at `top` and goes back to the pool (R208). -/
def State.dropEmptyTable (s : State) (fn top table : Nat) : State :=
  if (List.range 32).all (fun i => s.pte (table * 256 + 8 * i) % 2 == 0) then
    (s.putPte fn top 0).withL2used (s.l2used.filter (fun x => x != table))
  else s

theorem State.writeEntry_small {s : State} {fn va a : Nat} (hptr : s.pte (l1EntryAddr (s.func fn) va) % 2 = 1)
    (ha : s.entryAddr fn va false = some a) (e : Nat) :
    s.writeEntry fn va false e = (s.putPte fn a e).dropEmptyTable fn (l1EntryAddr (s.func fn) va) (a / 256) := by
  unfold State.writeEntry
  extract_lets top s1
  have hs : s1 = s := if_pos (by simp [top, hptr])
  rw [if_neg (by decide), hs, ha]
  rfl

/-- The states that a write of a page's entry leaves: the entry is written, and a level-2 table that holds no present entry then
has left the level-1 entry (R208). -/
theorem State.writeEntry_cases {s : State} {fn va a : Nat} {big : Bool} (ha : s.entryAddr fn va big = some a) (e : Nat) :
    s.writeEntry fn va big e = s.putPte fn a e ∨
    ((s.putPte fn a e).pte a % 2 = 0 ∧ ∃ l, s.writeEntry fn va big e =
      ((s.putPte fn a e).putPte fn (l1EntryAddr (s.func fn) va) 0).withL2used l) := by
  obtain ⟨rfl, rfl⟩ | ⟨rfl, hptr, hplace⟩ := State.entryAddr_some ha
  · exact .inl (by rw [State.writeEntry, if_pos rfl])
  · rw [State.writeEntry_small hptr ha, State.dropEmptyTable]
    split
    · next hempty =>
      refine .inr ⟨?_, _, rfl⟩
      have hentry := List.all_eq_true.mp hempty (va / 2 ^ 25 % 32) (List.mem_range.mpr (Nat.mod_lt _ (by decide)))
      rw [← hplace] at hentry
      exact beq_iff_eq.mp hentry
    · exact .inl rfl

/-- Memory after a page's entry has been written with a value. -/
theorem State.writeEntry_mem {s : State} {fn va a : Nat} {big : Bool} (ha : s.entryAddr fn va big = some a)
    (hwf : Memory.wf s.mem = true) (e : Nat) :
    (s.writeEntry fn va big e).mem = Memory.writeLe s.mem a 8 e ∨ (e % 2 = 0 ∧
      (s.writeEntry fn va big e).mem = Memory.writeLe (Memory.writeLe s.mem a 8 e) (l1EntryAddr (s.func fn) va) 8 0) := by
  obtain h | ⟨hempty, l, h⟩ := State.writeEntry_cases ha e
  · exact .inl (by rw [h, State.putPte_mem])
  · rw [State.putPte_pte hwf] at hempty
    refine .inr ⟨by omega, ?_⟩
    rw [h, State.withL2used_mem, State.putPte_mem, State.putPte_mem]

theorem State.writeEntry_cmds {s : State} {fn va a : Nat} {big : Bool} (ha : s.entryAddr fn va big = some a) (e : Nat) :
    (s.writeEntry fn va big e).cmds = s.cmds := by
  obtain h | ⟨-, l, h⟩ := State.writeEntry_cases ha e
  · rw [h, State.putPte_cmds]
  · rw [h, State.withL2used_cmds, State.putPte_cmds, State.putPte_cmds]

/-- No TLB entry that a die keeps covers the dropped range (R209). -/
theorem State.dropRange_tlb {s : State} {fn lo n d : Nat} (hn : 0 < n) {y : TlbEntry} (hy : y ∈ ((s.dropRange fn lo n).die d).tlb) :
    y.covers fn lo = false := by
  have htlb : ((s.dropRange fn lo n).die d).tlb = (s.die d).tlb.filter (fun t => !(t.fn == fn &&
      decide (t.page * pageBytes t.big < lo + n ∧ lo < (t.page + 1) * pageBytes t.big))) := by
    rw [State.die, SMap.get, State.dropRange, SMap.find_mapVals, State.die, SMap.get]
    cases SMap.find s.dies d <;> rfl
  rw [htlb] at hy
  have hmiss := (List.mem_filter.mp hy).2
  refine Bool.eq_false_iff.mpr fun hcovers => ?_
  simp only [TlbEntry.covers, Bool.and_eq_true, beq_iff_eq] at hcovers
  obtain ⟨hfn, hpage⟩ := hcovers
  have hpos : 0 < pageBytes y.big := by cases y.big <;> decide
  have hle : y.page * pageBytes y.big ≤ lo := hpage ▸ Nat.div_mul_le_self _ _
  have hlt : lo < (y.page + 1) * pageBytes y.big := by
    rw [hpage, Nat.add_mul, Nat.one_mul]
    exact Nat.lt_div_mul_add hpos
  have hhit : y.page * pageBytes y.big < lo + n ∧ lo < (y.page + 1) * pageBytes y.big := ⟨by omega, hlt⟩
  simp [hfn, hhit] at hmiss

end Sys2Proof.Machine
end

section
/-! SUPPORT. MAP and UNMAP of one page and of a handle (R168, R169, R206, R209). -/

namespace Sys2Proof.Machine

open Sys2Proof.Claims

/-- A MAP or UNMAP names one page, passes the checks that both share, and the page has an entry (R206, R208). -/
structure OnePage (s : State) (m : Cmd) (a : Nat) : Prop where
  count : m.pages.count = 1
  ok : s.pagesOk m.tenant m.pages = true
  size : s.otherSize m.tenant m.pages.va m.pages.big = false
  addr : s.entryAddr m.tenant m.pages.va m.pages.big = some a

section
variable {s : State} {m : Cmd} {a : Nat} (h : OnePage s m a)
include h

theorem OnePage.vas : m.pages.vas = [m.pages.va] := by simp [PageArgs.vas, h.count]

theorem OnePage.bytes_pos : 0 < m.pages.bytes := by
  rw [PageArgs.bytes, h.count]
  cases m.pages.big <;> decide

theorem OnePage.newTables : s.newTables m.tenant m.pages = 0 := by
  unfold State.newTables
  obtain ⟨hbig, -⟩ | ⟨hbig, hptr, -⟩ := State.entryAddr_some h.addr
  · simp [hbig]
  · simp [hbig, h.vas, hptr, List.eraseReps, List.eraseRepsBy]

/-- The entry's place is the same once the walk has read the entries. -/
theorem OnePage.readEntries_addr :
    (s.readEntries m.tenant m.pages.vas).entryAddr m.tenant m.pages.va m.pages.big = some a :=
  (State.entryAddr_congr (s.readEntries_looked _ _).mem (s.readEntries_tableBase _ _ _) _ _).trans h.addr

/-- A MAP of a page that is not present writes its entry and completes. -/
theorem OnePage.mapPages (r : CmdRef) (hentry : s.entryOk m.tenant (m.param 1) m.pages.big = true) (hfree : s.pte a % 2 = 0)
    (hroom : s.l2used.length ≤ s.l2frames * 131072) :
    s.mapPages r m = ((s.readEntries m.tenant m.pages.vas).writeEntry m.tenant m.pages.va m.pages.big (m.param 1)).complete r 0 0 0 := by
  have hentries : (List.range m.pages.count).map (fun i => mapEntry (m.param 1) i m.pages.big) = [m.param 1] := by
    simp [h.count, mapEntry]
  have hcount : ¬ m.pages.count = 0 := by rw [h.count]; decide
  have hpool : ¬ s.l2frames * 131072 < s.l2used.length + s.newTables m.tenant m.pages := by
    rw [h.newTables]
    omega
  have hold : (s.entryOf m.tenant m.pages.va m.pages.big % 2 == 1) = false := by simp [State.entryOf, h.addr, hfree]
  unfold State.mapPages
  extract_lets p p1 entries replaces
  have hentries : entries = [m.param 1] := hentries
  have hvas : p.vas = [m.pages.va] := h.vas
  have hkept : replaces = false := by simp [replaces, p, h.vas, hold]
  have hchecks : ¬ ((!(s.pagesOk m.tenant p) || !(entries.all (fun e => s.entryOk m.tenant e p.big)) ||
      p.vas.any (fun va => s.otherSize m.tenant va p.big)) = true) := by
    simp [p, hentries, h.ok, hentry, h.vas, h.size]
  rw [if_neg hcount, if_neg hchecks, if_neg (by simp [p, hpool]), hkept, hentries, hvas]
  simp only [Bool.false_eq_true, if_false, List.zip_cons_cons, List.zip_nil_left, List.foldl_cons, List.foldl_nil, p]

/-- An UNMAP of a tenant with no core and no access on its way clears the entry, drops the translations and completes. -/
theorem OnePage.unmapPages (r : CmdRef) (hwindow : s.windowed m.tenant m.pages.va m.pages.bytes = false)
    (hcores : s.coresOf m.tenant = []) (hbusy : s.rangeBusy m.tenant m.pages.va m.pages.bytes = false) :
    s.unmapPages r m = (((s.readEntries m.tenant m.pages.vas).writeEntry m.tenant m.pages.va m.pages.big 0).dropRange
      m.tenant m.pages.va m.pages.bytes).complete r 0 0 0 := by
  have hcount : ¬ m.pages.count = 0 := by rw [h.count]; decide
  have hdrained : s.drainFunc m.tenant = some s := by simp [State.drainFunc, hcores, accEach]
  have hsettled : s.settleRange m.tenant m.pages.va m.pages.bytes = some s := by simp [State.settleRange, hdrained, hbusy]
  have hchecks : ¬ ((!(s.pagesOk m.tenant m.pages) || m.pages.vas.any (fun va => s.otherSize m.tenant va m.pages.big) ||
      s.windowed m.tenant m.pages.va m.pages.bytes) = true) := by
    simp [h.ok, h.vas, h.size, hwindow]
  unfold State.unmapPages
  extract_lets p
  have hvas : p.vas = [m.pages.va] := h.vas
  rw [if_neg hcount, if_neg hchecks, hsettled, hvas]
  simp only [List.foldl_cons, List.foldl_nil, p]

end

/-- Bytes outside an entry keep their values when it is written. -/
theorem Memory.read_writeLe8_ne {m : Memory} {a b v : Nat} (hm : Memory.wf m = true) (hb : b < a ∨ a + 8 ≤ b) :
    Memory.read (Memory.writeLe m a 8 v) b = Memory.read m b :=
  Memory.read_writeBytes_ne _ _ _ hm (by rwa [leBytes_length])

theorem leBytes_zero (n : Nat) : leBytes n 0 = List.replicate n 0 := by
  induction n with
  | zero => rfl
  | succ n ih => rw [leBytes, Nat.zero_div, ih]; rfl

/-- Bytes after a number of zero bytes has been written. -/
theorem Memory.read_writeLe_zero {m : Memory} (hm : Memory.wf m = true) (a n b : Nat) :
    Memory.read (Memory.writeLe m a n 0) b = if a ≤ b ∧ b < a + n then 0 else Memory.read m b := by
  rw [Memory.writeLe, leBytes_zero]
  induction n generalizing m a with
  | zero => rw [if_neg (by omega)]; rfl
  | succ n ih =>
    rw [List.replicate_succ, Memory.writeBytes, ih (Memory.wf_write a 0 hm), Memory.read_write a b 0 hm]
    by_cases hb : b = a
    · simp [hb]
    · have hiff : a + 1 ≤ b ∧ b < a + 1 + n ↔ a ≤ b ∧ b < a + (n + 1) := by omega
      simp only [hb, if_false, hiff]

theorem Memory.readLe_of_zeros {m : Memory} (n : Nat) {a : Nat} (h : ∀ b, a ≤ b → b < a + n → Memory.read m b = 0) :
    Memory.readLe m a n = 0 := by
  induction n generalizing a with
  | zero => rfl
  | succ n ih =>
    have hrest : leNat (Memory.readBytes m (a + 1) n) = 0 := ih fun b hlo hhi => h b (by omega) (by omega)
    rw [Memory.readLe, Memory.readBytes, leNat, hrest, h a (by omega) (by omega)]
    rfl

/-- A change of one handle that no retained operand survives leaves the rows (R76, R169). -/
theorem Core.discardHandle_eq (k : Core) (h : Nat) : k.discardHandle h = { k with retained := (k.discardHandle h).retained } := by
  unfold Core.discardHandle
  split
  · split <;> rfl
  · rfl

/-- The core after one handle has been written (R168, R169). -/
def Core.putHandle (k : Core) (h : Nat) (new : Handle) : Core := { k with handles := SMap.set k.handles h new }.discardHandle h

theorem Core.putHandle_ink (k : Core) (h : Nat) (new : Handle) : (k.putHandle h new).ink = k.ink := by
  rw [Core.putHandle, Core.discardHandle_eq]

theorem Core.putHandle_handle (k : Core) (h : Nat) (new : Handle) (i : Nat) :
    (k.putHandle h new).handle i = if i = h then new else k.handle i := by
  rw [Core.handle, Core.putHandle, Core.discardHandle_eq, SMap.get_set]
  by_cases hi : i = h
  · rw [if_pos hi, if_pos hi.symm]
  · rw [if_neg hi, if_neg (Ne.symm hi)]
    rfl

end Sys2Proof.Machine

namespace Sys2Proof.Claims

open Sys2Proof.Machine

/-- A command that writes one handle of its core and completes with OK. -/
theorem runs_putHandle {i : Instr} {s : State} {r : CmdRef} {m : Cmd} {k h : Nat} {new : Handle} (hm : s.cmd r = some m)
    (hi : exec i s = .next ((s.updCore k (·.putHandle h new)).complete r 0 0 0)) :
    Runs i s (fun t => Completes s t r m 0 0 0 ∧ (t.core k).ink = (s.core k).ink ∧ SameMem s t ∧
      (∀ j, (t.core k).handle j = if j = h then new else (s.core k).handle j) ∧ ∀ j, j ≠ k → t.core j = s.core j) := by
  have hcore : ((s.updCore k (·.putHandle h new)).complete r 0 0 0).core k = (s.core k).putHandle h new :=
    s.core_updCore_same k (·.putHandle h new)
  refine ⟨_, hi, State.complete_completes rfl hm _ _ _, ?_, fun _ => rfl, fun j => ?_,
    fun j hj => s.core_updCore_ne k j (·.putHandle h new) hj.symm⟩
  · rw [hcore, Core.putHandle_ink]
  · rw [hcore, Core.putHandle_handle]

/-- Settles O41: the page forms write the entry by `State.writeEntry_mem`, and the inkwell forms one handle by `runs_putHandle`. -/
theorem mappingCommandsComplete : Obligations.MappingCommandsComplete := by
  unfold Obligations.MappingCommandsComplete
  intro s r m a
  dsimp only
  refine ⟨fun hrun hone hodd hentry hfree hroom => ?map, fun hrun hone hwindow hcores hbusy => ?unmap,
    fun hrun hform howns hst hcount hrows hmeet hquota1 hquota2 => ?mapInk, fun hrun hform howns hst => ?unmapInk⟩
  case map =>
    obtain ⟨hm, -, -⟩ := State.running_some hrun
    obtain ⟨hform, hcount, hok, hsize, haddr, hwf⟩ := hone
    have hpage : OnePage s m a := ⟨hcount, hok, hsize, haddr⟩
    have hlooked := s.readEntries_looked m.tenant m.pages.vas
    have hexec : exec (.mapPage r) s = .next (s.mapPages r m) := by simp only [exec_mapPage, execMapPage, hrun, hform, if_true]
    rw [hpage.mapPages r hentry hfree hroom] at hexec
    have hmem := (State.writeEntry_mem hpage.readEntries_addr (hlooked.mem.symm ▸ hwf) (m.param 1)).resolve_right fun h => by omega
    rw [hlooked.mem] at hmem
    have hsmall : m.param 1 < 2 ^ 64 := by
      simp only [State.entryOk, hodd, Nat.one_ne_zero, if_false, Bool.and_eq_true, decide_eq_true_eq] at hentry
      exact hentry.1.1.1.1.1.1.1
    have hmem' (t : State) (ht : t.mem = Memory.writeLe s.mem a 8 (m.param 1)) : Memory.readLe t.mem a 8 = m.param 1 ∧
        ∀ b, b < a ∨ a + 8 ≤ b → Memory.read t.mem b = Memory.read s.mem b := by
      rw [ht, Memory.readLe_writeLe a 8 _ hwf]
      exact ⟨Nat.mod_eq_of_lt hsmall, fun b hb => Memory.read_writeLe8_ne hwf hb⟩
    exact ⟨_, hexec, State.complete_completes ((State.writeEntry_cmds hpage.readEntries_addr _).trans hlooked.cmds) hm _ _ _,
      hmem' _ hmem⟩
  case unmap =>
    obtain ⟨hm, -, -⟩ := State.running_some hrun
    obtain ⟨hform, hcount, hok, hsize, haddr, hwf⟩ := hone
    have hpage : OnePage s m a := ⟨hcount, hok, hsize, haddr⟩
    have hlooked := s.readEntries_looked m.tenant m.pages.vas
    have hexec : exec (.unmapPage r) s = .next (s.unmapPages r m) := by
      simp only [exec_unmapPage, execUnmapPage, hrun, hform, if_true]
    rw [hpage.unmapPages r hwindow hcores hbusy] at hexec
    have htop : l1EntryAddr ((s.readEntries m.tenant m.pages.vas).func m.tenant) m.pages.va = l1EntryAddr (s.func m.tenant) m.pages.va :=
      l1EntryAddr_congr (s.readEntries_tableBase m.tenant m.pages.vas m.tenant) _
    have hmem := State.writeEntry_mem hpage.readEntries_addr (hlooked.mem.symm ▸ hwf) 0
    rw [hlooked.mem, htop] at hmem
    have hcmds := (State.writeEntry_cmds hpage.readEntries_addr 0).trans hlooked.cmds
    generalize (s.readEntries m.tenant m.pages.vas).writeEntry m.tenant m.pages.va m.pages.big 0 = u at hexec hmem hcmds
    refine ⟨_, hexec, State.complete_completes hcmds hm _ _ _, Memory.readLe_of_zeros 8 fun b hlo hhi => ?zero,
      fun b hb hbtop => ?frame, fun d y hy => State.dropRange_tlb hpage.bytes_pos hy⟩
    case zero =>
      show Memory.read u.mem b = 0
      obtain hmem | ⟨-, hmem⟩ := hmem
      · rw [hmem, Memory.read_writeLe_zero hwf, if_pos ⟨hlo, hhi⟩]
      · rw [hmem, Memory.read_writeLe_zero (Memory.wf_writeLe a 8 0 hwf), Memory.read_writeLe_zero hwf, if_pos (And.intro hlo hhi), ite_self]
    case frame =>
      show Memory.read u.mem b = Memory.read s.mem b
      obtain hmem | ⟨-, hmem⟩ := hmem
      · rw [hmem, Memory.read_writeLe8_ne hwf hb]
      · rw [hmem, Memory.read_writeLe8_ne (Memory.wf_writeLe a 8 0 hwf) hbtop, Memory.read_writeLe8_ne hwf hb]
  case mapInk =>
    obtain ⟨hm, -, -⟩ := State.running_some hrun
    have hfree : (s.core m.inkCore).handles.any (fun p => p.2.st == 1 &&
        rowsMeet (m.param 1 % 2 ^ 14) (m.param 1 / 2 ^ 16 % 2 ^ 15) p.2.base p.2.count) = false := by
      refine List.any_eq_false.mpr fun y hy hcontra => ?_
      simp only [Bool.and_eq_true, beq_iff_eq] at hcontra
      exact Bool.false_ne_true ((hmeet y hy hcontra.1).symm.trans hcontra.2)
    refine runs_putHandle hm ?_
    simp only [exec_mapInkwell, execMapInkwell, hrun, hform, Bool.false_eq_true, if_false]
    congr 1
    unfold State.mapInk
    extract_lets k h p1 base count core use new
    rw [if_neg (by simp [-Nat.reducePow, k, h, p1, base, count, core, howns, hst, hcount, hrows, hfree]),
      if_neg (by simp [use, hquota1]), if_neg (by simp [-Nat.reducePow, use, count, p1, hquota2])]
    rfl
  case unmapInk =>
    obtain ⟨hm, -, -⟩ := State.running_some hrun
    refine runs_putHandle hm ?_
    simp [exec_unmapInkwell, execUnmapInkwell, hrun, hform, State.unmapInk, howns, hst]
    rfl

end Sys2Proof.Claims
end

section
/-! SUPPORT. What a translation and a read of stack memory leave of a die (R186, R189, R210, R211): its trace rings (R376). -/

namespace Sys2Proof.Machine

/-- A die that may be answered has its trace rings unchanged. -/
def Die.RingsOpt (d : Die) (o : Option Die) : Prop := ∀ e, o = some e → e.traces = d.traces

theorem Die.ringsOpt_none (d : Die) : d.RingsOpt none := fun _ h => nomatch h

theorem Die.ringsOpt_some {d e : Die} (h : e.traces = d.traces) : d.RingsOpt (some e) := fun _ he => Option.some.inj he ▸ h

theorem Die.RingsOpt.map {d : Die} {o : Option Die} (h : d.RingsOpt o) {f : Die → Die} (hf : ∀ x, (f x).traces = x.traces) :
    d.RingsOpt (o.map f) := by
  rintro e he
  obtain ⟨x, hx, rfl⟩ := Option.map_eq_some_iff.mp he
  exact (hf x).trans (h x hx)

theorem Die.RingsOpt.getD {d : Die} {o : Option Die} (h : d.RingsOpt o) : (o.getD d).traces = d.traces := by
  cases o with
  | none => rfl
  | some e => exact h e rfl

theorem Die.queueWrite_traces (d : Die) (line fn : Nat) (back : Bool) : d.RingsOpt (d.queueWrite line fn back) := by
  unfold Die.queueWrite
  dsimp only
  split
  · exact d.ringsOpt_none
  · exact d.ringsOpt_some rfl

theorem Die.queueRead_traces (d : Die) (line fn : Nat) : d.RingsOpt (d.queueRead line fn) := by
  unfold Die.queueRead
  dsimp only
  split
  · exact d.ringsOpt_some rfl
  · split
    · exact d.ringsOpt_none
    · exact d.ringsOpt_some rfl

theorem Die.ask_traces (d : Die) (spa fn hint : Nat) (who : List Engine) : (d.ask spa fn hint who).traces = d.traces := by
  have hread := d.queueRead_traces (lineOf spa) fn
  unfold Die.ask
  split
  · refine Die.RingsOpt.getD ?_
    unfold Die.fetch
    dsimp only
    split
    · exact d.ringsOpt_some rfl
    · exact hread.map fun _ => rfl
  · refine Die.RingsOpt.getD ?_
    unfold Die.miss
    dsimp only
    split
    · split
      · exact d.ringsOpt_some rfl
      · split
        · exact d.ringsOpt_none
        · exact d.ringsOpt_some rfl
    · split
      · exact d.ringsOpt_none
      · exact hread.map fun _ => rfl

theorem Die.evictLine_traces (d : Die) (offer : Bool) (fn : Nat) (l : DcLine) : d.RingsOpt (d.evictLine offer fn l) := by
  unfold Die.evictLine
  dsimp only
  split
  · split
    · exact fun e he => (Die.queueWrite_traces _ _ _ _ e he :)
    · exact d.ringsOpt_some rfl
  · split
    · exact d.ringsOpt_some rfl
    · split
      · exact d.ringsOpt_none
      · exact d.ringsOpt_some rfl

theorem Die.clearWay_traces (d : Die) (offer : Bool) (fn key w : Nat) : d.RingsOpt (d.clearWay offer fn key w) := by
  unfold Die.clearWay
  dsimp only
  split
  · exact fun e he => (Die.evictLine_traces _ _ _ _ e he :)
  · exact d.ringsOpt_some rfl

theorem Die.place_traces (d : Die) (offer : Bool) (spa fn : Nat) (dirty keep : Bool) :
    d.RingsOpt (d.place offer spa fn dirty keep) := by
  intro e h
  obtain ⟨w, -, h⟩ := Option.bind_eq_some_iff.mp h
  obtain ⟨d1, hd, rfl⟩ := Option.map_eq_some_iff.mp h
  exact (d.clearWay_traces _ _ _ _ d1 hd :)

theorem Die.lookup_traces {d e : Die} {offer : Bool} {spa fn hint : Nat} (h : d.lookup offer spa fn hint = .here e) :
    e.traces = d.traces := by
  unfold Die.lookup at h
  dsimp only at h
  split at h
  · cases h
    split
    · rfl
    · split <;> rfl
  · split at h
    · exact nomatch h
    · split at h
      · cases h
        rfl
      · split at h
        · next hplace =>
          cases h
          exact (Die.place_traces _ _ _ _ _ _ e hplace :)
        · exact nomatch h

/-- Between two states no die's trace rings changed. -/
def SameRings (s t : State) : Prop := ∀ d, (t.die d).traces = (s.die d).traces

theorem SameRings.refl (s : State) : SameRings s s := fun _ => rfl

theorem SameRings.trans {s t u : State} (h : SameRings s t) (g : SameRings t u) : SameRings s u := fun d => (g d).trans (h d)

theorem SameRings.of_dies {s t : State} (h : t.dies = s.dies) : SameRings s t := fun d => by rw [State.die, h]; rfl

theorem sameRings_foldl {α : Type} {f : State → α → State} (hf : ∀ t x, SameRings t (f t x)) (l : List α) (s : State) :
    SameRings s (l.foldl f s) := by
  induction l generalizing s with
  | nil => exact .refl s
  | cons x l ih => exact (hf s x).trans (ih _)

theorem sameRings_bind {α β : Type} {s : State} {x : Acc α} {f : α → State → Acc β} (hx : SameRings s x.left)
    (hf : ∀ a t, SameRings t (f a t).left) : SameRings s (x.bind f).left := by
  cases x with
  | ok a t => exact SameRings.trans hx (hf a t)
  | wait t => exact hx
  | trap c a t => exact hx
  | page c v w t => exact hx
  | poison a t => exact hx
  | lost r t => exact hx

/-- A change of one die. -/
theorem SameRings.of_set {s t : State} {d : Nat} {x : Die} (ht : t.dies = SMap.set s.dies d x)
    (hx : x.traces = (s.die d).traces) : SameRings s t := by
  intro i
  rw [State.die, ht, SMap.get_set]
  split
  · next h => rw [hx, h]
  · rfl

theorem State.updDie_rings {s : State} {d : Nat} {f : Die → Die} (hf : (f (s.die d)).traces = (s.die d).traces) :
    SameRings s (s.updDie d f) := .of_set rfl hf

theorem State.updCache_rings {s : State} {spa : Nat} {f : Die → Die}
    (hf : (f (s.die (dieOf spa))).traces = (s.die (dieOf spa)).traces) (fn : Nat) : SameRings s (s.updCache spa fn f) :=
  (State.updDie_rings hf).trans (sameRings_foldl (fun t _ => .of_dies (t := t.countFunc _ _ _) rfl) _ _)

theorem State.countLine_rings (s : State) (e : Engine) (spa event : Nat) : SameRings s (s.countLine e spa event) :=
  fun d => congrArg Die.traces (s.countLine_die e spa event d)

theorem State.askLine_rings (s : State) (e : Engine) (fn hint spa : Nat) : SameRings s (s.askLine e fn hint spa).2 := by
  unfold State.askLine
  split
  · exact .refl s
  · split
    · next d hd => exact (State.updCache_rings (Die.lookup_traces hd) fn).trans (State.countLine_rings _ _ _ _)
    · exact .refl s
    · have hask : SameRings s (s.updDie (dieOf spa) (fun d => d.ask spa fn hint [e])) :=
        State.updDie_rings (Die.ask_traces _ _ _ _ _)
      dsimp only
      split
      · exact hask
      · exact hask.trans (State.countLine_rings _ _ _ _)

theorem State.stackRead_rings (s : State) (e : Engine) (fn hint spa n : Nat) : SameRings s (s.stackRead e fn hint spa n).2 := by
  unfold State.stackRead
  dsimp only
  split <;> exact sameRings_foldl (fun t p => t.askLine_rings _ _ _ _) _ s

theorem State.tableRead_rings (s : State) (ag : Agent) (a : Nat) : SameRings s (s.tableRead ag a).left := by
  unfold State.tableRead
  dsimp only
  split
  · exact s.stackRead_rings _ _ _ _ _
  · split <;> exact s.stackRead_rings _ _ _ _ _

theorem State.fillWalkCache_rings (s : State) (die fn va e : Nat) : SameRings s (s.fillWalkCache die fn va e) := by
  exact .of_set rfl rfl

theorem State.walkReads_rings (s : State) (ag : Agent) (va : Nat) (wr : Bool) : SameRings s (s.walkReads ag va wr).left := by
  unfold State.walkReads
  dsimp only
  split
  · exact .refl s
  · refine sameRings_bind ?_ fun e1 t => ?_
    · split
      · exact .refl s
      · exact s.tableRead_rings _ _
    · split
      · exact .refl t
      · split
        · exact t.fillWalkCache_rings _ _ _ _
        · refine (t.fillWalkCache_rings _ _ _ _).trans (sameRings_bind (State.tableRead_rings _ _ _) fun e2 u => ?_)
          split <;> exact .refl u

theorem State.countDie_rings (s : State) (d off n : Nat) : SameRings s (s.countDie d off n) := .of_set rfl rfl

theorem State.walkFor_rings (s : State) (ag : Agent) (va : Nat) (wr : Bool) : SameRings s (s.walkFor ag va wr).left := by
  have hreads := s.walkReads_rings ag va wr
  unfold State.walkFor
  dsimp only
  split
  · exact .refl s
  · generalize s.walkReads ag va wr = r at hreads
    cases r with
    | ok p t => exact SameRings.trans hreads ((SameRings.of_set rfl (by rfl)).trans (State.countDie_rings _ _ _ _))
    | wait t => exact SameRings.trans hreads (.of_set rfl rfl)
    | trap c v t => exact hreads
    | page c v w t => exact SameRings.trans hreads ((SameRings.of_set rfl (by rfl)).trans (State.countDie_rings _ _ _ _))
    | poison a t => exact SameRings.trans hreads ((SameRings.of_set rfl (by rfl)).trans (State.countDie_rings _ _ _ _))
    | lost r t => exact hreads

theorem State.fillCoreTlb_rings (s : State) (ag : Agent) (t : TlbEntry) : SameRings s (s.fillCoreTlb ag t) := by
  unfold State.fillCoreTlb
  split
  · exact .of_dies rfl
  · exact .refl s

theorem State.fillDieTlb_rings (s : State) (die : Nat) (t : TlbEntry) : SameRings s (s.fillDieTlb die t) := by
  exact .of_set rfl rfl

/-- A translation changes no trace ring (R210, R211). -/
theorem State.locate_rings (s : State) (ag : Agent) (va : Nat) (a : Access) : SameRings s (s.locate ag va a).left := by
  have hgrant (u : State) (t : TlbEntry) : SameRings u (u.grant ag t va a).left := (u.grant_left ag t va a).symm ▸ .refl u
  unfold State.locate
  split
  · exact hgrant s _
  · split
    · exact sameRings_bind (hgrant s _) fun l t => t.fillCoreTlb_rings _ _
    · refine sameRings_bind (s.walkFor_rings _ _ _) fun p t => ?_
      exact sameRings_bind (hgrant t _) fun l u => (u.fillDieTlb_rings _ _).trans (State.fillCoreTlb_rings _ _ _)

theorem State.readLoc_rings (s : State) (ag : Agent) (va a n : Nat) : SameRings s (s.readLoc ag va (.stack a) n).left := by
  unfold State.readLoc
  dsimp only
  split
  · exact s.stackRead_rings _ _ _ _ _
  · split <;> exact s.stackRead_rings _ _ _ _ _

theorem State.l1Read_rings (s : State) (ag : Agent) (key a n : Nat) : SameRings s (s.l1Read ag key a n).left := by
  unfold State.l1Read
  dsimp only
  split
  · exact .refl s
  · exact sameRings_bind (s.readLoc_rings _ _ _ _) fun _ _ => .of_dies rfl

theorem State.accessDone_rings (s : State) (e : Engine) (cmd : Option CmdRef) : SameRings s (s.accessDone e cmd) := by
  unfold State.accessDone
  dsimp only
  split
  · exact State.updDie_rings rfl
  · exact .refl s

end Sys2Proof.Machine
end

section
/-! SUPPORT. Reads of several lines of stack memory that are at hand (R157, R159, R186, R189). -/

namespace Sys2Proof.Machine

open Sys2Proof.Claims

theorem map_updFirst {α β : Type} {p : α → Bool} {f : α → α} {g : α → β} (hf : ∀ x, g (f x) = g x) (l : List α) :
    (updFirst p f l).map g = l.map g := by
  induction l with
  | nil => rfl
  | cons x l ih =>
    rw [updFirst]
    split
    · rw [List.map_cons, List.map_cons, hf]
    · rw [List.map_cons, List.map_cons, ih]

/-- The lines that a die cache holds and those that have come for an access. -/
def Die.present (d : Die) : List Nat × List (Engine × Loc) := (d.lines.map DcLine.line, d.arrived)

theorem Die.updLine_present (d : Die) (line : Nat) {f : DcLine → DcLine} (hf : ∀ x, (f x).line = x.line) :
    (d.updLine line f).present = d.present :=
  congrArg (·, d.arrived) (map_updFirst hf d.lines)

theorem Die.holds_iff (d : Die) (line : Nat) : d.holds line ≠ none ↔ line ∈ d.present.1 := by
  simp [Die.holds, Die.present]

/-- A read of a held line leaves the lines present (R186). -/
theorem Die.lookup_present {d e : Die} {a : Nat} (h : d.holds (lineOf a) ≠ none) {offer : Bool} {fn hint : Nat}
    (he : d.lookup offer a fn hint = .here e) : e.present = d.present := by
  obtain ⟨l, hl⟩ := Option.ne_none_iff_exists'.mp h
  rw [Die.lookup, hl] at he
  cases he
  split
  · rfl
  · split
    · exact (d.touch (setKey a) l.way).updLine_present _ fun _ => rfl
    · rfl

theorem State.updCache_dies (s : State) (a fn : Nat) (f : Die → Die) :
    (s.updCache a fn f).dies = (s.updDie (dieOf a) f).dies :=
  foldl_view (view := State.dies) (f := fun (t : State) (l : DcLine) => t.countFunc l.tenant 0x20 1) (fun _ _ => rfl) _ _

/-- Between two states no line came to a die or left it. -/
def SamePresent (s t : State) : Prop := ∀ d, (t.die d).present = (s.die d).present

theorem SamePresent.lineHere {s t : State} (h : SamePresent s t) (e : Engine) (a : Nat) : t.lineHere e a ↔ s.lineHere e a := by
  have harrived : (t.die e.die).arrived = (s.die e.die).arrived := congrArg Prod.snd (h e.die)
  rw [State.lineHere, State.lineHere, State.hasArrived, State.hasArrived, harrived, State.holdsLine, State.holdsLine,
    Die.holds_iff, Die.holds_iff, h]

theorem State.askLine_present {s : State} {e : Engine} {a : Nat} (h : s.lineHere e a) (fn hint : Nat) :
    SamePresent s (s.askLine e fn hint a).2 := by
  unfold State.askLine
  split
  · exact fun _ => rfl
  · next harrived =>
    have hheld := h.resolve_left harrived
    obtain ⟨d1, hd, -⟩ := Die.lookup_held hheld s.mod.evict fn hint
    rw [hd]
    intro d
    rw [State.countLine_die, State.die, State.updCache_dies]
    refine (congrArg Die.present (State.die_updDie ..)).trans ?_
    split
    · next heq => rw [← heq, Die.lookup_present hheld hd]
    · rfl

/-- A read inside one line that is here leaves the lines present. -/
theorem State.readLoc_present {s : State} {ag : Agent} {a n : Nat} (hn : 0 < n) (hfit : a % 256 + n ≤ 256)
    (hhere : s.lineHere ag.engine a) (va : Nat) : SamePresent s (s.readLoc ag va (.stack a) n).left := by
  have hread : s.stackRead ag.engine ag.fn ag.hint a n = (true, (s.askLine ag.engine ag.fn ag.hint a).2) := by
    simp [State.stackRead, pieces_single hn hfit, (s.askLine_here hhere ag.fn ag.hint).1]
  simp only [State.readLoc, hread, Bool.not_true, Bool.false_eq_true, if_false]
  split <;> exact s.askLine_present hhere _ _

/-- The 64-byte line of an address can be read through an L1 at once: it is there, or it is here and not poisoned. -/
def State.handy (s : State) (e : Engine) (key a : Nat) : Prop :=
  (∃ x ∈ (s.core key).l1, x.line = .stack (a / 64 * 64)) ∨ (s.lineHere e a ∧ s.poison.contains (a / 256) = false)

theorem handy_of_atHand {s : State} {c : CtxRef} {a : Nat} (h : AtHand s c a) : s.handy (.ctx c) c.key a := by
  obtain hl1 | ⟨hheld, hclean⟩ | ⟨harrived, hclean⟩ := h
  · exact .inl hl1
  · exact .inr ⟨.inr hheld, hclean⟩
  · exact .inr ⟨.inl harrived, hclean⟩

theorem find?_filter_ne {α : Type} [DecidableEq α] {p : α → Bool} {y : α} (hy : p y = false) (l : List α) :
    (l.filter (fun z => z != y)).find? p = l.find? p := by
  rw [List.find?_filter]
  refine congrArg (List.find? · l) (funext fun z => ?_)
  by_cases hz : z = y
  · simp [hz, hy]
  · simp [hz]

/-- A new line leaves the lines of the other sets of the L1 (R159). -/
theorem Core.l1Fill_find? {k : Core} {x : L1Line} {m : Loc} (h : l1Set m ≠ l1Set x.line) (seed : Nat) :
    (k.l1Fill seed x).l1.find? (fun y => y.line == m) = k.l1.find? (fun y => y.line == m) := by
  have hx : ¬ x.line = m := fun heq => h (congrArg l1Set heq.symm)
  unfold Core.l1Fill
  dsimp only
  rw [List.find?_cons_of_neg (by simpa using hx)]
  split
  · next y hy =>
    refine find?_filter_ne (p := fun z : L1Line => z.line == m) (beq_eq_false_iff_ne.mpr fun hline => h ?_) _
    have hsame : y ∈ k.l1.filter (fun y => l1Set y.line == l1Set x.line) := by
      split at hy
      · exact nomatch hy
      · exact List.mem_of_getElem? hy
    rw [← hline]
    exact beq_iff_eq.mp (List.mem_filter.mp hsame).2
  · rfl

theorem State.l1Filled_l1 (s : State) (key : Nat) (x : L1Line) (j : Nat) :
    ((s.l1Filled key x j).core key).l1 = ((s.core key).l1Fill s.free x).l1 := by
  show ((s.updCore key (fun c => (c.l1Fill s.free x).countEvent 8 (some j) 1)).core key).l1 = _
  rw [State.core_updCore_same, Core.countEvent_eq]

/-- A read through the L1 of a line that is handy leaves the lines of the other sets, and the lines present. -/
theorem State.l1Read_others {s t : State} {ag : Agent} {key a n : Nat} {bs : List Byte} (hhandy : s.handy ag.engine key a)
    (h : s.l1Read ag key a n = .ok bs t) : SamePresent s t ∧ ∀ b, a / 64 % 128 ≠ b / 64 % 128 →
      (t.core key).l1.find? (fun x => x.line == .stack (b / 64 * 64)) =
        (s.core key).l1.find? (fun x => x.line == .stack (b / 64 * 64)) := by
  cases hfind : (s.core key).l1.find? (fun x => x.line == .stack (a / 64 * 64)) with
  | some x =>
    simp only [State.l1Read, hfind, Acc.ok.injEq] at h
    rw [← h.2]
    exact ⟨fun _ => rfl, fun _ _ => rfl⟩
  | none =>
    obtain ⟨hhere, -⟩ := hhandy.resolve_left fun ⟨x, hx, hline⟩ => by simpa [hline] using List.find?_eq_none.mp hfind x hx
    have hsame : a / 64 * 64 / 256 = a / 256 := by omega
    have hhere' : s.lineHere ag.engine (a / 64 * 64) := by
      rw [State.lineHere, hsame, State.holdsLine_congr hsame]
      exact hhere
    simp only [State.l1Read, hfind] at h
    obtain ⟨bytes, u, hread, hfill⟩ := Acc.bind_eq_ok h
    have hpresent := State.readLoc_present (ag := ag) (n := 64) (by decide) (by omega) hhere' 0
    have hlooked : Looked s (s.readLoc ag 0 (.stack (a / 64 * 64)) 64).left := by
      unfold State.readLoc
      dsimp only
      split
      · exact s.stackRead_looked _ _ _ _ _
      · split <;> exact s.stackRead_looked _ _ _ _ _
    rw [hread] at hpresent hlooked
    obtain rfl : t = u.l1Filled key ⟨.stack (a / 64 * 64), BitVec.ofNat 512 (leNat bytes)⟩ ((ag.who.map (fun w => w.2)).getD 0) :=
      (Acc.ok.inj hfill).2.symm
    refine ⟨hpresent, fun b hb => ?_⟩
    have hset : l1Set (.stack (b / 64 * 64)) ≠ l1Set (.stack (a / 64 * 64)) := by
      simp only [l1Set, Loc.addr]
      omega
    have hl1 : (u.core key).l1 = (s.core key).l1 := Looked.l1 hlooked key
    rw [State.l1Filled_l1, Core.l1Fill_find? hset, hl1]

/-- A read through the L1 of handy lines of different sets gives what the core sees (R159). -/
theorem State.l1Reads {ag : Agent} {key : Nat} (fuel : Nat) : ∀ {s : State} {a n : Nat},
    n = 0 ∨ a % 64 + n ≤ 64 * fuel → a % 64 + n ≤ 8192 → (∀ i, i < n → s.handy ag.engine key (a + i)) →
      ∃ t, SameBut Core.sansL1 s t ∧ SameRings s t ∧
      accCollect (fun (p : Nat × Nat) s => s.l1Read ag key p.1 p.2) (lineParts64 fuel a n) s =
        .ok ((List.range n).map (fun i => s.l1Byte key (a + i))) t := by
  induction fuel with
  | zero =>
    intro s a n hfuel _ _
    obtain rfl : n = 0 := by omega
    exact ⟨s, .refl s, .refl s, rfl⟩
  | succ fuel ih =>
    intro s a n hfuel hsets hhandy
    by_cases hn : n = 0
    · rw [hn]
      exact ⟨s, .refl s, .refl s, rfl⟩
    · rw [lineParts64, if_neg hn]
      generalize hk : min n (64 - a % 64) = k
      have hfirst : s.handy ag.engine key a := hhandy 0 (by omega)
      obtain ⟨u, hu, hread⟩ := State.l1Read_line (ag := ag) (n := k) (by omega) key hfirst
      obtain ⟨hpresent, hothers⟩ := State.l1Read_others hfirst hread
      have hrings := s.l1Read_rings ag key a k
      rw [hread] at hrings
      have hfind (i : Nat) (hi : i < n - k) := hothers (a + k + i) (by omega)
      have hhandy' (i : Nat) (hi : i < n - k) : u.handy ag.engine key (a + k + i) := by
        have hold := hhandy (k + i) (by omega)
        rw [← Nat.add_assoc] at hold
        obtain ⟨x, hx, hline⟩ | ⟨hhere, hclean⟩ := hold
        · refine .inl ?_
          obtain ⟨y, hy⟩ := Option.ne_none_iff_exists'.mp
            (show (s.core key).l1.find? (fun x => x.line == .stack ((a + k + i) / 64 * 64)) ≠ none from fun hnone => by
              simpa [hline] using List.find?_eq_none.mp hnone x hx)
          rw [← hfind i hi] at hy
          exact ⟨y, List.mem_of_find?_eq_some hy, by simpa using List.find?_some hy⟩
        · exact .inr ⟨(hpresent.lineHere _ _).mpr hhere, hu.poison.symm ▸ hclean⟩
      have hbyte (i : Nat) (hi : i < n - k) : u.l1Byte key (a + k + i) = s.l1Byte key (a + k + i) := by
        rw [State.l1Byte, State.l1Byte, hfind i hi, hu.mem]
      obtain ⟨t, ht, hrings', hrest⟩ := ih (s := u) (a := a + k) (n := n - k) (by omega) (by omega) hhandy'
      refine ⟨t, hu.trans ht, SameRings.trans hrings hrings', ?_⟩
      have hsplit : List.range n = List.range k ++ (List.range (n - k)).map (k + ·) := by
        rw [← List.range_add]
        congr 1
        omega
      rw [accCollect, hread, Acc.bind, hrest, hsplit, List.map_append, List.map_map]
      refine congrArg (fun l => Acc.ok (_ ++ l) t) (List.map_congr_left fun i hi => ?_)
      rw [hbyte i (List.mem_range.mp hi), Function.comp_apply, Nat.add_assoc]

/-- A context's read of lines at hand gives what it sees (R157, R159). -/
theorem State.coreRead_lines {s : State} {c : CtxRef} {a n : Nat} (hsets : a % 64 + n ≤ 8192)
    (hhand : ∀ i, i < n → AtHand s c (a + i)) {ag : Agent} (hag : ag.engine = .ctx c) (va : Nat) :
    ∃ t, SameBut Core.sansL1 s t ∧ SameRings s t ∧
      s.coreRead ag c.key c.idx va (.stack a) n = .ok ((List.range n).map (fun i => SeenByte s c (a + i))) t := by
  obtain ⟨t, ht, hrings, hread⟩ := State.l1Reads (ag := ag) (key := c.key) (n / 64 + 2) (s := s) (a := a) (n := n) (by omega) hsets
    (fun i hi => hag ▸ handy_of_atHand (hhand i hi))
  refine ⟨t, ht, hrings, ?_⟩
  simp only [State.coreRead, hread, Acc.bind, ht.sb, overlaySb_range, seenByte_eq]

end Sys2Proof.Machine
end

section
/-! SUPPORT. The image of a cp1 or cp2 instruction (R252, R314), read of an inkwell row or of stack memory. -/

namespace Sys2Proof.Machine

open Sys2Proof.Claims

/-- A core without its caches, its counters and what it keeps of single-bit errors. -/
def Core.sansImage (k : Core) : Core := { k.sansL1 with inkSoft := [], eccCorr := 0 }

/-- An image has been read: only caches, TLBs, counters and single-bit errors differ, and of the dies no trace ring. -/
structure ImageDone (s t : State) : Prop where
  same : SameBut Core.sansImage s t
  rings : SameRings s t

theorem ImageDone.refl (s : State) : ImageDone s s := ⟨.refl s, .refl s⟩

theorem ImageDone.of_sansL1 {s t : State} (h : SameBut Core.sansL1 s t) (hrings : SameRings s t) : ImageDone s t :=
  ⟨⟨h.rest, fun k => congrArg (fun c : Core => { c with inkSoft := [], eccCorr := 0 }) (h.core k)⟩, hrings⟩

section
variable {s t : State} (h : ImageDone s t)
include h

theorem ImageDone.ctx (k j : Nat) : t.ctx k j = s.ctx k j := by
  have hctxs : (t.core k).ctxs = (s.core k).ctxs := (congrArg Core.ctxs (h.same.core k) :)
  rw [State.ctx, Core.ctx, hctxs]
  rfl

theorem ImageDone.ctxOf (c : CtxRef) : t.ctxOf c = s.ctxOf c := h.ctx _ _
theorem ImageDone.ink (k : Nat) : (t.core k).ink = (s.core k).ink := (congrArg Core.ink (h.same.core k) :)
theorem ImageDone.owned (k : Nat) : (t.core k).owned = (s.core k).owned := (congrArg Core.owned (h.same.core k) :)
theorem ImageDone.tenantOf (k : Nat) : t.tenantOf k = s.tenantOf k := (congrArg Core.owner (h.same.core k) :)
theorem ImageDone.sameMem : SameMem s t := fun a => by rw [h.same.mem]
theorem ImageDone.cmd (r : CmdRef) : t.cmd r = s.cmd r := (congrArg (fun u : State => u.cmd r) h.same.rest :)
theorem ImageDone.mod : t.mod = s.mod := (congrArg State.mod h.same.rest :)
theorem ImageDone.group (g : Nat) : t.group g = s.group g := (congrArg (fun u : State => u.group g) h.same.rest :)
theorem ImageDone.ligOps : t.ligOps = s.ligOps := (congrArg State.ligOps h.same.rest :)

theorem ImageDone.collOk (fn : Nat) (c : Coll) (rs : List Rng) : t.collOk fn c rs = s.collOk fn c rs :=
  (congrArg (fun u : State => u.collOk fn c rs) h.same.rest :)

theorem ImageDone.feedCheck (fn die : Nat) (op : FeedOp) (f : FeedDesc) : t.feedCheck fn die op f = s.feedCheck fn die op f := by
  have hside : t.sideOk fn die f = s.sideOk fn die f := funext fun sd => by
    have howner : (t.core (coreKey die sd.core)).owner = (s.core (coreKey die sd.core)).owner := h.tenantOf _
    simp only [State.sideOk, h.owned, howner]
  rw [State.feedCheck, State.feedCheck, hside]

end

theorem State.correctRows_done (s : State) (key : Nat) (rows : List Nat) : ImageDone s (s.correctRows key rows) := by
  unfold State.correctRows
  split
  · refine ⟨State.updCore_sameBut ?_, .of_dies rfl⟩
    rw [Core.correctRows_eq]
    rfl
  · exact .refl s

/-- A range inside one page is one part. -/
theorem vaParts_single {va n : Nat} (hn : 0 < n) (hfit : va % 2 ^ 25 + n ≤ 2 ^ 25) : vaParts va n = [(va, n)] := by
  have hmin : min n (2 ^ 25 - va % 2 ^ 25) = n := by omega
  have hrest (m : Nat) : pageParts (m + 1) (va + n) (n - n) = [] := by rw [pageParts, if_pos (Nat.sub_self n)]
  show pageParts (n / 2 ^ 25 + 1 + 1) va n = _
  rw [pageParts, if_neg (by omega), hmin]
  exact congrArg ((va, n) :: ·) (hrest _)

/-- An image in an inkwell row is read with the row's single-bit errors corrected (R171, R172). -/
theorem State.imageRead_row {s : State} {c : CtxRef} {l : Word} (h : ReadableRow (s.core c.key) l) (n : Nat)
    (f : List Byte → State → State) : ∃ t, ImageDone s t ∧ s.imageRead c l n f =
      f ((rowBytes ((s.core c.key).row (((s.core c.key).handle (inkHandle l)).base + inkRow l))).take n) t := by
  obtain ⟨hink, hgood, hst, hrow, hintact⟩ := h
  have hcheck := Core.checkRows_read (rows := [inkRow l]) hst (by simpa using hrow)
  refine ⟨_, s.correctRows_done c.key [((s.core c.key).handle (inkHandle l)).base + inkRow l], ?_⟩
  rw [State.imageRead, if_pos hink, if_neg (by simp [hgood]), hcheck]
  simp only [State.inkChecked, State.inkReadable, List.find?_cons, List.find?_nil, hintact, List.map_cons, List.map_nil]

/-- An image in stack memory is read through the L1 (R157, R159). -/
theorem State.imageRead_stack {s u : State} {c : CtxRef} {l : Word} {n spa : Nat} (hink : isInk l = false) (hn : 0 < n)
    (hsmall : n ≤ 8192) (hfit : l.toNat % 2 ^ 25 + n ≤ 2 ^ 25) (ha : StackAccess s c l 64 .read spa u)
    (hfree : (s.ctxOf c).vecStoreMeets (.stack spa) n = false) (hhand : ∀ i, i < n → AtHand u c (spa + i))
    (f : List Byte → State → State) : ∃ t, ImageDone s t ∧ s.imageRead c l n f =
      f ((List.range n).map (fun i => SeenByte s c (spa + i))) t := by
  obtain ⟨-, -, hlooked⟩ := ha.ordered
  obtain ⟨haligned, hlow, hlocate, -⟩ := ha
  have hplace := State.locate_stack hlocate
  have hlocated := s.locate_rings (s.ctxAgent c) l.toNat .read
  rw [hlocate] at hlocated
  obtain ⟨t, ht, hrings, hread⟩ := State.coreRead_lines (ag := u.ctxAgent c) (by omega) hhand rfl l.toNat
  have hbytes : (List.range n).map (fun i => SeenByte u c (spa + i)) = (List.range n).map (fun i => SeenByte s c (spa + i)) := by
    simp only [hlooked.seenByte]
  rw [hbytes] at hread
  refine ⟨t.ctxDone c, .of_sansL1 ((hlooked.sansL1.trans ht).trans (ctxDone_sameBut t c))
    ((SameRings.trans hlocated hrings).trans (t.accessDone_rings _ _)), ?_⟩
  have hgood : vaBad l = false := decide_eq_false (by omega)
  simp only [State.imageRead, hink, hgood, haligned, State.locateAll, vaParts_single hn hfit, accCollect, hlocate, Acc.bind,
    Bool.false_eq_true, if_false, ne_eq, not_true_eq_false, List.append_nil, List.find?_cons, List.find?_nil, List.any_cons,
    List.any_nil, hfree, Bool.or_false, hread, State.accEnd]

/-- The image of a cp1 or cp2 instruction reaches it (R252, R314). -/
theorem State.imageRead_done {s : State} {c : CtxRef} {l : Word} {n : Nat} {bs : List Byte} (h : ImageAt s c l n bs) (hn : 0 < n)
    (hsmall : n ≤ 8192) (f : List Byte → State → State) : ∃ t, ImageDone s t ∧ s.imageRead c l n f = f bs t := by
  obtain ⟨hrow, rfl⟩ | ⟨hink, hfit, spa, u, ha, hfree, hhand, rfl⟩ := h
  · exact State.imageRead_row hrow n f
  · exact State.imageRead_stack hink hn hsmall hfit ha hfree hhand f

end Sys2Proof.Machine
end

section
/-! SUPPORT. FEED.START and FEED.WAIT (R252), and the tag that a cp1 or cp2 instruction gives (R252, R314). -/

namespace Sys2Proof.Machine

open Sys2Proof.Claims

/-- Contexts, memory, the inkwell of a core, queues and commands are the same. -/
structure Steady (s t : State) (key : Nat) : Prop where
  ctx : ∀ k j, t.ctx k j = s.ctx k j
  mem : SameMem s t
  ink : (t.core key).ink = (s.core key).ink
  queues : t.queues = s.queues
  cmds : t.cmds = s.cmds

theorem Steady.refl (s : State) (key : Nat) : Steady s s key := ⟨fun _ _ => rfl, fun _ => rfl, rfl, rfl, rfl⟩

theorem ImageDone.steady {s t : State} (h : ImageDone s t) (key : Nat) : Steady s t key :=
  ⟨h.ctx, h.sameMem, h.ink key, h.same.queues, h.same.cmds⟩

theorem Ctx.rx_congr {x y : Ctx} (h : x.x = y.x) (r : Nat) : x.rx r = y.rx r := by rw [Ctx.rx, Ctx.rx, h]

/-- A commit that writes x[rd] and leaves the context otherwise as `y` completes with a tag. -/
theorem commit_givesTag {s t : State} {c : CtxRef} (h : Steady s t c.key) {f : Ctx → Ctx} {rd : Nat} {v : Word} {y : Ctx}
    (hf : f (atNext s c) = { y with pc := y.pc + 4, x := ((atNext s c).wx rd v).x }) : GivesTag s (t.commit c f) c rd v y := by
  have hctx : t.ctxOf c = s.ctxOf c := h.ctx _ _
  have hnext : atNext t c = atNext s c := by rw [atNext, nextPc, hctx]; rfl
  have hdone := commit_ctxOf_of (s := t) (c := c) (f := f) ((congrArg f hnext).trans hf)
  refine ⟨?_, fun r => ?_, h.mem, ?_, h.queues, h.cmds, fun k j hkj => ?_⟩
  · rw [hdone]
  · rw [hdone]
    exact (Ctx.rx_congr rfl r).trans ((atNext s c).rx_wx_read rd v r)
  · rw [State.commit_core]
    exact h.ink
  · by_cases hk : k = c.key
    · subst hk
      exact (State.commit_ctx_ne t c f j (hkj.resolve_left fun hne => hne rfl)).trans (h.ctx _ _)
    · rw [State.ctx, State.commit_core_ne t c f k hk]
      exact h.ctx k j

/-- A trap after an image has been read enters the handler of the context that began to read it. -/
theorem ImageDone.traps {s t : State} {c : CtxRef} (h : ImageDone s t) (hcan : CanTrap s c) (cause : Nat) (arg : Word) :
    EntersHandler s (t.takeTrap c cause arg) c cause arg := by
  have hcan' : CanTrap t c := by
    rw [CanTrap, h.ctxOf]
    exact hcan
  obtain ⟨hctx, hothers, hcmds, hmem⟩ := State.takeTrap_enters hcan' cause arg
  rw [h.ctxOf] at hctx
  rw [h.rings] at hmem
  exact ⟨hctx, fun k j hkj => (hothers k j hkj).trans (h.ctx k j), hcmds.trans h.same.cmds,
    fun htraces a => (hmem htraces a).trans (h.sameMem a)⟩

/-- An instruction that issues and reads its image. -/
theorem runs_image {i : Instr} {s : State} {row : Row} {c : CtxRef} {w : Word32} {n : Nat} {bs : List Byte}
    {f : List Byte → State → State} {P : State → Prop} (hi : Issues s row c w) (h : ImageAt s c ((s.ctxOf c).rx (wRs1 w)) n bs)
    (hn : 0 < n) (hsmall : n ≤ 8192)
    (hexec : exec i s = s.issue row c w (fun u => u.imageRead c ((u.ctxOf c).rx (wRs1 w)) n f))
    (hP : ∀ t, ImageDone s t → P (f bs t)) : Runs i s P := by
  obtain ⟨t, ht, hread⟩ := State.imageRead_done h hn hsmall f
  exact ⟨_, (hexec.trans (hi.issue_next _)).trans (congrArg _ hread), hP t ht⟩

/-- An instruction whose locator is no multiple of 64 traps (R252, R314). -/
theorem runs_image_misaligned {i : Instr} {s : State} {row : Row} {c : CtxRef} {w : Word32} {n : Nat}
    {f : List Byte → State → State} (hi : Issues s row c w) (hink : isInk ((s.ctxOf c).rx (wRs1 w)) = false)
    (hbad : ((s.ctxOf c).rx (wRs1 w)).toNat % 64 ≠ 0) (hcan : CanTrap s c)
    (hexec : exec i s = s.issue row c w (fun u => u.imageRead c ((u.ctxOf c).rx (wRs1 w)) n f)) :
    Runs i s (fun t => EntersHandler s t c 3 ((s.ctxOf c).rx (wRs1 w))) := by
  refine runs_trap hcan ((hexec.trans (hi.issue_next _)).trans (congrArg _ ?_))
  rw [State.imageRead, if_neg (ne_true_of_eq_false hink), if_pos hbad]

/-- An instruction whose locator has one of bits [63:48] set traps (R202). -/
theorem runs_image_beyond {i : Instr} {s : State} {row : Row} {c : CtxRef} {w : Word32} {n : Nat}
    {f : List Byte → State → State} (hi : Issues s row c w) (hink : isInk ((s.ctxOf c).rx (wRs1 w)) = false)
    (hgood : ((s.ctxOf c).rx (wRs1 w)).toNat % 64 = 0) (hhigh : 2 ^ 48 ≤ ((s.ctxOf c).rx (wRs1 w)).toNat) (hcan : CanTrap s c)
    (hexec : exec i s = s.issue row c w (fun u => u.imageRead c ((u.ctxOf c).rx (wRs1 w)) n f)) :
    Runs i s (fun t => EntersHandler s t c 5 ((s.ctxOf c).rx (wRs1 w))) := by
  have hbad : vaBad ((s.ctxOf c).rx (wRs1 w)) = true := decide_eq_true hhigh
  refine runs_trap hcan ((hexec.trans (hi.issue_next _)).trans (congrArg _ ?_))
  rw [State.imageRead, if_neg (ne_true_of_eq_false hink), if_neg (not_not_intro hgood), if_pos hbad]

/-- A tag of cp1 is outstanding (R252). -/
def Ctx.feedBusy (x : Ctx) (i : Nat) : Bool := match SMap.find x.feedTags i with | some y => !y.isComplete | none => false

/-- A context that has taken a tag for a transfer, which takes its next n draws (R47, R252). -/
def Ctx.takeFeed (y : Ctx) (rd tag n : Nat) (new : Xfer) : Ctx :=
  { y.wx rd (BitVec.ofNat 64 tag) with
    feedTags := SMap.set y.feedTags tag new, gen := if n = 0 then y.gen else .val (lfsrAfter n y.gen.value) }

/-- FEED.START with its image read (R252). -/
def State.feedStarts (s : State) (c : CtxRef) (w : Word32) (bs : List Byte) : State :=
  let x := s.ctxOf c
  let d := BitVec.ofNat 896 (leNat bs)
  let f := FeedDesc.parse d
  let n := f.drawCount f.op
  if (s.feedCheck (s.tenantOf c.key) c.die.toNat f.op f).isSome then s.trapOperand c w else
  match freeTag x.feedBusy with
  | none => s
  | some tag =>
    if n ≠ 0 && !x.vq.isEmpty then s else
    s.commit c (fun y => y.takeFeed (wRd w) tag n { op := f.op, desc := d, gen := x.gen })

theorem exec_feedStart_eq (c : CtxRef) (w : Word32) (s : State) : exec (.feedStart c w) s =
    s.issue .feedStart c w (fun u => u.imageRead c ((u.ctxOf c).rx (wRs1 w)) 112 (fun bs u => u.feedStarts c w bs)) := rfl

section
variable {s t : State} {c : CtxRef} {bs : List Byte} (h : ImageDone s t) (w : Word32)
include h

theorem ImageDone.feedStarts_traps (hbad : ¬ s.feedCheck (s.tenantOf c.key) c.die.toNat
    (FeedDesc.parse (BitVec.ofNat 896 (leNat bs))).op (FeedDesc.parse (BitVec.ofNat 896 (leNat bs))) = none) :
    t.feedStarts c w bs = t.trapOperand c w := by
  rw [State.feedStarts, h.tenantOf, h.feedCheck, if_pos (Option.isSome_iff_ne_none.mpr hbad)]

variable (hok : s.feedCheck (s.tenantOf c.key) c.die.toNat (FeedDesc.parse (BitVec.ofNat 896 (leNat bs))).op
  (FeedDesc.parse (BitVec.ofNat 896 (leNat bs))) = none)
include hok

theorem ImageDone.feedStarts_noTag (hfree : freeTag (s.ctxOf c).feedBusy = none) : t.feedStarts c w bs = t := by
  rw [State.feedStarts, h.tenantOf, h.feedCheck, hok, if_neg (by decide), h.ctxOf, hfree]

theorem ImageDone.feedStarts_tag {i : Nat} (hfree : freeTag (s.ctxOf c).feedBusy = some i) :
    t.feedStarts c w bs =
      let d := BitVec.ofNat 896 (leNat bs)
      let f := FeedDesc.parse d
      if f.drawCount f.op ≠ 0 && !(s.ctxOf c).vq.isEmpty then t else
      t.commit c (fun y => y.takeFeed (wRd w) i (f.drawCount f.op)
        { op := f.op, desc := d, gen := (s.ctxOf c).gen }) := by
  rw [State.feedStarts, h.tenantOf, h.feedCheck, hok, if_neg (by decide), h.ctxOf, hfree]

end

end Sys2Proof.Machine
end

section
/-! SUPPORT. The end of ligature operations (R314, R327): a complete command stays as it is, and the operation's context keeps its
pc. -/

namespace Sys2Proof.Machine

open Sys2Proof.Claims

/-- The state without the fabric and the groups. -/
def State.sansSends (s : State) : State := { s with fab := {}, groups := [] }

theorem State.sendMsg_sansSends {s t : State} {sd : Sender} {h : MsgHdr} {bs : List Byte} (ht : s.sendMsg sd h bs = .sent t) :
    t.sansSends = s.sansSends := by
  unfold State.sendMsg State.sendPlain at ht
  split at ht
  · exact nomatch ht
  · cases hroute : s.routeTo ({ h with queue := sd.queue, mseq := s.fab.nextMsg } : MsgHdr).dest sd.cls with
    | none => simp [hroute] at ht
    | some r =>
      simp only [hroute, SendResult.sent.injEq] at ht
      rw [← ht]
      rfl

theorem State.sendOwed_sansSends (s : State) (gi : Nat) : (s.sendOwed gi).sansSends = s.sansSends := by
  refine foldl_view (view := State.sansSends) (fun t m => ?_) _ (s.updGroup gi _)
  split
  · next ht => exact State.sendMsg_sansSends ht
  · rfl
  · rfl

theorem State.ligControl_sansSends (s : State) (o : LigOp) (ltype : Nat) : (s.ligControl o ltype).sansSends = s.sansSends :=
  State.sendOwed_sansSends _ _

theorem State.ligControl_cmd (s : State) (o : LigOp) (ltype : Nat) (r : CmdRef) : (s.ligControl o ltype).cmd r = s.cmd r :=
  (congrArg (fun u : State => u.cmd r) (s.ligControl_sansSends o ltype) :)

/-- A change that leaves a found command as it is. -/
theorem State.cmd_updCmd_kept {s : State} {q r : CmdRef} {e : Cmd} {f : Cmd → Cmd} (h : s.cmd r = some e) (he : f e = e)
    (hf : ∀ m, (f m).ref = m.ref) : (s.updCmd q f).cmd r = some e := by
  by_cases hq : r = q
  · rw [← hq, State.cmd_updCmd_same _ _ hf, h, Option.map_some, he]
  · rw [State.cmd_updCmd_ne _ hq hf, h]

/-- A command that is not complete changes. -/
def Cmd.unlessComplete (m : Cmd) (f : Cmd → Cmd) : Cmd := if m.isComplete then m else f m

theorem State.cmd_unlessComplete {s : State} {q r : CmdRef} {e : Cmd} {f : Cmd → Cmd} (h : s.cmd r = some e)
    (he : e.isComplete = true) (hf : ∀ m, (f m).ref = m.ref) : (s.updCmd q (·.unlessComplete f)).cmd r = some e := by
  refine State.cmd_updCmd_kept h (if_pos he) fun m => ?_
  rw [Cmd.unlessComplete]
  split
  · rfl
  · exact hf m

/-- A command with the counts of an operation that has ended (R53). -/
def LigOp.addTo (o : LigOp) (m : Cmd) : Cmd := { m with sat := satAdd 16 m.sat o.sat, flush := satAdd 16 m.flush o.flush }

/-- The operation is gone, and its event traced. -/
def State.ligGone (s : State) (o : LigOp) (q n status : Nat) : State :=
  (({ s.trace o.die o.tenant 10 none 0 q n (o.opseq % 65536 + status * 2 ^ 16 + 2 ^ 63) with
    ligOps := s.ligOps.filter (fun x => !(x.group == o.group && x.die == o.die && x.opseq == o.opseq))
    ligMsgs := s.ligMsgs.filter (fun m => !(m.group == o.group && m.die == o.die && m.opseq == o.opseq % 65536))
    : State }).forgetReads (fun e : Engine => e == .ligature o.group o.die)).updDie o.die
      (fun d => d.dropEngine (.ligature o.group o.die))

theorem State.ligGone_cmd (s : State) (o : LigOp) (q n status : Nat) (r : CmdRef) : (s.ligGone o q n status).cmd r = s.cmd r := by
  have hcmds : (s.ligGone o q n status).cmds = s.cmds := (s.trace_quiet ..).cmds
  rw [State.cmd, hcmds]
  rfl

theorem State.ligGone_ctxOf (s : State) (o : LigOp) (q n status : Nat) (c : CtxRef) :
    (s.ligGone o q n status).ctxOf c = s.ctxOf c :=
  (s.trace_quiet ..).ctxOf c

theorem State.ligGone_ligOps (s : State) (o : LigOp) (q n status : Nat) : (s.ligGone o q n status).ligOps =
    s.ligOps.filter (fun x => !(x.group == o.group && x.die == o.die && x.opseq == o.opseq)) := rfl

theorem State.ligClose_ofCmd {s : State} {o : LigOp} {r : CmdRef} (ho : o.owner = .cmd r) (status detail : Nat) :
    s.ligClose o status detail = (s.ligGone o r.queue.toNat r.seq.toNat status).updCmd r
      (·.unlessComplete (fun m => (o.addTo m).finish status detail)) := by
  rw [State.ligClose, ho]
  rfl

/-- The context of an operation, with the operation's tags marked. -/
def Ctx.markLig (x : Ctx) (o : LigOp) (status : Nat) : Ctx :=
  { x with ligTags := SMap.mapVals x.ligTags (fun _ t => o.mark status t), kept := x.kept.map (o.mark status) }

/-- What the end of an operation adds to the command of its context. -/
def LigOp.strike (o : LigOp) (status detail : Nat) (m : Cmd) : Cmd :=
  if status = 6 ∨ status = 7 then (o.addTo m).outcome status detail else o.addTo m

theorem LigOp.strike_ref (o : LigOp) (status detail : Nat) (m : Cmd) : (o.strike status detail m).ref = m.ref := by
  rw [LigOp.strike]
  split
  · exact Cmd.outcome_ref ..
  · rfl

theorem State.ligClose_ofCtx {s : State} {o : LigOp} {c : CtxRef} {i : Nat} (ho : o.owner = .cp2 c i) (status detail : Nat) :
    s.ligClose o status detail =
      let u := s.ligGone o (s.ctxOf c).jobNums.1 (s.ctxOf c).jobNums.2 status
      let v := u.updCtxOf c (·.markLig o status)
      match (u.ctxOf c).job with
      | none => v
      | some r => v.updCmd r (·.unlessComplete (o.strike status detail)) := by
  rw [State.ligClose, ho]
  rfl

/-- A complete command stays as it is when an operation ends. -/
theorem State.ligClose_cmd {s : State} {r : CmdRef} {e : Cmd} (h : s.cmd r = some e) (he : e.isComplete = true) (o : LigOp)
    (status detail : Nat) : (s.ligClose o status detail).cmd r = some e := by
  have hgone (q n : Nat) : (s.ligGone o q n status).cmd r = some e := (s.ligGone_cmd o q n status r).trans h
  cases ho : o.owner with
  | cmd q =>
    rw [State.ligClose_ofCmd ho]
    exact State.cmd_unlessComplete (hgone _ _) he fun m => Cmd.finish_ref ..
  | cp2 c i =>
    rw [State.ligClose_ofCtx ho]
    dsimp only
    split
    · exact hgone _ _
    · exact State.cmd_unlessComplete (hgone _ _) he (o.strike_ref status detail)

theorem State.ligEnd_cmd {s : State} {r : CmdRef} {e : Cmd} (h : s.cmd r = some e) (he : e.isComplete = true) (o : LigOp)
    (status detail : Nat) : (s.ligEnd o status detail).cmd r = some e := by
  have hclosed (u : State) (hu : u.cmd r = some e) (p : LigOp) (code d : Nat) :
      ((u.ligClose p code d).ligControl p 2).cmd r = some e :=
    (State.ligControl_cmd ..).trans (State.ligClose_cmd hu he p code d)
  have hfold (l : List LigOp) (rank : Nat) : ∀ u : State, u.cmd r = some e →
      (l.foldl (fun u p => u.ligLost p rank) u).cmd r = some e := by
    induction l with
    | nil => exact fun _ hu => hu
    | cons p l ih => exact fun u hu => ih _ (hclosed u hu p _ _)
  unfold State.ligEnd
  extract_lets s0 s1
  have hs0 : s0.cmd r = some e := by
    show (if status = 2 ∨ status = 7 then _ else s : State).cmd r = some e
    split <;> exact h
  have hs1 : s1.cmd r = some e := hclosed s0 hs0 o status detail
  split
  · exact State.ligClose_cmd h he o status detail
  · split
    · exact hs1
    · exact hfold _ _ _ hs1

/-- A LAUNCH that ends at once (R234, R245). -/
def Cmd.endNow (m : Cmd) (status detail : Nat) : Cmd := { m.finish status detail with result := launchResult m.codes }

theorem Cmd.endNow_ref (m : Cmd) (status detail : Nat) : (m.endNow status detail).ref = m.ref := m.finish_ref status detail

/-- A command that ends at once is complete with its outcome (R245). -/
theorem State.endCommand_cmd {s : State} {r : CmdRef} {m : Cmd} (h : s.cmd r = some m) (hopen : m.isComplete = false)
    (status detail : Nat) : (s.endCommand r status detail).cmd r = some (m.endNow status detail) := by
  have hstop (l : List CtxRef) : ∀ u : State, (l.foldl (fun u x => u.stopCtx x) u).cmds = u.cmds :=
    foldl_view (view := State.cmds) (f := fun (u : State) (x : CtxRef) => u.stopCtx x) (fun _ _ => rfl) l
  have hset (f : Ctx → Ctx) (l : List CtxRef) : ∀ u : State, (l.foldl (fun u x => u.updCtxOf x f) u).cmds = u.cmds :=
    foldl_view (view := State.cmds) (f := fun (u : State) (x : CtxRef) => u.updCtxOf x f) (fun _ _ => rfl) l
  have hops {e : Cmd} (he : e.isComplete = true) (l : List LigOp) : ∀ u : State, u.cmd r = some e →
      (l.foldl (fun u o => u.ligEnd o 7 0) u).cmd r = some e := by
    induction l with
    | nil => exact fun _ hu => hu
    | cons o l ih => exact fun u hu => ih _ (State.ligEnd_cmd hu he o 7 0)
  simp only [State.endCommand, h, hopen, Bool.false_eq_true, if_false]
  generalize hs1 : (m.ctxs.foldl (fun u x => u.stopCtx x) s).stopXfers r m.ctxs = s1
  have hcmd : s1.cmd r = some m := by
    have hcmds : s1.cmds = s.cmds := by
      rw [← hs1]
      exact (hset _ _ _).trans (hstop _ _)
    rw [State.cmd, hcmds]
    exact h
  have hfinished : (s1.updCmd r (·.endNow status detail)).cmd r = some (m.endNow status detail) := by
    rw [State.cmd_updCmd_same _ _ (Cmd.endNow_ref · status detail), hcmd]
    rfl
  have hended := hops (e := m.endNow status detail) rfl (s1.ligOf r m.ctxs) _ hfinished
  rw [State.cmd, hset]
  exact hended

/-- The loss of a peer ends an operation of a context: it is gone, and the context keeps its pc (R314, R327). -/
theorem State.ligLost_ofCtx {s : State} {o : LigOp} {c : CtxRef} {i : Nat} (ho : o.owner = .cp2 c i) (rank : Nat) :
    ((s.ligLost o rank).ctxOf c).pc = (s.ctxOf c).pc ∧
    (s.ligLost o rank).ligOps.any (fun x => x.group == o.group && x.die == o.die && x.opseq == o.opseq) = false := by
  have hsends : (s.ligLost o rank).sansSends = (s.ligClose o 10 (peerDetail rank 2)).sansSends := State.ligControl_sansSends ..
  have hctx : (s.ligLost o rank).ctxOf c = (s.ligClose o 10 (peerDetail rank 2)).ctxOf c :=
    (congrArg (fun u : State => u.ctxOf c) hsends :)
  have hops : (s.ligLost o rank).ligOps = (s.ligClose o 10 (peerDetail rank 2)).ligOps := (congrArg State.ligOps hsends :)
  have hgone : (s.ligOps.filter (fun x => !(x.group == o.group && x.die == o.die && x.opseq == o.opseq))).any
      (fun x => x.group == o.group && x.die == o.die && x.opseq == o.opseq) = false := by
    refine List.any_eq_false.mpr fun x hx => ?_
    exact ne_true_of_eq_false (by simpa only [Bool.not_eq_true'] using (List.mem_filter.mp hx).2)
  generalize hu : s.ligGone o (s.ctxOf c).jobNums.1 (s.ctxOf c).jobNums.2 10 = u
  have hpc : ((u.updCtxOf c (·.markLig o 10)).ctxOf c).pc = (s.ctxOf c).pc := by
    rw [State.ctxOf_updCtxOf, ← hu, State.ligGone_ctxOf]
    rfl
  have hleft : (u.updCtxOf c (·.markLig o 10)).ligOps =
      s.ligOps.filter (fun x => !(x.group == o.group && x.die == o.die && x.opseq == o.opseq)) := by
    rw [← hu]
    exact s.ligGone_ligOps o (s.ctxOf c).jobNums.1 (s.ctxOf c).jobNums.2 10
  rw [hctx, hops, State.ligClose_ofCtx ho, hu]
  dsimp only
  split
  · exact ⟨hpc, hleft ▸ hgone⟩
  · exact ⟨hpc, hleft ▸ hgone⟩

end Sys2Proof.Machine
end

section
/-! SUPPORT. LIG.START (R313, R314, R341). -/

namespace Sys2Proof.Machine

open Sys2Proof.Claims

/-- A tag of cp2 is outstanding (R314). -/
def Ctx.ligBusy (x : Ctx) (i : Nat) : Bool := match SMap.find x.ligTags i with | some y => y.status.isNone | none => false

/-- A context that has taken a tag for an operation (R314). -/
def Ctx.joinLig (y : Ctx) (rd tag : Nat) (o : LigTag) : Ctx :=
  { y.wx rd (BitVec.ofNat 64 tag) with ligTags := SMap.set y.ligTags tag o, ligCount := y.ligCount + 1 }

/-- A context that has launched an operation, which it keeps for a replay (R341). -/
def Ctx.keepLig (y : Ctx) (rd tag : Nat) (o : LigTag) : Ctx := { y.joinLig rd tag o with kept := y.kept ++ [o] }

theorem Ctx.joinLig_eq (y : Ctx) (rd tag : Nat) (o : LigTag) : y.joinLig rd tag o =
    { y with ligTags := SMap.set y.ligTags tag o, ligCount := y.ligCount + 1, x := (y.wx rd (BitVec.ofNat 64 tag)).x } := by
  rw [Ctx.joinLig, Ctx.wx_eq]

theorem Ctx.keepLig_pc (y : Ctx) (rd tag : Nat) (o : LigTag) : (y.keepLig rd tag o).pc = y.pc := by
  rw [Ctx.keepLig, Ctx.joinLig_eq]

theorem Ctx.keepLig_x (y : Ctx) (rd tag : Nat) (o : LigTag) : (y.keepLig rd tag o).x = (y.wx rd (BitVec.ofNat 64 tag)).x := rfl

/-- The ranges that a collective of a context may use: the image's own and those of the command (R312). -/
def State.ligRanges (s : State) (c : CtxRef) (img : BitVec 1024) : List Rng :=
  (pkSlots img).map slotRange ++ (match (s.ctxOf c).job.bind s.cmd with | some m => m.ranges | none => [])

/-- The packet image fails a check of LIG.START (R312, R314). -/
def State.ligImageBad (s : State) (c : CtxRef) (img : BitVec 1024) : Bool :=
  let cl := Coll.parse img
  !(isColl cl.op) || cl.queue / 512 != c.die.toNat || !(s.collOk (s.tenantOf c.key) cl (s.ligRanges c img))

theorem State.ligImageBad_iff (s : State) (c : CtxRef) (img : BitVec 1024) : s.ligImageBad c img = false ↔
    isColl (Coll.parse img).op = true ∧ (Coll.parse img).queue / 512 = c.die.toNat ∧
      s.collOk (s.tenantOf c.key) (Coll.parse img) (s.ligRanges c img) = true := by
  simp [State.ligImageBad, and_assoc]

/-- The tag of an operation, which has ended at once when the die does not hold it (R22, R327). -/
def State.ligTagOf (s : State) (die : Nat) (img : BitVec 1024) (opseq : Nat) : LigTag :=
  { group := (Coll.parse img).group, opseq := opseq, image := img
    status := if s.ligOps.any (fun o => o.group == (Coll.parse img).group && o.die == die && o.opseq == opseq) then none
      else some 10 }

/-- LIG.START launches an operation, if there is a module number (R22, R313). -/
def State.ligEnlist (s : State) (c : CtxRef) (w : Word32) (tag : Nat) (img : BitVec 1024) : State :=
  let r := if s.mod.placeValid then
      s.ligLaunch (.cp2 c (s.ctxOf c).kept.length) (s.tenantOf c.key) c.die.toNat img (s.ligRanges c img)
    else (s, 0)
  r.1.commit c (fun y => y.keepLig (wRd w) tag (r.1.ligTagOf c.die.toNat img r.2))

theorem State.ligEnlist_placed {s : State} (hplace : s.mod.placeValid = true) (c : CtxRef) (w : Word32) (tag : Nat)
    (img : BitVec 1024) : s.ligEnlist c w tag img =
      let r := s.ligLaunch (.cp2 c (s.ctxOf c).kept.length) (s.tenantOf c.key) c.die.toNat img (s.ligRanges c img)
      r.1.commit c (fun y => y.keepLig (wRd w) tag (r.1.ligTagOf c.die.toNat img r.2)) := by
  rw [State.ligEnlist, if_pos hplace]

/-- LIG.START with its image read (R314, R341). -/
def State.ligStarts (s : State) (c : CtxRef) (w : Word32) (bs : List Byte) : State :=
  let img := BitVec.ofNat 1024 (leNat bs)
  if s.ligImageBad c img then s.trapOperand c w else
  match freeTag (s.ctxOf c).ligBusy with
  | none => s
  | some tag =>
    match (s.ctxOf c).kept[(s.ctxOf c).ligCount]? with
    | some old => s.ligJoin c w tag old img
    | none => s.ligEnlist c w tag img

theorem exec_ligStart_eq (c : CtxRef) (w : Word32) (s : State) : exec (.ligStart c w) s =
    s.issue .ligStart c w (fun u => u.imageRead c ((u.ctxOf c).rx (wRs1 w)) 64 (fun bs u => u.ligStarts c w bs)) := rfl

section
variable {s t : State} {c : CtxRef} {bs : List Byte} (h : ImageDone s t) (w : Word32)
include h

theorem ImageDone.ligImageBad (img : BitVec 1024) : t.ligImageBad c img = s.ligImageBad c img := by
  have hcmd : t.cmd = s.cmd := funext h.cmd
  have hranges : t.ligRanges c img = s.ligRanges c img := by rw [State.ligRanges, State.ligRanges, h.ctxOf, hcmd]
  rw [State.ligImageBad, State.ligImageBad, h.tenantOf, h.collOk, hranges]

theorem ImageDone.ligStarts_traps (hbad : s.ligImageBad c (BitVec.ofNat 1024 (leNat bs)) = true) :
    t.ligStarts c w bs = t.trapOperand c w := by
  rw [State.ligStarts, h.ligImageBad, if_pos hbad]

variable (hok : s.ligImageBad c (BitVec.ofNat 1024 (leNat bs)) = false)
include hok

theorem ImageDone.ligStarts_noTag (hfree : freeTag (s.ctxOf c).ligBusy = none) : t.ligStarts c w bs = t := by
  rw [State.ligStarts, h.ligImageBad, if_neg (ne_true_of_eq_false hok), h.ctxOf, hfree]

variable {i : Nat} (hfree : freeTag (s.ctxOf c).ligBusy = some i)
include hfree

theorem ImageDone.ligStarts_kept {old : LigTag} (hkept : (s.ctxOf c).kept[(s.ctxOf c).ligCount]? = some old) :
    t.ligStarts c w bs = t.ligJoin c w i old (BitVec.ofNat 1024 (leNat bs)) := by
  simp only [State.ligStarts, h.ligImageBad, hok, h.ctxOf, hfree, hkept, Bool.false_eq_true, if_false]

theorem ImageDone.ligStarts_new (hkept : (s.ctxOf c).kept[(s.ctxOf c).ligCount]? = none) :
    t.ligStarts c w bs = t.ligEnlist c w i (BitVec.ofNat 1024 (leNat bs)) := by
  simp only [State.ligStarts, h.ligImageBad, hok, h.ctxOf, hfree, hkept, Bool.false_eq_true, if_false]

end

/-- While no abort has ended the operation, a launch only takes the next OPSEQ and joins the operations that wait (R313). -/
theorem State.ligLaunch_unaborted {s : State} (owner : LigOwner) (fn die : Nat) (img : BitVec 1024) (rs : List Rng)
    (h : ∀ a ∈ (s.group (Coll.parse img).group).aborted,
      a.1 ≠ die ∨ a.2.1 ≠ SMap.get (s.group (Coll.parse img).group).launched die 0 + 1) :
    let x := s.ligLaunch owner fn die img rs
    Launched s x.1 owner die img x.2 ∧ x.1 = { s with groups := x.1.groups, ligOps := x.1.ligOps } := by
  have hnone : (s.group (Coll.parse img).group).aborted.find? (fun a => a.1 == die &&
      a.2.1 == SMap.get (s.group (Coll.parse img).group).launched die 0 + 1) = none :=
    List.find?_eq_none.mpr fun a ha => by simpa [imp_iff_not_or] using h a ha
  dsimp only [State.ligLaunch]
  rw [hnone]
  refine ⟨⟨rfl, ?_, _, rfl, rfl, rfl, rfl, rfl, rfl, rfl⟩, rfl⟩
  simp [State.group, State.updGroup]

/-- An operation of a context that an abort has ended is gone after its launch, and the context keeps its pc
(R327). -/
theorem State.ligLaunch_aborted {s : State} (c : CtxRef) (i fn die : Nat) (img : BitVec 1024) (rs : List Rng)
    (h : ∃ a ∈ (s.group (Coll.parse img).group).aborted,
      a.1 = die ∧ a.2.1 = SMap.get (s.group (Coll.parse img).group).launched die 0 + 1) :
    let x := s.ligLaunch (.cp2 c i) fn die img rs
    x.2 = SMap.get (s.group (Coll.parse img).group).launched die 0 + 1 ∧ (x.1.ctxOf c).pc = (s.ctxOf c).pc ∧
    (x.1.ligTagOf die img x.2).status = some 10 := by
  obtain ⟨a, ha, hdie, hop⟩ := h
  have hsome : ((s.group (Coll.parse img).group).aborted.find? (fun a => a.1 == die &&
      a.2.1 == SMap.get (s.group (Coll.parse img).group).launched die 0 + 1)).isSome := by
    rw [List.find?_isSome]
    exact ⟨a, ha, by simp [hdie, hop]⟩
  obtain ⟨b, hb⟩ := Option.isSome_iff_exists.mp hsome
  dsimp only [State.ligLaunch]
  rw [hb]
  refine ⟨rfl, (State.ligLost_ofCtx rfl _).1, ?_⟩
  exact congrArg (fun live : Bool => if live then none else some 10) (State.ligLost_ofCtx (c := c) (i := i) rfl _).2

end Sys2Proof.Machine
end

section
/-! SUPPORT. What LIG.START leaves in each of its cases (R313, R314, R341), and FEED.START, FEED.WAIT, LIG.START and LIG.WAIT. -/

namespace Sys2Proof.Machine

open Sys2Proof.Claims

section
variable {s t : State} {c : CtxRef} {img : BitVec 1024} (h : ImageDone s t) (w : Word32) (i : Nat)
include h

/-- A launch with its turn to come (R313). -/
theorem ImageDone.ligEnlist_launched (hplace : s.mod.placeValid = true)
    (hlive : ∀ a ∈ (s.group (Coll.parse img).group).aborted,
      a.1 ≠ c.die.toNat ∨ a.2.1 ≠ SMap.get (s.group (Coll.parse img).group).launched c.die.toNat 0 + 1) :
    let opseq := SMap.get (s.group (Coll.parse img).group).launched c.die.toNat 0 + 1
    let o : LigTag := { group := (Coll.parse img).group, opseq := opseq, image := img }
    let x := s.ctxOf c
    GivesTag s (t.ligEnlist c w i img) c (wRd w) (BitVec.ofNat 64 i)
      { x with ligTags := SMap.set x.ligTags i o, ligCount := x.ligCount + 1, kept := x.kept ++ [o] } ∧
    Launched s (t.ligEnlist c w i img) (.cp2 c x.kept.length) c.die.toNat img opseq := by
  intro opseq o x
  rw [← h.group] at hlive
  obtain ⟨hlaunch, hframe⟩ := State.ligLaunch_unaborted (.cp2 c x.kept.length) (t.tenantOf c.key) c.die.toNat img
    (t.ligRanges c img) hlive
  rw [State.ligEnlist_placed (h.mod.symm ▸ hplace), h.ctxOf]
  dsimp only
  generalize t.ligLaunch (.cp2 c x.kept.length) (t.tenantOf c.key) c.die.toNat img (t.ligRanges c img) = r at hlaunch hframe
  obtain ⟨u, n⟩ := r
  dsimp only at hlaunch hframe
  obtain ⟨rfl, hlaunched, p, hops, hgroup, hdie, hopseq, howner, himage, hphase⟩ := hlaunch
  have htag : u.ligTagOf c.die.toNat img (SMap.get (t.group (Coll.parse img).group).launched c.die.toNat 0 + 1) = o := by
    simp [State.ligTagOf, hops, hgroup, hdie, hopseq, h.group, o, opseq]
  have hsteady : Steady s u c.key := by
    obtain ⟨hctx, hmem, hink, hqueues, hcmds⟩ := h.steady c.key
    rw [hframe]
    exact ⟨hctx, hmem, hink, hqueues, hcmds⟩
  dsimp only
  rw [htag]
  refine ⟨commit_givesTag hsteady (by rw [Ctx.keepLig, Ctx.joinLig_eq]; rfl), rfl, ?_, p, ?_, hgroup, hdie, ?_, howner, himage,
    hphase⟩
  · exact hlaunched.trans (by rw [h.group])
  · exact hops.trans (by rw [h.ligOps])
  · rw [hopseq, h.group]

/-- A launch that an abort has ended (R327). -/
theorem ImageDone.ligEnlist_aborted (hplace : s.mod.placeValid = true)
    (hended : ∃ a ∈ (s.group (Coll.parse img).group).aborted,
      a.1 = c.die.toNat ∧ a.2.1 = SMap.get (s.group (Coll.parse img).group).launched c.die.toNat 0 + 1) :
    let y := (t.ligEnlist c w i img).ctxOf c
    y.pc = (s.ctxOf c).pc + 4 ∧ (wRd w ≠ 0 → y.rx (wRd w) = BitVec.ofNat 64 i) ∧ SMap.find y.ligTags i = some
      { group := (Coll.parse img).group, opseq := SMap.get (s.group (Coll.parse img).group).launched c.die.toNat 0 + 1
        image := img, status := some 10 } := by
  intro y
  rw [← h.group] at hended
  obtain ⟨hop, hpc, hstatus⟩ := State.ligLaunch_aborted c (t.ctxOf c).kept.length (t.tenantOf c.key) c.die.toNat img
    (t.ligRanges c img) hended
  have henlist := State.ligEnlist_placed (h.mod.symm ▸ hplace) c w i img
  generalize t.ligLaunch (.cp2 c (t.ctxOf c).kept.length) (t.tenantOf c.key) c.die.toNat img (t.ligRanges c img) = r at *
  obtain ⟨u, n⟩ := r
  dsimp only at hop hpc hstatus henlist
  have htag : u.ligTagOf c.die.toNat img n = { group := (Coll.parse img).group, opseq := n, image := img, status := some 10 } := by
    rw [State.ligTagOf, LigTag.mk.injEq]
    exact ⟨rfl, rfl, rfl, hstatus⟩
  rw [htag, hop, h.group] at henlist
  generalize ({ group := (Coll.parse img).group, opseq := SMap.get (s.group (Coll.parse img).group).launched c.die.toNat 0 + 1
                image := img, status := some 10 } : LigTag) = o at henlist ⊢
  have hy : y = { (atNext u c).keepLig (wRd w) i o with retired := ((atNext u c).keepLig (wRd w) i o).retired + 1 } :=
    (congrArg (·.ctxOf c) henlist).trans (commit_ctxOf_of rfl)
  refine ⟨?_, fun hrd => ?_, ?_⟩
  · rw [hy]
    refine ((atNext u c).keepLig_pc (wRd w) i o).trans ?_
    rw [← h.ctxOf, ← hpc]
    rfl
  · rw [hy]
    refine (Ctx.rx_congr ((atNext u c).keepLig_x (wRd w) i o) _).trans ?_
    exact ((atNext u c).rx_wx_read (wRd w) (BitVec.ofNat 64 i) (wRd w)).trans (if_pos ⟨rfl, hrd⟩)
  · rw [hy]
    exact (SMap.find_set _ i i o).trans (if_pos rfl)

/-- Without a module number the operation has ended at once (R22). -/
theorem ImageDone.ligEnlist_noModule (hplace : s.mod.placeValid = false) (hnew : ∀ o ∈ s.ligOps, o.opseq ≠ 0) :
    let o : LigTag := { group := (Coll.parse img).group, opseq := 0, image := img, status := some 10 }
    let x := s.ctxOf c
    GivesTag s (t.ligEnlist c w i img) c (wRd w) (BitVec.ofNat 64 i)
      { x with ligTags := SMap.set x.ligTags i o, ligCount := x.ligCount + 1, kept := x.kept ++ [o] } := by
  intro o x
  have htag : t.ligTagOf c.die.toNat img 0 = o := by
    have hnone : t.ligOps.any (fun p => p.group == (Coll.parse img).group && p.die == c.die.toNat && p.opseq == 0) = false := by
      rw [h.ligOps]
      exact List.any_eq_false.mpr fun p hp => by simp [hnew p hp]
    simp [State.ligTagOf, hnone, o]
  rw [State.ligEnlist, h.mod, if_neg (ne_true_of_eq_false hplace)]
  dsimp only
  rw [htag]
  exact commit_givesTag (h.steady c.key) (by rw [Ctx.keepLig, Ctx.joinLig_eq]; rfl)

/-- In a replay the same image joins the operation that was kept (R341). -/
theorem ImageDone.ligJoin_same {old : LigTag} (himg : old.image = img) :
    let x := s.ctxOf c
    GivesTag s (t.ligJoin c w i old img) c (wRd w) (BitVec.ofNat 64 i)
      { x with ligTags := SMap.set x.ligTags i old, ligCount := x.ligCount + 1 } := by
  intro x
  rw [State.ligJoin, if_pos himg]
  exact commit_givesTag (f := (·.joinLig (wRd w) i old)) (h.steady c.key) (by rw [Ctx.joinLig_eq]; rfl)

/-- In a replay another image ends the command with FAULT_UNRECOVERED, REASON 7 (R341, R349). -/
theorem ImageDone.ligJoin_other {old : LigTag} (himg : old.image ≠ img) {r : CmdRef} {m : Cmd} (hjob : (s.ctxOf c).job = some r)
    (hm : s.cmd r = some m) (hopen : m.isComplete = false) (hstatus : m.status = 0) :
    ∃ e, (t.ligJoin c w i old img).cmd r = some e ∧ e.isComplete = true ∧ e.status = 7 ∧
      e.detail = faultDetail m.kind 7 m.fcore m.fdie := by
  have hm' : t.cmd r = some m := (h.cmd r).trans hm
  have hended := State.endCommand_cmd hm' hopen 7 (faultDetail m.kind 7 m.fcore m.fdie)
  have houtcome : m.outcome 7 (faultDetail m.kind 7 m.fcore m.fdie) =
      { m with status := 7, detail := faultDetail m.kind 7 m.fcore m.fdie } := by
    rw [Cmd.outcome, hstatus, if_pos (by decide)]
  refine ⟨m.endNow 7 (faultDetail m.kind 7 m.fcore m.fdie), ?_, rfl, ?_, ?_⟩
  · simp only [State.ligJoin, himg, if_false, h.ctxOf, hjob, hm']
    exact hended
  · rw [Cmd.endNow, Cmd.finish, houtcome]
  · rw [Cmd.endNow, Cmd.finish, houtcome]

end

section
variable {s : State} {c : CtxRef} {w : Word32}

theorem exec_feedWait_none (hi : Issues s .feedWait c w)
    (hnone : SMap.find (s.ctxOf c).feedTags ((s.ctxOf c).rx (wRs1 w)).toNat = none) :
    exec (.feedWait c w) s = .next (s.commit c (fun y => y.wx (wRd w) 0)) := by
  simp only [exec_feedWait, execFeedWait, hi.issue_next, hnone]

theorem exec_feedWait_ended (hi : Issues s .feedWait c w) {y : Xfer} {code detail : Nat}
    (hy : SMap.find (s.ctxOf c).feedTags ((s.ctxOf c).rx (wRs1 w)).toNat = some y) (hphase : y.phase = .complete code detail) :
    exec (.feedWait c w) s = .next (s.commit c (fun x => { x.wx (wRd w) (BitVec.ofNat 64 code) with
      feedTags := SMap.del x.feedTags ((s.ctxOf c).rx (wRs1 w)).toNat })) := by
  simp only [exec_feedWait, execFeedWait, hi.issue_next, hy, hphase]

theorem exec_feedWait_open (hi : Issues s .feedWait c w) {y : Xfer}
    (hy : SMap.find (s.ctxOf c).feedTags ((s.ctxOf c).rx (wRs1 w)).toNat = some y) (hopen : y.isComplete = false) :
    exec (.feedWait c w) s = .next s := by
  simp only [exec_feedWait, execFeedWait, hi.issue_next, hy]
  split
  · next hphase => simp [Xfer.isComplete, hphase] at hopen
  · rfl

theorem exec_ligWait_none (hi : Issues s .ligWait c w)
    (hnone : SMap.find (s.ctxOf c).ligTags ((s.ctxOf c).rx (wRs1 w)).toNat = none) :
    exec (.ligWait c w) s = .next (s.commit c (fun y => y.wx (wRd w) 0)) := by
  simp only [exec_ligWait, execLigWait, hi.issue_next, hnone]

theorem exec_ligWait_ended (hi : Issues s .ligWait c w) {y : LigTag} {code : Nat}
    (hy : SMap.find (s.ctxOf c).ligTags ((s.ctxOf c).rx (wRs1 w)).toNat = some y) (hstatus : y.status = some code) :
    exec (.ligWait c w) s = .next (s.commit c (fun x => { x.wx (wRd w) (BitVec.ofNat 64 code) with
      ligTags := SMap.del x.ligTags ((s.ctxOf c).rx (wRs1 w)).toNat })) := by
  simp only [exec_ligWait, execLigWait, hi.issue_next, hy, hstatus]

theorem exec_ligWait_open (hi : Issues s .ligWait c w) {y : LigTag}
    (hy : SMap.find (s.ctxOf c).ligTags ((s.ctxOf c).rx (wRs1 w)).toNat = some y) (hopen : y.status = none) :
    exec (.ligWait c w) s = .next s := by
  simp only [exec_ligWait, execLigWait, hi.issue_next, hy, hopen]

end

end Sys2Proof.Machine

namespace Sys2Proof.Claims

open Sys2Proof.Machine

/-- Settles O29: an image is read by `State.imageRead_done`, a start or wait that goes on is one commit (`commit_givesTag`), and
the cases of LIG.START are those of `State.ligEnlist` and `State.ligJoin`. -/
theorem coprocessorTagsComplete : Obligations.CoprocessorTagsComplete := by
  unfold Obligations.CoprocessorTagsComplete
  intro s c w bs x l tag rd waits traps fd f n feedOk feedBusy img cl g opseq collOk ligBusy joins
  have hwaits {t : State} (h : ImageDone s t) : t.ctxOf c = x ∧ SameMem s t ∧ t.cmds = s.cmds :=
    ⟨h.ctxOf c, h.sameMem, h.same.cmds⟩
  refine ⟨fun hi himage => ⟨fun i hok hfree hdraws => ?feedStart, fun hok hfull => ?feedFull, fun hbad hcan => ?feedBad⟩,
    fun hi hink hbad hcan => runs_image_misaligned hi hink hbad hcan (exec_feedStart_eq c w s),
    fun hi hink hgood hhigh hcan => runs_image_beyond hi hink hgood hhigh hcan (exec_feedStart_eq c w s),
    fun hi => ⟨fun hnone => ?feedNone, fun y code detail hy hphase => ?feedEnded, fun y hy hopen => ?feedOpen⟩,
    fun hi himage => ⟨fun i hok hfree => ⟨fun hkept hplace hlive => ?ligLaunched, fun hkept hplace hended => ?ligAborted,
      fun hkept hplace hnew => ?ligNoModule, fun old hkept himg => ?ligJoins,
      fun old r m hkept himg hjob hm hopen hstatus => ?ligDiffers⟩, fun hok hfull => ?ligFull, fun hbad hcan => ?ligBad⟩,
    fun hi hink hbad hcan => runs_image_misaligned hi hink hbad hcan (exec_ligStart_eq c w s),
    fun hi hink hgood hhigh hcan => runs_image_beyond hi hink hgood hhigh hcan (exec_ligStart_eq c w s),
    fun hi => ⟨fun hnone => ?ligNone, fun y code hy hstatus => ?ligEnded, fun y hy hopen => ?ligOpen⟩⟩
  case feedStart =>
    refine runs_image hi himage (by decide) (by decide) (exec_feedStart_eq c w s) fun t ht => ?_
    have hgo : ¬ (f.drawCount f.op ≠ 0 && !(s.ctxOf c).vq.isEmpty) = true := by
      obtain hn | hvq := hdraws
      · simp [show f.drawCount f.op = 0 from hn]
      · simp [show (s.ctxOf c).vq = [] from hvq]
    rw [ht.feedStarts_tag w hok hfree]
    dsimp only
    rw [if_neg hgo]
    exact commit_givesTag (ht.steady c.key) (by rw [Ctx.takeFeed, Ctx.wx_eq]; rfl)
  case feedFull =>
    refine runs_image hi himage (by decide) (by decide) (exec_feedStart_eq c w s) fun t ht => ?_
    cases hfree : freeTag (s.ctxOf c).feedBusy with
    | none =>
      rw [ht.feedStarts_noTag w hok hfree]
      exact hwaits ht
    | some i =>
      obtain ⟨hn, hvq⟩ := hfull.resolve_left fun hnone => nomatch hfree.symm.trans hnone
      have hheld : (f.drawCount f.op ≠ 0 && !(s.ctxOf c).vq.isEmpty) = true := by
        simp [show f.drawCount f.op ≠ 0 from hn, show (s.ctxOf c).vq ≠ [] from hvq]
      rw [ht.feedStarts_tag w hok hfree]
      dsimp only
      rw [if_pos hheld]
      exact hwaits ht
  case feedBad =>
    refine runs_image hi himage (by decide) (by decide) (exec_feedStart_eq c w s) fun t ht => ?_
    rw [ht.feedStarts_traps w hbad]
    exact ht.traps hcan 2 _
  case feedNone => exact ⟨_, exec_feedWait_none hi hnone, commit_givesTag (.refl s c.key) (by rw [Ctx.wx_eq]; rfl)⟩
  case feedEnded => exact ⟨_, exec_feedWait_ended hi hy hphase, commit_givesTag (.refl s c.key) (by rw [Ctx.wx_eq]; rfl)⟩
  case feedOpen => exact ⟨s, exec_feedWait_open hi hy hopen, rfl⟩
  case ligLaunched =>
    refine runs_image hi himage (by decide) (by decide) (exec_ligStart_eq c w s) fun t ht => ?_
    rw [ht.ligStarts_new w ((s.ligImageBad_iff c img).mpr hok) hfree hkept]
    exact ht.ligEnlist_launched w i hplace hlive
  case ligAborted =>
    refine runs_image hi himage (by decide) (by decide) (exec_ligStart_eq c w s) fun t ht => ?_
    rw [ht.ligStarts_new w ((s.ligImageBad_iff c img).mpr hok) hfree hkept]
    exact ht.ligEnlist_aborted w i hplace hended
  case ligNoModule =>
    refine runs_image hi himage (by decide) (by decide) (exec_ligStart_eq c w s) fun t ht => ?_
    rw [ht.ligStarts_new w ((s.ligImageBad_iff c img).mpr hok) hfree hkept]
    exact ht.ligEnlist_noModule w i hplace hnew
  case ligJoins =>
    refine runs_image hi himage (by decide) (by decide) (exec_ligStart_eq c w s) fun t ht => ?_
    rw [ht.ligStarts_kept w ((s.ligImageBad_iff c img).mpr hok) hfree hkept]
    exact ht.ligJoin_same w i himg
  case ligDiffers =>
    refine runs_image hi himage (by decide) (by decide) (exec_ligStart_eq c w s) fun t ht => ?_
    rw [ht.ligStarts_kept w ((s.ligImageBad_iff c img).mpr hok) hfree hkept]
    exact ht.ligJoin_other w i himg hjob hm hopen hstatus
  case ligFull =>
    refine runs_image hi himage (by decide) (by decide) (exec_ligStart_eq c w s) fun t ht => ?_
    rw [ht.ligStarts_noTag w ((s.ligImageBad_iff c img).mpr hok) hfull]
    exact hwaits ht
  case ligBad =>
    refine runs_image hi himage (by decide) (by decide) (exec_ligStart_eq c w s) fun t ht => ?_
    have hfails : s.ligImageBad c img = true := by
      refine (Bool.eq_false_or_eq_true _).resolve_right fun hfalse => hbad ?_
      exact (s.ligImageBad_iff c img).mp hfalse
    rw [ht.ligStarts_traps w hfails]
    exact ht.traps hcan 2 _
  case ligNone => exact ⟨_, exec_ligWait_none hi hnone, commit_givesTag (.refl s c.key) (by rw [Ctx.wx_eq]; rfl)⟩
  case ligEnded => exact ⟨_, exec_ligWait_ended hi hy hstatus, commit_givesTag (.refl s c.key) (by rw [Ctx.wx_eq]; rfl)⟩
  case ligOpen => exact ⟨s, exec_ligWait_open hi hy hopen, rfl⟩

end Sys2Proof.Claims
end

section
/-! SUPPORT. Temperatures and clocks (R198, R199, R394, R399): the throttle step, the dies that a temperature reaches, and the
fields of the sensor block. -/

namespace Sys2Proof.Machine

open Sys2Proof.Claims

/-- One threshold that a falling temperature leaves (R199). -/
def throttleFall (t hyst temp st : Nat) : Nat := if 0 < st && decide (temp + hyst ≤ t + 3 * (st - 1)) then st - 1 else st

theorem throttleStep_eq (t hyst step temp : Nat) : throttleStep t hyst step temp =
    let up := ((List.range 3).filter (fun i => decide (t + 3 * i ≤ temp))).length
    if step < up then up else throttleFall t hyst temp (throttleFall t hyst temp (throttleFall t hyst temp step)) := rfl

/-- A fall keeps the step of a threshold that the temperature still reaches. -/
theorem throttleFall_reached {t hyst temp i st : Nat} (hhyst : 1 ≤ hyst) (hreach : t + 3 * i ≤ temp) (hst : i + 1 ≤ st) :
    i + 1 ≤ throttleFall t hyst temp st := by
  unfold throttleFall
  split
  · next h =>
    simp only [Bool.and_eq_true, decide_eq_true_eq] at h
    omega
  · exact hst

theorem throttleFall_below {t hyst temp : Nat} (h : temp + hyst ≤ t) (st : Nat) : throttleFall t hyst temp st = st - 1 := by
  unfold throttleFall
  split
  · rfl
  · next hstay =>
    simp only [Bool.and_eq_true, decide_eq_true_eq] at hstay
    omega

/-- Each threshold up to one that the temperature reaches is reached. -/
theorem thresholds_reached {t temp i : Nat} (hi : i < 3) (hreach : t + 3 * i ≤ temp) :
    i + 1 ≤ ((List.range 3).filter (fun j => decide (t + 3 * j ≤ temp))).length := by
  have hall : (List.range (i + 1)).filter (fun j => decide (t + 3 * j ≤ temp)) = List.range (i + 1) := by
    refine List.filter_eq_self.mpr fun j hj => decide_eq_true ?_
    have := List.mem_range.mp hj
    omega
  have hsub : (List.range (i + 1)).Sublist (List.range 3) := List.range_sublist.mpr hi
  have hlen := (hsub.filter (fun j => decide (t + 3 * j ≤ temp))).length_le
  rwa [hall, List.length_range] at hlen

/-- In service the step is at least that of each threshold reached (R199). -/
theorem throttleStep_reached {t hyst step temp i : Nat} (hhyst : 1 ≤ hyst) (hi : i < 3) (hreach : t + 3 * i ≤ temp) :
    i + 1 ≤ throttleStep t hyst step temp := by
  have hup := thresholds_reached hi hreach
  rw [throttleStep_eq]
  dsimp only
  split
  · exact hup
  · refine throttleFall_reached hhyst hreach (throttleFall_reached hhyst hreach (throttleFall_reached hhyst hreach ?_))
    omega

/-- At or below T − HYST no step is left (R199). -/
theorem throttleStep_below {t hyst step temp : Nat} (hhyst : 1 ≤ hyst) (hstep : step ≤ 3) (h : temp + hyst ≤ t) :
    throttleStep t hyst step temp = 0 := by
  have hnone : (List.range 3).filter (fun i => decide (t + 3 * i ≤ temp)) = [] := by
    refine List.filter_eq_nil_iff.mpr fun i _ => ?_
    simp only [decide_eq_true_eq]
    omega
  rw [throttleStep_eq, hnone]
  simp only [List.length_nil, Nat.not_lt_zero, if_false, throttleFall_below h]
  omega

/-- In service a die without trace rings takes the temperature, its step and refresh at 4x (R198 to R200). -/
theorem exec_stackTempMeasure_ready {s : State} {die : BitVec 5} {temp : BitVec 8} (htemp : temp.toNat < 105)
    (hready : s.mod.stage = .ready) (htraces : (s.die die.toNat).traces = []) :
    exec (.stackTempMeasure die temp) s = .next (s.updDie die.toNat (fun d => { d with
      stkTemp := temp.toNat, stkRefr := 2
      stkStep := throttleStep (s.die die.toNat).stkT (s.die die.toNat).stkHyst (s.die die.toNat).stkStep temp.toNat })) := by
  refine (exec_stackTempMeasure ..).trans ((if_neg (Nat.not_le.mpr htemp)).trans (congrArg _ ?_))
  simp only [hready, beq_self_eq_true, if_true]
  split
  · rfl
  · exact State.trace_of_no_rings ((congrArg Die.traces (s.die_updDie_same die.toNat _)).trans htraces) ..

/-- A die that a test picks after a change is among the dies. -/
theorem State.updDie_any {s : State} {d : Nat} {f : Die → Die} {p : Nat × Die → Bool} (h : p (d, f (s.die d)) = true) :
    (s.updDie d f).dies.any p = true := by
  have hfind : SMap.find (s.updDie d f).dies d = some (f (s.die d)) := (SMap.find_set ..).trans (if_pos rfl)
  exact List.any_eq_true.mpr ⟨_, SMap.mem_of_find hfind, h⟩

/-- A die whose own temperature has been measured (R236, R394). -/
def Die.measured (d : Die) (temp : Nat) : Die :=
  { d with dieTemp := temp, thold := decide (110 ≤ temp) || (decide (105 < temp) && d.thold) }

theorem thold_eq (temp : Nat) (old : Bool) : (if 110 ≤ temp then true else if temp ≤ 105 then false else old) =
    (decide (110 ≤ temp) || (decide (105 < temp) && old)) := by
  by_cases h110 : 110 ≤ temp
  · simp [h110]
  · by_cases h105 : temp ≤ 105
    · simp [h110, h105]
    · simp [h110, h105, Nat.lt_of_not_le h105]

/-- Module-wide throttling as the dies' temperatures have it (R394). -/
def State.thermNow (s : State) : Bool :=
  if s.dies.any (fun p => decide (100 ≤ p.2.dieTemp)) then true
  else if s.dies.all (fun p => decide (p.2.dieTemp ≤ 97)) then false else s.mod.therm

/-- Below 125 °C a measurement sets the die's temperature and THOLD, and then module-wide throttling (R394). -/
theorem exec_dieTempMeasure_next {die : BitVec 5} {temp : BitVec 8} (htemp : temp.toNat < 125) (s : State) :
    exec (.dieTempMeasure die temp) s = .next ((s.updDie die.toNat (·.measured temp.toNat)).updMod
      (fun m => { m with therm := (s.updDie die.toNat (·.measured temp.toNat)).thermNow })) := by
  refine (exec_dieTempMeasure ..).trans ((if_neg (Nat.not_le.mpr htemp)).trans ?_)
  simp only [thold_eq]
  rfl

/-- A die at 100 °C throttles the module (R394). -/
theorem State.thermNow_measured (s : State) (d : Nat) {temp : Nat} (hhot : 100 ≤ temp) :
    (s.updDie d (·.measured temp)).thermNow = true := by
  have hp : (fun p : Nat × Die => decide (100 ≤ p.2.dieTemp)) (d, (s.die d).measured temp) = true := decide_eq_true hhot
  exact if_pos (State.updDie_any (s := s) (f := (·.measured temp)) hp)

theorem leNat_lt (bs : List Byte) : leNat bs < 256 ^ bs.length := by
  induction bs with
  | nil => exact Nat.one_pos
  | cons b bs ih =>
    have hb := b.isLt
    rw [leNat, List.length_cons, Nat.pow_succ]
    omega

/-- A number written among the bytes of a vector is the field at its place (R6). -/
theorem fld_leBytes {w n lo len : Nat} (as bs : List Byte) (v : Nat) (hlo : 8 * as.length = lo) (hlen : 8 * n = len)
    (h : lo + len ≤ w) : fld (BitVec.ofNat w (leNat (as ++ (leBytes n v ++ bs)))) lo len = v % 2 ^ len := by
  have hbase (k : Nat) : 2 ^ (8 * k) = 256 ^ k := Nat.pow_mul ..
  have hcut (x : Nat) : (x % 2 ^ w) >>> lo % 2 ^ len = x >>> lo % 2 ^ len := by
    refine Nat.eq_of_testBit_eq fun i => ?_
    simp only [Nat.testBit_mod_two_pow, Nat.testBit_shiftRight]
    by_cases hi : i < len
    · simp [show lo + i < w by omega]
    · simp [hi]
  rw [fld, BitVec.toNat_ofNat, hcut, leNat_append, Nat.shiftRight_eq_div_pow, ← hlo, ← hlen, hbase, hbase,
    Nat.mul_comm, Nat.mul_add_div (Nat.pow_pos (by decide)), Nat.div_eq_of_lt (leNat_lt as), Nat.add_zero, leNat_append,
    leBytes_length, Nat.mul_comm, Nat.mul_add_mod, leNat_leBytes, Nat.mod_mod]

/-- The sensor block begins with VIN, IIN and PIN (R399). -/
theorem State.sensorBlock_eq (s : State) (r : SensorReading) : ∃ rest, s.sensorBlock r =
    leBytes 2 r.vin.toNat ++ (leBytes 2 r.iin.toNat ++ (leBytes 2 r.pin.toNat ++ rest)) :=
  ⟨_, by simp only [State.sensorBlock, List.append_assoc]; rfl⟩

/-- The sensor block as the module's register holds it (R399). -/
def State.sensorWord (s : State) (r : SensorReading) : BitVec 2048 := BitVec.ofNat 2048 (leNat (s.sensorBlock r))

theorem State.sensorWord_fields (s : State) (r : SensorReading) : fld (s.sensorWord r) 0 16 = r.vin.toNat ∧
    fld (s.sensorWord r) 16 16 = r.iin.toNat ∧ fld (s.sensorWord r) 32 16 = r.pin.toNat := by
  obtain ⟨rest, hblock⟩ := s.sensorBlock_eq r
  have hvin := fld_leBytes (w := 2048) (n := 2) (lo := 0) (len := 16) [] (leBytes 2 r.iin.toNat ++ (leBytes 2 r.pin.toNat ++ rest))
    r.vin.toNat rfl rfl (by omega)
  have hiin := fld_leBytes (w := 2048) (n := 2) (lo := 16) (len := 16) (leBytes 2 r.vin.toNat) (leBytes 2 r.pin.toNat ++ rest)
    r.iin.toNat (by rw [leBytes_length]) rfl (by omega)
  have hpin := fld_leBytes (w := 2048) (n := 2) (lo := 32) (len := 16) (leBytes 2 r.vin.toNat ++ leBytes 2 r.iin.toNat) rest
    r.pin.toNat (by rw [List.length_append, leBytes_length, leBytes_length]) rfl (by omega)
  rw [List.nil_append] at hvin
  rw [List.append_assoc] at hpin
  rw [State.sensorWord, hblock]
  exact ⟨hvin.trans (Nat.mod_eq_of_lt r.vin.isLt), hiin.trans (Nat.mod_eq_of_lt r.iin.isLt),
    hpin.trans (Nat.mod_eq_of_lt r.pin.isLt)⟩

/-- The module after a sample (R397, R399). -/
def State.sampled (s : State) (r : SensorReading) : State :=
  let s1 := s.updMod (fun m => { m with sensors := s.sensorWord r })
  s1.updMod (fun m => { m with alert := s1.alertNow })

/-- A running MMC samples its sensors (R399). -/
theorem exec_sensorSample_running {s : State} (hrun : s.mod.mmcRun = true) (r : SensorReading) :
    exec (.sensorSample r) s = .next (s.sampled r) := by
  rw [exec_sensorSample, execSensorSample, hrun, Bool.not_true, if_neg Bool.false_ne_true, State.sampled, State.sensorWord]

theorem State.sampled_sensors (s : State) (r : SensorReading) : (s.sampled r).mod.sensors = s.sensorWord r := rfl

theorem State.sampled_frame (s : State) (r : SensorReading) :
    (s.sampled r).dies = s.dies ∧ (s.sampled r).cores = s.cores ∧ (s.sampled r).mem = s.mem := by
  simp only [State.sampled, State.updMod_dies, State.updMod_cores, State.updMod_mem, and_self]

end Sys2Proof.Machine

namespace Sys2Proof.Claims

open Sys2Proof.Machine

/-- Settles O32: in service the step is that of `throttleStep_reached` and `throttleStep_below`, a die at 100 °C is found among the
dies (`State.updDie_any`), and the sensor block has its fields by `State.sensorWord_fields`. -/
theorem thermalEventsComplete : Obligations.ThermalEventsComplete := by
  unfold Obligations.ThermalEventsComplete
  intro s die temp watts steps r n d m f lim
  refine ⟨fun htemp hready htraces hhyst hstep => ?stack, fun htemp => ?die, fun hhot => ?falls, fun x hhot hcool hx => ?rises,
    ⟨_, exec_governorStep .., rfl⟩, fun hrun => ?sample⟩
  case stack =>
    refine ⟨_, exec_stackTempMeasure_ready htemp hready htraces, s.updDie_onlyDie _ _, ?_⟩
    rw [State.die_updDie_same]
    exact ⟨rfl, rfl, fun i hi hreach => throttleStep_reached hhyst hi hreach, throttleStep_below hhyst hstep⟩
  case die =>
    exact ⟨_, exec_dieTempMeasure_next htemp s, fun _ => rfl, rfl, s.die_updDie_same n (·.measured temp.toNat),
      s.thermNow_measured n⟩
  case falls => exact ⟨_, (exec_thermalClockStep s).trans (congrArg Host.Outcome.next (if_pos hhot)), rfl⟩
  case rises =>
    refine ⟨_, (exec_thermalClockStep s).trans (congrArg Host.Outcome.next
      ((if_neg (Bool.eq_false_iff.mp hhot)).trans (if_pos hcool))), ?_⟩
    rw [State.updMod, show s.mod.thermMhz = some x from hx]
    rfl
  case sample =>
    refine ⟨s.sampled r, exec_sensorSample_running hrun r, ?_⟩
    dsimp only
    rw [s.sampled_sensors r]
    obtain ⟨hvin, hiin, hpin⟩ := s.sensorWord_fields r
    obtain ⟨hdies, hcores, hmem⟩ := s.sampled_frame r
    exact ⟨hvin, hiin, hpin, hdies, hcores, fun a => congrArg (Memory.read · a) hmem⟩

end Sys2Proof.Claims
end

section
/-! SUPPORT. Host memory and the device memory window (R196, R260, R261, R263, R266): bytes kept in a sparse map, device reads of
a scribe, and messages of vectors. -/

namespace Sys2Proof.Machine

open Sys2Proof.Claims

theorem SMap.find_putBytes_below (m : SMap Byte) {a i : Nat} (h : i < a) (bs : List Byte) :
    SMap.find (putBytes m a bs) i = SMap.find m i := by
  induction bs generalizing m a with
  | nil => rfl
  | cons b bs ih => rw [putBytes, ih _ (by omega), SMap.find_set, if_neg (by omega)]

/-- Bytes put into a map are known there. -/
theorem knownBytes_putBytes (m : SMap Byte) (a : Nat) (bs : List Byte) :
    knownBytes (putBytes m a bs) a bs.length = some bs := by
  induction bs generalizing m a with
  | nil => rfl
  | cons b bs ih =>
    have hfirst : SMap.find (putBytes (SMap.set m a b) (a + 1) bs) a = some b := by
      rw [SMap.find_putBytes_below _ (Nat.lt_succ_self a), SMap.find_set, if_pos rfl]
    rw [List.length_cons, putBytes, knownBytes, hfirst, ih]

theorem sameReader_scribe (r : HostReader) (queue : BitVec 14) : sameReader r (.scribe queue) = (r == .scribe queue) := by
  cases r <;> rfl

/-- Data that answers no device read is kept as what host memory showed, and nothing else changes (R266). -/
theorem State.hostData_unasked {s : State} {r : HostReader} {link : Nat}
    (h : ∀ x ∈ (s.link link).reads, sameReader x.reader r = false) (addr : Nat) (bs : List Byte) :
    s.hostData r link addr bs = s.putHost link addr bs := by
  have hnone : (s.link link).reads.find? (fun x => sameReader x.reader r &&
      decide (x.addr ≤ addr ∧ addr + bs.length ≤ x.addr + x.bytes)) = none :=
    List.find?_eq_none.mpr fun x hx => by simp [h x hx]
  simp only [State.hostData, hnone]

/-- The state in which a ring read's data has come (R266). -/
def State.withRing (s : State) (link addr : Nat) (bs : List Byte) : State :=
  { s.putHost link addr bs with ringData := putBytes s.ringData (hostKey link addr) bs }

/-- All the data of a queue's only device read comes: it is kept for the ring, and the read ends (R256, R266). -/
theorem State.hostData_ring {s : State} {queue : BitVec 14} {link addr n : Nat} {cmd : Option CmdRef} {bs : List Byte}
    (hn : bs.length = n) (h : (s.link link).reads = [{ reader := .scribe queue, cmd := cmd, addr := addr, bytes := n }]) :
    s.hostData (.scribe queue) link addr bs = (s.withRing link addr bs).updLink link (fun l => { l with reads := [] }) := by
  subst hn
  have hended : (s.withRing link addr bs).readEnded link
      { reader := .scribe queue, cmd := cmd, addr := addr, bytes := bs.length } = true :=
    congrArg Option.isSome (knownBytes_putBytes s.ringData (hostKey link addr) bs)
  have hfind : (s.link link).reads.find? (fun x => sameReader x.reader (.scribe queue) &&
      decide (x.addr ≤ addr ∧ addr + bs.length ≤ x.addr + x.bytes)) =
        some { reader := .scribe queue, cmd := cmd, addr := addr, bytes := bs.length } := by
    rw [h]
    exact List.find?_cons_of_pos (by simp [sameReader_scribe])
  have hdel : delFirst (fun y => y == { reader := .scribe queue, cmd := cmd, addr := addr, bytes := bs.length })
      (s.link link).reads = [] := by
    rw [h]
    exact if_pos (beq_self_eq_true _)
  have hends : s.hostData (.scribe queue) link addr bs = (s.withRing link addr bs).updLink link (fun l => { l with
      reads := delFirst (fun y => y == { reader := .scribe queue, cmd := cmd, addr := addr, bytes := bs.length }) l.reads }) := by
    simp only [State.hostData, hfind]
    exact if_pos (Bool.or_eq_true_iff.mpr (.inl hended))
  rw [hends, State.updLink, State.updLink, show (s.withRing link addr bs).link link = s.link link from rfl, hdel]

/-- Raising a vector changes at most the pending bits of its function. -/
theorem State.raiseVec_func (s : State) (n v : Nat) : ∃ l, (s.raiseVec n v).func n = { s.func n with msixPend := l } := by
  unfold State.raiseVec
  split
  · exact ⟨_, rfl⟩
  · exact ⟨_, s.func_updFunc_same n _⟩

/-- A queue after its scribe's read of host memory has failed, with the failure on record (R263). -/
def State.ringFailed (s : State) (queue : BitVec 14) (code : Nat) : State :=
  ((s.dropReads (.scribe queue)).updQueue queue.toNat (fun x => { x with en := false })).updFunc (s.queue queue.toNat).owner
    (fun f => if f.ferr then f else { f with ferr := true, fkind := code, fqueue := queue.toNat })

theorem State.hostReadFails_scribe {s : State} {queue : BitVec 14} (hen : (s.queue queue.toNat).en = true) (code : Nat) :
    ∃ v, s.hostReadFails (.scribe queue) code = (s.ringFailed queue code).raiseVec (s.queue queue.toNat).owner v := by
  have hon : ¬ (!((s.dropReads (.scribe queue)).queue queue.toNat).en) = true := by
    rw [show (s.dropReads (.scribe queue)).queue queue.toNat = s.queue queue.toNat from rfl, hen]
    decide
  exact ⟨_, if_neg hon⟩

/-- A failed ring read clears EN and records the failure; memory and the cores are as before (R263). -/
theorem State.hostReadFails_records {s : State} {queue : BitVec 14} (hen : (s.queue queue.toNat).en = true)
    (hferr : (s.func (s.queue queue.toNat).owner).ferr = false) (code : Nat) :
    let t := s.hostReadFails (.scribe queue) code
    let f := t.func (s.queue queue.toNat).owner
    t.queue queue.toNat = { s.queue queue.toNat with en := false } ∧ f.ferr = true ∧ f.fkind = code ∧
      f.fqueue = queue.toNat ∧ t.mem = s.mem ∧ t.cores = s.cores := by
  obtain ⟨v, heq⟩ := State.hostReadFails_scribe hen code
  obtain ⟨l, hfunc⟩ := (s.ringFailed queue code).raiseVec_func (s.queue queue.toNat).owner v
  have hrest := (s.ringFailed queue code).raiseVec_sansHost (s.queue queue.toNat).owner v
  have hqueue : (s.ringFailed queue code).queue queue.toNat = { s.queue queue.toNat with en := false } :=
    (s.dropReads (.scribe queue)).queue_updQueue_same queue.toNat (fun x => { x with en := false })
  have hrecorded : (s.ringFailed queue code).func (s.queue queue.toNat).owner =
      { s.func (s.queue queue.toNat).owner with ferr := true, fkind := code, fqueue := queue.toNat } :=
    (State.func_updFunc_same ..).trans (if_neg (by rw [Bool.not_eq_true]; exact hferr))
  rw [hrecorded] at hfunc
  dsimp only
  rw [heq, hfunc]
  exact ⟨(congrArg (fun u : State => u.queue queue.toNat) hrest :).trans hqueue, rfl, rfl, rfl,
    (congrArg State.mem hrest :), (congrArg State.cores hrest :)⟩

section
variable {s : State} {fn : BitVec 6} {off : BitVec 39} {width : BitVec 7} (hwidth : 0 < width.toNat)
include hwidth

theorem exec_bar4Read_unserved (hserved : s.bar4Served fn.toNat off.toNat width.toNat = false) :
    exec (.bar4Read fn off width) s = .next { s.aerLog fn.toNat 0 with completion := [] } := by
  simp only [exec_bar4Read, execBar4Read, hwidth.ne', hserved, Bool.not_false, if_false, if_true]

variable (hserved : s.bar4Served fn.toNat off.toNat width.toNat = true)
include hserved

theorem exec_bar4Read_served (hclean : s.poisonedIn off.toNat width.toNat = none) : exec (.bar4Read fn off width) s =
    .next { s.cacheRead off.toNat width.toNat fn.toNat 0 with
      completion := Memory.readBytes s.mem off.toNat width.toNat } := by
  simp only [exec_bar4Read, execBar4Read, hwidth.ne', hserved, hclean, Bool.not_true, Bool.false_eq_true, Option.isSome_none,
    if_false]

theorem exec_bar4Read_poisoned {a : Nat} (hbad : s.poisonedIn off.toNat width.toNat = some a) :
    exec (.bar4Read fn off width) s = .next { s.aerLog fn.toNat 1 with completion := [] } := by
  simp only [exec_bar4Read, execBar4Read, hwidth.ne', hserved, hbad, Bool.not_true, Bool.false_eq_true, Option.isSome_some,
    if_false, if_true]

end

theorem exec_bar4Write_served {s : State} {fn : BitVec 6} {off : BitVec 39} {bytes : List Byte} (hbytes : bytes ≠ [])
    (hserved : s.bar4Served fn.toNat off.toNat bytes.length = true) : exec (.bar4Write fn off bytes) s =
      .next ((s.cacheWrite off.toNat bytes.length fn.toNat 0).putMem off.toNat bytes) := by
  simp only [exec_bar4Write, execBar4Write, List.isEmpty_iff, hbytes, hserved, Bool.not_true, Bool.false_eq_true, if_false]

theorem State.aerLog_count (s : State) (n kind : Nat) :
    SMap.get (s.aerLog n kind).aer (4 * n + kind) 0 = SMap.get s.aer (4 * n + kind) 0 + 1 := SMap.get_set_same ..

/-- A field below the bits that are replaced. -/
theorem fld_ins_below {n lo len a b : Nat} (h : lo + len ≤ n) (v : BitVec n) (val : Nat) (hab : a + b ≤ lo) :
    fld (ins v lo len val) a b = fld v a b := by
  refine Nat.eq_of_testBit_eq fun i => ?_
  simp only [fld, Nat.testBit_mod_two_pow, Nat.testBit_shiftRight, BitVec.testBit_toNat]
  by_cases hi : i < b
  · rw [ins_bit h, if_neg (by omega)]
  · simp [hi]

/-- A vector's table entry with its mask bit clear (R261). -/
def unmasked (e : BitVec 128) : BitVec 128 := ins e 96 1 0

/-- A function with MSI-X enabled and one vector unmasked (R261). -/
def Func.unmask (f : Func) (vec : Nat) : Func :=
  { f with msixEn := true, msix := SMap.set f.msix vec (unmasked (f.vector vec)) }

theorem Func.unmask_vector (f : Func) (vec : Nat) : (f.unmask vec).vector vec = unmasked (f.vector vec) := SMap.get_set_same ..

theorem Func.unmask_open (f : Func) (vec : Nat) : (f.unmask vec).vectorOpen vec = true := by
  have hbit : (unmasked (f.vector vec)).getLsbD 96 = false := (ins_bit (by decide) _ _ _).trans rfl
  rw [Func.vectorOpen, Func.unmask_vector, hbit]
  rfl

theorem State.updFunc_congr {s : State} {n : Nat} {f g : Func → Func} (h : f (s.func n) = g (s.func n)) :
    s.updFunc n f = s.updFunc n g := by
  rw [State.updFunc, h]
  rfl

/-- The only pending message of a function is sent once its vector is unmasked, and is pending no more (R261). -/
theorem State.flushMsix_unmasked {s : State} {n vec : Nat} (hpend : (s.func n).msixPend = [vec]) :
    (s.updFunc n (·.unmask vec)).flushMsix n =
      ((s.updFunc n (·.unmask vec)).sendMsix n vec).updFunc n (fun _ => { (s.func n).unmask vec with msixPend := [] }) := by
  have hfunc : (s.updFunc n (·.unmask vec)).func n = (s.func n).unmask vec := s.func_updFunc_same n _
  have hsent : ((s.updFunc n (·.unmask vec)).sendMsix n vec).func n = (s.func n).unmask vec := hfunc
  have hpend' : ((s.func n).unmask vec).msixPend = [vec] := hpend
  have hopen := (s.func n).unmask_open vec
  simp only [State.flushMsix, hfunc, hpend', List.filter_cons_of_pos (p := ((s.func n).unmask vec).vectorOpen) hopen,
    List.filter_nil, List.foldl_cons, List.foldl_nil]
  refine State.updFunc_congr ?_
  rw [hsent, hpend', List.filter_cons_of_neg (by rw [hopen]; decide), List.filter_nil]

/-- The message of an unmasked vector is that of its table entry (R261). -/
theorem State.sendMsix_unmasked (s : State) (n vec : Nat) : ((s.updFunc n (·.unmask vec)).sendMsix n vec).hostMsgs =
    s.hostMsgs ++ [{ fn := n, vec := vec, addr := fld ((s.func n).vector vec) 0 64
                     data := fld ((s.func n).vector vec) 64 32 }] := by
  rw [State.sendMsix, State.func_updFunc_same, Func.unmask_vector, unmasked, fld_ins_below (by decide) _ _ (by decide),
    fld_ins_below (by decide) _ _ (by decide)]
  rfl

end Sys2Proof.Machine

namespace Sys2Proof.Claims

open Sys2Proof.Machine

/-- Settles O51: a scribe's data is kept by `State.hostData_ring` and its failures by `State.hostReadFails_records`; each access to
the window is one branch of its command, and the caches it goes through leave memory alone. -/
theorem hostAccessesComplete : Obligations.HostAccessesComplete := by
  unfold Obligations.HostAccessesComplete
  intro s queue link addr bytes fn off width vec q n o f failed
  refine ⟨fun hlen hreads => ?ringData, fun hreads => ?unasked, fun hen hferr => ⟨?refused, ?poisoned, ?late⟩,
    fun hwidth hserved hclean => ?reads, fun hwidth hserved => ?unsupported, fun a hwidth hserved hbad => ?poisonedLine,
    fun hbytes hserved hwf => ?writes, fun hfn hpend => ?unmasks⟩
  case ringData =>
    refine ⟨_, (exec_hostReadCompletion ..).trans (congrArg Host.Outcome.next (State.hostData_ring hlen hreads)),
      ?_, ?_, rfl, rfl⟩
    · have hknown := knownBytes_putBytes s.ringData (hostKey link.toNat addr.toNat) bytes
      rwa [hlen] at hknown
    · rw [State.link_updLink_same]
  case unasked =>
    refine ⟨_, (exec_hostReadCompletion ..).trans (congrArg Host.Outcome.next
      (State.hostData_unasked (fun x hx => ?_) _ _)), rfl⟩
    rw [sameReader_scribe]
    exact beq_false_of_ne (hreads x hx)
  case refused => exact ⟨_, exec_hostReadCompletion .., State.hostReadFails_records hen hferr 2⟩
  case poisoned => exact ⟨_, exec_hostReadCompletion .., State.hostReadFails_records hen hferr 3⟩
  case late => exact ⟨_, exec_hostReadTimeout .., State.hostReadFails_records hen hferr 1⟩
  case reads => exact ⟨_, exec_bar4Read_served hwidth hserved hclean, rfl, fun a =>
    congrArg (Memory.read · a) (s.cacheRead_looked _ _ _ _).mem⟩
  case unsupported => exact ⟨_, exec_bar4Read_unserved hwidth hserved, rfl, s.aerLog_count n 0, fun _ => rfl⟩
  case poisonedLine => exact ⟨_, exec_bar4Read_poisoned hwidth hserved hbad, rfl, s.aerLog_count n 1, fun _ => rfl⟩
  case writes =>
    have hmem : (s.cacheWrite off.toNat bytes.length n 0).mem = s.mem := s.cacheWrite_mem _ _ _ _
    refine ⟨_, exec_bar4Write_served hbytes hserved, ?_, fun a ha => ?_⟩
    · rw [State.putMem, hmem]
      exact Memory.readBytes_writeBytes _ _ hwf
    · rw [State.putMem, hmem]
      exact Memory.read_writeBytes_ne _ _ _ hwf ha
  case unmasks =>
    have hflush := State.flushMsix_unmasked (s := s) (n := n) hpend
    have hfunc : ((s.updFunc n (·.unmask vec.toNat)).flushMsix n).func n =
        { (s.func n).unmask vec.toNat with msixPend := [] } := by
      rw [hflush]
      exact State.func_updFunc_same ..
    refine ⟨(s.updFunc n (·.unmask vec.toNat)).flushMsix n, ?_, ?_, ?_, ?_, ?_⟩
    · exact (exec_msixUnmask ..).trans (congrArg _ (if_neg (by rw [show s.funcExists fn.toNat = true from hfn]; decide)))
    · rw [hflush]
      exact s.sendMsix_unmasked n vec.toNat
    · rw [hfunc]
    · rw [hfunc]
      exact (s.func n).unmask_open vec.toNat
    · rw [hflush]
      rfl

end Sys2Proof.Claims
end

section
/-! SUPPORT. Messages that have reached the module, and the messages of other modules about them (R192, R222, R285, R293, R294). -/

namespace Sys2Proof.Machine

open Sys2Proof.Claims

/-- Only the fabric differs. -/
def OnlyFab (s t : State) : Prop := t = { s with fab := t.fab }

theorem OnlyFab.refl (s : State) : OnlyFab s s := rfl

theorem OnlyFab.trans {s t u : State} (h : OnlyFab s t) (g : OnlyFab t u) : OnlyFab s u := by
  rw [OnlyFab] at *
  rw [g, h]

section
variable {s t : State} (h : OnlyFab s t)
include h

theorem OnlyFab.sansSends : t.sansSends = s.sansSends := by rw [h]; rfl
theorem OnlyFab.mem : t.mem = s.mem := by rw [h]
theorem OnlyFab.cores : t.cores = s.cores := by rw [h]
theorem OnlyFab.cmds : t.cmds = s.cmds := by rw [h]
theorem OnlyFab.dies : t.dies = s.dies := by rw [h]
theorem OnlyFab.groups : t.groups = s.groups := by rw [h]
theorem OnlyFab.window (w : Nat) : t.window w = s.window w := by rw [h]; rfl
theorem OnlyFab.translate (fn va : Nat) (a : Access) : t.translate fn va a = s.translate fn va a := by rw [h]; rfl

end

theorem State.takeDelivered_onlyFab {s t : State} {p : MsgHdr → Bool} {m : Delivered} (h : s.takeDelivered p = some (m, t)) :
    OnlyFab s t := by
  obtain ⟨_, -, heq⟩ := Option.map_eq_some_iff.mp h
  cases heq
  rfl

theorem State.takeMsg_onlyFab {s t : State} {p : MsgHdr → Bool} {msg : List (BitVec 1920)} (h : s.takeMsg p = some (msg, t)) :
    OnlyFab s t := by
  obtain ⟨⟨m, u⟩, htake, heq⟩ := Option.map_eq_some_iff.mp h
  cases heq
  exact State.takeDelivered_onlyFab htake

/-- Taking a message leaves the outstanding read requests. -/
theorem State.takeMsg_reads {s t : State} {p : MsgHdr → Bool} {msg : List (BitVec 1920)} (h : s.takeMsg p = some (msg, t)) :
    t.fab.reads = s.fab.reads := by
  obtain ⟨⟨m, u⟩, htake, heq⟩ := Option.map_eq_some_iff.mp h
  obtain ⟨_, -, heq'⟩ := Option.map_eq_some_iff.mp htake
  cases heq'
  cases heq
  rfl

theorem State.takeUnacked_onlyFab {s t : State} {p : Unacked → Bool} {u : Unacked} (h : s.takeUnacked p = some (u, t)) :
    OnlyFab s t := by
  obtain ⟨_, -, heq⟩ := Option.map_eq_some_iff.mp h
  cases heq
  rfl

theorem State.unqueue_onlyFab (s : State) (u : Unacked) : OnlyFab s (s.unqueue u) := by
  unfold State.unqueue
  split <;> rfl

/-! Messages that are sent. -/

/-- An item that a send puts at the end of a port's queue (R284, R288). -/
def State.plainItem (s : State) (sd : Sender) (h : MsgHdr) (payload : List Byte) (r : RouteChoice) : TxItem :=
  let hdr := { h with src := s.moduleNo, srcgrp := s.fab.srcGrp, share := (s.func sd.func).linkShare,
                      hops := r.hops, hopptr := 1, ports := r.ports, func := sd.func,
                      paylen := if h.kind = 1 then h.paylen else payload.length }
  { flits := msgFlits hdr payload, total := (msgFlits hdr payload).length, lane := laneOf sd.cls (kindResp h.kind) 0
    source := some (s.moduleNo, sd.func), cmd := sd.cmd, engine := sd.engine }

theorem State.sendPlain_eq (s : State) (sd : Sender) (h : MsgHdr) (payload : List Byte) : s.sendPlain sd h payload =
    match s.routeTo h.dest sd.cls with
    | none => .noRoute
    | some r => .sent (s.enqueue (portOfHop r.ports 0) (s.plainItem sd h payload r)) := rfl

theorem State.enqueue_txq (s : State) (q p : Nat) (it : TxItem) :
    ((s.enqueue q it).port p).txq = if q = p then (s.port p).txq ++ [it] else (s.port p).txq := by
  rw [State.enqueue, State.port_updPort]
  split
  · next h => rw [h]
  · rfl

/-- An acknowledgement changes the fabric alone, and takes nothing from a port's queue (R294). -/
theorem State.sendAck_onlyFab (s : State) (h : MsgHdr) (refusal : Option Nat) :
    OnlyFab s (s.sendAck h refusal) ∧ ∀ p i, i ∈ (s.port p).txq → i ∈ ((s.sendAck h refusal).port p).txq := by
  unfold State.sendAck
  rw [State.sendPlain_eq]
  dsimp only
  cases s.routeTo h.src 7 with
  | none => exact ⟨.refl s, fun _ _ hi => hi⟩
  | some r =>
    refine ⟨rfl, fun p i hi => ?_⟩
    dsimp only
    rw [State.enqueue_txq]
    split
    · exact List.mem_append_left _ hi
    · exact hi

/-- A refusal changes no memory and no core (R222). -/
theorem State.refuse_frame (s : State) (h : MsgHdr) (reason : Nat) :
    (s.refuse h reason).mem = s.mem ∧ (s.refuse h reason).cores = s.cores := by
  have hack (t : State) (r : Option Nat) : (t.sendAck h r).mem = t.mem ∧ (t.sendAck h r).cores = t.cores := by
    rw [(t.sendAck_onlyFab h r).1]
    exact ⟨rfl, rfl⟩
  unfold State.refuse
  dsimp only
  split
  · next n _ =>
    have hrecord := s.record_sansHost n (recordBytes h.offset 0 2 reason (h.src * 1024 + h.queue / 512 % 32 * 32 + 31) 0 0 h.window)
    rw [(hack _ _).1, (hack _ _).2]
    exact ⟨(congrArg State.mem hrecord :), (congrArg State.cores hrecord :)⟩
  · exact hack s _

/-- A write inside one page of stack memory is performed there (R222). -/
theorem State.windowWrite_stack {s : State} {fn va a : Nat} {e : Word} {big : Bool} {bs : List Byte} (hbs : bs ≠ [])
    (hfit : va % 2 ^ 25 + bs.length ≤ 2 ^ 25) (hat : s.translate fn va .read = .at (.stack a) e big) :
    s.windowWrite fn va bs = some (((s.walkTouch fn va).cacheWrite a bs.length fn 0).putMem a bs) := by
  simp only [State.windowWrite, vaParts_single (List.length_pos_of_ne_nil hbs) hfit, List.foldl_cons, List.foldl_nil,
    Option.bind_some, Nat.sub_self, List.drop_zero, List.take_length, hat]

section
variable {s t : State} {msg : List (BitVec 1920)} (htake : s.takeMsg (fun h => h.kind == 0) = some (msg, t))
include htake

theorem exec_remoteWrite_refused {reason : Nat} (hcheck : (s.window (msgHdr msg).window).check (msgHdr msg).srcgrp
    (msgHdr msg).offset (msgPayload msg).length false true false = some reason) :
    exec .remoteWrite s = .next (t.refuse (msgHdr msg) reason) := by
  rw [← (State.takeMsg_onlyFab htake).window] at hcheck
  simp only [exec_remoteWrite, execRemoteWrite, htake, hcheck]

/-- A write that its window permits is performed and acknowledged (R222, R294). -/
theorem exec_remoteWrite_performed {u : State} (hcheck : (s.window (msgHdr msg).window).check (msgHdr msg).srcgrp
    (msgHdr msg).offset (msgPayload msg).length false true false = none)
    (hwrite : t.windowWrite (s.window (msgHdr msg).window).tenant
      ((s.window (msgHdr msg).window).va (msgHdr msg).offset) (msgPayload msg) = some u) :
    exec .remoteWrite s = .next (u.sendAck (msgHdr msg) none) := by
  rw [← (State.takeMsg_onlyFab htake).window] at hcheck hwrite
  simp only [exec_remoteWrite, execRemoteWrite, htake, hcheck, hwrite]

end

/-- A short answer is one part. -/
theorem responseParts_single {bs : List Byte} (h : bs.length ≤ 7168) (n o : Nat) : responseParts (n + 1) o bs = [(o, bs)] := by
  rw [responseParts, if_pos h, List.take_of_length_le h]

/-! Bytes that a response brings (R192). -/

theorem SMap.find_putMissing_below (m : SMap Byte) {a i : Nat} (h : i < a) (bs : List Byte) :
    SMap.find (putMissing m a bs) i = SMap.find m i := by
  induction bs generalizing m a with
  | nil => rfl
  | cons b bs ih =>
    rw [putMissing, ih _ (by omega)]
    split
    · rfl
    · rw [SMap.find_set, if_neg (by omega)]

/-- Bytes added where none were are known there. -/
theorem knownBytes_putMissing {m : SMap Byte} {a : Nat} (h : ∀ i, a ≤ i → SMap.find m i = none) (bs : List Byte) :
    knownBytes (putMissing m a bs) a bs.length = some bs := by
  induction bs generalizing m a with
  | nil => rfl
  | cons b bs ih =>
    have hput : putMissing m a (b :: bs) = putMissing (SMap.set m a b) (a + 1) bs := by
      rw [putMissing, h a (Nat.le_refl a)]
      rfl
    have hrest (i : Nat) (hi : a + 1 ≤ i) : SMap.find (SMap.set m a b) i = none := by
      rw [SMap.find_set, if_neg (by omega), h i (by omega)]
    have hfirst : SMap.find (putMissing (SMap.set m a b) (a + 1) bs) a = some b := by
      rw [SMap.find_putMissing_below _ (Nat.lt_succ_self a), SMap.find_set, if_pos rfl]
    rw [List.length_cons, hput, knownBytes, hfirst, ih hrest]

/-- The line of a command that is put behind lines of other names is the one found. -/
theorem scopedLine_behind {d e : Die} {c : ScopedLine} (hnew : d.scopedLine c.cmd c.line = none) {rest : List ScopedLine}
    (hrest : rest ⊆ d.cached) {w : Option Nat} (he : e.cached = rest ++ [{ c with way := w }]) :
    e.scopedLine c.cmd c.line = some { c with way := w } := by
  have hnone : rest.find? (fun x => x.cmd == c.cmd && x.line == c.line) = none :=
    List.find?_eq_none.mpr fun x hx => List.find?_eq_none.mp hnew x (hrest hx)
  rw [Die.scopedLine, he, List.find?_append, hnone, Option.none_or]
  exact List.find?_cons_of_pos (by rw [beq_self_eq_true, beq_self_eq_true]; rfl)

theorem delFirst_subset {α : Type} (p : α → Bool) (l : List α) : delFirst p l ⊆ l := by
  induction l with
  | nil => exact List.Subset.refl _
  | cons x xs ih =>
    rw [delFirst]
    split
    · exact List.subset_cons_self x xs
    · exact List.cons_subset_cons x ih

theorem Die.evictLine_cached {d e : Die} {offer : Bool} {fn : Nat} {l : DcLine} (h : d.evictLine offer fn l = some e) :
    e.cached = d.cached := by
  unfold Die.evictLine Die.queueWrite at h
  dsimp only at h
  split at h
  · split at h
    · split at h
      · exact nomatch h
      · cases h; rfl
    · cases h; rfl
  · split at h
    · cases h; rfl
    · split at h
      · exact nomatch h
      · cases h; rfl

theorem Die.clearWay_cached {d e : Die} {offer : Bool} {fn key w : Nat} (h : d.clearWay offer fn key w = some e) :
    e.cached ⊆ d.cached := by
  unfold Die.clearWay at h
  dsimp only at h
  split at h
  · rw [Die.evictLine_cached h]
    exact List.filter_subset_self _
  · cases h
    exact List.filter_subset_self _

/-- A host or remote line that is kept is found, whatever way it gets (R192). -/
theorem Die.keepScoped_found {d : Die} {c : ScopedLine} (hnew : d.scopedLine c.cmd c.line = none) (offer : Bool) :
    ∃ w, (d.keepScoped offer c).scopedLine c.cmd c.line = some { c with way := w } := by
  have hplaced (key : Nat) : ∃ w, (d.scopedWay offer key c).scopedLine c.cmd c.line = some { c with way := w } := by
    unfold Die.scopedWay
    split
    · next w e he =>
      obtain ⟨w', -, he⟩ := Option.bind_eq_some_iff.mp he
      obtain ⟨e', hclear, heq⟩ := Option.map_eq_some_iff.mp he
      cases heq
      exact ⟨_, scopedLine_behind hnew (Die.clearWay_cached hclear) rfl⟩
    · exact ⟨_, scopedLine_behind hnew (List.Subset.refl _) rfl⟩
  have hnone : d.cached.any (fun x => x.cmd == c.cmd && x.line == c.line) = false := by
    rw [List.any_eq_false]
    exact fun x hx => List.find?_eq_none.mp hnew x hx
  unfold Die.keepScoped
  dsimp only
  rw [hnone, if_neg Bool.false_ne_true]
  split
  · split
    · exact ⟨_, scopedLine_behind hnew (delFirst_subset _ _) rfl⟩
    · exact hplaced _
  · exact hplaced _

/-- Bytes of one remote line that a command does not hold yet are held for it from their arrival on (R192, R285). -/
theorem State.fillScoped_line {s : State} {die m w o : Nat} {cmd : Option CmdRef} {bs : List Byte}
    (hcmd : ∀ q, cmd = some q → (s.cmd q).isSome = true) (hbs : bs ≠ []) (hline : o % 256 = 0)
    (hfit : o % 256 + bs.length ≤ 256) (hnew : (s.die die).scopedLine cmd (.remote m w o) = none) :
    ∃ f, s.fillScoped die cmd (.remote m w o) bs = s.updDie die f ∧
      ∃ l, (f (s.die die)).scopedLine cmd (.remote m w o) = some l ∧ knownBytes l.data 0 bs.length = some bs := by
  have hlive : cmd.any (fun r => (s.cmd r).isNone) = false := by
    cases cmd with
    | none => rfl
    | some q => rw [Option.any_some, Option.isNone_eq_false_iff]; exact hcmd q rfl
  have hplace : ((Loc.remote m w o).add (o - o)).line = .remote m w o := by
    rw [Loc.add, Loc.line, Nat.sub_self, Nat.add_zero, Nat.div_mul_cancel (Nat.dvd_of_mod_eq_zero hline)]
  let c : ScopedLine := { cmd := cmd, line := .remote m w o, data := putMissing [] 0 bs
                          tenant := ((cmd.bind s.cmd).map (fun c => c.tenant)).getD 0 }
  obtain ⟨way, hfound⟩ := Die.keepScoped_found (d := s.die die) (c := c) hnew s.mod.evict
  refine ⟨fun d => d.keepScoped s.mod.evict c, ?_, _, hfound, knownBytes_putMissing (fun _ _ => rfl) bs⟩
  unfold State.fillScoped
  rw [hlive, if_neg Bool.false_ne_true]
  simp only [Loc.addr, pieces_single (List.length_pos_of_ne_nil hbs) hfit, List.foldl_cons, List.foldl_nil]
  rw [hplace, hnew, hline, Nat.sub_self, List.drop_zero, List.take_length]
  rfl

/-! Transfers whose messages are refused or lost. -/

theorem State.cmd_putXfer {s : State} {r : CmdRef} {c : Cmd} (hc : s.cmd r = some c) (x : Xfer) :
    (s.putXfer (.cmd r) x).cmd r = some { c with xfer := some x } := by
  rw [State.putXfer, State.cmd_updCmd_same s r (f := fun c => { c with xfer := some x }) fun _ => rfl, hc]
  rfl

theorem State.cmd_putXfer_ne (s : State) {q r : CmdRef} (h : q ≠ r) (x : Xfer) : (s.putXfer (.cmd r) x).cmd q = s.cmd q :=
  State.cmd_updCmd_ne s h (f := fun c => { c with xfer := some x }) fun _ => rfl

/-- The message was sent for a transfer of a command that goes on (R249). -/
structure SentFor (s : State) (u : Unacked) (r : CmdRef) (c : Cmd) (x : Xfer) : Prop where
  engine : u.engine = some (.feed (.cmd r))
  cmd : s.cmd r = some c
  xfer : s.xfer (.cmd r) = some x
  goes : x.isComplete = false

section
variable {s t : State} {u : Unacked} {r : CmdRef} {c : Cmd} {x : Xfer} (hfor : SentFor s u r c x)
include hfor

theorem SentFor.onlyFab (h : OnlyFab s t) : SentFor t u r c x := by
  have hcmds := h.cmds
  exact ⟨hfor.engine, by rw [State.cmd, hcmds]; exact hfor.cmd, (State.xfer_cmd_of_cmds hcmds r).trans hfor.xfer, hfor.goes⟩

/-- A lost message stops its transfer (R294, R329). -/
theorem SentFor.lostMsg (h : OnlyFab s t) (reason : Nat) : TransferLost s (t.lostMsg u reason) r c x reason := by
  have hlive := hfor.onlyFab h
  have hlost : t.lostMsg u reason = t.putXfer (.cmd r) (x.stop 10 (reason * 2 ^ 16)) := by
    simp only [State.lostMsg, hlive.engine, hlive.xfer, hlive.goes, Bool.false_eq_true, if_false]
  rw [hlost]
  refine ⟨?_, fun q hq => ?_, State.cmd_putXfer hlive.cmd _⟩
  · rw [h]
    rfl
  · rw [State.cmd_putXfer_ne t hq, h]
    rfl

/-- A refused message stops its transfer, with REVOKED for a revoked window (R222, R254). -/
theorem SentFor.refused (code : Nat) :
    (s.refused u code).cmd r =
      some { c with xfer := some (if code = refusalRevoked then x.stop 5 2 else x.stop 6 code) } ∧
      (s.refused u code).mem = s.mem := by
  have hlive := hfor.onlyFab (t := s.updFab (fun f => { f with
    reads := f.reads.filter (fun r => !(some r.engine == u.engine && r.va == u.va)) })) rfl
  have hstop : s.refused u code = (s.updFab (fun f => { f with
      reads := f.reads.filter (fun r => !(some r.engine == u.engine && r.va == u.va)) })).putXfer (.cmd r)
        (if code = refusalRevoked then x.stop 5 2 else x.stop 6 code) := by
    unfold State.refused
    rw [hfor.engine] at hlive ⊢
    dsimp only
    rw [hlive.xfer]
    dsimp only
    rw [hlive.goes, if_neg Bool.false_ne_true]
    by_cases hcode : code = refusalRevoked
    · simp [hcode]
    · simp [hcode]
  rw [hstop]
  exact ⟨State.cmd_putXfer hlive.cmd _, rfl⟩

end

/-- The response to a read request of the module (R285). -/
def State.responseItem (s : State) (m : Delivered) (bs : List Byte) (route : RouteChoice) : TxItem :=
  let h := msgHdr m.flits
  s.plainItem { func := 0, queue := h.queue, cls := m.cls }
    { dest := h.src, kind := 2, queue := h.queue, mseq := h.mseq, window := h.window, offset := h.offset, kspec := h.kspec }
    bs route

/-- A read request that its window permits is answered with one response when the bytes fit it, and acknowledged (R285, R294). -/
theorem exec_readRequest_answered {s t v : State} {m : Delivered} {bs : List Byte} {route : RouteChoice}
    (htake : s.takeDelivered (fun h => h.kind == 1) = some (m, t))
    (hcheck : (s.window (msgHdr m.flits).window).check (msgHdr m.flits).srcgrp (msgHdr m.flits).offset (msgHdr m.flits).paylen
      true false false = none)
    (hread : t.readTrusted (s.window (msgHdr m.flits).window).tenant
      ((s.window (msgHdr m.flits).window).va (msgHdr m.flits).offset) (msgHdr m.flits).paylen = some (bs, v))
    (hlen : bs.length ≤ 7168) (hroute : v.routeTo (msgHdr m.flits).src m.cls = some route) :
    exec .readRequest s =
      .next ((v.enqueue (portOfHop route.ports 0) (v.responseItem m bs route)).sendAck (msgHdr m.flits) none) := by
  rw [← (State.takeDelivered_onlyFab htake).window] at hcheck hread
  simp only [exec_readRequest, execReadRequest, htake, hcheck, hread, responseParts_single hlen, List.foldl_cons, List.foldl_nil,
    State.sendPlain_eq, hroute, SendResult.orElse, State.responseItem]

/-- A response whose tag is pending brings its bytes to the engine that asked (R285). -/
theorem exec_readResponse_pending {s t : State} {msg : List (BitVec 1920)} {t0 : ReadTag}
    (htake : s.takeMsg (fun h => h.kind == 2) = some (msg, t))
    (hfind : s.fab.reads.find? (fun y => y.tag == (msgHdr msg).kspec % 65536) = some t0) :
    exec .readResponse s = .next ((t.fillScoped t0.die t0.cmd
      (.remote (msgHdr msg).src (msgHdr msg).window (msgHdr msg).offset) (msgPayload msg)).updFab (fun f => { f with
        reads := if t0.bytes - (msgPayload msg).length = 0 then delFirst (fun y => y.tag == (msgHdr msg).kspec % 65536) f.reads
          else updFirst (fun y => y.tag == (msgHdr msg).kspec % 65536)
            (fun y => { y with bytes := t0.bytes - (msgPayload msg).length }) f.reads })) := by
  rw [← State.takeMsg_reads htake] at hfind
  simp only [exec_readResponse, execReadResponse, htake, hfind]

theorem exec_readResponse_unasked {s t : State} {msg : List (BitVec 1920)}
    (htake : s.takeMsg (fun h => h.kind == 2) = some (msg, t))
    (hfind : s.fab.reads.find? (fun y => y.tag == (msgHdr msg).kspec % 65536) = none) : exec .readResponse s = .next t := by
  rw [← State.takeMsg_reads htake] at hfind
  simp only [exec_readResponse, execReadResponse, htake, hfind]

section
variable {s t v : State} {msg : List (BitVec 1920)} {u : Unacked} (htake : s.takeMsg (fun h => h.kind == 4) = some (msg, t))
  (hmine : t.takeUnacked (fun y => y.queue == (msgHdr msg).queue && y.dest == (msgHdr msg).src && y.mseq == (msgHdr msg).mseq
    && y.committed) = some (u, v))
include htake hmine

theorem exec_acknowledgement_accepted (hdata : msgPayload msg = []) : exec .acknowledgement s = .next v.sendAllOwed := by
  simp only [exec_acknowledgement, execAcknowledgement, htake, hmine, hdata]

theorem exec_acknowledgement_refused {b : Byte} {rest : List Byte} (hdata : msgPayload msg = b :: rest) :
    exec .acknowledgement s = .next (v.refused u b.toNat).sendAllOwed := by
  simp only [exec_acknowledgement, execAcknowledgement, htake, hmine, hdata]

end

/-- A notice about a message of this module loses it (R294, R303). -/
theorem State.noticed_lost {s t v : State} {msg : List (BitVec 1920)} {u : Unacked} {code : Nat}
    (htake : s.takeMsg (fun h => h.kind == 5 && h.kspec % 256 == code) = some (msg, t))
    (habout : t.takeUnacked (fun y => y.queue == (msgHdr msg).queue && y.mseq == (msgHdr msg).mseq && y.committed) = some (u, v)) :
    s.noticed code = v.lostMsg u 1 := by
  simp only [State.noticed, htake, habout]

/-- A message without an acknowledgement in time is lost (R294). -/
theorem exec_deliveryTimeout_named {s t : State} {queue : BitVec 14} {dest : BitVec 10} {mseq : BitVec 16} {u : Unacked}
    (hnamed : s.takeUnacked (fun y => y.queue == queue.toNat && y.dest == dest.toNat && y.mseq == mseq.toNat) = some (u, t)) :
    exec (.deliveryTimeout queue dest mseq) s = .next ((t.unqueue u).lostMsg u 4) := by
  simp only [exec_deliveryTimeout, execDeliveryTimeout, hnamed]

theorem State.sendAllOwed_sansSends (s : State) : s.sendAllOwed.sansSends = s.sansSends :=
  foldl_view (view := State.sansSends) (f := fun (t : State) (p : Nat × Group) => t.sendOwed p.1)
    (fun t p => t.sendOwed_sansSends p.1) _ s

theorem State.sendAllOwed_none {s : State} (h : ∀ g ∈ s.groups, g.2.owed = []) : s.sendAllOwed = s := by
  have hnone : s.groups.filter (fun p => !p.2.owed.isEmpty) = [] :=
    List.filter_eq_nil_iff.mpr fun g hg => by rw [h g hg]; decide
  rw [State.sendAllOwed, hnone]
  rfl

end Sys2Proof.Machine

namespace Sys2Proof.Claims

open Sys2Proof.Machine

/-- Settles O57: each message leaves the fabric and then does what its kind does: `State.windowWrite_stack`, one response by
`State.sendPlain_eq`, `State.fillScoped_line`, and for a transfer of this module `SentFor.refused` or `SentFor.lostMsg`. -/
theorem messagesComplete : Obligations.MessagesComplete := by
  unfold Obligations.MessagesComplete
  intro s s1 s2 v msg m u a bs e big r c x queue dest mseq h w data va mh mw mine about named sender tag noneOwed
  have hsender (hs : sender) : SentFor s u r c x := ⟨hs.1, hs.2.1, hs.2.2.1, hs.2.2.2⟩
  refine ⟨fun htake hcheck hdata hfit hat hwf => ?write, fun reason htake hcheck => ?refused,
    fun route htake hcheck hread hlen hroute => ?request, fun t0 htake hfind hdata hfit hline hcmd hnew => ?response,
    fun htake hfind => ?unasked, fun htake hmine hdata hnone => ?accepted, fun b rest htake hmine hdata hs => ?denied,
    fun htake habout hs => ?unreachable, fun htake habout hs => ?routeError, fun hnamed hs => ?late, fun hnamed => ?settled⟩
  case write =>
    have hfab := State.takeMsg_onlyFab htake
    have hwrite := State.windowWrite_stack (s := s1) hdata hfit ((hfab.translate ..).trans hat)
    have hexec := exec_remoteWrite_performed htake hcheck hwrite
    have hmem : ((s1.walkTouch w.tenant va).cacheWrite a data.length w.tenant 0).mem = s.mem :=
      (State.cacheWrite_mem ..).trans ((State.walkTouch_looked ..).mem.trans hfab.mem)
    have hcores : ((s1.walkTouch w.tenant va).cacheWrite a data.length w.tenant 0).cores = s.cores :=
      (State.cacheWrite_quiet ..).cores.trans ((State.walkTouch_quiet ..).cores.trans hfab.cores)
    have hack := (State.sendAck_onlyFab (((s1.walkTouch w.tenant va).cacheWrite a data.length w.tenant 0).putMem a data) h none).1
    have hstored := hack.mem.trans (congrArg (Memory.writeBytes · a data) hmem)
    refine ⟨_, hexec, ?_, fun b hb => ?_, hack.cores.trans hcores⟩
    · rw [hstored]
      exact Memory.readBytes_writeBytes a data hwf
    · rw [hstored]
      exact Memory.read_writeBytes_ne a b data hwf hb
  case refused =>
    obtain ⟨hmem, hcores⟩ := s1.refuse_frame h reason
    have hfab := State.takeMsg_onlyFab htake
    exact ⟨_, exec_remoteWrite_refused htake hcheck, fun b => congrArg (Memory.read · b) (hmem.trans hfab.mem),
      hcores.trans hfab.cores⟩
  case request =>
    have hexec := exec_readRequest_answered htake hcheck hread hlen hroute
    obtain ⟨hack, hkeeps⟩ :=
      State.sendAck_onlyFab (v.enqueue (portOfHop route.ports 0) (v.responseItem m bs route)) (msgHdr m.flits) none
    refine ⟨_, hexec, OnlyFab.trans (t := v.enqueue _ _) rfl hack, v.responseItem m bs route, hkeeps _ _ ?_, rfl, rfl⟩
    rw [State.enqueue_txq, if_pos rfl]
    exact List.mem_append_right _ List.mem_cons_self
  case response =>
    have hfab := State.takeMsg_onlyFab htake
    have hdie : s1.die t0.die = s.die t0.die := by rw [State.die, hfab.dies]; rfl
    have hlive (q : CmdRef) (hq : t0.cmd = some q) : (s1.cmd q).isSome = true := by
      rw [State.cmd, hfab.cmds]
      exact hcmd q hq
    obtain ⟨f, hfill, l, hheld, hknown⟩ := State.fillScoped_line (s := s1) (die := t0.die) hlive hdata hline hfit
      (hdie ▸ hnew)
    refine ⟨_, exec_readResponse_pending htake hfind, ?_⟩
    rw [hfill]
    refine ⟨by rw [hfab]; rfl, ?_, l, ?_, hknown⟩
    · simp only [Nat.sub_eq_zero_iff_le]
      rw [← State.takeMsg_reads htake]
      rfl
    · exact (congrArg (Die.scopedLine · t0.cmd _) (s1.die_updDie_same t0.die f)).trans hheld
  case unasked => exact ⟨_, exec_readResponse_unasked htake hfind, rfl⟩
  case accepted =>
    have hgroups := ((State.takeMsg_onlyFab htake).trans (State.takeUnacked_onlyFab hmine)).groups
    exact ⟨_, exec_acknowledgement_accepted htake hmine hdata, State.sendAllOwed_none (by rw [hgroups]; exact hnone)⟩
  case denied =>
    have hfab := (State.takeMsg_onlyFab htake).trans (State.takeUnacked_onlyFab hmine)
    obtain ⟨hcmd, hmem⟩ := ((hsender hs).onlyFab hfab).refused b.toNat
    have hrest := (s2.refused u b.toNat).sendAllOwed_sansSends
    refine ⟨_, exec_acknowledgement_refused htake hmine hdata, fun a => congrArg (Memory.read · a) ?_, ?_⟩
    · exact (congrArg State.mem hrest :).trans (hmem.trans hfab.mem)
    · exact (congrArg (fun t : State => t.cmd r) hrest :).trans hcmd
  case unreachable =>
    have hfab := (State.takeMsg_onlyFab htake).trans (State.takeUnacked_onlyFab habout)
    exact ⟨_, (exec_noticeUnreachable s).trans (congrArg Host.Outcome.next (State.noticed_lost htake habout)),
      (hsender hs).lostMsg hfab 1⟩
  case routeError =>
    have hfab := (State.takeMsg_onlyFab htake).trans (State.takeUnacked_onlyFab habout)
    exact ⟨_, (exec_noticeRouteError s).trans (congrArg Host.Outcome.next (State.noticed_lost htake habout)),
      (hsender hs).lostMsg hfab 1⟩
  case late =>
    have hfab := (State.takeUnacked_onlyFab hnamed).trans (s1.unqueue_onlyFab u)
    exact ⟨_, exec_deliveryTimeout_named hnamed, (hsender hs).lostMsg hfab 4⟩
  case settled => exact ⟨s, by simp only [exec_deliveryTimeout, execDeliveryTimeout]; rw [hnamed], rfl⟩

end Sys2Proof.Claims
end

section
/-! SUPPORT. Where a line number lies (R178), and the die cache's answers to a line that arrives, to an error of a held line and
to a slice that writes back (R183, R189, R190, R194 to R196). -/

namespace Sys2Proof.Machine

open Sys2Proof.Claims

theorem dieOf_lineSpa {n line : Nat} (hn : n < 32) (hline : line < 2 ^ 26) : dieOf (lineSpa n line) = n := by
  simp only [dieOf, lineSpa, Nat.shiftRight_eq_div_pow]
  omega

theorem lineOf_lineSpa {n line : Nat} (hline : line < 2 ^ 26) : lineOf (lineSpa n line) = line := by
  simp only [lineOf, lineSpa, Nat.shiftRight_eq_div_pow]
  omega

theorem setKey_slice (spa : Nat) : setKey spa / 2048 = (placeOf spa).slice := by
  have hset : (placeOf spa).set < 2048 := Nat.mod_lt _ (by decide)
  show ((placeOf spa).slice * 2048 + (placeOf spa).set) / 2048 = _
  omega

/-- A removed key is not found. -/
theorem SMap.find_del_same {α : Type} (m : SMap α) (k : Nat) : SMap.find (SMap.del m k) k = none := by
  cases hfound : SMap.find (SMap.del m k) k with
  | none => rfl
  | some v =>
    have hother := (List.mem_filter.mp (SMap.mem_of_find hfound)).2
    exact absurd hother (by simp)

/-! A line placed in a free way. -/

/-- The die with a line in a way of its set that held no stack line. -/
def Die.withLine (d : Die) (key : Nat) (l : DcLine) : Die :=
  { d with
    cached := d.cached.filter (fun c => !(c.way == some l.way && scopedPlace c.line.addr == key))
    lines := l :: d.lines }.touch key l.way

theorem Die.clearWay_free {d : Die} {key w : Nat} (hfree : ∀ l ∈ d.setLines key, l.way ≠ w) (offer : Bool) (fn : Nat) :
    d.clearWay offer fn key w =
      some { d with cached := d.cached.filter (fun c => !(c.way == some w && scopedPlace c.line.addr == key)) } := by
  have hnone : (d.setLines key).find? (fun l => l.way == w) = none :=
    List.find?_eq_none.mpr fun l hl => by simpa using hfree l hl
  unfold Die.clearWay
  dsimp only
  split
  · next l hl => exact nomatch (hnone.symm.trans hl :)
  · rfl

theorem Die.place_free {d : Die} {spa fn w : Nat} (hway : d.wayFor fn (setKey spa) = some w)
    (hfree : ∀ l ∈ d.setLines (setKey spa), l.way ≠ w) (offer dirty keep : Bool) :
    d.place offer spa fn dirty keep =
      some (d.withLine (setKey spa) { line := lineOf spa, way := w, dirty := dirty, keep := keep, tenant := fn }) := by
  rw [Die.place, hway, Option.bind_some, Die.clearWay_free hfree]
  rfl

/-- A tenant that has a way to take does not stream through (R185). -/
theorem Die.streams_of_wayFor {d : Die} {spa fn w : Nat} (hway : d.wayFor fn (setKey spa) = some w) :
    d.streams spa fn = false := by
  unfold Die.wayFor at hway
  rw [setKey_slice] at hway
  rw [Die.streams]
  by_contra hempty
  rw [Bool.not_eq_false] at hempty
  simp [hempty] at hway

/-- The line of a miss register that finds a free way is placed there (R189). -/
theorem Die.fillMiss_free {d : Die} {spa w : Nat} {m : DcMiss} (habsent : d.holds m.line = none)
    (hway : d.wayFor m.tenant (setKey spa) = some w) (hfree : ∀ l ∈ d.setLines (setKey spa), l.way ≠ w) (offer : Bool) :
    d.fillMiss offer spa m = some ({ d with misses := delFirst (fun x => x.line == m.line) d.misses }.withLine (setKey spa)
      { line := lineOf spa, way := w, dirty := m.dirty, keep := m.keep, tenant := m.tenant }) := by
  have hheld : ({ d with misses := delFirst (fun x => x.line == m.line) d.misses }.holds m.line).isSome = false :=
    congrArg Option.isSome habsent
  have hstreams := Die.streams_of_wayFor hway
  unfold Die.fillMiss
  refine (if_neg (Bool.eq_false_iff.mp hheld)).trans ((if_neg (Bool.eq_false_iff.mp hstreams)).trans ?_)
  exact Die.place_free (d := { d with misses := delFirst (fun x => x.line == m.line) d.misses }) hway hfree offer m.dirty m.keep

/-- The die when a line that its channel served has taken a free way. -/
def Die.filled (d : Die) (line : Nat) (p : ChanReq × SMap Nat) (key : Nat) (l : DcLine) : Die :=
  { d.updChan (chanOf line) (fun c => c.readDone p) with
    fetches := d.fetches.filter (fun f => f.line != line)
    misses := delFirst (fun x => x.line == line) d.misses }.withLine key l

/-- The module when the line of a miss register has taken a free way, and its check has been read. -/
def State.filled (s : State) (n line : Nat) (p : ChanReq × SMap Nat) (l : DcLine) (whole : Bool) (found : Ecc) : State :=
  (s.updCache (lineSpa n line) p.1.tenant (fun _ => (s.die n).filled line p (setKey (lineSpa n line)) l)).fillEcc n line whole found

/-- The line of a miss register arrives for the engines that wait for it (R189). -/
theorem State.lineArrives_miss {s : State} {n line w : Nat} {m : DcMiss} (hline : line < 2 ^ 26)
    (hmiss : (s.die n).misses.find? (fun x => x.line == line) = some m) (hfetches : (s.die n).fetches = [])
    (habsent : (s.die n).holds line = none) (hway : (s.die n).wayFor m.tenant (setKey (lineSpa n line)) = some w)
    (hfree : ∀ l ∈ (s.die n).setLines (setKey (lineSpa n line)), l.way ≠ w) (p : ChanReq × SMap Nat) (found : Ecc) :
    s.lineArrives n line p found =
      let s1 := s.filled n line p { line := line, way := w, dirty := m.dirty, keep := m.keep, tenant := m.tenant } m.whole found
      if s1.poison.contains (lineSpa n line / 256) then m.readers.foldl (fun s e => s.readerFault (lineSpa n line) e) s1
      else m.readers.foldl (fun s e => s.arrive e (.stack (lineSpa n line))) s1 := by
  have hm : m.line = line := by simpa using List.find?_some hmiss
  have hfill := Die.fillMiss_free (d := { (s.die n).updChan (chanOf line) (fun c => c.readDone p) with
    fetches := (s.die n).fetches.filter (fun f => f.line != line) }) (hm ▸ habsent :) hway hfree s.mod.evict
  rw [hm, lineOf_lineSpa hline, hfetches] at hfill
  unfold State.lineArrives
  simp only [hmiss, hfill, hfetches, List.find?_nil, Option.map_none, Option.map_some, Option.getD_some, Option.getD_none,
    List.append_nil]
  simp only [State.filled, Die.filled, hfetches]
  rfl

/-! What the filling leaves: the cache's own fields, memory and poison. -/

/-- What the arrival of a line says of a module: the line has left its miss register and its channel, and is held. -/
def LineArrived (s t : State) (n line : Nat) (p : ChanReq × SMap Nat) (l : DcLine) : Prop :=
  (t.die n).misses = delFirst (fun x => x.line == line) (s.die n).misses ∧ (t.die n).holds line = some l ∧
    ((t.die n).chan (chanOf line)).reads = delFirst (fun r => r == p.1) ((s.die n).chan (chanOf line)).reads ∧ SameMem s t

/-- A change of a die that keeps its miss registers, lines and channels keeps a line's arrival. -/
theorem LineArrived.updDie {s t : State} {n line : Nat} {p : ChanReq × SMap Nat} {l : DcLine} (h : LineArrived s t n line p l)
    (e : Nat) {f : Die → Die} (hf : ∀ d, (f d).misses = d.misses ∧ (f d).lines = d.lines ∧ (f d).chans = d.chans) :
    LineArrived s (t.updDie e f) n line p l := by
  obtain ⟨hmisses, hholds, hreads, hmem⟩ := h
  obtain ⟨hfmisses, hflines, hfchans⟩ := hf (t.die n)
  by_cases he : e = n
  · subst he
    refine ⟨?_, ?_, ?_, hmem⟩ <;> rw [State.die_updDie_same]
    · rw [hfmisses, hmisses]
    · rw [Die.holds, hflines]
      exact hholds
    · rw [Die.chan, hfchans]
      exact hreads
  · have hdie : (t.updDie e f).die n = t.die n := (State.die_updDie ..).trans (if_neg he)
    exact ⟨hdie ▸ hmisses, hdie ▸ hholds, hdie ▸ hreads, hmem⟩

/-- The state behind `State.filled`, before the check is read. -/
theorem State.updCache_filled {s : State} {n line : Nat} (hn : n < 32) (hline : line < 2 ^ 26) (p : ChanReq × SMap Nat)
    {l : DcLine} (hl : l.line = line) (fn key : Nat) :
    let t := s.updCache (lineSpa n line) fn (fun _ => (s.die n).filled line p key l)
    LineArrived s t n line p l ∧ t.poison = s.poison ∧ t.cores = s.cores ∧ t.die n = (s.die n).filled line p key l := by
  intro t
  have hdie : t.die n = (s.die n).filled line p key l := by
    have hplaced := s.updCache_die (lineSpa n line) fn (fun _ => (s.die n).filled line p key l)
    rwa [dieOf_lineSpa hn hline] at hplaced
  obtain ⟨hcores, hmem⟩ := s.updCache_cores_mem (lineSpa n line) fn (fun _ => (s.die n).filled line p key l)
  have hpoison : t.poison = s.poison :=
    foldl_view (view := State.poison) (f := fun (t : State) (l : DcLine) => t.countFunc l.tenant 0x20 1) (fun _ _ => rfl) _ _
  refine ⟨⟨?_, ?_, ?_, fun a => congrArg (Memory.read · a) hmem⟩, hpoison, hcores, hdie⟩ <;> rw [hdie]
  · rfl
  · exact List.find?_cons_of_pos (by simp [hl])
  · have hchan := SMap.get_set_same (s.die n).chans (chanOf line) (((s.die n).chan (chanOf line)).readDone p) {}
    exact (congrArg Channel.reads hchan :)

/-- The line has arrived, whatever its check shows. -/
theorem State.fillEcc_arrived {s t : State} {n line : Nat} {p : ChanReq × SMap Nat} {l : DcLine}
    (h : LineArrived s t n line p l) (covered : Bool) (found : Ecc) :
    LineArrived s (t.fillEcc n line covered found) n line p l := by
  have hrecorded : LineArrived s (t.updDie n (fun d => d.stkRecord line false)) n line p l :=
    h.updDie n fun d => by
      unfold Die.stkRecord
      split <;> exact ⟨rfl, rfl, rfl⟩
  cases found with
  | clean => exact h
  | corrected => exact h.updDie n fun _ => ⟨rfl, rfl, rfl⟩
  | uncorrectable =>
    cases covered with
    | true => exact hrecorded
    | false => exact hrecorded

/-- An uncorrectable error is recorded, and poisons the line unless a write covers it (R196, R197). -/
theorem State.fillEcc_uncorrectable {s : State} {n : Nat} (hclear : (s.die n).stkUe = false) (line : Nat) (covered : Bool) :
    let t := s.fillEcc n line covered .uncorrectable
    (covered = false → t.poison.contains (lineSpa n line / 256) = true) ∧ (covered = true → t.poison = s.poison) ∧
      (t.die n).stkUe = true ∧ (t.die n).stkUeLine = line ∧ (t.die n).stkScrubUe = false := by
  intro t
  have hdie : t.die n = (s.die n).stkRecord line false := by
    refine Eq.trans ?_ (s.die_updDie_same n (fun d => d.stkRecord line false))
    cases covered <;> rfl
  rw [hdie, Die.stkRecord, hclear]
  refine ⟨fun hpart => ?_, fun hwhole => ?_, rfl, rfl, rfl⟩
  · subst hpart
    exact State.poisonLine_poison ..
  · subst hwhole
    rfl

theorem State.arrive_hasArrived (s : State) (e : Engine) (l : Loc) : (s.arrive e l).hasArrived e l = true := by
  rw [State.hasArrived, State.arrive, State.die_updDie_same]
  dsimp only
  split
  · assumption
  · simp

/-! The command of a line fill. -/

section

variable {s : State} {die : BitVec 5} {line : BitVec 31}

theorem exec_dcLineFill_served {p : ChanReq × SMap Nat}
    (hserved : ((s.die die.toNat).chan (chanOf line.toNat)).nextRead s.farShare = some p) (hp : p.1.line = line.toNat)
    (found : Ecc) : exec (.dcLineFill die line found) s = .next (s.lineArrives die.toNat line.toNat p found) := by
  simp only [exec_dcLineFill, execDcLineFill, hserved, hp, if_true]

theorem exec_dcLineFill_held {l : DcLine}
    (hserved : ∀ p, ((s.die die.toNat).chan (chanOf line.toNat)).nextRead s.farShare = some p → p.1.line ≠ line.toNat)
    (hheld : (s.die die.toNat).holds line.toNat = some l) (found : Ecc) :
    exec (.dcLineFill die line found) s = .next (s.heldLineError die.toNat l found) := by
  simp only [exec_dcLineFill, execDcLineFill, hheld]
  split
  · next p hsome => rw [if_neg (hserved p hsome)]
  · rfl

/-- A line that no engine waits for arrives. -/
theorem exec_dcLineFill_unread {p : ChanReq × SMap Nat} {m : DcMiss} {w : Nat} (hline : line.toNat < 2 ^ 26)
    (hserved : ((s.die die.toNat).chan (chanOf line.toNat)).nextRead s.farShare = some p) (hp : p.1.line = line.toNat)
    (hmiss : (s.die die.toNat).misses.find? (fun x => x.line == line.toNat) = some m) (hfetches : (s.die die.toNat).fetches = [])
    (habsent : (s.die die.toNat).holds line.toNat = none)
    (hway : (s.die die.toNat).wayFor m.tenant (setKey (lineSpa die.toNat line.toNat)) = some w)
    (hfree : ∀ l ∈ (s.die die.toNat).setLines (setKey (lineSpa die.toNat line.toNat)), l.way ≠ w)
    (hreaders : m.readers = []) (found : Ecc) :
    exec (.dcLineFill die line found) s = .next (s.filled die.toNat line.toNat p
      { line := line.toNat, way := w, dirty := m.dirty, keep := m.keep, tenant := m.tenant } m.whole found) := by
  rw [exec_dcLineFill_served hserved hp, State.lineArrives_miss hline hmiss hfetches habsent hway hfree, hreaders]
  simp only [List.foldl_nil, ite_self]

end

/-! A held line that is dropped and asked for again. -/

theorem Die.dropLine_holds (d : Die) (line : Nat) : (d.dropLine line).holds line = none :=
  List.find?_eq_none.mpr fun l hl => by simpa using (List.mem_filter.mp hl).2

/-- A miss changes the die's queues and miss registers only. -/
theorem Die.miss_only {d e : Die} {spa fn : Nat} {wr whole keep : Bool} {who : List Engine}
    (h : d.miss spa fn wr whole keep who = some e) : e = { d with chans := e.chans, misses := e.misses } := by
  have hqueue {x : Die} (hx : d.queueRead (lineOf spa) fn = some x) : x = { d with chans := x.chans } := by
    unfold Die.queueRead at hx
    dsimp only at hx
    split at hx
    · cases hx
      rfl
    · split at hx
      · cases hx
      · cases hx
        rfl
  unfold Die.miss at h
  dsimp only at h
  split at h
  · split at h
    · cases h
      rfl
    · split at h
      · cases h
      · cases h
        rfl
  · split at h
    · cases h
    · obtain ⟨x, hx, rfl⟩ := Option.map_eq_some_iff.mp h
      rw [hqueue hx]

/-- The first miss of a die whose channel is idle takes a miss register and queues its read (R189). -/
theorem Die.miss_first {d : Die} {spa fn : Nat} (hmisses : d.misses = []) (hways : d.ways fn (placeOf spa).slice ≠ [])
    (hreads : (d.chan (chanOf (lineOf spa))).reads = []) (wr whole keep : Bool) (who : List Engine) :
    d.miss spa fn wr whole keep who = some
      { d.updChan (chanOf (lineOf spa)) (fun c => { c with reads := c.reads ++ [{ line := lineOf spa, tenant := fn }] }) with
        misses := [{ line := lineOf spa, merged := 0, dirty := wr, whole := whole, keep := keep, tenant := fn,
                     readers := who }] } := by
  have hpos : 0 < (d.ways fn (placeOf spa).slice).length := List.length_pos_iff.mpr hways
  have hroom : ¬ 2 * (d.ways fn (placeOf spa).slice).length ≤ 0 := by omega
  unfold Die.miss Die.queueRead
  simp only [hmisses, hreads, List.filter_nil, List.find?_nil, List.length_nil, List.any_nil, hroom]
  simp [hmisses, Die.updChan]

/-- The die without a clean line whose check failed, before the line is asked for again (R194). -/
def Die.lostLine (d : Die) (line : Nat) : Die := { d.dropLine line with dcUeClean := satAdd 16 d.dcUeClean 1 }

/-- The die after a clean line whose check failed (R194). -/
def Die.refetch (d : Die) (n : Nat) (l : DcLine) : Die :=
  ((d.lostLine l.line).miss (lineSpa n l.line) l.tenant false false l.keep []).getD (d.lostLine l.line)

theorem Die.refetch_only (d : Die) (n : Nat) (l : DcLine) :
    d.refetch n l = { d.lostLine l.line with chans := (d.refetch n l).chans, misses := (d.refetch n l).misses } := by
  unfold Die.refetch
  cases hmiss : (d.lostLine l.line).miss (lineSpa n l.line) l.tenant false false l.keep [] with
  | none => rfl
  | some e => exact Die.miss_only hmiss

theorem Die.refetch_drops (d : Die) (n : Nat) (l : DcLine) :
    (d.refetch n l).dcUeClean = min (d.dcUeClean + 1) 65535 ∧ (d.refetch n l).holds l.line = none := by
  rw [Die.refetch_only]
  exact ⟨rfl, d.dropLine_holds l.line⟩

theorem Die.refetch_asks {d : Die} {n : Nat} {l : DcLine} (hline : l.line < 2 ^ 26) (hmisses : d.misses = [])
    (hways : d.ways l.tenant (placeOf (lineSpa n l.line)).slice ≠ []) (hreads : (d.chan (chanOf l.line)).reads = []) :
    (∃ m, (d.refetch n l).misses = [m] ∧ m.line = l.line) ∧
      ((d.refetch n l).chan (chanOf l.line)).reads = [{ line := l.line, tenant := l.tenant }] := by
  have hspa := lineOf_lineSpa (n := n) hline
  have hmiss := Die.miss_first (d := d.lostLine l.line) (spa := lineSpa n l.line) (fn := l.tenant) hmisses hways
    (by rw [hspa]; exact hreads) false false l.keep []
  rw [hspa] at hmiss
  rw [Die.refetch, hmiss]
  refine ⟨⟨_, rfl, rfl⟩, ?_⟩
  have hchan := SMap.get_set_same d.chans (chanOf l.line) ({ d.chan (chanOf l.line) with
    reads := (d.chan (chanOf l.line)).reads ++ [{ line := l.line, tenant := l.tenant }] }) {}
  refine (congrArg Channel.reads hchan :).trans ?_
  rw [hreads]
  rfl

/-! A slice that writes back. -/

/-- With no channel of the slice draining, the oldest entry with room is issued (R190). -/
theorem Die.writeback_issues {d : Die} {slice : Nat} {e : DcEvict} (weight : Nat → Nat)
    (hidle : ∀ j, j < 5 → (d.chan (5 * slice + j)).drain = false)
    (hnext : (d.evictsOf slice).find? (fun e => !e.issued && decide ((d.chan (chanOf e.line)).writes.length < 64)) = some e) :
    d.writeback weight slice =
      { d.updChan (chanOf e.line) (fun c => c.pushWrite { line := e.line, tenant := e.tenant, back := true }) with
        evicts := updFirst (fun x => x == e) (fun x => { x with issued := true }) d.evicts } := by
  have hdrains : ((List.range 5).map (fun i => 5 * slice + i)).filter (fun c => (d.chan c).drain) = [] := by
    refine List.filter_eq_nil_iff.mpr fun c hc => ?_
    obtain ⟨j, hj, rfl⟩ := List.mem_map.mp hc
    rw [hidle j (List.mem_range.mp hj)]
    decide
  unfold Die.writeback Die.issueEvict
  simp only [hdrains, hnext, List.findSome?_nil, Option.getD_none, Option.map_some, Option.getD_some]

/-- The one draining channel of a slice serves its next write (R183). -/
theorem Die.writeback_serves {d : Die} {slice j : Nat} {weight : Nat → Nat} {p : ChanReq × SMap Nat} (hj : j < 5)
    (hdrain : ∀ k, k < 5 → ((d.chan (5 * slice + k)).drain = true ↔ k = j))
    (hnext : (d.chan (5 * slice + j)).nextWrite weight = some p) :
    d.writeback weight slice = d.writeServed (5 * slice + j) p := by
  have hpick : ∀ j, j < 5 → (List.range 5).filter (fun k => k == j) = [j] := by decide
  have hdrains : ((List.range 5).map (fun i => 5 * slice + i)).filter (fun c => (d.chan c).drain) = [5 * slice + j] := by
    rw [List.filter_map, List.filter_congr (q := fun k => k == j), hpick j hj]
    · rfl
    · intro k hk
      rw [Bool.eq_iff_iff, beq_iff_eq]
      exact hdrain k (List.mem_range.mp hk)
  unfold Die.writeback
  simp only [hdrains, List.findSome?_cons, hnext, Option.map_some, Option.getD_some]

/-- A line written back leaves the eviction buffer and its channel, and is counted (R190). -/
theorem Die.writeServed_back {c : Nat} {p : ChanReq × SMap Nat} (hback : p.1.back = true) (d : Die) :
    (d.writeServed c p).evicts = delFirst (fun e => e.line == p.1.line && e.issued) d.evicts ∧
      ((d.writeServed c p).chan c).writes = delFirst (fun r => r == p.1) (d.chan c).writes ∧
      SMap.get (d.writeServed c p).ctrs 0x10 0 = min (SMap.get d.ctrs 0x10 0 + 1) (2 ^ 64 - 1) := by
  have hserved : d.writeServed c p = ({ d.updChan c (fun x => x.writeDone p) with
    evicts := delFirst (fun e => e.line == p.1.line && e.issued) d.evicts }).tally 0x10 := if_pos hback
  rw [hserved]
  refine ⟨rfl, ?_, SMap.get_set_same ..⟩
  exact (congrArg Channel.writes (SMap.get_set_same d.chans c ((d.chan c).writeDone p) {}) :)

end Sys2Proof.Machine

namespace Sys2Proof.Claims

open Sys2Proof.Machine

/-- Settles O30: an arriving line takes its free way by `State.lineArrives_miss`, and its check is read after that; a held line's
errors are the branches of `State.heldLineError`; a slice that writes back issues or serves by `Die.writeback_issues` and
`Die.writeback_serves`. -/
theorem dieCacheEventsComplete : Obligations.DieCacheEventsComplete := by
  unfold Obligations.DieCacheEventsComplete
  intro s die line slice i hline n d spa served
  refine ⟨fun m p w hserved hp hmiss hfetches habsent hway hfree => ?arrives, fun h hserved hheld => ?held,
    fun e hidle hnext => ?issues, fun j p hj hdrain hnext hback => ?serves, ?expires⟩
  case arrives =>
    let l : DcLine := { line := line.toNat, way := w, dirty := m.dirty, keep := m.keep, tenant := m.tenant }
    let t0 := s.updCache spa p.1.tenant (fun _ => d.filled line.toNat p (setKey spa) l)
    obtain ⟨harrived, hpoison, hcores, hdie⟩ :=
      State.updCache_filled (s := s) die.isLt hline p (l := l) rfl p.1.tenant (setKey spa)
    have hcorr : (t0.die n).stkCorr = d.stkCorr := (congrArg Die.stkCorr hdie :)
    intro arrived
    refine ⟨fun hreaders => ?unread, fun e hreaders hsound => ?read⟩
    case unread =>
      have hexec := exec_dcLineFill_unread hline hserved hp hmiss hfetches habsent hway hfree hreaders
      refine ⟨⟨_, hexec .clean, State.fillEcc_arrived harrived _ _, hpoison, ?_⟩,
        ⟨_, hexec .corrected, State.fillEcc_arrived harrived _ _, hpoison, ?_⟩,
        fun hue => ⟨_, hexec .uncorrectable, State.fillEcc_arrived harrived _ _, ?_⟩⟩
      · exact hcorr
      · exact (congrArg Die.stkCorr (t0.die_updDie_same n Die.stkCorrected) :).trans
          (congrArg (fun c => min (c + 1) 65535) hcorr)
      · obtain ⟨hpart, hwhole, hrecorded⟩ :=
          State.fillEcc_uncorrectable ((congrArg Die.stkUe hdie :).trans hue) line.toNat m.whole
        exact ⟨hpart, fun hm => (hwhole hm).trans hpoison, hrecorded⟩
    case read =>
      have hquiet : t0.poison.contains (spa / 256) = false := hpoison ▸ hsound
      have hgo : s.lineArrives n line.toNat p .clean = t0.arrive e (.stack spa) := by
        rw [State.lineArrives_miss hline hmiss hfetches habsent hway hfree, hreaders]
        exact if_neg (Bool.eq_false_iff.mp hquiet)
      refine ⟨_, (exec_dcLineFill_served hserved hp _).trans (congrArg Host.Outcome.next hgo), ?_,
        t0.arrive_hasArrived e _, hcores⟩
      exact harrived.updDie _ fun _ => ⟨rfl, rfl, rfl⟩
  case held =>
    have hexec := exec_dcLineFill_held hserved hheld
    have hl : h.line = line.toNat := by simpa using List.find?_some hheld
    refine ⟨⟨s, hexec .clean, rfl⟩,
      ⟨s.updDie n (fun d => { d with dcCorr := satAdd 16 d.dcCorr 1 }), hexec .corrected, s.updDie_onlyDie ..,
        s.die_updDie_same ..⟩,
      fun hclean => ?_, fun hdirty => ?_⟩
    · have hgo : s.heldLineError n h .uncorrectable = s.updDie n (fun d => d.refetch n h) := if_neg (Bool.eq_false_iff.mp hclean)
      obtain ⟨hcount, hgone⟩ := d.refetch_drops n h
      have hasks := Die.refetch_asks (d := d) (n := n) (l := h) (by rw [hl]; exact hline)
      rw [hl] at hgone hasks
      refine ⟨_, (hexec .uncorrectable).trans (congrArg Host.Outcome.next hgo), s.updDie_onlyDie .., ?_⟩
      rw [State.die_updDie_same]
      exact ⟨hcount, hgone, hasks⟩
    · have hgo : s.heldLineError n h .uncorrectable =
          (s.updDie n (fun d => { d with dcPoison := satAdd 16 d.dcPoison 1 })).poisonLine (lineSpa n h.line) := if_pos hdirty
      rw [hl] at hgo
      refine ⟨_, (hexec .uncorrectable).trans (congrArg Host.Outcome.next hgo), fun _ => rfl, ?_, State.poisonLine_poison ..⟩
      exact s.die_updDie_same n (fun d => { d with dcPoison := satAdd 16 d.dcPoison 1 })
  case issues =>
    refine ⟨_, exec_evictionWriteback .., s.updDie_onlyDie .., ?_⟩
    rw [State.die_updDie_same, Die.writeback_issues s.farShare hidle hnext]
    exact ⟨rfl, (congrArg Channel.writes (SMap.get_set_same d.chans (chanOf e.line) _ {}) :)⟩
  case serves =>
    refine ⟨_, exec_evictionWriteback .., s.updDie_onlyDie .., ?_⟩
    rw [State.die_updDie_same, Die.writeback_serves hj hdrain hnext]
    exact Die.writeServed_back hback d
  case expires =>
    refine ⟨_, exec_ssdTrackerExpire .., s.updDie_onlyDie .., ?_⟩
    rw [State.die_updDie_same]
    exact SMap.find_del_same ..

end Sys2Proof.Claims
end

section
/-! SUPPORT. Level-1 tables and the level-2 pool (R207, R208, R272). -/

namespace Sys2Proof.Machine

theorem State.func_updFunc_ne (s : State) {n i : Nat} (f : Func → Func) (h : i ≠ n) : (s.updFunc n f).func i = s.func i := by
  rw [State.func_updFunc, if_neg h.symm]

section
variable {s : State} {fn k : Nat} {v : Word}

/-- The managing function gives a function without a table a new one: its entries are still to be cleared (R207). -/
theorem State.tbaseWrite_new (hmgmt : s.isMgmt fn = true) (hidle : s.funcBusy k = false) (hnone : (s.func k).tbValid = false)
    (hvalid : v.getLsbD 63 = true) (hvisible : fld v 21 18 / 16 % 512 < 384) (hfree : s.frameHeld (fld v 21 18 / 16) = false) :
    s.tbaseWrite fn k v = (s.dropTlb k).updFunc k (fun f => { f with tbValid := true, tbBase := fld v 21 18, tbInit := false }) := by
  simp only [State.tbaseWrite, hmgmt, hidle, hnone, hvalid, hfree, Nat.not_le.mpr hvisible, Bool.not_true,
    Bool.false_and, Bool.and_false, Bool.or_false, decide_false, Bool.false_eq_true, if_false]

theorem State.tbaseWrite_refused (hmgmt : s.isMgmt fn = false) : s.tbaseWrite fn k v = s := by
  simp [State.tbaseWrite, hmgmt]

/-- The managing function gives the level-2 pool its frames while no table is valid (R208). -/
theorem State.l2poolWrite_new (hmgmt : s.isMgmt fn = true) (hnone : ∀ p ∈ s.funcs, p.2.tbValid = false)
    (hcount : fld v 0 9 ≤ 32) (hend : fld v 25 14 % 512 + fld v 0 9 ≤ 384) (hvisible : fld v 25 14 % 512 < 384)
    (hfree : ∀ i, i < fld v 0 9 → s.frameHeld (fld v 25 14 + i) = false) :
    s.l2poolWrite fn v = { s with l2first := fld v 25 14, l2frames := fld v 0 9, l2used := [] } := by
  have hinvalid : s.funcs.any (fun p => p.2.tbValid) = false := by simpa using fun a b h => hnone (a, b) h
  have hheld : (List.range (fld v 0 9)).any (fun i => s.frameHeld (fld v 25 14 + i)) = false := by simpa using hfree
  simp [State.l2poolWrite, hmgmt, hinvalid, hheld, hcount, hend, hvisible]

theorem State.l2poolWrite_refused (hmgmt : s.isMgmt fn = false) : s.l2poolWrite fn v = s := by
  simp [State.l2poolWrite, hmgmt]

end

/-- Every level-1 entry of a new table is cleared (R207). -/
theorem exec_tableInitDone_new {s : State} {n : BitVec 6} (hvalid : (s.func n.toNat).tbValid = true)
    (hinit : (s.func n.toNat).tbInit = false) (hzeroed : SMap.find s.frames ((s.func n.toNat).tbBase / 16) ≠ some .zeroing) :
    exec (.tableInitDone n) s = .next ((s.zeroMem ((s.func n.toNat).tbBase * 2 ^ 21) (2 ^ 21)).updFunc n.toNat
      (fun f => { f with tbInit := true })) := by
  simp [-Nat.reducePow, execTableInitDone, hvalid, hinit, hzeroed]

end Sys2Proof.Machine

namespace Sys2Proof.Claims

open Sys2Proof.Machine

/-- Settles O35: the writes of the managing function are `State.tbaseWrite_new` and `State.l2poolWrite_new`, and a new table's
entries are cleared by `exec_tableInitDone_new`. -/
theorem pageTablesComplete : Obligations.PageTablesComplete := by
  unfold Obligations.PageTablesComplete
  intro s fn n v k f base first frames
  refine ⟨fun hmgmt hidle hnone hvalid hvisible hfree => ?table, fun hvalid hinit hzeroed hwf => ?cleared,
    fun hmgmt hnone hcount hend hvisible hfree => ?pool, fun hmgmt => ⟨?noTable, ?noPool⟩⟩
  case table =>
    refine ⟨_, (exec_mmuTbaseWrite ..).trans (congrArg Host.Outcome.next
      (State.tbaseWrite_new hmgmt hidle hnone hvalid hvisible hfree)), fun _ => rfl, State.func_updFunc_same .., fun j hj =>
        State.func_updFunc_ne _ _ hj⟩
  case cleared =>
    refine ⟨_, exec_tableInitDone_new hvalid hinit hzeroed, State.func_updFunc_same .., fun j hj => State.func_updFunc_ne _ _ hj,
      fun a => ?_⟩
    have hend : (f.tbBase + 1) * 2 ^ 21 = f.tbBase * 2 ^ 21 + 2 ^ 21 := Nat.succ_mul ..
    rw [hend]
    exact Memory.read_zero _ _ _ hwf
  case pool =>
    exact ⟨_, (exec_mmuL2poolWrite ..).trans (congrArg Host.Outcome.next
      (State.l2poolWrite_new hmgmt hnone hcount hend hvisible hfree)), rfl⟩
  case noTable => exact ⟨_, (exec_mmuTbaseWrite ..).trans (congrArg Host.Outcome.next (State.tbaseWrite_refused hmgmt)), rfl⟩
  case noPool => exact ⟨_, (exec_mmuL2poolWrite ..).trans (congrArg Host.Outcome.next (State.l2poolWrite_refused hmgmt)), rfl⟩

end Sys2Proof.Claims
end

section
/-! SUPPORT. Walks that fill the die TLB, context accesses that meet a page fault, and the records of page faults (R210, R211, R213
to R215). -/

namespace Sys2Proof.Machine

open Sys2Proof.Claims

theorem tlbFill_mem (cap seed : Nat) (l : List TlbEntry) (t : TlbEntry) : t ∈ tlbFill cap seed l t := by
  unfold tlbFill
  split
  · next h => exact List.contains_iff_mem.mp h
  · exact List.mem_cons_self

/-- A die TLB holds the translation that has just filled it (R211). -/
theorem State.fillDieTlb_mem (s : State) (die : Nat) (t : TlbEntry) : t ∈ ((s.fillDieTlb die t).die die).tlb := by
  have hdie : (s.fillDieTlb die t).die die = { s.die die with tlb := tlbFillSet s.free (s.die die).tlb t } :=
    s.die_updDie_same die (fun d => { d with tlb := tlbFillSet s.free d.tlb t })
  rw [hdie]
  exact List.mem_append_left _ (tlbFill_mem ..)

/-- A prefetch walk that finds a page which permits the access fills the die TLB (R211, R212). -/
theorem State.walkDone_prefetch {s : State} {fn : Nat} {va e : Word} {a : Access} {big : Bool} (hva : va.toNat < 2 ^ 48)
    (hwalk : s.walk fn va.toNat = .entry big e) (hallowed : pteDenies e a = none) (die : Nat) :
    s.walkDone die fn va a none = (s.walkTouch fn va.toNat).fillDieTlb die
      { fn := fn, page := va.toNat / pageBytes big, big := big, entry := e } := by
  have hgood : vaBad va = false := by simpa [vaBad] using hva
  simp [State.walkDone, hgood, hwalk, hallowed]

/-- The record of a page fault of a context's access (R213, R214). -/
def State.pageFault (s : State) (c : CtxRef) (engine cause va : Nat) (wr : Bool) : PageFault :=
  { fn := s.tenantOf c.key, page := va / 2 ^ 25, va := va, cause := cause
    source := s.sourceOf c.die.toNat c.core.toNat c.idx engine 0 wr
    queue := (s.ctxOf c).jobNums.1, seq := (s.ctxOf c).jobNums.2, count := 0, tag := none, engines := [(.ctx c, va)] }

theorem State.updDie_congr {s : State} {d : Nat} {f g : Die → Die} (h : f (s.die d) = g (s.die d)) :
    s.updDie d f = s.updDie d g := by
  rw [State.updDie, h]
  rfl

/-- The first page fault of a die without trace rings stalls the context, with its record outstanding (R213). -/
theorem State.stallPage_first {s : State} {c : CtxRef} (hon : (s.func (s.tenantOf c.key)).fqEn = true)
    (hfaults : (s.die c.die.toNat).faults = []) (htraces : (s.die c.die.toNat).traces = []) (engine cause va : Nat) (wr : Bool) :
    s.stallPage c engine cause va wr = (s.updCtxOf c (fun x => { x with mode := .stalled })).updDie c.die.toNat
      (fun d => { d with faults := [s.pageFault c engine cause va wr] }) := by
  have hjoin (p : PageFault) : (s.die c.die.toNat).joinFault p (.ctx c) =
      { s.die c.die.toNat with faults := [{ p with engines := [(.ctx c, p.va)] }] } := by
    simp [Die.joinFault, hfaults]
  have hdie (f : Die → Die) : ((s.updCtxOf c (fun x => { x with mode := .stalled })).updDie c.die.toNat f).die c.die.toNat =
    f (s.die c.die.toNat) := State.die_updDie_same ..
  unfold State.stallPage
  simp only [hon, Bool.not_true, Bool.false_eq_true, if_false]
  rw [State.trace_of_no_rings]
  · refine State.updDie_congr ?_
    exact hjoin _
  · rw [hdie, hjoin]
    exact htraces

/-- What a stall by the first page fault of a die leaves. -/
theorem State.stallPage_stalls {s : State} {c : CtxRef} (hon : (s.func (s.tenantOf c.key)).fqEn = true)
    (hfaults : (s.die c.die.toNat).faults = []) (htraces : (s.die c.die.toNat).traces = []) (engine cause va : Nat) (wr : Bool) :
    let t := s.stallPage c engine cause va wr
    SameMem s t ∧ t.ctxOf c = { s.ctxOf c with mode := .stalled } ∧ (∀ k, k ≠ c.key → t.core k = s.core k) ∧
      (t.die c.die.toNat).faults = [s.pageFault c engine cause va wr] := by
  dsimp only
  rw [State.stallPage_first hon hfaults htraces]
  obtain ⟨-, hmem, hcores, -, -⟩ := s.updCtxOf_onlyCtx c (fun x => { x with mode := .stalled })
  refine ⟨hmem, s.ctxOf_updCtxOf c _, hcores, ?_⟩
  rw [State.die_updDie_same]

/-- A walk for an access of a running context ends the access (R210). -/
theorem exec_walkComplete_context {s : State} {c : CtxRef} {fn : BitVec 6} {va : Word} (hcore : c.core.toNat < 20)
    (htenant : s.tenantOf c.key = fn.toNat) (hmode : (s.ctxOf c).mode = .running) (hva : va.toNat < 2 ^ 48) (a : Access) :
    exec (.walkComplete c.die fn va a (some c)) s = .next (State.accEnd c (if a = .fetch then 1 else 0)
      (s.locate (s.ctxAgent c) va.toNat a) (fun _ s => s)) := by
  have hgood : vaBad va = false := by simpa [vaBad] using hva
  refine (exec_walkComplete ..).trans ((onCtx_next _ hcore).trans (congrArg Host.Outcome.next ?_))
  simp [State.walkDone, htenant, hmode, hgood]

/-- The state after a walk that needed no table line: its slot is free, and the walk is counted (R210). -/
def State.walkEnded (s : State) (ag : Agent) : State :=
  (s.updDie ag.die (fun d => { d with walks := d.walks.filter (fun e => e != ag.engine) })).countDie ag.die 0x28 1

theorem State.walkEnded_die (s : State) (ag : Agent) : ((s.walkEnded ag).die ag.die).faults = (s.die ag.die).faults ∧
    ((s.walkEnded ag).die ag.die).traces = (s.die ag.die).traces := by
  rw [State.walkEnded, State.countDie, State.die_updDie_same, State.die_updDie_same]
  exact ⟨rfl, rfl⟩

/-- Without a valid table and a TLB entry an access finds no page (R207, R210). -/
theorem State.locate_noTable {s : State} {ag : Agent} {va : Nat} (hvalid : (s.func ag.fn).tbValid = false)
    (hmiss : ∀ e ∈ s.coreTlb ag ++ (s.die ag.die).tlb, e.covers ag.fn va = false) (hslot : (s.die ag.die).walks.length < 32)
    (a : Access) : s.locate ag va a = .page 0 va (a == .write) (s.walkEnded ag) := by
  have hcore : (s.coreTlb ag).find? (fun t => t.covers ag.fn va) = none :=
    List.find?_eq_none.mpr fun e he => by simp [hmiss e (List.mem_append_left _ he)]
  have hdie : (s.die ag.die).tlb.find? (fun t => t.covers ag.fn va) = none :=
    List.find?_eq_none.mpr fun e he => by simp [hmiss e (List.mem_append_right _ he)]
  have hfree : ¬ 32 ≤ (s.die ag.die).walks.length := Nat.not_le.mpr hslot
  have hreads : s.walkReads ag va (a == .write) = .page 0 va (a == .write) s := by simp [State.walkReads, hvalid]
  have hwalk : s.walkFor ag va (a == .write) = .page 0 va (a == .write) (s.walkEnded ag) := by
    simp only [State.walkFor, hfree, hreads, decide_false, Bool.and_false, Bool.false_eq_true, if_false]
    rfl
  simp only [State.locate, hcore, hdie, hwalk]
  rfl

theorem recordBytes_length (addr tag type cause source queue seq count : Nat) :
    (recordBytes addr tag type cause source queue seq count).length = 31 := by
  simp [recordBytes, leBytes_length]

theorem State.raiseVec_host (s : State) (n v : Nat) : (s.raiseVec n v).host = s.host := by
  unfold State.raiseVec
  split <;> rfl

/-- A record lies at TAIL of the function's ring with its phase (R213, R215). -/
theorem State.putRecord_known (s : State) (n : Nat) {bs : List Byte} (hlen : bs.length = 31) :
    knownBytes (s.putRecord n bs).host (hostKey (s.funcLink n) ((s.func n).fqBase.toNat * 4096 + 32 * (s.func n).fqTail)) 32 =
      some (bs ++ [phaseByte (s.func n).fqPhase]) := by
  have htake : bs.take 31 = bs := List.take_of_length_le hlen.le
  have hlen' : (bs ++ [phaseByte (s.func n).fqPhase]).length = 32 := by simp [hlen]
  have hknown := knownBytes_putBytes s.host (hostKey (s.funcLink n) ((s.func n).fqBase.toNat * 4096 + 32 * (s.func n).fqTail))
    (bs ++ [phaseByte (s.func n).fqPhase])
  rw [hlen'] at hknown
  unfold State.putRecord
  extract_lets f addr s1
  rw [State.raiseVec_host]
  simp only [s1, htake]
  exact hknown

/-- TAIL moves past a record (R215). -/
theorem State.putRecord_tail (s : State) (n : Nat) (bs : List Byte) :
    ((s.putRecord n bs).func n).fqTail = ((s.func n).fqTail + 1) % (s.func n).fqEntries := by
  unfold State.putRecord
  extract_lets f addr s1
  obtain ⟨l, hl⟩ := (s1.updFunc n Func.fqAdvance).raiseVec_func n f.fqVec
  rw [hl, State.func_updFunc_same]
  rfl

/-- The record of a page fault that waits to be written. -/
def PageFault.waits (n page : Nat) (f : PageFault) : Bool := f.fn == n && f.page == page && f.tag.isNone

/-- The state in which the record of a page fault has its tag (R214). -/
def State.tagFault (s : State) (die n page : Nat) : State :=
  (s.updDie die (fun d => { d with
    faults := updFirst (PageFault.waits n page) (fun f => { f with tag := some (s.freshTag n) }) d.faults })).updFunc n
      (fun x => { x with nextTag := (s.freshTag n + 1) % 65536 })

theorem State.tagFault_func (s : State) (die n page : Nat) :
    (s.tagFault die n page).func n = { s.func n with nextTag := (s.freshTag n + 1) % 65536 } := State.func_updFunc_same ..

theorem State.tagFault_faults (s : State) (die n page : Nat) : ((s.tagFault die n page).die die).faults =
    updFirst (PageFault.waits n page) (fun f => { f with tag := some (s.freshTag n) }) (s.die die).faults := by
  have hdies : (s.tagFault die n page).die die = (s.updDie die (fun d => { d with
    faults := updFirst (PageFault.waits n page) (fun f => { f with tag := some (s.freshTag n) }) d.faults })).die die := rfl
  rw [hdies, State.die_updDie_same]

/-- The record of a page fault is written while the ring is on and has room (R213, R215). -/
theorem exec_faultRecordWrite_writes {s : State} {die : BitVec 5} {fn : BitVec 6} {page : BitVec 23} {f : PageFault}
    (hon : (s.func fn.toNat).fqEn = true) (hroom : (s.func fn.toNat).fqFull = false)
    (hfind : (s.die die.toNat).faults.find? (PageFault.waits fn.toNat page.toNat) = some f) :
    exec (.faultRecordWrite die fn page) s = .next ((s.tagFault die.toNat fn.toNat page.toNat).putRecord fn.toNat
      (recordBytes f.va (s.freshTag fn.toNat) 0 f.cause f.source f.queue f.seq f.count)) := by
  have hfound : (s.die die.toNat).faults.find?
      (fun f => f.fn == fn.toNat && f.page == page.toNat && f.tag.isNone) = some f := hfind
  simp only [exec_faultRecordWrite, execFaultRecordWrite, hfound, hon, hroom, Bool.not_true, Bool.or_false,
    Bool.false_eq_true, if_false]
  rfl

end Sys2Proof.Machine

namespace Sys2Proof.Claims

open Sys2Proof.Machine

/-- Settles O33: a prefetch walk is `State.walkDone_prefetch`; the access of a context ends in `State.stallPage_stalls`, without a
valid table by `State.locate_noTable`; the record is that of `exec_faultRecordWrite_writes`. -/
theorem pageFaultsAreRecorded : Obligations.PageFaultsAreRecorded := by
  unfold Obligations.PageFaultsAreRecorded
  intro s die fn va a n d fu addr
  refine ⟨fun big e hva hwalk hallowed => ?fills, fun c hcore hdie htenant hmode hva hon => ?stalls,
    fun page f hon hroom hfind => ?recorded⟩
  case fills =>
    refine ⟨_, (exec_walkComplete ..).trans (congrArg Host.Outcome.next (State.walkDone_prefetch hva hwalk hallowed die.toNat)),
      fun b => ?_, ?_, State.fillDieTlb_mem _ _ _⟩
    · exact congrArg (Memory.read · b) (s.walkTouch_looked n va.toNat).mem
    · exact (s.walkTouch_quiet n va.toNat).cores
  case stalls =>
    subst hdie
    intro stalled
    have hexec := exec_walkComplete_context hcore htenant hmode hva a
    have hpage : ∀ cause wr u, s.locate (s.ctxAgent c) va.toNat a = .page cause va.toNat wr u → (u.func n).fqEn = true →
        u.tenantOf c.key = n → (u.die c.die.toNat).faults = [] → (u.die c.die.toNat).traces = [] →
        Runs (.walkComplete c.die fn va a (some c)) s (fun t => stalled u t cause wr) := by
      intro cause wr u hlocate hon hu hfaults htraces
      rw [hlocate] at hexec
      obtain ⟨hmem, hctx, hcores, hfault⟩ := State.stallPage_stalls (hu.symm ▸ hon) hfaults htraces
        (if a = .fetch then 1 else 0) cause va.toNat wr
      exact ⟨_, hexec, hmem, hctx, hcores, _, hfault, hu, rfl, rfl, rfl, rfl, rfl, rfl⟩
    refine ⟨hpage, fun hvalid hmiss hslot hfaults htraces => ?_⟩
    have hfn : (s.ctxAgent c).fn = n := htenant
    obtain ⟨hsameFaults, hsameTraces⟩ := s.walkEnded_die (s.ctxAgent c)
    have hlocate := State.locate_noTable (ag := s.ctxAgent c) (by rw [hfn]; exact hvalid) (by rw [hfn]; exact hmiss) hslot a
    obtain ⟨t, hnext, hstalled⟩ := hpage 0 (a == .write) (s.walkEnded (s.ctxAgent c)) hlocate hon htenant
      (hsameFaults.trans hfaults) (hsameTraces.trans htraces)
    exact ⟨t, hnext, hstalled⟩
  case recorded =>
    have hrest := (s.tagFault die.toNat n page.toNat).putRecord_sansHost n
      (recordBytes f.va (s.freshTag n) 0 f.cause f.source f.queue f.seq f.count)
    have hfunc := s.tagFault_func die.toNat n page.toNat
    have htail := (s.tagFault die.toNat n page.toNat).putRecord_tail n
      (recordBytes f.va (s.freshTag n) 0 f.cause f.source f.queue f.seq f.count)
    have hknown := (s.tagFault die.toNat n page.toNat).putRecord_known n
      (recordBytes_length f.va (s.freshTag n) 0 f.cause f.source f.queue f.seq f.count)
    rw [hfunc] at htail hknown
    refine ⟨_, exec_faultRecordWrite_writes hon hroom hfind, fun b => ?_, (congrArg State.cores hrest :), htail, hknown, ?_⟩
    · exact congrArg (Memory.read · b) (congrArg State.mem hrest :)
    · exact (congrArg (fun t : State => (t.die die.toNat).faults) hrest :).trans
        (s.tagFault_faults die.toNat n page.toNat)

end Sys2Proof.Claims
end

section
/-! SUPPORT. Answers to fault records (R216): the record of one stalled context is no longer outstanding, and the context goes on or
takes its access-fault trap. -/

namespace Sys2Proof.Machine

open Sys2Proof.Claims

/-- The state in which the record of a tag is no longer outstanding. -/
def State.dropFault (s : State) (die n tag : Nat) : State :=
  s.updDie die (fun d => { d with faults := delFirst (fun x => x.fn == n && x.tag == some tag) d.faults })

theorem State.dropFault_faults (s : State) (die n tag : Nat) : ((s.dropFault die n tag).die die).faults =
    delFirst (fun x => x.fn == n && x.tag == some tag) (s.die die).faults := by
  rw [State.dropFault, State.die_updDie_same]

/-- A stalled context of a die without trace rings goes on (R216). -/
theorem State.engineResumes_stalled {s : State} {c : CtxRef} (hmode : (s.ctxOf c).mode = .stalled)
    (htraces : (s.die c.die.toNat).traces = []) (f : PageFault) (va : Nat) :
    s.engineResumes f (.ctx c) va = s.updCtxOf c (fun x => { x with mode := .running }) := by
  have hstalled : ((s.ctxOf c).mode != .stalled) = false := by rw [hmode]; rfl
  simp only [State.engineResumes, hstalled, Bool.false_eq_true, if_false]
  exact State.trace_of_no_rings (s := s.updCtxOf c _) htraces ..

/-- The record of a tag that one stalled context waits for, on a die without trace rings. -/
structure Asked (s : State) (n tag die : Nat) (f : PageFault) (c : CtxRef) (va : Nat) : Prop where
  found : s.faultAt n tag = some (die, f)
  engines : f.engines = [(.ctx c, va)]
  mode : (s.ctxOf c).mode = .stalled
  traces : (s.die c.die.toNat).traces = []

section
variable {s : State} {n tag die va : Nat} {f : PageFault} {c : CtxRef} (h : Asked s n tag die f c va)
include h

theorem Asked.dropFault_traces : ((s.dropFault die n tag).die c.die.toNat).traces = [] := by
  refine (congrArg Die.traces (State.die_updDie ..)).trans ?_
  split
  · next heq => rw [heq]; exact h.traces
  · exact h.traces

/-- The context of the answered record goes on. -/
theorem Asked.resumes : (s.dropFault die n tag).engineResumes f (.ctx c) va =
    (s.dropFault die n tag).updCtxOf c (fun x => { x with mode := .running }) :=
  State.engineResumes_stalled (s := s.dropFault die n tag) h.mode h.dropFault_traces f va

theorem Asked.retried : s.answerFault n tag true = (s.dropFault die n tag).updCtxOf c (fun x => { x with mode := .running }) := by
  simp only [State.answerFault, h.found, h.engines, List.foldl_cons, List.foldl_nil, if_true]
  exact h.resumes

theorem Asked.declined (hvq : (s.ctxOf c).vq = []) : s.answerFault n tag false =
    ((s.dropFault die n tag).updCtxOf c (fun x => { x with mode := .running })).takeTrap c 5 (BitVec.ofNat 64 va) := by
  have hnone (t : State) (ht : (t.ctxOf c).vq = []) : t.commitAll c = t := by rw [State.commitAll, ht]; rfl
  simp only [State.answerFault, h.found, h.engines, List.foldl_cons, List.foldl_nil, Bool.false_eq_true, if_false]
  rw [← State.dropFault, h.resumes, State.engineDeclined, hnone]
  rw [State.ctxOf_updCtxOf]
  exact hvq

end

theorem State.forgetReads_faults (s : State) (gone : Engine → Bool) (d : Nat) :
    ((s.forgetReads gone).die d).faults = (s.die d).faults := by
  rw [State.die, SMap.get, State.forgetReads, SMap.find_mapVals, State.die, SMap.get]
  cases SMap.find s.dies d <;> rfl

/-- What a trap leaves of the outstanding records of a die. -/
theorem State.takeTrap_faults {s : State} {c : CtxRef} (h : CanTrap s c) (htraces : (s.die c.die.toNat).traces = []) (cause : Nat)
    (arg : Word) (d : Nat) : ((s.takeTrap c cause arg).die d).faults = (s.die d).faults := by
  obtain ⟨hvq, hhen, hinh⟩ := h
  have htaken : ((s.ctxOf c).inh || !(s.ctxOf c).hen) = false := by rw [hinh, hhen]; rfl
  simp only [State.takeTrap, hvq, htaken, List.isEmpty_nil, Bool.not_true, Bool.false_eq_true, if_false]
  rw [State.trace_of_no_rings]
  · exact State.forgetReads_faults ..
  · rw [State.forgetReads_traces]
    exact htraces

section
variable {s : State} {n tag die va : Nat} {f : PageFault} {c : CtxRef} (h : Asked s n tag die f c va)
include h

/-- A declined record is no longer outstanding, and its context enters its handler for the access fault (R216). -/
theorem Asked.declined_traps (htrap : CanTrap s c) :
    ((s.answerFault n tag false).die die).faults = delFirst (fun y => y.fn == n && y.tag == some tag) (s.die die).faults ∧
      EntersHandler s (s.answerFault n tag false) c 5 (BitVec.ofNat 64 va) := by
  obtain ⟨hvq, hhen, hinh⟩ := htrap
  rw [h.declined hvq]
  generalize hu : (s.dropFault die n tag).updCtxOf c (fun x => { x with mode := .running }) = u
  have hctx : u.ctxOf c = { s.ctxOf c with mode := .running } := hu ▸ State.ctxOf_updCtxOf ..
  have hothers (k j : Nat) (hkj : k ≠ c.key ∨ j ≠ c.idx) : u.ctx k j = s.ctx k j :=
    hu ▸ (s.dropFault die n tag).ctx_updCtxOf_ne c _ hkj
  have hdie : ∀ d, u.die d = (s.dropFault die n tag).die d := fun d => hu ▸ rfl
  have hcan : CanTrap u c := by rw [CanTrap, hctx]; exact ⟨hvq, hhen, hinh⟩
  have htraces : (u.die c.die.toNat).traces = [] := (congrArg Die.traces (hdie _)).trans (h.dropFault_traces)
  obtain ⟨hentered, hrest, hcmds, hmem⟩ := State.takeTrap_enters hcan 5 (BitVec.ofNat 64 va)
  refine ⟨?_, ?_, fun k j hkj => (hrest k j hkj).trans (hothers k j hkj), hcmds.trans (hu ▸ rfl), fun _ a => ?_⟩
  · rw [State.takeTrap_faults hcan htraces, hdie, State.dropFault_faults]
  · rw [hentered, hctx]
  · rw [hmem htraces a, ← hu]
    rfl

end

end Sys2Proof.Machine

namespace Sys2Proof.Claims

open Sys2Proof.Machine

/-- Settles O34: RETRY is `Asked.retried`, DECLINE and the time-out are `Asked.declined_traps`. -/
theorem faultAnswersComplete : Obligations.FaultAnswersComplete := by
  unfold Obligations.FaultAnswersComplete
  intro s fn n tag die f c va x gone asked
  have hasked (h : asked) : Asked s n.toNat tag.toNat die f c va := by
    obtain ⟨hfound, hengines, hmode, htraces⟩ := h
    exact ⟨hfound, hengines, hmode, htraces⟩
  have hallowed (h : fn = n ∨ s.isMgmt fn.toNat = true) (t : State) : (if fn = n || s.isMgmt fn.toNat then t else s) = t :=
    if_pos (by simpa using h)
  refine ⟨fun h hby => ?retry, fun h htrap hby => ?decline, fun h htrap htmo => ?timeout, fun head => ?head⟩
  case retry =>
    exact ⟨_, (exec_faultRetry ..).trans (congrArg Host.Outcome.next ((hallowed hby _).trans (hasked h).retried)),
      s.dropFault_faults die n.toNat tag.toNat, fun _ => rfl, State.ctxOf_updCtxOf ..,
      fun k j hkj => State.ctx_updCtxOf_ne _ _ _ hkj⟩
  case decline =>
    exact ⟨_, (exec_faultDecline ..).trans (congrArg Host.Outcome.next (hallowed hby _)), (hasked h).declined_traps htrap⟩
  case timeout =>
    exact ⟨_, (exec_faultAnswerTimeout ..).trans (congrArg Host.Outcome.next (if_neg htmo)), (hasked h).declined_traps htrap⟩
  case head =>
    refine ⟨_, (exec_faultQueueHeadWrite ..).trans (congrArg Host.Outcome.next (if_pos rfl)), ?_, rfl, fun k hk => ?_⟩
    · rw [State.func_updFunc_same]
    · exact State.func_updFunc_ne _ _ hk

end Sys2Proof.Claims
end

section
/-! SUPPORT. HINT_MIGRATE (R209, R219): what a read of host memory leaves of memory and of the commands, the copy of one line, and
the entry of the moved page. -/

namespace Sys2Proof.Machine

open Sys2Proof.Claims

/-- Stack memory and the commands in flight. -/
def State.store (s : State) : Memory × List Cmd := (s.mem, s.cmds)

theorem acc_bind_view {α β γ : Type} {view : State → γ} {s : State} {x : Acc α} {f : α → State → Acc β}
    (hx : view x.left = view s) (hf : ∀ a t, view (f a t).left = view t) : view (x.bind f).left = view s := by
  cases x with
  | ok a t => exact (hf a t).trans hx
  | wait t => exact hx
  | trap c a t => exact hx
  | page c v w t => exact hx
  | poison a t => exact hx
  | lost r t => exact hx

theorem accCollect_view {β γ δ : Type} {view : State → δ} {f : β → State → Acc (List γ)}
    (hf : ∀ x t, view (f x t).left = view t) (l : List β) (s : State) : view (accCollect f l s).left = view s := by
  induction l generalizing s with
  | nil => rfl
  | cons x l ih => exact acc_bind_view (hf x s) fun _ t => acc_bind_view (ih t) fun _ _ => rfl

theorem State.countHostLine_store (s : State) (ag : Agent) (wr : Bool) (va : Nat) : (s.countHostLine ag wr va).store = s.store := by
  have hrecord (t : State) (n : Nat) (bs : List Byte) : (t.record n bs).store = t.store :=
    (congrArg State.store (t.record_sansHost n bs) :)
  unfold State.countHostLine
  dsimp only
  split
  · exact hrecord ..
  · rfl

/-- A read of host memory leaves stack memory and the commands alone (R265). -/
theorem State.readLoc_host_store (s : State) (ag : Agent) (va link a n : Nat) :
    (s.readLoc ag va (.host link a) n).left.store = s.store := by
  refine accCollect_view (view := State.store) (fun p t => ?_) _ s
  unfold State.readHostPiece
  dsimp only
  split
  · unfold State.askHost
    dsimp only [Acc.left]
    split <;> rfl
  · split
    · rfl
    · exact t.countHostLine_store ag false _

/-- A part of the state that every step of a chain of changes leaves alone, where each may have to wait. -/
theorem foldl_bind_view {α β : Type} {view : State → β} {f : State → α → Option State}
    (hf : ∀ t x u, f t x = some u → view u = view t) (l : List α) {s t : State}
    (h : l.foldl (fun o x => o.bind (fun t => f t x)) (some s) = some t) : view t = view s := by
  suffices hall : ∀ o, (∀ u, o = some u → view u = view s) → l.foldl (fun o x => o.bind (fun t => f t x)) o = some t →
      view t = view s from hall (some s) (fun u hu => Option.some.inj hu ▸ rfl) h
  clear h
  induction l with
  | nil => exact fun o ho h => ho t h
  | cons x l ih =>
    refine fun o ho h => ih _ (fun u hu => ?_) h
    obtain ⟨v, hv, hu⟩ := Option.bind_eq_some_iff.mp hu
    exact (hf v x u hu).trans (ho v hv)

/-- A write at the die caches leaves stack memory and the commands alone (R189). -/
theorem State.stackWrite_store {s t : State} {a n fn hint : Nat} (h : s.stackWrite a n fn hint = some t) : t.store = s.store := by
  refine foldl_bind_view (view := State.store) (fun s p t ht => ?_) (pieces a n) h
  obtain ⟨d, -, rfl⟩ := Option.map_eq_some_iff.mp ht
  have hcached := s.updCache_looked p.1 fn (fun _ => d)
  unfold State.wroteLine
  split <;> exact congrArg₂ Prod.mk hcached.mem hcached.cmds

/-- An entry of a page for a die engine is read through caches and TLBs (R210). -/
theorem State.dieEntry_looked (s : State) (ag : Agent) (va : Nat) : Looked s (s.dieEntry ag va).left := by
  unfold State.dieEntry
  split
  · exact .refl s
  · exact sameBut_bind (s.walkFor_looked _ _ _) fun p t => t.fillDieTlb_looked _ _

theorem pteLoc_host {e : Word} (h : pteKind e = 1) (big : Bool) (va link : Nat) : ∃ a, pteLoc e big va link = .host link a := by
  rw [pteLoc, h]
  exact ⟨_, rfl⟩

/-- The first byte of the page that a HINT_MIGRATE moves. -/
def Cmd.movedPage (m : Cmd) (big : Bool) : Nat := m.param 0 / pageBytes big * pageBytes big

/-- The new entry of a moved page. -/
def movedEntry (dst : Nat) (e : Word) : Nat := dst + e.toNat % 2 ^ 25 / 256 * 256 + e.toNat % 64

/-- A HINT_MIGRATE has its page's entry at hand, and the frames that it names can take the page (R206, R219). -/
structure Migrates (s u : State) (r : CmdRef) (m : Cmd) (big : Bool) (e : Word) : Prop where
  va : m.param 0 < 2 ^ 48
  entry : s.dieEntry (s.migrateAgent r m) (m.param 0) = .ok (big, e) u
  kind : pteKind e = 1
  aligned : m.param 1 % pageBytes big = 0
  target : m.param 1 < 2 ^ 39
  ok : u.entryOk m.tenant (movedEntry (m.param 1) e) big = true
  unmapped : (leafFrames big (movedEntry (m.param 1) e)).any u.frameMapped = false

/-- An entry that passes the checks of R206 fits its place. -/
theorem State.entryOk_lt {s : State} {fn e : Nat} {big : Bool} (hodd : e % 2 = 1) (h : s.entryOk fn e big = true) : e < 2 ^ 64 := by
  simp only [State.entryOk, hodd, Nat.one_ne_zero, if_false, Bool.and_eq_true, decide_eq_true_eq] at h
  exact h.1.1.1.1.1.1.1

/-- A page's entry holds the present entry that is written, and no other byte changes (R205). -/
theorem State.writeEntry_present {s : State} {fn va a e : Nat} {big : Bool} (ha : s.entryAddr fn va big = some a)
    (hwf : Memory.wf s.mem = true) (hodd : e % 2 = 1) (hsmall : e < 2 ^ 64) :
    Memory.readLe (s.writeEntry fn va big e).mem a 8 = e ∧
      ∀ b, b < a ∨ a + 8 ≤ b → Memory.read (s.writeEntry fn va big e).mem b = Memory.read s.mem b := by
  have hmem := (State.writeEntry_mem ha hwf e).resolve_right fun h => by omega
  rw [hmem, Memory.readLe_writeLe a 8 e hwf]
  exact ⟨Nat.mod_eq_of_lt hsmall, fun b hb => Memory.read_writeLe8_ne hwf hb⟩

section
variable {s u : State} {r : CmdRef} {m : Cmd} {big : Bool} {e : Word} (h : Migrates s u r m big e)
include h

theorem Migrates.looked : Looked s u := by
  have hlooked := s.dieEntry_looked (s.migrateAgent r m) (m.param 0)
  rwa [h.entry] at hlooked

/-- The checks of R219 let the copy go on. -/
theorem Migrates.passes : (pteKind e != 1 || m.param 1 % pageBytes big != 0 || decide (2 ^ 39 ≤ m.param 1) ||
    !(u.entryOk m.tenant (movedEntry (m.param 1) e) big) ||
    (leafFrames big (movedEntry (m.param 1) e)).any u.frameMapped) = false := by
  simp only [h.kind, h.aligned, h.ok, h.unmapped, Nat.not_le.mpr h.target]
  rfl

/-- A line of the page that can be read and written is copied (R219). -/
theorem Migrates.copies {s1 s2 : State} {bs : List Byte} (hleft : m.moved * 256 < pageBytes big)
    (hread : u.readLoc (s.migrateAgent r m) (m.movedPage big + m.moved * 256)
      ((pteLoc e big (m.movedPage big) (u.funcLink m.tenant)).add (m.moved * 256)) 256 = .ok bs s1)
    (hwrite : s1.stackWrite (m.param 1 + m.moved * 256) bs.length m.tenant 0 = some s2) :
    s.migrate r m = ((s2.putMem (m.param 1 + m.moved * 256) bs).accessDone (.feed (.cmd r)) (some r)).updCmd r
      (fun c => { c with moved := c.moved + 1 }) := by
  have hpasses := h.passes
  have hwritten : s1.writeLoc (s.migrateAgent r m) 0 (.stack (m.param 1 + m.moved * 256)) bs =
      .ok () (s2.putMem (m.param 1 + m.moved * 256) bs) := by
    have hstack : s1.stackWrite (m.param 1 + m.moved * 256) bs.length (s.migrateAgent r m).fn (s.migrateAgent r m).hint =
      some s2 := hwrite
    simp only [State.writeLoc, hstack]
  unfold movedEntry at hpasses
  unfold Cmd.movedPage at hread
  simp only [State.migrate, Nat.not_le.mpr h.va, h.entry, State.migrateAcc, hpasses, hleft, hread, Acc.bind, hwritten,
    Bool.false_eq_true, if_true, if_false]
  rfl

/-- The read and the write of a line leave stack memory and the commands for the bytes to be put there. -/
theorem Migrates.copied_store {s1 s2 : State} {bs : List Byte} {a n : Nat}
    (hread : u.readLoc (s.migrateAgent r m) (m.movedPage big + m.moved * 256)
      ((pteLoc e big (m.movedPage big) (u.funcLink m.tenant)).add (m.moved * 256)) 256 = .ok bs s1)
    (hwrite : s1.stackWrite a n m.tenant 0 = some s2) : s2.store = s.store := by
  obtain ⟨b, hloc⟩ := pteLoc_host h.kind big (m.movedPage big) (u.funcLink m.tenant)
  have hs1 := u.readLoc_host_store (s.migrateAgent r m) (m.movedPage big + m.moved * 256)
    (u.funcLink m.tenant) (b + m.moved * 256) 256
  rw [hloc, Loc.add] at hread
  rw [hread] at hs1
  exact (State.stackWrite_store hwrite).trans (hs1.trans (congrArg₂ Prod.mk h.looked.mem h.looked.cmds))

/-- After the last line the page's entry names the new frames (R209, R219). -/
theorem Migrates.replaces (hdone : pageBytes big ≤ m.moved * 256)
    (hsettled : u.settleRange m.tenant (m.movedPage big) (pageBytes big) = some u) :
    s.migrate r m = ((u.writeEntry m.tenant (m.movedPage big) big (movedEntry (m.param 1) e)).dropRange m.tenant
      (m.movedPage big) (pageBytes big)).complete r 0 0 0 := by
  have hpasses := h.passes
  unfold movedEntry at hpasses
  unfold Cmd.movedPage at hsettled
  simp only [State.migrate, Nat.not_le.mpr h.va, h.entry, State.migrateAcc, hpasses, Nat.not_lt.mpr hdone, hsettled,
    Bool.false_eq_true, if_false]
  rfl

/-- The new entry of a page is present. -/
theorem Migrates.entry_odd (hpresent : e.toNat % 2 = 1) : movedEntry (m.param 1) e % 2 = 1 := by
  have heven : 2 ∣ pageBytes big := by cases big <;> decide
  have hdst : m.param 1 % 2 = 0 := Nat.mod_eq_zero_of_dvd (heven.trans (Nat.dvd_of_mod_eq_zero h.aligned))
  rw [movedEntry]
  omega

/-- The command completes with the moved page's entry as the only change of memory. -/
theorem Migrates.replaced {a : Nat} (hcmd : s.cmd r = some m) (hwf : Memory.wf s.mem = true) (hpresent : e.toNat % 2 = 1)
    (hdone : pageBytes big ≤ m.moved * 256)
    (hsettled : u.settleRange m.tenant (m.movedPage big) (pageBytes big) = some u)
    (haddr : u.entryAddr m.tenant (m.movedPage big) big = some a) :
    Completes s (s.migrate r m) r m 0 0 0 ∧ Memory.readLe (s.migrate r m).mem a 8 = movedEntry (m.param 1) e ∧
      ∀ b, b < a ∨ a + 8 ≤ b → Memory.read (s.migrate r m).mem b = Memory.read s.mem b := by
  have hlooked := h.looked
  have hodd := h.entry_odd hpresent
  obtain ⟨hentry, hframe⟩ := State.writeEntry_present haddr (hlooked.mem.symm ▸ hwf) hodd (State.entryOk_lt hodd h.ok)
  have hcmds := (State.writeEntry_cmds haddr (movedEntry (m.param 1) e)).trans hlooked.cmds
  rw [h.replaces hdone hsettled]
  rw [hlooked.mem] at hframe
  generalize u.writeEntry m.tenant (m.movedPage big) big (movedEntry (m.param 1) e) = t at hentry hframe hcmds
  exact ⟨State.complete_completes hcmds hcmd _ _ _, hentry, hframe⟩

end

end Sys2Proof.Machine

namespace Sys2Proof.Claims

open Sys2Proof.Machine

/-- Settles O43: a line is copied by `Migrates.copies`, and the entry replaced by `Migrates.replaces`. -/
theorem migrationCompletes : Obligations.MigrationCompletes := by
  unfold Obligations.MigrationCompletes
  intro s u s1 r m big e bs a va dst n base new next ag ok
  have hmigrates (h : ok) : Migrates s u r m big e := by
    obtain ⟨-, hva, hentry, -, hkind, haligned, htarget, hok, hunmapped, -⟩ := h
    exact ⟨hva, hentry, hkind, haligned, htarget, hok, hunmapped⟩
  have hexec (h : s.running r 0x60 = some m) : exec (.hintMigrate r) s = .next (s.migrate r m) := by
    simp only [exec_hintMigrate, execHintMigrate, h]
  refine ⟨fun h hleft hlen hread hroom => ?line, fun h hdone hcores hbusy haddr => ?entry⟩
  case line =>
    have hm := hmigrates h
    obtain ⟨hrun, -, -, -, -, -, -, -, -, hwf⟩ := h
    obtain ⟨hcmd, -, -⟩ := State.running_some hrun
    obtain ⟨s2, hs2⟩ := Option.isSome_iff_exists.mp hroom
    rw [← hlen] at hs2
    obtain ⟨hmem, hcmds⟩ := Prod.ext_iff.mp (hm.copied_store hread hs2)
    have hcopied := hm.copies hleft hread hs2
    have hdone := (s2.putMem next bs).accessDone_eq (.feed (.cmd r)) (some r)
    generalize (s2.putMem next bs).accessDone (.feed (.cmd r)) (some r) = t at hcopied hdone
    have htmem : t.mem = Memory.writeBytes s.mem next bs := by
      rw [hdone]
      exact congrArg (Memory.writeBytes · next bs) hmem
    have htcmd : t.cmd r = some m := by
      rw [← hcmd, hdone]
      exact congrArg (List.find? (fun c => c.ref == r)) hcmds
    have href (c : Cmd) : ({ c with moved := c.moved + 1 } : Cmd).ref = c.ref := rfl
    refine ⟨_, (hexec hrun).trans (congrArg Host.Outcome.next hcopied), ?_, ?_, fun i hi => ?_⟩
    · rw [State.cmd_updCmd_same t r href, htcmd]
      rfl
    · rw [State.updCmd_mem, htmem, ← hlen]
      exact Memory.readBytes_writeBytes _ _ hwf
    · rw [State.updCmd_mem, htmem]
      exact Memory.read_writeBytes_ne _ _ _ hwf (hlen.symm ▸ hi)
  case entry =>
    have hm := hmigrates h
    obtain ⟨hrun, -, -, hpresent, -, -, -, -, -, hwf⟩ := h
    obtain ⟨hcmd, -, -⟩ := State.running_some hrun
    have hdrained : u.drainFunc m.tenant = some u := by simp [State.drainFunc, hcores, accEach]
    have hsettled : u.settleRange m.tenant base n = some u := by simp [State.settleRange, hdrained, hbusy]
    exact ⟨_, hexec hrun, hm.replaced hcmd hwf hpresent hdone hsettled haddr⟩

end Sys2Proof.Claims
end

section
/-! SUPPORT. Writes to BAR0 (R10, R12, R381 to R385): the register that an offset names, the bits that a write of 4 or 8 bytes
holds, and the branch of the write. -/

namespace Sys2Proof.Machine

/-- A field inside the written bits of a register is that of the written value. -/
theorem fld_written {lo len : Nat} {old mask : Word} (hmask : ∀ i, lo ≤ i → i < lo + len → mask.getLsbD i = true) (v : Word) :
    fld ((old &&& ~~~mask) ||| (v &&& mask)) lo len = fld v lo len := by
  refine Nat.eq_of_testBit_eq fun i => ?_
  simp only [fld, Nat.testBit_mod_two_pow, Nat.testBit_shiftRight, BitVec.testBit_toNat]
  by_cases hi : i < len
  · have hset : mask.getLsbD (lo + i) = true := hmask _ (by omega) (by omega)
    simp [hi, hset]
  · simp [hi]

/-- The lowest bits of a value have its lowest fields. -/
theorem fld_ofNat_mod {n m w lo len : Nat} (hlen : lo + len ≤ n) (hn : n ≤ w) (v : BitVec m) :
    fld (BitVec.ofNat w (v.toNat % 2 ^ n)) lo len = fld v lo len := by
  refine Nat.eq_of_testBit_eq fun i => ?_
  simp only [fld, BitVec.toNat_ofNat, Nat.testBit_mod_two_pow, Nat.testBit_shiftRight]
  by_cases hi : i < len
  · have hin : lo + i < n := by omega
    have hiw : lo + i < w := by omega
    simp [hi, hin, hiw]
  · simp [hi]

theorem regIndex_at (base n : Nat) {stride i : Nat} (hs : 0 < stride) (hi : i < n) :
    regIndex (base + stride * i) base stride n = some i := by
  have hlt : stride * i < stride * n := Nat.mul_lt_mul_of_pos_left hi hs
  have hoff : base + stride * i - base = stride * i := Nat.add_sub_cancel_left ..
  rw [regIndex, if_pos ⟨Nat.le_add_right .., by omega, by rw [hoff, Nat.mul_mod_right]⟩, hoff, Nat.mul_div_cancel_left _ hs]

theorem dieWindow_at {d o : Nat} (hd : d < 32) (ho : o < 0x10000) : dieWindow (0x04000000 + 0x10000 * d + o) = some (d, o) := by
  have h1 : (0x04000000 + 0x10000 * d + o - 0x04000000) / 0x10000 = d := by omega
  have h2 : (0x04000000 + 0x10000 * d + o - 0x04000000) % 0x10000 = o := by omega
  unfold dieWindow
  extract_lets x
  rw [if_neg (by omega), h1, h2]

theorem coreWindow_at {d k o : Nat} (hd : d < 32) (hk : k < 20) (ho : o < 0x1000) :
    coreWindow (0x08000000 + 0x20000 * d + 0x1000 * k + o) = some (coreKey d k, o) := by
  have h1 : (0x08000000 + 0x20000 * d + 0x1000 * k + o - 0x08000000) / 0x20000 = d := by omega
  have h2 : (0x08000000 + 0x20000 * d + 0x1000 * k + o - 0x08000000) % 0x20000 / 0x1000 = k := by omega
  have h3 : (0x08000000 + 0x20000 * d + 0x1000 * k + o - 0x08000000) % 0x1000 = o := by omega
  unfold coreWindow
  extract_lets x
  rw [if_neg (by omega), h1, h2, h3]

/-- No array that ends below an offset holds it. -/
theorem regIndex_past {off low base stride n : Nat} (hoff : low ≤ off) (h : base + stride * n ≤ low) :
    regIndex off base stride n = none := if_neg (by omega)

theorem reg32At_fctl {i : Nat} (hi : i < 64) : reg32At (0x203000 + 4 * i) = some (.fctl i) := by
  have hindex := regIndex_at (stride := 4) 0x203000 64 (by decide) hi
  generalize hoff : 0x203000 + 4 * i = off at hindex
  have hlow : 0x203000 ≤ off := by omega
  unfold reg32At
  split
  iterate 6 omega
  simp (disch := decide) only [regIndex_past hlow, hindex]
  rfl

theorem reg32At_stkTctl {d : Nat} (hd : d < 32) : reg32At (0x04000000 + 0x10000 * d + 0x1004) = some (.stkTctl d) := by
  have hwindow := dieWindow_at (o := 0x1004) hd (by decide)
  generalize hoff : 0x04000000 + 0x10000 * d + 0x1004 = off at hwindow
  have hlow : 0x203100 ≤ off := by omega
  unfold reg32At
  split
  iterate 6 omega
  simp (disch := decide) only [regIndex_past hlow, hwindow]
  rfl

theorem reg32At_cwin {d k : Nat} (hd : d < 32) (hk : k < 20) :
    reg32At (0x08000000 + 0x20000 * d + 0x1000 * k + 0x400) = some (.cwin (coreKey d k)) := by
  have hwindow := coreWindow_at (o := 0x400) hd hk (by decide)
  generalize hoff : 0x08000000 + 0x20000 * d + 0x1000 * k + 0x400 = off at hwindow
  have hlow : 0x203100 ≤ off := by omega
  have hdie : dieWindow off = none := if_pos (by omega)
  unfold reg32At
  split
  iterate 6 omega
  simp (disch := decide) only [regIndex_past hlow, hdie, hwindow]
  rfl

theorem reg64At_qptr {q : Nat} (hq : q < 16384) : reg64At (0x110018 + 32 * q) = some (.qptr q) := by
  have hdiv : (0x110018 + 32 * q - 0x110000) / 32 = q := by omega
  have hmod : (0x110018 + 32 * q - 0x110000) % 32 = 24 := by omega
  have hqueue : ¬ 16384 ≤ q := by omega
  rw [reg64At, if_neg (by omega), if_pos (by omega), queueReg]
  simp only [hdiv, hmod, hqueue, if_false]

/-- The bits of a register in which those of a mask are written (R385). -/
def State.written (s : State) (r : Reg) (v mask : Word) : Word := (BitVec.ofNat 64 (s.regValue r) &&& ~~~mask) ||| (v &&& mask)

theorem State.written_fld32 {lo len : Nat} (hlen : lo + len ≤ 32) (s : State) (r : Reg) (v : BitVec 512) :
    fld (s.written r (BitVec.ofNat 64 (v.toNat % 2 ^ 32)) 0xFFFFFFFF#64) lo len = fld v lo len := by
  refine (fld_written (fun i hi hi' => ?_) _).trans (fld_ofNat_mod hlen (by decide) v)
  have hall : (0xFFFFFFFF#64) = (BitVec.allOnes 32).setWidth 64 := by decide
  simp only [hall, BitVec.getLsbD_setWidth, BitVec.getLsbD_allOnes, Bool.and_eq_true, decide_eq_true_eq]
  omega

theorem State.written_fld64 {lo len : Nat} (hlen : lo + len ≤ 64) (s : State) (r : Reg) (v : BitVec 512) :
    fld (s.written r (BitVec.ofNat 64 v.toNat) (BitVec.allOnes 64)) lo len = fld v lo len := by
  have hmod : BitVec.ofNat 64 v.toNat = BitVec.ofNat 64 (v.toNat % 2 ^ 64) := BitVec.eq_of_toNat_eq (by simp)
  rw [hmod]
  refine (fld_written (fun i hi hi' => ?_) _).trans (fld_ofNat_mod hlen (by decide) v)
  simp only [BitVec.getLsbD_allOnes, decide_eq_true_eq]
  omega

section
variable {s : State} {fn : BitVec 6} {off : BitVec 28} {width : BitVec 7} {v : BitVec 512}

/-- A function that does not exist writes nothing. -/
theorem exec_registerWrite_absent (h : s.funcExists fn.toNat = false) : exec (.registerWrite fn off width v) s = .next s := by
  rw [exec_registerWrite, execRegisterWrite, State.barWrite, h]
  rfl

/-- A write of at most 8 bytes that is no aligned one of 4 or 8 bytes changes nothing (R385). -/
theorem exec_registerWrite_misaligned (hwidth : width.toNat ≤ 8) (h4 : width.toNat = 4 → off.toNat % 4 ≠ 0)
    (h8 : width.toNat = 8 → off.toNat % 8 ≠ 0) : exec (.registerWrite fn off width v) s = .next s := by
  rw [exec_registerWrite, execRegisterWrite]
  unfold State.barWrite
  extract_lets bad
  have hbad : bad = s := if_pos hwidth
  refine congrArg Host.Outcome.next ?_
  split
  · rfl
  · split
    · have hmisaligned : aligned off.toNat width.toNat = false := by
        refine Bool.eq_false_iff.mpr fun hcontra => ?_
        simp only [aligned, Bool.and_eq_true, Bool.or_eq_true, beq_iff_eq] at hcontra
        obtain ⟨hpower, hzero⟩ := hcontra
        obtain hw | hw : width.toNat = 4 ∨ width.toNat = 8 := by omega
        · rw [hw] at hzero
          exact h4 hw (by omega)
        · rw [hw] at hzero
          exact h8 hw (by omega)
      rw [hmisaligned, if_neg Bool.false_ne_true, hbad]
    · rw [if_neg (by omega), if_neg (by omega), hbad]

variable (hexists : s.funcExists fn.toNat = true) (hbuffer : bufferAt off.toNat = none) {r : Reg}
include hexists hbuffer

/-- A write of 4 bytes to a 32-bit register (R385). -/
theorem exec_registerWrite_word32 (hwidth : width.toNat = 4) (haligned : off.toNat % 4 = 0) (hreg : reg32At off.toNat = some r) :
    exec (.registerWrite fn off width v) s =
      .next (s.regWrite fn r (BitVec.ofNat 64 (v.toNat % 2 ^ 32)) 0xFFFFFFFF#64) := by
  simp only [exec_registerWrite, execRegisterWrite, State.barWrite, hexists, hbuffer, hwidth, haligned, State.write4, hreg,
    and_self, Bool.not_true, Bool.false_eq_true, if_true, if_false]

/-- A write of 8 bytes to a 64-bit register (R385). -/
theorem exec_registerWrite_word64 (hwidth : width.toNat = 8) (haligned : off.toNat % 8 = 0) (hreg : reg64At off.toNat = some r) :
    exec (.registerWrite fn off width v) s = .next (s.regWrite fn r (BitVec.ofNat 64 v.toNat) (BitVec.allOnes 64)) := by
  have hwide : ¬ 8 = 4 := by decide
  simp only [exec_registerWrite, execRegisterWrite, State.barWrite, hexists, hbuffer, hwidth, hwide, haligned,
    State.write8, hreg, and_self, false_and, Bool.not_true, Bool.false_eq_true, if_true, if_false]

end

/-- An offset outside the three buffers (R385). -/
theorem bufferAt_outside {off : Nat} (h : ¬ (0x300 ≤ off ∧ off < 0x400) ∧ ¬ (0x302000 ≤ off ∧ off < 0x303000) ∧
    ¬ (0x0F000000 ≤ off ∧ off < 0x0F008000)) : bufferAt off = none := by
  obtain ⟨hid, hfm, hmsix⟩ := h
  rw [bufferAt, if_neg hid, if_neg hfm, if_neg hmsix]

section
variable (s : State) (fn : BitVec 6) (v mask : Word)

theorem State.regWrite_fltctl : s.regWrite fn .fltctl v mask = if s.isMgmt fn.toNat then s.updMod (fun m => { m with
    wdt := max 16 (fld (s.written .fltctl v mask) 16 5), fwin := fld (s.written .fltctl v mask) 0 16 }) else s := rfl

theorem State.regWrite_fctl (k : Nat) : s.regWrite fn (.fctl k) v mask = if s.isMgmt fn.toNat then s.updFunc k (fun f => { f with
    tmo := fld (s.written (.fctl k) v mask) 16 8, hotth := fld (s.written (.fctl k) v mask) 0 16 }) else s := rfl

theorem State.regWrite_plzCtl : s.regWrite fn (.plz 0) v mask = if s.isMgmt fn.toNat then
    s.updFab (fun f => f.setCtl (s.written (.plz 0) v mask)) else s := rfl

theorem State.regWrite_stkTctl (d : Nat) : s.regWrite fn (.stkTctl d) v mask = if s.isMgmt fn.toNat then s.updDie d (fun x => { x with
    stkHyst := max 1 (min 8 (fld (s.written (.stkTctl d) v mask) 8 4))
    stkT := max 80 (min 100 (fld (s.written (.stkTctl d) v mask) 0 8)) }) else s := rfl

theorem State.regWrite_qptr (q : Nat) : s.regWrite fn (.qptr q) v mask = if (s.queue q).owner == fn.toNat then
    s.updQueue q (fun x => { x with rhead := fld (s.written (.qptr q) v mask) 0 16 }) else s := rfl

theorem State.regWrite_cwin {k : Nat} (hopen : s.windowClosed (.cwin k) = false) : s.regWrite fn (.cwin k) v mask =
    if s.ownsKey fn.toNat k || s.isMgmt fn.toNat then
      s.updCore k (fun c => { c with cwin := min 4096 (fld (s.written (.cwin k) v mask) 0 13) }) else s :=
  if_neg (Bool.eq_false_iff.mp hopen)

end

end Sys2Proof.Machine

namespace Sys2Proof.Claims

open Sys2Proof.Machine

/-- A command that has its effect for those who may, and none for others. -/
theorem runs_guarded {i : Instr} {s t : State} {may : Bool} {P : State → Prop} (h : exec i s = .next (if may then t else s))
    (hp : P t) : (may = true → Runs i s P) ∧ (¬ may = true → Runs i s (fun u => u = s)) :=
  ⟨fun hmay => ⟨t, h.trans (congrArg _ (if_pos hmay)), hp⟩, fun hmay => ⟨s, h.trans (congrArg _ (if_neg hmay)), rfl⟩⟩

/-- Settles O60: the offset names the register, the write is `exec_registerWrite_word32` or `exec_registerWrite_word64`, and its
fields are those of the value (`State.written_fld32`, `State.written_fld64`). -/
theorem registerWritesComplete : Obligations.RegisterWritesComplete := by
  unfold Obligations.RegisterWritesComplete
  intro s fn off width v d k i queue n o lives mgmt is32 is64 write same c q
  have hsame (h : exec write s = .next s) : same := ⟨s, h, rfl⟩
  refine ⟨fun h => hsame (exec_registerWrite_absent h), fun _ hle h4 h8 => ?width, fun _ h32 hodd => ?odd4, fun _ h64 hodd => ?odd8,
    fun hlives h32 ho => ?fltctl, fun hlives h32 ho => ?fctl, fun hlives h64 ho => ?plzCtl, fun hlives h32 ho => ?stkTctl,
    fun hlives h32 hcore ho hopen => ?cwin, fun hlives h64 ho => ?rhead⟩
  case width => exact hsame (exec_registerWrite_misaligned hle (fun h => absurd h h4) (fun h => absurd h h8))
  case odd4 => exact hsame (exec_registerWrite_misaligned (by omega) (fun _ => hodd) (by omega))
  case odd8 => exact hsame (exec_registerWrite_misaligned (by omega) (by omega) (fun _ => hodd))
  case fltctl =>
    have hexec := exec_registerWrite_word32 (v := v) hlives (bufferAt_outside (by omega)) h32 (by omega)
      (show reg32At o = some .fltctl by rw [ho]; rfl)
    rw [State.regWrite_fltctl, State.written_fld32 (by decide), State.written_fld32 (by decide)] at hexec
    exact runs_guarded hexec rfl
  case fctl =>
    have hexec := exec_registerWrite_word32 (v := v) hlives (bufferAt_outside (by omega)) h32 (by omega)
      (show reg32At o = some (.fctl i.toNat) by rw [ho]; exact reg32At_fctl i.isLt)
    rw [State.regWrite_fctl, State.written_fld32 (by decide), State.written_fld32 (by decide)] at hexec
    exact runs_guarded hexec ⟨rfl, State.func_updFunc_same .., fun j hj => State.func_updFunc_ne _ _ hj⟩
  case plzCtl =>
    have hexec := exec_registerWrite_word64 (v := v) hlives (bufferAt_outside (by omega)) h64 (by omega)
      (show reg64At o = some (.plz 0) by rw [ho]; rfl)
    rw [State.regWrite_plzCtl] at hexec
    simp only [Fabric.setCtl, State.written_fld64, Nat.reduceAdd, Nat.reduceLeDiff] at hexec
    exact runs_guarded hexec rfl
  case stkTctl =>
    have hexec := exec_registerWrite_word32 (v := v) hlives (bufferAt_outside (by omega)) h32 (by omega)
      (show reg32At o = some (.stkTctl d.toNat) by
        rw [show o = 0x04000000 + 0x10000 * d.toNat + 0x1004 by omega]; exact reg32At_stkTctl d.isLt)
    rw [State.regWrite_stkTctl, State.written_fld32 (by decide), State.written_fld32 (by decide)] at hexec
    exact runs_guarded hexec ⟨State.updDie_onlyDie .., State.die_updDie_same ..⟩
  case cwin =>
    have hk : k.core.toNat < 20 := hcore
    have hdie : c / 20 = k.die.toNat := coreRef_key_div hcore
    have hnum : c % 20 = k.core.toNat := by simp only [c, CoreRef.key]; omega
    rw [hdie, hnum] at ho
    have hexec := exec_registerWrite_word32 (v := v) hlives (bufferAt_outside (by omega)) h32 (by omega)
      (show reg32At o = some (.cwin c) by
        rw [show o = 0x08000000 + 0x20000 * k.die.toNat + 0x1000 * k.core.toNat + 0x400 by omega]; exact reg32At_cwin k.die.isLt hk)
    rw [State.regWrite_cwin _ _ _ _ hopen, State.written_fld32 (by decide)] at hexec
    obtain ⟨hset, hkept⟩ := runs_guarded hexec (P := fun t => OnlyCore s t c ∧
      t.core c = { s.core c with cwin := min 4096 (fld v 0 13) }) ⟨s.updCore_onlyCore c rfl, State.core_updCore_same ..⟩
    exact ⟨fun hmay => hset (Bool.or_eq_true_iff.mpr hmay), fun hown hm => hkept (by rw [hown]; exact hm)⟩
  case rhead =>
    have hexec := exec_registerWrite_word64 (v := v) hlives (bufferAt_outside (by omega)) h64 (by omega)
      (show reg64At o = some (.qptr q) by rw [ho]; exact reg64At_qptr queue.isLt)
    rw [State.regWrite_qptr, State.written_fld64 (by decide)] at hexec
    have hothers (f : Queue → Queue) (j : Nat) (hj : j ≠ q) : (s.updQueue q f).queue j = s.queue j := by
      rw [State.queue_updQueue, if_neg hj.symm]
    obtain ⟨hset, hkept⟩ := runs_guarded hexec (P := fun t => t = { s with queues := t.queues } ∧
      t.queue q = { s.queue q with rhead := fld v 0 16 } ∧ ∀ j, j ≠ q → t.queue j = s.queue j)
      ⟨rfl, State.queue_updQueue_same .., hothers _⟩
    exact ⟨fun hown => hset (beq_iff_eq.mpr hown), fun hown => hkept fun h => hown (beq_iff_eq.mp h)⟩

end Sys2Proof.Claims
end

section
/-! SUPPORT. The test and the signal of a semaphore word (R242). -/

namespace Sys2Proof.Machine

/-- A named command after its change, where the state before it had the commands of a known one. -/
theorem State.cmd_updCmd_some {s t : State} {r : CmdRef} {m : Cmd} {f : Cmd → Cmd} (ht : t.cmds = s.cmds) (hm : s.cmd r = some m)
    (hf : ∀ c, (f c).ref = c.ref) : (t.updCmd r f).cmd r = some (f m) := by
  rw [State.cmd_updCmd_same _ _ hf, State.cmd, ht]
  exact congrArg (Option.map f) hm

/-- A signal writes its word in stack memory and completes (R242). -/
theorem State.signal_at {s : State} {r : CmdRef} {m : Cmd} {a : Nat} (ha : s.semAt m .write = some a) :
    s.signal r m = ((s.cacheWrite a 8 m.tenant 0).putMemLe a 8
      (if m.arg % 2 = 1 then Memory.readLe s.mem a 8 + m.param 1 else m.param 1)).complete r 0 0 0 := by
  simp only [State.signal, ha]

/-- A test completes the wait once its word is at least P1, and else keeps the word as RESULT (R234, R242). -/
theorem State.semTest_at {s : State} {r : CmdRef} {m : Cmd} {a : Nat} (ha : s.semAt m .read = some a) :
    s.semTest r m = if m.param 1 ≤ Memory.readLe s.mem a 8 then s.complete r 0 0 (Memory.readLe s.mem a 8)
      else s.updCmd r (fun c => { c with result := Memory.readLe s.mem a 8 }) := by
  simp only [State.semTest, ha]

section
variable {s : State} {r : CmdRef} {m : Cmd} (hrun : s.running r 0x21 = some m)
include hrun

theorem exec_semWait_running : exec (.semWait r) s = .next (s.semTest r m) := by
  simp only [exec_semWait, execSemWait, hrun]

theorem exec_semWaitRetest_running : exec (.semWaitRetest r) s = .next (s.semTest r m) := by
  simp only [exec_semWaitRetest, execSemWaitRetest, hrun]

theorem exec_semWaitTimeout_running (hlimit : m.param 2 ≠ 0) :
    exec (.semWaitTimeout r) s = .next (s.complete r 9 0 m.result) := by
  simp only [exec_semWaitTimeout, execSemWaitTimeout, hrun, hlimit, if_false]

end

end Sys2Proof.Machine

namespace Sys2Proof.Claims

open Sys2Proof.Machine

/-- Settles O39: a signal is `State.signal_at`, a test `State.semTest_at`; each completion is `State.complete_completes`. -/
theorem semaphoresComplete : Obligations.SemaphoresComplete := by
  unfold Obligations.SemaphoresComplete
  intro s r m a v
  refine ⟨fun hrun ha hwf => ?signal, fun hrun ha hreached => ?reached, fun hrun ha hbelow => ?below, fun hrun hlimit => ?timeout⟩
  case signal =>
    obtain ⟨hm, -, -⟩ := State.running_some hrun
    have hexec : exec (.semSignal r) s = .next (s.signal r m) := by simp only [exec_semSignal, execSemSignal, hrun]
    rw [State.signal_at ha] at hexec
    have hmem := s.cacheWrite_mem a 8 m.tenant 0
    refine ⟨_, hexec, State.complete_completes (s.cacheWrite_quiet a 8 m.tenant 0).cmds hm 0 0 0, ?_, fun b hb => ?_⟩
    · exact (congrArg (fun k => Memory.readLe (Memory.writeLe k a 8 _) a 8) hmem).trans (Memory.readLe_writeLe a 8 _ hwf)
    · exact (congrArg (fun k => Memory.read (Memory.writeLe k a 8 _) b) hmem).trans (Memory.read_writeLe8_ne hwf hb)
  case reached =>
    obtain ⟨hm, -, -⟩ := State.running_some hrun
    have htest : s.semTest r m = s.complete r 0 0 v := (State.semTest_at ha).trans (if_pos hreached)
    have hdone := State.complete_completes rfl hm 0 0 v
    exact ⟨⟨_, (exec_semWait_running hrun).trans (congrArg _ htest), hdone, rfl⟩,
      ⟨_, (exec_semWaitRetest_running hrun).trans (congrArg _ htest), hdone, rfl⟩⟩
  case below =>
    obtain ⟨hm, -, -⟩ := State.running_some hrun
    have htest : s.semTest r m = s.updCmd r (fun c => { c with result := v }) :=
      (State.semTest_at ha).trans (if_neg (Nat.not_le.mpr hbelow))
    exact ⟨_, (exec_semWait_running hrun).trans (congrArg _ htest), State.cmd_updCmd_some rfl hm fun _ => rfl, rfl⟩
  case timeout =>
    obtain ⟨hm, -, -⟩ := State.running_some hrun
    exact ⟨_, exec_semWaitTimeout_running hrun hlimit, State.complete_completes rfl hm 9 0 m.result, rfl⟩

end Sys2Proof.Claims
end

section
/-! SUPPORT. Queue control, core ownership and MOD_COMPAT (R224, R226, R271, R371). -/

namespace Sys2Proof.Machine

open Sys2Proof.Claims

/-- SCB_QCTLq after its owner, which is not the managing function, has enabled it or written EN = 1 again (R224, R226). -/
def Queue.enabled (qu : Queue) (v : Word) (maxPrio : Nat) : Queue :=
  { qu with en := true, comm := if qu.en then qu.comm else v.getLsbD 62, prio := min (fld v 59 3) maxPrio, vec := fld v 42 11
            head := 0, tail := 0, rtail := 0, rhead := 0, phase := true }

theorem State.qctlWrite_enables {s : State} {q n : Nat} {v : Word} (hown : (s.queue q).owner = n) (hmgmt : s.isMgmt n = false)
    (hen : v.getLsbD 63 = true) (hfits : (s.queue q).en = true ∨ SMap.find (s.func n).quotas 0 = none) :
    s.qctlWrite n q v = s.updQueue q (fun qu => qu.enabled v (s.func n).maxPrio) := by
  subst hown
  have hroom : (!(s.queue q).en && !(s.fits (s.queue q).owner 0 (s.quotaUse (s.queue q).owner 0 + 1))) = false := by
    rcases hfits with h | h <;> simp [State.fits, h]
  simp only [State.qctlWrite, hmgmt, hen, hroom, beq_self_eq_true, Bool.not_true, Bool.not_false, Bool.false_and, Bool.and_true,
    Bool.false_eq_true, if_false]
  rfl

theorem State.qctlWrite_refused {s : State} {q n : Nat} (hown : (s.queue q).owner ≠ n) (hmgmt : s.isMgmt n = false) (v : Word) :
    s.qctlWrite n q v = s := by
  simp [State.qctlWrite, hown, hmgmt]

/-- A core that a tenant owns (R271). -/
def Core.ownedBy (k : Core) (tenant : Nat) : Core := { k with owned := true, owner := tenant }

/-- A core as a change of tenant leaves it, with the base of its cycle count (R145, R271). -/
def Core.clearedFor (k : Core) (src n : Nat) (base : Int) : Core := { k.changeTenant src n with cycBase := base }

/-- The managing function gives a free core to a tenant, which clears it (R271). -/
theorem State.coreOwn_gives {s : State} {n k : Nat} {v : Word32} (hmgmt : s.isMgmt n = true) (hidle : s.coreBusy k = false)
    (hfree : (s.core k).owned = false) (hgives : v.getLsbD 7 = true) :
    s.coreOwn n k v = (s.clearCore k).updCore k (·.ownedBy (fld v 0 6)) := by
  unfold State.coreOwn
  rw [hgives]
  simp [hmgmt, hidle, hfree, Core.ownedBy]

theorem State.coreOwn_refused {s : State} {n : Nat} (hmgmt : s.isMgmt n = false) (k : Nat) (v : Word32) : s.coreOwn n k v = s := by
  simp [State.coreOwn, hmgmt]

theorem State.clearCore_core_same (s : State) (k : Nat) :
    ∃ base, (s.clearCore k).core k = (s.core k).clearedFor k s.free base := ⟨_, SMap.get_set_same ..⟩

theorem State.clearCore_core_ne (s : State) {k i : Nat} (h : i ≠ k) : (s.clearCore k).core i = s.core i :=
  SMap.get_set_ne _ _ _ _ _ h.symm

/-- A context of a core after a change of tenant keeps its x registers (R271). -/
theorem Core.clearedFor_ctx (k : Core) (src n : Nat) (base : Int) {j : Nat} (hj : j < 4) :
    (k.clearedFor src n base).ctx j = (k.ctx j).cleared src (n + j) := SMap.get_range_map _ _ hj

/-- A write of MOD_COMPAT by the managing function before the lock event (R371). -/
theorem State.compat_locks {s : State} {n : Nat} (hmgmt : s.isMgmt n = true) (hopen : s.mod.locked = false) (v : Word32) :
    s.compat n v = s.updMod (fun m => { m with reply := v.getLsbD 1, evict := v.getLsbD 0, locked := true }) := by
  simp [State.compat, hmgmt, hopen]

theorem State.compat_refused {s : State} {n : Nat} (h : s.isMgmt n = false ∨ s.mod.locked = true) (v : Word32) :
    s.compat n v = s := by
  rcases h with h | h <;> simp [State.compat, h]

end Sys2Proof.Machine

namespace Sys2Proof.Claims

open Sys2Proof.Machine

/-- Settles O45: the registers' writes are `State.qctlWrite_enables`, `State.coreOwn_gives` and `State.compat_locks`, and change
nothing for a function that may not make them; a core given to a tenant is as `State.clearCore_core_same` says. -/
theorem managingRegistersComplete : Obligations.ManagingRegistersComplete := by
  unfold Obligations.ManagingRegistersComplete
  intro s fn queue v k u hk n q qu core
  refine ⟨fun hexists hown hmgmt hen hfits => ?enables, fun hown hmgmt => ?notOwner, fun hmgmt hidle hfree hgives => ?gives,
    fun hmgmt => ?notManaging, ?cleared, fun hmgmt hopen => ?locks, fun h => ?locked⟩
  case enables =>
    have hexec : exec (.scbQctlWrite fn queue v) s = .next (s.qctlWrite n q v) := by
      simp only [exec_scbQctlWrite, execScbQctlWrite, n, q, hexists, if_true]
    rw [State.qctlWrite_enables hown hmgmt hen hfits] at hexec
    refine ⟨_, hexec, State.queue_updQueue_same .., rfl, fun p hp => ?_⟩
    rw [State.queue_updQueue, if_neg hp.symm]
  case notOwner =>
    refine ⟨s, ?_, rfl⟩
    rw [exec_scbQctlWrite, execScbQctlWrite, State.qctlWrite_refused hown hmgmt, ite_self]
  case gives =>
    have hexec := (exec_coreOwnWrite fn k u s).trans (onCore_next _ hk)
    rw [State.coreOwn_gives hmgmt hidle hfree hgives] at hexec
    obtain ⟨base, hcore⟩ := s.clearCore_core_same k.key
    have hnew := (s.clearCore k.key).core_updCore_same k.key (·.ownedBy (fld u 0 6))
    rw [hcore] at hnew
    have hctx (j : Nat) (hj : j < 4) : ((s.clearCore k.key).updCore k.key (·.ownedBy (fld u 0 6))).ctx k.key j =
        (s.ctx k.key j).cleared k.key (s.free + j) :=
      (congrArg (Core.ctx · j) hnew).trans (core.clearedFor_ctx k.key s.free base hj)
    refine ⟨_, hexec, ?_⟩
    dsimp only
    rw [hnew]
    refine ⟨rfl, rfl, rfl, rfl, rfl, rfl, fun j hj => ?_, fun i hi => ?_, fun _ => rfl⟩
    · rw [hctx j hj]
      exact ⟨rfl, rfl, rfl, rfl, rfl⟩
    · exact (State.core_updCore_ne _ _ _ _ hi.symm).trans (s.clearCore_core_ne hi)
  case notManaging =>
    have hexec := (exec_coreOwnWrite fn k u s).trans (onCore_next _ hk)
    rw [State.coreOwn_refused hmgmt] at hexec
    exact ⟨s, hexec, rfl⟩
  case cleared => exact runs_updCore (exec_coreClearDone k s) hk rfl
  case locks => exact ⟨_, (exec_compatWrite fn u s).trans (congrArg Host.Outcome.next (State.compat_locks hmgmt hopen u)), rfl⟩
  case locked => exact ⟨s, (exec_compatWrite fn u s).trans (congrArg Host.Outcome.next (State.compat_refused h u)), rfl⟩

end Sys2Proof.Claims
end

section
/-! SUPPORT. Reads by the module itself change die caches and counts of functions alone (R186, R189, R211, R218, R227). -/

namespace Sys2Proof.Machine

/-- What a die holds outside its cache and the counters that the cache's reads advance. -/
def Die.outside (d : Die) : Die :=
  { d with lines := [], plru := [], misses := [], fetches := [], evicts := [], chans := [], cached := [], ctrs := [] }

/-- A die that may be answered differs in its cache alone. -/
def Die.CachesOpt (d : Die) (o : Option Die) : Prop := ∀ e, o = some e → e.outside = d.outside

theorem Die.cachesOpt_some {d e : Die} (h : e.outside = d.outside) : d.CachesOpt (some e) := fun _ he => Option.some.inj he ▸ h

theorem Die.CachesOpt.map {d : Die} {o : Option Die} (h : d.CachesOpt o) {f : Die → Die} (hf : ∀ x, (f x).outside = x.outside) :
    d.CachesOpt (o.map f) := by
  rintro e he
  obtain ⟨x, hx, rfl⟩ := Option.map_eq_some_iff.mp he
  exact (hf x).trans (h x hx)

theorem Die.CachesOpt.getD {d : Die} {o : Option Die} (h : d.CachesOpt o) : (o.getD d).outside = d.outside := by
  cases o with
  | none => rfl
  | some e => exact h e rfl

theorem Die.ask_outside (d : Die) (spa fn hint : Nat) (who : List Engine) : (d.ask spa fn hint who).outside = d.outside := by
  have hread : d.CachesOpt (d.queueRead (lineOf spa) fn) := by
    unfold Die.queueRead
    dsimp only
    split
    · exact d.cachesOpt_some rfl
    · split
      · exact nofun
      · exact d.cachesOpt_some rfl
  have hfetch : d.CachesOpt (d.fetch spa fn who) := by
    unfold Die.fetch
    dsimp only
    split
    · exact d.cachesOpt_some rfl
    · exact hread.map fun _ => rfl
  unfold Die.ask
  split
  · exact hfetch.getD
  · exact Die.CachesOpt.getD fun e he => by rw [Die.miss_only he]; rfl

theorem Die.evictLine_outside (d : Die) (offer : Bool) (fn : Nat) (l : DcLine) : d.CachesOpt (d.evictLine offer fn l) := by
  unfold Die.evictLine Die.queueWrite
  dsimp only
  split
  · split
    · split
      · exact nofun
      · exact d.cachesOpt_some rfl
    · exact d.cachesOpt_some rfl
  · split
    · exact d.cachesOpt_some rfl
    · split
      · exact nofun
      · exact d.cachesOpt_some rfl

theorem Die.clearWay_outside (d : Die) (offer : Bool) (fn key w : Nat) : d.CachesOpt (d.clearWay offer fn key w) := by
  unfold Die.clearWay
  dsimp only
  split
  · exact fun e he => (Die.evictLine_outside _ _ _ _ e he :)
  · exact d.cachesOpt_some rfl

theorem Die.place_outside (d : Die) (offer : Bool) (spa fn : Nat) (dirty keep : Bool) :
    d.CachesOpt (d.place offer spa fn dirty keep) := by
  intro e h
  obtain ⟨w, -, h⟩ := Option.bind_eq_some_iff.mp h
  obtain ⟨x, hx, rfl⟩ := Option.map_eq_some_iff.mp h
  exact (d.clearWay_outside _ _ _ _ x hx :)

theorem Die.lookup_outside {d e : Die} {offer : Bool} {spa fn hint : Nat} (h : d.lookup offer spa fn hint = .here e) :
    e.outside = d.outside := by
  unfold Die.lookup at h
  dsimp only at h
  split at h
  · cases h
    split
    · rfl
    · split <;> rfl
  · split at h
    · exact nomatch h
    · split at h
      · cases h
        rfl
      · split at h
        · next hplace =>
          cases h
          exact (Die.place_outside _ _ _ _ _ _ e hplace :)
        · exact nomatch h

/-- The state without the dies and functions. -/
def State.sansDies (s : State) : State := { s with dies := [], funcs := [] }

/-- Only the dies' caches and the functions differ. -/
structure OnlyCaches (s t : State) : Prop where
  rest : t.sansDies = s.sansDies
  die : ∀ d, (t.die d).outside = (s.die d).outside

theorem OnlyCaches.refl (s : State) : OnlyCaches s s := ⟨rfl, fun _ => rfl⟩

theorem OnlyCaches.trans {s t u : State} (h : OnlyCaches s t) (g : OnlyCaches t u) : OnlyCaches s u :=
  ⟨g.rest.trans h.rest, fun d => (g.die d).trans (h.die d)⟩

theorem onlyCaches_foldl {α : Type} {f : State → α → State} (hf : ∀ t x, OnlyCaches t (f t x)) (l : List α) (s : State) :
    OnlyCaches s (l.foldl f s) := by
  induction l generalizing s with
  | nil => exact .refl s
  | cons x l ih => exact (hf s x).trans (ih _)

section
variable {s t : State} (h : OnlyCaches s t)
include h

theorem OnlyCaches.mem : t.mem = s.mem := (congrArg State.mem h.rest :)
theorem OnlyCaches.cmds : t.cmds = s.cmds := (congrArg State.cmds h.rest :)
theorem OnlyCaches.cores : t.cores = s.cores := (congrArg State.cores h.rest :)
theorem OnlyCaches.queue (q : Nat) : t.queue q = s.queue q := (congrArg (State.queue · q) h.rest :)
theorem OnlyCaches.thold (d : Nat) : (t.die d).thold = (s.die d).thold := (congrArg Die.thold (h.die d) :)
theorem OnlyCaches.traces (d : Nat) : (t.die d).traces = (s.die d).traces := (congrArg Die.traces (h.die d) :)

/-- The checks of a packet (R230) look at no die and no function. -/
theorem OnlyCaches.packetCheck (q : Nat) (p : BitVec 1024) : t.packetCheck q p = s.packetCheck q p :=
  (congrArg (State.packetCheck · q p) h.rest :)

theorem OnlyCaches.newCmd (q : Nat) (p : BitVec 1024) : t.newCmd q p = s.newCmd q p := (congrArg (State.newCmd · q p) h.rest :)

end

theorem State.updDie_onlyCaches {s : State} {d : Nat} {f : Die → Die} (hf : (f (s.die d)).outside = (s.die d).outside) :
    OnlyCaches s (s.updDie d f) := by
  refine ⟨rfl, fun i => ?_⟩
  rw [State.die_updDie]
  split
  · next h => rw [hf, h]
  · rfl

theorem State.cacheRead_onlyCaches (s : State) (spa n fn hint : Nat) : OnlyCaches s (s.cacheRead spa n fn hint) := by
  refine onlyCaches_foldl (fun t p => ?_) _ s
  split
  · next d hd =>
    exact (State.updDie_onlyCaches (Die.lookup_outside hd)).trans
      (onlyCaches_foldl (fun u (l : DcLine) => ⟨(rfl : (u.countFunc l.tenant 0x20 1).sansDies = u.sansDies), fun _ => rfl⟩) _ _)
  · exact .refl t
  · exact State.updDie_onlyCaches (Die.ask_outside _ _ _ _ _)

theorem State.walkTouch_onlyCaches (s : State) (fn va : Nat) : OnlyCaches s (s.walkTouch fn va) := by
  unfold State.walkTouch
  dsimp only
  split
  · exact .refl s
  · split
    · exact s.cacheRead_onlyCaches _ _ _ _
    · exact (s.cacheRead_onlyCaches _ _ _ _).trans (State.cacheRead_onlyCaches _ _ _ _ _)

/-- The scribe reads the entries of a ring in stack memory through the die caches (R186, R227). -/
theorem State.readEntry_foldl_onlyCaches {s : State} {q : Nat} (hstack : (s.queue q).ringLoc = true) (entry : Nat → Nat)
    (l : List Nat) : OnlyCaches s (l.foldl (fun t i => t.readEntry q (entry i)) s) := by
  induction l generalizing s with
  | nil => exact .refl s
  | cons i l ih =>
    have hread : OnlyCaches s (s.readEntry q (entry i)) := by
      unfold State.readEntry
      simp only [hstack, if_true]
      split
      · exact (s.walkTouch_onlyCaches _ _).trans (State.cacheRead_onlyCaches _ _ _ _ _)
      · exact .refl s
    exact hread.trans (ih (by rw [hread.queue, hstack]))

end Sys2Proof.Machine
end

section
/-! SUPPORT. Doorbells and the fetch of a packet (R226, R227, R230, R235). -/

namespace Sys2Proof.Machine

/-- A doorbell that R226 accepts. -/
def State.accepts (s : State) (fn q bytes tail : Nat) : Prop :=
  s.inService = true ∧ (bytes = 4 ∨ bytes = 8) ∧ (s.queue q).owner = fn ∧ (s.queue q).en = true ∧
    tail < ringEntries (s.queue q).ringSize

theorem State.doorbell_accepted {s : State} {fn q bytes tail : Nat} (h : s.accepts fn q bytes tail) :
    s.doorbell fn q bytes tail = s.updQueue q (fun x => { x with tail := tail }) := by
  obtain ⟨hservice, hbytes, howner, hen, htail⟩ := h
  simp [State.doorbell, hservice, hbytes, howner, hen, htail]

theorem State.doorbell_refused {s : State} {fn q bytes tail : Nat} (h : ¬ s.accepts fn q bytes tail) :
    s.doorbell fn q bytes tail = s.updDie (queueDie q) (fun d => { d with dbdrop := min (d.dbdrop + 1) 65535 }) := by
  refine if_neg fun hpass => h ?_
  simpa [State.accepts, and_assoc] using hpass

/-- The fetch of `n` entries of queue `q` (R227): HEAD moves on, MOD_COMPAT locks (R371), `used` is left of what was read of host
rings, and the command is in flight and counted (R379). `qu` has the queue's registers before the fetch. -/
def State.takes (s : State) (q n : Nat) (qu : Queue) (used : SMap Byte) (c : Cmd) : State :=
  let s1 := ({ s with ringData := used }.updQueue q (fun x => { x with head := (x.head + n) % ringEntries qu.ringSize })).updMod
    (fun m => { m with locked := true })
  ({ s1 with cmds := s.cmds ++ [c] }.updDie (queueDie q) (fun d => { d with lastQueue := SMap.set d.lastQueue qu.prio q })).countDie
    (queueDie q) 0 1

theorem State.takes_traces (s : State) (q n : Nat) (qu : Queue) (used : SMap Byte) (c : Cmd) :
    ((s.takes q n qu used c).die (queueDie q)).traces = (s.die (queueDie q)).traces := by
  rw [State.takes, State.countDie, State.die_updDie_same, State.die_updDie_same]
  rfl

theorem State.takes_queue (s : State) (q n : Nat) (qu : Queue) (used : SMap Byte) (c : Cmd) (p : Nat) :
    (s.takes q n qu used c).queue p =
      if q = p then { s.queue q with head := ((s.queue q).head + n) % ringEntries qu.ringSize } else s.queue p := SMap.get_set ..

/-- The last command that was taken, replaced. -/
theorem State.takes_again (s : State) (q n : Nat) (qu : Queue) (used : SMap Byte) (c e : Cmd) :
    { s.takes q n qu used c with cmds := (s.takes q n qu used c).cmds.dropLast ++ [e] } = s.takes q n qu used e := by
  have hcmds : (s.takes q n qu used c).cmds.dropLast = s.cmds := List.dropLast_concat
  rw [hcmds]
  rfl

/-- What the checks of its packet make of a fetched command (R230, R236): complete at once when it fails one, or while THOLD
keeps commands back. -/
def Cmd.checked (c : Cmd) (hot : Bool) : Option Nat → Cmd
  | some k => c.finish 11 k
  | none => if hot then c.finish 12 0 else c

/-- The fetch of a packet: the scribe has read its entries, and takes it. -/
theorem State.fetchPacket_takes {s : State} {q : Nat} (htraces : (s.die (queueDie q)).traces = []) (p : BitVec 1024) (n : Nat) :
    ∃ t used, OnlyCaches s t ∧ s.fetchPacket q p n =
      t.takes q n (s.queue q) used ((s.newCmd q p).checked (s.die (queueDie q)).thold (s.packetCheck q p)) := by
  have hread : OnlyCaches s (if (s.queue q).ringLoc then
      (List.range n).foldl (fun t i => t.readEntry q ((s.queue q).head + i)) s else s) := by
    split
    · next hstack => exact State.readEntry_foldl_onlyCaches hstack _ _
    · exact .refl s
  unfold State.fetchPacket
  extract_lets qu size link used t s1 s2 c die s3 s4 done
  have ht : OnlyCaches s t := hread
  have hs4 : s4 = t.takes q n qu s1.ringData c := by
    refine State.trace_of_no_rings ((t.takes_traces q n qu s1.ringData c).trans ?_) ..
    rw [ht.traces, htraces]
  have hdone (status detail : Nat) : done status detail = t.takes q n qu s1.ringData (c.finish status detail) := by
    rw [← t.takes_again q n qu s1.ringData c, ← hs4]
  refine ⟨t, s1.ringData, ht, ?_⟩
  rw [← ht.packetCheck, ← ht.newCmd, ← ht.thold]
  cases t.packetCheck q p with
  | some k => exact hdone 11 k
  | none =>
    show (if (t.die die).thold then done 12 0 else s4) = t.takes q n qu s1.ringData (if (t.die die).thold then c.finish 12 0 else c)
    split
    · exact hdone 12 0
    · exact hs4

end Sys2Proof.Machine
end

section
/-! SUPPORT. The start of a command (R239 to R243), and its reply (R233, R235, R264). -/

namespace Sys2Proof.Machine

/-- The state in which a command starts: its contest has a new last queue (R243). -/
def State.starts (s : State) (r : CmdRef) (c : Cmd) : State :=
  let s1 := s.updCmd r (fun m => { m with phase := .started })
  match c.contest with
  | some k => s1.updDie r.die (fun d => { d with
      lastStart := SMap.set d.lastStart (8 * k + (s.queue r.queue.toNat).prio) r.queue.toNat })
  | none => s1

theorem State.starts_frame (s : State) (r : CmdRef) (c : Cmd) :
    s.starts r c = { s.updCmd r (fun m => { m with phase := .started }) with dies := (s.starts r c).dies } := by
  unfold State.starts
  dsimp only
  split <;> rfl

theorem State.starts_traces (s : State) (r : CmdRef) (c : Cmd) : ((s.starts r c).die r.die).traces = (s.die r.die).traces := by
  unfold State.starts
  dsimp only
  split
  · rw [State.die_updDie_same]
    rfl
  · rfl

/-- A ready command that no other goes before starts (R239 to R243). -/
theorem exec_commandStart_starts {s : State} {r : CmdRef} {c : Cmd} (hc : s.cmd r = some c) (hready : s.startReady c = true)
    (hfirst : s.outranked c = false) (hlives : s.mod.failed = false) (htraces : (s.die r.die).traces = []) :
    exec (.commandStart r) s = .next ((s.starts r c).startEffect r c) := by
  have hnoted := State.trace_of_no_rings (s := s.starts r c) (die := r.die) ((s.starts_traces r c).trans htraces)
    c.tenant 1 none 0 r.queue.toNat r.seq.toNat c.opcode
  simp only [exec_commandStart, execCommandStart, hc, hready, hfirst, hlives, Bool.not_true, Bool.or_false, Bool.false_eq_true,
    if_false]
  exact congrArg (fun t : State => Host.Outcome.next (t.startEffect r c)) hnoted

/-- The start of a command that is no LAUNCH, feed or semaphore command changes nothing more (R241). -/
theorem State.startEffect_plain {c : Cmd} (h : c.opcode ≠ 1 ∧ isFeed c.opcode = false ∧ c.opcode ≠ 0x20 ∧ c.opcode ≠ 0x21)
    (s : State) (r : CmdRef) : s.startEffect r c = s := by
  obtain ⟨hlaunch, hfeed, hsignal, hwait⟩ := h
  simp only [State.startEffect, hlaunch, hfeed, hsignal, hwait, Bool.false_eq_true, if_false]

theorem State.startEffect_launch {s : State} {c : Cmd} (hop : c.opcode = 1)
    (howns : ∀ x ∈ c.launchCtxs, s.ownsCore c.tenant x.die.toNat x.core.toNat = true) (r : CmdRef) :
    s.startEffect r c = s.assignCtxs r c := by
  rw [State.startEffect, if_pos hop, if_pos (List.all_eq_true.mpr howns)]

/-- A context as a LAUNCH takes it, with its snapshot (R232, R335). -/
def Ctx.assigned (y : Ctx) (r : CmdRef) : Ctx := { y with job := some r, snap := y.snapshot, kept := [], code := none }

theorem State.ctxOf_updCtxOf_cases (s : State) (x y : CtxRef) (f : Ctx → Ctx) :
    (s.updCtxOf x f).ctxOf y = s.ctxOf y ∨ (s.updCtxOf x f).ctxOf y = f (s.ctxOf y) := by
  by_cases h : y.key ≠ x.key ∨ y.idx ≠ x.idx
  · exact .inl (s.ctx_updCtxOf_ne x f h)
  · obtain ⟨hkey, hidx⟩ : y.key = x.key ∧ y.idx = x.idx := by simpa using h
    rw [State.ctxOf, State.ctxOf, hkey, hidx]
    exact .inr (s.ctxOf_updCtxOf x f)

/-- Every context that a LAUNCH takes has it as its command, and no context changes its mode (R140, R232). -/
theorem State.assigned_ctxs (r : CmdRef) (l : List CtxRef) (s : State) (y : CtxRef) :
    let t := l.foldl (fun s x => s.updCtxOf x (·.assigned r)) s
    (t.ctxOf y).mode = (s.ctxOf y).mode ∧ (y ∈ l ∨ (s.ctxOf y).job = some r → (t.ctxOf y).job = some r) := by
  induction l generalizing s with
  | nil => exact ⟨rfl, fun h => h.resolve_left (List.not_mem_nil)⟩
  | cons x l ih =>
    obtain ⟨hmode, hjob⟩ := ih (s.updCtxOf x (·.assigned r))
    have hstep := s.ctxOf_updCtxOf_cases x y (·.assigned r)
    refine ⟨hmode.trans ?_, fun h => hjob ?_⟩
    · rcases hstep with h | h <;> rw [h]
      rfl
    · rcases h with hy | hy
      · rcases List.mem_cons.mp hy with rfl | hy
        · exact .inr (congrArg Ctx.job (s.ctxOf_updCtxOf y _))
        · exact .inl hy
      · refine .inr ?_
        rcases hstep with h | h <;> rw [h]
        · exact hy
        · rfl

/-! Replies. -/

theorem length_delFirst {α : Type} {p : α → Bool} {l : List α} {x : α} (h : l.find? p = some x) :
    (delFirst p l).length + 1 = l.length := by
  induction l with
  | nil => exact nomatch h
  | cons y l ih =>
    rw [delFirst]
    split
    · rfl
    · next hy => exact congrArg (· + 1) (ih (by rwa [List.find?_cons_of_neg hy] at h))

theorem State.replyBytes_length (s : State) (c : Cmd) (phase : Bool) : (s.replyBytes c phase).length = 32 := by
  unfold State.replyBytes
  dsimp only
  split <;> simp [leBytes_length]

/-- A queue's registers after a reply of it has been written at RTAIL (R224, R233). -/
def Queue.replied (qu : Queue) : Queue :=
  let t := (qu.rtail + 1) % ringEntries qu.repSize
  { qu with rtail := t, phase := if t = 0 then !qu.phase else qu.phase }

/-- The state in which a command's reply lies at RTAIL of its host reply ring (R233). -/
def State.putReply (s : State) (c : Cmd) : State :=
  let q := c.ref.queue.toNat
  let qu := s.queue q
  ((s.dropScoped c.ref).putHost (s.funcLink qu.owner) (qu.repBase.toNat * 4096 + 32 * qu.rtail) (s.replyBytes c qu.phase)).updQueue q
    (fun _ => qu.replied)

theorem State.putReply_traces (s : State) (c : Cmd) (d : Nat) : ((s.putReply c).die d).traces = (s.die d).traces :=
  (congrArg Die.traces (s.dropScoped_die c.ref d) :)

theorem State.putReply_known (s : State) (c : Cmd) :
    let home := s.queue c.ref.queue.toNat
    knownBytes (s.putReply c).host (hostKey (s.funcLink home.owner) (home.repBase.toNat * 4096 + 32 * home.rtail)) 32 =
      some (s.replyBytes c home.phase) := by
  intro home
  have hknown := knownBytes_putBytes s.host (hostKey (s.funcLink home.owner) (home.repBase.toNat * 4096 + 32 * home.rtail))
    (s.replyBytes c home.phase)
  rwa [State.replyBytes_length] at hknown

/-- A reply without a vector to raise is written, and its command leaves (R233, R235). -/
theorem State.reply_host {s : State} {c : Cmd} (hhost : (s.queue c.ref.queue.toNat).repLoc = false) (hattempt : c.attempts = 0)
    (hirq : c.irq = false) (htraces : (s.die c.ref.die).traces = []) : ∃ note : Cmd → Cmd,
    s.reply c = { s.putReply c with cmds := (delFirst (fun x => x.ref == c.ref) s.cmds).map note } := by
  unfold State.reply
  extract_lets q qu m a bs s1 s2 t s3 s4 note s5
  have hm : m = c := if_pos hattempt
  have hs2 : s2 = s1.putHost (s.funcLink qu.owner) a (s.replyBytes c qu.phase) := by
    simp only [s2, bs, hm]
    exact if_neg (by rw [Bool.not_eq_true]; exact hhost)
  have hs3 : s3 = s.putReply c := by
    simp only [s3, hs2]
    rfl
  have hs4 : s4 = s.putReply c := by
    refine (State.trace_of_no_rings ?_ ..).trans hs3
    rw [hs3, State.putReply_traces, htraces]
  refine ⟨note, (if_neg (by simp [hirq])).trans ?_⟩
  simp only [s5, hs4]
  rfl

/-- A command waits with its reply for those of its queue that completed before it, and for the end of its function's reset
(R235, R264). -/
theorem exec_replyWrite_held {s : State} {r : CmdRef} {c : Cmd} (hc : s.cmd r = some c)
    (h : s.repliesAfter c = true ∨ (s.func (s.queue r.queue.toNat).owner).resetting = true) :
    exec (.replyWrite r) s = .next s := by
  rw [exec_replyWrite, execReplyWrite, hc]
  exact if_pos (by simp only [Bool.or_eq_true]; tauto)

/-- A completed command without contexts, whose writes are complete, is answered in its turn (R235). -/
theorem exec_replyWrite_replies {s : State} {r : CmdRef} {c : Cmd} (hc : s.cmd r = some c) (hdone : c.isComplete = true)
    (hwritten : s.writesDone c = true) (hctxs : c.ctxs = []) (hturn : s.repliesAfter c = false)
    (hruns : (s.func (s.queue r.queue.toNat).owner).resetting = false) : exec (.replyWrite r) s = .next (s.reply c) := by
  have hstores : s.storesOut c = true := by simp [State.storesOut, hctxs]
  have hdrained : s.drainCmd c = some s := by simp [State.drainCmd, hctxs]
  simp [exec_replyWrite, execReplyWrite, hc, hdone, hstores, hturn, hruns, hdrained, hwritten]

end Sys2Proof.Machine

namespace Sys2Proof.Claims

open Sys2Proof.Machine

/-- Settles O36: a doorbell is `State.doorbell_accepted` or `State.doorbell_refused`, a fetch `State.fetchPacket_takes`, a start
`exec_commandStart_starts` and `State.startEffect_launch`, a reply `exec_replyWrite_replies` and `State.reply_host`. -/
theorem queueCommandsComplete : Obligations.QueueCommandsComplete := by
  unfold Obligations.QueueCommandsComplete
  intro s fn die queue bytes tail r q qu ok home
  have hdoorbell (h : s.funcExists fn.toNat = true) :
      exec (.doorbell fn queue ⟨bytes, tail⟩) s = .next (s.doorbell fn.toNat q bytes.toNat tail.toNat) := by
    simp only [exec_doorbell, execDoorbell, h, if_true, q]
  have hok : s.accepts fn.toNat q bytes.toNat tail.toNat ↔ ok := by
    have h4 : bytes.toNat = 4 ↔ bytes = 4 := by rw [BitVec.toNat_eq]; rfl
    have h8 : bytes.toNat = 8 ↔ bytes = 8 := by rw [BitVec.toNat_eq]; rfl
    rw [State.accepts, h4, h8]
  have hfetch {h n : Nat} {p : BitVec 1024} (hservice : s.inService = true) (hqueue : s.fetchQueue die.toNat = some h)
      (hpacket : s.fetchable h = some (p, n)) (htraces : (s.die (queueDie h)).traces = []) : ∃ t used, OnlyCaches s t ∧
        exec (.packetFetch die) s = .next (t.takes h n (s.queue h) used
          ((s.newCmd h p).checked (s.die (queueDie h)).thold (s.packetCheck h p))) := by
    obtain ⟨t, used, ht, hnext⟩ := State.fetchPacket_takes htraces p n
    refine ⟨t, used, ht, ?_⟩
    simp only [exec_packetFetch, execPacketFetch, hservice, hqueue, hpacket, Bool.not_true, Bool.false_eq_true, if_false, hnext]
  refine ⟨fun hexists haccepts => ?accepted, fun hexists hrefused => ?refused,
    fun h p n hservice hqueue hpacket hcheck hcool htraces => ?fetched,
    fun h p n k hservice hqueue hpacket hcheck htraces => ?malformed,
    fun c hc hready hfirst hlives hop htraces => ?starts, fun c hc hready hfirst hlives hop howns htraces => ?launches,
    fun c hc hheld => ⟨s, exec_replyWrite_held hc hheld, rfl⟩,
    fun c hc hdone hwritten hctxs hturn hruns hhost hattempt hirq htraces => ?replies⟩
  case accepted =>
    have hexec := hdoorbell hexists
    rw [State.doorbell_accepted (hok.mpr haccepts)] at hexec
    exact ⟨_, hexec, s.queue_updQueue_same q _, rfl, fun p hp => (s.queue_updQueue q p _).trans (if_neg hp.symm)⟩
  case refused =>
    have hexec := hdoorbell hexists
    rw [State.doorbell_refused (mt hok.mp hrefused)] at hexec
    exact ⟨_, hexec, s.updDie_onlyDie _ _, s.die_updDie_same _ _⟩
  case fetched =>
    obtain ⟨t, used, ht, hexec⟩ := hfetch hservice hqueue hpacket htraces
    rw [hcheck, hcool] at hexec
    refine ⟨_, hexec, congrArg (· ++ [s.newCmd h p]) ht.cmds, fun a => congrArg (Memory.read · a) ht.mem, ht.cores, ?_,
      fun k hk => ?_, rfl⟩
    · rw [State.takes_queue, if_pos rfl, ht.queue]
    · rw [State.takes_queue, if_neg hk.symm, ht.queue]
  case malformed =>
    obtain ⟨t, used, ht, hexec⟩ := hfetch hservice hqueue hpacket htraces
    rw [hcheck] at hexec
    exact ⟨_, hexec, congrArg (· ++ [(s.newCmd h p).finish 11 k]) ht.cmds, fun a => congrArg (Memory.read · a) ht.mem⟩
  case starts =>
    have hplain : ∀ op ∈ [0x42, 0x50, 0x51, 0x52, 0x53, 0x70, 0x71], op ≠ 1 ∧ isFeed op = false ∧ op ≠ 0x20 ∧ op ≠ 0x21 := by
      decide
    have hexec := exec_commandStart_starts hc hready hfirst hlives htraces
    rw [State.startEffect_plain (hplain _ hop), State.starts_frame] at hexec
    exact ⟨_, hexec, State.cmd_updCmd_some rfl hc fun _ => rfl, fun p hp => s.cmd_updCmd_ne hp fun _ => rfl, fun _ => rfl,
      rfl, rfl⟩
  case launches =>
    have hexec := exec_commandStart_starts hc hready hfirst hlives htraces
    have hframe := s.starts_frame r c
    rw [State.startEffect_launch hop (by rw [hframe]; exact howns)] at hexec
    have hstarted : (s.starts r c).cmd r = some { c with phase := .started } := by
      rw [hframe]
      exact State.cmd_updCmd_some rfl hc fun _ => rfl
    have hcmds := foldl_cmds (f := fun u x => u.updCtxOf x (·.assigned r)) (fun _ _ => rfl) c.launchCtxs (s.starts r c)
    refine ⟨_, hexec, State.cmd_updCmd_some hcmds hstarted fun _ => rfl, fun x hx => ?_⟩
    obtain ⟨hmode, hjob⟩ := State.assigned_ctxs r c.launchCtxs (s.starts r c) x
    refine ⟨hjob (.inl hx), hmode.trans ?_⟩
    rw [hframe]
    rfl
  case replies =>
    have hexec := exec_replyWrite_replies hc hdone hwritten hctxs hturn hruns
    have href := State.cmd_ref hc
    obtain ⟨note, hreply⟩ := State.reply_host (href.symm ▸ hhost) hattempt hirq (href.symm ▸ htraces)
    rw [hreply] at hexec
    refine ⟨_, hexec, fun _ => rfl, rfl, ?_, ?_, ?_⟩
    · subst href
      rw [List.length_map, length_delFirst hc]
    · subst href
      exact congrArg Queue.rtail (State.queue_updQueue_same ..)
    · subst href
      exact s.putReply_known c

end Sys2Proof.Claims
end

section
/-! SUPPORT. Every command keeps the queue of waiting commands and the canonical form of the memory (R353, log entry 4): the lemmas
of the commands, put together over the arms of `exec`. -/

namespace Sys2Proof.Machine

theorem exec_keeps {s0 s : State} (hk : Keeps s0 s) (i : Instr) : KRes s0 (exec i s) :=
  match i with
  | .setk c w => execSetk_keeps hk c w
  | .addpc c w => execAddpc_keeps hk c w
  | .gol c w => execGol_keeps hk c w
  | .gor c w => execGor_keeps hk c w
  | .jcond c w => execJcond_keeps hk c w
  | .load c w => execLoad_keeps hk c w
  | .store c w => execStore_keeps hk c w
  | .ldf c w => execLdf_keeps hk c w
  | .stf c w => execStf_keeps hk c w
  | .aluImmediate c w => execAluImmediate_keeps hk c w
  | .aluRegister c w => execAluRegister_keeps hk c w
  | .multiply c w => execMultiply_keeps hk c w
  | .divide c w => execDivide_keeps hk c w
  | .fpArith c w => execFpArith_keeps hk c w
  | .fpMinmax c w => execFpMinmax_keeps hk c w
  | .fpCompare c w => execFpCompare_keeps hk c w
  | .fpSign c w => execFpSign_keeps hk c w
  | .dtoi c w => execDtoi_keeps hk c w
  | .itod c w => execItod_keeps hk c w
  | .fpMove c w => execFpMove_keeps hk c w
  | .atomic c w => execAtomic_keeps hk c w
  | .fenceCore c w => execFenceCore_keeps hk c w
  | .fenceDie c w => execFenceDie_keeps hk c w
  | .fenceDev c w => execFenceDev_keeps hk c w
  | .fenceSys c w => execFenceSys_keeps hk c w
  | .fenceCode c w => execFenceCode_keeps hk c w
  | .srd c w => execSrd_keeps hk c w
  | .swr c w => execSwr_keeps hk c w
  | .smw c w => execSmw_keeps hk c w
  | .hret c w => execHret_keeps hk c w
  | .pause c w => execPause_keeps hk c w
  | .done c w => execDone_keeps hk c w
  | .bmov c w => execBmov_keeps hk c w
  | .bfill c w => execBfill_keeps hk c w
  | .bcmp c w => execBcmp_keeps hk c w
  | .bscan c w => execBscan_keeps hk c w
  | .blockRepeatStep c w => execBlockRepeatStep_keeps hk c w
  | .interruptEntry c => execInterruptEntry_keeps hk c
  | .alarmExpire c => execAlarmExpire_keeps hk c
  | .contextWatchdog c => execContextWatchdog_keeps hk c
  | .coprocessorAbsent c w => execCoprocessorAbsent_keeps hk c w
  | .mdset c w => execMdset_keeps hk c w
  | .mm c w => execMm_keeps hk c w
  | .mmAccept k => execMmAccept_keeps hk k
  | .cursiveGroupClose k => execCursiveGroupClose_keeps hk k
  | .arrayChecksumFault k f => execArrayChecksumFault_keeps hk k f
  | .mmPassComplete k n => execMmPassComplete_keeps hk k n
  | .vfp c w => execVfp_keeps hk c w
  | .vint c w => execVint_keeps hk c w
  | .vcmp c w => execVcmp_keeps hk c w
  | .vxf c w => execVxf_keeps hk c w
  | .vwake c w => execVwake_keeps hk c w
  | .vcvt c w => execVcvt_keeps hk c w
  | .vmv c w => execVmv_keeps hk c w
  | .vbcx c w => execVbcx_keeps hk c w
  | .vbcf c w => execVbcf_keeps hk c w
  | .viota c w => execViota_keeps hk c w
  | .vsldn c w => execVsldn_keeps hk c w
  | .vslup c w => execVslup_keeps hk c w
  | .vsumF c w => execVsumF_keeps hk c w
  | .vmaxF c w => execVmaxF_keeps hk c w
  | .vminF c w => execVminF_keeps hk c w
  | .vsumI c w => execVsumI_keeps hk c w
  | .vpopc c w => execVpopc_keeps hk c w
  | .vfirst c w => execVfirst_keeps hk c w
  | .vld c w => execVld_keeps hk c w
  | .vst c w => execVst_keeps hk c w
  | .vgath c w => execVgath_keeps hk c w
  | .vscat c w => execVscat_keeps hk c w
  | .vrrd c w => execVrrd_keeps hk c w
  | .vrst c w => execVrst_keeps hk c w
  | .vrraw c w => execVrraw_keeps hk c w
  | .vrcomb c w => execVrcomb_keeps hk c w
  | .vrclr c w => execVrclr_keeps hk c w
  | .vedset c w => execVedset_keeps hk c w
  | .vmsk c w => execVmsk_keeps hk c w
  | .vectorCommit c => execVectorCommit_keeps hk c
  | .vectorStoreDrain c => execVectorStoreDrain_keeps hk c
  | .unitPowerDown k u => execUnitPowerDown_keeps hk k u
  | .unitWakeDone k u => execUnitWakeDone_keeps hk k u
  | .feedStart c w => execFeedStart_keeps hk c w
  | .feedWait c w => execFeedWait_keeps hk c w
  | .ligStart c w => execLigStart_keeps hk c w
  | .ligWait c w => execLigWait_keeps hk c w
  | .inkwellScrub k found => execInkwellScrub_keeps hk k found
  | .inkwellClearDone k => execInkwellClearDone_keeps hk k
  | .dcLineFill die line found => execDcLineFill_keeps hk die line found
  | .evictionWriteback die slice => execEvictionWriteback_keeps hk die slice
  | .ssdTrackerExpire die slice n => execSsdTrackerExpire_keeps hk die slice n
  | .stackScrub die channel found => execStackScrub_keeps hk die channel found
  | .stackTempMeasure die temp => execStackTempMeasure_keeps hk die temp
  | .dieTempMeasure die temp => execDieTempMeasure_keeps hk die temp
  | .thermalClockStep => execThermalClockStep_keeps hk
  | .governorStep avgWatts steps => execGovernorStep_keeps hk avgWatts steps
  | .sensorSample r => execSensorSample_keeps hk r
  | .walkComplete die fn va a req => execWalkComplete_keeps hk die fn va a req
  | .faultRecordWrite die fn page => execFaultRecordWrite_keeps hk die fn page
  | .faultRetry fn n tag => execFaultRetry_keeps hk fn n tag
  | .faultDecline fn n tag => execFaultDecline_keeps hk fn n tag
  | .faultAnswerTimeout n tag => execFaultAnswerTimeout_keeps hk n tag
  | .faultQueueHeadWrite fn n head => execFaultQueueHeadWrite_keeps hk fn n head
  | .mmuTbaseWrite fn n v => execMmuTbaseWrite_keeps hk fn n v
  | .tableInitDone n => execTableInitDone_keeps hk n
  | .mmuL2poolWrite fn v => execMmuL2poolWrite_keeps hk fn v
  | .doorbell fn queue w => execDoorbell_keeps hk fn queue w
  | .packetFetch die => execPacketFetch_keeps hk die
  | .commandStart c => execCommandStart_keeps hk c
  | .replyWrite c => execReplyWrite_keeps hk c
  | .launch c => execLaunch_keeps hk c
  | .feedCopy t => execFeedCopy_keeps hk t
  | .feedFill t => execFeedFill_keeps hk t
  | .feedConvert t => execFeedConvert_keeps hk t
  | .feedTileComplete t => execFeedTileComplete_keeps hk t
  | .feedTransferComplete t => execFeedTransferComplete_keeps hk t
  | .semSignal c => execSemSignal_keeps hk c
  | .semWait c => execSemWait_keeps hk c
  | .semWaitRetest c => execSemWaitRetest_keeps hk c
  | .semWaitTimeout c => execSemWaitTimeout_keeps hk c
  | .collAllreduce c => execCollAllreduce_keeps hk c
  | .collRedscat c => execCollRedscat_keeps hk c
  | .collAllgather c => execCollAllgather_keeps hk c
  | .collBcast c => execCollBcast_keeps hk c
  | .collAlltoall c => execCollAlltoall_keeps hk c
  | .collBarrier c => execCollBarrier_keeps hk c
  | .mapPage c => execMapPage_keeps hk c
  | .mapInkwell c => execMapInkwell_keeps hk c
  | .unmapPage c => execUnmapPage_keeps hk c
  | .unmapInkwell c => execUnmapInkwell_keeps hk c
  | .windowSet c => execWindowSet_keeps hk c
  | .quotaSet c => execQuotaSet_keeps hk c
  | .reclaim c => execReclaim_keeps hk c
  | .reclaimDrainDone c => execReclaimDrainDone_keeps hk c
  | .cancel c => execCancel_keeps hk c
  | .cancelGraceExpire c => execCancelGraceExpire_keeps hk c
  | .fence c => execFence_keeps hk c
  | .hintMigrate c => execHintMigrate_keeps hk c
  | .traceSet c => execTraceSet_keeps hk c
  | .ctrSnapshot c => execCtrSnapshot_keeps hk c
  | .scbQctlWrite fn queue v => execScbQctlWrite_keeps hk fn queue v
  | .coreOwnWrite fn k v => execCoreOwnWrite_keeps hk fn k v
  | .coreClearDone k => execCoreClearDone_keeps hk k
  | .frameAllocate fn n => execFrameAllocate_keeps hk fn n
  | .frameRelease fn n => execFrameRelease_keeps hk fn n
  | .frameZeroDone die frame => execFrameZeroDone_keeps hk die frame
  | .compatWrite fn v => execCompatWrite_keeps hk fn v
  | .moduleReset cause => execModuleReset_keeps hk cause
  | .powerOnReset => execPowerOnReset_keeps hk
  | .pgInFall => execPgInFall_keeps hk
  | .vinLoss => execVinLoss_keeps hk
  | .dieRelease portDie n => execDieRelease_keeps hk portDie n
  | .railFault => execRailFault_keeps hk
  | .firmwareVerify a b => execFirmwareVerify_keeps hk a b
  | .dieBringupDone badCores badFrames => execDieBringupDone_keeps hk badCores badFrames
  | .linksStageEnd => execLinksStageEnd_keeps hk
  | .discoveryMessage port serial hops => execDiscoveryMessage_keeps hk port serial hops
  | .discoveryForward serial => execDiscoveryForward_keeps hk serial
  | .discoveryEnd => execDiscoveryEnd_keeps hk
  | .hostLinkUp up => execHostLinkUp_keeps hk up
  | .hostLinkReset r => execHostLinkReset_keeps hk r
  | .functionLevelReset n => execFunctionLevelReset_keeps hk n
  | .hostReadCompletion r e => execHostReadCompletion_keeps hk r e
  | .hostReadTimeout r => execHostReadTimeout_keeps hk r
  | .bar4Read fn offset width => execBar4Read_keeps hk fn offset width
  | .bar4Write fn offset bytes => execBar4Write_keeps hk fn offset bytes
  | .msixUnmask n vec => execMsixUnmask_keeps hk n vec
  | .registerWrite fn offset width value => execRegisterWrite_keeps hk fn offset width value
  | .groupLoad fn group v => execGroupLoad_keeps hk fn group v
  | .groupLoadDone group => execGroupLoadDone_keeps hk group
  | .groupEnd fn group => execGroupEnd_keeps hk fn group
  | .collOpStart group die => execCollOpStart_keeps hk group die
  | .digestRoundEnd group die => execDigestRoundEnd_keeps hk group die
  | .ligStepEnd group die => execLigStepEnd_keeps hk group die
  | .groupTimeout group die => execGroupTimeout_keeps hk group die
  | .deferNoticeTick => execDeferNoticeTick_keeps hk
  | .timerPauseEnd group => execTimerPauseEnd_keeps hk group
  | .fmAssign fn v => execFmAssign_keeps hk fn v
  | .fmWrite fn v => execFmWrite_keeps hk fn v
  | .fmRead fn v => execFmRead_keeps hk fn v
  | .fmAnswer => execFmAnswer_keeps hk
  | .fmTimeout => execFmTimeout_keeps hk
  | .portEnableWrite fn port en => execPortEnableWrite_keeps hk fn port en
  | .linkTrained port wmask peer => execLinkTrained_keeps hk port wmask peer
  | .linkSlot port => execLinkSlot_keeps hk port
  | .flitReceive port flit => execFlitReceive_keeps hk port flit
  | .creditReturn port freed => execCreditReturn_keeps hk port freed
  | .nak port fseq => execNak_keeps hk port fseq
  | .probe port lane => execProbe_keeps hk port lane
  | .alive port lane => execAlive_keeps hk port lane
  | .hold port lane => execHold_keeps hk port lane
  | .creditReset port lane free => execCreditReset_keeps hk port lane free
  | .retrainRequest port => execRetrainRequest_keeps hk port
  | .abortFlit port lane => execAbortFlit_keeps hk port lane
  | .messageForward port lane => execMessageForward_keeps hk port lane
  | .remoteWrite => execRemoteWrite_keeps hk
  | .readRequest => execReadRequest_keeps hk
  | .readResponse => execReadResponse_keeps hk
  | .acknowledgement => execAcknowledgement_keeps hk
  | .noticeUnreachable => execNoticeUnreachable_keeps hk
  | .noticeRouteError => execNoticeRouteError_keeps hk
  | .ligatureData => execLigatureData_keeps hk
  | .ligatureDigest => execLigatureDigest_keeps hk
  | .ligatureAbort => execLigatureAbort_keeps hk
  | .thermalDefer => execThermalDefer_keeps hk
  | .faultDefer => execFaultDefer_keeps hk
  | .messageDeliver src queue => execMessageDeliver_keeps hk src queue
  | .deliveryTimeout queue dest mseq => execDeliveryTimeout_keeps hk queue dest mseq
  | .wavelengthDrop port wave corrected uncorrectable => execWavelengthDrop_keeps hk port wave corrected uncorrectable
  | .retrainStart port => execRetrainStart_keeps hk port
  | .retrainEnd port wmask resendFrom => execRetrainEnd_keeps hk port wmask resendFrom
  | .probeTimer port lane => execProbeTimer_keeps hk port lane
  | .stallDeclare port lane => execStallDeclare_keeps hk port lane
  | .replayRestart c => execReplayRestart_keeps hk c
  | .mapOutDone die => execMapOutDone_keeps hk die
  | .armedExpire k => execArmedExpire_keeps hk k
  | .idReadRecord p record => execIdReadRecord_keeps hk p record
  | .idWriteRecord p record bytes => execIdWriteRecord_keeps hk p record bytes
  | .idReadSensors p => execIdReadSensors_keeps hk p
  | .idReadMeasurement p => execIdReadMeasurement_keeps hk p
  | .idRequestDone => execIdRequestDone_keeps hk
  | .idMailboxTimeout => execIdMailboxTimeout_keeps hk
  | .i3cSetdasa addr => execI3cSetdasa_keeps hk addr
  | .i3cPrivateRead => execI3cPrivateRead_keeps hk
  | .i3cReadBootHealth => execI3cReadBootHealth_keeps hk
  | .i3cSetPowerLimit record bytes => execI3cSetPowerLimit_keeps hk record bytes
  | .vinEntersRange => execVinEntersRange_keeps hk
  | .perstDeassertion link bifur => execPerstDeassertion_keeps hk link bifur
  | .partnerLightLoss port => execPartnerLightLoss_keeps hk port
  | .mmcStop => execMmcStop_keeps hk
  | .dieLinkFailure a b portRing => execDieLinkFailure_keeps hk a b portRing
  | .uncorrectableInternalError src => execUncorrectableInternalError_keeps hk src
  | .numvfsWrite fn n => execNumvfsWrite_keeps hk fn n

end Sys2Proof.Machine

namespace Sys2Proof.Claims

open Sys2Proof.Machine

/-- A step that goes on leaves the commands behind the front, and keeps the canonical form of the memory. -/
theorem step_keeps {s t : State} (h : step s = .next t) :
    t.pending = s.pending.tail ∧ (Memory.wf s.mem = true → Memory.wf t.mem = true) := by
  unfold step at h
  split at h
  next hidle =>
    obtain ⟨hpending, hmem⟩ := State.tick_keeps (Keeps.rfl' s)
    obtain rfl := Host.Outcome.next.inj h
    exact ⟨by rw [hpending, hidle]; rfl, hmem⟩
  next i rest hfront =>
    obtain ⟨hpending, hmem⟩ := exec_keeps (Keeps.rfl' { s with pending := rest }) i t h
    exact ⟨by rw [hpending, hfront]; rfl, hmem⟩

/-- Settles O3: the canonical form is one half of what `step_keeps` says of a step. -/
theorem everyStepKeepsMemoryForm : Obligations.EveryStepKeepsMemoryForm := by
  unfold Obligations.EveryStepKeepsMemoryForm
  intro s t hwf hstep
  obtain ⟨-, hmem⟩ := step_keeps hstep
  exact hmem hwf

/-- Settles O5: what waits behind the front is the other half of `step_keeps`. -/
theorem queueIsFirstInFirstOut : Obligations.QueueIsFirstInFirstOut := by
  unfold Obligations.QueueIsFirstInFirstOut
  intro s t hstep
  obtain ⟨hpending, -⟩ := step_keeps hstep
  exact hpending

/-- Settles O1: the second branch of `step`. -/
theorem stepRunsFrontCommand : Obligations.StepRunsFrontCommand := by
  unfold Obligations.StepRunsFrontCommand
  intro s i rest hfront
  rw [step, hfront]

end Sys2Proof.Claims
end

section
/-! SUPPORT. Frames (R272, R273): what an allocation, a release and the end of the zeroing leave. -/

namespace Sys2Proof.Machine

/-- The key of the frame that a function's request names (R272). -/
def Func.frameNamed (f : Func) : Nat := frameKey f.frDie f.frFrame

/-- A free frame that a function names for itself, with no limit on its frames, becomes its own. -/
theorem State.allocFrame_free {s : State} {n : Nat} (hmgmt : s.isMgmt n = false) (hany : (s.func n).frAny = false)
    (hfree : s.frameFree (s.func n).frameNamed = true) (hlimit : SMap.find (s.func n).quotas 3 = none) :
    s.allocFrame n = ({ s with frames := SMap.set s.frames (s.func n).frameNamed (.held n) }.updFunc n (fun f =>
      { f with frDie := (s.func n).frameNamed / 512, frFrame := (s.func n).frameNamed % 512 })).frameDone n 0 := by
  unfold Func.frameNamed at *
  simp [State.allocFrame, State.frameFor, State.fits, hmgmt, hany, hfree, hlimit]

theorem State.allocFrame_taken {s : State} {n : Nat} (hany : (s.func n).frAny = false)
    (htaken : s.frameFree (s.func n).frameNamed = false) : s.allocFrame n = s.frameDone n 11 := by
  unfold Func.frameNamed at htaken
  simp [State.allocFrame, hany, htaken]

/-- A frame of a function that no page of it maps, with no queue enabled, is released (R273). -/
theorem State.freeFrame_held {s : State} {n : Nat} (hmgmt : s.isMgmt n = false) (hframe : (s.func n).frFrame < 384)
    (hheld : SMap.find s.frames (s.func n).frameNamed = some (.held n)) (hmapped : s.frameMapped (s.func n).frameNamed = false)
    (hrings : ∀ p ∈ s.queues, p.2.en = false) : s.freeFrame n = (s.releaseFrame (s.func n).frameNamed).frameDone n 0 := by
  unfold Func.frameNamed at *
  unfold State.freeFrame
  dsimp only
  have hlow : ¬ 384 ≤ (s.func n).frFrame := by omega
  rw [if_neg]
  simp only [State.frameFor, hmgmt, hheld, hmapped, hlow]
  simp
  intro k q hq
  have hoff : q.en = false := hrings (k, q) hq
  simp [hoff]

end Sys2Proof.Machine

namespace Sys2Proof.Claims

open Sys2Proof.Machine

/-- Settles O46: each request has one of the outcomes above; the end of the zeroing clears the frame's range of addresses. -/
theorem frameCommandsComplete : Obligations.FrameCommandsComplete := by
  unfold Obligations.FrameCommandsComplete
  intro s n die frame
  dsimp only
  refine ⟨fun hmgmt hany _ hfree hlimit => ?allocated, fun hany htaken => ?refused,
    fun hmgmt hframe hheld hmapped hrings => ?released, fun hzeroing hwf => ?zeroed⟩
  case allocated =>
    have hexec : exec (.frameAllocate n n) s = .next (s.allocFrame n.toNat) := by simp [execFrameAllocate]
    rw [State.allocFrame_free hmgmt hany hfree hlimit] at hexec
    refine ⟨_, hexec, ?_, ?_, ?_, fun a => rfl, fun i hi => ?_⟩
    · exact (SMap.find_set ..).trans (if_pos rfl)
    · simp [State.frameDone]
    · simp [State.frameDone]
    · exact (SMap.find_set ..).trans (if_neg (Ne.symm hi))
  case refused =>
    have hexec : exec (.frameAllocate n n) s = .next (s.allocFrame n.toNat) := by simp [execFrameAllocate]
    rw [State.allocFrame_taken hany htaken] at hexec
    exact ⟨_, hexec, by simp [State.frameDone], rfl, fun a => rfl⟩
  case released =>
    have hexec : exec (.frameRelease n n) s = .next (s.freeFrame n.toNat) := by simp [execFrameRelease]
    rw [State.freeFrame_held hmgmt hframe hheld hmapped hrings] at hexec
    refine ⟨_, hexec, ?_, ?_, fun a => rfl⟩
    · exact (SMap.find_set ..).trans (if_pos rfl)
    · simp [State.frameDone]
  case zeroed =>
    have hexec : exec (.frameZeroDone die frame) s = execFrameZeroDone die frame s := rfl
    unfold execFrameZeroDone at hexec
    dsimp only at hexec
    rw [hzeroing] at hexec
    refine ⟨_, hexec, SMap.find_del_same .., fun a => ?_⟩
    have hend : (frameKey die.toNat frame.toNat + 1) * 2 ^ 25 = frameKey die.toNat frame.toNat * 2 ^ 25 + 2 ^ 25 := by
      rw [Nat.add_mul, Nat.one_mul]
    rw [hend]
    exact Memory.read_zero _ _ a hwf

end Sys2Proof.Claims
end

section
/-! SUPPORT. What stops the commands of a function leaves the registers of every queue alone (R244, R245, R264): operations, contexts
and transfers that end, and the stores that go out. -/

namespace Sys2Proof.Machine

open Sys2Proof.Claims

theorem Quiet.queues {s t : State} (h : Quiet s t) : t.queues = s.queues := (congrArg State.queues h.rest :)

/-- A chain of changes that each leave the queues alone. -/
theorem foldl_queues {α : Type} {f : State → α → State} (hf : ∀ t x, (f t x).queues = t.queues) (l : List α) (s : State) :
    (l.foldl f s).queues = s.queues := foldl_view hf l s

theorem State.ligControl_queues (s : State) (o : LigOp) (ltype : Nat) : (s.ligControl o ltype).queues = s.queues :=
  (congrArg State.queues (s.ligControl_sansSends o ltype) :)

theorem State.ligGone_queues (s : State) (o : LigOp) (q n status : Nat) : (s.ligGone o q n status).queues = s.queues :=
  (s.trace_quiet ..).queues

theorem State.ligClose_queues (s : State) (o : LigOp) (status detail : Nat) : (s.ligClose o status detail).queues = s.queues := by
  cases ho : o.owner with
  | cmd r =>
    rw [State.ligClose_ofCmd ho]
    exact s.ligGone_queues ..
  | cp2 c i =>
    rw [State.ligClose_ofCtx ho]
    dsimp only
    split
    · exact s.ligGone_queues ..
    · exact s.ligGone_queues ..

theorem State.ligLost_queues (s : State) (o : LigOp) (rank : Nat) : (s.ligLost o rank).queues = s.queues :=
  (State.ligControl_queues ..).trans (s.ligClose_queues ..)

theorem State.ligEnd_queues (s : State) (o : LigOp) (status detail : Nat) : (s.ligEnd o status detail).queues = s.queues := by
  unfold State.ligEnd
  extract_lets s0 s1
  have hs0 : s0.queues = s.queues := by
    show (if status = 2 ∨ status = 7 then _ else s : State).queues = s.queues
    split <;> rfl
  have hs1 : s1.queues = s.queues := ((State.ligControl_queues ..).trans (s0.ligClose_queues ..)).trans hs0
  split
  · exact s.ligClose_queues ..
  · split
    · exact hs1
    · exact (foldl_queues (fun t o => t.ligLost_queues o _) _ _).trans hs1

/-- The contexts of a command no longer run it. -/
theorem State.dropJobs_queues (s : State) (l : List CtxRef) :
    (l.foldl (fun s x => s.updCtxOf x (fun y => { y with job := none })) s).queues = s.queues :=
  foldl_queues (f := fun (u : State) x => u.updCtxOf x fun y => { y with job := none }) (fun _ _ => rfl) l s

theorem State.launchEnd_queues (s : State) (r : CmdRef) : (s.launchEnd r).queues = s.queues := by
  unfold State.launchEnd
  dsimp only
  split
  · rfl
  · split
    · exact (State.dropJobs_queues _ _).trans (foldl_queues (fun t o => t.ligEnd_queues o _ _) _ s)
    · rfl

theorem State.goIdle_queues (s : State) (c : CtxRef) (code : BitVec 16) (reported : Bool) :
    (s.goIdle c code reported).queues = s.queues := by
  unfold State.goIdle
  dsimp only
  split
  · exact (State.trace_quiet ..).queues
  · exact (State.launchEnd_queues ..).trans (State.trace_quiet ..).queues

theorem State.stopXfers_queues (s : State) (r : CmdRef) (l : List CtxRef) : (s.stopXfers r l).queues = s.queues :=
  foldl_queues (f := fun (u : State) x => u.updCtxOf x fun y => { y with feedTags := [] }) (fun _ _ => rfl) l s

theorem State.endCommand_queues (s : State) (r : CmdRef) (status detail : Nat) : (s.endCommand r status detail).queues = s.queues := by
  unfold State.endCommand
  split
  · rfl
  · next c hc =>
    split
    · rfl
    · extract_lets s1 s2 s3
      have hs1 : s1.queues = s.queues := (State.stopXfers_queues ..).trans
        (foldl_queues (f := fun (u : State) x => u.stopCtx x) (fun _ _ => rfl) _ s)
      have hs3 : s3.queues = s1.queues := foldl_queues (fun t o => t.ligEnd_queues o 7 0) _ s2
      exact (s3.dropJobs_queues _).trans (hs3.trans hs1)

theorem State.haltCtx_queues (s : State) (x : CtxRef) : (s.haltCtx x).queues = s.queues := by
  unfold State.haltCtx
  split <;> rfl

theorem State.settleCtx_queues (s : State) (x : CtxRef) : (s.settleCtx x).queues = s.queues := by
  unfold State.settleCtx
  dsimp only
  split
  · exact s.goIdle_queues ..
  · rfl

theorem State.graceOver_queues (s : State) (c : Cmd) : (s.graceOver c).queues = s.queues :=
  (foldl_queues (fun t x => t.settleCtx_queues x) _ _).trans (foldl_queues (fun t x => t.haltCtx_queues x) _ s)

theorem State.cancelLaunch_queues (s : State) (c : Cmd) (grace : Bool) : (s.cancelLaunch c grace).queues = s.queues := by
  unfold State.cancelLaunch
  extract_lets s1 s2
  have hs2 : s2.queues = s.queues := foldl_queues (fun t x => by split <;> rfl) c.ctxs s1
  split
  · exact State.endCommand_queues ..
  · split
    · exact hs2
    · exact (s2.graceOver_queues c).trans hs2

theorem State.cancelColl_queues {s t : State} {c : Cmd} (h : s.cancelColl c = some t) : t.queues = s.queues := by
  unfold State.cancelColl at h
  split at h
  · exact nomatch h
  · split at h
    · exact nomatch h
    · cases h
      exact s.ligEnd_queues ..

theorem State.cancelFeed_queues {s t : State} {c : Cmd} (h : s.cancelFeed c = some t) : t.queues = s.queues := by
  unfold State.cancelFeed at h
  dsimp only at h
  split at h
  · exact nomatch h
  · split at h
    · exact nomatch h
    · cases h
      rfl

theorem State.cancelTarget_queues {s t : State} {c : Cmd} {grace : Bool} (h : s.cancelTarget c grace = some t) :
    t.queues = s.queues := by
  unfold State.cancelTarget at h
  split at h
  · split at h
    · next s1 hcoll =>
      cases h
      exact State.cancelColl_queues hcoll
    · cases h
      rfl
  · split at h
    · cases h
      exact s.endCommand_queues ..
    · split at h
      · cases h
        exact s.cancelLaunch_queues ..
      · split at h
        · exact State.cancelFeed_queues h
        · split at h
          · exact State.cancelColl_queues h
          · exact nomatch h

/-! The stores of a command that has ended go out (R158, R159, R235). -/

theorem State.stackWrite_queues {s t : State} {a n fn hint : Nat} (h : s.stackWrite a n fn hint = some t) : t.queues = s.queues := by
  refine foldl_bind_view (view := State.queues) (fun s p t ht => ?_) (pieces a n) h
  obtain ⟨d, -, rfl⟩ := Option.map_eq_some_iff.mp ht
  have hcached := s.updCache_looked p.1 fn (fun _ => d)
  unfold State.wroteLine
  split <;> exact hcached.queues

theorem State.countHostLine_queues (s : State) (ag : Agent) (wr : Bool) (va : Nat) :
    (s.countHostLine ag wr va).queues = s.queues := by
  unfold State.countHostLine
  dsimp only
  split
  · exact (State.record_quiet _ _ _).queues
  · rfl

theorem State.writeLoc_queues (s : State) (ag : Agent) (va : Nat) (l : Loc) (bs : List Byte) :
    (s.writeLoc ag va l bs).left.queues = s.queues := by
  unfold State.writeLoc
  split
  · split
    · next t ht => exact (State.stackWrite_queues ht :)
    · rfl
  · exact foldl_queues (fun t p => t.countHostLine_queues ..) _ _
  · split
    · rfl
    · split
      · next t ht => exact (congrArg State.queues (State.sendMsg_sansSends ht) :)
      · rfl
      · rfl

theorem accEach_view {β δ : Type} {view : State → δ} {f : β → State → Acc Unit} (hf : ∀ x t, view (f x t).left = view t)
    (l : List β) (s : State) : view (accEach f l s).left = view s := by
  induction l generalizing s with
  | nil => rfl
  | cons x l ih => exact acc_bind_view (hf x s) fun _ t => ih t

theorem State.drainEntry_queues (s : State) (ag : Agent) (k : Nat) (e : SbEntry) : (s.drainEntry ag k e).left.queues = s.queues :=
  accEach_view (fun _ t => acc_bind_view (t.writeLoc_queues _ _ _ _) fun _ _ => rfl) _ s

theorem State.drainLeft_queues (r : CmdRef) (x : CtxRef) (n : Nat) {s t : State} (h : State.drainLeft r x n s = some t) :
    t.queues = s.queues := by
  induction n generalizing s with
  | zero => exact Option.some.inj h ▸ rfl
  | succ n ih =>
    unfold State.drainLeft at h
    dsimp only at h
    split at h
    · exact Option.some.inj h ▸ rfl
    · next e he =>
      have hdrained := s.drainEntry_queues { s.ctxAgent x with cmd := some r } x.key e
      split at h
      · next u hu =>
        rw [hu] at hdrained
        exact (ih h).trans hdrained
      · next reason u hu =>
        rw [hu] at hdrained
        exact (ih h).trans hdrained
      · exact nomatch h

theorem State.drainCmd_queues {s t : State} {c : Cmd} (h : s.drainCmd c = some t) : t.queues = s.queues :=
  foldl_bind_view (view := State.queues) (fun _ _ _ hu => State.drainLeft_queues _ _ _ hu) _ h

theorem State.resetDrop_queues (s : State) (c : Cmd) : (s.resetDrop c).queues = s.queues := by
  unfold State.resetDrop
  split
  · rfl
  · split
    · rfl
    · next t ht => split <;> exact (State.drainCmd_queues ht :)

end Sys2Proof.Machine
end

section
/-! SUPPORT. Host links and functions (R255 to R258, R264, R361): the queues of a function that is reset, and what the other steps of
its reset leave when it has no command, frame or page table. -/

namespace Sys2Proof.Machine

open Sys2Proof.Claims

theorem runs_if {i : Instr} {s t u : State} {b : Prop} [Decidable b] {P : State → Prop} (h : exec i s = .next (if b then t else u))
    (hb : b) (ht : P t) : Runs i s P :=
  ⟨t, by rw [h, if_pos hb], ht⟩

theorem runs_else {i : Instr} {s t u : State} {b : Prop} [Decidable b] {P : State → Prop} (h : exec i s = .next (if b then t else u))
    (hb : ¬ b) (hu : P u) : Runs i s P :=
  ⟨u, by rw [h, if_neg hb], hu⟩

theorem SMap.find_absent {α : Type} {m : SMap α} {k : Nat} (h : ∀ p ∈ m, p.1 ≠ k) : SMap.find m k = none := by
  cases hfind : SMap.find m k with
  | none => rfl
  | some v => exact absurd rfl (h _ (SMap.mem_of_find hfind))

/-- Every key of a list is deleted. -/
theorem SMap.find_dels {α : Type} {l : List Nat} {k : Nat} (hk : k ∈ l) (m : SMap α) :
    SMap.find (l.foldl (fun m q => SMap.del m q) m) k = none := by
  have hkeep (l : List Nat) : ∀ m : SMap α, (∀ p ∈ m, p.1 ≠ k) → ∀ p ∈ l.foldl (fun m q => SMap.del m q) m, p.1 ≠ k := by
    induction l with
    | nil => exact fun _ h => h
    | cons q l ih => exact fun m h => ih _ fun p hp => h p (List.mem_filter.mp hp).1
  refine SMap.find_absent ?_
  induction l generalizing m with
  | nil => exact nomatch hk
  | cons q l ih =>
    obtain rfl | hk := List.mem_cons.mp hk
    · refine hkeep l _ fun p hp => ?_
      simpa using (List.mem_filter.mp hp).2
    · exact ih hk _

/-- A queue of a function other than function 0, which owns the queues that are not listed. -/
theorem State.mem_queuesOf {s : State} {q n : Nat} (howner : (s.queue q).owner = n) (hn : n ≠ 0) : q ∈ s.queuesOf n := by
  cases hfind : SMap.find s.queues q with
  | none =>
    have hdefault : s.queue q = {} := by rw [State.queue, SMap.get, hfind]; rfl
    rw [hdefault] at howner
    exact absurd howner.symm hn
  | some x =>
    have hx : s.queue q = x := by rw [State.queue, SMap.get, hfind]; rfl
    rw [hx] at howner
    exact List.mem_map.mpr ⟨(q, x), List.mem_filter.mpr ⟨SMap.mem_of_find hfind, beq_iff_eq.mpr howner⟩, rfl⟩

theorem State.disableQueues_owner (s : State) (l : List Nat) (q : Nat) : ((s.disableQueues l).queue q).owner = (s.queue q).owner := by
  induction l generalizing s with
  | nil => rfl
  | cons k l ih =>
    refine (ih _).trans ?_
    rw [State.queue_updQueue]
    split
    · next h => rw [h]
    · rfl

/-- The first step of a reset stops the queues of the function, and cancels its commands (R264). -/
theorem State.resetBegin_queues (s : State) (n : Nat) : (s.resetBegin n).queues = (s.disableQueues (s.queuesOf n)).queues := by
  have hoff : ((s.queuesOf n).foldl (fun s q => s.updQueue q (fun x => { x with en := false }))
      (s.updFunc n (fun f => { f with resetting := true }))).queues = (s.disableQueues (s.queuesOf n)).queues := by
    have h (l : List Nat) : ∀ u v : State, u.queues = v.queues → (l.foldl (fun s q => s.updQueue q (fun x => { x with en := false })) u).queues =
        (v.disableQueues l).queues := by
      induction l with
      | nil => exact fun _ _ h => h
      | cons q l ih =>
        refine fun u v h => ih _ _ ?_
        simp only [State.updQueue, State.queue, h]
    exact h _ _ _ rfl
  refine (foldl_queues (fun t c => ?_) _ _).trans hoff
  cases hc : t.cancelTarget c false with
  | none => rfl
  | some u => exact State.cancelTarget_queues hc

/-- Cores are cleared one after the other (R271). -/
def State.clearCores (s : State) (l : List Nat) : State := l.foldl (fun s k => s.clearCore k) s

theorem State.clearCores_eq (s : State) (l : List Nat) :
    s.clearCores l = { s with cores := (s.clearCores l).cores, free := (s.clearCores l).free } := by
  induction l generalizing s with
  | nil => rfl
  | cons k l ih => exact ih _

theorem State.clearCores_ink {s : State} {l : List Nat} {k : Nat} (h : k ∈ l ∨ (s.core k).ink = []) :
    ((s.clearCores l).core k).ink = [] := by
  induction l generalizing s with
  | nil => exact h.resolve_left (fun hk => nomatch hk)
  | cons i l ih =>
    refine ih ?_
    by_cases hi : k = i
    · obtain ⟨base, hcleared⟩ := s.clearCore_core_same i
      subst hi
      exact .inr (by rw [hcleared]; rfl)
    · refine h.imp (fun hk => (List.mem_cons.mp hk).resolve_left hi) fun hink => ?_
      rw [State.clearCore_core_ne _ hi]
      exact hink

theorem State.releaseFrames_queues (s : State) (l : List Nat) : (l.foldl (fun s f => s.releaseFrame f) s).queues = s.queues :=
  foldl_queues (f := fun (u : State) k => u.releaseFrame k) (fun _ _ => rfl) l s

theorem State.dropTable_queues (s : State) (n : Nat) (new : Option Nat) : (s.dropTable n new).queues = s.queues := by
  unfold State.dropTable
  dsimp only
  split <;> rfl

theorem State.resetEnd_queues (s : State) (n : Nat) :
    (s.resetEnd n).queues = (s.queuesOf n).foldl (fun m q => SMap.del m q) s.queues := by
  unfold State.resetEnd
  extract_lets s1 s2 mine s3 held s4 s5 s6
  have hs3 : s3.queues = s.queues := foldl_queues (f := fun (u : State) k => u.clearCore k) (fun _ _ => rfl) mine s2
  have hs4 : s4.queues = s.queues := (s3.releaseFrames_queues held).trans hs3
  have hs5 : s5.queues = s.queues := by
    show (if (s4.func n).tbValid then s4.dropTable n none else s4).queues = s.queues
    split
    · exact (s4.dropTable_queues n none).trans hs4
    · exact hs4
  exact congrArg ((s.queuesOf n).foldl (fun m q => SMap.del m q)) (show s6.queues = s.queues from hs5)

/-- A function's reset leaves its queues disabled, however far its commands let it go on (R264). -/
theorem State.resetOne_disabled {s : State} {n q : Nat} (hn : n ≠ 0) (howner : (s.queue q).owner = n) :
    (((s.resetBegin n).resetOn n).queue q).en = false := by
  generalize hu : s.resetBegin n = u
  have hqueue : u.queue q = (s.disableQueues (s.queuesOf n)).queue q := by
    rw [State.queue, ← hu, State.resetBegin_queues]
    rfl
  have hoff : (u.queue q).en = false := by
    rw [hqueue, State.disableQueues_en]
    simp [State.mem_queuesOf howner hn]
  have huowner : (u.queue q).owner = n := by rw [hqueue, State.disableQueues_owner, howner]
  unfold State.resetOn
  extract_lets qs mine s1
  have hs1 : s1.queues = u.queues := foldl_queues (fun t c => t.resetDrop_queues c) _ u
  have hs1q : s1.queue q = u.queue q := by rw [State.queue, hs1]; rfl
  split
  · rw [hs1q, hoff]
  · have hgone : SMap.find (s1.resetEnd n).queues q = none := by
      rw [State.resetEnd_queues]
      exact SMap.find_dels (State.mem_queuesOf (hs1q ▸ huowner) hn) _
    rw [State.queue, SMap.get, hgone]
    rfl

/-- A function has been reset: what it had is gone, and only dies, windows, cores, functions and queues differ (R264). -/
structure FunctionReset (s t : State) (n : Nat) : Prop where
  rest : t = { s with dies := t.dies, windows := t.windows, cores := t.cores, free := t.free, funcs := t.funcs, queues := t.queues }
  window : ∀ w, (t.window w).tenant = n → (t.window w).valid = false
  msix : (t.func n).msixEn = false ∧ (t.func n).msix = [] ∧ (t.func n).msixPend = []
  ink : ∀ k ∈ s.coresOf n, (t.core k).ink = []

/-- The windows of a function are closed. -/
theorem State.closeWindows_window {s t : State} {n : Nat}
    (ht : t.windows = SMap.mapVals s.windows (fun _ w => if w.tenant = n then { w with valid := false } else w)) (w : Nat) :
    (t.window w).tenant = n → (t.window w).valid = false := by
  have hwindow : t.window w = if (s.window w).tenant = n then { s.window w with valid := false } else s.window w := by
    rw [State.window, ht, SMap.get_mapVals]
    · rfl
    · split <;> rfl
  rw [hwindow]
  split
  · exact fun _ => rfl
  · next hother => exact fun hown => absurd hown hother

theorem State.resetEnd_reset {s : State} {n : Nat} (hframes : s.frames = []) (htable : (s.func n).tbValid = false) :
    FunctionReset s (s.resetEnd n) n := by
  unfold State.resetEnd
  extract_lets s1 s2 mine s3 held s4 s5 s6
  have hs3 : s3 = { s2 with cores := s3.cores, free := s3.free } := s2.clearCores_eq mine
  have hs4 : s4 = s3 := by
    have hheld : held = [] := by
      show (s3.frames.filter (fun p => p.2 == .held n)).map (fun p => p.1) = []
      rw [hs3]
      show (s.frames.filter (fun p => p.2 == .held n)).map (fun p => p.1) = []
      rw [hframes]
      rfl
    show held.foldl (fun s f => s.releaseFrame f) s3 = s3
    rw [hheld]
    rfl
  have hs5 : s5 = s3 := by
    have hnone : (s3.func n).tbValid = false := by
      rw [hs3]
      exact htable
    show (if (s4.func n).tbValid then s4.dropTable n none else s4) = s3
    rw [hs4, hnone, if_neg Bool.false_ne_true]
  have hs6 : s6 = (s3.updFunc n (fun f =>
      { f with msixEn := false, msix := [], msixPend := [], cto := 0, resetting := false })).dropTlb n := by
    show (s5.updFunc n _).dropTlb n = _
    rw [hs5]
  have hink (k : Nat) : (s6.core k).ink = (s3.core k).ink := by
    rw [hs6]
    show (SMap.get (SMap.mapVals s3.cores (fun _ k => { k with tlb := k.tlb.filter (fun t => t.fn != n) })) k {}).ink = _
    rw [SMap.get_mapVals]
    · rfl
    · rfl
  refine ⟨?_, State.closeWindows_window (s := s) ?_, ?_, fun k hk => ?_⟩
  · rw [hs6, hs3]
    rfl
  · show s6.windows = _
    rw [hs6, hs3]
    rfl
  · show (s6.func n).msixEn = false ∧ (s6.func n).msix = [] ∧ (s6.func n).msixPend = []
    have hfunc : s6.func n = { s3.func n with msixEn := false, msix := [], msixPend := [], cto := 0, resetting := false } := by
      rw [hs6]
      exact SMap.get_set_same ..
    rw [hfunc]
    exact ⟨rfl, rfl, rfl⟩
  · exact (hink k).trans (State.clearCores_ink (s := s2) (.inl hk))

/-- A function with no command, frame or page table is reset at once (R264). -/
theorem State.resetOne_idle {s : State} {n : Nat} (hcmds : s.cmds = []) (hframes : s.frames = [])
    (htable : (s.func n).tbValid = false) : FunctionReset s ((s.resetBegin n).resetOn n) n := by
  have hbegin : s.resetBegin n =
      (s.queuesOf n).foldl (fun s q => s.updQueue q (fun x => { x with en := false })) (s.updFunc n (fun f => { f with resetting := true })) := by
    unfold State.resetBegin
    extract_lets qs s1
    have hnone : s1.cmds = [] := hcmds ▸ foldl_view (view := State.cmds) (f := fun (u : State) q => u.updQueue q (fun x => { x with en := false }))
      (fun _ _ => rfl) qs (s.updFunc n (fun f => { f with resetting := true }))
    rw [hnone]
    rfl
  have hbegun : s.resetBegin n = { s.updFunc n (fun f => { f with resetting := true }) with queues := (s.resetBegin n).queues } := by
    rw [hbegin]
    exact State.disableQueues_eq ..
  generalize s.resetBegin n = u at hbegun
  have hon : u.resetOn n = u.resetEnd n := by
    have hnone : u.cmds = [] := by rw [hbegun]; exact hcmds
    simp [State.resetOn, hnone]
  have hfunc : u.func n = { s.func n with resetting := true } := by
    rw [hbegun]
    exact SMap.get_set_same ..
  obtain ⟨hrest, hwindow, hmsix, hink⟩ := State.resetEnd_reset (s := u) (n := n) (by rw [hbegun]; exact hframes) (by rw [hfunc]; exact htable)
  rw [hon]
  refine ⟨?_, hwindow, hmsix, fun k hk => hink k ?_⟩
  · rw [hrest, hbegun]
    rfl
  · rw [hbegun]
    exact hk

/-- A reset of a virtual function, or of a physical function without any (R264). -/
theorem State.flr_virtual {s : State} {n : Nat} (hn : 4 ≤ n) : s.flr n = (s.resetBegin n).resetOn n := by
  have hvirtual : ¬ n < 4 := by omega
  simp [State.flr, hvirtual]

theorem State.flr_physical {s : State} {h : Nat} (hh : h < 4) (hnone : (s.link h).numVfs = 0) :
    s.flr h = ((s.resetBegin h).resetOn h).updLink h (fun l => { l with numVfs := 0 }) := by
  simp [State.flr, hh, State.vfsOf, hnone]

/-- A link, its functions and the functions' MSI-X tables after a reset that ends at once. -/
theorem State.linkDown_idle {s : State} {h : Nat} (hh : h < 4) (hnone : (s.link h).numVfs = 0) (hcmds : s.cmds = []) (hframes : s.frames = [])
    (htable : (s.func h).tbValid = false) :
    ∃ u, FunctionReset s u h ∧
      s.linkDown h = { u with
        links := (s.linkDown h).links
        mgmt := (s.linkDown h).mgmt } ∧
      (s.linkDown h).link h = { s.link h with numVfs := 0, up := false, training := false, reads := [] } := by
  have hreset := State.resetOne_idle (n := h) hcmds hframes htable
  have hflr := State.flr_physical (s := s) hh hnone
  generalize (s.resetBegin h).resetOn h = u at hreset hflr
  have hlink : u.link h = s.link h := by rw [hreset.rest]; rfl
  have hdown : ((s.flr h).updLink h (fun l => { l with up := false, training := false, reads := [] })).link h =
      { s.link h with numVfs := 0, up := false, training := false, reads := [] } := by
    rw [State.link_updLink_same, hflr, State.link_updLink_same, hlink]
  refine ⟨u, hreset, ?_, ?_⟩
  · unfold State.linkDown
    rw [hflr]
    extract_lets s1
    split <;> rfl
  · unfold State.linkDown
    extract_lets s1
    split <;> exact hdown

theorem siblingLink_ne (h : Nat) : siblingLink h ≠ h := by
  unfold siblingLink
  split <;> omega

end Sys2Proof.Machine

namespace Sys2Proof.Claims

open Sys2Proof.Machine

/-- Settles O50: a link's or a function's reset is its two steps (`State.resetOne_disabled`), and ends at once without a command
(`State.resetOne_idle`, `State.linkDown_idle`). -/
theorem hostLinksComplete : Obligations.HostLinksComplete := by
  unfold Obligations.HostLinksComplete
  intro s link bifur perst mode n fn vfs h l gone
  have hh : h < 4 := link.isLt
  have hgone {k : Nat} {u : State} (hreset : FunctionReset s u k) : gone k u := ⟨hreset.window, hreset.msix⟩
  refine ⟨fun hperst => runs_else (exec_perstDeassertion ..) ?_ ?_, fun hperst => runs_if (exec_perstDeassertion ..) ?_ rfl,
    fun hopen htraining hdown hexists hlegal => ?_, fun hup hnone hcmds hframes htable => ?_, fun hdown => ?_,
    fun hexists hn => runs_if (exec_functionLevelReset ..) hexists fun q howner => ?_,
    fun hexists hn hcmds hframes htable => runs_if (exec_functionLevelReset ..) hexists ?_,
    fun hfn hexists => runs_if (exec_numvfsWrite ..) (by simp [hfn, hexists]) ⟨State.link_updLink_same .., rfl, fun i hi => ?_⟩⟩
  · simp [show (s.link link.toNat).perst = true from hperst]
  · rw [State.link_updLink, if_neg (siblingLink_ne h), State.link_updLink_same, State.link_updLink_same]
    exact ⟨rfl, rfl, rfl, rfl, rfl⟩
  · simp [show (s.link link.toNat).perst = false from hperst]
  · have hmay : ¬ (!s.linksOpen || !l.training || l.up || (h % 2 == 1 && !l.bifur) || !(modeLegal mode l.bifur)) = true := by
      have : (h % 2 == 1 && !l.bifur) = false := by
        obtain heven | hbifur := hexists
        · rw [heven]; rfl
        · rw [hbifur]; exact Bool.and_false _
      simp [hopen, htraining, hdown, hlegal, this]
    have hstep : (let s1 := s.updLink h (fun l => { l with up := true, training := false, mode := mode })
        if s1.mgmt.isNone then { s1 with mgmt := some h } else s1) =
        { s.updLink h (fun l => { l with up := true, training := false, mode := mode }) with mgmt := some (s.mgmt.getD h) } := by
      cases hmgmt : s.mgmt with
      | none => exact if_pos (show s.mgmt.isNone = true by rw [hmgmt]; rfl)
      | some m =>
        refine (if_neg (show ¬ s.mgmt.isNone = true by rw [hmgmt]; exact Bool.false_ne_true)).trans ?_
        rw [Option.getD_some, ← hmgmt]
        rfl
    refine ⟨_, show Host.Outcome.next _ = _ from congrArg _ ((if_neg hmay).trans hstep), SMap.get_set_same .., rfl, rfl⟩
  · obtain ⟨u, hreset, hrest, hlink⟩ := State.linkDown_idle hh hnone hcmds hframes htable
    have hexec : exec (.hostLinkReset ⟨link, perst⟩) s = .next ((s.linkDown h).updLink h (fun l =>
        if perst then { l with perst := true, training := false } else { l with training := true })) := by
      cases perst <;> simp [execHostLinkReset, show (s.link link.toNat).up = true from hup, h]
    refine ⟨_, hexec, ?_, ?_⟩
    · have hown : gone h u := hgone hreset
      rw [hrest]
      exact hown
    · rw [State.link_updLink_same, hlink]
      refine ⟨by cases perst <;> rfl, by cases perst <;> rfl, by cases perst <;> rfl, by cases perst <;> rfl, fun a => ?_⟩
      rw [hrest, hreset.rest]
      rfl
  · have hexec : exec (.hostLinkReset ⟨link, perst⟩) s =
        .next (if perst then s.updLink h (fun l => { l with perst := true, training := false }) else s) := by
      simp [execHostLinkReset, show (s.link link.toNat).up = false from hdown, h]
    cases perst
    · exact ⟨_, hexec, rfl, rfl⟩
    · exact ⟨_, hexec, rfl, SMap.get_set_same ..⟩
  · rw [State.flr_virtual hn]
    exact State.resetOne_disabled (by omega) howner
  · have hreset := State.resetOne_idle (n := n.toNat) hcmds hframes htable
    rw [State.flr_virtual hn]
    refine ⟨hgone hreset, fun a => ?_, ?_, hreset.ink⟩
    · rw [hreset.rest]
    · rw [hreset.rest]
  · rw [State.link_updLink, if_neg hi.symm]

end Sys2Proof.Claims
end

section
/-! SUPPORT. Control of an UP port (R282, R283, R289, R291, R299, R301, R303): a command that updates one port leaves that port as
the update says and every other one as it was. -/

namespace Sys2Proof.Claims

open Sys2Proof.Machine

theorem onlyPort_updPort (s : State) (p : Nat) (f : Port → Port) : OnlyPort s (s.updPort p f) p :=
  ⟨rfl, fun q hq => by rw [State.port_updPort, if_neg hq.symm]⟩

/-- A command that updates one port leaves it as the update says. -/
theorem leavesPort_updPort {i : Instr} {s : State} {p : Nat} {f : Port → Port} {x : Port} (h : exec i s = .next (s.updPort p f))
    (hx : f (s.port p) = x) : LeavesPort i s p x :=
  ⟨_, h, onlyPort_updPort s p f, (State.port_updPort_same ..).trans hx⟩

/-- A command for UP ports updates one that is UP. -/
theorem leavesPort_up {i : Instr} {s : State} {p : Nat} {f : Port → Port} {x : Port}
    (h : exec i s = .next (if (s.port p).state != .up then s else s.updPort p f)) (hup : (s.port p).state = .up)
    (hx : f (s.port p) = x) : LeavesPort i s p x :=
  leavesPort_updPort (h.trans (congrArg _ (if_neg (by simp [hup])))) hx

/-- A command for UP ports has no effect on another. -/
theorem runs_notUp {i : Instr} {s u : State} {p : Nat} (h : exec i s = .next (if (s.port p).state != .up then s else u))
    (hup : (s.port p).state ≠ .up) : Runs i s (fun t => t = s) :=
  runs_if h (by simpa using hup) rfl

/-- Settles O55: each command updates one port, when it is UP (`leavesPort_up`) or whatever its state (`leavesPort_updPort`). -/
theorem linkControlComplete : Obligations.LinkControlComplete := by
  unfold Obligations.LinkControlComplete
  intro s port lane freed seq free p x l y rest others
  refine ⟨fun hup => ⟨leavesPort_up (exec_creditReturn ..) hup rfl, leavesPort_up (exec_nak ..) hup ?_,
      leavesPort_up (exec_probe ..) hup rfl, leavesPort_up (exec_creditReset ..) hup rfl⟩,
    fun hup => ⟨runs_notUp (exec_creditReturn ..) hup, runs_notUp (exec_nak ..) hup, runs_notUp (exec_probe ..) hup,
      runs_notUp (exec_creditReset ..) hup⟩,
    leavesPort_updPort (exec_alive ..) rfl, leavesPort_updPort (exec_hold ..) rfl, fun hpart => ?_, fun hpart => ?_⟩
  · have hretry : y.retry = x.retry := by
      show (Port.inWindow ..).retry = _
      unfold Port.inWindow
      split <;> rfl
    dsimp only
    rw [show (x.inWindow s.mod.timeNs) = y from rfl, hretry]
    cases hrest : x.retry.dropWhile (fun f => f.1 != seq.toNat) with
    | nil => simp [rest, hrest]
    | cons f fs => simp [rest, hrest]
  · obtain ⟨m, hm⟩ := Option.isSome_iff_exists.mp hpart
    exact leavesPort_updPort (f := fun x => { x with control := x.control ++ [.probe l], holdSeen := x.holdSeen.filter (fun k => k != l) })
      (by rw [exec_probeTimer, execProbeTimer, show (s.port port.toNat).partialOf lane.toNat = some m from hm]) rfl
  · exact ⟨s, by rw [exec_probeTimer, execProbeTimer, show (s.port port.toNat).partialOf lane.toNat = none from hpart], rfl⟩

end Sys2Proof.Claims
end

section
/-! SUPPORT. States of an optical port (R278 to R280, R292, R298 to R301, R304): a port with no message queued or arriving changes
alone, and what a retrain does to messages changes no port's state and no count of stalls. -/

namespace Sys2Proof.Machine

open Sys2Proof.Claims

/-- No message arrives, so none is discarded. -/
theorem State.discardPartials_empty {s : State} {p : Nat} (hrx : (s.port p).rx = []) : s.discardPartials p = s := by
  have hnone (l : Nat) : s.discardPartial p l = s := by
    have hpart : (s.port p).partialOf l = none := by rw [Port.partialOf, hrx]; rfl
    rw [State.discardPartial, hpart]
  have hfold (l : List Nat) : l.foldl (fun s l => s.discardPartial p l) s = s := by
    induction l with
    | nil => rfl
    | cons i l ih => rw [List.foldl_cons, hnone, ih]
  exact hfold _

theorem State.portGone_empty {s : State} {p : Nat} (hrx : (s.port p).rx = []) (htxq : (s.port p).txq = []) (st : PortState) :
    s.portGone p st = s.updPort p (fun x => x.unlinked st) := by
  rw [State.portGone, State.discardPartials_empty hrx, State.emptyQueue, State.port_updPort_same,
    show ((s.port p).unlinked st).txq = [] from htxq, List.foldl_nil]

/-- No message waits, so none takes another route. -/
theorem State.retryWaiting_empty {s : State} (htxq : ∀ p, (s.port p).txq = []) : s.retryWaiting = s := by
  have hfold (l : List Nat) : ∀ f : State → Nat → State, (∀ p, f s p = s) → l.foldl f s = s := by
    induction l with
    | nil => exact fun _ _ => rfl
    | cons i l ih => exact fun f hf => by rw [List.foldl_cons, hf, ih f hf]
  refine hfold _ _ fun p => ?_
  rw [htxq p, List.foldl_nil, ite_self]

theorem State.updPort_txq {s : State} {p : Nat} {f : Port → Port} (hf : (f (s.port p)).txq = []) (htxq : ∀ q, (s.port q).txq = [])
    (q : Nat) : ((s.updPort p f).port q).txq = [] := by
  rw [State.port_updPort]
  split
  · exact hf
  · exact htxq q

/-- Class 7 messages not yet begun that wait at a port take another route (R300). -/
def State.rerouteUrgent (s : State) (p : Nat) : State :=
  (s.port p).txq.foldl (fun s i => if laneClass i.lane = 7 ∧ !i.committed ∧ !i.abort then (s.tryReroute p i).getD s else s) s

theorem State.startRetrain_up {s : State} {p : Nat} (hup : (s.port p).state = .up) (asks : Bool) :
    s.startRetrain p asks = ((s.discardPartials p).updPort p (fun x => Retrained x asks)).rerouteUrgent p := by
  unfold State.startRetrain
  rw [if_neg (by simp [hup])]
  rfl

theorem Retrained_txq (x : Port) (asks : Bool) : (Retrained x asks).txq = x.txq := by
  cases asks
  · rfl
  · rfl

theorem State.startRetrain_empty {s : State} {p : Nat} (hup : (s.port p).state = .up) (hrx : (s.port p).rx = [])
    (htxq : (s.port p).txq = []) (asks : Bool) : s.startRetrain p asks = s.updPort p (fun x => Retrained x asks) := by
  rw [State.startRetrain_up hup, State.discardPartials_empty hrx, State.rerouteUrgent, State.port_updPort_same, Retrained_txq, htxq,
    List.foldl_nil]

/-- What a retrain leaves of a state, whatever it does to the messages of the link: everything but the fabric, each port's state and
its count of stalls. -/
def State.retrainView (s : State) : State × (Nat → PortState × Nat) :=
  ({ s with fab := {} }, fun p => ((s.port p).state, SMap.get (s.port p).cnt 0x40 0))

theorem State.retrainView_rest {s t : State} (h : t.retrainView = s.retrainView) : t = { s with fab := t.fab } :=
  congrArg (fun v : State × (Nat → PortState × Nat) => { v.1 with fab := t.fab }) h

theorem State.retrainView_port {s t : State} (h : t.retrainView = s.retrainView) (p : Nat) :
    (t.port p).state = (s.port p).state ∧ SMap.get (t.port p).cnt 0x40 0 = SMap.get (s.port p).cnt 0x40 0 :=
  Prod.mk.inj (congrFun (congrArg Prod.snd h) p)

/-- An update of a port that keeps its state and its count of stalls. -/
theorem State.retrainView_updPort (s : State) (p : Nat) {f : Port → Port}
    (hf : ∀ x, (f x).state = x.state ∧ SMap.get (f x).cnt 0x40 0 = SMap.get x.cnt 0x40 0) :
    (s.updPort p f).retrainView = s.retrainView := by
  refine Prod.ext rfl (funext fun q => ?_)
  show (((s.updPort p f).port q).state, SMap.get ((s.updPort p f).port q).cnt 0x40 0) = _
  rw [State.port_updPort]
  split
  · next h => rw [(hf _).1, (hf _).2, h]; rfl
  · rfl

theorem Port.count_stalls {off : Nat} (hoff : off ≠ 0x40) (x : Port) (n : Nat) :
    (x.count off n).state = x.state ∧ SMap.get (x.count off n).cnt 0x40 0 = SMap.get x.cnt 0x40 0 :=
  ⟨rfl, SMap.get_set_ne _ _ _ _ _ hoff⟩

theorem State.abortForward_retrainView (s : State) (p lane : Nat) (m : RxMsg) : (s.abortForward p lane m).retrainView = s.retrainView := by
  unfold State.abortForward
  split
  · rfl
  · split
    · exact s.retrainView_updPort _ fun _ => ⟨rfl, rfl⟩
    · exact s.retrainView_updPort _ fun _ => ⟨rfl, rfl⟩

theorem State.discardPartials_retrainView (s : State) (p : Nat) : (s.discardPartials p).retrainView = s.retrainView := by
  refine foldl_view (f := fun (s : State) l => s.discardPartial p l) (fun t l => ?_) _ s
  unfold State.discardPartial
  split
  · rfl
  · extract_lets freed
    rw [State.retrainView_updPort, State.abortForward_retrainView]
    exact fun _ => ⟨rfl, rfl⟩

theorem State.moveOut_retrainView (s : State) (o : Option (Nat × Nat)) (q : Nat) : (s.moveOut o q).retrainView = s.retrainView := by
  cases o with
  | none => rfl
  | some _ => exact s.retrainView_updPort _ fun _ => ⟨rfl, rfl⟩

theorem State.tryReroute_retrainView {s t : State} {p : Nat} {i : TxItem} (h : s.tryReroute p i = some t) :
    t.retrainView = s.retrainView := by
  obtain ⟨r, -, hr⟩ := Option.bind_eq_some_iff.mp h
  dsimp only at hr
  split at hr
  · exact nomatch hr
  · cases hr
    rw [State.enqueue, State.retrainView_updPort _ _ (fun _ => ?_), State.moveOut_retrainView, State.retrainView_updPort]
    · exact fun x => Port.count_stalls (off := 0x50) (by decide) { x with txq := delFirst (fun y => y == i) x.txq } 1
    · exact ⟨rfl, rfl⟩

theorem State.rerouteUrgent_retrainView (s : State) (p : Nat) : (s.rerouteUrgent p).retrainView = s.retrainView := by
  refine foldl_view (view := State.retrainView) (fun t i => ?_) (s.port p).txq s
  split
  · cases h : t.tryReroute p i with
    | none => rfl
    | some u => exact State.tryReroute_retrainView h
  · rfl

theorem Retrained_stalls (x : Port) (asks : Bool) : SMap.get (Retrained x asks).cnt 0x40 0 = SMap.get x.cnt 0x40 0 := by
  refine (Port.count_stalls (by decide) _ 1).2.trans ?_
  cases asks
  · rfl
  · rfl

/-- A port that is UP enters RETRAIN, and its count of stalls stays. -/
theorem State.startRetrain_port {s t : State} {p : Nat} {asks : Bool} (hup : (s.port p).state = .up) (ht : s.startRetrain p asks = t) :
    t = { s with fab := t.fab } ∧ (t.port p).state = .retrain ∧ SMap.get (t.port p).cnt 0x40 0 = SMap.get (s.port p).cnt 0x40 0 := by
  rw [State.startRetrain_up hup] at ht
  have hdiscard := s.discardPartials_retrainView p
  generalize s.discardPartials p = u at ht hdiscard
  have hreroute := (u.updPort p (fun x => Retrained x asks)).rerouteUrgent_retrainView p
  rw [ht] at hreroute
  obtain ⟨hstate, hcnt⟩ := State.retrainView_port hreroute p
  rw [State.port_updPort_same] at hstate hcnt
  refine ⟨?_, hstate, hcnt.trans ((Retrained_stalls ..).trans (State.retrainView_port hdiscard p).2)⟩
  rw [State.retrainView_rest hreroute, State.updPort, State.updFab, State.retrainView_rest hdiscard]

end Sys2Proof.Machine

namespace Sys2Proof.Claims

open Sys2Proof.Machine

/-- Two updates of one port. -/
theorem onlyPort_updPort_updPort (s : State) (p : Nat) (f g : Port → Port) :
    OnlyPort s ((s.updPort p f).updPort p g) p :=
  ⟨rfl, fun q hq => by rw [State.port_updPort, if_neg hq.symm, State.port_updPort, if_neg hq.symm]⟩

/-- Settles O54: a port with no message queued or arriving changes alone (`State.portGone_empty`, `State.startRetrain_empty`,
`State.retryWaiting_empty`), and a stalled one that has messages enters RETRAIN all the same (`State.startRetrain_up`). -/
theorem portStatesComplete : Obligations.PortStatesComplete := by
  unfold Obligations.PortStatesComplete
  intro s fn port wmask partner from_ wave cor unc lane p x mgmt empty noQueues learn reached errors
  have htwice {i : Instr} {f g : Port → Port} {z : Port} (h : exec i s = .next ((s.updPort p f).updPort p g))
      (hz : g (f x) = z) : LeavesPort i s p z :=
    ⟨_, h, onlyPort_updPort_updPort s p f g, by rw [State.port_updPort_same, State.port_updPort_same]; exact hz⟩
  have hlearn (y : Port) : (learn y).txq = y.txq := by
    cases partner <;> rfl
  have hdrop (hup : x.state = .up) (hwave : Nat.testBit x.wmask wave.toNat = true) : exec (.wavelengthDrop port wave cor unc) s =
      .next (let s1 := s.updPort p (fun x => (x.count 0x20 cor.toNat).count 0x28 unc.toNat)
        if !decide (max 1 s.fab.corTh * 1024 ≤ cor.toNat ∨ max 1 s.fab.uncTh ≤ unc.toNat) then s1
        else if waves x.wmask ≤ 6 then s1.startRetrain p true
        else s1.updPort p (fun y => { y with wmask := y.wmask - 2 ^ wave.toNat }.count 0x38 1)) :=
    if_neg (by simp [show (s.port port.toNat).state = .up from hup, show (s.port port.toNat).wmask.testBit wave.toNat = true from hwave])
  refine ⟨fun hmgmt ⟨htxq, hrx⟩ hstate => ?_, fun hmgmt hen hfailed => ?_, fun hmgmt en => runs_else (exec_portEnableWrite ..) hmgmt rfl,
    fun hlit hen hstate hwaves hqueues => ?_, fun hup => ?_, fun hlit hen hstate hwaves => ?_, fun hup hoff => ?_,
    fun hup ⟨htxq, hrx⟩ => ?_, fun hup ⟨htxq, hrx⟩ hwant => ?_, fun hwant => runs_else (exec_retrainStart ..) (by
      rw [show (s.port port.toNat).wantRetrain = false from hwant]; decide) rfl,
    fun hstate hwaves hqueues => ?_, fun hstate hwaves hfails => ?_, fun hstate hwaves hfails ⟨htxq, hrx⟩ hnone => ?_,
    fun hup hwave hless => ?_, fun hup hwave hreached hleft => ?_, fun hup hwave hreached hleft ⟨htxq, hrx⟩ => ?_,
    fun hstate ⟨htxq, hrx⟩ => ?_, fun hup hpart => ?_, fun hpart => ?_⟩
  · refine htwice (f := fun x => x.unlinked .disabled) (g := fun x => { x with en := false }) ?_ rfl
    rw [exec_portEnableWrite, execPortEnableWrite, if_pos hmgmt, State.portEnable, ← State.portGone_empty hrx htxq]
    simp [show (s.port port.toNat).state ≠ .disabled from hstate, p]
  · refine leavesPort_updPort (f := fun x => { x with en := true, state := .dark, fails := 0 }) ?_ rfl
    rw [exec_portEnableWrite, execPortEnableWrite, if_pos hmgmt, State.portEnable]
    simp [show (s.port port.toNat).en = false from hen, hfailed, p]
  · refine leavesPort_updPort (f := fun y => learn { y.unlinked .up with wmask := wmask.toNat }) ?_ rfl
    rw [← State.retryWaiting_empty (s := s.updPort p (fun y => learn { y.unlinked .up with wmask := wmask.toNat }))
      (State.updPort_txq ((hlearn _).trans (hqueues p)) hqueues)]
    have hmay : ((s.port port.toNat).state == .dark || (s.port port.toNat).state == .training) = true := by simpa using hstate
    have hdown : ¬ (s.port port.toNat).state = .up := by
      obtain h | h := hstate <;> simp [show (s.port port.toNat).state = _ from h]
    simp [execLinkTrained, hdown, hlit, show (s.port port.toNat).en = true from hen, hmay, Nat.not_lt.mpr hwaves, p, learn]
  · refine leavesPort_updPort (f := learn) ?_ rfl
    simp [execLinkTrained, show (s.port port.toNat).state = .up from hup, p, learn]
  · refine leavesPort_updPort (f := fun y => { y with state := .training }) ?_ rfl
    have hmay : ((s.port port.toNat).state == .dark || (s.port port.toNat).state == .training) = true := by simpa using hstate
    have hdown : ¬ (s.port port.toNat).state = .up := by
      obtain h | h := hstate <;> simp [show (s.port port.toNat).state = _ from h]
    simp [execLinkTrained, hdown, hlit, show (s.port port.toNat).en = true from hen, hmay, hwaves, p]
  · refine ⟨s, ?_, rfl⟩
    have hmay : (!s.portsLit || !(s.port port.toNat).en ||
        !((s.port port.toNat).state == .dark || (s.port port.toNat).state == .training)) = true := by
      obtain h | h | h := hoff
      · rw [h]; rfl
      · rw [show (s.port port.toNat).en = false from h]; simp
      · simp [show (s.port port.toNat).state ≠ .dark from h.1, show (s.port port.toNat).state ≠ .training from h.2]
    simp only [exec_linkTrained, execLinkTrained, beq_iff_eq, show (s.port port.toNat).state ≠ .up from hup, if_false, hmay, if_true]
  · exact leavesPort_updPort ((exec_retrainRequest ..).trans (congrArg _ (State.startRetrain_empty hup hrx htxq false))) rfl
  · exact leavesPort_updPort ((exec_retrainStart ..).trans (congrArg _ ((if_pos hwant).trans (State.startRetrain_empty hup hrx htxq true)))) rfl
  · refine leavesPort_updPort (f := fun x => { x with
      state := .up, wmask := wmask.toNat, fails := 0, control := [.report x.whole]
      resend := x.retry.dropWhile (fun f => f.1 != from_.toNat) }) ?_ rfl
    rw [← State.retryWaiting_empty (s := s.updPort p _) (State.updPort_txq (hqueues p) hqueues)]
    simp [execRetrainEnd, show (s.port port.toNat).state = .retrain from hstate, hwaves, p]
  · refine leavesPort_updPort (f := fun x => { x with fails := x.fails + 1, retrains := satAdd 8 x.retrains 1 }.count 0x30 1) ?_ rfl
    simp [execRetrainEnd, show (s.port port.toNat).state = .retrain from hstate, Nat.not_le.mpr hwaves,
      show (s.port port.toNat).fails < 2 from hfails, p]
  · refine leavesPort_updPort (f := fun x => x.unlinked .dead) ?_ rfl
    have hevent (n : Nat) : (s.updPort p (fun x => x.unlinked .dead)).moduleEvent 2 n = s.updPort p (fun x => x.unlinked .dead) := by
      rw [State.moduleEvent, show (s.updPort p (fun x => x.unlinked .dead)).mgmt = none from hnone]
    simp [execRetrainEnd, show (s.port port.toNat).state = .retrain from hstate, Nat.not_le.mpr hwaves,
      Nat.not_lt.mpr (show 2 ≤ (s.port port.toNat).fails from hfails), State.portDead, State.portGone_empty (s := s) (p := port.toNat) hrx htxq]
    exact hevent _
  · refine leavesPort_updPort (f := fun x => (x.count 0x20 cor.toNat).count 0x28 unc.toNat) ?_ rfl
    exact (hdrop hup hwave).trans (congrArg _ (if_pos (by rw [decide_eq_false hless]; rfl)))
  · refine htwice (f := fun x => (x.count 0x20 cor.toNat).count 0x28 unc.toNat)
      (g := fun y => { y with wmask := y.wmask - 2 ^ wave.toNat }.count 0x38 1) ?_ rfl
    exact (hdrop hup hwave).trans (congrArg _ ((if_neg (by rw [decide_eq_true hreached]; decide)).trans (if_neg (by omega))))
  · refine htwice (f := fun x => (x.count 0x20 cor.toNat).count 0x28 unc.toNat) (g := fun y => Retrained y true) ?_ rfl
    have hport : (s.updPort p (fun x => (x.count 0x20 cor.toNat).count 0x28 unc.toNat)).port p = errors := State.port_updPort_same ..
    exact (hdrop hup hwave).trans (congrArg _ ((if_neg (by rw [decide_eq_true hreached]; decide)).trans ((if_pos hleft).trans
      (State.startRetrain_empty (hport ▸ hup) (hport ▸ hrx) (hport ▸ htxq) true))))
  · refine leavesPort_updPort (f := fun x => x.unlinked .dark) ?_ rfl
    have hmay : ((s.port port.toNat).state == .up || (s.port port.toNat).state == .training || (s.port port.toNat).state == .retrain) = true := by
      simpa [or_assoc] using hstate
    rw [exec_partnerLightLoss, execPartnerLightLoss, if_pos hmay, State.portGone_empty hrx htxq]
  · obtain ⟨m, hm⟩ := Option.isSome_iff_exists.mp hpart
    refine ⟨(s.updPort p (fun x => x.count 0x40 1)).startRetrain p true, ?_, ?_⟩
    · rw [exec_stallDeclare, execStallDeclare, show (s.port port.toNat).partialOf lane.toNat = some m from hm]
      simp [show (s.port port.toNat).state = .up from hup, p]
    · have hport : (s.updPort p (fun x => x.count 0x40 1)).port p = x.count 0x40 1 := State.port_updPort_same ..
      obtain ⟨hrest, hstate, hstalls⟩ := State.startRetrain_port (p := p) (asks := true) (by rw [hport]; exact hup) rfl
      refine ⟨hrest, hstate, hstalls.trans ?_⟩
      rw [hport]
      exact SMap.get_set_same ..
  · exact ⟨s, by rw [exec_stallDeclare, execStallDeclare, show (s.port port.toNat).partialOf lane.toNat = none from hpart], rfl⟩

end Sys2Proof.Claims
end

section
/-! SUPPORT. Flits of an optical port (R281 to R284, R289 to R291, R293, R296, R301): what a slot sends, and what becomes of a
received flit. -/

namespace Sys2Proof.Claims

open Sys2Proof.Machine

theorem OnlyPort.trans {s t u : State} {p : Nat} (h : OnlyPort s t p) (h' : OnlyPort t u p) : OnlyPort s u p :=
  ⟨h'.1.trans (by rw [h.1]), fun q hq => (h'.2 q hq).trans (h.2 q hq)⟩

theorem OnlyPort.updPort {s t : State} {p : Nat} (h : OnlyPort s t p) (f : Port → Port) : OnlyPort s (t.updPort p f) p :=
  h.trans (onlyPort_updPort t p f)

end Sys2Proof.Claims

namespace Sys2Proof.Machine

open Sys2Proof.Claims

/-- The count of slots in which a lane waits for credits (R305). -/
def Port.countStarved (x : Port) : Port :=
  if x.txq.any (fun i => x.startable i && !i.held && !(x.creditOk i.lane i.total)) then x.count 0x68 1 else x

/-- The virtual times of a port's slot (R290). -/
def Port.slotTimes (x : Port) : SMap Nat := wfqTimes x.vtime ((x.txq.filter x.ready).map (fun i => i.tenant)).eraseDups

theorem Port.countStarved_eq (x : Port) : x.countStarved = { x with cnt := x.countStarved.cnt } := by
  unfold Port.countStarved
  split
  · rfl
  · rfl

/-- What a slot does once its flit is chosen: the lanes that had one ready wait, but for the one served. -/
def State.slotWait (s : State) (p : Nat) (x : Port) (served : Option Nat) : State :=
  s.updPort p (fun y => { y with laneWait := nextWaits x.laneWait (x.txq.filter x.ready) served })

theorem State.linkSlot_control {s : State} {p : Nat} {c : Ctl} {rest : List Ctl} (hup : (s.port p).state = .up)
    (hcontrol : (s.port p).control = c :: rest) (hc : ∀ f, c ≠ .credit f) :
    s.linkSlot p = ((s.updPort p (fun _ => (s.port p).countStarved)).updPort p (fun y =>
      { y with control := rest, vtime := (s.port p).slotTimes }.sendCtl c)).slotWait p (s.port p) none := by
  have hctl : (match c with | .credit _ => .credit (s.port p).rxFreed | _ => c : Ctl) = c := by
    cases c with
    | credit f => exact absurd rfl (hc f)
    | _ => rfl
  unfold State.linkSlot
  simp only [hup, hcontrol, bne_self_eq_false, Bool.false_eq_true, if_false]
  rw [← hctl]
  rfl

theorem State.linkSlot_resend {s : State} {p : Nat} {f : Nat × BitVec 2048} {rest : List (Nat × BitVec 2048)}
    (hup : (s.port p).state = .up) (hcontrol : (s.port p).control = []) (hresend : (s.port p).resend = f :: rest) :
    s.linkSlot p = ((s.updPort p (fun _ => (s.port p).countStarved)).updPort p (fun y =>
      ({ y with resend := rest, tx := .flit (y.seal f.2), vtime := (s.port p).slotTimes }.count 0 1).count 0x18 1)).slotWait p (s.port p) none := by
  unfold State.linkSlot
  simp only [hup, hcontrol, hresend, bne_self_eq_false, Bool.false_eq_true, if_false]
  rfl

/-- An idle flit goes out while no other one is chosen. -/
def State.slotIdle (s : State) (p : Nat) : State :=
  (s.updPort p (fun _ => (s.port p).countStarved)).updPort p (fun y => { y with vtime := (s.port p).slotTimes }.sendIdle)

theorem State.slotIdle_port (s : State) (p : Nat) : (s.slotIdle p).port p =
    { s.port p with
      cnt := (s.port p).countStarved.cnt, vtime := (s.port p).slotTimes, tx := .idle ((s.port p).seal (bareFlit 0 0 0 0)) } := by
  rw [State.slotIdle, State.port_updPort_same, State.port_updPort_same, Port.countStarved_eq]
  rfl

theorem State.linkSlot_message {s : State} {p : Nat} {i : TxItem} {starved : Bool} (hup : (s.port p).state = .up)
    (hcontrol : (s.port p).control = []) (hresend : (s.port p).resend = []) (hretry : (s.port p).retry.length < 2048)
    (hchosen : (s.port p).arbitrate (s.port p).slotTimes ((s.port p).txq.filter (s.port p).ready) = some (i, starved)) :
    s.linkSlot p = ((s.slotIdle p).sendFlit p i starved).slotWait p (s.port p) (some i.lane) := by
  unfold Port.slotTimes at hchosen
  unfold State.linkSlot
  simp only [hup, hcontrol, hresend, bne_self_eq_false, Bool.false_eq_true, if_false, Nat.not_le.mpr hretry, hchosen]
  rfl

theorem State.linkSlot_idle {s : State} {p : Nat} (hup : (s.port p).state = .up) (hcontrol : (s.port p).control = [])
    (hresend : (s.port p).resend = []) (htxq : (s.port p).txq = []) :
    s.linkSlot p = (s.slotIdle p).slotWait p (s.port p) none := by
  unfold State.linkSlot
  simp only [hup, hcontrol, hresend, bne_self_eq_false, Bool.false_eq_true, if_false]
  rw [show (s.port p).arbitrate _ ((s.port p).txq.filter (s.port p).ready) = none by rw [htxq]; rfl]
  exact ite_self _

/-- A message of one flit that has its number, of this module. -/
structure Single (i : TxItem) (f : BitVec 1920) : Prop where
  flits : i.flits = [f]
  total : i.total = 1
  sent : i.sent = 0
  abort : i.abort = false
  committed : i.committed = true
  origin : i.origin = none

/-- Alone at a port with credits for it, it has its flit ready. -/
theorem Single.ready {x : Port} {i : TxItem} {f : BitVec 1920} (h : Single i f) (htxq : x.txq = [i]) (hcredit : x.creditOk i.lane 1 = true) :
    x.txq.filter x.ready = [i] := by
  have hbusy : i.busy = false := by simp [TxItem.busy, h.abort, h.sent]
  have hready : x.ready i = true := by
    simp [Port.ready, Port.startable, hbusy, h.abort, h.flits, htxq, h.total, hcredit]
  rw [htxq, List.filter_cons_of_pos hready, List.filter_nil]

/-- The only message that is ready takes the slot. -/
theorem Port.arbitrate_only (x : Port) (vt : SMap Nat) (i : TxItem) : ∃ starved, x.arbitrate vt [i] = some (i, starved) := by
  unfold Port.arbitrate
  by_cases hwait : 16 ≤ SMap.get x.laneWait i.lane 0
  · exact ⟨true, by simp [hwait, bestBy]⟩
  · exact ⟨false, by simp [hwait, bestBy]⟩

/-- The only tenant that is ready has the lowest virtual time. -/
theorem wfqTimes_only (old : SMap Nat) (t : Nat) :
    (wfqTimes old [t]).foldl (fun b x => min b x.2) (SMap.get (wfqTimes old [t]) t 0) = SMap.get (wfqTimes old [t]) t 0 := by
  unfold wfqTimes
  simp [SMap.set, SMap.get, SMap.find]

/-- The port has sent the only flit of a message, the only one of its queue. -/
def Port.sendOnly (x : Port) (i : TxItem) (out : BitVec 2048) : Port :=
  { x with
    txq := [], retry := x.retry ++ [(x.txFseq, out)], tx := .flit (x.seal out), txFseq := (x.txFseq + 1) % 4096
    sentCnt := bumpCount x.sentCnt i.lane ((if i.held then 0 else 1 : Nat) : Int)
    vtime := SMap.set x.vtime i.tenant (SMap.get x.vtime i.tenant 0 + wfqUnit / i.share) }.count 0 1

theorem Single.sendFlit {s : State} {p : Nat} {i : TxItem} {f : BitVec 1920} (h : Single i f) (htxq : (s.port p).txq = [i])
    (hlow : (s.port p).vtime.foldl (fun b t => min b t.2) (SMap.get (s.port p).vtime i.tenant 0) = SMap.get (s.port p).vtime i.tenant 0)
    (starved : Bool) :
    s.sendFlit p i starved = if starved then (s.updPort p (fun x => x.sendOnly i (bareFlit 4 i.lane (s.port p).txFseq f))).updPort p (fun x => x.count 0x70 1)
      else s.updPort p (fun x => x.sendOnly i (bareFlit 4 i.lane (s.port p).txFseq f)) := by
  have hnumber : s.numberMsg i = (s, i) := by
    rw [State.numberMsg, h.committed]
    refine Prod.ext rfl ?_
    show { i with committed := true } = i
    rw [← h.committed]
  have hdel : delFirst (fun y => y == i) [i] = [] := by simp [delFirst]
  unfold State.sendFlit
  simp only [hnumber, htxq, h.flits, h.total, h.sent, h.abort, h.origin, hlow, hdel, TxItem.nextType, bne_self_eq_false,
    Bool.false_and, Bool.or_false, Bool.false_eq_true, if_false, if_true, List.getD_cons_zero]
  rfl

end Sys2Proof.Machine

namespace Sys2Proof.Claims

open Sys2Proof.Machine

/-- The slot of a port whose only message has one flit and credits sends that flit. -/
theorem linkSlot_single {s : State} {p : Nat} {i : TxItem} {f : BitVec 1920} (hup : (s.port p).state = .up)
    (hcontrol : (s.port p).control = []) (hresend : (s.port p).resend = []) (hretry : (s.port p).retry.length < 2048)
    (htxq : (s.port p).txq = [i]) (h : Single i f) (hcredit : (s.port p).creditOk i.lane 1 = true) :
    let x := s.port p
    let out := bareFlit 4 i.lane x.txFseq f
    let t := s.linkSlot p
    OnlyPort s t p ∧ (t.port p).tx = .flit (x.seal out) ∧ (t.port p).retry = x.retry ++ [(x.txFseq, out)] ∧ (t.port p).txq = [] ∧
      (t.port p).txFseq = (x.txFseq + 1) % 4096 := by
  intro x out t
  have hready : x.txq.filter x.ready = [i] := h.ready htxq hcredit
  obtain ⟨starved, hchosen⟩ := x.arbitrate_only x.slotTimes i
  have hslot := State.linkSlot_message hup hcontrol hresend hretry (hready ▸ hchosen)
  have hidle := s.slotIdle_port p
  have honly : OnlyPort s (s.slotIdle p) p := (onlyPort_updPort s p _).updPort _
  generalize s.slotIdle p = u at hslot hidle honly
  have hlow : (u.port p).vtime.foldl (fun b t => min b t.2) (SMap.get (u.port p).vtime i.tenant 0) = SMap.get (u.port p).vtime i.tenant 0 := by
    have htimes : (u.port p).vtime = wfqTimes x.vtime [i.tenant] := by
      rw [hidle, show (s.port p).slotTimes = wfqTimes x.vtime ((x.txq.filter x.ready).map (fun i => i.tenant)).eraseDups from rfl, hready]
      rfl
    rw [htimes]
    exact wfqTimes_only _ _
  have hsend := h.sendFlit (p := p) (by rw [hidle]; exact htxq) hlow starved
  have hport : ∃ y, t.port p = y ∧ y.tx = .flit ((u.port p).seal (bareFlit 4 i.lane (u.port p).txFseq f)) ∧
      y.retry = (u.port p).retry ++ [((u.port p).txFseq, bareFlit 4 i.lane (u.port p).txFseq f)] ∧ y.txq = [] ∧
      y.txFseq = ((u.port p).txFseq + 1) % 4096 := by
    refine ⟨_, rfl, ?_⟩
    rw [show t = _ from hslot, State.slotWait, State.port_updPort_same, hsend]
    split
    · rw [State.port_updPort_same, State.port_updPort_same]
      exact ⟨rfl, rfl, rfl, rfl⟩
    · rw [State.port_updPort_same]
      exact ⟨rfl, rfl, rfl, rfl⟩
  have hother : OnlyPort s t p := by
    rw [show t = _ from hslot, hsend]
    refine OnlyPort.updPort ?_ _
    split
    · exact (honly.updPort _).updPort _
    · exact honly.updPort _
  rw [hidle] at hport
  obtain ⟨y, hy, htx, hretry', htxq', hfseq⟩ := hport
  rw [hy]
  exact ⟨hother, htx, hretry', htxq', hfseq⟩

end Sys2Proof.Claims
end

section
/-! SUPPORT. What becomes of a received flit (R281 to R283, R291, R293, R296). -/

namespace Sys2Proof.Machine

open Sys2Proof.Claims

theorem Port.partialOf_empty {x : Port} (hrx : x.rx = []) (lane : Nat) : x.partialOf lane = none := by
  rw [Port.partialOf, hrx]
  rfl

/-- The bits of a field that is 0 are 0. -/
theorem getLsbD_of_fld_eq_zero {w : Nat} {f : BitVec w} {lo n i : Nat} (h : fld f lo n = 0) (hlo : lo ≤ i) (hhi : i < lo + n) :
    f.getLsbD i = false := by
  have hbit := congrArg (fun v => v.testBit (i - lo)) h
  show f.toNat.testBit i = false
  simpa [fld, Nat.testBit_mod_two_pow, Nat.testBit_shiftRight, show i - lo < n by omega, show lo + (i - lo) = i by omega] using hbit

theorem fld_eq_zero_of_fld_eq_zero {w : Nat} {f : BitVec w} {lo n i k : Nat} (h : fld f lo n = 0) (hlo : lo ≤ i) (hhi : i + k ≤ lo + n) :
    fld f i k = 0 := by
  refine Nat.eq_of_testBit_eq fun j => ?_
  rw [fld, Nat.testBit_mod_two_pow, Nat.testBit_shiftRight, Nat.zero_testBit]
  by_cases hj : j < k
  · rw [← BitVec.getLsbD, getLsbD_of_fld_eq_zero h (by omega) (by omega), Bool.and_false]
  · rw [decide_eq_false hj, Bool.false_and]

/-- An only flit that is expected is taken (R291). -/
theorem State.flitIn_only {s : State} {p : Nat} {f : BitVec 2048} (hup : (s.port p).state = .up) (hcrc : flitCrcOk f = true)
    (htype : flitType f = 4) (hack : fld f 34 30 = 0) (hfseq : flitFseq f = (s.port p).rxFseq) (hrx : (s.port p).rx = [])
    (hroom : (s.port p).rxRoom (flitLane f) = true) :
    s.flitIn p f = ((s.updPort p (fun x => x.count 8 1)).firstFlit p f).updPort p Port.noteAck := by
  have hport : (s.updPort p (fun x => x.count 8 1)).port p = (s.port p).count 8 1 := State.port_updPort_same ..
  have hreserved : fld f 35 29 = 0 := fld_eq_zero_of_fld_eq_zero hack (by decide) (by decide)
  have hbit : f.getLsbD 34 = false := getLsbD_of_fld_eq_zero hack (by decide) (by decide)
  have htaken : (s.updPort p (fun x => x.count 8 1)).numberedFlit p f =
      ((s.updPort p (fun x => x.count 8 1)).firstFlit p f).updPort p Port.noteAck := by
    unfold State.numberedFlit
    have hpart : ((s.port p).count 8 1).partialOf (flitLane f) = none := Port.partialOf_empty hrx _
    have hroom' : ((s.port p).count 8 1).rxRoom (flitLane f) = true := hroom
    have hfseq' : ¬ flitFseq f ≠ ((s.port p).count 8 1).rxFseq := not_not_intro hfseq
    simp [hport, hpart, hroom', hfseq', htype]
  unfold State.flitIn
  simp [hup, hcrc, htype, hreserved, hbit, htaken, -BitVec.getLsbD_eq_getElem]

/-- The header names a message that its pair expects, or one without a number. -/
def Expected (fab : Fabric) (h : MsgHdr) : Prop :=
  h.kind = 2 ∨ h.kind = 4 ∨ h.kind = 5 ∨ h.start = true ∨ (h.kind < 6 ∧ h.mseq = fab.expected h.src h.queue)

theorem Fabric.arrive_expected {fab : Fabric} {d : Delivered} (h : Expected fab (msgHdr d.flits)) :
    ∃ pairs, fab.arrive d = .delivered { fab with pairs := pairs, inbox := fab.inbox ++ [d] } := by
  unfold Fabric.arrive
  dsimp only
  by_cases hkind : (!((msgHdr d.flits).kind == 0 || (msgHdr d.flits).kind == 1 || (msgHdr d.flits).kind == 3)) = true
  · rw [if_pos hkind]
    exact ⟨_, rfl⟩
  · rw [if_neg hkind]
    have hseq : (if (msgHdr d.flits).start then (msgHdr d.flits).mseq else fab.expected (msgHdr d.flits).src (msgHdr d.flits).queue) =
        (msgHdr d.flits).mseq := by
      obtain h | h | h | h | h := h
      · exact absurd (by rw [h]; rfl) hkind
      · exact absurd (by rw [h]; rfl) hkind
      · exact absurd (by rw [h]; rfl) hkind
      · rw [if_pos h]
      · rw [← h.2, ite_self]
    rw [hseq, if_pos (by rw [Nat.add_sub_cancel_left])]
    exact ⟨_, rfl⟩

/-- The port has taken an only flit into its lane. -/
def Port.takeOnly (x : Port) (f : BitVec 2048) : Port :=
  { x.take true with
    rxCount := bumpCount x.rxCount (flitLane f) 1
    rx := SMap.set x.rx (flitLane f) (SMap.get x.rx (flitLane f) [] ++ [{ first := flitFseq f, flits := [flitPayload f], whole := true, drop := 0 }]) }

theorem State.firstFlit_only {s : State} {p : Nat} {f : BitVec 2048} (htype : flitType f = 4) (hrx : (s.port p).rx = [])
    (hheader : headerOk f = true) (hlen : (msgHdr [flitPayload f]).len = 0) (hroute : s.routeBad (flitPayload f) = false)
    (hlast : (msgHdr [flitPayload f]).lastHop = true) :
    s.firstFlit p f = (s.updPort p (fun x => x.takeOnly f)).consume p (flitLane f)
      { first := flitFseq f, flits := [flitPayload f], whole := true, drop := 0 } f := by
  have hpart : (s.port p).partialOf (flitLane f) = none := Port.partialOf_empty hrx _
  unfold State.firstFlit
  simp only [hpart, htype, hheader, hroute, show (MsgHdr.parse (flitPayload f)).len = 0 from hlen,
    show (MsgHdr.parse (flitPayload f)).lastHop = true from hlast]
  rfl

/-- A message has been delivered, and the pairs' next numbers are new (R293). -/
def State.delivered (s : State) (pairs : List PairRx) (d : Delivered) : State :=
  s.updFab (fun f => { f with pairs := pairs, inbox := f.inbox ++ [d] })

theorem State.delivered_inbox (s : State) (pairs : List PairRx) (d : Delivered) : (s.delivered pairs d).fab.inbox = s.fab.inbox ++ [d] := rfl

theorem State.updPort_inbox (s : State) (p : Nat) (f : Port → Port) : (s.updPort p f).fab.inbox = s.fab.inbox := rfl

theorem State.updPort_rest {s t : State} (h : t = { s with fab := t.fab }) (p : Nat) (f : Port → Port) :
    t.updPort p f = { s with fab := (t.updPort p f).fab } := by
  rw [h]
  rfl

theorem State.delivered_rest {s t : State} (h : t = { s with fab := t.fab }) (pairs : List PairRx) (d : Delivered) :
    t.delivered pairs d = { s with fab := (t.delivered pairs d).fab } := by
  rw [h]
  rfl

theorem State.delivered_port (s : State) (pairs : List PairRx) (d : Delivered) (k : Nat) : (s.delivered pairs d).port k = s.port k := rfl

/-- A whole message that its pair expects is delivered, and it leaves its lane (R293, R296). -/
theorem State.consume_expected {s : State} {p lane : Nat} {m : RxMsg} (f : BitVec 2048) (hexpected : Expected s.fab (msgHdr m.flits))
    (hkind : (msgHdr m.flits).kind ≠ 6) :
    ∃ pairs, s.consume p lane m f =
      (s.delivered pairs { cls := laneClass lane, flits := m.flits }).updPort p (fun x => x.releaseWhole lane m) := by
  obtain ⟨pairs, harrive⟩ := Fabric.arrive_expected (d := { cls := laneClass lane, flits := m.flits }) hexpected
  refine ⟨pairs, ?_⟩
  unfold State.consume
  simp only [if_neg hkind, harrive]
  rfl

theorem Port.free_rxFseq (x : Port) (lane n : Nat) : (x.free lane n).rxFseq = x.rxFseq := by
  unfold Port.free
  split
  · rfl
  · unfold Port.returnCredit
    split
    · rfl
    · rfl

theorem Port.releaseWhole_rxFseq (x : Port) (lane : Nat) (m : RxMsg) : (x.releaseWhole lane m).rxFseq = x.rxFseq :=
  Port.free_rxFseq ..

theorem Port.noteAck_rxFseq (x : Port) : x.noteAck.rxFseq = x.rxFseq := rfl

theorem Port.takeOnly_rxFseq (x : Port) (f : BitVec 2048) : (x.takeOnly f).rxFseq = (x.rxFseq + 1) % 4096 := rfl

/-- An only flit at its last hop is delivered when its pair expects it (R284, R293, R296). -/
theorem State.flitIn_delivered {s : State} {p : Nat} {f : BitVec 2048} (hup : (s.port p).state = .up) (hcrc : flitCrcOk f = true)
    (htype : flitType f = 4) (hack : fld f 34 30 = 0) (hfseq : flitFseq f = (s.port p).rxFseq) (hrx : (s.port p).rx = [])
    (hroom : (s.port p).rxRoom (flitLane f) = true) (hheader : headerOk f = true) (hlen : (msgHdr [flitPayload f]).len = 0)
    (hroute : s.routeBad (flitPayload f) = false) (hlast : (msgHdr [flitPayload f]).lastHop = true)
    (hexpected : Expected s.fab (msgHdr [flitPayload f])) (hkind : (msgHdr [flitPayload f]).kind ≠ 6) :
    ∃ t, s.flitIn p f = t ∧ t = { s with fab := t.fab } ∧
      t.fab.inbox = s.fab.inbox ++ [{ cls := laneClass (flitLane f), flits := [flitPayload f] }] ∧
      (t.port p).rxFseq = ((s.port p).rxFseq + 1) % 4096 ∧ ∀ k, k ≠ p → t.port k = s.port k := by
  have hfirst := State.firstFlit_only (s := s.updPort p (fun x => x.count 8 1)) (p := p) htype
    (by rw [State.port_updPort_same]; exact hrx) hheader hlen hroute hlast
  obtain ⟨pairs, hconsume⟩ := State.consume_expected (s := (s.updPort p (fun x => x.count 8 1)).updPort p (fun x => x.takeOnly f)) (p := p)
    (lane := flitLane f) (m := { first := flitFseq f, flits := [flitPayload f], whole := true, drop := 0 }) f hexpected hkind
  have hstep := State.flitIn_only hup hcrc htype hack hfseq hrx hroom
  rw [hfirst, hconsume] at hstep
  refine ⟨_, hstep, State.updPort_rest (State.updPort_rest (State.delivered_rest (State.updPort_rest (State.updPort_rest rfl _ _) _ _) _ _) _ _) _ _,
    ?_, ?_, fun k hk => ?_⟩
  · simp only [State.updPort_inbox, State.delivered_inbox]
  · rw [State.port_updPort_same, State.port_updPort_same, State.delivered_port, State.port_updPort_same, State.port_updPort_same,
      Port.noteAck_rxFseq, Port.releaseWhole_rxFseq, Port.takeOnly_rxFseq]
    rfl
  · simp only [State.port_updPort, State.delivered_port, if_neg hk.symm]

end Sys2Proof.Machine
end

section
/-! SUPPORT. Messages that are forwarded, and held messages that are delivered (R293, R296). -/

namespace Sys2Proof.Machine

/-- The item by which a message goes on to its next hop (R296). -/
def forwardItem (p lane : Nat) (m : RxMsg) : TxItem :=
  let h := msgHdr m.flits
  { flits := ins (m.flits.headD 0) 51 3 (h.hopptr + 1) :: m.flits.tail, total := h.len + 1
    lane := laneOf (laneClass lane) (lane / 4 % 2 == 1) (h.hopptr % 4), origin := some (p, lane), source := some (h.src, h.func) }

/-- A whole message, alone in its lane, goes to an output port that is UP. -/
theorem State.forward_whole {s : State} {p lane : Nat} {m : RxMsg} (hlane : SMap.get (s.port p).rx lane [] = [m]) (hwhole : m.whole = true)
    (hout : m.out = none) (hdrop : m.drop = 0) (hlast : (msgHdr m.flits).lastHop = false)
    (hup : (s.port (portOfHop (msgHdr m.flits).ports (msgHdr m.flits).hopptr)).state = .up) :
    s.forward p lane = (s.updPort p (fun x => { x with rx := SMap.set x.rx lane [] })).enqueue
      (portOfHop (msgHdr m.flits).ports (msgHdr m.flits).hopptr) (forwardItem p lane m) := by
  have hpick : (m.out.isNone && m.drop == 0 && !(msgHdr m.flits).lastHop) = true := by simp [hout, hdrop, hlast]
  have hpick : (m.out.isNone && m.drop == 0 && !(msgHdr m.flits).lastHop) = true := by simp [hout, hdrop, hlast]
  have hfind (pick : RxMsg → Bool) (h : pick m = true) : [m].find? pick = some m := List.find?_cons_of_pos h
  have hdel (pick : RxMsg → Bool) (h : pick m = true) : delFirst pick [m] = [] := by simp [delFirst, h]
  unfold State.forward
  extract_lets l pick
  rw [show l.find? pick = some m from (congrArg (List.find? pick) hlane).trans (hfind pick hpick)]
  dsimp only
  rw [hup, if_pos hwhole, show delFirst pick l = [] from (congrArg (delFirst pick) hlane).trans (hdel pick hpick)]
  rfl

theorem Fabric.expected_expect (f : Fabric) (src queue n : Nat) : (f.expect src queue n).expected src queue = n % 65536 := by
  simp [Fabric.expected, Fabric.expect]

end Sys2Proof.Machine

namespace Sys2Proof.Claims

open Sys2Proof.Machine

/-- Settles O56: what a slot sends is chosen in the order of `State.linkSlot_control`, `State.linkSlot_resend`, `linkSlot_single` and
`State.linkSlot_idle`, and a received flit that is expected is delivered (`State.flitIn_delivered`). -/
theorem linkFlitsComplete : Obligations.LinkFlitsComplete := by
  unfold Obligations.LinkFlitsComplete
  intro s port flit lane src queue d m p x up pl h e hit mh q
  refine ⟨fun c rest hup hcontrol hc => ⟨_, (exec_linkSlot port s).trans (congrArg Host.Outcome.next (State.linkSlot_control hup hcontrol hc)), ?_⟩,
    fun f rest hup hcontrol hresend => ⟨_, (exec_linkSlot port s).trans (congrArg Host.Outcome.next (State.linkSlot_resend hup hcontrol hresend)), ?_⟩,
    fun i f hup hcontrol hresend hretry htxq hflits htotal hsent habort hcommitted horigin hcredit => ⟨_, exec_linkSlot ..,
      linkSlot_single hup hcontrol hresend hretry htxq ⟨hflits, htotal, hsent, habort, hcommitted, horigin⟩ hcredit⟩,
    fun hup hcontrol hresend htxq => ⟨_, (exec_linkSlot port s).trans (congrArg Host.Outcome.next (State.linkSlot_idle hup hcontrol hresend htxq)), ?_⟩,
    fun hup => ⟨runs_notUp (exec_linkSlot ..) hup, runs_notUp (exec_flitReceive ..) hup, runs_notUp (exec_abortFlit ..) hup⟩,
    fun hup hcrc => ?_,
    fun hup hcrc htype hack hfseq hrx hroom hheader hlen hroute hlast hexpected hkind => ?_,
    fun hup hrx => ?_, fun hlane hwhole hout hdrop hlast hup => ?_, fun hearly hwaiting => ?_, fun hearly hwaiting => ?_⟩
  · refine ⟨((onlyPort_updPort s p _).updPort _).updPort _, ?_⟩
    rw [State.slotWait, State.port_updPort_same, State.port_updPort_same, State.port_updPort_same, Port.countStarved_eq]
    exact ⟨rfl, rfl, rfl, rfl⟩
  · refine ⟨((onlyPort_updPort s p _).updPort _).updPort _, ?_⟩
    rw [State.slotWait, State.port_updPort_same, State.port_updPort_same, State.port_updPort_same, Port.countStarved_eq]
    exact ⟨rfl, rfl, rfl⟩
  · refine ⟨((onlyPort_updPort s p _).updPort _).updPort _, ?_⟩
    rw [State.slotWait, State.port_updPort_same, State.slotIdle_port]
    exact ⟨rfl, rfl⟩
  · refine leavesPort_updPort (f := fun x => x.sendNak x.rxFseq) ?_ rfl
    simp [execFlitReceive, State.flitIn, show (s.port port.toNat).state = .up from hup, hcrc, p]
  · obtain ⟨t, ht, hrest, hinbox, hrx', hother⟩ :=
      State.flitIn_delivered hup hcrc htype hack hfseq hrx hroom hheader hlen hroute hlast hexpected hkind
    exact ⟨t, (exec_flitReceive port flit s).trans (congrArg Host.Outcome.next ht), hrest, hinbox, hrx', hother⟩
  · have hpart : ((s.updPort p (fun x => x.count 8 1)).port p).partialOf lane.toNat = none := by
      rw [State.port_updPort_same]
      exact Port.partialOf_empty hrx _
    have hend : (s.updPort p (fun x => x.count 8 1)).endPartial p lane.toNat = s.updPort p (fun x => x.count 8 1) := by
      rw [State.endPartial, hpart]
    have hexec : exec (.abortFlit port lane) s = .next (((s.updPort p (fun x => x.count 8 1)).updPort p (fun x =>
        (x.take true).count 0x60 1)).updPort p Port.noteAck) := by
      rw [exec_abortFlit, execAbortFlit, if_neg (by simp [show (s.port port.toNat).state = .up from hup]), State.abortIn, hend]
    refine ⟨_, hexec, ((onlyPort_updPort s p _).updPort _).updPort _, ?_⟩
    rw [State.port_updPort_same, State.port_updPort_same, State.port_updPort_same]
  · refine ⟨_, (exec_messageForward port lane s).trans (congrArg Host.Outcome.next (State.forward_whole hlane hwhole hout hdrop hlast hup)),
      rfl, ?_, fun k hp hq => ?_, ?_⟩
    · rw [State.enqueue, State.port_updPort, State.port_updPort_same]
      split
      · next hsame =>
        rw [hsame, State.port_updPort_same]
        exact SMap.get_set_same ..
      · exact SMap.get_set_same ..
    · rw [State.enqueue, State.port_updPort, if_neg (Ne.symm hq), State.port_updPort, if_neg (Ne.symm hp)]
    · have htxq : ((s.updPort p (fun x => { x with rx := SMap.set x.rx lane.toNat [] })).port q).txq = (s.port q).txq := by
        rw [State.port_updPort]
        split
        · next hsame => rw [hsame]
        · rfl
      rw [State.enqueue, State.port_updPort_same]
      exact congrArg (· ++ [forwardItem p lane.toNat m]) htxq
  · refine ⟨s.updFab (fun f => { (f.expect src.toNat queue.toNat (e + 1)) with early := delFirst hit f.early, inbox := f.inbox ++ [d] }), ?_,
      rfl, rfl, rfl, Fabric.expected_expect ..⟩
    rw [exec_messageDeliver, execMessageDeliver, State.deliverNext]
    simp only [show s.fab.early.find? (fun m => (msgHdr m.flits).src == src.toNat && (msgHdr m.flits).queue == queue.toNat
      && (msgHdr m.flits).mseq == s.fab.expected src.toNat queue.toNat) = some d from hearly]
    rw [show (s.updFab (fun f => { (f.expect src.toNat queue.toNat (s.fab.expected src.toNat queue.toNat + 1)) with
      early := delFirst hit f.early, inbox := f.inbox ++ [d] })).waitingOf src.toNat queue.toNat = none from hwaiting]
  · refine ⟨s, ?_, rfl⟩
    rw [exec_messageDeliver, execMessageDeliver, State.deliverNext]
    simp only [show s.fab.early.find? (fun m => (msgHdr m.flits).src == src.toNat && (msgHdr m.flits).queue == queue.toNat
      && (msgHdr m.flits).mseq == s.fab.expected src.toNat queue.toNat) = none from hearly, hwaiting]

end Sys2Proof.Claims
end

section
/-! SUPPORT. Discovery and the fabric map (R362 to R365): a write of PLZ_FMCMD that starts an operation is applied here, or goes out
as a request. -/

namespace Sys2Proof.Machine

/-- With no other port UP no discovery message goes out. -/
theorem State.flood_none {s : State} {serial : Nat} {hops : List (Nat × Nat)} {but : Option Nat}
    (h : ∀ p, p < 32 → (s.port p).state = .up → but = some p) : s.flood serial hops but = s := by
  have hfold (l : List Nat) (hl : ∀ p ∈ l, p < 32) : l.foldl (fun s p =>
      if (s.port p).state == .up && but != some p then s.sendManagement 0 1 p (discPayload serial (hops ++ [(p, 0)])) else s) s = s := by
    induction l with
    | nil => rfl
    | cons p l ih =>
      have hskip : ((s.port p).state == .up && but != some p) = false := by
        by_cases hup : (s.port p).state = .up
        · rw [h p (hl p (List.mem_cons_self ..)) hup]
          simp
        · simp [hup]
      rw [List.foldl_cons, hskip, if_neg Bool.false_ne_true]
      exact ih fun q hq => hl q (List.mem_cons_of_mem _ hq)
  exact hfold _ fun p hp => List.mem_range.mp hp

/-- The fabric with the fields of a write of PLZ_FMCMD (R364). -/
def Fabric.fmSet (f : Fabric) (v : Word) : Fabric :=
  { f with fmOp := fld v 57 2, fmHops := fld v 55 2, fmTo := fld v 40 15, fmFrom := fld v 25 15
           fmDest := fld v 15 10, fmCount := fld v 5 10 }

/-- The operation that a write of PLZ_FMCMD starts (R364). -/
def Fabric.fmReq (f : Fabric) (v : Word) : FmReq :=
  { op := fld v 57 2, count := fld v 5 10, arg := f.fmArg
    data := if fld v 57 2 = 1 then Memory.readBytes f.fmData 0 (8 * fld v 5 10) else [] }

/-- A write that has no effect: by another function, or while an operation runs. -/
theorem State.fmStart_ignored {s : State} {fn : Nat} (op : Nat) (v : Word) (h : s.isMgmt fn = false ∨ s.fab.fmBusy = true) :
    s.fmStart fn op v = s := by
  unfold State.fmStart State.fmWrite
  obtain h | h := h
  · rw [h]; rfl
  · rw [if_pos h, ite_self]

theorem State.fmStart_go {s : State} {fn op : Nat} {v : Word} (hmgmt : s.isMgmt fn = true) (hop : fld v 57 2 = op)
    (hgo : v.getLsbD 0 = true) : s.fmStart fn op v = s.fmWrite v := by
  unfold State.fmStart
  rw [hmgmt, hgo, hop]
  simp

/-- An operation on this module (R364, R365). -/
theorem State.fmWrite_here {s u : State} {v : Word} {result : Nat} {data : List Byte} (hbusy : s.fab.fmBusy = false)
    (hgo : v.getLsbD 0 = true) (hop : fld v 57 2 ≠ 3) (hhere : fld v 55 2 = 0)
    (happly : { s with fab := s.fab.fmSet v }.fmApply (s.fab.fmReq v) = (result, data, u)) :
    s.fmWrite v = u.updFab (fun f => { f with fmResult := result, fmData := Memory.writeBytes f.fmData 0 data }) := by
  unfold State.fmWrite
  rw [if_neg (by rw [hbusy]; decide)]
  extract_lets src f s1 r
  rw [if_neg (by rw [hgo]; decide), if_neg (show ¬ f.fmOp = 3 from hop), if_pos (show f.fmHops = 0 from hhere),
    show s1.fmApply r = (result, data, u) from happly]

/-- A request goes out on the first port of its path (R364). -/
theorem State.fmWrite_away {s : State} {v : Word} (hbusy : s.fab.fmBusy = false) (hgo : v.getLsbD 0 = true)
    (hop : fld v 57 2 ≠ 3) (haway : fld v 55 2 ≠ 0) :
    s.fmWrite v = ({ s with fab := s.fab.fmSet v }.sendManagement (fld v 15 10) (fld v 55 2) (fld v 40 15)
      (fmPayload (s.fab.fmReq v) (fld v 55 2) (fld v 25 15))).updFab (fun f => { f with fmBusy := true }) := by
  unfold State.fmWrite
  rw [if_neg (by rw [hbusy]; decide)]
  extract_lets src f s1 r
  rw [if_neg (by rw [hgo]; decide), if_neg (show ¬ f.fmOp = 3 from hop), if_neg (show ¬ f.fmHops = 0 from haway)]
  rfl

/-- A management message waits at the first port of its path, in class 7. -/
theorem State.sendManagement_queued (s : State) (dest hops path : Nat) (payload : List Byte) :
    ∃ i, ((s.sendManagement dest hops path payload).port (portOfHop path 0)).txq = (s.port (portOfHop path 0)).txq ++ [i] ∧
      laneClass i.lane = 7 ∧ i.sent = 0 := by
  unfold State.sendManagement State.enqueue
  extract_lets h fl
  rw [State.port_updPort_same]
  exact ⟨_, rfl, (by decide : laneClass (laneOf 7 false 0) = 7), rfl⟩

/-- Taking a message leaves everything else of the fabric. -/
theorem State.takeMsg_inbox {s t : State} {p : MsgHdr → Bool} {msg : List (BitVec 1920)} (h : s.takeMsg p = some (msg, t)) :
    t = s.updFab (fun f => { f with inbox := t.fab.inbox }) := by
  obtain ⟨⟨m, u⟩, htake, heq⟩ := Option.map_eq_some_iff.mp h
  obtain ⟨_, -, heq'⟩ := Option.map_eq_some_iff.mp htake
  cases heq'
  cases heq
  rfl

/-- OP 0 assigns the module number, unless another is assigned (R365). -/
theorem State.fmApply_assign {s : State} {r : FmReq} (hop : r.op = 0) (hfree : s.mod.placeValid = false ∨ s.mod.place = r.arg % 1024) :
    s.fmApply r = (0, [], (s.updMod (fun x => { x with placeValid := true, place := r.arg % 1024 })).updFab
      (fun f => { f with srcGrp := r.arg / 1024 % 256 })) := by
  unfold State.fmApply
  rw [hop]
  refine if_neg ?_
  obtain h | h := hfree
  · simp [h]
  · simp [h]

theorem State.fmApply_assigned {s : State} {r : FmReq} (hop : r.op = 0) (hvalid : s.mod.placeValid = true)
    (hplace : s.mod.place ≠ r.arg % 1024) : s.fmApply r = (11, [], s) := by
  unfold State.fmApply
  rw [hop]
  exact if_pos (by simp [hvalid, hplace])

/-- OP 1 of one word writes a route entry (R365). -/
theorem State.fmApply_route {s : State} {r : FmReq} (hop : r.op = 1) (hcount : r.count = 1) (halign : r.arg % 8 = 0)
    (hlo : 0x10000 ≤ r.arg) (hhi : r.arg < 0x12000) :
    s.fmApply r = (0, [], s.updFab (fun f => { f with
      routes := SMap.set f.routes ((r.arg - 0x10000) / 8) (Route.parse (BitVec.ofNat 64 (leNat (r.data.take 8)))) })) := by
  have hzero : ¬ r.arg = 0 := by omega
  unfold State.fmApply
  rw [hop]
  simp [hcount, halign, fmWritable, hlo, hhi, hzero]

/-- OP 2 reads words of the PLZ_ block (R365). -/
theorem State.fmApply_read {s : State} {r : FmReq} (hop : r.op = 2) (hcount : r.count ≠ 0) (hmax : r.count ≤ 512) (halign : r.arg % 8 = 0)
    (hhi : r.arg + 8 * r.count ≤ 0x40000) :
    s.fmApply r = (0, (List.range r.count).flatMap (fun i => leBytes 8 (s.plzWord (r.arg + 8 * i))), s) := by
  unfold State.fmApply
  rw [hop]
  refine (if_neg ?_).trans ?_
  · simp [hcount, hmax, halign, hhi]
  · rw [List.flatMap_map]

theorem State.fmApply_readBad {s : State} {r : FmReq} (hop : r.op = 2) (hcount : r.count = 0 ∨ 512 < r.count) :
    s.fmApply r = (11, [], s) := by
  unfold State.fmApply
  rw [hop]
  refine if_pos ?_
  obtain h | h := hcount
  · simp [h]
  · simp [h]

end Sys2Proof.Machine
namespace Sys2Proof.Claims

open Sys2Proof.Machine

/-- Settles O49: a write of PLZ_FMCMD is ignored (`State.fmStart_ignored`), applied here (`State.fmWrite_here`) or sent as a request
(`State.fmWrite_away`). -/
theorem fabricMapCompletes : Obligations.FabricMapCompletes := by
  unfold Obligations.FabricMapCompletes
  refine ⟨fun s port serial o a => ?_, fun s fn v msg s1 => ?_⟩
  · intro hop
    refine ⟨fun hup hfailed hserial hdiscs => ?_, fun d hfwd hd hports => ?_⟩
    · refine runs_if (exec_discoveryMessage ..) (by simp [hup, hfailed]) ?_
      have hnew : serial.toNat ≠ Config.serial.toNat := fun h => hserial (BitVec.eq_of_toNat_eq h)
      simp [State.discovered, hnew, hdiscs, packPath, hop, State.updFab]
    · refine ⟨_, ?_, rfl⟩
      have hfind : s.fab.discFwd.find? (fun d => d.serial == serial.toNat) = some d := by
        rw [hfwd]
        exact List.find?_cons_of_pos (by simpa using hd)
      have hdel : delFirst (fun x : DiscFwd => x.serial == serial.toNat) s.fab.discFwd = [] := by
        rw [hfwd]
        simp [delFirst, hd]
      have hflood := State.flood_none (s := s.updFab (fun f => { f with discFwd := delFirst (fun x => x.serial == serial.toNat) f.discFwd }))
        (serial := d.serial) (hops := d.hops) (but := some d.port) (fun p hp hup => congrArg some (hports p hp hup).symm)
      rw [exec_discoveryForward, execDiscoveryForward, hfind]
      dsimp only
      rw [hflood, State.updFab, hdel]
  · intro f set n go here bs m
    have hstart {i : Instr} {op : Nat} {t : State} {P : State → Prop} (hi : exec i s = .next (s.fmStart fn.toNat op v)) (hgo : go op)
        (ht : s.fmWrite v = t) (hp : P t) : Runs i s P :=
      ⟨t, by rw [hi, State.fmStart_go hgo.1 hgo.2.2.2 hgo.2.2.1, ht], hp⟩
    have hlocal {op : Nat} {result : Nat} {data : List Byte} {u : State} (hgo : go op) (hop : op < 3) (hhere : here)
        (happly : { s with fab := s.fab.fmSet v }.fmApply (s.fab.fmReq v) = (result, data, u)) :=
      State.fmWrite_here hgo.2.1 hgo.2.2.1 (by rw [hgo.2.2.2]; omega) hhere happly
    refine ⟨fun hgo hhere hplace => hstart (exec_fmAssign ..) hgo (hlocal hgo (by decide) hhere (State.fmApply_assign hgo.2.2.2 hplace)) rfl,
      fun hgo hhere hvalid hplace => hstart (exec_fmAssign ..) hgo (hlocal hgo (by decide) hhere
        (State.fmApply_assigned hgo.2.2.2 hvalid hplace)) rfl,
      fun hgo hhere hn halign hlo hhi => hstart (exec_fmWrite ..) hgo (hlocal hgo (by decide) hhere
        (State.fmApply_route hgo.2.2.2 hn halign hlo hhi)) ⟨rfl, fun i => ?_⟩,
      fun hgo hhere hn hmax halign hhi => hstart (exec_fmRead ..) hgo (hlocal hgo (by decide) hhere
        (State.fmApply_read hgo.2.2.2 hn hmax halign hhi)) ⟨rfl, rfl⟩,
      fun hgo hhere hn => hstart (exec_fmRead ..) hgo (hlocal hgo (by decide) hhere (State.fmApply_readBad hgo.2.2.2 hn)) rfl,
      fun op hop hgo hhere => ?_,
      fun hignored => ⟨⟨s, congrArg Host.Outcome.next (State.fmStart_ignored 0 v hignored), rfl⟩,
        ⟨s, congrArg Host.Outcome.next (State.fmStart_ignored 1 v hignored), rfl⟩,
        ⟨s, congrArg Host.Outcome.next (State.fmStart_ignored 2 v hignored), rfl⟩⟩,
      fun hbusy htake => ?_, fun hbusy => runs_if (exec_fmTimeout ..) hbusy rfl,
      fun hbusy => runs_else (exec_fmTimeout ..) (by rw [show s.fab.fmBusy = false from hbusy]; decide) rfl⟩
    · have hword : Memory.readBytes s.fab.fmData 0 (8 * fld v 5 10) = Memory.readBytes s.fab.fmData 0 8 := by
        rw [show fld v 5 10 = 1 from hn]
      have hdata : (s.fab.fmReq v).data.take 8 = Memory.readBytes s.fab.fmData 0 8 := by
        rw [Fabric.fmReq, if_pos hgo.2.2.2, hword]
        rfl
      refine (SMap.get_set ..).trans ?_
      rw [hdata]
      exact if_congr eq_comm rfl rfl
    · have hop3 : fld v 57 2 ≠ 3 := by rw [hgo.2.2.2]; omega
      have haway := State.fmWrite_away hgo.2.1 hgo.2.2.1 hop3 hhere
      have hexec : exec (if op = 0 then .fmAssign fn v else if op = 1 then .fmWrite fn v else .fmRead fn v) s = .next (s.fmStart fn.toNat op v) := by
        match op, hop with
        | 0, _ => rfl
        | 1, _ => rfl
        | 2, _ => rfl
      obtain ⟨i, htxq, hlane, hsent⟩ := { s with fab := s.fab.fmSet v }.sendManagement_queued (fld v 15 10) (fld v 55 2) (fld v 40 15)
        (fmPayload (s.fab.fmReq v) (fld v 55 2) (fld v 25 15))
      exact hstart hexec hgo haway ⟨rfl, i, htxq, hlane, hsent⟩
    · refine ⟨_, by rw [exec_fmAnswer, execFmAnswer, show s.fab.fmBusy = true from hbusy, htake], ?_⟩
      obtain ⟨x, rfl⟩ : ∃ x, s1 = s.updFab (fun f => { f with inbox := x }) := ⟨_, State.takeMsg_inbox htake⟩
      simp [State.updFab, f, bs]

end Sys2Proof.Claims
end

section
/-! SUPPORT. Stages of start-up (R356 to R358, R360, R362): an update of every die, and what the boot ROM loads. -/

namespace Sys2Proof.Machine

open Sys2Proof.Claims

/-- One update of each die of the module. -/
def State.updDies (s : State) (f : Die → Die) : State := (List.range 32).foldl (fun s d => s.updDie d f) s

theorem foldl_updDie_eq (l : List Nat) (f : Die → Die) (s : State) :
    l.foldl (fun s d => s.updDie d f) s = { s with dies := (l.foldl (fun s d => s.updDie d f) s).dies } := by
  induction l generalizing s with
  | nil => rfl
  | cons d l ih => exact ih _

theorem State.updDies_eq (s : State) (f : Die → Die) : s.updDies f = { s with dies := (s.updDies f).dies } :=
  foldl_updDie_eq _ f s

theorem foldl_range_updDie (n : Nat) (f : Die → Die) (s : State) : ∀ i,
    ((List.range n).foldl (fun s d => s.updDie d f) s).die i = if i < n then f (s.die i) else s.die i := by
  induction n with
  | zero => exact fun _ => rfl
  | succ n ih =>
    intro i
    rw [List.range_succ, List.foldl_append, List.foldl_cons, List.foldl_nil, State.die_updDie, ih, ih, if_neg (Nat.lt_irrefl n)]
    by_cases hi : n = i
    · rw [if_pos hi, if_pos (by omega), hi]
    · rw [if_neg hi]
      exact if_congr (by omega) rfl rfl

theorem State.updDies_die {d : Nat} (s : State) (f : Die → Die) (hd : d < 32) : (s.updDies f).die d = f (s.die d) :=
  (foldl_range_updDie 32 f s d).trans (if_pos hd)

/-- Every port of a state whose ports are dark is held DISABLED. -/
theorem State.portsDark_port (s : State) {p : Nat} (hp : p < 32) : (s.portsDark.port p).state = .disabled := by
  rw [State.port, State.portsDark, State.updFab, SMap.get_range_map _ _ hp]

/-- What the boot ROM checks of a slot (R358). -/
theorem Module.slotAccepted_checks {m : Module} {c : ImageSlot} (h : m.slotAccepted c = true) :
    sha384 (digestBytes c.keyX ++ digestBytes c.keyY) = m.fuseKey ∧ sha384 (c.mmc ++ c.computeDie ++ c.portDie) = c.digest ∧
      m.fuseVersion ≤ c.version := by
  obtain ⟨hrest, hversion⟩ := Bool.and_eq_true_iff.mp h
  obtain ⟨hsigned, hdigest⟩ := Bool.and_eq_true_iff.mp hrest
  have hkey : sha384 c.keyBytes = m.fuseKey := eq_of_beq (Bool.and_eq_true_iff.mp hsigned).1
  rw [ImageSlot.keyBytes] at hkey
  exact ⟨hkey, eq_of_beq hdigest, of_decide_eq_true hversion⟩

theorem exec_firmwareVerify_loads {s : State} {a b : Option ImageSlot} {slot : Bool} {c : ImageSlot} (hstage : s.mod.stage = .firmware)
    (hload : s.mod.bootSlot a b = some (slot, c)) :
    exec (.firmwareVerify a b) s = .next (s.updMod (fun m => { m with
      stage := .die, slot := slot, measurement := measure c, records := SMap.set m.records 3 (record3 (measure c) c slot) })) := by
  simp only [exec_firmwareVerify, execFirmwareVerify, hstage, hload, bne_self_eq_false, Bool.false_eq_true, if_false]

theorem exec_firmwareVerify_halts {s : State} {a b : Option ImageSlot} (hstage : s.mod.stage = .firmware)
    (hload : s.mod.bootSlot a b = none) :
    exec (.firmwareVerify a b) s = .next (s.powerOff.updMod (fun m => { m with stage := .halted, bootErr := 1 })) := by
  simp only [exec_firmwareVerify, execFirmwareVerify, hstage, hload, bne_self_eq_false, Bool.false_eq_true, if_false]

/-- A die after bring-up: released, with refresh at 4× and no mitigation step (R200, R360). -/
def Die.broughtUp (x : Die) : Die := { x with stkRefr := 2, stkStep := 0, released := true }

/-- Bring-up with no bad core or frame: stack memory is zeroed and every die is brought up (R354, R360). -/
theorem exec_dieBringupDone_good {s : State} (hstage : s.mod.stage = .die) :
    ∃ u : State, exec (.dieBringupDone [] []) s =
        .next (if u.mod.failed then u.portsDark.updMod (fun m => { m with stage := .failed }) else u.updMod (fun m => { m with stage := .links })) ∧
      u = { s with mem := [], poison := [], dies := u.dies } ∧ ∀ d, d < 32 → u.die d = (s.die d).broughtUp := by
  refine ⟨{ s with mem := [], poison := [] }.updDies Die.broughtUp, ?_, State.updDies_eq _ _, fun d hd => by rw [State.updDies_die _ _ hd]; rfl⟩
  rw [exec_dieBringupDone, execDieBringupDone, if_neg (by rw [hstage]; decide)]
  simp only [List.foldl_nil, ite_self]
  rfl

/-- The end of discovery: the module is READY, and every die refreshes at 4× (R200, R362). -/
theorem exec_discoveryEnd_ready {s : State} (hstage : s.mod.stage = .discovery) :
    ∃ u : State, exec .discoveryEnd s = .next (u.updMod (fun m => { m with stage := .ready })) ∧ u = { s with dies := u.dies } ∧
      ∀ d, d < 32 → u.die d = { s.die d with stkRefr := 2 } := by
  refine ⟨s.updDies (fun x => { x with stkRefr := 2 }), ?_, State.updDies_eq _ _, fun d hd => by rw [State.updDies_die _ _ hd]⟩
  rw [exec_discoveryEnd, execDiscoveryEnd, if_neg (by rw [hstage]; decide)]
  rfl

end Sys2Proof.Machine

namespace Sys2Proof.Claims

open Sys2Proof.Machine

/-- Settles O48: each stage's last command, with the updates of the dies (`State.updDies_die`) and of the ports
(`State.portsDark_port`), and the slot that the boot ROM loads (`exec_firmwareVerify_loads`). -/
theorem startupStagesComplete : Obligations.StartupStagesComplete := by
  unfold Obligations.StartupStagesComplete
  intro s i a b m slotA slotB loads released
  have hrelease (hstage : m.stage = .power) (hon : m.powerOn = true) : exec (.dieRelease false i) s =
      .next (if released.allReleased then released.updMod (fun m => { m with stage := .firmware }) else released) := by
    rw [exec_dieRelease, execDieRelease, if_neg (by simp [show s.mod.stage = .power from hstage, show s.mod.powerOn = true from hon])]
    rfl
  refine ⟨fun hstage hon hmore => runs_else (hrelease hstage hon) (by rw [hmore]; decide) rfl,
    fun hstage hon hlast => runs_if (hrelease hstage hon) hlast ⟨rfl, ?_⟩,
    fun hstage hA => ⟨_, exec_firmwareVerify_loads hstage (if_pos hA), rfl, rfl, rfl, rfl⟩,
    fun hstage hA hB => ⟨_, exec_firmwareVerify_loads hstage ((if_neg (by rw [hA]; decide)).trans (if_pos hB)), rfl, rfl, rfl, rfl⟩,
    fun hstage hA hB => ⟨_, exec_firmwareVerify_halts hstage ((if_neg (by rw [hA]; decide)).trans (if_neg (by rw [hB]; decide))),
      rfl, rfl, rfl⟩,
    fun c h => Module.slotAccepted_checks h,
    fun hstage hok => ?_, fun hstage hfailed => ?_,
    fun hstage hdown => runs_else (exec_linksStageEnd ..) (by rw [show s.mod.stage = .links from hstage]; decide) ?_,
    fun hstage => ?_⟩
  · have hdie : released.die i.toNat = { s.die i.toNat with released := true } := State.die_updDie_same ..
    exact congrArg Die.released hdie
  · obtain ⟨u, hexec, hu, hdie⟩ := exec_dieBringupDone_good hstage
    have hmod : u.mod = m := by rw [hu]
    refine runs_else hexec (by rw [hmod, hok]; decide) ⟨rfl, ?_, ?_, ?_, fun d hd => ?_⟩
    · rw [hu]; rfl
    · rw [hu]; rfl
    · rw [hu]; rfl
    · exact ⟨congrArg Die.stkRefr (hdie d hd), congrArg Die.stkStep (hdie d hd)⟩
  · obtain ⟨u, hexec, hu, -⟩ := exec_dieBringupDone_good hstage
    have hmod : u.mod = m := by rw [hu]
    exact runs_if hexec (by rw [hmod, hfailed]) ⟨rfl, fun p hp => u.portsDark_port hp⟩
  · exact State.flood_none (s := s.updMod (fun m => { m with stage := .discovery })) (serial := Config.serial.toNat) (hops := [])
      (but := none) (fun p hp hup => absurd hup (hdown p hp))
  · obtain ⟨u, hexec, hu, hdie⟩ := exec_discoveryEnd_ready hstage
    refine ⟨_, hexec, ?_, fun d hd => congrArg Die.stkRefr (hdie d hd), fun a => ?_, ?_⟩
    · rw [hu]; rfl
    · rw [hu]; rfl
    · rw [hu]; rfl

end Sys2Proof.Claims
end

section
/-! SUPPORT. Resets and power (R350 to R352, R354, R357, R389): what a reset of every die leaves. -/

namespace Sys2Proof.Machine

open Sys2Proof.Claims

/-- Entries of a map that are listed only where they differ from the default. -/
theorem SMap.get_range'_filterMap {α : Type} [DecidableEq α] (g : Nat → α) (d : α) (n : Nat) {k : Nat} : ∀ a,
    SMap.get ((List.range' a n).filterMap (fun i => if g i = d then none else some (i, g i))) k d =
      if a ≤ k ∧ k < a + n then g k else d := by
  induction n with
  | zero => exact fun a => (if_neg (by omega)).symm
  | succ n ih =>
    intro a
    rw [List.range'_succ, List.filterMap_cons]
    by_cases ha : g a = d
    · rw [if_pos ha]
      refine (ih (a + 1)).trans ?_
      by_cases hk : a = k
      · subst hk
        rw [if_neg (by omega), if_pos (by omega), ha]
      · exact if_congr (by omega) rfl rfl
    · rw [if_neg ha]
      show Option.getD (if a = k then some (g a) else if k < a then none else SMap.find _ k) d = _
      by_cases hk : a = k
      · rw [if_pos hk, if_pos (by omega), hk]
        rfl
      · rw [if_neg hk]
        by_cases hlt : k < a
        · rw [if_pos hlt, if_neg (by omega)]
          rfl
        · rw [if_neg hlt]
          exact (ih (a + 1)).trans (if_congr (by omega) rfl rfl)

/-- A die after a reset, with the frame repairs that are kept (R179, R346, R352). -/
theorem Module.diesAfterReset_frep (m : Module) (kept : Nat → SMap Nat) {d : Nat} (hd : d < 32) :
    (SMap.get (m.diesAfterReset kept) d {}).frep = kept d := by
  rw [Module.diesAfterReset, List.range_eq_range']
  refine (congrArg Die.frep ((SMap.get_range'_filterMap _ _ 32 0).trans (if_pos (by omega)))).trans ?_
  split <;> rfl

theorem State.afterReset_diesReset (s : State) (stage : Stage) : DiesReset (s.afterReset stage) :=
  ⟨rfl, rfl, rfl, rfl, rfl, rfl, rfl, rfl, rfl, rfl, rfl, rfl, rfl⟩

/-- A module reset is a reset of every die, which then runs (R352 to R354). -/
theorem State.moduleReset_spec (s : State) : ∃ u : State, s.moduleReset = u ∧ u = { s.afterReset .die with dies := u.dies } ∧
    ∀ d, d < 32 → u.die d = { (s.afterReset .die).die d with released := true } :=
  ⟨(s.afterReset .die).updDies (fun x => { x with released := true }), rfl, State.updDies_eq _ _, fun d hd => by rw [State.updDies_die _ _ hd]⟩

end Sys2Proof.Machine

namespace Sys2Proof.Claims

open Sys2Proof.Machine

/-- Settles O47: a reset of every die (`State.afterReset_diesReset`), with what the module keeps. -/
theorem resetCommandsComplete : Obligations.ResetCommandsComplete := by
  unfold Obligations.ResetCommandsComplete
  intro s cause fn asked
  refine ⟨fun hvin hpg => runs_if (exec_powerOnReset ..) (by rw [hvin, hpg]; rfl)
      ⟨⟨rfl, rfl, rfl, rfl, rfl, rfl, rfl, rfl, rfl, rfl, rfl, rfl, rfl⟩, rfl, rfl, rfl, rfl, rfl, rfl, rfl⟩,
    fun hasked hrun => ?_, fun hcause hmgmt => ?_,
    ⟨_, exec_pgInFall .., ⟨rfl, rfl, rfl, rfl, rfl, rfl, rfl, rfl, rfl, rfl, rfl, rfl, rfl⟩, rfl, rfl, rfl, rfl⟩,
    ⟨_, exec_vinLoss .., ⟨rfl, rfl, rfl, rfl, rfl, rfl, rfl, rfl, rfl, rfl, rfl, rfl, rfl⟩, rfl, rfl, rfl⟩,
    fun hstage hon => runs_if (exec_railFault ..) ⟨hstage, hon⟩
      ⟨⟨rfl, rfl, rfl, rfl, rfl, rfl, rfl, rfl, rfl, rfl, rfl, rfl, rfl⟩, rfl, rfl, rfl⟩⟩
  · obtain ⟨u, hu, hrest, hdie⟩ := s.moduleReset_spec
    have hexec : exec (.moduleReset cause) s = .next u := by
      obtain rfl | ⟨rfl, hmgmt⟩ := hasked
      · exact congrArg Host.Outcome.next ((if_pos hrun).trans hu)
      · exact congrArg Host.Outcome.next ((if_pos (Bool.and_eq_true_iff.mpr ⟨hmgmt, hrun⟩)).trans hu)
    have hmod : u.mod = s.mod.afterReset .die := by rw [hrest]; rfl
    refine ⟨u, hexec, ?_, ?_⟩
    · rw [hrest]
      exact s.afterReset_diesReset .die
    · rw [hmod]
      refine ⟨rfl, rfl, rfl, rfl, rfl, by rw [hrest]; rfl, rfl, rfl, fun d hd => ?_⟩
      rw [hdie d hd]
      have hfrep : ((s.afterReset .die).die d).frep = if s.mod.full then [] else (s.die d).frep := by
        refine (Module.diesAfterReset_frep s.mod (fun d => if Stage.die = .die && !s.mod.full then (s.die d).frep else []) hd).trans ?_
        cases s.mod.full <;> rfl
      exact hfrep
  · refine ⟨s, ?_, rfl⟩
    rw [hcause]
    exact congrArg Host.Outcome.next (if_neg fun h => absurd (Bool.and_eq_true_iff.mp h).1 (ne_true_of_eq_false hmgmt))

end Sys2Proof.Claims
end

section
/-! SUPPORT. Group entries (R306 to R308, R325, R326): the rank table, the control messages that a group owes, and the end of the
operation that is alone on the module. -/

namespace Sys2Proof.Machine

open Sys2Proof.Claims

theorem length_eraseDups_le {α : Type} [BEq α] [LawfulBEq α] : ∀ (n : Nat) (l : List α), l.length ≤ n → l.eraseDups.length ≤ l.length
  | _, [], _ => Nat.le_refl 0
  | n + 1, a :: l, h => by
    rw [List.eraseDups_cons, List.length_cons, List.length_cons]
    have hfilter := List.length_filter_le (fun b => !b == a) l
    have hrest := length_eraseDups_le n (l.filter (fun b => !b == a)) (by rw [List.length_cons] at h; omega)
    omega

/-- A list of which no element is dropped as a duplicate has none. -/
theorem length_eraseDups_eq_iff {α : Type} [BEq α] [LawfulBEq α] (l : List α) : l.eraseDups.length = l.length ↔ l.Nodup := by
  induction l with
  | nil => simp
  | cons a l ih =>
    rw [List.eraseDups_cons, List.length_cons, List.length_cons, List.nodup_cons, ← ih]
    have hfilter := List.length_filter_le (fun b => !b == a) l
    have hrest := length_eraseDups_le _ (l.filter (fun b => !b == a)) (Nat.le_refl _)
    refine ⟨fun h => ?_, fun ⟨hnew, hsame⟩ => ?_⟩
    · have hall : ∀ b ∈ l, (!b == a) = true := List.length_filter_eq_length_iff.mp (by omega)
      have hself : l.filter (fun b => !b == a) = l := List.filter_eq_self.mpr hall
      rw [hself] at h
      exact ⟨fun ha => by simpa using hall a ha, by omega⟩
    · have hself : l.filter (fun b => !b == a) = l := List.filter_eq_self.mpr fun b hb => by
        simpa using fun h : b = a => hnew (h ▸ hb)
      rw [hself, hsame]

/-- Reading a rank table changes the caches and the functions' counters alone (R186, R307). -/
theorem State.rankTable_sansDies {s u : State} {g : Group} {bs : List Byte} (h : s.rankTable g = some (bs, u)) :
    u.sansDies = s.sansDies := by
  have hall (l : List (Nat × Nat)) : ∀ o : Option (List Byte × State), (∀ b, o = some b → b.2.sansDies = s.sansDies) →
      ∀ b, l.foldl (fun o p => o.bind (fun (b : List Byte × State) =>
        let s1 := b.2.walkTouch g.tenant p.1
        match b.2.translate g.tenant p.1 .read with
        | .at (.stack a) _ _ => some (b.1 ++ Memory.readBytes s.mem a p.2, s1.cacheRead a p.2 g.tenant 0)
        | _ => none)) o = some b → b.2.sansDies = s.sansDies := by
    induction l with
    | nil => exact fun o ho b hb => ho b hb
    | cons p l ih =>
      refine fun o ho b hb => ih _ (fun c hc => ?_) b hb
      obtain ⟨d, hd, hc⟩ := Option.bind_eq_some_iff.mp hc
      dsimp only at hc
      split at hc
      · cases hc
        exact ((State.cacheRead_onlyCaches ..).rest.trans (State.walkTouch_onlyCaches ..).rest).trans (ho d hd)
      · exact nomatch hc
  exact hall _ _ (fun b hb => Option.some.inj hb ▸ rfl) _ h

theorem State.sansDies_rest {s u : State} (h : u.sansDies = s.sansDies) : u = { s with dies := u.dies, funcs := u.funcs } :=
  congrArg (fun v : State => { v with dies := u.dies, funcs := u.funcs }) h

theorem State.sendMsg_onlyFab {s t : State} {sd : Sender} {h : MsgHdr} {bs : List Byte} (ht : s.sendMsg sd h bs = .sent t) :
    OnlyFab s t := by
  unfold State.sendMsg at ht
  dsimp only at ht
  rw [State.sendPlain_eq] at ht
  split at ht
  · exact nomatch ht
  · cases hroute : s.routeTo h.dest sd.cls with
    | none => simp [hroute] at ht
    | some r =>
      simp only [hroute, SendResult.sent.injEq] at ht
      rw [← ht]
      rfl

/-- A group without the control messages that it owes. -/
def State.groupSansOwed (s : State) (k : Nat) : Group := { s.group k with owed := [] }

/-- Sending what a group owes changes no more of any group. -/
theorem State.sendOwed_groups (s : State) (gi : Nat) : (s.sendOwed gi).groupSansOwed = s.groupSansOwed := by
  have hupd (t : State) (f : Group → Group) (hf : ∀ g, { f g with owed := [] } = { g with owed := [] }) :
      (t.updGroup gi f).groupSansOwed = t.groupSansOwed := by
    funext k
    rw [State.groupSansOwed, State.group_updGroup]
    split
    · next h => rw [hf, h]; rfl
    · rfl
  refine (foldl_view (view := State.groupSansOwed) (fun t m => ?_) _ (s.updGroup gi _)).trans (hupd s _ fun _ => rfl)
  split
  · next u hu =>
    exact (congrArg (fun gs : SMap Group => fun k => { SMap.get gs k {} with owed := [] }) (State.sendMsg_onlyFab hu).groups :)
  · exact hupd t _ fun _ => rfl
  · rfl

end Sys2Proof.Machine

namespace Sys2Proof.Claims

open Sys2Proof.Machine

/-! The end of the operation that is alone on the module (R314, R327): sends change none of it. -/

theorem OnlyOp.of_sansSends {s t : State} {g die : Nat} {o : LigOp} {r : CmdRef} {m : Cmd} (h : OnlyOp s g die o r m)
    (ht : t.sansSends = s.sansSends) : OnlyOp t g die o r m :=
  (congrArg (fun u : State => OnlyOp u g die o r m) ht).mpr h

theorem OpEnds.of_sansSends {s t u : State} {o : LigOp} {r : CmdRef} {m : Cmd} {status detail : Nat} (h : OpEnds s t o r m status detail)
    (hu : u.sansSends = t.sansSends) : OpEnds s u o r m status detail :=
  (congrArg (fun v : State => OpEnds s v o r m status detail) hu).mpr h

theorem OpEnds.from_sansSends {s t u : State} {o : LigOp} {r : CmdRef} {m : Cmd} {status detail : Nat} (h : OpEnds u t o r m status detail)
    (hu : u.sansSends = s.sansSends) : OpEnds s t o r m status detail :=
  (congrArg (fun v : State => OpEnds v t o r m status detail) hu).mp h

section
variable {s : State} {g die : Nat} {o : LigOp} {r : CmdRef} {m : Cmd}

theorem OnlyOp.ligClose (h : OnlyOp s g die o r m) (status detail : Nat) : OpEnds s (s.ligClose o status detail) o r m status detail := by
  obtain ⟨hops, -, hdie, howner, hcmd, hopen, htraces⟩ := h
  have hgone : s.ligGone o r.queue.toNat r.seq.toNat status = (({ s with
      ligOps := []
      ligMsgs := s.ligMsgs.filter (fun m => !(m.group == o.group && m.die == o.die && m.opseq == o.opseq % 65536))
      : State }).forgetReads (fun e : Engine => e == .ligature o.group o.die)).updDie o.die
        (fun d => d.dropEngine (.ligature o.group o.die)) := by
    rw [State.ligGone, State.trace_of_no_rings (hdie ▸ htraces), hops]
    simp
  have href (x : Cmd) : (x.unlessComplete (fun m => (o.addTo m).finish status detail)).ref = x.ref := by
    rw [Cmd.unlessComplete]
    split
    · rfl
    · exact Cmd.finish_ref ..
  rw [State.ligClose_ofCmd howner, hgone]
  refine ⟨rfl, fun _ => rfl, rfl, rfl, fun q hq => ?_, ?_⟩
  · exact State.cmd_updCmd_ne _ hq href
  · refine (State.cmd_updCmd_same _ _ href).trans ((congrArg (Option.map _) hcmd).trans ?_)
    exact congrArg some (if_neg (by rw [hopen]; exact Bool.false_ne_true))

/-- The end of the operation leaves the groups (R327). -/
theorem OnlyOp.ligClose_groups (h : OnlyOp s g die o r m) (status detail : Nat) : (s.ligClose o status detail).groups = s.groups := by
  obtain ⟨-, -, hdie, howner, -, -, htraces⟩ := h
  rw [State.ligClose_ofCmd howner, State.ligGone, State.trace_of_no_rings (hdie ▸ htraces)]
  rfl

/-- With no operation left an abort ends none (R327). -/
theorem ligAborted_sansSends {t : State} (ht : t.ligOps = []) (gi opseq rank : Nat) : (t.ligAborted gi opseq rank).sansSends = t.sansSends := by
  unfold State.ligAborted
  extract_lets later s1
  rw [show s1.ligOps = [] from ht]
  rfl

/-- The operation ends with PEER_LOST (R325, R327). -/
theorem OnlyOp.ligEnd_lost (h : OnlyOp s g die o r m) (detail : Nat) : OpEnds s (s.ligEnd o 10 detail) o r m 10 detail := by
  have hclose := h.ligClose 10 detail
  have hcontrol : ((s.ligClose o 10 detail).ligControl o 2).sansSends = (s.ligClose o 10 detail).sansSends := State.ligControl_sansSends ..
  have hends := hclose.of_sansSends hcontrol
  exact hends.of_sansSends (ligAborted_sansSends hends.1 ..)

theorem OnlyOp.ligOp (h : OnlyOp s g die o r m) (hphase : o.phase ≠ .queued) : s.ligOp g die = some o := by
  obtain ⟨hops, hgroup, hdie, -⟩ := h
  rw [State.ligOp, hops]
  exact List.find?_cons_of_pos (by simp [hgroup, hdie, hphase])

end

/-! Group entries and their timers. -/

theorem onlyGroup_updGroup (s : State) (g : Nat) (f : Group → Group) : OnlyGroup s (s.updGroup g f) g :=
  ⟨rfl, fun i hi => by rw [State.group_updGroup, if_neg hi.symm]⟩

theorem runs_updGroup {i : Instr} {s u : State} {g : Nat} {f : Group → Group} {x : Group} (h : exec i s = .next (u.updGroup g f))
    (hx : f (u.group g) = x) : Runs i s (fun t => OnlyGroup u t g ∧ t.group g = x) :=
  ⟨_, h, onlyGroup_updGroup u g f, (State.group_updGroup_same ..).trans hx⟩

/-- A group that owes nothing sends nothing. -/
theorem sendOwed_none {s : State} {gi : Nat} (h : (s.group gi).owed = []) : s.sendOwed gi = s.updGroup gi (fun g => { g with owed := [] }) := by
  rw [State.sendOwed, h]
  rfl

/-- Only the groups' table differs, and each group reads as before. -/
def SameGroups (s t : State) : Prop := t = { s with groups := t.groups } ∧ ∀ k, t.group k = s.group k

theorem SameGroups.sendOwed {s t : State} (h : SameGroups s t) {gi : Nat} (howed : (s.group gi).owed = []) : SameGroups s (t.sendOwed gi) := by
  obtain ⟨hrest, hgroups⟩ := h
  rw [sendOwed_none (hgroups gi ▸ howed)]
  refine ⟨?_, fun k => ?_⟩
  · rw [hrest]
    rfl
  · rw [State.group_updGroup]
    split
    · next hk =>
      subst hk
      rw [hgroups, ← howed]
    · exact hgroups k

theorem sansSends_rest {s t : State} (h : t.sansSends = s.sansSends) : t = { s with groups := t.groups, fab := t.fab } :=
  congrArg (fun u : State => { u with groups := t.groups, fab := t.fab }) h

/-- A deferral notice of a group changes what the group owes, the messages on their way, and that its timers are paused (R326). -/
theorem deferGroup_view (s : State) (o : LigOp) (ltype : Nat) : (s.deferGroup o ltype).sansSends = s.sansSends ∧
    (s.deferGroup o ltype).groupSansOwed o.group = { s.groupSansOwed o.group with paused := true } := by
  refine ⟨s.ligControl_sansSends o ltype, ?_⟩
  have hcontrol : (s.ligControl o ltype).groupSansOwed o.group = s.groupSansOwed o.group := by
    refine (congrFun (State.sendOwed_groups _ _) _).trans ?_
    rw [State.groupSansOwed, State.group_updGroup_same]
    rfl
  rw [State.deferGroup, State.groupSansOwed, State.group_updGroup_same]
  exact congrArg (fun g : Group => { g with paused := true }) hcontrol

/-- The entry that a rank table gives (R308). -/
theorem groupLoaded_table {s u : State} {gi : Nat} {bs : List Byte} (hset : (s.group gi).setst = 1)
    (htable : s.rankTable (s.group gi) = some (bs, u)) :
    s.groupLoaded gi =
      let g := s.group gi
      let es := elemsFrom 2 (g.nm1 + 1) bs
      let ranks := es.map (fun e => (e / 32, e % 32))
      if es.any (fun e => decide (2 ^ 15 ≤ e)) || es.eraseDups.length != es.length
        || u.groups.any (fun p => p.1 != gi && p.2.setst == 2 && p.2.gid == g.gid) then
        u.updGroup gi (fun g => { g with setst := 3, members := 0 })
      else u.updGroup gi (fun g => { g with
        setst := 2, ranks := ranks, tabCrc := (crc64 bs).toNat
        members := (ranks.filter (fun p => p.1 == u.moduleNo)).foldl (fun a p => a + 2 ^ p.2) 0 }) := by
  unfold State.groupLoaded
  simp only [hset, htable, ne_eq, not_true_eq_false, if_false]

/-- The groups' owed messages go out first at each tick (R294, R326). -/
def owedSent (s : State) : State := (s.groups.map (fun p => p.1)).foldl State.sendOwed s

theorem owedSent_sansSends (s : State) : (owedSent s).sansSends = s.sansSends :=
  foldl_view (view := State.sansSends) (f := State.sendOwed) (fun t gi => t.sendOwed_sansSends gi) _ s

theorem owedSent_groups (s : State) : (owedSent s).groupSansOwed = s.groupSansOwed :=
  foldl_view (view := State.groupSansOwed) (f := State.sendOwed) (fun t gi => t.sendOwed_groups gi) _ s

theorem owedSent_none {s : State} (h : ∀ k, (s.group k).owed = []) : SameGroups s (owedSent s) := by
  have hall (l : List Nat) : ∀ t, SameGroups s t → SameGroups s (l.foldl State.sendOwed t) := by
    induction l with
    | nil => exact fun _ ht => ht
    | cons gi l ih => exact fun t ht => ih _ (ht.sendOwed (h gi))
  exact hall _ s ⟨rfl, fun _ => rfl⟩

/-- The tick of a module with one operation under way (R326). -/
theorem exec_deferNoticeTick_alone {s : State} {o : LigOp} (hops : s.ligOps = [o]) (hphase : o.phase ≠ .queued) :
    exec .deferNoticeTick s = .next (
      let v := if (owedSent s).throttled then (owedSent s).deferGroup o 3 else owedSent s
      if o.stalled then v.deferGroup o 4 else v) := by
  have hops' : (owedSent s).ligOps = [o] := (congrArg State.ligOps (owedSent_sansSends s)).trans hops
  have hrun : [o].filter (fun o => o.phase != .queued) = [o] := by simp [hphase]
  rw [exec_deferNoticeTick, execDeferNoticeTick]
  rw [show (s.groups.map (fun p => p.1)).foldl State.sendOwed s = owedSent s from rfl]
  simp only [hops', hrun]
  cases hstalled : o.stalled
  · simp [hstalled, List.eraseDups_cons]
  · simp [hstalled, List.eraseDups_cons]

/-- The tick of a module that is not throttled, with no operation stalled (R326). -/
theorem exec_deferNoticeTick_idle {s : State} (hthrottled : s.throttled = false) (hstalled : ∀ x ∈ s.ligOps, x.stalled = false) :
    exec .deferNoticeTick s = .next (owedSent s) := by
  have hsends := owedSent_sansSends s
  have hops : (owedSent s).ligOps = s.ligOps := (congrArg State.ligOps hsends :)
  have hquiet : (owedSent s).throttled = false := (congrArg State.throttled hsends :).trans hthrottled
  have hnone : (s.ligOps.filter (fun o => o.phase != .queued)).filter (fun o => o.stalled) = [] := by
    refine List.filter_eq_nil_iff.mpr fun x hx => ?_
    rw [hstalled x (List.mem_filter.mp hx).1]
    exact Bool.false_ne_true
  rw [exec_deferNoticeTick, execDeferNoticeTick]
  rw [show (s.groups.map (fun p => p.1)).foldl State.sendOwed s = owedSent s from rfl]
  simp [hops, hquiet, hnone]

/-- Notices leave a group's timers paused (R326). -/
theorem deferGroup_paused {s u : State} {o : LigOp} {g : Group} (ltype : Nat) (hsends : u.sansSends = s.sansSends)
    (hgroup : { u.groupSansOwed o.group with paused := true } = { g with owed := [], paused := true }) :
    (u.deferGroup o ltype).sansSends = s.sansSends ∧ (u.deferGroup o ltype).groupSansOwed o.group = { g with owed := [], paused := true } :=
  ⟨(deferGroup_view u o ltype).1.trans hsends, (deferGroup_view u o ltype).2.trans hgroup⟩

/-- Settles O52: a write of an entry, its load (`State.rankTable_sansDies`), a deferral and a time-out (`OnlyOp.ligEnd_lost`). -/
theorem groupCommandsComplete : Obligations.GroupCommandsComplete := by
  unfold Obligations.GroupCommandsComplete
  intro s fn group die v o r m bs u i g free es ranks
  have hfree (h : free) : ¬ s.ligOps.any (fun x => x.group == i) = true := by simpa [free] using h
  refine ⟨fun hmgmt hnone hvalid => ?_, fun hmgmt hnone => ?_, fun hignored => ?_, fun htable => State.sansDies_rest (State.rankTable_sansDies htable),
    fun hset htable hlow hnodup hgid => ?_, fun hset htable => ?_, fun hset htable hbad => ?_,
    runs_updGroup (exec_timerPauseEnd ..) rfl, fun honly hphase hcause => ?_, fun hthrottled hstalled howed => ?_,
    fun honly hphase hpaused htmo => ?_, fun hidle => ?_⟩
  · refine runs_updGroup ((exec_groupLoad ..).trans (congrArg Host.Outcome.next ((if_pos (by rw [hmgmt, hvalid]; rfl)).trans
      (if_neg (hfree hnone))))) ?_
    rw [hvalid]
    rfl
  · exact runs_updGroup ((exec_groupEnd ..).trans (congrArg Host.Outcome.next (if_pos (by
      rw [hmgmt, Bool.not_eq_true _ |>.mp (hfree hnone)]; rfl)))) rfl
  · obtain hmgmt | ⟨x, hx, hgroup⟩ := hignored
    · exact ⟨runs_else (exec_groupLoad ..) (by rw [hmgmt]; exact Bool.false_ne_true) rfl,
        runs_else (exec_groupEnd ..) (by rw [hmgmt]; exact Bool.false_ne_true) rfl⟩
    · have hbusy : s.ligOps.any (fun x => x.group == i) = true := List.any_eq_true.mpr ⟨x, hx, beq_iff_eq.mpr hgroup⟩
      have hwrite : s.groupWrite i v = s := if_pos hbusy
      refine ⟨⟨s, ?_, rfl⟩, runs_else (exec_groupEnd ..) (by rw [hbusy, Bool.not_true, Bool.and_false]; exact Bool.false_ne_true) rfl⟩
      rw [exec_groupLoad, execGroupLoad, show s.groupWrite group.toNat v = s from hwrite, ite_self]
  · have hu : u.groups = s.groups := (congrArg State.groups (State.rankTable_sansDies htable) :)
    have hgroup : u.group i = g := (congrArg (fun v : State => v.group i) (State.rankTable_sansDies htable) :)
    have hmodule : u.moduleNo = s.moduleNo := (congrArg State.moduleNo (State.rankTable_sansDies htable) :)
    have hlow' : es.any (fun e => decide (2 ^ 15 ≤ e)) = false := by
      simpa using hlow
    have hgid' : s.groups.any (fun p => p.1 != i && p.2.setst == 2 && p.2.gid == g.gid) = false := by
      refine List.any_eq_false.mpr fun p hp h => ?_
      simp only [Bool.and_eq_true, bne_iff_ne, beq_iff_eq] at h
      exact hgid p hp h.1.1 h.1.2 h.2
    have hgood : ¬ (es.any (fun e => decide (2 ^ 15 ≤ e)) || es.eraseDups.length != es.length
        || u.groups.any (fun p => p.1 != i && p.2.setst == 2 && p.2.gid == g.gid)) = true := by
      rw [hlow', (length_eraseDups_eq_iff es).mpr hnodup, hu, hgid', bne_self_eq_false]
      decide
    refine runs_updGroup ((exec_groupLoadDone ..).trans (congrArg Host.Outcome.next ((groupLoaded_table hset htable).trans (if_neg hgood)))) ?_
    rw [hgroup, hmodule]
  · refine runs_updGroup (f := fun g => { g with setst := 3, members := 0 })
      ((exec_groupLoadDone ..).trans (congrArg Host.Outcome.next ?_)) rfl
    unfold State.groupLoaded
    simp only [show (s.group group.toNat).setst = 1 from hset, show s.rankTable (s.group group.toNat) = none from htable, ne_eq,
      not_true_eq_false, if_false]
    rfl
  · have hu : u.groups = s.groups := (congrArg State.groups (State.rankTable_sansDies htable) :)
    have hgroup : u.group i = g := (congrArg (fun v : State => v.group i) (State.rankTable_sansDies htable) :)
    have hrejected : (es.any (fun e => decide (2 ^ 15 ≤ e)) || es.eraseDups.length != es.length
        || u.groups.any (fun p => p.1 != i && p.2.setst == 2 && p.2.gid == g.gid)) = true := by
      obtain ⟨e, he, hhigh⟩ | hdup := hbad
      · rw [List.any_eq_true.mpr ⟨e, he, decide_eq_true hhigh⟩]
        rfl
      · rw [bne_iff_ne.mpr (mt (length_eraseDups_eq_iff es).mp hdup), Bool.or_true]
        rfl
    refine runs_updGroup ((exec_groupLoadDone ..).trans (congrArg Host.Outcome.next ((groupLoaded_table hset htable).trans (if_pos hrejected)))) ?_
    rw [hgroup]
  · refine ⟨_, exec_deferNoticeTick_alone honly.1 hphase, ?_⟩
    have hsends := owedSent_sansSends s
    have hgroups : (owedSent s).groupSansOwed o.group = { g with owed := [] } := by
      rw [owedSent_groups, honly.2.1]
      rfl
    rw [show (owedSent s).throttled = s.throttled from (congrArg State.throttled hsends :)]
    generalize owedSent s = u at hsends hgroups
    have hpause (ltype : Nat) := deferGroup_paused (o := o) (g := g) ltype hsends (by rw [hgroups])
    have hdone (t : State) (ht : t.sansSends = s.sansSends ∧ t.groupSansOwed o.group = { g with owed := [], paused := true }) :
        t = { s with groups := t.groups, fab := t.fab } ∧ t.group i = { g with paused := true, owed := (t.group i).owed } := by
      refine ⟨sansSends_rest ht.1, ?_⟩
      have hgroup := ht.2
      rw [honly.2.1] at hgroup
      exact congrArg (fun x : Group => { x with owed := (t.group i).owed }) hgroup
    apply hdone
    dsimp only
    cases hthrottled : s.throttled
    · rw [hcause.resolve_left (by rw [hthrottled]; exact Bool.false_ne_true)]
      exact hpause 4
    · cases hstalled : o.stalled
      · exact hpause 3
      · exact deferGroup_paused 4 (hpause 3).1 (congrArg (fun x : Group => { x with paused := true }) (hpause 3).2)
  · refine ⟨_, exec_deferNoticeTick_idle hthrottled hstalled, owedSent_none howed⟩
  · refine ⟨_, ?_, honly.ligEnd_lost _⟩
    rw [exec_groupTimeout, execGroupTimeout, honly.ligOp hphase]
    exact congrArg Host.Outcome.next (if_neg (by simp [show (s.group group.toNat).paused = false from hpaused,
      show (s.group group.toNat).tmo ≠ 0 from htmo]))
  · refine ⟨s, ?_, rfl⟩
    rw [exec_groupTimeout, execGroupTimeout]
    cases s.ligOp group.toNat die.toNat with
    | none => rfl
    | some o =>
      refine congrArg Host.Outcome.next (if_pos ?_)
      obtain h | h := hidle
      · rw [show (s.group group.toNat).paused = true from h]; rfl
      · simp [show (s.group group.toNat).tmo = 0 from h]

end Sys2Proof.Claims
end

section
/-! SUPPORT. Collective operations (R313, R315 to R319, R323 to R328): what a step sends on its own module, and messages that arrive. -/

namespace Sys2Proof.Machine

open Sys2Proof.Claims

/-! Summaries of digests (R323). -/

theorem DigestSum.join_same {a b : DigestSum} (ha : a.count = 0) (hb : b.count = 0) (href : b.ref = a.ref) (base size : Nat) :
    (a.join b base size).count = 0 ∧ (a.join b base size).ref = a.ref := by
  rw [DigestSum.join, if_pos href]
  exact ⟨by rw [ha, hb], rfl⟩

theorem DigestSum.join_differ {a b : DigestSum} (ha : a.count = 0) (hb : b.count = 0) (href : b.ref ≠ a.ref) (base size : Nat) :
    a.join b base size = { ref := a.ref, low := base, digx := b.ref, count := size } := by
  rw [DigestSum.join, if_neg href]
  simp [ha, hb]

/-! What a member hands to the members of its own module (R315, R323). -/

/-- The message that a member hands to a rank of its module. -/
def State.handed (s : State) (o : LigOp) (k : Nat) (bs : List Byte) : LigMsg :=
  { group := o.group, die := ((s.group o.group).ranks.getD k (0, 0)).2, opseq := o.opseq % 65536, step := o.step
    digest := o.phase == .digest, src := o.rank, pos := 0, rel := true, dig := some (o.digest (s.group o.group)), data := bs }

/-- Every member of a group is on this module. -/
def State.allHere (s : State) (o : LigOp) : Prop := ∀ k, k < s.ligN o → ((s.group o.group).ranks.getD k (0, 0)).1 = s.moduleNo

theorem State.ligHand_here {s t : State} {o : LigOp} {k : Nat} (hgroups : t.groups = s.groups) (hmod : t.mod = s.mod)
    (hk : ((s.group o.group).ranks.getD k (0, 0)).1 = s.moduleNo) (bs : List Byte) :
    t.ligHand o k bs = ({ t with ligMsgs := t.ligMsgs ++ [s.handed o k bs] }, []) := by
  have hgroup : t.group o.group = s.group o.group := congrArg (fun gs : SMap Group => SMap.get gs o.group {}) hgroups
  have hmodule : t.moduleNo = s.moduleNo := congrArg (fun m : Module => if m.placeValid then m.place else 0) hmod
  unfold State.ligHand
  rw [hgroup, hmodule]
  refine (if_pos hk).trans ?_
  rfl

/-- A member hands a rank its message of the current step, as `State.stepSends` goes through the ranks. -/
def State.handTo (s : State) (o : LigOp) (a : State × List (Nat × Nat × List Byte)) (r : Nat) : State × List (Nat × Nat × List Byte) :=
  match s.ligGives o r with
  | none => a
  | some bs => ((a.1.ligHand o r bs).1, a.2 ++ (a.1.ligHand o r bs).2)

theorem State.stepSends_eq (s : State) (o : LigOp) : s.stepSends o =
    ((List.range (s.ligN o)).foldl (s.handTo o) (s, [])).1.ligFlush o ((List.range (s.ligN o)).foldl (s.handTo o) (s, [])).2 := rfl

/-- Handing messages to ranks of this module leaves nothing to be sent. -/
theorem State.foldl_handTo_here {s : State} {o : LigOp} {l : List Nat}
    (hl : ∀ k ∈ l, ((s.group o.group).ranks.getD k (0, 0)).1 = s.moduleNo) (msgs : List LigMsg) :
    ∃ more, l.foldl (s.handTo o) ({ s with ligMsgs := s.ligMsgs ++ msgs }, []) = ({ s with ligMsgs := s.ligMsgs ++ (msgs ++ more) }, []) ∧
      ∀ k bs, k ∈ l → s.ligGives o k = some bs → s.handed o k bs ∈ more := by
  induction l generalizing msgs with
  | nil => exact ⟨[], by rw [List.append_nil]; rfl, fun _ _ hk => nomatch hk⟩
  | cons r l ih =>
    have htail := ih fun k hk => hl k (List.mem_cons_of_mem _ hk)
    rw [List.foldl_cons, State.handTo]
    cases hgives : s.ligGives o r with
    | none =>
      obtain ⟨more, hmore, hmem⟩ := htail msgs
      refine ⟨more, hmore, fun k bs hk hbs => ?_⟩
      obtain rfl | hk := List.mem_cons.mp hk
      · rw [hgives] at hbs
        exact nomatch hbs
      · exact hmem k bs hk hbs
    | some bs =>
      obtain ⟨more, hmore, hmem⟩ := htail (msgs ++ [s.handed o r bs])
      refine ⟨s.handed o r bs :: more, ?_, fun k b hk hb => ?_⟩
      · dsimp only
        rw [State.ligHand_here (s := s) (t := { s with ligMsgs := s.ligMsgs ++ msgs }) rfl rfl (hl r (List.mem_cons_self ..))]
        rw [List.append_assoc, List.singleton_append] at hmore
        refine Eq.trans ?_ hmore
        rw [List.append_nil, List.append_assoc]
      · obtain rfl | hk := List.mem_cons.mp hk
        · rw [hgives] at hb
          cases hb
          exact List.mem_cons_self ..
        · exact List.mem_cons_of_mem _ (hmem k b hk hb)

/-- A step whose members are all on this module hands each its message, and is sent at once. -/
theorem State.stepSends_here {s : State} {o : LigOp} (hhere : s.allHere o) :
    ∃ msgs, s.stepSends o = ({ s with ligMsgs := s.ligMsgs ++ msgs }.putOp { o with out := [] }) ∧
      ∀ k bs, k < s.ligN o → s.ligGives o k = some bs → s.handed o k bs ∈ msgs := by
  obtain ⟨msgs, hmsgs, hmem⟩ := State.foldl_handTo_here (o := o) (fun k hk => hhere k (List.mem_range.mp hk)) []
  rw [List.append_nil, List.nil_append] at hmsgs
  rw [State.stepSends_eq]
  exact ⟨msgs, congrArg (fun x => x.1.ligFlush o x.2) hmsgs, fun k bs hk hbs => hmem k bs (List.mem_range.mpr hk) hbs⟩

theorem State.putOp_alone {s : State} {o p : LigOp} (hops : s.ligOps = [o]) (hsame : o.same p = true) :
    s.putOp p = { s with ligOps := [p] } := by
  rw [State.putOp, hops, updFirst, if_pos hsame]

end Sys2Proof.Machine

namespace Sys2Proof.Claims

open Sys2Proof.Machine

/-- Only the operations, the messages held for them and the dies' caches differ. -/
def OnlyOps (s t : State) : Prop :=
  t = { s with groups := t.groups, ligOps := t.ligOps, ligMsgs := t.ligMsgs, dies := t.dies } ∧ ∀ k, t.group k = s.group k

theorem SameGroups.onlyOps {s t : State} (h : SameGroups s t) : OnlyOps s t :=
  ⟨congrArg (fun u : State => { u with groups := t.groups, ligOps := t.ligOps, ligMsgs := t.ligMsgs, dies := t.dies }) h.1, h.2⟩

theorem OnlyOps.allHere {s t : State} {o p : LigOp} (h : OnlyOps s t) (hgroup : p.group = o.group) (hhere : s.allHere o) : t.allHere p := by
  have hmodule : t.moduleNo = s.moduleNo := (congrArg State.moduleNo h.1 :)
  intro k hk
  rw [State.ligN, hgroup, h.2] at hk
  rw [hgroup, h.2, hmodule]
  exact hhere k hk

theorem OnlyOps.setOps {s t : State} (h : OnlyOps s t) (l : List LigOp) : OnlyOps s { t with ligOps := l } :=
  ⟨(congrArg (fun u : State => { u with groups := t.groups, ligOps := l, ligMsgs := t.ligMsgs, dies := t.dies }) h.1 :), h.2⟩

theorem OnlyOps.ligUsed {s t : State} (h : OnlyOps s t) (o : LigOp) (srcs : List Nat) : OnlyOps s (t.ligUsed o srcs) :=
  ⟨(congrArg (fun u : State => { u with
    groups := t.groups, ligOps := t.ligOps, ligMsgs := (t.ligUsed o srcs).ligMsgs, dies := t.dies }) h.1 :), h.2⟩

/-- In the digest round a member gives its summary to the ranks that receive it (R323). -/
theorem ligGives_digest {s : State} {o : LigOp} (h : o.phase = .digest) (k : Nat) :
    s.ligGives o k = (doubling (s.ligN o) o.step o.rank k).map (fun _ => o.known.bytes) := by
  rw [State.ligGives]
  exact if_pos (by rw [h]; rfl)

/-- A step of the operation that is alone, sent inside the module. -/
theorem OnlyOps.stepSends {s t : State} {o p : LigOp} (h : OnlyOps s t) (hops : t.ligOps = [o]) (hsame : o.same p = true)
    (hgroup : p.group = o.group) (hhere : s.allHere o) :
    OnlyOps s (t.stepSends p) ∧ (t.stepSends p).ligOps = [{ p with out := [] }] ∧
      ∀ k bs, k < s.ligN o → t.ligGives p k = some bs → t.handed p k bs ∈ (t.stepSends p).ligMsgs := by
  obtain ⟨msgs, hsent, hmsgs⟩ := State.stepSends_here (h.allHere hgroup hhere)
  rw [hsent, State.putOp_alone (s := { t with ligMsgs := t.ligMsgs ++ msgs }) (p := { p with out := [] }) hops hsame]
  refine ⟨⟨?_, h.2⟩, rfl, fun k bs hk hbs => List.mem_append_right _ (hmsgs k bs ?_ hbs)⟩
  · exact (congrArg (fun u : State => { u with
      groups := t.groups, ligOps := [{ p with out := [] }], ligMsgs := t.ligMsgs ++ msgs, dies := t.dies }) h.1 :)
  · rw [State.ligN, hgroup, h.2]
    exact hk

/-! A group that owes nothing: what a member sees of its step does not change (R294). -/

theorem SameGroups.ligSources {s t : State} (h : SameGroups s t) (o : LigOp) : t.ligSources o = s.ligSources o := by
  have hn : t.ligN o = s.ligN o := congrArg (fun g : Group => g.nm1 + 1) (h.2 o.group)
  rw [State.ligSources, hn]
  refine List.filter_congr fun q _ => ?_
  rw [State.ligExpects, State.ligExpects, hn]

theorem SameGroups.ligFrom {s t : State} (h : SameGroups s t) (o : LigOp) (q : Nat) : t.ligFrom o q = s.ligFrom o q :=
  (congrArg (fun u : State => u.ligFrom o q) h.1 :)

theorem SameGroups.ligOps {s t : State} (h : SameGroups s t) : t.ligOps = s.ligOps :=
  (congrArg State.ligOps h.1 :)

theorem SameGroups.sansSends {s t : State} (h : SameGroups s t) : t.sansSends = s.sansSends :=
  (congrArg State.sansSends h.1 :)

theorem SameGroups.refl (s : State) : SameGroups s s := ⟨rfl, fun _ => rfl⟩

/-! The steps of the operation that is alone on the module. -/

section
variable {s t : State} {g die : Nat} {o : LigOp} {r : CmdRef} {m : Cmd}

/-- The operation starts when its command has started, in an untrusted group with its digest round (R313, R323). -/
theorem opStart_alone (h : OnlyOp s g die o r m) (hphase : o.phase = .queued) :
    s.opStart g die =
      if m.isStarted then
        if (s.group g).trusted then (s.putOp { o with phase := .data }).ligLoad { o with phase := .data }
        else s.stepSends { o with phase := .digest, known := DigestSum.one (o.digest (s.group g)) }
      else s := by
  obtain ⟨hops, hgroup, hdie, howner, hcmd, -, htraces⟩ := h
  unfold State.opStart
  have hnone : s.ligOp g die = none := by
    rw [State.ligOp, hops]
    simp [hphase]
  have hfound : s.ligOps.find? (fun o => o.group == g && o.die == die) = some o := by
    rw [hops]
    exact List.find?_cons_of_pos (by simp [hgroup, hdie])
  have hligCmd : s.ligCmd o = some r := by rw [State.ligCmd, howner]
  simp only [hnone, hfound, howner, hcmd, hligCmd, Option.isSome_none, Bool.false_eq_true, if_false, State.trace_of_no_rings htraces]
  cases m.isStarted <;> rfl

/-- The digest round goes on to the next step (R323). -/
theorem digestStep_goesOn {q : Nat} {x : LigMsg} {xs : List LigMsg} (h : OnlyOp s g die o r m) (hphase : o.phase = .digest)
    (hout : o.out = []) (hsources : s.ligSources o = [q]) (hfrom : s.ligFrom o q = x :: xs)
    (hstep : o.step + 1 < ceilLog2 (s.ligN o)) (hsame : SameGroups s (s.sendOwed g)) :
    s.digestStep g die = State.stepSends (((s.sendOwed g).ligUsed o [q]).putOp (o.learn (s.ligN o) (DigestSum.parse x.data)))
      (o.learn (s.ligN o) (DigestSum.parse x.data)) := by
  have hfound : (s.sendOwed g).ligOp g die = some o := (h.of_sansSends hsame.sansSends).ligOp (by rw [hphase]; exact nofun)
  have hn : (s.sendOwed g).ligN o = s.ligN o := congrArg (fun g : Group => g.nm1 + 1) (hsame.2 o.group)
  have hlearn (n : Nat) (d : DigestSum) : (o.learn n d).step = o.step + 1 := rfl
  unfold State.digestStep
  simp only [hfound, hn, hphase, hout, hsame.ligSources, hsources, hsame.ligFrom, hfrom, bne_self_eq_false, Bool.false_eq_true, if_false,
    List.isEmpty_nil, Bool.not_true, show ¬ ceilLog2 (s.ligN o) ≤ o.step by omega, List.any_cons, List.any_nil, List.isEmpty_cons,
    Bool.or_false, List.flatMap_cons, List.flatMap_nil, List.append_nil, List.head?_cons, Option.map_some, Option.getD_some, hlearn,
    show ¬ ceilLog2 (s.ligN o) ≤ o.step + 1 by omega]

/-- After the last step of the digest round its outcome is decided (R323). -/
theorem digestStep_decides (h : OnlyOp s g die o r m) (hphase : o.phase = .digest) (hout : o.out = [])
    (hstep : ceilLog2 ((s.group g).nm1 + 1) ≤ o.step) : s.digestStep g die = (s.sendOwed g).digestDecide o := by
  have hfound : (s.sendOwed g).ligOp g die = some o := (h.of_sansSends (s.sendOwed_sansSends g)).ligOp (by rw [hphase]; exact nofun)
  have hn : (s.sendOwed g).ligN o = (s.group g).nm1 + 1 := by
    rw [State.ligN, h.2.1]
    exact (congrArg (fun f : Nat → Group => (f g).nm1 + 1) (s.sendOwed_groups g) :)
  unfold State.digestStep
  simp only [hfound, hn, hphase, hout, bne_self_eq_false, Bool.false_eq_true, if_false, List.isEmpty_nil, Bool.not_true, hstep, if_true]

end

/-- A barrier's operation begins its data steps with no data (R310, R315). -/
theorem LigOp.start_barrier {o : LigOp} (hop : o.coll.op = 0x35) (hcount : o.coll.count = 0) (n : Nat) :
    o.start n [] = { o with loaded := true, acc := [] } := by
  have hnone : (List.range (o.coll.chunks n false * o.coll.count)).map
      (fun i => o.coll.widen (leNat [] / 2 ^ (o.coll.width false * i) % 2 ^ o.coll.width false)) = [] := by
    rw [hcount, Nat.mul_zero, List.range_zero, List.map_nil]
  unfold LigOp.start
  simp only [hnone, hop]

/-- A barrier reads no data before its first step (R310). -/
theorem ligLoad_barrier {s : State} {o : LigOp} (hop : o.coll.op = 0x35) (hcount : o.coll.count = 0) :
    s.ligLoad o =
      let t := s.accessDone (.ligature o.group o.die) (s.ligCmd o)
      let p : LigOp := { o with loaded := true, acc := [] }
      if o.coll.steps (s.ligN o) = 0 then t.putOp p else t.stepSends p := by
  have hrecv : o.coll.bytes (s.ligN o) true = 0 := by
    rw [Coll.bytes, Coll.chunkBytes, hcount, Nat.zero_mul, Nat.zero_div, Nat.mul_zero]
  have hsend : o.coll.sends o.rank = false := by
    rw [Coll.sends, hop]
    rfl
  have hink (recv : Bool) (f : State → State) : s.ligInk o recv 0 0 f = f s := by
    rw [State.ligInk]
    exact if_pos (by simp)
  have hread : s.sideRead (s.ligAgent o) (o.side false) (o.side false).pos 0 0 = .ok [] s := if_pos rfl
  unfold State.ligLoad
  simp only [hrecv, hsend, Bool.false_eq_true, if_false, hink, hread, State.ligAcc, LigOp.start_barrier hop hcount]

theorem OnlyOps.accessDone {s t : State} (h : OnlyOps s t) (e : Engine) (c : Option CmdRef) : OnlyOps s (t.accessDone e c) := by
  rw [State.accessDone_eq]
  exact ⟨(congrArg (fun u : State => { u with
    groups := t.groups, ligOps := t.ligOps, ligMsgs := t.ligMsgs, dies := (t.accessDone e c).dies }) h.1 :), h.2⟩

/-- A barrier that is alone on the module takes its first step (R315). -/
theorem OnlyOps.ligLoad_barrier {s t : State} {o : LigOp} (h : OnlyOps s t) (hops : t.ligOps = [o]) (hhere : s.allHere o) (hout : o.out = [])
    (hop : o.coll.op = 0x35) (hnone : o.coll.count = 0) :
    OnlyOps s (t.ligLoad o) ∧ (t.ligLoad o).ligOps = [{ o with loaded := true, acc := [] }] := by
  have hdone := h.accessDone (.ligature o.group o.die) (t.ligCmd o)
  have hdoneOps : (t.accessDone (.ligature o.group o.die) (t.ligCmd o)).ligOps = [o] := by
    rw [State.accessDone_eq]
    exact hops
  have hsame : o.same { o with loaded := true, acc := [] } = true := by simp [LigOp.same]
  rw [Claims.ligLoad_barrier hop hnone]
  dsimp only
  split
  · rw [State.putOp_alone hdoneOps hsame]
    exact ⟨hdone.setOps _, rfl⟩
  · obtain ⟨honly, hsent, -⟩ := hdone.stepSends hdoneOps hsame rfl hhere
    exact ⟨honly, hsent.trans (by rw [hout])⟩

/-- A digest round in which no digest differs goes on to the operation's data (R323). -/
theorem OnlyOps.digestDecide_agreed {s t : State} {o : LigOp} (h : OnlyOps s t) (hops : t.ligOps = [o]) (hhere : s.allHere o)
    (hout : o.out = []) (hcount : o.known.count = 0) (hop : o.coll.op = 0x35) (hnone : o.coll.count = 0) :
    OnlyOps s (t.digestDecide o) ∧ (t.digestDecide o).ligOps = [{ o with phase := .data, step := 0, loaded := true, acc := [] }] := by
  have hdecide : t.digestDecide o = (t.putOp { o with phase := .data, step := 0 }).ligLoad { o with phase := .data, step := 0 } := if_pos hcount
  rw [hdecide, State.putOp_alone hops (by simp [LigOp.same])]
  exact (h.setOps _).ligLoad_barrier rfl hhere hout hop hnone

/-- A digest round in which a digest differs ends the operation with MISMATCH, and the entry records the digests (R323, R328). -/
theorem digestDecide_differs {s : State} {g die : Nat} {o : LigOp} {r : CmdRef} {m : Cmd} (h : OnlyOp s g die o r m) (hcount : o.known.count ≠ 0) :
    ((s.digestDecide o).group g).dig0 = o.known.ref ∧ ((s.digestDecide o).group g).digX = o.known.digx ∧
      OpEnds s (s.digestDecide o) o r m 8 (o.known.low + min o.known.count 65535 * 2 ^ 16) := by
  have hrecorded : OnlyOp (s.updGroup o.group (fun g => { g with dig0 := o.known.ref, digX := o.known.digx })) g die o r m :=
    h.of_sansSends rfl
  have hclosed := hrecorded.ligClose 8 (o.known.low + min o.known.count 65535 * 2 ^ 16)
  have hgroups := hrecorded.ligClose_groups 8 (o.known.low + min o.known.count 65535 * 2 ^ 16)
  have hdecide : s.digestDecide o = ((s.updGroup o.group (fun g => { g with dig0 := o.known.ref, digX := o.known.digx })).ligClose o 8
      (o.known.low + min o.known.count 65535 * 2 ^ 16)).ligControl o 2 := if_neg hcount
  rw [hdecide]
  generalize (s.updGroup o.group (fun g => { g with dig0 := o.known.ref, digX := o.known.digx })).ligClose o 8
    (o.known.low + min o.known.count 65535 * 2 ^ 16) = t at hclosed hgroups
  have hgroup : (t.ligControl o 2).groupSansOwed g = { s.group g with dig0 := o.known.ref, digX := o.known.digx, owed := [] } := by
    obtain ⟨-, rfl, -⟩ := h
    have hclosedGroup : t.group o.group = { s.group o.group with dig0 := o.known.ref, digX := o.known.digx } :=
      (congrArg (fun gs : SMap Group => SMap.get gs o.group {}) hgroups :).trans (State.group_updGroup_same ..)
    refine (congrFun (State.sendOwed_groups _ _) _).trans ?_
    rw [State.groupSansOwed, State.group_updGroup_same, hclosedGroup]
  exact ⟨(congrArg Group.dig0 hgroup :), (congrArg Group.digX hgroup :),
    (hclosed.from_sansSends rfl).of_sansSends (t.ligControl_sansSends o 2)⟩

/-- An operation whose steps are over and whose outputs are written ends with OK (R235, R316). -/
theorem ligStep_finishes {s : State} {g die : Nat} {o : LigOp} {r : CmdRef} {m : Cmd} (h : OnlyOp s g die o r m) (hphase : o.phase = .data)
    (hstalled : o.stalled = false) (hloaded : o.loaded = true) (hout : o.out = []) (hwritten : o.segsDone ((s.group g).nm1 + 1) ≤ o.written)
    (hsteps : o.coll.allSteps ((s.group g).nm1 + 1) ≤ o.step) (hacked : ∀ u ∈ s.fab.unacked, u.engine ≠ some (.ligature g die))
    (howed : (s.group g).owed = []) : OpEnds s (s.ligStep g die) o r m 0 0 := by
  have hsent : SameGroups s (s.sendOwed g) := (SameGroups.refl s).sendOwed howed
  have honly := h.of_sansSends hsent.sansSends
  have hn : (s.sendOwed g).ligN o = (s.group g).nm1 + 1 := by
    rw [State.ligN, h.2.1, hsent.2]
  have hfinish : (s.sendOwed g).ligFinish o = (s.sendOwed g).ligClose o 0 0 := by
    rw [State.ligFinish, hsent.1, h.2.1, h.2.2.1]
    exact if_neg (by simpa using hacked)
  have hstep : s.ligStep g die = (s.sendOwed g).ligClose o 0 0 := by
    unfold State.ligStep
    simp only [honly.ligOp (by rw [hphase]; exact nofun), hn, hphase, hstalled, hloaded, hout, bne_self_eq_false, Bool.or_self,
      Bool.false_eq_true, if_false, Bool.not_true, List.isEmpty_nil, show ¬ o.written < o.segsDone ((s.group g).nm1 + 1) by omega, hsteps,
      if_true, hfinish]
  rw [hstep]
  exact (honly.ligClose 0 0).from_sansSends hsent.sansSends

end Sys2Proof.Claims

namespace Sys2Proof.Machine

open Sys2Proof.Claims

/-! Messages of other modules (R317, R321, R323, R325, R327). -/

section
variable {s t : State} {ltype gi : Nat} {msg : List (BitVec 1920)} (htake : s.takeLig ltype = some (msg, gi, t))
include htake

theorem State.takeLig_onlyFab : OnlyFab s t := by
  unfold State.takeLig at htake
  split at htake
  · exact nomatch htake
  · next h =>
    obtain ⟨_, -, heq⟩ := Option.map_eq_some_iff.mp htake
    cases heq
    exact State.takeMsg_onlyFab h

theorem exec_ligatureData_taken (h : ltype = 0) : exec .ligatureData s = .next (t.ligArrive msg gi) := by
  subst h
  rw [exec_ligatureData, execLigatureData, htake]

theorem exec_ligatureDigest_taken (h : ltype = 1) : exec .ligatureDigest s = .next (t.digestArrive msg gi) := by
  subst h
  rw [exec_ligatureDigest, execLigatureDigest, htake]

theorem exec_ligatureAbort_taken (h : ltype = 2) : exec .ligatureAbort s = .next (t.abortArrive msg gi) := by
  subst h
  rw [exec_ligatureAbort, execLigatureAbort, htake]

end

/-- A message that waits for its operation changes the held messages, and its acknowledgement the fabric (R294, R319). -/
theorem sendAck_onlyMsgs {s : State} (f : Fabric) (msgs : List LigMsg) (h : MsgHdr) :
    let t := State.sendAck { s with fab := f, ligMsgs := msgs } h none
    t = { s with ligMsgs := t.ligMsgs, fab := t.fab } ∧ t.ligMsgs = msgs := by
  intro t
  have hack : OnlyFab { s with fab := f, ligMsgs := msgs } t := (State.sendAck_onlyFab ..).1
  have hmsgs : t.ligMsgs = msgs := by rw [hack]
  refine ⟨?_, hmsgs⟩
  rw [hmsgs]
  exact hack

/-- No operation of the group is on the module: a message finds none. -/
theorem State.ligOpOf_none {s : State} {gi : Nat} (h : ∀ x ∈ s.ligOps, x.group ≠ gi) (die : Nat) (hdr : MsgHdr) : s.ligOpOf gi die hdr = none := by
  refine List.find?_eq_none.mpr fun x hx hfound => h x hx ?_
  simp only [Bool.and_eq_true, beq_iff_eq] at hfound
  exact hfound.1.1

section
variable {s : State} {gi q rank d : Nat} {msg : List (BitVec 1920)} (hfrom : (s.group gi).rankFrom (msgHdr msg) = some q)
  (hlocal : s.localRanks (s.group gi) = [(rank, d)])
include hfrom hlocal

/-- Data for a group with no operation here waits for the operation if it has not been launched (R313, R319). -/
theorem State.ligArrive_ahead (hops : ∀ x ∈ s.ligOps, x.group ≠ gi) (hcheck : (s.window (msgHdr msg).window).check (msgHdr msg).srcgrp
    (msgHdr msg).offset (msgPayload msg).length true true false = none) :
    s.ligArrive msg gi = State.sendAck { s with ligMsgs := s.ligMsgs ++
      if ((s.group gi).futureOp d (msgHdr msg).lig.opseq).isSome then
        [{ group := gi, die := d, opseq := (msgHdr msg).lig.opseq, step := (msgHdr msg).lig.step, digest := false, src := q
           pos := (msgHdr msg).offset, rel := false, dig := none, data := msgPayload msg }]
      else [] } (msgHdr msg) none := by
  unfold State.ligArrive
  simp only [hfrom, hlocal, List.filterMap_cons, List.filterMap_nil, State.ligOpOf_none hops, List.filter_nil, List.any_nil, hcheck,
    List.isEmpty_nil, if_true, List.map_nil, List.nil_append, List.filter_cons]
  split
  · rfl
  · rw [List.append_nil]
    rfl

/-- Data that its window refuses is reported, and no more (R222, R321). -/
theorem State.ligArrive_refused (hops : ∀ x ∈ s.ligOps, x.group ≠ gi) {reason : Nat}
    (hcheck : (s.window (msgHdr msg).window).check (msgHdr msg).srcgrp (msgHdr msg).offset (msgPayload msg).length true true false =
      some reason) : s.ligArrive msg gi = s.ligRefuse (msgHdr msg) gi reason := by
  unfold State.ligArrive
  simp only [hfrom, hlocal, List.filterMap_cons, List.filterMap_nil, State.ligOpOf_none hops, List.filter_nil, List.any_nil, hcheck]

/-- A summary is held for the member that receives it (R323). -/
theorem State.digestArrive_held {b : Nat × Nat}
    (hexpects : doubling ((s.group gi).nm1 + 1) (msgHdr msg).lig.step q rank = some b) (hnone : s.ligMsgs = []) :
    s.digestArrive msg gi = State.sendAck { s with ligMsgs :=
      [{ group := gi, die := d, opseq := (msgHdr msg).lig.opseq, step := (msgHdr msg).lig.step, digest := true, src := q, pos := 0
         rel := true, dig := none, data := msgPayload msg }] } (msgHdr msg) none := by
  unfold State.digestArrive
  simp only [hfrom, hlocal, List.foldl_cons, List.foldl_nil, hexpects, hnone, List.any_nil, Bool.false_eq_true, if_false, State.depositLig,
    List.nil_append]

end

/-- A refusal changes no message that is held, and no operation (R222). -/
theorem State.refuse_lig (s : State) (h : MsgHdr) (reason : Nat) :
    (s.refuse h reason).ligMsgs = s.ligMsgs ∧ (s.refuse h reason).ligOps = s.ligOps := by
  have hack (t : State) (r : Option Nat) : (t.sendAck h r).ligMsgs = t.ligMsgs ∧ (t.sendAck h r).ligOps = t.ligOps := by
    rw [(t.sendAck_onlyFab h r).1]
    exact ⟨rfl, rfl⟩
  unfold State.refuse
  dsimp only
  split
  · next n _ =>
    have hrecord := s.record_sansHost n (recordBytes h.offset 0 2 reason (h.src * 1024 + h.queue / 512 % 32 * 32 + 31) 0 0 h.window)
    rw [(hack _ _).1, (hack _ _).2]
    exact ⟨(congrArg State.ligMsgs hrecord :), (congrArg State.ligOps hrecord :)⟩
  · exact hack s _

/-- With no operation of the group here a refusal ends none (R254). -/
theorem State.ligRefuse_idle {s : State} {gi : Nat} (hops : ∀ x ∈ s.ligOps, x.group ≠ gi) (h : MsgHdr) (reason : Nat) :
    s.ligRefuse h gi reason = s.refuse h reason := by
  have hnone : (s.refuse h reason).ligOps.filter (fun o => o.group == gi && o.phase != .queued) = [] := by
    rw [(s.refuse_lig h reason).2]
    refine List.filter_eq_nil_iff.mpr fun x hx hfound => hops x hx ?_
    simp only [Bool.and_eq_true, beq_iff_eq] at hfound
    exact hfound.1
  unfold State.ligRefuse
  dsimp only
  rw [hnone]
  exact ite_self _

/-- Outside the digest round a step of it only sends what the group owes (R323). -/
theorem State.digestStep_other {s : State} (h : ∀ x ∈ s.ligOps, x.phase ≠ .digest) (gi die : Nat) : s.digestStep gi die = s.sendOwed gi := by
  have hops : (s.sendOwed gi).ligOps = s.ligOps := (congrArg State.ligOps (s.sendOwed_sansSends gi) :)
  unfold State.digestStep
  dsimp only
  split
  · rfl
  · next o ho =>
    rw [State.ligOp, hops] at ho
    exact if_pos (bne_iff_ne.mpr (h o (List.mem_of_find?_eq_some ho)))

end Sys2Proof.Machine

namespace Sys2Proof.Claims

open Sys2Proof.Machine

/-- An abort ends the operation that it names (R327). -/
theorem OnlyOp.ligAborted {s : State} {g die : Nat} {o : LigOp} {r : CmdRef} {m : Cmd} (h : OnlyOp s g die o r m) {opseq : Nat}
    (hseq : opseq = o.opseq % 65536) (rank : Nat) : OpEnds s (s.ligAborted g opseq rank) o r m 10 (peerDetail rank 2) := by
  unfold State.ligAborted
  extract_lets later s1
  have honly : OnlyOp s1 g die o r m := h.of_sansSends rfl
  have hfound : s1.ligOps.filter (fun o => o.group == g && o.opseq % 65536 == opseq % 65536) = [o] := by
    rw [honly.1, List.filter_cons_of_pos (by simp [h.2.1, hseq]), List.filter_nil]
  rw [hfound]
  exact ((honly.ligClose 10 (peerDetail rank 2)).from_sansSends (s := s) rfl).of_sansSends (State.ligControl_sansSends ..)

/-- An abort of another module ends the operation with PEER_LOST (R327). -/
theorem OnlyOp.abortArrive {s : State} {g die : Nat} {o : LigOp} {r : CmdRef} {m : Cmd} (h : OnlyOp s g die o r m) (hphase : o.phase ≠ .digest)
    {msg : List (BitVec 1920)} (hseq : (msgHdr msg).lig.opseq = o.opseq % 65536) :
    OpEnds s (s.abortArrive msg g) o r m 10 (peerDetail (((s.group g).rankFrom (msgHdr msg)).getD 0) 2) := by
  unfold State.abortArrive
  extract_lets hdr entry u
  have hu : u.sansSends = s.sansSends := by
    refine List.foldlRecOn (motive := fun t : State => t.sansSends = s.sansSends) _ _ rfl fun t ht x _ => ?_
    have hdone (v : State) (hv : v.sansSends = s.sansSends) : (v.digestStep g x.2).sansSends = s.sansSends := by
      have hops : v.ligOps = [o] := (congrArg State.ligOps hv :).trans h.1
      have hother : ∀ y ∈ v.ligOps, y.phase ≠ .digest := by
        rw [hops]
        exact fun y hy => List.mem_singleton.mp hy ▸ hphase
      rw [State.digestStep_other hother]
      exact (v.sendOwed_sansSends g).trans hv
    split
    · split
      · exact List.foldlRecOn (motive := fun t : State => t.sansSends = s.sansSends) _ _ ht fun v hv _ _ => hdone v hv
      · exact ht
    · exact ht
  have hsends : (State.sendAck (u.ligAborted g hdr.lig.opseq ((entry.rankFrom hdr).getD 0)) hdr none).sansSends =
      (u.ligAborted g hdr.lig.opseq ((entry.rankFrom hdr).getD 0)).sansSends := (State.sendAck_onlyFab ..).1.sansSends
  exact OpEnds.of_sansSends (((h.of_sansSends hu).ligAborted hseq _).from_sansSends hu) hsends

/-- A deferral notice pauses the timers of its group (R325, R326). -/
theorem State.deferArrive_pauses {s t : State} {ltype gi : Nat} {msg : List (BitVec 1920)} (htake : s.takeLig ltype = some (msg, gi, t)) :
    s.deferArrive ltype = { s with groups := (s.deferArrive ltype).groups, fab := (s.deferArrive ltype).fab } ∧
      (s.deferArrive ltype).group gi = { s.group gi with paused := true } := by
  have hfab := State.takeLig_onlyFab htake
  have harrive : s.deferArrive ltype = (t.updGroup gi (fun g => { g with paused := true })).sendAck (msgHdr msg) none := by
    simp only [State.deferArrive, htake]
  have hack := (State.sendAck_onlyFab (t.updGroup gi (fun g => { g with paused := true })) (msgHdr msg) none).1
  rw [← harrive] at hack
  refine ⟨sansSends_rest (hack.sansSends.trans hfab.sansSends), ?_⟩
  have hgroup : t.group gi = s.group gi := (congrArg (fun gs : SMap Group => SMap.get gs gi {}) hfab.groups :)
  refine (congrArg (fun gs : SMap Group => SMap.get gs gi {}) hack.groups :).trans ?_
  exact (State.group_updGroup_same ..).trans (congrArg (fun g : Group => { g with paused := true }) hgroup)

/-- Settles O53: the steps of the operation that is alone (`OnlyOps.stepSends`, `OnlyOps.digestDecide_agreed`, `digestDecide_differs`,
`ligStep_finishes`) and messages of other modules (`State.ligArrive_ahead`, `State.digestArrive_held`, `OnlyOp.abortArrive`). -/
theorem collectiveStepsComplete : Obligations.CollectiveStepsComplete := by
  unfold Obligations.CollectiveStepsComplete
  refine ⟨fun a b base size ha hb => ⟨fun href => DigestSum.join_same ha hb href base size,
    fun href => DigestSum.join_differ ha hb href base size⟩, ?_⟩
  intro s group die o r m msg s1 q rank d i g n only here k one h taken onlyMsgs onlyOps digestRound
  have hn (honly : only) : s.ligN o = n := by rw [State.ligN, honly.2.1]
  have hallHere (honly : only) (hhere : here) : s.allHere o := by
    intro j hj
    rw [honly.2.1]
    exact hhere j (hn honly ▸ hj)
  have hsent (howed : g.owed = []) : SameGroups s (s.sendOwed i) := (SameGroups.refl s).sendOwed howed
  refine ⟨fun honly hphase hstarted htrusted hhere => ?_, fun honly hphase hstarted => ?_,
    fun x xs hround hhere howed hsources hfrom hstep => ?_, fun hround hhere howed hstep hop hcount hink hagreed => ?_,
    fun hround hstep hdiffers => ?_, fun honly hphase hstalled hloaded hout hwritten hsteps hacked howed => ?_,
    fun htake hops hfrom hlocal hcheck => ?_, fun reason htake hops hfrom hlocal hcheck => ?_,
    fun base size htake hfrom hlocal hexpects hnone => ?_, fun honly hphase htake hseq => ?_,
    fun htake => ⟨_, exec_thermalDefer s, State.deferArrive_pauses htake⟩, fun htake => ⟨_, exec_faultDefer s, State.deferArrive_pauses htake⟩⟩
  · have htrusted' : ¬ (s.group i).trusted = true := by rw [htrusted]; exact Bool.false_ne_true
    refine ⟨_, congrArg Host.Outcome.next ((opStart_alone honly hphase).trans ((if_pos hstarted).trans (if_neg htrusted'))), ?_⟩
    obtain ⟨hframe, hopened, hhanded⟩ := (SameGroups.refl s).onlyOps.stepSends (p := { o with phase := .digest, known := one }) honly.1
      (by simp [LigOp.same]) rfl (hallHere honly hhere)
    refine ⟨hframe, hopened, fun j hj hexpects => ⟨_, hhanded j one.bytes (hn honly ▸ hj) ?_, honly.2.1, ?_, rfl, rfl, rfl⟩⟩
    · obtain ⟨b, hb⟩ := Option.ne_none_iff_exists'.mp hexpects
      rw [ligGives_digest rfl, show s.ligN { o with phase := .digest, known := one } = n from hn honly, hb]
      rfl
    · exact congrArg (fun i : Nat => ((s.group i).ranks.getD j (0, 0)).2) honly.2.1
  · refine ⟨_, congrArg Host.Outcome.next ((opStart_alone honly hphase).trans (if_neg (by rw [hstarted]; exact Bool.false_ne_true))), rfl⟩
  · obtain ⟨honly, hphase, hout⟩ := hround
    refine ⟨_, congrArg Host.Outcome.next (digestStep_goesOn honly hphase hout hsources hfrom (hn honly ▸ hstep) (hsent howed)), ?_⟩
    rw [hn honly]
    have hlearn (d : DigestSum) : o.same (o.learn n d) = true := by simp [LigOp.same, LigOp.learn]
    have hused := ((hsent howed).onlyOps.ligUsed o [q])
    rw [State.putOp_alone (s := (s.sendOwed i).ligUsed o [q]) ((hsent howed).ligOps.trans honly.1) (hlearn _)]
    have hhere' : s.allHere (o.learn n (DigestSum.parse x.data)) := hallHere honly hhere
    obtain ⟨hframe, hopened, -⟩ := (hused.setOps [o.learn n (DigestSum.parse x.data)]).stepSends rfl (by simp [LigOp.same]) rfl hhere'
    exact ⟨hframe, hopened⟩
  · obtain ⟨honly, hphase, hout⟩ := hround
    refine ⟨_, congrArg Host.Outcome.next (digestStep_decides honly hphase hout hstep), ?_⟩
    exact (hsent howed).onlyOps.digestDecide_agreed ((hsent howed).ligOps.trans honly.1) (hallHere honly hhere) hout hagreed hop hcount
  · obtain ⟨honly, hphase, hout⟩ := hround
    refine ⟨_, congrArg Host.Outcome.next (digestStep_decides honly hphase hout hstep), ?_⟩
    obtain ⟨hdig0, hdigX, hends⟩ := digestDecide_differs (honly.of_sansSends (s.sendOwed_sansSends i)) hdiffers
    exact ⟨hdig0, hdigX, hends.from_sansSends (s.sendOwed_sansSends i)⟩
  · exact ⟨_, exec_ligStepEnd .., ligStep_finishes honly hphase hstalled hloaded hout hwritten hsteps hacked howed⟩
  · have hexec := exec_ligatureData_taken htake rfl
    obtain ⟨f, rfl⟩ : ∃ f, s1 = { s with fab := f } := ⟨_, State.takeLig_onlyFab htake⟩
    have harrive := State.ligArrive_ahead (s := { s with fab := f }) hfrom hlocal hops hcheck
    refine ⟨fun hahead => ⟨_, hexec, ?_⟩, fun hnone => ⟨_, hexec, ?_⟩⟩
    · have hahead' : ((({ s with fab := f } : State).group i).futureOp d (msgHdr msg).lig.opseq).isSome = true := hahead
      rw [harrive, if_pos hahead']
      exact sendAck_onlyMsgs f _ _
    · have hnone' : (({ s with fab := f } : State).group i).futureOp d (msgHdr msg).lig.opseq = none := hnone
      rw [harrive, if_neg (by rw [hnone']; exact nofun), List.append_nil]
      exact sendAck_onlyMsgs f _ _
  · have hexec := exec_ligatureData_taken htake rfl
    obtain ⟨f, rfl⟩ : ∃ f, s1 = { s with fab := f } := ⟨_, State.takeLig_onlyFab htake⟩
    have harrive := (State.ligArrive_refused (s := { s with fab := f }) hfrom hlocal hops hcheck).trans
      (State.ligRefuse_idle (s := { s with fab := f }) hops h reason)
    obtain ⟨hmsgs, hligOps⟩ := State.refuse_lig { s with fab := f } h reason
    rw [harrive] at hexec
    exact ⟨_, hexec, hmsgs, hligOps, (State.refuse_frame { s with fab := f } h reason).2⟩
  · have hexec := exec_ligatureDigest_taken htake rfl
    obtain ⟨f, rfl⟩ : ∃ f, s1 = { s with fab := f } := ⟨_, State.takeLig_onlyFab htake⟩
    rw [State.digestArrive_held (s := { s with fab := f }) hfrom hlocal hexpects hnone] at hexec
    exact ⟨_, hexec, sendAck_onlyMsgs f _ _⟩
  · have hexec := exec_ligatureAbort_taken htake rfl
    have hfab := State.takeLig_onlyFab htake
    refine ⟨_, hexec, ?_⟩
    obtain ⟨f, rfl⟩ : ∃ f, s1 = { s with fab := f } := ⟨_, hfab⟩
    exact ((honly.of_sansSends hfab.sansSends).abortArrive hphase hseq).from_sansSends hfab.sansSends

end Sys2Proof.Claims
end
